-- ==== Sys2Proof/Word.lean ====
section
/-! DEFINITION. The bit-vector words of the ZVN-8576LQ as the manual names them (R16, R32, R353). -/

namespace Sys2Proof

/-- A byte of memory or of a record. -/
abbrev Byte := BitVec 8
/-- A 16-bit field. -/
abbrev Half := BitVec 16
/-- A 32-bit field, lane, index register or slate count. -/
abbrev Word := BitVec 32
/-- A 64-bit field or instruction word. -/
abbrev Dword := BitVec 64

/-- A core window: `(die × 8 + cluster) × 17 + physical core` (R487). -/
abbrev CoreIx := Fin 544
/-- A cluster: `die × 8 + cluster` (R509). -/
abbrev ClusterIx := Fin 32
/-- A compute die. -/
abbrev DieIx := Fin 4
/-- An OzLink port (R522). -/
abbrev PortIx := Fin 20
/-- A completion queue (R513). -/
abbrev QueueIx := Fin 64
/-- An HBM channel (R394). -/
abbrev ChannelIx := Fin 256
/-- A DMA engine: 0 to 31 the clusters', 32 to 35 the I/O die's (R416). -/
abbrev EngineIx := Fin 36
/-- A mail slot (R438). -/
abbrev MailIx := Fin 128
/-- A gaffer island (R599). -/
abbrev IslandIx := Fin 1126
/-- A video decode engine. -/
abbrev DecIx := Fin 16
/-- An intake slot of BAR2 (R488). -/
abbrev IntakeIx := Fin 4096
/-- A slate ID (R350): die in bits [16:15], index in [14:0]. -/
abbrev SlateIx := Fin 131072
/-- A stream context (R453). -/
abbrev StreamIx := Fin 512

/-- A sparse table: pairs of an index and an entry, indices strictly rising; an index not listed
holds the table's default, which its reader names. -/
abbrev Tab (α : Type) := List (Nat × α)

end Sys2Proof
end

