-- ==== Sys2Proof/Syntax.lean ====
section
/-! DEFINITION. The commands. -/

namespace Sys2Proof

/-- A page of a root take as its layer names it (R31): take-window offset, log2 of its size minus 12, device address,
and whether it holds KV. -/
structure RootPage where
  offset : BitVec 36
  size   : BitVec 5
  page   : BitVec 57
  kv     : Bool
  deriving DecidableEq, Repr

/-- A bank that fails a march test: its kind (0 scratchpad, 1 operand cache, 2 cluster memory), its core window or
cluster, its number, and the first failing 64-bit word (R389, R392). -/
structure SramFail where
  kind : BitVec 2
  unit : Half
  bank : Byte
  word : Half
  deriving DecidableEq, Repr

/-- Damage a decode engine met in a frame (R470, R471): error kind, bitstream offset of the first error, the size of a
coded block in luma samples, and the damaged blocks as column and row, the first first. -/
structure FrameDamage where
  kind   : BitVec 3
  byte   : Dword
  bw     : Byte
  bh     : Byte
  blocks : List (Half × Half)
  deriving DecidableEq, Repr

/-- What a decode engine makes of one coded frame; the codecs themselves are other documents (R449). `sampling` is 0 for
4:2:0, 1 for 4:2:2, 2 for 4:4:0, 3 for 4:4:4 and 4 for monochrome; the planes hold samples as coded. `lost` says that the
frame's header was lost. -/
structure DecodedFrame where
  shown    : Bool
  rap      : Bool
  lost     : Bool
  sampling : BitVec 3
  deep     : Bool
  grain    : Bool
  width    : Half
  height   : Half
  y        : List Half
  cb       : List Half
  cr       : List Half
  consumed : Word
  damage   : Option FrameDamage
  deriving DecidableEq, Repr

/-- The header of a received frame (R526) but its TYPE, which the command names. `rsvd` says that a reserved bit is not
zero, `credit` that the frame came under credit of its VC. -/
structure FrameHdr where
  vc     : BitVec 2
  epar   : Bool
  dst    : BitVec 12
  src    : BitVec 12
  tag    : Half
  hops   : BitVec 4
  len    : BitVec 5
  flow   : Byte
  status : BitVec 4
  addr   : BitVec 40
  rsvd   : Bool
  credit : Bool
  deriving DecidableEq, Repr

/-- What a HELLO carries (R529); `lowest` is none where the device knows no candidate. -/
structure HelloData where
  uid      : BitVec 128
  port     : BitVec 5
  role     : BitVec 2
  domain   : Dword
  id       : BitVec 12
  assigned : Bool
  lowest   : Option (BitVec 128)
  epoch    : Word
  state    : BitVec 3
  deriving DecidableEq, Repr

/-- What a LINK_REPORT carries (R527, R534): the reporting device, its fabric ID where it has one, a port of it, whether
its link is usable, and the partner's UID. -/
structure LinkData where
  uid     : BitVec 128
  id      : Option (BitVec 12)
  port    : BitVec 5
  usable  : Bool
  partner : BitVec 128
  deriving DecidableEq, Repr

/-- A routing entry as TABLE carries it (R535, R550). -/
structure RouteData where
  dst   : BitVec 12
  ports : BitVec 20
  dist  : BitVec 4
  valid : Bool
  deriving DecidableEq, Repr

/-- What a plan or a re-plan measures of an island (R610, R611): the slack of each trial in turn, in ps, signed, and the ratio
of its ring oscillators. A trial not listed meets its target. -/
structure IslandTrials where
  island : Fin 1126
  slacks : List Half
  ratio  : Half
  deriving DecidableEq, Repr

/-- A fault key (R545). -/
structure FaultKey where
  subject : BitVec 12
  cls     : Byte
  epoch   : Word
  deriving DecidableEq, Repr

/-- The commands, one constructor per row of the opcode table: host commands in their turn, by sequence number; core
instructions, by core window and instruction word; the protocol traffic, register writes and events of every unit. -/
inductive Instr where
  /-- LOAD_PROGRAM (R506). -/
  | loadProgram (seq : Word)
  /-- UNLOAD (R507). -/
  | unload (seq : Word)
  /-- RUN_KERNEL (R499). -/
  | runKernel (seq : Word)
  /-- RUN_GRAPH (R499). -/
  | runGraph (seq : Word)
  /-- FORK_TAKE (R50). -/
  | forkTake (seq : Word)
  /-- ADVANCE_TAKES (R58). -/
  | advanceTakes (seq : Word)
  /-- CUT_TAKES (R63). -/
  | cutTakes (seq : Word)
  /-- PRUNE_TAKE (R68). -/
  | pruneTake (seq : Word)
  /-- EXPORT_REEL (R120). -/
  | exportReel (seq : Word)
  /-- IMPORT_REEL (R126). -/
  | importReel (seq : Word)
  /-- RESET_REELS (R127). -/
  | resetReels (seq : Word)
  /-- RESET_REELS_CREATE (R127). -/
  | resetReelsCreate (seq : Word)
  /-- RESET_REELS_RELEASE (R127). -/
  | resetReelsRelease (seq : Word)
  /-- OPEN_STREAM (R460). -/
  | openStream (seq : Word)
  /-- CLOSE_STREAM (R462). -/
  | closeStream (seq : Word)
  /-- DMA_COPY (R437). -/
  | dmaCopy (seq : Word)
  /-- DMA_COPY_DESC (R437). -/
  | dmaCopyDesc (seq : Word)
  /-- SLATE_OP_WAIT (R358). -/
  | slateOpWait (seq : Word)
  /-- SLATE_OP_WAITEQ (R358). -/
  | slateOpWaiteq (seq : Word)
  /-- SLATE_OP_SIGNAL (R358). -/
  | slateOpSignal (seq : Word)
  /-- SLATE_OP_ADD (R358). -/
  | slateOpAdd (seq : Word)
  /-- SLATE_OP_FADD (R358). -/
  | slateOpFadd (seq : Word)
  /-- SLATE_OP_CAS (R358). -/
  | slateOpCas (seq : Word)
  /-- SLATE_OP_READ (R358). -/
  | slateOpRead (seq : Word)
  /-- SLATE_OP_SET (R358). -/
  | slateOpSet (seq : Word)
  /-- MIGRATE_HINT (R378). -/
  | migrateHint (seq : Word)
  /-- FENCE_CORE (R631). -/
  | fenceCore (seq : Word)
  /-- FENCE_CORE_DRAIN (R630). -/
  | fenceCoreDrain (seq : Word)
  /-- QUERY_DEVICE (R509). -/
  | queryDevice (seq : Word)
  /-- QUERY_TAKE (R35). -/
  | queryTake (seq : Word)
  /-- QUERY_REEL (R92). -/
  | queryReel (seq : Word)
  /-- QUERY_SEQUENCE (R136). -/
  | querySequence (seq : Word)
  /-- INTAKE_WRITE (R489). -/
  | intakeWrite (off : BitVec 20) (data : List Byte) (poisoned : Bool)
  /-- RECEIPT_READ (R495). -/
  | receiptRead (off : BitVec 20) (len : Nat)
  /-- PARTIAL_TIMEOUT (R495). -/
  | partialTimeout (slot : IntakeIx)
  /-- SCHEDULING_PASS (R331). -/
  | schedulingPass
  /-- PIECE_DISPATCH (R317). -/
  | pieceDispatch (seq : Word)
  /-- SLICE_START (R343). -/
  | sliceStart (seq : Word)
  /-- STAGE_DISPATCH (R380). -/
  | stageDispatch (seq : Word) (stage : Half)
  /-- HOLD_LIMIT_EXPIRY (R332). -/
  | holdLimitExpiry (seq : Word)
  /-- QUANTUM_EXPIRY (R342). -/
  | quantumExpiry (seq : Word)
  /-- SAVE_COMPLETE (R339). -/
  | saveComplete (seq : Word) (layer : Half)
  /-- RESTORE_COMPLETE (R340). -/
  | restoreComplete (seq : Word) (layer : Half)
  /-- KERNEL_COMPLETE (R324). -/
  | kernelComplete (seq : Word) (layer : Half)
  /-- COMPLETION_RECORD_VISIBLE (R513). -/
  | completionRecordVisible (q : QueueIx) (accepted : Bool)
  /-- MSIX_HOLDOFF_EXPIRY (R517). -/
  | msixHoldoffExpiry (q : QueueIx)
  /-- HIF_CQ_CONS_WRITE (R516). -/
  | hifCqConsWrite (q : QueueIx) (value : Word)
  /-- HIF_CQ_CTL_WRITE (R514). -/
  | hifCqCtlWrite (q : QueueIx) (value : Word)
  /-- MSIX_VECTOR_UNMASK (R517). -/
  | msixVectorUnmask (v : QueueIx) (ctl : Word)
  /-- CXL_MEM_WRITE (R518). -/
  | cxlMemWrite (line : BitVec 34) (data : BitVec 512) (poisoned : Bool)
  /-- CXL_MEM_READ (R484). -/
  | cxlMemRead (line : BitVec 34)
  /-- CONFIG_REQUEST (R556). -/
  | configRequest (reg : BitVec 10) (write : Bool)
  /-- MALFORMED_TLP (R518). -/
  | malformedTlp
  /-- UNSUPPORTED_REQUEST (R518). -/
  | unsupportedRequest (addr : Dword)
  /-- REGISTER_WRITE (R18). -/
  | registerWrite (dword : BitVec 24) (value : Word) (poisoned : Bool)
  /-- GET_VERSION (R572). -/
  | getVersion
  /-- GET_CAPABILITIES (R572). -/
  | getCapabilities
  /-- NEGOTIATE_ALGORITHMS (R572). -/
  | negotiateAlgorithms (meets : Bool)
  /-- GET_DIGESTS (R572). -/
  | getDigests
  /-- GET_CERTIFICATE (R572). -/
  | getCertificate (slot1 : Bool) (offset length : Half)
  /-- CHALLENGE (R572). -/
  | challenge (nonce : BitVec 256)
  /-- GET_MEASUREMENTS (R573). -/
  | getMeasurements (index : Byte) (signed : Bool) (nonce : BitVec 256)
  /-- KEY_EXCHANGE (R572). -/
  | keyExchange (share : List Byte)
  /-- FINISH (R572). -/
  | finish (verified : Bool)
  /-- END_SESSION (R572). -/
  | endSession
  /-- IDE_KM (R483). -/
  | ideKm (op : BitVec 2) (mem : Bool)
  /-- MATMUL (R186). -/
  | matmul (w : CoreIx) (word : Dword)
  /-- ATTEND (R194). -/
  | attend (w : CoreIx) (word : Dword)
  /-- AWAIT (R182). -/
  | await (w : CoreIx) (word : Dword)
  /-- ARRAY_LAST_OUTPUT (R182). -/
  | arrayLastOutput (w : CoreIx)
  /-- CONV (R231). -/
  | conv (w : CoreIx) (word : Dword)
  /-- POOL (R240). -/
  | pool (w : CoreIx) (word : Dword)
  /-- HALO (R243). -/
  | halo (w : CoreIx) (word : Dword)
  /-- HALO_DONE (R243). -/
  | haloDone (w : CoreIx)
  /-- EDGE_PREP (R250). -/
  | edgePrep (w : CoreIx) (word : Dword)
  /-- EDGE_CONV (R258). -/
  | edgeConv (w : CoreIx) (word : Dword)
  /-- EDGE_JOB_DONE (R247). -/
  | edgeJobDone (n : ClusterIx) (pred : Option (List Half))
  /-- EPRUN (R286). -/
  | eprun (w : CoreIx) (word : Dword)
  /-- VOP (R266). -/
  | vop (w : CoreIx) (word : Dword)
  /-- VCVT (R270). -/
  | vcvt (w : CoreIx) (word : Dword)
  /-- VRED (R280). -/
  | vred (w : CoreIx) (word : Dword)
  /-- VSCORE (R283). -/
  | vscore (w : CoreIx) (word : Dword)
  /-- VCMP (R269). -/
  | vcmp (w : CoreIx) (word : Dword)
  /-- VLD (R272). -/
  | vld (w : CoreIx) (word : Dword)
  /-- VST (R272). -/
  | vst (w : CoreIx) (word : Dword)
  /-- VSETX (R274). -/
  | vsetx (w : CoreIx) (word : Dword)
  /-- VLOOP (R278). -/
  | vloop (w : CoreIx) (word : Dword)
  /-- VRAND (R281). -/
  | vrand (w : CoreIx) (word : Dword)
  /-- SLATE_WAIT (R354). -/
  | slateWait (w : CoreIx) (word : Dword)
  /-- SLATE_WAITEQ (R354). -/
  | slateWaiteq (w : CoreIx) (word : Dword)
  /-- SLATE_SIGNAL (R354). -/
  | slateSignal (w : CoreIx) (word : Dword)
  /-- SLATE_ADD (R354). -/
  | slateAdd (w : CoreIx) (word : Dword)
  /-- SLATE_FADD (R354). -/
  | slateFadd (w : CoreIx) (word : Dword)
  /-- SLATE_CAS (R354). -/
  | slateCas (w : CoreIx) (word : Dword)
  /-- SLATE_READ (R354). -/
  | slateRead (w : CoreIx) (word : Dword)
  /-- SLATE_SET (R354). -/
  | slateSet (w : CoreIx) (word : Dword)
  /-- SLATE_WAKE (R355). -/
  | slateWake (w : CoreIx)
  /-- SLATE_WAIT_LIMIT (R355). -/
  | slateWaitLimit (w : CoreIx)
  /-- SLATE_OP_LIMIT (R358). -/
  | slateOpLimit (seq : Word)
  /-- DMAQ (R422). -/
  | dmaq (w : CoreIx) (word : Dword)
  /-- PERFRD (R596). -/
  | perfrd (w : CoreIx) (word : Dword)
  /-- RESERVED_INSTRUCTION (R268). -/
  | reservedInstruction (w : CoreIx) (word : Dword)
  /-- RAMP_GRANT (R174). -/
  | rampGrant (w : CoreIx)
  /-- ROOT_TAKE_REGISTER (R31). -/
  | rootTakeRegister (seq : Word) (set : BitVec 12) (cls : Bool) (seed : BitVec 128) (pages : List RootPage) (tokens : Word) (reels : List Word)
  /-- COW_FAULT (R41). -/
  | cowFault (n : Half)
  /-- PAGE_COPY_COMPLETE (R41). -/
  | pageCopyComplete (n : Half)
  /-- COUNT_UPDATE (R39). -/
  | countUpdate (unit : Fin 8)
  /-- STEP_BOUNDARY (R48). -/
  | stepBoundary (seq : Word)
  /-- CHUNK_DISPATCH (R115). -/
  | chunkDispatch (seq : Word)
  /-- CHUNK_FOLD (R105). -/
  | chunkFold (seq : Word)
  /-- REEL_SWAP_IN_DONE (R114). -/
  | reelSwapInDone (reel : Half)
  /-- REEL_SWAP_OUT_DONE (R114). -/
  | reelSwapOutDone (reel : Half)
  /-- SHELF_MOVE_DONE (R97). -/
  | shelfMoveDone (reel : Half)
  /-- BATCH_STEP_BOUNDARY (R153). -/
  | batchStepBoundary (seq : Word) (n : Half)
  /-- SWAP_OUT_PAGE_DONE (R159). -/
  | swapOutPageDone (n : Half)
  /-- MIGRATION_COPY_DONE (R375). -/
  | migrationCopyDone (n : Half)
  /-- DEMOTION (R376). -/
  | demotion
  /-- ALLOC (R371). -/
  | alloc (count : BitVec 24)
  /-- MAP (R371). -/
  | map (count : BitVec 24)
  /-- UNMAP (R371). -/
  | unmap (count : BitVec 24)
  /-- PROTECT (R371). -/
  | protect (count : BitVec 24)
  /-- PIN (R371). -/
  | pin (count : BitVec 24)
  /-- MAP_DRAIN_DONE (R372). -/
  | mapDrainDone
  /-- PREFETCH_ENTRY_COMPLETE (R380). -/
  | prefetchEntryComplete (seq : Word) (ix : Half)
  /-- PREFETCH_DECISION_POINT (R381). -/
  | prefetchDecisionPoint (seq : Word) (ix : Half) (landed : Word)
  /-- RETENTION_ENTRY (R386). -/
  | retentionEntry (kind : BitVec 2) (unit : Half) (bank : Byte)
  /-- BANK_WAKE (R387). -/
  | bankWake (kind : BitVec 2) (unit : Half) (bank : Byte)
  /-- MARCH_TEST_START (R390). -/
  | marchTestStart (ctl : Word)
  /-- MARCH_TEST_DONE (R390). -/
  | marchTestDone (fails : List SramFail)
  /-- BG_TEST_REGION (R391). -/
  | bgTestRegion (failed : Bool) (word : Half)
  /-- HBM_REFRESH (R411). -/
  | hbmRefresh (c : ChannelIx) (pc : Bool)
  /-- SCRUB_STEP (R406). -/
  | scrubStep (errs : List (Fin 72 × Byte))
  /-- WRITE_BATCH_DRAIN (R409). -/
  | writeBatchDrain (c : ChannelIx) (pc : Bool)
  /-- SOFT_REPAIR (R408). -/
  | softRepair (ctl : Word)
  /-- HARD_REPAIR_REQUEST (R407). -/
  | hardRepairRequest (ctl : Word)
  /-- CHANNEL_FAILED (R401). -/
  | channelFailed (c : ChannelIx) (trainLost : Bool)
  /-- REPAIR_RECORD_WRITE (R659). -/
  | repairRecordWrite
  /-- DMA_BURST_GRANT (R424). -/
  | dmaBurstGrant (e : EngineIx)
  /-- REQUEST_LINE_ASSERT (R427). -/
  | requestLineAssert (e : EngineIx) (line : Byte)
  /-- DMA_DESCRIPTOR_COMPLETE (R432). -/
  | dmaDescriptorComplete (e : EngineIx) (c : Fin 32)
  /-- DMA_CQ_CONS_WRITE (R434). -/
  | dmaCqConsWrite (e : EngineIx) (value : Word)
  /-- MAIL_SLOT_WRITE (R439). -/
  | mailSlotWrite (m : MailIx) (data : List Byte) (fin : Bool)
  /-- MAIL_SLOT_READ (R442). -/
  | mailSlotRead (m : MailIx)
  /-- MAIL_SLOT_IDLE (R445). -/
  | mailSlotIdle (m : MailIx)
  /-- MAIL_SLOT_FLUSH (R446). -/
  | mailSlotFlush (m : MailIx)
  /-- FRAME_DECODED (R455). -/
  | frameDecoded (e : DecIx) (f : DecodedFrame)
  /-- BITSTREAM_PRODUCER_ADVANCE (R461). -/
  | bitstreamProducerAdvance (c : StreamIx)
  /-- DECODE_ABANDON (R457). -/
  | decodeAbandon (e : DecIx) (blocks : Word)
  /-- DECODE_HANG (R620). -/
  | decodeHang (e : DecIx) (blocks : Word)
  /-- SAMPLE_DEADLINE (R466). -/
  | sampleDeadline (seq : Word) (n : Byte) (slot : Half)
  /-- SLOT_SETTLE (R467). -/
  | slotSettle (seq : Word) (n : Byte)
  /-- RUSH_INSERT_DONE (R475). -/
  | rushInsertDone (n : Half)
  /-- RUSH_FLUSH (R476). -/
  | rushFlush
  /-- RUSH_INVAL (R476). -/
  | rushInval
  /-- PORT_TRAINED (R523). -/
  | portTrained (p : PortIx) (lanes : Byte)
  /-- PORT_TRAIN_RETRY (R523). -/
  | portTrainRetry (p : PortIx)
  /-- PORT_DOWN (R538). -/
  | portDown (p : PortIx)
  /-- FLIT_RECEIVED (R525). -/
  | flitReceived (p : PortIx) (seq ack : BitVec 12) (replay idle : Bool) (errs : Byte) (strays : List (BitVec 5 × FrameHdr))
  /-- RD_REQ (R539). -/
  | rdReq (p : PortIx) (h : FrameHdr)
  /-- WR_REQ (R539). -/
  | wrReq (p : PortIx) (h : FrameHdr) (data : List Byte)
  /-- RD_RSP (R540). -/
  | rdRsp (p : PortIx) (h : FrameHdr) (data : List Byte)
  /-- WR_RSP (R540). -/
  | wrRsp (p : PortIx) (h : FrameHdr)
  /-- SLATE_REQ (R541). -/
  | slateReq (p : PortIx) (h : FrameHdr) (op : BitVec 4) (v cmp : Word)
  /-- SLATE_RSP (R542). -/
  | slateRsp (p : PortIx) (h : FrameHdr) (result : Word) (stored : Bool)
  /-- SLATE_CANCEL (R542). -/
  | slateCancel (p : PortIx) (h : FrameHdr)
  /-- CREDIT (R528). -/
  | credit (p : PortIx) (h : FrameHdr) (n0 n1 n2 : Half)
  /-- REJECT (R548). -/
  | reject (p : PortIx) (h : FrameHdr) (reason : Byte) (tag : Half) (type : Byte)
  /-- HELLO (R531). -/
  | hello (p : PortIx) (h : FrameHdr) (d : HelloData)
  /-- HELLO_TIMER (R529). -/
  | helloTimer
  /-- ELECTION_SETTLE (R531). -/
  | electionSettle
  /-- LINK_REPORT (R534). -/
  | linkReport (p : PortIx) (h : FrameHdr) (l : LinkData)
  /-- ROUTE_RECOMPUTE (R534). -/
  | routeRecompute
  /-- ASSIGN (R532). -/
  | assign (p : PortIx) (h : FrameHdr) (id : BitVec 12) (epoch : Word)
  /-- TABLE (R532). -/
  | table (p : PortIx) (h : FrameHdr) (entries : List RouteData)
  /-- COMMIT (R532). -/
  | commit (p : PortIx) (h : FrameHdr) (epoch : Word)
  /-- DISCOVERY_TIMEOUT (R533). -/
  | discoveryTimeout
  /-- TABLE_RETIRE (R537). -/
  | tableRetire
  /-- REMOTE_TIMEOUT (R543). -/
  | remoteTimeout (tag : Half)
  /-- FAULT (R546). -/
  | fault (p : PortIx) (h : FrameHdr) (key : FaultKey)
  /-- TALLY (R547). -/
  | tally (p : PortIx) (h : FrameHdr) (key : FaultKey) (count : Word)
  /-- FAULT_COALESCE_CLOSE (R546). -/
  | faultCoalesceClose (key : FaultKey)
  /-- VIOLATION_WINDOW_CLOSE (R549). -/
  | violationWindowClose (p : PortIx)
  /-- PORT_DISABLE (R550). -/
  | portDisable (p : PortIx) (on : Bool)
  /-- PORT_RELEASE (R549). -/
  | portRelease (p : PortIx)
  /-- PORT_RETRAIN (R550). -/
  | portRetrain (p : PortIx)
  /-- FAULT_REPORT (R621). -/
  | faultReport (cls : Byte) (subject cause : Half) (seq : Word) (detail : Dword)
  /-- FAULT_WINDOW_CLOSE (R623). -/
  | faultWindowClose (subject : Half) (cls : Byte) (epoch : Word)
  /-- FENCE_DRAIN_EFFECT (R630). -/
  | fenceDrainEffect (w : CoreIx)
  /-- CORE_HANG (R620). -/
  | coreHang (w : CoreIx)
  /-- NET_NOACK (R620). -/
  | netNoack (subject cause : Half) (seq : Word) (detail : Dword)
  /-- BANK_COLLISION (R347). -/
  | bankCollision (w : CoreIx) (atCluster : Bool) (memory : BitVec 3) (bank a b : Byte) (seq : Word)
  /-- POWER_SAMPLE (R602). -/
  | powerSample (watts : Half)
  /-- GAFFER_LOOP_TICK (R602). -/
  | gafferLoopTick (junction hbm inlet outlet : Byte) (hot : IslandIx)
  /-- JUNCTION_TRIP_LIMIT (R607). -/
  | junctionTripLimit (junction : Byte) (hot : IslandIx)
  /-- THERMAL_TRIP (R608). -/
  | thermalTrip
  /-- GAF_CAP_WRITE (R601). -/
  | gafCapWrite (value : Word)
  /-- REPLAN (R611). -/
  | replan (trials : List IslandTrials)
  /-- REPLAN_NOW (R611). -/
  | replanNow (trials : List IslandTrials)
  /-- SLACK_EMERGENCY (R612). -/
  | slackEmergency (i : IslandIx) (slack : Half)
  /-- ISLAND_RETIRE (R613). -/
  | islandRetire (i : IslandIx)
  /-- MOD_EN_RISE (R643). -/
  | modEnRise
  /-- MOD_EN_FALL (R645). -/
  | modEnFall
  /-- VIN_UNDERVOLTAGE (R645). -/
  | vinUndervoltage
  /-- VIN_OVERVOLTAGE (R645). -/
  | vinOvervoltage
  /-- RAIL_FAULT (R645). -/
  | railFault
  /-- POWER_GOOD_RISE (R644). -/
  | powerGoodRise
  /-- STAGE_A (R552). -/
  | stageA (width rate : BitVec 2) (err : Option Word)
  /-- STAGE_B (R552). -/
  | stageB (err : Option Word)
  /-- STAGE_C (R552). -/
  | stageC (err : Option Word) (failed : List ChannelIx) (trials : List IslandTrials) (fails : List SramFail)
  /-- STAGE_D (R552). -/
  | stageD
  /-- STAGE_E (R552). -/
  | stageE
  /-- PERST_ASSERT (R558). -/
  | perstAssert
  /-- HOT_RESET (R558). -/
  | hotReset
  /-- BOOT_WARM (R558). -/
  | bootWarm
  /-- BOOT_COLD (R559). -/
  | bootCold
  /-- COLD_INTERVAL_END (R646). -/
  | coldIntervalEnd
  /-- UPD_CLEAR (R570). -/
  | updClear
  /-- UPD_APPEND (R570). -/
  | updAppend (len : Half)
  /-- UPD_COMMIT (R570). -/
  | updCommit
  /-- FLASH_WRITE_DONE (R657). -/
  | flashWriteDone (err : Bool)
  /-- ROLLBACK_GO (R568). -/
  | rollbackGo (target : BitVec 7)
  /-- ROLLBACK_BIT_BLOW (R568). -/
  | rollbackBitBlow
  /-- TOKEN_SUBMIT (R576). -/
  | tokenSubmit
  /-- DEBUG_DROP (R579). -/
  | debugDrop
  /-- FUSE_BLOW (R567). -/
  | fuseBlow
  /-- PERF_PERIOD_TICK (R589). -/
  | perfPeriodTick
  /-- SNAP (R589). -/
  | snap
  /-- SNAPSHOT_TOKEN (R589). -/
  | snapshotToken (u : Fin 581)
  /-- DUMP_RECORD_WRITE (R594). -/
  | dumpRecordWrite (time : Dword) (sweep : Word)
  /-- TST_CTL_WRITE (R635). -/
  | tstCtlWrite (k : Fin 6) (value : Word)
  /-- VIN_RISE (R643). -/
  | vinRise
  /-- RAIL_OFF_INTERVAL (R646). -/
  | railOffInterval
  /-- SOFT_REPAIR_COMPLETE (R408). -/
  | softRepairComplete
  /-- D2D_LINK (R620). -/
  | d2dLink (d : DieIx)
  /-- TAP_INSTRUCTION (R574). -/
  | tapInstruction (instr : BitVec 2)
  /-- I3C_TRANSACTION (R574). -/
  | i3cTransaction (op : BitVec 2) (addr : Byte) (dword : BitVec 24) (value : Word)
  /-- CABLE_PRESENCE (R652). -/
  | cablePresence (p : PortIx) (present : Bool)
  deriving DecidableEq, Repr

end Sys2Proof
end

