-- ==== Sys2Proof/WellFormed.lean ====
section
/-! DEFINITION. Which commands can be sent: what the operands of a row must meet for the row to name an event the manual allows.
The meanings answer every term; an ill-formed one changes nothing or does what its doc comment says. -/

namespace Sys2Proof

/-- Whether an instruction word carries an opcode (R181, R263, R269, R422, R596). -/
def opcodeIs (word : Dword) (op : Nat) : Bool := word.toNat % 256 == op

/-- Whether a SLATE word carries an operation (R353). -/
def slateIs (word : Dword) (op : Nat) : Bool := opcodeIs word 0x38 && word.toNat / 256 % 16 == op

/-- Whether a frame's payload is whole 16-byte units of at most 256 bytes and agrees with LEN (R526). -/
def payloadOk (h : FrameHdr) (data : List Byte) : Bool :=
  decide (data.length ≤ 256) && decide (data.length % 16 = 0) && h.len.toNat == data.length / 16

/-- Whether a bank number exists in its kind of memory: 16 of a scratchpad, 16 of an operand cache, 64 of a cluster memory (R384). -/
def bankNamed (kind : BitVec 2) (unit : Half) (bank : Byte) : Bool :=
  match kind.toNat with
  | 0 => decide (unit.toNat < 544) && decide (bank.toNat < 16)
  | 1 => decide (unit.toNat < 544) && decide (bank.toNat < 16)
  | 2 => decide (unit.toNat < 32) && decide (bank.toNat < 64)
  | _ => false

/-- Whether an error pattern names each symbol once and changes it. -/
def patternOk : List (Fin 72 × Byte) → Bool
  | [] => true
  | e :: rest => e.2 != 0 && !rest.any (fun f => f.1 == e.1) && patternOk rest

/-- The well-formed commands. -/
def Instr.wellFormed : Instr → Bool
  | .intakeWrite off data _ => !data.isEmpty && decide (off.toNat + data.length ≤ 2 ^ 20)
  | .receiptRead off len => decide (0 < len) && decide (off.toNat + len ≤ 2 ^ 20)
  | .matmul _ w => opcodeIs w 0x40
  | .attend _ w => opcodeIs w 0x41
  | .conv _ w => opcodeIs w 0x48
  | .pool _ w => opcodeIs w 0x49
  | .halo _ w => opcodeIs w 0x4A
  | .edgePrep _ w => opcodeIs w 0x4B
  | .edgeConv _ w => opcodeIs w 0x4B
  | .await _ w => opcodeIs w 0x4F
  | .eprun _ w => opcodeIs w 0x31
  | .vop _ w => opcodeIs w 0x10
  | .vcvt _ w => opcodeIs w 0x11
  | .vred _ w => opcodeIs w 0x12
  | .vscore _ w => opcodeIs w 0x14
  | .vcmp _ w => opcodeIs w 0x15
  | .vld _ w => opcodeIs w 0x20
  | .vst _ w => opcodeIs w 0x21
  | .vsetx _ w => opcodeIs w 0x28
  | .vloop _ w => opcodeIs w 0x30
  | .vrand _ w => opcodeIs w 0x13
  | .slateWait _ w => slateIs w 0
  | .slateWaiteq _ w => slateIs w 1
  | .slateSignal _ w => slateIs w 2
  | .slateAdd _ w => slateIs w 3
  | .slateFadd _ w => slateIs w 4
  | .slateCas _ w => slateIs w 5
  | .slateRead _ w => slateIs w 6
  | .slateSet _ w => slateIs w 7
  | .dmaq _ w => opcodeIs w 0x39
  | .perfrd _ w => opcodeIs w 0x3A
  | .retentionEntry kind unit bank => bankNamed kind unit bank
  | .bankWake kind unit bank => bankNamed kind unit bank
  | .marchTestDone fails => fails.all (fun f => bankNamed f.kind f.unit f.bank)
  | .stageC _ _ _ fails => fails.all (fun f => bankNamed f.kind f.unit f.bank)
  | .marchTestStart ctl => ctl.toNat / 2 ^ 31 == 1
  | .scrubStep errs => patternOk errs
  | .mailSlotWrite _ data _ => !data.isEmpty && decide (data.length ≤ 16)
  | .wrReq _ h data => payloadOk h data
  | .rdRsp _ h data => payloadOk h data
  | .ideKm op _ => decide (op.toNat < 3)
  | .tapInstruction op => decide (op.toNat < 3)
  | .i3cTransaction op _ _ _ => decide (op.toNat < 3)
  | _ => true

end Sys2Proof
end

