-- ==== Sys2Proof/Decode.lean ====
section
/-! DEFINITION. Commands spelled by bits: the opcode table gives no row of this block any bits, so no word spells a command. -/

namespace Sys2Proof

/-- The command a word spells by the bits of the opcode table: none, as no row has bits. -/
def decodeTableWord (nbits w : Nat) : Option Instr :=
  let _ := nbits
  let _ := w
  none

end Sys2Proof
end

