-- ==== Sys2Proof/Machine/Bits.lean ====
section
/-! DEFINITION. Bit fields, byte order (R16), sign extension and the sparse tables every unit uses. -/

namespace Sys2Proof.Machine

/-- Bits `[lo + len - 1 : lo]` of a number. -/
def fld (w lo len : Nat) : Nat := (w >>> lo) % 2 ^ len

/-- One bit of a number. -/
def bitOf (w i : Nat) : Bool := w.testBit i

/-- A flag as a number. -/
def b2n (b : Bool) : Nat := if b then 1 else 0

/-- A little-endian run of bytes read as a number (R16). -/
def leNat : List Byte → Nat
  | [] => 0
  | b :: bs => b.toNat + 256 * leNat bs

/-- `n` bytes of a number, little-endian (R16). -/
def leBytes : Nat → Nat → List Byte
  | 0, _ => []
  | n + 1, v => BitVec.ofNat 8 v :: leBytes n (v / 256)

/-- The bytes `[off, off + n)` of a record, zero past its end. -/
def slice (bs : List Byte) (off n : Nat) : List Byte :=
  let got := (bs.drop off).take n
  got ++ List.replicate (n - got.length) 0

/-- A little-endian field of `n` bytes at byte `off` of a record. -/
def recField (bs : List Byte) (off n : Nat) : Nat := leNat (slice bs off n)

/-- Two's complement value of the low `n` bits. -/
def sgn (n v : Nat) : Int :=
  let u := v % 2 ^ n
  if u < 2 ^ (n - 1) then (u : Int) else (u : Int) - (2 ^ n : Nat)

/-- An integer wrapped modulo `2^n`. -/
def wrapN (n : Nat) (v : Int) : Nat := (v % (2 ^ n : Nat)).toNat

/-- A 32-bit word from an integer, modulo `2^32`. -/
def wordOfInt (v : Int) : Word := BitVec.ofInt 32 v

/-- The ceiling of a quotient (0 for a zero divisor). -/
def ceilDiv (a b : Nat) : Nat := (a + b - 1) / b

/-- A counter of `n` bits that stops at its largest value. -/
def satAdd {n : Nat} (x : BitVec n) (k : Nat) : BitVec n := BitVec.ofNat n (min (x.toNat + k) (2 ^ n - 1))

/-- A value clamped between two bounds. -/
def clampI (lo hi x : Int) : Int := if x < lo then lo else if hi < x then hi else x

/-- The list whose elements are `f 0 … f (n-1)`. -/
def tabulate {α : Type} (n : Nat) (f : Nat → α) : List α := (List.range n).map f

/-- The element at an index, or a default. -/
def nth {α : Type} (l : List α) (i : Nat) (d : α) : α := (l[i]?).getD d

/-- Bits below `n` of a mask, as a list of indices. -/
def maskIxs (n m : Nat) : List Nat := (List.range n).filter (fun i => m.testBit i)

/-- A mask from a list of flags, the first flag in bit 0. -/
def flagsNat : List Bool → Nat
  | [] => 0
  | b :: bs => b2n b + 2 * flagsNat bs

/-- The opcode of an instruction word. -/
def opcodeOf (n : Nat) : Nat := fld n 0 8

/-- The first of a list by an order. -/
def firstBy {α : Type} (before : α → α → Bool) : List α → Option α
  | [] => none
  | x :: xs =>
    match firstBy before xs with
    | none => some x
    | some y => if before x y then some x else some y

end Sys2Proof.Machine

namespace Sys2Proof

/-- The entry of a sparse table at an index, `d` where it lists none. -/
def Tab.at {α : Type} (t : Tab α) (k : Nat) (d : α) : α :=
  match t with
  | [] => d
  | (k', v) :: rest => if k = k' then v else Tab.at rest k d

/-- The entry a sparse table lists at an index. -/
def Tab.find {α : Type} (t : Tab α) (k : Nat) : Option α :=
  match t with
  | [] => none
  | (k', v) :: rest => if k = k' then some v else Tab.find rest k

/-- A sparse table with one entry written, in index order. -/
def Tab.put {α : Type} (t : Tab α) (k : Nat) (v : α) : Tab α :=
  match t with
  | [] => [(k, v)]
  | (k', v') :: rest =>
    if k = k' then (k, v) :: rest
    else if k < k' then (k, v) :: (k', v') :: rest
    else (k', v') :: Tab.put rest k v

/-- A sparse table with no entry at an index. -/
def Tab.del {α : Type} (t : Tab α) (k : Nat) : Tab α := t.filter (fun p => p.1 != k)

/-- A sparse table with one entry changed. -/
def Tab.upd {α : Type} (t : Tab α) (k : Nat) (d : α) (f : α → α) : Tab α := Tab.put t k (f (Tab.at t k d))

/-- Whether a sparse table lists an index. -/
def Tab.has {α : Type} (t : Tab α) (k : Nat) : Bool := t.any (fun p => p.1 == k)

/-- The listed indices. -/
def Tab.keys {α : Type} (t : Tab α) : List Nat := t.map Prod.fst

/-- The listed entries. -/
def Tab.vals {α : Type} (t : Tab α) : List α := t.map Prod.snd

/-- The lowest of `0 … n-1` the table does not list, if any. -/
def Tab.firstFree {α : Type} (t : Tab α) (n : Nat) : Option Nat :=
  let f := (List.range (min n (t.length + 1))).find? (fun k => ! Tab.has t k)
  f

end Sys2Proof
end

