-- ==== Sys2Proof/Machine/Mem.lean ====
section
/-! DEFINITION. Byte memories as canonical lists of cells: addresses strictly rising, no cell of value zero.
An address no cell lists reads as zero (DESIGN CHOICE, log entry 3: the spec gives SRAM, HBM and flash no contents). -/

namespace Sys2Proof.Machine

/-- A byte memory. -/
abbrev Mem := List Host.Cell

/-- What an unlisted address reads as (log entry 3). -/
def Mem.blank : Byte := 0#8

/-- The byte at an address. -/
def Mem.read (m : Mem) (a : Nat) : Byte :=
  match m with
  | [] => Mem.blank
  | (k, v) :: rest => if a = k then v else if a < k then Mem.blank else Mem.read rest a

/-- A memory with one byte written, canonical form kept. -/
def Mem.write (m : Mem) (a : Nat) (b : Byte) : Mem :=
  match m with
  | [] => if b = Mem.blank then [] else [(a, b)]
  | (k, v) :: rest =>
    if a = k then (if b = Mem.blank then rest else (a, b) :: rest)
    else if a < k then (if b = Mem.blank then (k, v) :: rest else (a, b) :: (k, v) :: rest)
    else (k, v) :: Mem.write rest a b

/-- The canonical form: addresses strictly rising from a bound, no cell equal to the blank byte. -/
def Mem.wfFrom (lo : Nat) (m : Mem) : Bool :=
  match m with
  | [] => true
  | (k, v) :: rest => decide (lo ≤ k) && decide (v ≠ Mem.blank) && Mem.wfFrom (k + 1) rest

/-- The canonical form of a memory. -/
def Mem.wf (m : Mem) : Bool := Mem.wfFrom 0 m

/-- A run of bytes. -/
def Mem.readN (m : Mem) (a n : Nat) : List Byte := (List.range n).map (fun i => Mem.read m (a + i))

/-- A run of bytes written from an address, in order. -/
def Mem.writeN (m : Mem) (a : Nat) (bs : List Byte) : Mem :=
  match bs with
  | [] => m
  | b :: rest => Mem.writeN (Mem.write m a b) (a + 1) rest

/-- A run of bytes cleared. -/
def Mem.clearN (m : Mem) (a n : Nat) : Mem := m.filter (fun c => ! (decide (a ≤ c.1) && decide (c.1 < a + n)))

end Sys2Proof.Machine
end

