-- ==== Sys2Proof/Machine/Parts/Boot.lean ====
section
/-! DEFINITION. The state of staged start, images, fuses, the flash and protection (17_start_and_protection, 21_module). -/

namespace Sys2Proof.Machine

/-- The fuse array as read at power-on (R566), unblown at the model's reset (DESIGN CHOICE, log entry 5). -/
structure Fuses where
  uid       : BitVec 128 := 0
  rootHash  : List (BitVec 256) := [0, 0, 0, 0]
  revoke    : BitVec 4 := 0
  rollback  : Dword := 0
  dbgFuse   : BitVec 2 := 0
  tstLock   : Bool := false
  ctrNoUser : Bool := false
  ctrNoHost : Bool := false
  ideMand   : Bool := false
  idSeed    : BitVec 256 := 0
  fuseLock  : Bool := false
  deriving DecidableEq, Repr

/-- What a flash write is (R657). -/
inductive FlashKind where
  | fw1 (slot : Bool) | fw2 (slot : Bool) | sheet | repair | ageing
  deriving DecidableEq, Repr

/-- A flash write requested (R657): its kind, where it starts and its bytes. -/
structure FlashJob where
  kind  : FlashKind
  addr  : Nat
  bytes : List Byte
  deriving DecidableEq, Repr

/-- What the device keeps of an image it loaded: its payload's digest, its SVN. -/
structure Loaded where
  digest : List Byte
  svn    : Nat
  deriving DecidableEq, Repr

/-- How far an SPDM requester has come (R572), and its secured session. -/
structure Spdm where
  version : Bool := false
  caps    : Bool := false
  algs    : Bool := false
  keyEx   : Bool := false      -- a KEY_EXCHANGE waits for its FINISH
  session : Bool := false      -- a secured session is open
  ideKeys : BitVec 2 := 0      -- streams whose keys are programmed: 0 CXL.io, 1 CXL.cachemem
  ideGo   : BitVec 2 := 0      -- streams that are up
  deriving DecidableEq, Repr

/-- Staged start, updates, debug and attestation. -/
structure Boot where
  stage    : Nat := 0               -- BOOT_STAGE.STAGE (R579): 0 reset, 1 to 5 stages A to E
  atD      : Option Nat := none     -- µs at which stage D began, while it is under way
  halted   : Bool := false
  recovery : Bool := false
  reason   : Byte := 0
  detail   : Word := 0
  times    : List Nat := [0, 0, 0, 0, 0]   -- BOOT_T_k
  resets   : Half := 0              -- BOOT_RESETS.WARM
  sheet    : List Byte := []        -- the call sheet in force, 512 bytes once applied
  sheetId  : Dword := 0
  fuses    : Fuses := {}
  array    : Tab Word := []         -- fuse words blown through SEC_PROG_ (R567)
  progAddr : BitVec 10 := 0
  progData : Word := 0
  progGo   : Bool := false      -- SEC_PROG_CTL.GO as last written
  fw1      : Option Loaded := none
  fw2      : Option Loaded := none
  sheetImg : Option Loaded := none
  keptFw2  : Option Loaded := none  -- FW2 as verified at the last power-on (R558)
  keptSheet : Option (Loaded × List Byte) := none
  slot1    : Bool := false          -- slot of the running FW1
  slot2    : Bool := false
  last1    : Bool := false          -- FW1 slot committed last, in flash (R570)
  last2    : Bool := false
  flash    : Mem := []
  jobs     : List FlashJob := []    -- flash writes in the order requested; the first is in progress
  warmWaits : Bool := false         -- a warm reset waits for a flash write
  staged   : List Byte := []        -- staging area (R570)
  win      : Mem := []              -- BOOT_UPD_WIN
  updOp    : BitVec 2 := 0
  updLen   : Half := 0
  updBusy  : Bool := false
  updResult : BitVec 3 := 0
  updCheck : BitVec 4 := 0
  rbTarget : BitVec 7 := 0
  rbGoal   : BitVec 7 := 0          -- the target of the blow under way (R568)
  rbResult : BitVec 2 := 0
  tokenWin : Mem := []              -- SEC_TOKEN_WIN
  tokenDigest : List Byte := []     -- digest of the token that granted
  dbgResult : BitVec 4 := 0
  nonce    : BitVec 128 := 0
  entropyCtr : Nat := 0             -- draws made from the entropy source (the model's own)
  grants   : BitVec 5 := 0          -- debug grants of a token in force (R577)
  spdm     : Spdm := {}
  deriving DecidableEq, Repr

end Sys2Proof.Machine
end

