-- ==== Sys2Proof/Machine/Parts/Core.lean ====
section
/-! DEFINITION. The state of a core (08_vector_engine, 05_matrix_array). -/

namespace Sys2Proof.Machine

/-- An open loop of VLOOP (R275 to R278). -/
structure LoopFrame where
  start : Nat        -- position of the first instruction of the body
  len   : Nat        -- instructions in the body
  trip  : Nat        -- iterations
  iter  : Nat        -- the present iteration
  tailR : Nat        -- row length of the last iteration
  tailC : Nat        -- column length of the last iteration
  deriving DecidableEq, Repr

/-- What holds a core's later instructions. -/
inductive Hold where
  | none
  | array                                      -- AWAIT or WAIT (R182)
  | slate (slate : Nat) (eq : Bool) (value : Word) (xr : Nat) (since : Nat)
  | remote (dst slate : Nat) (eq : Bool) (value : Word) (xr : Nat) (since : Nat)   -- a wait on another device (R356)
  deriving DecidableEq, Repr

/-- A column of weights in the cells: its elements down the array rows, and its block scales (R165, R178). -/
structure WCol where
  els    : List Nat
  scales : List Nat := []
  deriving DecidableEq, Repr

/-- A proxy that stands for a MATMUL's weights (R192): its format, block size, where its elements stand, their bytes with their
scales, and how far into the weights it replaces B lies. -/
structure Subst where
  fmt   : Nat
  blk   : Nat
  base  : Nat
  bytes : Nat
  off   : Nat
  deriving DecidableEq, Repr

/-- An instruction of the array queue (R182, R226): its opcode and descriptor, whether it waits for every earlier one's last output,
whether it has started, and how far it has come (R195, R237): the passes done, the rows done of the next pass, the partial sums
drained through the spill path, and of each sum under way whether an operand was NaN and whether it wrapped (R210, R223). -/
structure ArrayRun where
  op      : Nat
  desc    : List Byte
  wait    : Bool := false
  started : Bool := false
  subst   : Option Subst := none
  draw    : Nat := 0                            -- first of the free values drawn for it
  pass    : Nat := 0
  row     : Nat := 0
  spilled : Tab Word := []
  marks   : Tab (Bool × Bool) := []
  deriving DecidableEq, Repr

/-- A running EPRUN (R260, R286): its descriptor, its element instructions, its constants, the take row whose generator rounds,
and the groups done. -/
structure ElemRun where
  desc   : List Byte
  prog   : List Nat
  consts : List Word
  row    : Nat
  next   : Nat := 0
  deriving DecidableEq, Repr

/-- One core. -/
structure Core where
  owner   : Option (Word × Nat) := none         -- command and layer whose kernel is placed
  rank    : Nat := 0
  tiles   : Tab (List Word) := []               -- T0 to T31, 256 lanes
  preds   : Tab (BitVec 256) := []              -- P1 to P7
  xs      : Tab Word := []                      -- X1 to X7
  loops   : List LoopFrame := []                -- innermost first
  pos     : Nat := 0                            -- position in the kernel's words of the next instruction
  queue   : List ArrayRun := []                 -- the array queue, oldest first, up to 4 (R182)
  live    : List (List WCol) := []              -- live weights, one tile, or two in split mode (R165, R187)
  shadow  : List (List WCol) := []              -- shadow weights (R165, R170)
  plane   : Tab Word := []                      -- the A plane's entries outside a chunk (R166)
  elem    : Option ElemRun := none              -- the element program under way
  hold    : Hold := .none
  await   : List Nat := []                      -- index registers whose remote results are still to come (R355, R356)
  latch   : Half := 0                           -- COUNT[47:32] latched by PERFRD (R596)
  rows    : List Nat := []                      -- take indices of its take rows (R282)
  ramp    : Nat := 0                            -- 1: a ramp-up waits for its grant, 2: it is granted (R174)
  rowUs   : Option Nat := none                  -- when the array issued its last row (R172)
  deriving DecidableEq, Repr

end Sys2Proof.Machine
end

