-- ==== Sys2Proof/Machine/Parts/Host.lean ====
section
/-! DEFINITION. The state of the host interface (15_host_interface): intake slots, accepted commands,
completion queues, MSI-X, the violation log and the loaded programs; and what the device sends out. -/

namespace Sys2Proof.Machine

/-- A BAR2 intake slot (R488, R489): empty, filling with the bytes written so far, or holding a receipt word. -/
inductive Slot where
  | empty
  | filling (mask : Dword) (data : List Byte) (poison : Bool)
  | receipt (word : Dword)
  deriving DecidableEq, Repr

/-- The status codes of R13. -/
inductive Status where
  | ok | okDegraded | zeroExtent | rejectedFormat | shapeOver | pageExhausted | deadlineMiss
  | corruptInput | lateInput | schedCollide | coreFenced | deviceFault
  deriving DecidableEq, Repr

/-- Where a completion record waits (R513 to R515). -/
inductive CplPlace where
  | writing   -- its 32-byte write is on its way
  | held      -- in the hold store
  | own       -- in the command's own entry of the accepted table
  deriving DecidableEq, Repr

/-- A completion record not yet visible, with what follows its visibility (R21, R510, R517). -/
structure CplRec where
  seq     : Word
  handle  : Dword
  queue   : Nat
  status  : Status
  flags   : Byte
  ext     : Bool
  result  : List Byte
  signal  : Option Nat
  irq     : Bool
  place   : CplPlace
  deriving DecidableEq, Repr

/-- A completion queue (R513 to R517, R520). -/
structure CplQueue where
  base    : Dword := 0
  log2    : BitVec 4 := 0
  enable  : Bool := false
  vector  : BitVec 6 := 0
  irqAll  : Bool := false
  holdoff : Half := 0
  prod    : Half := 0
  cons    : Half := 0
  badCons : Bool := false
  wfail   : Bool := false
  phase   : Bool := true       -- PHASE of the next record
  quiet   : Bool := false      -- a holdoff is running
  owed    : Bool := false      -- an interrupt is owed at its end
  deriving DecidableEq, Repr

/-- An MSI-X table entry; the mask bit of `ctl` is set at reset (PRESUMED, PCIe; log entry 6). -/
structure MsixEnt where
  addr : Dword := 0
  data : Word := 0
  ctl  : Word := 1
  deriving DecidableEq, Repr

/-- An entry of the violation log (R519). -/
structure Viol where
  kind  : Byte := 0
  where_ : Half := 0
  epoch : Word := 0
  addr  : Dword := 0
  deriving DecidableEq, Repr

/-- What PCIe error reporting has recorded (R518). -/
structure Aer where
  malformed   : Bool := false
  poisoned    : Bool := false
  deriving DecidableEq, Repr

/-- The host interface's registers and stores. -/
structure HostIf where
  intake    : Bool := false              -- the intake is open
  ideUp     : Bool := false
  width     : BitVec 2 := 0
  rate      : BitVec 2 := 0
  gen       : Half := 0
  xresBase  : Dword := 0
  partialUs : Half := 0x0064
  violCnt   : Word := 0
  violHead  : Byte := 0
  violLog   : Tab Viol := []
  queues    : Tab CplQueue := []
  msix      : Tab MsixEnt := []
  pba       : Dword := 0
  nextSeq   : Word := 0
  accepted  : Word := 0
  rejected  : Word := 0
  slots     : Tab Slot := []
  cpls      : List CplRec := []          -- completion order
  aer       : Aer := {}
  cfgReady  : Bool := false              -- configuration space answers
  deriving DecidableEq, Repr

/-- A kernel entry of a program (R504). -/
structure KernelEnt where
  code     : Nat
  words    : Nat
  size     : Nat
  rankFlex : Bool
  chunks   : Bool
  aHold    : Bool
  home     : Nat
  banks    : Nat
  dmaCh    : Nat
  foot     : Nat
  save     : Nat
  plan     : Nat
  shape    : Nat
  prefetch : Nat
  pfCount  : Nat
  pSample  : Nat
  pBatch   : Nat
  pChunk   : Nat
  deriving DecidableEq, Repr

/-- A graph of a program: its layers' kernels and dependencies, its slices (R505). -/
structure GraphEnt where
  layers   : List (Nat × Nat)   -- kernel index, DEPENDS
  slices   : List Nat           -- first layer of each slice
  shape    : Nat
  prefetch : Nat
  pfCount  : Nat
  deriving DecidableEq, Repr

/-- A level of a tile plan (R297). -/
structure TileLevel where
  tile    : List Nat
  order   : List Nat
  dist    : Nat
  accum   : Bool
  bufs    : Nat
  counter : Nat
  deriving DecidableEq, Repr

/-- A tile plan (R296): its extents (constant or the number of a dynamic dimension) and its levels. -/
structure TilePlan where
  exts   : List (Bool × Nat)
  levels : List TileLevel
  deriving DecidableEq, Repr

/-- A shape table (R309). -/
structure ShapeTable where
  dims    : Nat
  kinds   : List Nat
  static  : List Bool
  points  : List (List Nat)
  pieceAt : Nat
  deriving DecidableEq, Repr

/-- A prefetch entry of a program (R379), a relocated source marked. -/
structure PfEnt where
  src      : Nat
  dst      : Nat
  bytes    : Nat
  issue    : Nat
  need     : Nat
  deadline : Nat
  kind     : Nat
  proxy    : Nat
  deriving DecidableEq, Repr

/-- A proxy of a program (R505, R382): where it stands in the program window. -/
structure ProxyEnt where
  va     : Nat
  forOff : Nat
  bytes  : Nat
  format : Nat
  mxblk  : Nat
  deriving DecidableEq, Repr

/-- A loaded program (R501 to R506). -/
structure Program where
  code    : List Dword := []
  slates  : Nat := 0
  token   : Nat := 0
  patch   : Nat := 0
  grow    : Nat := 0
  kernels : List KernelEnt := []
  graphs  : List GraphEnt := []
  plans   : Tab TilePlan := []       -- by offset in the tile plan section
  shapes  : Tab ShapeTable := []     -- by offset in the shape table section
  prefs   : Tab PfEnt := []          -- by offset in the prefetch section
  proxies : List ProxyEnt := []
  bytes   : Nat := 0                 -- HBM bytes placed
  deriving DecidableEq, Repr

/-- A program slot: its generation and, while loaded, its program (R501). -/
structure ProgSlot where
  gen  : Byte := 0
  prog : Option Program := none
  deriving DecidableEq, Repr

/-- An SPDM response (R572, R573), in the terms the manual gives. -/
structure SpdmRsp where
  code  : String
  body  : List Byte
  deriving DecidableEq, Repr

/-- What the device has sent out of its edges, in order: the model's own record. -/
inductive Out where
  | msix (addr : Dword) (data : Word)
  | read (bytes : List Byte) (poisoned : Bool)          -- the data of a host read
  | complete (ur : Bool)                                 -- a completion without data
  | cfgRetry                                             -- configuration retry status
  | hostWrite (addr : Nat) (poisoned : Bool)             -- poisoned data forwarded to host memory
  | spdm (r : SpdmRsp)
  | frame (port : Nat) (type : Nat) (dst src : Nat) (words : List Nat) (payload : List Byte)
  | flit (port : Nat) (replay : Bool) (ack : Nat)
  | mail (word : List Byte)                              -- a mail slot read: the data word and its tag
  | tap (bits : Word)
  | i3c (ack : Bool) (data : Word)
  deriving DecidableEq, Repr

end Sys2Proof.Machine
end

