-- ==== Sys2Proof/Machine/Parts/Sched.lean ====
section
/-! DEFINITION. The state of the scheduler and the slates (10_scheduling_and_slates, 09_tiling_and_shapes):
accepted commands and their progress, kernels and their placements, slate counts, waits and tile counters. -/

namespace Sys2Proof.Machine

/-- A piece of a command (R315, R316). -/
structure Piece where
  origin : List Nat
  extent : List Nat
  point  : Nat
  deriving DecidableEq, Repr

/-- How far an accepted command has come. -/
inductive CmdPhase where
  | waiting      -- accepted, its turn or its slate not yet come
  | running      -- dispatched
  | recorded     -- finished; its completion record still to become visible
  deriving DecidableEq, Repr

/-- The shape area (R322) and the schedule area (R359) of a command. -/
structure RunAreas where
  point0     : Nat := 0xFF
  piecesDone : Nat := 0
  retaken    : Nat := 0
  replayed   : Nat := 0
  voidCyc    : Nat := 0
  placedAt   : Option Nat := none    -- µs from ready to first placement
  preempts   : Nat := 0
  slicesRun  : Nat := 0
  preUs      : Nat := 0
  size       : Nat := 0
  short      : Bool := false
  firstCore  : Nat := 0              -- encoded as schedule area bytes 14 and 15
  collide    : List Nat := [0, 0, 0, 0]
  collideAt  : Nat := 0
  lastRoot   : Word := 0xFFFFFFFF#32 -- R511
  roots      : Nat := 0
  encoded    : Nat := 0
  gated      : Nat := 0
  deriving DecidableEq, Repr

/-- The reel area (R128), KV area (R164), memory area (R383) and ingest area (R477) of a command. -/
structure DataAreas where
  folds      : Nat := 0
  chunksHeld : Nat := 0
  earlyFolds : Nat := 0
  kvJoined   : Nat := 0
  kvDeferred : Nat := 0
  kvResumed  : Nat := 0
  kvVictims  : Nat := 0
  kvOut      : Nat := 0
  kvIn       : Nat := 0
  kvEmpty    : Nat := 0
  kvCut      : Nat := 0
  kvDelay    : Nat := 0
  proxySubs  : Nat := 0
  lateNoPath : Nat := 0
  takesCut   : Nat := 0
  reelLate   : Nat := 0
  waitUs     : Nat := 0
  discarded  : Nat := 0
  ingest     : List Byte := []
  deriving DecidableEq, Repr

/-- A prefetch entry of a command in progress (R379 to R381): one per list entry, per take row for a TAKE entry. -/
structure PfRun where
  ix       : Nat
  kind     : Nat
  src      : Nat
  dst      : Nat
  bytes    : Nat
  need     : Nat
  proxy    : Nat
  deadline : Nat
  layer    : Nat
  core     : Nat             -- the core whose windows its addresses mean
  take     : Option Nat := none
  decided  : Bool := false   -- its decision point has passed
  done     : Bool := false
  deriving DecidableEq, Repr

/-- A frame gated for a command's encoder (R73): its context, its index and the code of each tile, which no later gating changes. -/
structure GatedFrame where
  ctx   : Nat
  frame : Nat
  codes : List Nat
  deriving DecidableEq, Repr

/-- An accepted command (R493, R515). -/
structure Cmd where
  gen       : Half := 0
  slot      : Nat := 0
  record    : List Byte := []
  phase     : CmdPhase := .waiting
  readyAt   : Option Nat := none     -- µs at which it became ready
  holding   : Bool := false          -- HOLD_LIMIT has passed (R332)
  flags     : Byte := 0
  pieces    : List Piece := []
  piece     : Nat := 0
  replays   : Nat := 0               -- replays of the current piece or step
  snap      : List Word := []        -- slate counts at the dispatch of the piece or step (R628)
  curSlice  : Nat := 0
  layersDone : List Nat := []
  areas     : RunAreas := {}
  data      : DataAreas := {}
  prefs     : List PfRun := []
  steps     : Nat := 0               -- ADVANCE_TAKES steps ended
  takes     : List Nat := []         -- take indices of the batch
  deadlineAt : Option Nat := none
  started   : Option Nat := none     -- dispatch time, µs
  issued    : List Nat := []         -- stages whose prefetch entries are issued (R664)
  sealed    : Bool := false          -- the piece under way has completed; the next may be dispatched
  stepNow   : List Nat := []         -- takes that run the step under way
  listLen   : Nat := 0               -- entries of the batch list at the last boundary
  stepped   : List Nat := []         -- takes that completed a step (R69)
  pass      : Nat := 0               -- passes of the step before the one under way (log entry 20)
  chunkFrom : Tab Nat := []          -- by layer, steps of its chunk descriptor folded before a pre-emption (R131)
  gated     : List GatedFrame := []  -- the frames gated for its encoder, in that order (R73, R86)
  ran       : Tab Piece := []        -- by layer, the piece at whose tile-count bucket its call runs (R86)
  ending    : Option (Status × List Byte) := none   -- how it ends once its writes to peers are answered (R120, R508)
  deriving DecidableEq, Repr

/-- What a placed or pre-empted kernel is doing. -/
inductive KernPhase where
  | staging     -- placed; its stage waits for prefetches or a boundary
  | running
  | stopping    -- a chunk stops at its next step boundary first (R337)
  | saving
  | saved
  | restoring
  deriving DecidableEq, Repr

/-- Why a kernel was pre-empted (R334). -/
inductive PreCause where
  | latency | quantum | victim
  deriving DecidableEq, Repr

/-- A kernel on its placement (R324 to R328): layer 0 for a kernel command. -/
structure Kern where
  seq      : Word
  layer    : Nat
  prog     : Nat
  kernel   : Nat
  cls      : Nat
  size     : Nat
  cores    : List Nat               -- core windows in rank order (missing ranks of a short placement left out)
  ranks    : List Nat               -- their ranks
  clusters : List Nat
  banks    : List (Nat × List Nat)  -- cluster, its allocated banks in allocation order
  chans    : List (Nat × List Nat)  -- cluster, its allotted DMA channels, lowest first (R422)
  phase    : KernPhase := .running
  cause    : PreCause := .latency
  queueAt  : Nat := 0               -- queue time (R331)
  placedUs : Nat := 0
  preAt    : Nat := 0
  forCmd   : Option Word := none    -- the latency-critical command it makes way for
  stage    : Nat := 0               -- stage reached
  reachUs  : Nat := 0               -- µs at which it was reached
  were     : List Nat := []         -- its cores before it was saved, in rank order (R340)
  rings    : List (Nat × Word) := []  -- saved counts of its fusion rings' slates (R308)
  saved    : List (Core × Mem) := [] -- saved cores in rank order: registers, and SRAM by offset in the core (R338)
  deriving DecidableEq, Repr

/-- How a kernel's core tiles are cut in a piece (R299, R314): the level, the extents its counts follow, and the true ones. -/
structure TileGrid where
  level : TileLevel
  exts  : List Nat
  real  : List Nat
  deriving DecidableEq, Repr

/-- A holder record or retake queue of a tile counter (R303, R304, R357). -/
structure TileCtr where
  seq    : Word
  total  : Nat                       -- T
  bufs   : Nat
  accum  : Bool
  held   : Tab (List Nat) := []      -- per core window, oldest first
  retake : List Nat := []
  grid   : Option TileGrid := none   -- the tiles it hands out, where they are core tiles
  deriving DecidableEq, Repr

/-- Who waits on a slate (R355, R358, R542). -/
inductive Waiter where
  | core (w : Nat) (xr : Nat)
  | cmd (seq : Word)
  | remote (src : Nat) (tag : Nat)
  deriving DecidableEq, Repr

/-- A wait held at a slate bank; `wake` is the count its wake carries, once satisfied. -/
structure SlateWait where
  slate : Nat
  who   : Waiter
  eq    : Bool
  value : Word
  wake  : Option Word := none
  deriving DecidableEq, Repr

/-- The scheduler and slate registers of R360 that hold state of their own. -/
structure SchedRegs where
  waitLimit   : BitVec 24 := 0x0186A0
  quantum     : BitVec 20 := 0x02710
  holdLimit   : BitVec 20 := 0x000C8
  collideCnt  : Word := 0
  preemptCnt  : Word := 0
  saveMax     : Half := 0
  collideLast : Dword := 0
  deriving DecidableEq, Repr

/-- The scheduler, its kernels and the slate banks. -/
structure Sched where
  regs   : SchedRegs := {}
  kerns  : List Kern := []
  slates : Tab Word := []
  waits  : List SlateWait := []
  tiles  : Tab TileCtr := []        -- bound tile counters by slate
  lcBanks : Nat := 0                -- latency-critical banks per cluster (call sheet)
  deriving DecidableEq, Repr

end Sys2Proof.Machine
end

