-- ==== Sys2Proof/Machine/Parts/Video.lean ====
section
/-! DEFINITION. The state of video ingest and of the rushes cache (14_video_ingest). -/

namespace Sys2Proof.Machine

/-- Damage in a frame: error kind (R471), bitstream offset, first damaged block, blocks damaged, and the concealed
regions as left, top, width and height in luma samples. -/
structure Damage where
  kind   : Nat
  byte   : Nat
  bx     : Nat
  by_    : Nat
  blocks : Nat
  rects  : List (Nat × Nat × Nat × Nat) := []
  deriving DecidableEq, Repr

/-- A decoded picture as a frame packet carries it (R463): its samples are the luma rows, then Cb and Cr interleaved. -/
structure Picture where
  frame     : Nat
  width     : Nat
  height    : Nat
  dwidth    : Nat
  dheight   : Nat
  depth     : Nat := 0
  resampled : Bool
  mono      : Bool
  grain     : Bool
  data      : List Byte
  damage    : Option Damage := none
  deriving DecidableEq, Repr

/-- A stream context (R453, R454, R459, R478). -/
structure StreamCtx where
  state    : Nat := 0            -- 0 closed, 1 open, 2 closing
  gen      : BitVec 7 := 0
  desc     : List Byte := []     -- the stream descriptor
  engine   : Nat := 0
  cls      : Nat := 0
  gateThr  : Word := 0
  gateCtl  : Word := 0
  gateCnt  : Word := 0
  mapDrop  : Half := 0
  reserve  : Nat := 0            -- picture-store pages from the reserve
  pages    : List Nat := []      -- picture-store pages from the pool
  frames   : Word := 0
  damaged  : Nat := 0
  late     : Nat := 0
  idle     : Nat := 0
  dropped  : Nat := 0
  times    : List Nat := []      -- engine time of the last 64 frames completed, µs, newest first
  next     : Nat := 0            -- next frame to decode
  pos      : Nat := 0            -- bitstream position of the decode
  consumed : Nat := 0            -- bitstream bytes consumed in all
  total    : Option Nat := none  -- frames of the bitstream, once its end is known
  raps     : List (Nat × Nat) := []    -- random access points recorded: frame, position
  asked    : Nat := 0            -- one more than the last frame requested
  last     : Option Picture := none    -- previous output picture
  store    : List Picture := []  -- run-ahead pictures not yet taken
  tiles    : Tab (List Nat) := []  -- by frame, the tile codes of its last gating (R77)
  mapProd  : Nat := 0            -- maps written
  errProd  : Nat := 0
  deriving DecidableEq, Repr

/-- A decode engine (R455, R478). -/
structure Engine where
  busy     : Bool := false
  ctx      : Nat := 0
  startUs  : Nat := 0            -- µs at which the frame in progress began
  frames   : Word := 0
  deriving DecidableEq, Repr

/-- How a slot was filled: the codes of HOW (R464). -/
inductive How where
  | pending | decoded | cache | concealed | padded | substituted | failed
  deriving DecidableEq, Repr

/-- A request of a sample list: an entry's stream and frame, and what became of it. -/
structure SampleReq where
  stream   : Nat                       -- stream ID
  frame    : Nat
  deadline : Option Nat := none        -- µs of the model's clock
  pic      : Option Picture := none    -- decoded
  body     : Option (List Byte) := none  -- found in the cache
  hopeless : Bool := false             -- cannot be concealed (R468)
  late     : Bool := false
  gone     : Bool := false             -- dropped from a REPLACE list
  deriving DecidableEq, Repr

/-- A slot of a sample list. -/
structure SampleSlot where
  dst      : Nat
  req      : Option Nat := none       -- the request it has taken
  how      : How := .pending
  mask     : Bool := false
  prepared : Bool := false            -- its sample has been written, or its policy disposed of it
  stream   : Nat := 0                 -- used
  frame    : Nat := 0
  deriving DecidableEq, Repr

/-- A sample list in progress (R464 to R469). -/
structure SampleRun where
  seq     : Word
  layer   : Nat
  addr    : Nat
  slate   : Nat
  mask    : Nat
  policy  : Nat
  reqs    : List SampleReq
  slots   : List SampleSlot
  queue   : List Nat := []            -- REPLACE: requests not yet taken, in order
  settled : Nat := 0
  dropped : Nat := 0
  deriving DecidableEq, Repr

/-- An entry of the rushes cache (R473). -/
structure RushEnt where
  key    : Nat
  frame  : Nat
  prep   : Nat
  blocks : Nat
  body   : List Byte
  hitAt  : Nat
  reading : Nat := 0             -- hits reading it
  deriving DecidableEq, Repr

/-- An insertion on its way to the cache (R475). -/
structure RushIns where
  key    : Nat
  frame  : Nat
  prep   : Nat
  body   : List Byte
  deriving DecidableEq, Repr

/-- The rushes cache (R473 to R476, R479). -/
structure Rush where
  ents    : List RushEnt := []
  inserts : List RushIns := []
  hit     : Word := 0
  miss    : Word := 0
  evict   : Word := 0
  busy    : Option Bool := none       -- FLUSH (true) or INVAL (false) waiting for the reads in progress
  disc    : Half := 0
  keyReg  : Dword := 0
  tick    : Nat := 0
  deriving DecidableEq, Repr

/-- Video ingest. -/
structure Video where
  ctxs    : Tab StreamCtx := []
  engines : Tab Engine := []
  runs    : List SampleRun := []
  rush    : Rush := {}
  deriving DecidableEq, Repr

end Sys2Proof.Machine
end

