-- ==== Sys2Proof/Machine/Parts/Dma.lean ====
section
/-! DEFINITION. The state of the DMA engines and mail slots (13_dma_and_mail_slots) and of the edge engines
(07_convolution_and_edge R247). -/

namespace Sys2Proof.Machine

/-- A used dimension of a walk (R419, R420): runs read, further zero positions, strides. -/
structure DmaDim where
  n  : Nat
  z  : Nat
  ss : Int
  ds : Int
  deriving DecidableEq, Repr

/-- A descriptor as the engine reads it (R419), with the progress of its walk: position, offset in the position. -/
structure DmaDesc where
  seq     : Word
  layer   : Nat := 0
  core    : Option Nat := none     -- the core that issued it; none for a host command
  src     : Nat
  dst     : Nat
  run     : Nat
  zrun    : Nat := 0
  dims    : List DmaDim := []      -- innermost first; unused dimensions are one position
  swap    : Nat := 0
  crc     : Nat := 0
  prio    : Nat := 0
  cq      : Bool := false
  reqline : Nat := 0
  slotted : Bool := false
  pkt     : Bool := false
  skind   : Bool := false
  dkind   : Bool := false
  slot0   : Nat := 0
  period  : Nat := 0
  slots   : Nat := 0
  slate   : Nat := 0               -- absolute
  sig     : Bool := false
  add     : Word := 0
  tag     : Word := 0
  checked : Bool := false
  pos     : Nat := 0
  off     : Nat := 0
  ovr    : Bool := false          -- every burst issued
  bytes   : Nat := 0               -- bytes written
  acc     : Nat := 0xFFFFFFFF      -- CRC accumulator
  poison  : Bool := false
  pref    : Option Nat := none     -- the prefetch run it stages, by its number in the command (R379)
  relay   : Option (Nat × Nat) := none  -- on engine 34: the cluster engine and channel that relay its bursts (R418)
  relayed : Bool := false          -- its bytes come from engine 34
  buf     : List Byte := []        -- bytes relayed and not yet written
  deriving DecidableEq, Repr

/-- A channel (R422, R424, R427). -/
structure DmaChan where
  queue  : List DmaDesc := []
  reqs   : Byte := 0
  passed : Nat := 0                -- consecutive grants for which it was ready and passed over
  deriving DecidableEq, Repr

/-- An engine (R416, R447). -/
structure DmaEng where
  age   : Byte := 0x40
  base  : BitVec 57 := 0
  log2  : BitVec 5 := 0
  prod  : Half := 0
  cons  : Half := 0
  drop  : Half := 0
  chans : Tab DmaChan := []
  last  : List Nat := [31, 31, 31, 31]   -- channel last served at each priority
  deriving DecidableEq, Repr

/-- A read word of a mail slot with its tag's fields (R440, R441). -/
structure MailWord where
  data   : List Byte
  bytes  : Nat
  fin    : Bool
  loss   : Bool
  packet : Half
  word   : Half
  deriving DecidableEq, Repr

/-- A frame packet of engine 33 and the stream job it becomes (R463, R474): the sample slot it fills. -/
structure StreamJob where
  seq    : Word
  list   : Nat                       -- address of the sample list
  slot   : Nat                       -- slot of the list
  ctx    : Nat
  frame  : Nat
  pic    : Option Picture := none    -- a decoded picture
  body   : List Byte := []           -- a cached sample: dense rows, then the luma plane
  deriving DecidableEq, Repr

/-- A mail slot (R438 to R447). -/
structure MailSlot where
  words    : List MailWord := []
  part     : List Byte := []          -- bytes of the word being filled
  packet   : Half := 0
  word     : Half := 0
  loss     : Bool := false
  idleUs   : Half := 0x01F4
  idle     : Bool := false
  fired    : Bool := false            -- the idle event has been sent since the last read
  overflow : Bool := false
  dropped  : Word := 0
  tag      : Dword := 0
  feeds    : List StreamJob := []     -- frame packets for the slot, the first under way
  sent     : Nat := 0                 -- write words of the first one sent
  deriving DecidableEq, Repr

/-- A job of an edge engine (R247): a stream job at a mail slot, or a core's EDGE instruction with its descriptor. -/
inductive EdgeJob where
  | stream (m : Nat) (job : StreamJob)
  | core (w : Nat) (seq : Word) (kern : Option Kern) (desc : List Byte)
  deriving DecidableEq, Repr

/-- An edge engine. -/
structure Edge where
  streamQ : List EdgeJob := []
  coreQ   : List EdgeJob := []
  running : Option EdgeJob := none
  waited  : List Nat := []    -- for each core job in turn, the consecutive stream jobs it has waited through
  deriving DecidableEq, Repr

/-- The DMA engines, mail slots and edge engines. -/
structure Dma where
  engs  : Tab DmaEng := []
  mail  : Tab MailSlot := []
  edges : Tab Edge := []
  deriving DecidableEq, Repr

end Sys2Proof.Machine
end

