-- ==== Sys2Proof/Machine/Parts/Fabric.lean ====
section
/-! DEFINITION. The state of the OzLink fabric (16_ozlink_fabric). -/

namespace Sys2Proof.Machine

/-- STATE of a port (R550). -/
inductive PortState where
  | down | training | up | foreign | quarantined | disabled | conflict
  deriving DecidableEq, Repr

/-- A frame (R526). -/
structure Frame where
  type    : Nat
  vc      : Nat
  epar    : Bool
  dst     : Nat
  src     : Nat
  tag     : Nat
  hops    : Nat
  flow    : Nat := 0
  status  : Nat := 0
  addr    : Nat := 0
  ask     : Nat := 0             -- LEN of a RD_REQ
  payload : List Byte := []
  deriving DecidableEq, Repr

/-- A flit sent and not yet acknowledged: its SEQ and whether it carries frame bytes (R525). -/
structure TxFlit where
  seq  : BitVec 12
  idle : Bool
  deriving DecidableEq, Repr

/-- A port (R522 to R525, R528, R548 to R550). -/
structure FabPort where
  state    : PortState := .down
  width    : BitVec 2 := 0
  ppart    : BitVec 5 := 0          -- PARTNER_PORT
  pid      : BitVec 12 := 0         -- PARTNER_ID
  pvalid   : Bool := false
  puid     : Option (BitVec 128) := none
  disable  : Bool := false
  present  : Bool := false          -- a cable is present (R652)
  window   : BitVec 11 := 0         -- violations in the open window
  opened   : Option Nat := none     -- µs at which the open violation window opened
  pquar    : Bool := false          -- the partner advertises QUARANTINED
  last     : BitVec 4 := 0
  vtot     : Word := 0
  corrected : Half := 0
  replays  : Half := 0
  credits  : List Nat := [0, 0, 0]  -- flits of frame space the partner has granted, by VC
  owe      : List Nat := [0, 0, 0]  -- flits taken in and not yet returned by a CREDIT, by VC
  txq      : List (List Frame) := [[], [], []]
  txSeq    : BitVec 12 := 0         -- SEQ of the next flit
  sent     : List TxFlit := []      -- replay buffer, oldest first
  resends  : Nat := 0               -- resends in a row of the oldest flit
  rxSeq    : BitVec 12 := 0xFFF     -- last SEQ received in order
  askAgain : Bool := false          -- REPLAY is set in the flits sent
  deriving DecidableEq, Repr

/-- A routing entry (R535). -/
structure Route where
  ports : BitVec 20 := 0
  dist  : Nat := 0
  valid : Bool := false
  deriving DecidableEq, Repr

/-- A routing table with its epoch. -/
structure RouteTable where
  epoch  : Word := 0
  routes : Tab Route := []
  deriving DecidableEq, Repr

/-- What a request asks of its destination. -/
inductive ReqKind where
  | read (addr bytes : Nat)
  | write (addr : Nat)
  | slate (op : Nat) (who : Waiter)
  deriving DecidableEq, Repr

/-- A request that awaits its response (R537, R543). -/
structure FabReq where
  tag  : Nat
  dst  : Nat
  flow : Nat
  epar : Bool
  seq  : Word
  kind : ReqKind
  since : Nat := 0               -- µs at which it was sent
  deriving DecidableEq, Repr

/-- What the coordinator knows of a port from the last LINK_REPORT about it: whether the link is usable, the partner's UID. -/
structure LinkInfo where
  dev     : BitVec 128
  port    : Nat
  usable  : Bool
  partner : BitVec 128
  deriving DecidableEq, Repr

/-- A device the coordinator knows: its UID, and its fabric ID once assigned (R532, R534). -/
structure FabDev where
  uid : BitVec 128
  id  : Option Nat
  deriving DecidableEq, Repr

/-- An open coalescing window (R546): its key, the frames counted in it, and the µs at which it opened. -/
structure FabWindow where
  key   : FaultKey
  count : Nat
  since : Nat
  deriving DecidableEq, Repr

/-- An entry of the tally table (R547). -/
structure Tally where
  key     : FaultKey
  first   : BitVec 12
  reports : Half
  dups    : Word
  deriving DecidableEq, Repr

/-- STATE of FAB_STATUS (R550). -/
inductive FabState where
  | off | training | electing | mapping | committed | isolated | failed
  deriving DecidableEq, Repr

/-- The fabric unit. -/
structure Fabric where
  id        : BitVec 12 := 0
  assigned  : Bool := false
  coord     : Bool := false
  state     : FabState := .off
  epoch     : Word := 0
  coordUid  : BitVec 128 := 0
  coordId   : BitVec 12 := 0
  devices   : Nat := 0
  timeout   : Half := 0x0064
  frFwd     : Word := 0
  frDup     : Word := 0
  frOver    : Word := 0
  unroute   : Word := 0
  ports     : Tab FabPort := []
  cur       : RouteTable := {}
  prev      : Option RouteTable := none
  staged    : RouteTable := {}         -- a table on its way, from ASSIGN and TABLE
  stagedId  : Option (BitVec 12) := none
  lowest    : Option (BitVec 128) := none
  parent    : Option Nat := none
  lowestAt  : Nat := 0                 -- µs of the last change of `lowest`
  joined    : Bool := false            -- `lowest` is the coordinator of a committed fabric
  gone      : Option (BitVec 128) := none   -- a coordinator that became unreachable
  topoAt    : Nat := 0                 -- µs of the last LINK_REPORT that changed the topology
  commitAt  : Nat := 0                 -- µs of the last commit
  links     : List LinkInfo := []      -- the coordinator's topology
  devs      : List FabDev := []
  topoDirty : Bool := false            -- a topology change not yet in the tables
  windows   : List FabWindow := []     -- open coalescing windows
  tallyHead : BitVec 10 := 0
  tally     : Tab Tally := []
  reqs      : List FabReq := []
  nextTag   : Nat := 0
  got       : Tab Byte := []           -- peer bytes received and not yet used: fabric ID times 2^40 plus address
  deriving DecidableEq, Repr

end Sys2Proof.Machine
end

