-- ==== Sys2Proof/Machine/Parts/Fault.lean ====
section
/-! DEFINITION. The state of the fault unit (20_faults_and_perturbation) and of the dailies (18_dailies). -/

namespace Sys2Proof.Machine

/-- A fault report on its way or logged (R619). -/
structure Report where
  cls     : Byte
  subject : Half
  cause   : Half
  seq     : Word
  detail  : Dword
  deriving DecidableEq, Repr

/-- An entry of the fault log (R622). -/
structure FltEntry where
  report    : Report := ⟨0, 0, 0, 0, 0⟩
  fenced    : Bool := false
  forwarded : Bool := false
  fatal     : Bool := false
  perturbed : Bool := false
  epoch     : Word := 0
  fepoch    : Word := 0
  dups      : Word := 0
  deriving DecidableEq, Repr

/-- An open coalescing window (R621): its key, its log entry while that is not overwritten, its duplicates. -/
structure FltWindow where
  subject : Half
  cls     : Byte
  fepoch  : Word
  entry   : Option Nat
  dups    : Word := 0
  since   : Nat := 0             -- µs at which it opened
  deriving DecidableEq, Repr

/-- A perturbation kind (R634, R635, R639). -/
structure TstKind where
  enable : Bool := false
  rate   : Byte := 0
  target : BitVec 11 := 0x7FF
  amount : BitVec 12 := 0
  count  : Word := 0
  gen    : Word := 1
  deriving DecidableEq, Repr

/-- The fault unit and the perturbation block. -/
structure FaultUnit where
  fatal     : Bool := false
  lastClass : Byte := 0
  irq       : Bool := false
  vector    : BitVec 6 := 0
  head      : Byte := 0
  log       : Tab FltEntry := []
  cnt       : Word := 0
  dup       : Word := 0
  supp      : Word := 0
  ovr      : Word := 0
  windows   : List FltWindow := []
  inFlight  : List Report := []          -- reports on the request channels
  fenced    : Tab Byte := []             -- fenced cores, the class that fenced each (CORE_FENCE)
  standby   : Tab Nat := []              -- by cluster, the physical core whose rank its standby has taken
  drains    : List (Nat × Word) := []    -- drained cores and the FENCE_CORE that waits on each
  retired   : List Nat := []             -- islands whose retirement was acted upon (R620)
  failed    : List Nat := []             -- channels whose failure was acted upon (R620)
  tstSeed   : Word := 1
  tstLocked : Word := 0
  tst       : Tab TstKind := []
  ecc       : Tab Half := []             -- CORE_ECC.CORR by core window
  deriving DecidableEq, Repr

/-- The dailies (R580 to R598). Counters and selects are numbered in one row: core windows first, 32 each; then
clusters, 64 each, from 17,408; then dies, 128 each, from 19,456. -/
structure Perf where
  period   : BitVec 24 := 0
  epoch    : Word := 0                 -- the I/O die's epoch
  ringBase : Dword := 0
  ringLog2 : BitVec 4 := 0
  ringEn   : Bool := false
  prod     : Half := 0
  cons     : Half := 0
  drop     : Word := 0
  skip     : Word := 0
  userVa   : Dword := 0
  cnt      : Tab (BitVec 48) := []     -- live counters
  sel      : Tab (BitVec 10) := []     -- select registers as written
  selNew   : List Nat := []            -- counters whose select was written and waits for a token (R582)
  selOn    : Tab (BitVec 10) := []     -- selects in force
  latched  : Tab Dword := []           -- entries of the record under way, by counter number
  reached  : List Nat := []            -- units the present token has reached
  token    : Option (Bool × Word) := none  -- record under way: SNAP, token number
  skipped  : Bool := false             -- a tick was skipped since the previous record
  deriving DecidableEq, Repr

end Sys2Proof.Machine
end

