-- ==== Sys2Proof/Machine/Parts/Gaffer.lean ====
section
/-! DEFINITION. The state of the gaffer (19_gaffer) and of the module around the package (21_module). -/

namespace Sys2Proof.Machine

/-- What GAF_ISL_i holds of an island (R617). -/
structure Island where
  step    : Byte := 0
  slack   : Half := 0
  ratio   : Half := 0
  emerg   : Byte := 0
  retired : Bool := false
  deriving DecidableEq, Repr

/-- The gaffer. -/
structure Gaffer where
  la       : BitVec 4 := 8
  lv       : BitVec 4 := 8
  lh       : BitVec 3 := 4
  limiter  : BitVec 3 := 0
  tripped  : Bool := false      -- the device has tripped (R608)
  tripReg  : Bool := false      -- GAF_STATUS.TRIPPED
  cap      : BitVec 11 := 0x708
  p100     : BitVec 12 := 0
  p10ms    : BitVec 12 := 0
  samples  : List Nat := []         -- input power samples in W, newest first, at most 1,000
  ovr     : Nat := 0               -- samples above 2,100 W in a row
  junction : Byte := 0
  hbm      : Byte := 0
  inlet    : Byte := 0
  outlet   : Byte := 0
  hotIsl   : BitVec 11 := 0
  above    : Bool := false          -- the 100 °C rule lowers
  hold     : Bool := false          -- the thermal hold forbids raises
  hbmHot   : Bool := false          -- the 83 °C rule lowers LH
  trip105  : Option Nat := none     -- µs since which a junction has been at or above 105 °C
  cntOver  : Byte := 0
  cntHot   : Byte := 0
  cntEmerg : Byte := 0
  cntRetired : Byte := 0
  life     : Word := 0
  stress   : Word := 0
  lifeUs   : Nat := 0               -- µs of the hour of operation under way
  stressUs : Nat := 0               -- µs of the hour above 95 °C under way
  tripTemp : Byte := 0              -- hottest junction at the trip (R554)
  planAt   : Nat := 0               -- µs of the last plan or re-plan
  planOwed : Bool := false          -- a re-plan waits for a trip to end (R611)
  raised   : BitVec 11 := 0
  isls     : Tab Island := []
  serial   : Word := 0              -- SERIAL of the newest ageing record
  agePos   : Nat := 0               -- index in the ring of the next ageing record
  deriving DecidableEq, Repr

/-- The module's edges (R642 to R651): package power good holds at the model's reset, stage A still to come. -/
structure Module where
  modEn   : Bool := true
  vinOk   : Bool := true     -- VIN rose above 46.5 V and met no condition of R645 since
  cold    : Bool := false    -- an interval of BOOT_CTL.COLD is running
  railsOff : Bool := true    -- every rail has been off for 100 ms since power good last fell
  good    : Bool := true     -- package power good, MOD_PG
  alert   : Bool := false    -- power good fell for a cause that holds MOD_ALERT# low
  pgAt    : Nat := 0         -- µs at which power good rose
  slot    : BitVec 3 := 0    -- MOD_SLOT
  i3cAddr : Option Byte := none   -- dynamic address of the I3C target
  deriving DecidableEq, Repr

end Sys2Proof.Machine
end

