-- ==== Sys2Proof/Machine/Parts/Memory.lean ====
section
/-! DEFINITION. The state of the memory manager (11_memory_tiers) and of the HBM subsystem (12_hbm). -/

namespace Sys2Proof.Machine

/-- A page table leaf (R368, R369), one per page, and what the memory manager knows of it. -/
structure Leaf where
  va     : Nat
  lg     : Nat             -- log2 of the page size
  loc    : Nat             -- 0 HBM, 1 host, 2 peer
  wr     : Bool
  pin    : Bool
  mig    : Bool := false
  addr   : Nat
  fabric : Nat := 0
  drawn  : Option Nat := none   -- quota class of a page ALLOC drew
  used   : Nat := 0        -- order of its last translation (R376)
  deriving DecidableEq, Repr

/-- Why a page migrates (R374). -/
inductive MigCause where
  | hint (seq : Word)
  | demote
  | swapOut (seqIx : Nat)
  | swapIn (seqIx : Nat)
  | cow (take : Nat)
  deriving DecidableEq, Repr

/-- A page migration under way (R375): the page by its present address, its size, where it goes. -/
structure Migration where
  leafVa  : Option Nat       -- a leaf of the paged region, or a list page
  src     : Nat
  srcLoc  : Nat
  lg      : Nat
  dst     : Nat
  dstLoc  : Nat
  cause   : MigCause
  pinNow  : Bool := false
  held    : List (Nat × List Byte) := []   -- held writes: offset in the page, bytes
  owed    : List FrameHdr := []            -- requests of peers among them, answered once they are performed (R540)
  deriving DecidableEq, Repr

/-- A MIGRATE_HINT under way (R378). -/
structure HintRun where
  seq     : Word
  left    : Nat
  moved   : Nat
  skipped : Nat
  deriving DecidableEq, Repr

/-- A map operation's operands (R371), as GO found them. -/
structure MapOp where
  op    : Nat
  count : Nat
  va    : Nat
  lg    : Nat
  entry : Nat
  deriving DecidableEq, Repr

/-- The map port and the other MEM_ registers (R392). -/
structure MemRegs where
  cap      : Word := 0x00090000
  tableBase : Dword := 0
  mapVa    : Dword := 0
  mapEntry : Dword := 0
  mapOp    : BitVec 3 := 0
  mapCount : BitVec 24 := 0
  mapBusy  : Bool := false
  mapHeld  : Bool := false      -- the operation waits for a migration (R372)
  mapJob   : Option MapOp := none  -- the operation the last GO started
  mapResult : BitVec 3 := 0
  overrun  : Bool := false
  waterLow : Half := 0
  waterHigh : Half := 0
  migCnt   : Word := 0
  pfProxy  : Half := 0
  pfLate   : Half := 0
  idleUs   : Half := 0x0064
  forceWake : Bool := false
  marScope : BitVec 2 := 0
  marPreserve : Bool := false
  marDie   : BitVec 2 := 0
  marCluster : BitVec 3 := 0
  marCore  : BitVec 5 := 0
  marBusy  : Bool := false
  marResult : BitVec 3 := 0
  marFails : Half := 0
  marFail  : Dword := 0
  bgEnable : Bool := false
  bgPeriod : Half := 0x03E8
  bgRegions : BitVec 31 := 0
  bgFail   : Bool := false
  deriving DecidableEq, Repr

/-- The memory manager: page table, pool, migrations and SRAM. -/
structure MemMgr where
  regs     : MemRegs := {}
  leaves   : List Leaf := []              -- ascending address
  used     : List (Nat × Nat) := []       -- HBM extents not in the free pool: base, bytes; ascending
  classUse : List Nat := [0, 0]           -- HBM bytes drawn by each quota class
  pageCls  : Tab Nat := []                -- quota class of each drawn page, by address
  swapUsed : List (Nat × Nat) := []       -- extents of the host swap region in use
  migs     : List Migration := []
  hints    : List HintRun := []
  drainTo  : List (Nat × Nat) := []       -- extents an UNMAP returns once its accesses drain
  tick     : Nat := 0                     -- translation order
  cmOut    : Tab Dword := []              -- MEM_CM_OUT_n
  retained : List (Nat × Nat × Nat) := [] -- banks in retention: kind, unit, bank
  marBanks : List (Nat × Nat × Nat) := [] -- banks of the march test under way
  marKeep  : Bool := false                -- it is a preserving one
  toMapOut : List (Nat × Nat) := []       -- cluster memory banks to map out once no allocation holds them (R620)
  bgPos    : Nat := 0                     -- next region of the background test
  sram     : Mem := []                    -- by the physical SRAM offset of R366
  host     : Mem := []                    -- host memory as the device sees it
  deriving DecidableEq, Repr

/-- A channel's record (R414). -/
structure HbmChan where
  failed   : Bool := false
  corr     : Half := 0
  uncorr   : Byte := 0
  recent   : List Nat := []     -- µs of its latest uncorrectable bursts, newest first, 16 at most
  deriving DecidableEq, Repr

/-- A soft-repaired row (R407, R408). -/
structure RowRemap where
  chan : Nat
  pc   : Nat
  row  : Nat                    -- SID, bank group, bank and row as HBM_REPAIR_CTL bits [29:9] hold them
  deriving DecidableEq, Repr

/-- A write waiting in a pseudo-channel's queue (R409) is already merged in `bytes`; the queue keeps its burst. -/
structure HbmMem where
  bytes    : Mem := []                  -- by device physical address
  poison   : List Nat := []             -- poisoned bursts (address divided by 64), ascending
  bad      : List Nat := []             -- bursts detected as uncorrectable and not written since
  out      : List Nat := []             -- mapped-out channels, ascending
  chans    : Tab HbmChan := []
  trained  : Bool := false
  auto     : Bool := true
  scrubHours : Byte := 0x18
  passes   : Half := 0
  fixed    : Half := 0
  fixedNow : Nat := 0                   -- bursts written back in the pass under way
  scrubPos : Nat := 0
  errLast  : Dword := 0
  repChan  : Byte := 0
  repPc    : Bool := false
  repRow   : BitVec 21 := 0             -- bits [29:9] of HBM_REPAIR_CTL
  repHard  : Bool := false
  repBusy  : Bool := false
  repResult : BitVec 2 := 0
  repTarget : Option RowRemap := none   -- the row under repair, its requests held
  autoQ    : List RowRemap := []        -- rows the base die will repair on its own
  remaps   : List RowRemap := []
  hardReq  : List RowRemap := []
  blown    : List RowRemap := []        -- rows blown into the core dies' fuses
  recOwed  : Bool := false              -- a change the repair record does not yet hold (R659)
  rowFixes : Tab Nat := []              -- bursts corrected in the present pass, by row number
  writeQ   : Tab (List Nat) := []       -- bursts queued, by pseudo-channel
  deriving DecidableEq, Repr

end Sys2Proof.Machine
end

