-- ==== Sys2Proof/Machine/Parts/Takes.lean ====
section
/-! DEFINITION. The state of the take manager (02_takes_and_the_cut), the reel table (03_reels) and the batch
sequences (04_attention_and_kv). -/

namespace Sys2Proof.Machine

/-- A page entry of a list (R36), and whether the page stands in the host swap region (R136, R159). -/
structure PageEnt where
  offset  : Nat
  lg      : Nat      -- log2 of the page size
  page    : Nat      -- device address: physical in HBM, or in the host swap region when swapped
  swapped : Bool := false
  kv      : Bool := false   -- a KV page (R139)
  deriving DecidableEq, Repr

/-- A page's key in the reference counts: its address, host pages from 2^60. -/
def PageEnt.key (e : PageEnt) : Nat := if e.swapped then e.page + 2 ^ 60 else e.page

/-- STATE of a take (R35). -/
inductive TakeState where
  | free | idle | advancing | preempted | releasing
  deriving DecidableEq, Repr

/-- A take table entry with its list (R35, R36). -/
structure Take where
  state    : TakeState := .free
  cls      : Nat := 0
  root     : Bool := false
  gen      : Byte := 0
  set      : BitVec 12 := 0xFFF
  parent   : Word := 0
  forkStep : Word := 0
  steps    : Word := 0
  score    : Word := 0
  pages    : List PageEnt := []
  reels    : List Word := []
  listAt   : Nat := 0              -- LIST
  seed     : List Byte := List.replicate 16 0
  reserve  : List Nat := []        -- reserve pages not yet used, by address
  rsvSize  : BitVec 5 := 0
  born     : Word := 0
  kvLg     : Nat := 0              -- KV page size it grows with, log2; 0 none yet
  tokens   : Nat := 0              -- tokens its KV holds
  window   : Nat := 0              -- next free KV offset of its take window
  grown    : Bool := false         -- the growth of the step under way is allocated
  deriving DecidableEq, Repr

/-- A copy-on-write copy under way (R41 to R43), with the stores it holds. -/
structure PageCopy where
  take   : Nat
  src    : Nat          -- key of the source page; from 2^60 a host page (R45)
  lg     : Nat
  dst    : Nat
  held   : List (Nat × List Byte) := []
  deriving DecidableEq, Repr

/-- A copy-on-write fault the take manager has not resolved (R41, R46): the take, the page, the held store. -/
structure CowFault where
  take   : Nat
  src    : Nat
  lg     : Nat
  offset : Nat
  bytes  : List Byte
  deriving DecidableEq, Repr

/-- A page count update on its way to its count unit (R38, R39); `owner` is the command that waits for it (R26). -/
structure CountUpd where
  page  : Nat          -- key of the page
  lg    : Nat
  raise : Nat
  lower : Nat
  owner : Option Word
  deriving DecidableEq, Repr

/-- A cut or prune whose count updates are still under way. -/
structure CutRun where
  seq    : Word
  left   : Nat
  freed  : Nat
  result : List Byte       -- its result area, the pages returned to be filled in at `at_`
  at_    : Nat
  deriving DecidableEq, Repr

/-- A PRUNE_TAKE held for a step boundary (R27, R48). -/
structure HeldPrune where
  seq  : Word
  take : Nat
  deriving DecidableEq, Repr

/-- The take manager. -/
structure TakeMgr where
  takes  : Tab Take := []
  counts : Tab Nat := []           -- reference counts by page key
  locks  : List Nat := []          -- keys of copy-locked pages, one entry per copy under way
  faults : List CowFault := []
  copies : List PageCopy := []
  updQ   : List CountUpd := []
  cuts   : List CutRun := []
  prunes : List HeldPrune := []
  copiesMade : Tab Nat := []       -- copies by advancing command
  pruned : Tab Nat := []           -- takes pruned during an advance, by command
  scores : List (Word × Nat × Bool × Word) := []  -- updates for the boundary: command, take, SET, value
  deriving DecidableEq, Repr

/-- STATE of a reel (R92). -/
inductive ReelState where
  | free | stored | resident | pinned | swapIn | swapOut | saved | lost
  deriving DecidableEq, Repr

/-- Where a resident reel stands (R92, R94): a bank row or a shelf row of a core. -/
structure ReelPlace where
  core  : Nat        -- core window
  bank  : Nat
  shelf : Bool
  slot  : Nat        -- shelf slot
  row   : Nat
  wlog  : Nat        -- log2 of the row's width
  deriving DecidableEq, Repr

/-- A reel table entry with its values (R92, R93, R104). -/
structure Reel where
  state   : ReelState := .free
  gen     : Byte := 0
  format  : BitVec 5 := 0
  wlog    : BitVec 4 := 0
  elements : Nat := 0
  steps   : Dword := 0
  folds   : Word := 0
  drift   : Word := 0
  limit   : Word := 0
  mObs    : Word := 0
  count   : Word := 0
  place   : Option ReelPlace := none
  store   : Nat := 0               -- STORE
  last    : Word := 0
  chunk   : Half := 0              -- L of the last chunk folded (R121)
  aMax    : Word := 0              -- A_max (R112)
  cls     : Nat := 0               -- class of its last chunk (R117)
  foldAt  : Nat := 0               -- order of its last fold (R117)
  soft    : Bool := false          -- software holds a reference
  v       : List Word := []        -- resident values V
  c       : List Half := []        -- resident values C
  imgV    : List Word := []        -- the store image
  imgC    : List Half := []
  imgOk   : Bool := false          -- the image holds the chunk-start state (R132)
  begun   : Bool := false          -- a swap-out has begun writing (R118)
  swapFor : Option Word := none    -- the chunk the swap-in was issued for
  deriving DecidableEq, Repr

/-- A chunk, held or running (R98 to R102): the reels it names and the cores that hold their rows. -/
structure Chunk where
  seq     : Word
  layer   : Nat := 0
  steps   : Nat
  format  : BitVec 5
  masked  : Bool
  wb      : Bool
  wlog    : Nat
  reels   : List Nat
  masks   : Nat
  running : Bool := false
  step    : Nat := 0
  deltas  : Tab (List Word) := []   -- D by reel
  zeroed  : Tab Nat := []           -- reels reset during the chunk, the step of the reset
  losses  : Tab Word := []          -- sum of the largest discarded amounts, by reel
  base    : Nat := 0                -- steps of its descriptor that an earlier chunk has folded (R131)
  copies  : List (Nat × Nat) := []  -- positions whose shared reel is still to be copied for a take (R57)
  again   : Bool := false           -- a replay whose reels, pinned, wait for their rows (R132)
  redo    : Nat := 0                -- steps of an advance to run again in a replay (log entry 118)
  seen    : Tab (List Nat) := []    -- the state as the present step reads it, encodings of the in-chunk format by reel (R102)
  deriving DecidableEq, Repr

/-- The reel table and the chunks. -/
structure ReelMgr where
  reels  : Tab Reel := []
  chunks : List Chunk := []
  tick   : Nat := 0             -- fold order
  moves  : List (Nat × ReelPlace) := []   -- shelf moves under way: reel, where it goes
  owed   : List Nat := []       -- references to drop after a fold (R129)
  wanted : List Nat := []       -- imported reels whose swap-in waits for a row (R123)
  deriving DecidableEq, Repr

/-- STATE of a batch sequence (R136). -/
inductive SeqState where
  | free | active | preempted | releasing
  deriving DecidableEq, Repr

/-- A sequence table entry with its list (R136). -/
structure SeqEnt where
  state  : SeqState := .free
  cls    : Nat := 0
  gen    : Byte := 0
  plog   : BitVec 5 := 0
  length : Nat := 0
  tpp    : Nat := 0
  pages  : List PageEnt := []
  born   : Word := 0
  listAt : Nat := 0
  owner  : Word := 0        -- the command that holds it
  grown  : Bool := false    -- the growth of the step under way is allocated
  deriving DecidableEq, Repr

/-- A memory-order boundary that waits for pages to be freed or brought back (R153, R159, R161). -/
structure Boundary where
  seq    : Word
  since  : Nat
  first  : Bool          -- the boundary of the command's dispatch
  inward : Bool := false -- growth is met; swapped pages of resuming sequences are on their way back
  list   : Nat := 0      -- entries of the batch list
  posted : Bool := true  -- false: a batch boundary whose list the program has not shown yet
  left   : Bool := false -- its leaving sequences have left
  deriving DecidableEq, Repr

/-- The batch sequences. -/
structure KvMgr where
  seqs  : Tab SeqEnt := []
  waits : List Boundary := []
  deriving DecidableEq, Repr

end Sys2Proof.Machine
end

