-- ==== Sys2Proof/Machine/State.lean ====
section
/-! DEFINITION. The state of the ZVN-8576LQ, its faults and refusals, and the machine right after power-on. -/

namespace Sys2Proof.Machine

/-- Why a step stops with a fault. Every device fault the manual describes is an effect on the state, not one of these. -/
inductive Fault where
  /-- CXL_MEM_READ or CXL_MEM_WRITE of a line at or beyond the usable capacity of R398, which no HDM decoder maps (safe). -/
  | noSuchAddress
  deriving DecidableEq, Repr

/-- Why a command is refused. -/
inductive Refusal where
  /-- Raised by an arm of exec not written yet (safe). -/
  | notModelled (mnemonic : String)
  /-- Raised by TAP_INSTRUCTION when the port is open: what it then reaches is not described (safe). -/
  | debugPort
  deriving DecidableEq, Repr

/-- The whole state. -/
structure State where
  pending : List Instr := []         -- waiting commands, first in first out
  host    : HostIf := {}
  cmds    : Tab Cmd := []            -- accepted commands by sequence number
  progs   : Tab ProgSlot := []
  sched   : Sched := {}
  flt     : FaultUnit := {}
  perf    : Perf := {}
  mem     : MemMgr := {}
  hbm     : HbmMem := {}
  takes   : TakeMgr := {}
  reels   : ReelMgr := {}
  kv      : KvMgr := {}
  cores   : Tab Core := []
  dma     : Dma := {}
  video   : Video := {}
  boot    : Boot := {}
  fab     : Fabric := {}
  gaf     : Gaffer := {}
  mod     : Module := {}
  out     : List Out := []           -- what the device has sent, newest last (the model's own record)
  nowUs   : Nat := 0                 -- µs of the model's clock (the model's own; log entry 2)
  freeCtr : Nat := 0                 -- index of the next free value (the model's own; log entry 4)
  deriving DecidableEq, Repr

/-- The machine right after power-on, before stage A. -/
def State.reset : State := {}

end Sys2Proof.Machine
end

