-- ==== Sys2Proof/Machine/Clock.lean ====
section
/-! DEFINITION. What a step does besides running a command: the queue's front taken, a command put there, and the clock on an empty
queue (log entries 1 and 2). -/

namespace Sys2Proof.Machine

/-- The state with the queue replaced. -/
def State.withPending (s : State) (q : List Instr) : State := { s with pending := q }

/-- A microsecond in which no command arrives: the model's clock moves on. -/
def State.idle (s : State) : State := { s with nowUs := s.nowUs + 1 }

end Sys2Proof.Machine
end

