-- ==== Sys2Proof/Config.lean ====
section
/-! DEFINITION. What the manual leaves open: free values, opaque, so that no proof can know one. Each is applied to
the operands it depends on, or to the plain counter `State.freeCtr`. -/

namespace Sys2Proof

/-- STEPPING of HIF_ID (R520): silicon stepping, not stated. -/
opaque Config.stepping : BitVec 4

/-- Vendor ID (R486): assigned, not stated. -/
opaque Config.vendorId : Half

/-- The IDCODE of the TAP (R574): not stated. -/
opaque Config.idcode : Word

/-- Where in the table store, in pages of 4 KiB, the memory manager places the table of a level that serves a prefix of the
address (R367): not stated below level 4. -/
opaque Config.tablePage : Nat → Nat → Nat

/-- The result of a transcendental operation of R213 on an ordinary argument: only a bound is stated. -/
opaque Config.transc : Nat → Word → Word

/-- The order in which a unit adds the terms of one floating-point sum where the manual gives none (R220): the terms run by
ascending key; the first argument is the draw. -/
opaque Config.sumKey : Nat → Nat → Nat

/-- Where in the fuse array SEC_PROG_ addresses a bit of a field lies (R566, R567), by the field's row in R566: not stated. -/
opaque Config.fuseAt : Nat → Nat → Nat

/-- Entropy (the nonce of R575 and SPDM responder randomness): the n-th draw. -/
opaque Config.entropy : Nat → Dword

/-- Whether an ML-DSA-65 signature over a message verifies under a public key (R561): the algorithm is external. -/
opaque Config.mldsaOk : List Byte → List Byte → List Byte → Bool

/-- A signature, key or certificate byte string the device produces (R571, R572): the algorithm is external. -/
opaque Config.cryptoBytes : Nat → List Byte → List Byte

/-- Bytes a dropped access leaves undefined (R348) and other undefined data: the n-th draw. -/
opaque Config.freeWord : Nat → Word

end Sys2Proof
end

