-- ==== Sys2Proof/Machine/Digest.lean ====
section
/-! DEFINITION. The exact bit functions the manual names: SHA3-256 (R70, R502, R561), CRC-32C (R431), the
Philox4x32-10 generator (R71, R281) and the Reed-Solomon code of a burst (R403 to R405). -/

namespace Sys2Proof.Machine

/-! SHA3-256, which the manual names and does not spell out: the permutation is PRESUMED from the published standard (log entry 62).
A state is 25 lanes of 64 bits, lane `x + 5 y` in row `y`. -/

/-- A 64-bit lane turned left by `k` of its bits. -/
def turnLane (v k : Nat) : Nat := v * 2 ^ k % 2 ^ 64 + v / 2 ^ (64 - k)

/-- The lane at an index of a state. -/
def lane (a : List Nat) (i : Nat) : Nat := nth a i 0

/-- The five rows of a state. -/
def keccakRows (a : List Nat) : List (List Nat) := [a.take 5, (a.drop 5).take 5, (a.drop 10).take 5, (a.drop 15).take 5, a.drop 20]

/-- Two rows added lane by lane. -/
def addRow (p q : List Nat) : List Nat := List.zipWith Nat.xor p q

/-- A row shifted round: what stood `k` lanes to the right. -/
def rowFrom (k : Nat) (p : List Nat) : List Nat := p.drop k ++ p.take k

/-- Every row with the parities of the columns beside it added, the right one turned. -/
def keccakMix (rows : List (List Nat)) : List (List Nat) :=
  let par := rows.foldl addRow [0, 0, 0, 0, 0]
  rows.map (addRow (addRow (rowFrom 4 par) ((rowFrom 1 par).map (fun v => turnLane v 1))))

/-- The lanes carried along their one walk `(x, y) to (y, 2 x + 3 y)`: lane `v`, in hand, is put down at the next place, turned by
the triangular number of the places passed, and the lane found there is taken up. -/
def keccakWalk : Nat → Nat × Nat → Nat → List Nat → List Nat
  | 0, _, _, a => a
  | left + 1, (x, y), v, a =>
    let z := (2 * x + 3 * y) % 5
    let passed := 24 - left
    keccakWalk left (y, z) (lane a (y + 5 * z)) (a.set (y + 5 * z) (turnLane v (passed * (passed + 1) / 2 % 64)))

/-- A row with each lane changed by the two to its right: the bits of the second that the first lacks. -/
def keccakBend (p : List Nat) : List Nat :=
  addRow p (List.zipWith (fun u v => v ^^^ (u &&& v)) (rowFrom 1 p) (rowFrom 2 p))

/-- One step of the register the round constants come from. -/
def keccakClock (r : Nat) : Nat := if r < 128 then 2 * r else (2 * r) ^^^ 0x171

/-- The constant of a round and the register after it: seven bits of the register stand at places 1, 2, 4 to 64. -/
def keccakConst : Nat → Nat → Nat → Nat × Nat
  | 0, r, c => (c, r)
  | n + 1, r, c => keccakConst n (keccakClock r) (c + r % 2 * 2 ^ (2 ^ (6 - n) - 1))

/-- Rounds from a value of the constants' register. -/
def keccakRounds : Nat → Nat → List Nat → List Nat
  | 0, _, a => a
  | n + 1, r, a =>
    let mixed := (keccakMix (keccakRows a)).flatten
    let bent := (keccakRows (keccakWalk 24 (1, 0) (lane mixed 1) mixed)).flatMap keccakBend
    match keccakConst 7 r 0 with
    | (c, r) => keccakRounds n r (bent.set 0 (lane bent 0 ^^^ c))

/-- The Keccak-f[1600] permutation. -/
def keccakF (a : List Nat) : List Nat := keccakRounds 24 1 a

/-- A state with one 136-byte block absorbed. -/
def keccakAbsorb (a : List Nat) (block : List Byte) : List Nat :=
  keccakF ((List.range 25).map (fun i => lane a i ^^^ (if i < 17 then recField block (8 * i) 8 else 0)))

/-- All blocks absorbed, `n` of them. -/
def keccakBlocks : Nat → List Nat → List Byte → List Nat
  | 0, a, _ => a
  | n + 1, a, bs => keccakBlocks n (keccakAbsorb a (bs.take 136)) (bs.drop 136)

/-- The padding of SHA-3 at rate 136. -/
def sha3Pad (n : Nat) : List Byte :=
  let k := 136 - n % 136
  if k = 1 then [0x86#8] else 0x06#8 :: (List.replicate (k - 2) 0#8 ++ [0x80#8])

/-- The SHA3-256 digest, 32 bytes. -/
def sha3_256 (m : List Byte) : List Byte :=
  let p := m ++ sha3Pad m.length
  let a := keccakBlocks (p.length / 136) (List.replicate 25 0) p
  (List.range 4).flatMap (fun i => leBytes 8 (lane a i))

/-- One bit of the reflected CRC-32C register (R431). -/
def crcBit (c : Nat) : Nat := if c % 2 = 1 then (c / 2) ^^^ 0x82F63B78 else c / 2

/-- A byte folded into the CRC register. -/
def crcByte (c : Nat) (b : Byte) : Nat :=
  crcBit (crcBit (crcBit (crcBit (crcBit (crcBit (crcBit (crcBit (c ^^^ b.toNat))))))))

/-- The CRC register after a run of bytes, from a given register. -/
def crcRun (c : Nat) (bs : List Byte) : Nat := bs.foldl crcByte c

/-- CRC-32C: initial value and final XOR all ones (R431). -/
def crc32c (bs : List Byte) : Nat := crcRun 0xFFFFFFFF bs ^^^ 0xFFFFFFFF

/-- One round of Philox4x32; the multipliers are PRESUMED from the published generator the manual names (log entry 62). -/
def philoxRound (k0 k1 : Nat) (c : Nat × Nat × Nat × Nat) : Nat × Nat × Nat × Nat :=
  match c with
  | (c0, c1, c2, c3) =>
    let p0 := 0xD2511F53 * c0
    let p1 := 0xCD9E8D57 * c2
    ((p1 / 2 ^ 32) ^^^ c1 ^^^ k0, p1 % 2 ^ 32, (p0 / 2 ^ 32) ^^^ c3 ^^^ k1, p0 % 2 ^ 32)

/-- `n` rounds of Philox4x32, the key bumped between rounds. -/
def philoxRounds : Nat → Nat → Nat → Nat × Nat × Nat × Nat → Nat × Nat × Nat × Nat
  | 0, _, _, c => c
  | n + 1, k0, k1, c =>
    philoxRounds n ((k0 + 0x9E3779B9) % 2 ^ 32) ((k1 + 0xBB67AE85) % 2 ^ 32) (philoxRound k0 k1 c)

/-- Word `i` of Philox4x32-10 (R71). -/
def philox (k0 k1 c0 c1 c2 c3 i : Nat) : Nat :=
  match philoxRounds 10 k0 k1 (c0, c1, c2, c3) with
  | (w0, w1, w2, w3) => match i % 4 with | 0 => w0 | 1 => w1 | 2 => w2 | _ => w3

/-! The code of R403 over GF(2^8), field polynomial `x^8 + x^4 + x^3 + x^2 + 1`, `α = 2`. -/

/-- Multiplication by `α`. -/
def gfX (a : Nat) : Nat := if a < 128 then 2 * a else (2 * a - 256) ^^^ 0x1D

/-- Product in GF(2^8), one bit of the second factor at a time. -/
def gfMulGo : Nat → Nat → Nat → Nat
  | 0, _, _ => 0
  | n + 1, a, b => (if b % 2 = 1 then a else 0) ^^^ gfMulGo n (gfX a) (b / 2)

/-- Product in GF(2^8). -/
def gfMul (a b : Nat) : Nat := gfMulGo 8 a b

/-- Power in GF(2^8). -/
def gfPow (a : Nat) : Nat → Nat
  | 0 => 1
  | n + 1 => gfMul a (gfPow a n)

/-- Inverse in GF(2^8): the 254th power, by squarings. -/
def gfInv (a : Nat) : Nat :=
  let a2 := gfMul a a
  let a4 := gfMul a2 a2
  let a8 := gfMul a4 a4
  let a16 := gfMul a8 a8
  let a32 := gfMul a16 a16
  let a64 := gfMul a32 a32
  let a128 := gfMul a64 a64
  gfMul a2 (gfMul a4 (gfMul a8 (gfMul a16 (gfMul a32 (gfMul a64 a128)))))

/-- Horner value of a polynomial, highest coefficient first. -/
def gfEval (p : List Nat) (x : Nat) : Nat := p.foldl (fun acc c => gfMul acc x ^^^ c) 0

/-- The generator of R403 without its leading one, highest coefficient first: the product of `(x - α^i)`, `i` to 7. -/
def rsGen : List Nat :=
  ((List.range 8).foldl (fun (g : List Nat) i =>
    let r := gfPow 2 i
    (g ++ [0]).zipWith (fun a b => a ^^^ b) (0 :: g.map (gfMul r))) [1]).drop 1

/-- The eight check bytes of a run of data bytes, highest power first. -/
def rsCheck (data : List Nat) : List Nat :=
  data.foldl (fun (r : List Nat) d =>
    match r with
    | [] => []
    | h :: t => let f := d ^^^ h
                (t ++ [0]).zipWith (fun a g => a ^^^ gfMul f g) rsGen) (List.replicate 8 0)

/-- The eight syndromes of a word, highest power first. -/
def rsSyndromes (w : List Nat) : List Nat := (List.range 8).map (fun i => gfEval w (gfPow 2 i))

/-- The poison syndrome of R405: that of check bytes each off by 0xA5. -/
def poisonSyndromes : List Nat := rsSyndromes (List.replicate 8 0xA5)

/-- The state of the locator search: locator, previous locator, its discrepancy, length and gap. -/
structure BmState where
  c : List Nat   -- locator, lowest coefficient first
  b : List Nat
  d : Nat
  l : Nat
  m : Nat
  deriving DecidableEq, Repr

/-- Sum of two polynomials, lowest coefficient first. -/
def polyAdd : List Nat → List Nat → List Nat
  | [], q => q
  | p, [] => p
  | a :: p, b :: q => (a ^^^ b) :: polyAdd p q

/-- One syndrome taken into the locator search (Berlekamp and Massey). -/
def bmStep (syn : List Nat) (st : BmState) (n : Nat) : BmState :=
  let disc := (List.range (st.l + 1)).foldl (fun acc i => acc ^^^ gfMul (nth st.c i 0) (nth syn (n - i) 0)) 0
  if disc = 0 then ⟨st.c, st.b, st.d, st.l, st.m + 1⟩
  else
    let t := polyAdd st.c (List.replicate st.m 0 ++ st.b.map (gfMul (gfMul disc (gfInv st.d))))
    if 2 * st.l ≤ n then ⟨t, st.c, disc, n + 1 - st.l, 1⟩ else ⟨t, st.b, st.d, st.l, st.m + 1⟩

/-- The decoder's answer for an error pattern. -/
inductive RsAnswer where
  | clean
  | corrected (fix : List (Nat × Nat))   -- power of `x` and value removed
  | poisoned
  | detected
  deriving DecidableEq, Repr

/-- The decoder of R403 and R405 on the syndromes of a word of `len` symbols, up to four errors. -/
def rsDecode (len : Nat) (syn : List Nat) : RsAnswer :=
  if syn = poisonSyndromes then .poisoned
  else if syn.all (fun s => s == 0) then .clean
  else
    let st := (List.range 8).foldl (bmStep syn) ⟨[1], [1], 1, 0, 1⟩
    let loc := st.c
    let roots := (List.range len).filter (fun p => gfEval loc.reverse (gfInv (gfPow 2 p)) == 0)
    if 4 < st.l ∨ roots.length ≠ st.l then .detected
    else
      let omega := (List.range 8).map (fun k =>
        (List.range (k + 1)).foldl (fun acc i => acc ^^^ gfMul (nth loc i 0) (nth syn (k - i) 0)) 0)
      let fix := roots.map (fun p =>
        let x := gfPow 2 p
        let xi := gfInv x
        let num := gfEval omega.reverse xi
        let den := (List.range loc.length).foldl (fun acc i =>
          if i % 2 = 1 then acc ^^^ gfMul (nth loc i 0) (gfPow xi (i - 1)) else acc) 0
        (p, gfMul x (gfMul num (gfInv den))))
      let residue := (List.range 8).map (fun i =>
        fix.foldl (fun acc q => acc ^^^ gfMul q.2 (gfPow (gfPow 2 i) q.1)) (nth syn i 0))
      if residue.all (fun s => s == 0) then .corrected fix else .detected

/-- Syndromes of an error pattern over a burst: symbol `k` is the coefficient of `x^(71-k)` (R403). -/
def burstSyndromes (errs : List (Fin 72 × Byte)) : List Nat :=
  (List.range 8).map (fun i => errs.foldl (fun acc e => acc ^^^ gfMul e.2.toNat (gfPow (gfPow 2 i) (71 - e.1.val))) 0)

/-- What the decoder answers for an error pattern over a burst (R405). -/
def burstDecode (errs : List (Fin 72 × Byte)) : RsAnswer := rsDecode 72 (burstSyndromes errs)

end Sys2Proof.Machine
end

