-- ==== Sys2Proof/Machine/Ops.lean ====
section
/-! DEFINITION. Operations every unit shares: fields of the call sheet, counters of the dailies (R580 to R584),
fault reports on their way (R619), the violation log (R519), accepted commands and their order (R20, R22), and
free values. -/

namespace Sys2Proof.Machine

/-- A field of the call sheet in force (R562): `n` bytes at `off`. -/
def State.sheet (s : State) (off n : Nat) : Nat := recField s.boot.sheet off n

/-- Whether the device dispatches nothing more: a fatal fault (R633) or a trip (R608). -/
def State.stopped (s : State) : Bool := s.flt.fatal || s.gaf.tripped

/-- Whether a debug grant of R575 is in force: every one while the fuses read OPEN (R579). -/
def State.granted (s : State) (i : Nat) : Bool := s.boot.fuses.dbgFuse == 0 || s.boot.grants.toNat.testBit i

/-- The n-th free word and the state with the draw counted. -/
def State.draw (s : State) : Word × State := (Config.freeWord s.freeCtr, { s with freeCtr := s.freeCtr + 1 })

/-! ### Counters -/

/-- The fixed core counter of an event (R583). -/
def fixedCore (ev : Nat) : Option Nat := if ev < 12 then some ev else if ev = 0x0E1 then some 12 else none

/-- The fixed cluster counter of an event (R583). -/
def fixedCluster (ev : Nat) : Option Nat :=
  if 0x020 ≤ ev ∧ ev ≤ 0x024 then some (ev - 0x020) else if 0x0D5 ≤ ev ∧ ev ≤ 0x0D7 then some (ev - 0x0D0) else none

/-- The fixed compute die counter of an event (R583). -/
def fixedDie (ev : Nat) : Option Nat :=
  match ev with
  | 0x040 => some 0 | 0x120 => some 1 | 0x121 => some 2 | 0x122 => some 3 | 0x125 => some 4 | 0x126 => some 5
  | 0x127 => some 6 | 0x128 => some 7 | _ => none

/-- The fixed I/O die counter of an event (R583). -/
def fixedIo (ev : Nat) : Option Nat :=
  if 0x040 ≤ ev ∧ ev ≤ 0x045 then some (ev - 0x040) else if ev = 0x140 then some 6 else if ev = 0x150 then some 7 else none

/-- Where an event is counted (R580). -/
inductive At where
  | core (w : Nat)
  | cluster (n : Nat)
  | die (d : Nat)
  | io
  deriving DecidableEq, Repr

/-- The cluster of a core window (R487). -/
def clusterOf (w : Nat) : Nat := w / 17

/-- The die of a cluster. -/
def dieOfCluster (n : Nat) : Nat := n / 8

/-- The die of a core window. -/
def dieOf (w : Nat) : Nat := w / 136

/-- First number of a core's, a cluster's and a die's counters. -/
def cntCore (w : Nat) : Nat := 32 * w
/-- First number of a cluster's counters. -/
def cntCluster (n : Nat) : Nat := 17408 + 64 * n
/-- First number of a die's counters; the I/O die is die 4. -/
def cntDie (d : Nat) : Nat := 19456 + 128 * d

/-- Whether a counter (by number) counts what happens at a place: its own unit or a unit within it (R580). -/
def cntCovers (g : Nat) (a : At) : Bool :=
  if g < 17408 then (match a with | .core w => g / 32 == w | _ => false)
  else if g < 19456 then
    let n := (g - 17408) / 64
    match a with | .core w => clusterOf w == n | .cluster m => m == n | _ => false
  else
    let d := (g - 19456) / 128
    match a with
    | .core w => dieOf w == d && d < 4 | .cluster m => dieOfCluster m == d && d < 4 | .die e => e == d && d < 4 | .io => d == 4

/-- The fixed counter of an event at a place. -/
def fixedAt (a : At) (ev : Nat) : Option Nat :=
  match a with
  | .core w => (fixedCore ev).map (fun i => cntCore w + i)
  | .cluster n => (fixedCluster ev).map (fun i => cntCluster n + i)
  | .die d => (fixedDie ev).map (fun i => cntDie d + i)
  | .io => (fixedIo ev).map (fun i => cntDie 4 + i)

/-- The counters table with `n` added to one counter, modulo 2^48 (R581). -/
def addCnt (t : Tab (BitVec 48)) (g n : Nat) : Tab (BitVec 48) := Tab.upd t g 0#48 (fun v => v + BitVec.ofNat 48 n)

/-- Dailies with `n` events counted at a place: its fixed counter and every programmable counter that selects it. -/
def Perf.bump (p : Perf) (a : At) (ev n : Nat) : Perf :=
  if n = 0 then p
  else
    let c0 := match fixedAt a ev with | some g => addCnt p.cnt g n | none => p.cnt
    let gs := (p.selOn.filter (fun q => q.2.toNat == ev && cntCovers q.1 a)).map Prod.fst
    { p with cnt := gs.foldl (fun t g => addCnt t g n) c0 }

/-- The epoch of a unit (R588, R591): core windows, clusters from 544, dies from 576, the I/O die last. -/
def State.epochAt (s : State) (u : Nat) : Word :=
  match s.perf.token with
  | some (_, k) => if s.perf.reached.contains u then k else k - 1
  | none => s.perf.epoch

/-- Whether a core is fenced. -/
def State.isFenced (s : State) (w : Nat) : Bool := Tab.has s.flt.fenced w

/-- The state with `n` events counted at a place; a fenced core's counters stand still (R587). -/
def State.bump (s : State) (a : At) (ev n : Nat) : State :=
  match a with
  | .core w => if s.isFenced w then s else { s with perf := s.perf.bump a ev n }
  | _ => { s with perf := s.perf.bump a ev n }

/-- The event of a fixed counter, by number (R583). -/
def fixedEvent (g : Nat) : Option Nat :=
  if g < 17408 then (let i := g % 32; if i < 12 then some i else if i = 12 then some 0x0E1 else none)
  else if g < 19456 then (let i := (g - 17408) % 64; if i < 5 then some (0x020 + i) else if i < 8 then some (0x0D0 + i) else none)
  else
    let i := (g - 19456) % 128
    if 8 ≤ i then none
    else if (g - 19456) / 128 = 4 then some (nth [0x040, 0x041, 0x042, 0x043, 0x044, 0x045, 0x140, 0x150] i 0)
    else some (nth [0x040, 0x120, 0x121, 0x122, 0x125, 0x126, 0x127, 0x128] i 0)

/-- Whether an event is counted at a core (R584 and the tables of the other chapters). -/
def eventCore (e : Nat) : Bool :=
  e < 0x00C || (0x0C0 ≤ e && e < 0x0CA) || (0x0D0 ≤ e && e < 0x0D5) || (0x0E0 ≤ e && e < 0x0E8) || (0x0F0 ≤ e && e < 0x0F5) ||
  e == 0x101 || e == 0x102 || e == 0x105 || e == 0x106 || e == 0x161 || e == 0x162

/-- Whether an event is counted at a cluster. -/
def eventCluster (e : Nat) : Bool :=
  (0x020 ≤ e && e < 0x025) || (0x0D5 ≤ e && e < 0x0D8) || e == 0x110 || (0x112 ≤ e && e < 0x117) || (0x130 ≤ e && e < 0x135) || e == 0x136 || e == 0x137

/-- Whether an event is counted at a compute die. -/
def eventDie (e : Nat) : Bool :=
  e == 0x040 || e == 0x0F5 || e == 0x100 || e == 0x103 || e == 0x104 || e == 0x107 || e == 0x111 || e == 0x117 || (0x120 ≤ e && e < 0x12A) ||
  e == 0x135 || e == 0x163 || e == 0x173 || e == 0x174

/-- Whether an event is counted at the I/O die. -/
def eventIo (e : Nat) : Bool :=
  (0x040 ≤ e && e < 0x046) || e == 0x130 || e == 0x135 || (0x140 ≤ e && e < 0x148) || (0x150 ≤ e && e < 0x158) || e == 0x160 || e == 0x163 ||
  (0x170 ≤ e && e < 0x173) || e == 0x175

/-- Whether a counter may count an event (R580, R582). -/
def eventFits (g e : Nat) : Bool :=
  if g < 17408 then eventCore e
  else if g < 19456 then eventCluster e || eventCore e
  else if g < 19968 then eventDie e || eventCluster e || eventCore e
  else eventIo e

/-- Events that count cycles or what only timing or a failing cell decides, of which this model keeps no count. -/
def eventTimed (e : Nat) : Bool :=
  e < 0x00A || [0x0D2, 0x0D7, 0x0E5, 0x0E7, 0x0F4, 0x102, 0x105, 0x110, 0x116, 0x122, 0x123, 0x124, 0x134, 0x153, 0x161, 0x162].contains e

/-- The event a counter counts. -/
def Perf.event (p : Perf) (g : Nat) : Nat := (fixedEvent g).getD (Tab.at p.selOn g 0#10).toNat

/-! ### Perturbation -/

/-- One shift of a kind's generator (R635): a right shift, the mask added where a 1 leaves. -/
def galois (g : Word) : Word := if g.toNat.testBit 0 then (g >>> 1) ^^^ 0x80200003 else g >>> 1

/-- `n` shifts of a generator. -/
def galoisN : Nat → Word → Word
  | 0, g => g
  | n + 1, g => galoisN n (galois g)

/-- An event of a perturbation kind at a unit (R634, R635): the generator shifted where it matches, and whether it is
perturbed. -/
def State.perturb (s : State) (k unit : Nat) : State × Bool :=
  let t := Tab.at s.flt.tst k {}
  if !t.enable || (t.target != 0x7FF && t.target.toNat != unit) then (s, false)
  else
    let g := galoisN 8 t.gen
    let hit := decide (g.toNat % 256 ≤ t.rate.toNat)
    let s := { s with flt := { s.flt with tst := Tab.put s.flt.tst k { t with gen := g, count := if hit then t.count + 1 else t.count } } }
    (if hit then s.bump .io 0x175 1 else s, hit)

/-- Events of the kinds whose events this model does not hold, handshake crossings and assigned slots (R634): as many as it may be
were perturbed since it was last asked (log entry 106). -/
def State.settleTst (s : State) : State :=
  [0, 1].foldl (fun s k =>
    let t := Tab.at s.flt.tst k {}
    if t.enable then
      match s.draw with
      | (n, s) => ({ s with flt := { s.flt with tst := Tab.put s.flt.tst k { t with count := t.count + n } } }).bump .io 0x175 n.toNat
    else s) s

/-! ### Live counters -/

/-- The live value of a counter (R581, R582): free where its event is one of timing, but for a core that a fence has stopped (R587). -/
def State.counterNow (s : State) (g : Nat) : Nat × State :=
  let e := s.perf.event g
  let s := if e = 0x175 then s.settleTst else s
  if !eventFits g e then (0, s)
  else if eventTimed e && !(decide (g < 17408) && s.isFenced (g / 32)) then
    match s.draw with
    | (a, s) => match s.draw with | (b, s) => (a.toNat + 2 ^ 32 * (b.toNat % 65536), s)
  else ((Tab.at s.perf.cnt g 0#48).toNat, s)

/-! ### Reports and violations -/

/-- A fault report sent on its request channel (R619). -/
def State.report (s : State) (cls subject cause : Nat) (seq : Word) (detail : Nat) : State :=
  { s with flt := { s.flt with inFlight := s.flt.inFlight ++
    [⟨BitVec.ofNat 8 cls, BitVec.ofNat 16 subject, BitVec.ofNat 16 cause, seq, BitVec.ofNat 64 detail⟩] } }

/-- A violation written to the log (R519). -/
def State.violation (s : State) (kind where_ addr : Nat) : State :=
  let h := s.host
  { s with host := { h with
      violLog := Tab.put h.violLog h.violHead.toNat
        { kind := BitVec.ofNat 8 kind, where_ := BitVec.ofNat 16 where_, epoch := s.perf.epoch, addr := BitVec.ofNat 64 addr }
      violHead := h.violHead + 1
      violCnt := h.violCnt + 1 } }

/-- Something sent out of the device. -/
def State.send (s : State) (o : Out) : State := { s with out := s.out ++ [o] }

/-! ### Accepted commands -/

/-- The accepted command of a sequence number. -/
def State.cmd? (s : State) (seq : Word) : Option Cmd := Tab.find s.cmds seq.toNat

/-- The state with a command's entry written. -/
def State.setCmd (s : State) (seq : Word) (c : Cmd) : State := { s with cmds := Tab.put s.cmds seq.toNat c }

/-- The state with a command's entry changed, if it has one. -/
def State.updCmd (s : State) (seq : Word) (f : Cmd → Cmd) : State :=
  match s.cmd? seq with
  | some c => s.setCmd seq (f c)
  | none => s

/-- A field of a command record: `n` bytes at `off` (R498). -/
def Cmd.fieldN (c : Cmd) (off n : Nat) : Nat := recField c.record off n

/-- The opcode of a command record. -/
def Cmd.opcode (c : Cmd) : Nat := c.fieldN 0 1

/-- The class of a command: 0 latency-critical, 1 best-effort. -/
def Cmd.cls (c : Cmd) : Nat := c.fieldN 1 1 % 2

/-- The completion queue of a command. -/
def Cmd.queue (c : Cmd) : Nat := c.fieldN 2 1 % 64

/-- SLATE_BASE of a command. -/
def Cmd.slateBase (c : Cmd) : Nat := c.fieldN 16 4

/-- The handle of a command (R493). -/
def Cmd.handle (c : Cmd) (seq : Word) : Dword :=
  BitVec.ofNat 64 (c.gen.toNat * 2 ^ 48 + c.cls * 2 ^ 40 + (c.slot % 256) * 2 ^ 32 + seq.toNat)

/-- Whether one sequence number comes before another: the signed difference is negative (R491). -/
def seqBefore (a b : Word) : Bool := (a - b).msb

/-- A command's flags with one bit of R14 set. -/
def State.setFlag (s : State) (seq : Word) (bit : Nat) : State :=
  s.updCmd seq (fun c => { c with flags := c.flags ||| BitVec.ofNat 8 (2 ^ bit) })

/-- The core at a window. -/
def State.core (s : State) (w : Nat) : Core := Tab.at s.cores w {}

/-- The state with a core written. -/
def State.setCore (s : State) (w : Nat) (c : Core) : State := { s with cores := Tab.put s.cores w c }

/-- The state with a core changed. -/
def State.updCore (s : State) (w : Nat) (f : Core → Core) : State := s.setCore w (f (s.core w))

/-- The kernel placed on a core, if any. -/
def State.kernOn (s : State) (w : Nat) : Option Kern :=
  match (s.core w).owner with
  | none => none
  | some (seq, layer) => s.sched.kerns.find? (fun k => k.seq == seq && k.layer == layer)

/-- The kernel of a command's layer, if any. -/
def State.kern? (s : State) (seq : Word) (layer : Nat) : Option Kern :=
  s.sched.kerns.find? (fun k => k.seq == seq && k.layer == layer)

/-- The state with a kernel entry replaced. -/
def State.setKern (s : State) (k : Kern) : State :=
  { s with sched := { s.sched with kerns := s.sched.kerns.map (fun j => if j.seq == k.seq && j.layer == k.layer then k else j) } }

/-- Subject encodings of R619: a core. -/
def subjCore (w : Nat) : Nat := w
/-- A cluster memory. -/
def subjCluster (n : Nat) : Nat := 0x2000 + n
/-- A die spine. -/
def subjSpine (d : Nat) : Nat := 0x4000 + d
/-- An HBM channel. -/
def subjChan (c : Nat) : Nat := 0x6000 + c
/-- An I/O die unit. -/
def subjIo (u : Nat) : Nat := 0x8000 + u
/-- An island. -/
def subjIsland (i : Nat) : Nat := 0xA000 + i
/-- A decode engine. -/
def subjDec (e : Nat) : Nat := 0xC000 + e

end Sys2Proof.Machine
end

