-- ==== Sys2Proof/Machine/Frames.lean ====
section
/-! DEFINITION. Frames leaving the device: path choice (R535, R536), credits and flits (R524, R525, R528), requests and
their tags (R537, R539), and the bytes of peers (R539). -/

namespace Sys2Proof.Machine

/-! ### Ports and routes -/

/-- A port. -/
def State.port (s : State) (p : Nat) : FabPort := Tab.at s.fab.ports p {}

/-- The state with a port written. -/
def State.setPort (s : State) (p : Nat) (v : FabPort) : State := { s with fab := { s.fab with ports := Tab.put s.fab.ports p v } }

/-- A routing entry of a table: its own ID's has no port (R535). -/
def RouteTable.route (t : RouteTable) (own dst : Nat) : Route := if dst = own then { valid := true } else Tab.at t.routes dst {}

/-- The hash of path choice (R536). -/
def flowHash (src dst flow : Nat) : Nat := (src ^^^ dst) ^^^ (flow * 37 % 4096)

/-- The port a frame takes from an entry (R536). -/
def Route.pick (r : Route) (src dst flow : Nat) : Option Nat :=
  let l := maskIxs 20 r.ports.toNat
  if r.valid && !l.isEmpty then l[flowHash src dst flow % l.length]? else none

/-- The table a parity names: the present one, or the previous one while it is kept (R537). -/
def Fabric.tableFor (f : Fabric) (epar : Bool) : RouteTable :=
  match f.prev with
  | some t => if t.epoch.toNat.testBit 0 = epar ∧ f.cur.epoch.toNat.testBit 0 ≠ epar then t else f.cur
  | none => f.cur

/-- Whether a fabric ID has a valid entry that leads out of a port. -/
def Fabric.routed (f : Fabric) (dst : Nat) : Bool := (Tab.at f.cur.routes dst {}).valid && decide ((Tab.at f.cur.routes dst {}).ports ≠ 0)

/-! ### Sending -/

/-- Flits of frame space a frame takes: header and payload (R524, R526). -/
def Frame.flits (f : Frame) : Nat := ceilDiv (16 + f.payload.length) 244

/-- Whether a port sends a frame of a VC: UP for all, any trained state for HELLO (R530, R549). -/
def FabPort.carries (p : FabPort) (type : Nat) : Bool :=
  p.state == .up || (type == 0x10 && (p.state == .foreign || p.state == .quarantined || p.state == .conflict))

/-- The flits of a frame put into the replay buffer. -/
def FabPort.flitsOut (p : FabPort) : Nat → FabPort
  | 0 => p
  | n + 1 => FabPort.flitsOut { p with sent := p.sent ++ [⟨p.txSeq, false⟩], txSeq := p.txSeq + 1 } n

/-- The frames of one VC sent while there is credit for them and room in the replay buffer (R525, R528). -/
def drainVc (p : FabPort) (vc : Nat) : List Frame → FabPort × List Frame × List Frame
  | [] => (p, [], [])
  | f :: rest =>
    let have_ := nth p.credits vc 0
    if f.flits ≤ have_ ∧ p.sent.length + f.flits ≤ 512 ∧ p.carries f.type then
      let p := ({ p with credits := p.credits.set vc (have_ - f.flits) }).flitsOut f.flits
      match drainVc p vc rest with
      | (p, left, out) => (p, left, f :: out)
    else (p, f :: rest, [])

/-- A frame as the model's record of what left the device shows it. -/
def Frame.out (f : Frame) (p : Nat) : Out :=
  .frame p f.type f.dst f.src [f.tag, f.hops, if f.type = 0x01 then f.ask else ceilDiv f.payload.length 16, f.flow, f.status, f.addr, b2n f.epar, f.vc] f.payload

/-- A port's queues drained as far as credit allows, management first, then responses, then requests (R528). -/
def State.drainPort (s : State) (p : Nat) : State :=
  [2, 1, 0].foldl (fun s vc =>
    let v := s.port p
    match drainVc v vc (nth v.txq vc []) with
    | (v, left, out) =>
      let s := s.setPort p { v with txq := v.txq.set vc left }
      let s := out.foldl (fun s f => s.send (f.out p)) s
      s.bump .io 0x150 (out.foldl (fun a f => a + f.flits) 0)) s

/-- A frame put on a port. -/
def State.sendOn (s : State) (p : Nat) (f : Frame) : State :=
  let v := s.port p
  (s.setPort p { v with txq := v.txq.set f.vc (nth v.txq f.vc [] ++ [f]) }).drainPort p

/-- A frame routed by the table of its parity and sent (R536, R537): none where its destination has no valid entry. -/
def State.route? (s : State) (f : Frame) : Option State :=
  (((s.fab.tableFor f.epar).route s.fab.id.toNat f.dst).pick f.src f.dst f.flow).map (fun p => s.sendOn p f)

/-- A frame of this device sent where it can be. -/
def State.sendFrame (s : State) (f : Frame) : State := (s.route? f).getD s

/-- Whether a frame carries the parity of the present epoch. -/
def Fabric.parity (f : Fabric) : Bool := f.cur.epoch.toNat.testBit 0

/-- A response sent back to a requester (R526, R540). -/
def State.respond (s : State) (type flow status : Nat) (h : FrameHdr) (payload : List Byte) : State :=
  s.sendFrame { type := type, vc := 1, epar := s.fab.parity, dst := h.src.toNat, src := s.fab.id.toNat, tag := h.tag.toNat, hops := 15
                flow := flow, status := status, addr := h.addr.toNat, payload := payload }

/-! ### Requests -/

/-- The parity a flow's next request carries: that of its requests still awaiting a response, else the present one (R537). -/
def Fabric.flowParity (f : Fabric) (dst flow : Nat) : Bool :=
  match f.reqs.find? (fun r => r.dst == dst && r.flow == flow) with
  | some r => r.epar
  | none => f.parity

/-- A request sent: its tag kept until its response (R526, R539, R541). -/
def State.request (s : State) (seq : Word) (dst flow type addr : Nat) (payload : List Byte) (kind : ReqKind) : State :=
  let ep := s.fab.flowParity dst flow
  let tag := s.fab.nextTag
  let r : FabReq := { tag := tag, dst := dst, flow := flow, epar := ep, seq := seq, kind := kind, since := s.nowUs }
  let s := { s with fab := { s.fab with reqs := s.fab.reqs ++ [r], nextTag := (tag + 1) % 65536 } }
  let s := s.bump .io (match kind with | .read _ _ => 0x154 | .write _ => 0x155 | .slate _ _ => 0x156) 1
  s.sendFrame { type := type, vc := 0, epar := ep, dst := dst, src := s.fab.id.toNat, tag := tag, hops := 15, flow := flow, addr := addr
                ask := match kind with | .read _ n => ceilDiv n 16 | _ => 0, payload := payload }

/-- Whether a request is a remote wait (R542). -/
def FabReq.waits (r : FabReq) : Bool := match r.kind with | .slate op _ => decide (op ≤ 1) | _ => false

/-- The remote waits among some requests cancelled (R542), and the requests no longer awaited. -/
def State.cancelWaits (s : State) (f : FabReq → Bool) : State :=
  let gone := s.fab.reqs.filter (fun r => r.waits && f r)
  let s := { s with fab := { s.fab with reqs := s.fab.reqs.filter (fun r => !(r.waits && f r)) } }
  gone.foldl (fun s r => s.sendFrame
    { type := 0x07, vc := 0, epar := r.epar, dst := r.dst, src := s.fab.id.toNat, tag := r.tag, hops := 15, flow := r.flow }) s

/-- The requests of a command given up: its remote waits cancelled, its other responses discarded when they come. -/
def State.dropReqs (s : State) (seq : Word) : State :=
  let s := s.cancelWaits (fun r => r.seq == seq)
  { s with fab := { s.fab with reqs := s.fab.reqs.filter (fun r => r.seq != seq) } }

/-- A range cut at 256-byte boundaries, `fuel` pieces at most (R526, R539). -/
def cut256 : Nat → Nat → Nat → List (Nat × Nat)
  | 0, _, _ => []
  | f + 1, a, n => if n = 0 then [] else let k := min n (256 - a % 256)
                   (a, k) :: cut256 f (a + k) (n - k)

/-- Bytes stored at a peer: WR_REQ frames of at most 256 bytes (R539). -/
def State.peerWrite (s : State) (seq : Word) (flow id ad : Nat) (bs : List Byte) : State :=
  (cut256 (bs.length + 1) ad bs.length).foldl (fun s c => s.request seq id flow 0x02 c.1 ((bs.drop (c.1 - ad)).take c.2) (.write c.1)) s

/-- Whether every byte of a peer's range has been received. -/
def Fabric.hasAll (f : Fabric) (id ad n : Nat) : Bool := (List.range n).all (fun i => Tab.has f.got (id * 2 ^ 40 + ad + i))

/-- The units of 16 bytes a run of bytes touches, in which a RD_REQ asks for them (R526). -/
def units16 (ad n : Nat) : Nat × Nat := (ad / 16 * 16, ceilDiv (ad % 16 + n) 16 * 16)

/-- RD_REQ frames sent for the parts of a peer's range that are neither received nor asked for (R539). -/
def State.peerAsk (s : State) (seq : Word) (flow id ad n : Nat) : State :=
  (cut256 (n + 32) (units16 ad n).1 (if n = 0 then 0 else (units16 ad n).2)).foldl (fun s c =>
    if s.fab.hasAll id c.1 c.2 || s.fab.reqs.any (fun r => r.dst == id && r.seq == seq && r.kind == .read c.1 c.2) then s
    else s.request seq id flow 0x01 c.1 [] (.read c.1 c.2)) s

/-- The bytes of a peer's range: those received, free values where none were (R539; log entry 40). -/
def State.peerRead (s : State) (id ad n : Nat) : List Byte :=
  (List.range n).map (fun i => (Tab.find s.fab.got (id * 2 ^ 40 + ad + i)).getD ((Config.freeWord (id * 2 ^ 40 + ad + i)).setWidth 8))

/-- A peer's range used: the bytes received for it are not kept. -/
def State.peerUsed (s : State) (id ad n : Nat) : State :=
  let u := units16 ad n
  { s with fab := { s.fab with got := s.fab.got.filter (fun p => !(decide (id * 2 ^ 40 + u.1 ≤ p.1) && decide (p.1 < id * 2 ^ 40 + u.1 + u.2))) } }

end Sys2Proof.Machine
end

