-- ==== Sys2Proof/Machine/Token.lean ====
section
/-! DEFINITION. The snapshot token's way through the device (R582, R587 to R590): what a unit does when the first copy reaches it,
and the copy that travels ahead of every message of a unit that has latched. -/

namespace Sys2Proof.Machine

/-- The state with the dailies changed. -/
def State.updPerf (s : State) (f : Perf → Perf) : State := { s with perf := f s.perf }

/-- The counters of a unit: core windows, then clusters, then dies. -/
def unitCounters (u : Nat) : List Nat :=
  if u < 544 then (List.range 32).map (fun i => cntCore u + i)
  else if u < 576 then (List.range 64).map (fun i => cntCluster (u - 544) + i)
  else (List.range 128).map (fun i => cntDie (u - 576) + i)

/-- The unit that counts what happens at a place. -/
def At.unit (a : At) : Nat := match a with | .core w => w | .cluster n => 544 + n | .die d => 576 + d | .io => 580

/-- STATE of a core window (R521): 0 in service, 1 unused standby, 2 fenced. -/
def State.coreState (s : State) (w : Nat) : Nat :=
  if s.isFenced w then 2 else if w % 17 = 16 ∧ Tab.has s.flt.standby (w / 17) = false then 1 else 0

/-- VALID of a counter's entry (R582, R587, R593). -/
def State.entryValid (s : State) (g : Nat) : Bool := eventFits g (s.perf.event g) && (decide (17408 ≤ g) || s.coreState (g / 32) == 0)

/-- A counter latched (R593). -/
def State.latchCounter (s : State) (g : Nat) : State :=
  match s.counterNow g with
  | (v, s) =>
    let e := BitVec.ofNat 64 (v + 2 ^ 48 * s.perf.event g + 2 ^ 63 * b2n (s.entryValid g))
    s.updPerf (fun p => { p with latched := Tab.put p.latched g e })

/-- Selects written since the last token put in force, their counters at zero (R582). -/
def Perf.applySelects (p : Perf) (u : Nat) : Perf :=
  let gs := p.selNew.filter (fun g => (unitCounters u).contains g)
  { p with
    selOn := gs.foldl (fun t g => Tab.put t g (Tab.at p.sel g 0#10)) p.selOn
    cnt := gs.foldl (fun t g => Tab.del t g) p.cnt
    selNew := p.selNew.filter (fun g => !gs.contains g) }

/-- The first copy of token `k` reaches a unit: its counters latched, selects written put in force unless the unit is a fenced core,
the token's epoch begun (R582, R587 to R589). -/
def State.reach (s : State) (k : Word) (u : Nat) : State :=
  let s := (unitCounters u).foldl State.latchCounter s
  let fenced := s.isFenced u
  let s := s.updPerf (fun p => { (if fenced then p else p.applySelects u) with
    reached := p.reached ++ [u], epoch := if u = 580 then k else p.epoch })
  if u = 580 then s.bump .io 0x040 1 else if 576 ≤ u then s.bump (.die (u - 576)) 0x040 1 else s

/-- A message of one unit to another: a token copy travels ahead of it where the sender has latched, so that the receiver latches
before it counts the receipt (R589, R590). -/
def State.carry (s : State) (a b : At) : State :=
  match s.perf.token with
  | none => s
  | some (_, k) => if s.perf.reached.contains a.unit && !s.perf.reached.contains b.unit then s.reach k b.unit else s

/-- The counters of a core stopped at its fence: those of which the model keeps no count keep a last value (R587). -/
def State.stopCounters (s : State) (w : Nat) : State :=
  (unitCounters w).foldl (fun s g =>
    match s.counterNow g with
    | (v, s) => s.updPerf (fun p => { p with cnt := Tab.put p.cnt g (BitVec.ofNat 48 v) })) s

end Sys2Proof.Machine
end

