-- ==== Sys2Proof/Machine/Hbm.lean ====
section
/-! DEFINITION. The HBM subsystem (12_hbm): interleave (R396, R397), mapped-out channels (R398, R399), poison (R405)
and the device physical reads and writes every unit uses. -/

namespace Sys2Proof.Machine

/-- F(g) of R396. -/
def hbmF (g : Nat) : Nat := (g % 256) ^^^ ((g / 256) % 256) ^^^ ((g / 65536) % 256)

/-- G′ of R398: the groups that exist with `f` channels mapped out. -/
def hbmGroups (f : Nat) : Nat := 9437184 - 36864 * f

/-- Usable capacity in bytes (R398). -/
def State.hbmBytes (s : State) : Nat := hbmGroups s.hbm.out.length * 65536

/-- The n-th channel of 256 not in a list. -/
def nthGood (out : List Nat) (n : Nat) : Nat := nth ((List.range 256).filter (fun c => !(out.contains c))) n 0

/-- The channel and local block of a device physical address, and whether it is redirected (R396, R399). -/
def hbmChannel (out : List Nat) (pa : Nat) : Nat × Nat × Bool :=
  let g := pa / 65536
  let c := ((pa / 256) % 256) ^^^ hbmF g
  match out.idxOf? c with
  | none => (c, g, false)
  | some j =>
    let f := out.length
    let q := g * f + j
    (nthGood out (q % (256 - f)), hbmGroups f + q / (256 - f), true)

/-- Where a local block lies within its channel (R397): stack ID, pseudo-channel, bank group, bank, row. -/
def hbmPlace (h : Nat) : Nat × Nat × Nat × Nat × Nat :=
  let h' := h % 3145728
  (h / 3145728, h' % 2, fld h' 3 2 ^^^ fld h' 11 2, fld h' 5 2 ^^^ fld h' 13 2, fld h' 7 15)

/-- A row of a pseudo-channel as HBM_REPAIR_CTL bits [29:9] name it. -/
def hbmRowKey (sid bg ba row : Nat) : Nat := sid + 4 * bg + 16 * ba + 64 * row

/-- The row that holds a device physical address. -/
def hbmRow (out : List Nat) (pa : Nat) : RowRemap :=
  match hbmChannel out pa with
  | (c, h, _) => match hbmPlace h with | (sid, pc, bg, ba, row) => ⟨c, pc, hbmRowKey sid bg ba row⟩

/-- The channel base of a page (R402). -/
def hbmBase (pa : Nat) : Nat := ((pa / 256) % 256) ^^^ hbmF (pa / 65536)

/-- Whether two pages of one size are in the same copy class (R402). -/
def sameCopyClass (f pa pb : Nat) : Bool :=
  if f = 0 then hbmBase pa / 32 == hbmBase pb / 32
  else hbmBase pa == hbmBase pb && ((pa / 65536) * f) % (256 - f) == ((pb / 65536) * f) % (256 - f)

/-- The record of a channel. -/
def State.chan (s : State) (c : Nat) : HbmChan := Tab.at s.hbm.chans c {}

/-- The state with a channel's record written. -/
def State.setChan (s : State) (c : Nat) (v : HbmChan) : State := { s with hbm := { s.hbm with chans := Tab.put s.hbm.chans c v } }

/-- A sorted list of numbers with one added. -/
def insNat (n : Nat) : List Nat → List Nat
  | [] => [n]
  | k :: r => if n < k then n :: k :: r else if n = k then k :: r else k :: insNat n r

/-- Whether a burst reads as poisoned: its poison, or its channel FAILED (R401, R405). -/
def State.burstPoisoned (s : State) (b : Nat) : Bool :=
  s.hbm.poison.contains b || s.hbm.bad.contains b || (s.chan (hbmChannel s.hbm.out (64 * b)).1).failed

/-- The bursts of a range that read as poisoned by what they hold. -/
def State.spoiled (s : State) (pa n : Nat) : List Nat :=
  (s.hbm.poison ++ s.hbm.bad).filter (fun b => decide (pa / 64 ≤ b) && decide (b < (pa + n) / 64))

/-- Bursts of a list that lie outside a range. -/
def outside (l : List Nat) (pa n : Nat) : List Nat := l.filter (fun b => !(decide (pa / 64 ≤ b) && decide (b < (pa + n) / 64)))

/-- The bursts a run of bytes touches. -/
def burstsOf (pa n : Nat) : List Nat := if n = 0 then [] else (List.range ((pa + n - 1) / 64 - pa / 64 + 1)).map (fun i => pa / 64 + i)

/-- The bursts that move a range: 256 bytes at most, none across a 256-byte boundary of it (R423). -/
def segments (a n : Nat) : Nat := if n = 0 then 0 else (a % 256 + n + 255) / 256

/-- The die to which the stack of a channel is attached. -/
def dieOfChan (c : Nat) : Nat := c / 64

/-- One burst access counted (R415); a read's response is an event of perturbation kind 2 (R634). -/
def State.countBurst (s : State) (b : Nat) (wr : Bool) : State :=
  match hbmChannel s.hbm.out (64 * b) with
  | (c, _, red) =>
    let s := s.bump (.die (dieOfChan c)) (if wr then 0x121 else 0x120) 1
    let s := if wr then s else (s.perturb 2 c).1
    if red then s.bump (.die (dieOfChan c)) 0x129 1 else s

/-- A run of bytes read from HBM, and the first poisoned burst's address if one is met. -/
def State.hbmRead (s : State) (pa n : Nat) : List Byte × Option Nat :=
  (s.hbm.bytes.readN pa n, ((burstsOf pa n).find? (fun b => s.burstPoisoned b)).map (fun b => 64 * b))

/-- A read counted, with what a poisoned burst leaves behind: HBM_ERR_LAST, UNCORR, the counters (R414, R415). -/
def State.hbmTouched (s : State) (pa n : Nat) : State :=
  (burstsOf pa n).foldl (fun s b =>
    let s := s.countBurst b false
    if s.burstPoisoned b then
      let c := (hbmChannel s.hbm.out (64 * b)).1
      let ch := s.chan c
      let bad := !ch.failed && s.hbm.bad.contains b
      let s := s.setChan c { ch with uncorr := satAdd ch.uncorr 1, recent := if bad then (s.nowUs :: ch.recent).take 16 else ch.recent }
      let s := s.bump (.die (dieOfChan c)) 0x127 1
      { s with hbm := { s.hbm with errLast := BitVec.ofNat 64 (64 * b % 2 ^ 40 + c * 2 ^ 40 + (if bad then 0 else 2 ^ 48) + 2 ^ 49) } }
    else s) s

/-- The pseudo-channel of a burst, numbered over the device. -/
def State.pcOf (s : State) (b : Nat) : Nat :=
  match hbmChannel s.hbm.out (64 * b) with
  | (c, h, _) => 2 * c + h % 2

/-- Part of one burst written: dropped on a FAILED channel, and a partial write leaves a poisoned burst poisoned
(R401, R405); the burst joins its pseudo-channel's write queue, and a partial write reads it first (R409, R415). -/
def State.burstWrite (s : State) (b off : Nat) (bs : List Byte) (poisoned : Bool) : State :=
  if (s.chan (hbmChannel s.hbm.out (64 * b)).1).failed then s
  else
    let pc := s.pcOf b
    let q := Tab.at s.hbm.writeQ pc []
    let h := { s.hbm with
      bytes := s.hbm.bytes.writeN (64 * b + off) bs
      writeQ := Tab.put s.hbm.writeQ pc (if q.contains b then q else q ++ [b])
      poison := if poisoned then insNat b s.hbm.poison
                else if bs.length = 64 then s.hbm.poison.filter (fun k => k != b) else s.hbm.poison
      bad := if bs.length = 64 then s.hbm.bad.filter (fun k => k != b) else s.hbm.bad }
    let s := { s with hbm := h }.countBurst b true
    if bs.length < 64 then s.countBurst b false else s

/-- A run of bytes written to HBM burst by burst, `k` bursts at most. -/
def State.hbmWriteGo (s : State) : Nat → Nat → List Byte → Bool → State
  | 0, _, _, _ => s
  | k + 1, pa, bs, poisoned =>
    match bs with
    | [] => s
    | _ =>
      let off := pa % 64
      let take := 64 - off
      State.hbmWriteGo (s.burstWrite (pa / 64) off (bs.take take) poisoned) k (pa + take) (bs.drop take) poisoned

/-- A run of bytes written to HBM. -/
def State.hbmWrite (s : State) (pa : Nat) (bs : List Byte) (poisoned : Bool) : State :=
  s.hbmWriteGo (bs.length / 64 + 2) pa bs poisoned

end Sys2Proof.Machine
end

