-- ==== Sys2Proof/Machine/Space.lean ====
section
/-! DEFINITION. The device virtual address range (R362 to R366), the page table's translation (R367 to R373), and the
reads and writes every unit makes through it. -/

namespace Sys2Proof.Machine

/-- Who makes an access: the core whose self window, ranks and take rows it means, its command, and whether it is one
of the users R366 admits to the physical window. -/
structure Acc where
  core : Option Nat := none
  kern : Option Kern := none
  seq  : Option Word := none
  phys : Bool := false
  flow : Option Nat := none     -- its FLOWSEL (R526), the memory manager's where none is named
  deriving DecidableEq, Repr

/-- FLOWSEL of an access: its unit's, a core's cluster's, else the memory manager's (R526). -/
def Acc.flowsel (a : Acc) : Nat :=
  match a.flow, a.core with
  | some f, _ => f
  | none, some w => clusterOf w
  | none, none => 0x24

/-- Where a byte lies. -/
inductive Place where
  | hbm (pa : Nat)
  | host (a : Nat)
  | sram (off : Nat)
  | peer (id addr : Nat)
  | cow (take : Nat) (ent : PageEnt) (off : Nat)   -- a take page of count 2 or more, met by a store
  | bad
  deriving DecidableEq, Repr

/-- The accessor of a command's own addresses. -/
def accOf (seq : Word) : Acc := { seq := some seq }

/-- The accessor of a core's instruction. -/
def State.accCore (s : State) (w : Nat) : Acc :=
  { core := some w, kern := s.kernOn w, seq := (s.core w).owner.map Prod.fst }

/-- The physical SRAM offset of a core's memory (R366). -/
def sramCore (w off : Nat) : Nat := dieOf w * 2 ^ 33 + (clusterOf w % 8) * 2 ^ 30 + (w % 17) * 2 ^ 21 + off

/-- The physical SRAM offset of a cluster memory (R366). -/
def sramCluster (n off : Nat) : Nat := dieOfCluster n * 2 ^ 33 + (n % 8) * 2 ^ 30 + 2 ^ 29 + off

/-- Bytes of a cluster memory bank (R384). -/
def bankBytes : Nat := 0x60000

/-- The allocation of a kernel in a cluster. -/
def Kern.banksIn (k : Kern) (n : Nat) : List Nat := ((k.banks.find? (fun p => p.1 == n)).map Prod.snd).getD []

/-- The place of an offset of a kernel's share of a cluster's memory, and the bytes left in its bank. -/
def allocPlace (k : Kern) (n off : Nat) : Place × Nat :=
  match (k.banksIn n)[off / bankBytes]? with
  | some b => (.sram (sramCluster n (b * bankBytes + off % bankBytes)), bankBytes - off % bankBytes)
  | none => (.bad, 1)

/-- The place of an offset of a core's SRAM as R363 lays it out; the reel shelf only for physical users. -/
def corePlace (w off : Nat) (shelf : Bool) : Place × Nat :=
  if off < 0x150000 then (.sram (sramCore w off), 0x150000 - off)
  else if off < 0x180000 then (if shelf then (.sram (sramCore w off), 0x180000 - off) else (.bad, 1))
  else if off < 0x1C0000 then (.sram (sramCore w off), 0x1C0000 - off)
  else (.bad, 1)

/-- The leaf that maps a paged address (R368). -/
def State.leafAt (s : State) (va : Nat) : Option Leaf :=
  s.mem.leaves.find? (fun l => decide (l.va ≤ va) && decide (va < l.va + 2 ^ l.lg))

/-- Bytes of a dump record (R592). -/
def dumpBytes : Nat := 160832

/-- Whether user code may map the dailies ring (R578, R597). -/
def State.userRing (s : State) : Bool := s.granted 3 || (!s.boot.fuses.ctrNoUser && bitOf (s.sheet 139 1) 1)

/-- The address in the dailies ring that a paged address maps, and the bytes from there to its end (R597). -/
def State.ringVa (s : State) (va : Nat) : Option (Nat × Nat) :=
  let p := s.perf
  let u := p.userVa.toNat
  let n := if 1 ≤ p.ringLog2.toNat ∧ p.ringLog2.toNat ≤ 12 then 2 ^ p.ringLog2.toNat * dumpBytes else 0
  if p.ringEn && s.userRing && decide (u ≤ va) && decide (va < u + n) then some (p.ringBase.toNat + (va - u), u + n - va) else none

/-- The place of an address of the dailies ring: host-direct or by its leaf (R594). -/
def State.ringPlace (s : State) (va : Nat) : Place × Nat :=
  if va / 2 ^ 52 = 0x10 then (.host (va % 2 ^ 52), 2 ^ 52 - va % 2 ^ 52)
  else
    match s.leafAt va with
    | some l => match l.loc with
      | 0 => (.hbm (l.addr + (va - l.va)), l.va + 2 ^ l.lg - va)
      | 1 => (.host (l.addr + (va - l.va)), l.va + 2 ^ l.lg - va)
      | _ => (.bad, 1)
    | none => (.bad, 1)

/-- Paged translation (R373): a peer leaf or address of the device's own ID translates again, once; the user's view of the
dailies ring is read only (R597). -/
def State.xPaged (s : State) (va : Nat) (wr : Bool) (again : Bool) : Place × Nat :=
  match s.ringVa va with
  | some (a, n) => if wr then (.bad, 1) else match s.ringPlace a with | (p, k) => (p, min k n)
  | none =>
  match s.leafAt va with
  | none => (.bad, 1)
  | some l =>
    let off := va - l.va
    let left := 2 ^ l.lg - off
    if wr && !l.wr then (.bad, 1)
    else
      match l.loc with
      | 0 => (.hbm (l.addr + off), left)
      | 1 => (.host (l.addr + off), left)
      | 2 =>
        if again then (.bad, 1)
        else if l.fabric = s.fab.id.toNat then
          match s.leafAt (l.addr + off) with
          | none => (.bad, 1)
          | some m =>
            let o := l.addr + off - m.va
            if wr && !m.wr then (.bad, 1)
            else match m.loc with
              | 0 => (.hbm (m.addr + o), min left (2 ^ m.lg - o))
              | 1 => (.host (m.addr + o), min left (2 ^ m.lg - o))
              | _ => (.bad, 1)
        else if s.fab.routed l.fabric then (.peer l.fabric (l.addr + off), left)
        else (.bad, 1)
      | _ => (.bad, 1)

/-- The place of an offset in a list of pages (R36, R365). -/
def pagePlace (ps : List PageEnt) (off : Nat) : Option (PageEnt × Nat) :=
  (ps.find? (fun e => decide (e.offset ≤ off) && decide (off < e.offset + 2 ^ e.lg))).map (fun e => (e, off - e.offset))

/-- Where a page entry's byte lies. -/
def PageEnt.at_ (e : PageEnt) (o : Nat) : Place := if e.swapped then .host (e.page + o) else .hbm (e.page + o)

/-- A take. -/
def State.take (s : State) (t : Nat) : Take := Tab.at s.takes.takes t {}

/-- The reference count of a page (R37), by its key. -/
def State.pageCount (s : State) (key : Nat) : Nat := Tab.at s.takes.counts key 0

/-- Translation of a device virtual address (R362): its place, and the bytes from there that lie together. -/
def State.xlate (s : State) (a : Acc) (va : Nat) (wr : Bool) : Place × Nat :=
  let region := va / 2 ^ 52
  let off := va % 2 ^ 52
  if region < 0x10 then s.xPaged va wr false
  else
    match region with
    | 0x10 => (.host off, 2 ^ 52 - off)
    | 0x11 =>
      let id := off / 2 ^ 40
      let ad := off % 2 ^ 40
      if id = s.fab.id.toNat then s.xPaged ad wr true else if s.fab.routed id then (.peer id ad, 2 ^ 40 - ad) else (.bad, 1)
    | 0x12 =>
      match a.core, a.kern with
      | some w, some k =>
        if off < 0x1000000 then corePlace w off false else allocPlace k (clusterOf w) (off - 0x1000000)
      | _, _ => (.bad, 1)
    | 0x13 =>
      match a.kern with
      | some k =>
        if off / 2 ^ 31 ≠ 0 then (.bad, 1)
        else if off.testBit 30 then
          match k.clusters[fld off 25 5]? with
          | some n => allocPlace k n (off % 2 ^ 25)
          | none => (.bad, 1)
        else
          match (k.ranks.zip k.cores).find? (fun p => p.1 == fld off 21 9) with
          | some p => corePlace p.2 (off % 2 ^ 21) false
          | none => (.bad, 1)
      | none => (.bad, 1)
    | 0x14 =>
      match a.core with
      | some w =>
        match (if fld off 36 8 < (Tab.at (s.core w).xs 1 0#32).toNat then (s.core w).rows[fld off 36 8]? else none) with
        | some t =>
          match pagePlace (s.take t).pages (off % 2 ^ 36) with
          | some (e, o) =>
            if wr && decide (2 ≤ s.pageCount e.key) then (.cow t e o, 2 ^ e.lg - o)
            else if wr && s.takes.locks.contains e.key then (.cow t e o, 2 ^ e.lg - o)
            else (e.at_ o, 2 ^ e.lg - o)
          | none => (.bad, 1)
        | none => (.bad, 1)
      | none => (.bad, 1)
    | 0x15 =>
      let q := Tab.at s.kv.seqs (fld off 36 14) {}
      if a.seq = some q.owner ∧ q.state = .active then
        match pagePlace q.pages (off % 2 ^ 36) with
        | some (e, o) => (e.at_ o, 2 ^ e.lg - o)
        | none => (.bad, 1)
      else (.bad, 1)
    | 0x16 =>
      if a.phys then
        let base := (fld off 33 2) * 2 ^ 33 + (fld off 30 3) * 2 ^ 30
        if off.testBit 29 then
          (if fld off 0 25 < 0x1800000 then (.sram (base + 2 ^ 29 + fld off 0 25), 0x1800000 - fld off 0 25) else (.bad, 1))
        else if fld off 21 5 < 17 ∧ fld off 0 21 < 0x1C0000 then
          (.sram (base + fld off 0 26), 0x1C0000 - fld off 0 21)
        else (.bad, 1)
      else (.bad, 1)
    | _ => (.bad, 1)

/-- A range cut into runs that lie together, `fuel` runs at most. -/
def State.spans (s : State) (a : Acc) (wr : Bool) : Nat → Nat → Nat → List (Place × Nat × Nat)
  | 0, _, _ => []
  | fuel + 1, va, n =>
    if n = 0 then []
    else
      match s.xlate a va wr with
      | (p, run) =>
        let k := max 1 (min run n)
        (p, va, k) :: State.spans s a wr fuel (va + k) (n - k)

/-- A range of a unit's access: the token copy ahead of its requests to the HBM of each die (R590). -/
def State.carryVA (s : State) (from_ : At) (a : Acc) (wr : Bool) (va n : Nat) : State :=
  match s.perf.token with
  | none => s
  | some _ => (s.spans a wr (n + 1) va n).foldl (fun s p => match p.1 with
    | .hbm pa => (burstsOf pa p.2.2).foldl (fun s b => s.carry from_ (.die (dieOfChan (hbmChannel s.hbm.out (64 * b)).1))) s
    | _ => s) s

/-- The first address of a range that does not translate, if any. -/
def State.firstBad (s : State) (a : Acc) (va n : Nat) (wr : Bool) : Option Nat :=
  ((s.spans a wr (n + 1) va n).find? (fun p => p.1 == .bad)).map (fun p => p.2.1)

/-- Whether an address translates for a read or a write. -/
def State.mapped (s : State) (a : Acc) (va : Nat) (wr : Bool) : Bool := (s.xlate a va wr).1 != .bad

/-- What a read met: the bytes, an address that does not translate, or the address of a poisoned burst. -/
inductive ReadAns where
  | ok (bytes : List Byte)
  | unmapped (va : Nat)
  | poisoned (pa : Nat) (bytes : List Byte)
  deriving DecidableEq, Repr

/-- The bytes at a place, and the address of a poisoned burst among them. -/
def State.readPlace (s : State) (p : Place) (n : Nat) : List Byte × Option Nat :=
  match p with
  | .hbm pa => s.hbmRead pa n
  | .host a => (s.mem.host.readN a n, none)
  | .sram o => (s.mem.sram.readN o n, none)
  | .peer id ad => (s.peerRead id ad n, none)
  | .cow _ e o => match e.at_ o with
    | .hbm pa => s.hbmRead pa n
    | .host a => (s.mem.host.readN a n, none)
    | _ => (List.replicate n 0, none)
  | .bad => (List.replicate n 0, none)

/-- A range read through the address range. -/
def State.readVA (s : State) (a : Acc) (va n : Nat) : ReadAns :=
  let sp := s.spans a false (n + 1) va n
  match sp.find? (fun p => p.1 == .bad) with
  | some p => .unmapped p.2.1
  | none =>
    let rs := sp.map (fun p => s.readPlace p.1 p.2.2)
    let bs := rs.flatMap Prod.fst
    match rs.findSome? Prod.snd with
    | some pa => .poisoned pa bs
    | none => .ok bs

/-- The migration that moves the page holding an address, if any (R375). -/
def migOf (ms : List Migration) (loc addr : Nat) : Option Migration :=
  ms.find? (fun m => m.srcLoc == loc && (match m.cause with | .cow _ => false | _ => true) && decide (m.src ≤ addr) && decide (addr < m.src + 2 ^ m.lg))

/-- A store held by the migration of its page, in order. -/
def State.holdWrite (s : State) (m : Migration) (off : Nat) (bs : List Byte) : State :=
  { s with mem := { s.mem with migs := s.mem.migs.map (fun k => if k == m then { k with held := k.held ++ [(off, bs)] } else k) } }

/-- A store of a take to a shared page: held for the copy under way (R43), or a fault for the take manager (R41). -/
def State.cowStore (s : State) (t : Nat) (e : PageEnt) (o : Nat) (bs : List Byte) : State :=
  let tm := s.takes
  if tm.copies.any (fun c => c.take == t && c.src == e.key) then
    { s with takes := { tm with copies := tm.copies.map (fun c =>
        if c.take == t && c.src == e.key then { c with held := c.held ++ [(o, bs)] } else c) } }
  else if s.mem.migs.any (fun m => m.cause == .cow t && m.src + 2 ^ 60 == e.key) then
    { s with mem := { s.mem with migs := s.mem.migs.map (fun m =>
        if m.cause == .cow t && m.src + 2 ^ 60 == e.key then { m with held := m.held ++ [(o, bs)] } else m) } }
  else { s with takes := { tm with faults := tm.faults ++ [⟨t, e.key, e.lg, o, bs⟩] } }

/-- Bytes stored at a place. -/
def State.writePlace (s : State) (p : Place) (bs : List Byte) (poisoned : Bool) (seq : Word) (flow : Nat) : State :=
  match p with
  | .hbm pa =>
    match migOf s.mem.migs 0 pa with
    | some m => (s.holdWrite m (pa - m.src) bs).bump (.die (dieOfChan (hbmChannel s.hbm.out pa).1)) 0x117 1
    | none => s.hbmWrite pa bs poisoned
  | .host a =>
    match migOf s.mem.migs 1 a with
    | some m => (s.holdWrite m (a - m.src) bs).bump (.die (dieOfChan (hbmChannel s.hbm.out m.dst).1)) 0x117 1
    | none =>
      let s := { s with mem := { s.mem with host := s.mem.host.writeN a bs } }
      if poisoned then s.send (.hostWrite a true) else s
  | .sram o => { s with mem := { s.mem with sram := s.mem.sram.writeN o bs } }
  | .peer id ad => s.peerWrite seq flow id ad bs
  | .cow t e o => s.cowStore t e o bs
  | .bad => s

/-- Runs stored one after another. -/
def State.writeSpans (s : State) (seq : Word) (flow : Nat) (poisoned : Bool) : List (Place × Nat × Nat) → List Byte → State
  | [], _ => s
  | (p, _, k) :: rest, bs => State.writeSpans (s.writePlace p (bs.take k) poisoned seq flow) seq flow poisoned rest (bs.drop k)

/-- A range stored through the address range; nothing is stored when any of it does not translate for writing. -/
def State.writeVA (s : State) (a : Acc) (va : Nat) (bs : List Byte) (poisoned : Bool) : Option State :=
  let sp := s.spans a true (bs.length + 1) va bs.length
  if sp.any (fun p => p.1 == .bad) then none
  else some (s.writeSpans (a.seq.getD 0xFFFFFFFF#32) a.flowsel poisoned sp bs)

/-- A store whose range was tested before: an address that does not translate changes nothing. -/
def State.storeVA (s : State) (a : Acc) (va : Nat) (bs : List Byte) : State := (s.writeVA a va bs false).getD s

/-- The bytes of a range, zero where it does not translate. -/
def State.fetchVA (s : State) (a : Acc) (va n : Nat) : List Byte :=
  match s.readVA a va n with
  | .ok bs => bs
  | .poisoned _ bs => bs
  | .unmapped _ => List.replicate n 0

/-- The peers' parts of a range. -/
def State.peerParts (s : State) (a : Acc) (va n : Nat) : List (Nat × Nat × Nat) :=
  (s.spans a false (n + 1) va n).filterMap (fun p => match p.1 with | .peer id ad => some (id, ad, p.2.2) | _ => none)

/-- Whether a range's peer bytes have all been received. -/
def State.peerReady (s : State) (a : Acc) (va n : Nat) : Bool := (s.peerParts a va n).all (fun p => s.fab.hasAll p.1 p.2.1 p.2.2)

/-- Requests sent for a range's peer bytes (R539). -/
def State.askPeers (s : State) (a : Acc) (va n : Nat) : State :=
  (s.peerParts a va n).foldl (fun s p => s.peerAsk (a.seq.getD 0xFFFFFFFF#32) a.flowsel p.1 p.2.1 p.2.2) s

/-- A range's received peer bytes used. -/
def State.usePeers (s : State) (a : Acc) (va n : Nat) : State := (s.peerParts a va n).foldl (fun s p => s.peerUsed p.1 p.2.1 p.2.2) s

end Sys2Proof.Machine
end

