-- ==== Sys2Proof/Machine/Pool.lean ====
section
/-! DEFINITION. The free pool (R371, R376, R402), the class quotas of the call sheet (R562), the host swap region
(R158), and reference counts (R37 to R40). Which free page is drawn is not stated: the model draws the lowest
aligned one that fits (DESIGN CHOICE, log entry 9). -/

namespace Sys2Proof.Machine

/-- The next multiple of a size at or above an address. -/
def alignUp (a sz : Nat) : Nat := ceilDiv a sz * sz

/-- The first of `n` candidates spaced by a size, below a limit, that meets a test. -/
def firstFit (test : Nat → Bool) (sz lim : Nat) : Nat → Nat → Option Nat
  | 0, _ => none
  | n + 1, c => if lim < c + sz then none else if test c then some c else firstFit test sz lim n (c + sz)

/-- The lowest aligned free place of a size in the gaps of a list of extents, up to a limit. -/
def findGap (test : Nat → Bool) (sz lim : Nat) : Nat → List (Nat × Nat) → Option Nat
  | cur, [] => firstFit test sz lim 512 (alignUp cur sz)
  | cur, (b, n) :: rest =>
    match firstFit test sz b 512 (alignUp cur sz) with
    | some c => some c
    | none => findGap test sz lim (max cur (b + n)) rest

/-- An extent added in address order. -/
def insExtent (e : Nat × Nat) : List (Nat × Nat) → List (Nat × Nat)
  | [] => [e]
  | f :: r => if e.1 < f.1 then e :: f :: r else f :: insExtent e r

/-- Bytes in a list of extents. -/
def extentBytes (l : List (Nat × Nat)) : Nat := l.foldl (fun a e => a + e.2) 0

/-- Free HBM in bytes: nothing before stage C has placed the stores. -/
def State.freeBytes (s : State) : Nat := if s.hbm.trained then s.hbmBytes - extentBytes s.mem.used else 0

/-- Free HBM as the quotas allow it to a class (R562: LC_RESERVE, BE_LIMIT). -/
def State.freeFor (s : State) (cls : Nat) : Nat :=
  if cls = 0 then s.freeBytes
  else
    let a := s.freeBytes - s.sheet 56 4 * 67108864
    let lim := s.sheet 60 4 * 67108864
    if lim = 0 then a else min a (lim - nth s.mem.classUse 1 0)

/-- The HBM bytes a class holds, changed. -/
def MemMgr.charge (m : MemMgr) (cls add sub : Nat) : MemMgr :=
  { m with classUse := (List.range 2).map (fun i => let u := nth m.classUse i 0; if i = cls then u + add - sub else u) }

/-- A page of size `2^lg` drawn for a class, among those that meet a test. -/
def State.drawPage (s : State) (lg cls : Nat) (test : Nat → Bool) : Option (Nat × State) :=
  if s.freeFor cls < 2 ^ lg then none
  else
    match findGap test (2 ^ lg) s.hbmBytes 0 s.mem.used with
    | none => none
    | some b => some (b, { s with mem := ({ s.mem with used := insExtent (b, 2 ^ lg) s.mem.used, pageCls := Tab.put s.mem.pageCls b cls }).charge cls (2 ^ lg) 0 })

/-- `n` pages drawn, or none. -/
def State.drawPages (s : State) (lg cls : Nat) : Nat → Option (List Nat × State)
  | 0 => some ([], s)
  | n + 1 =>
    match s.drawPage lg cls (fun _ => true) with
    | none => none
    | some (b, s1) =>
      match State.drawPages s1 lg cls n with
      | none => none
      | some (bs, s2) => some (b :: bs, s2)

/-- A page returned to the pool, its bytes given back to the class that drew it. -/
def State.returnPage (s : State) (b lg : Nat) : State :=
  let m := { s.mem with used := s.mem.used.filter (fun e => e != (b, 2 ^ lg)), pageCls := Tab.del s.mem.pageCls b }
  { s with mem := m.charge (Tab.at s.mem.pageCls b 0) 0 (2 ^ lg) }

/-- A place of a size in the host swap region (R158). -/
def State.swapPlace (s : State) (lg : Nat) : Option Nat :=
  let base := s.sheet 32 8
  let n := s.sheet 40 8
  if base = 0 then none
  else findGap (fun _ => true) (2 ^ lg) (base + n) base s.mem.swapUsed

/-- A place of the swap region taken. -/
def State.takeSwap (s : State) (b lg : Nat) : State := { s with mem := { s.mem with swapUsed := insExtent (b, 2 ^ lg) s.mem.swapUsed } }

/-- A place of the swap region given back. -/
def State.freeSwap (s : State) (b lg : Nat) : State :=
  { s with mem := { s.mem with swapUsed := s.mem.swapUsed.filter (fun e => e != (b, 2 ^ lg)) } }

/-- A page's count raised. -/
def State.raiseCount (s : State) (key n : Nat) : State :=
  { s with takes := { s.takes with counts := Tab.put s.takes.counts key (s.pageCount key + n) } }

/-- A page given back: to the pool, or to the swap region; a map entry over it no longer owns it (log entry 22). -/
def State.freePage (s : State) (key lg : Nat) : State :=
  let s := if 2 ^ 60 ≤ key then s.freeSwap (key % 2 ^ 60) lg else s.returnPage key lg
  { s with mem := { s.mem with leaves := s.mem.leaves.map (fun l =>
      if l.addr == key % 2 ^ 60 && l.loc == key / 2 ^ 60 then { l with drawn := none } else l) } }

/-- Whether a migration of the page of a key is under way (R377). -/
def State.migrating (s : State) (key : Nat) : Bool :=
  s.mem.migs.any (fun m => m.src == key % 2 ^ 60 && m.srcLoc == key / 2 ^ 60 && (match m.cause with | .cow _ => false | _ => true))

/-- A page whose count is zero given back, unless it is copy-locked (R40) or moving (R377); whether it was. -/
def State.freeIfZero (s : State) (key lg : Nat) : State × Bool :=
  if s.pageCount key = 0 ∧ ¬ s.takes.locks.contains key ∧ ¬ s.migrating key then
    ({ s with takes := { s.takes with counts := Tab.del s.takes.counts key } }.freePage key lg, true)
  else (s, false)

/-- A page's count lowered, and the page freed when it reaches zero (R40); whether it was freed. -/
def State.lowerCount (s : State) (key lg n : Nat) : State × Bool :=
  { s with takes := { s.takes with counts := Tab.put s.takes.counts key (s.pageCount key - n) } }.freeIfZero key lg

end Sys2Proof.Machine
end

