-- ==== Sys2Proof/Machine/SlateOps.lean ====
section
/-! DEFINITION. Slate counts (R350, R352, R354) and the waits held at the slate banks (R355, R358). -/

namespace Sys2Proof.Machine

/-- The slate bank of a slate (R350). -/
def slateBank (i : Nat) : Nat := i / 32768 * 8 + i % 8

/-- The count of a slate. -/
def State.slate (s : State) (i : Nat) : Word := Tab.at s.sched.slates i 0#32

/-- The comparison of WAIT (R354): the signed difference is 0 or more. -/
def waitMet (n v : Word) : Bool := !(n - v).msb

/-- Whether a count satisfies a wait. -/
def SlateWait.met (w : SlateWait) (n : Word) : Bool := if w.eq then n == w.value else waitMet n w.value

/-- A count written by an update: every wait it satisfies gets its wake, carrying the count (R354, R355). -/
def Sched.writeSlate (c : Sched) (i : Nat) (n : Word) : Sched :=
  { c with
    slates := Tab.put c.slates i n
    waits := c.waits.map (fun w => if w.slate == i && w.wake.isNone && w.met n then { w with wake := some n } else w) }

/-- Whether a record waits on a slate. -/
def Cmd.waitsOn (c : Cmd) : Bool := (c.fieldN 1 1).testBit 2

/-- The wait slate of a record. -/
def Cmd.waitSlate (c : Cmd) : Nat := c.fieldN 4 4 % 131072

/-- The target count of a record. -/
def Cmd.waitCount (c : Cmd) : Word := BitVec.ofNat 32 (c.fieldN 8 4)

/-- A command made ready when its wait slate's count meets its target (R21, R331); once ready it stays ready. -/
def Cmd.wakeOn (c : Cmd) (i : Nat) (n : Word) (now : Nat) : Cmd :=
  if c.phase = .waiting ∧ c.readyAt = none ∧ c.waitsOn ∧ c.waitSlate = i ∧ waitMet n c.waitCount then
    { c with readyAt := some now } else c

/-- A SLATE_RSP sent (R527, R541, R542): the result of R354, and whether a CAS stored V. -/
def State.slateRsp (s : State) (dst tag status : Nat) (result : Word) (stored : Bool) : State :=
  s.sendFrame { type := 0x06, vc := 1, epar := s.fab.parity, dst := dst, src := s.fab.id.toNat, tag := tag, hops := 15, flow := 0x25, status := status
                payload := slice (leBytes 4 result.toNat ++ leBytes 1 (b2n stored)) 0 16 }

/-- The wakes of remote waits sent, and the waits gone from their bank (R542). -/
def State.wakeRemote (s : State) : State :=
  let go := s.sched.waits.filter (fun w => match w.who with | .remote _ _ => w.wake.isSome | _ => false)
  let s := { s with sched := { s.sched with waits := s.sched.waits.filter (fun w => match w.who with | .remote _ _ => w.wake.isNone | _ => true) } }
  go.foldl (fun s w => match w.who with
    | .remote src tag => s.slateRsp src tag 0 (w.wake.getD 0) false
    | _ => s) s

/-- A count written: commands it makes ready become so, and remote waits it satisfies get their wake. -/
def State.putSlate (s : State) (i : Nat) (n : Word) : State :=
  { s with sched := s.sched.writeSlate i n, cmds := s.cmds.map (fun (p : Nat × Cmd) => (p.1, p.2.wakeOn i n s.nowUs)) }.wakeRemote

/-- A slate updated by an operation, counted at its die (R361); a write of the scheduler's own (R350) is no operation. -/
def State.setSlate (s : State) (i : Nat) (n : Word) : State := (s.putSlate i n).bump (.die (i / 32768)) 0x104 1

/-- The operations of R354 that do not hold. -/
inductive SlateOp where
  | signal | add | fadd | cas | read | set
  deriving DecidableEq, Repr

/-- A count after an operation (R354). -/
def SlateOp.apply (o : SlateOp) (n v cmp : Word) : Word :=
  match o with
  | .signal => n + 1
  | .add => n + v
  | .fadd => n + v
  | .cas => if n = cmp then v else n
  | .read => n
  | .set => v

/-- Whether an operation changes a count, and so may satisfy waits. -/
def SlateOp.updates (o : SlateOp) (n cmp : Word) : Bool :=
  match o with
  | .read => false
  | .cas => n == cmp
  | _ => true

/-- An operation applied to a slate of the device: the state and the count before it. -/
def State.slateApply (s : State) (i : Nat) (o : SlateOp) (v cmp : Word) : State × Word :=
  let n := s.slate i
  if o.updates n cmp then (s.setSlate i (o.apply n v cmp), n) else (s.bump (.die (i / 32768)) 0x104 1, n)

/-- An operation that a unit asks of a slate of the device (R354, R590). -/
def State.slateAsk (s : State) (a : At) (i : Nat) (o : SlateOp) (v cmp : Word) : State × Word :=
  (s.carry a (.die (i / 32768))).slateApply i o v cmp

/-- A request to a slate bank that is counted there and updates nothing: a wait, a retake (R304, R355, R590). -/
def State.slateSeen (s : State) (a : At) (i : Nat) : State := (s.carry a (.die (i / 32768))).bump (.die (i / 32768)) 0x104 1

/-- Whether a newly accepted command is ready at once (R21, R498). -/
def State.readyNow (s : State) (c : Cmd) : Bool := !c.waitsOn || waitMet (s.slate c.waitSlate) c.waitCount

end Sys2Proof.Machine
end

