-- ==== Sys2Proof/Machine/Stop.lean ====
section
/-! DEFINITION. What a command gives up when it ends: its kernels' placements, banks, counters and waits (R324, R348), its
chunks (R116, R129), its takes, boundaries and lists in progress; and the references takes and chunks hold on reels. -/

namespace Sys2Proof.Machine

/-- A core freed of its kernel. -/
def Core.released (c : Core) : Core :=
  { c with owner := none, hold := .none, await := [], queue := [], elem := none, rows := [], loops := [], ramp := 0 }

/-- The placement, banks, tile counters and waits of a command's kernels given up (R324, R348). -/
def State.dropKernels (s : State) (seq : Word) : State :=
  let mine := s.cores.filter (fun p => match p.2.owner with | some (q, _) => q == seq | none => false)
  let ws := mine.map Prod.fst
  { s with
    cores := s.cores.map (fun p => if ws.contains p.1 then (p.1, p.2.released) else p)
    sched := { s.sched with
      kerns := s.sched.kerns.filter (fun k => k.seq != seq)
      tiles := s.sched.tiles.filter (fun t => t.2.seq != seq)
      waits := s.sched.waits.filter (fun w => match w.who with
        | .core c _ => !(ws.contains c) | .cmd q => q != seq | .remote _ _ => true) } }

/-- A reel. -/
def State.reel (s : State) (i : Nat) : Reel := Tab.at s.reels.reels i {}

/-- The state with a take written. -/
def State.setTake (s : State) (t : Nat) (v : Take) : State := { s with takes := { s.takes with takes := Tab.put s.takes.takes t v } }

/-- The state with a reel written. -/
def State.setReel (s : State) (i : Nat) (v : Reel) : State := { s with reels := { s.reels with reels := Tab.put s.reels.reels i v } }

/-- A reel with no reference left released, in a state R114 lets free, with its row and any move of it (R91). -/
def State.reapReel (s : State) (i : Nat) : State :=
  let r := s.reel i
  if r.count = 0 ∧ (r.state = .stored ∨ r.state = .resident ∨ r.state = .lost) then
    let s := s.setReel i { gen := r.gen + 1 }
    { s with reels := { s.reels with moves := s.reels.moves.filter (fun m => m.1 != i), wanted := s.reels.wanted.filter (fun j => j != i) } }
  else s

/-- One reference to a reel dropped; a pinned or saved reel's after its fold (R91, R129). -/
def State.dropReel (s : State) (i : Nat) : State :=
  let r := s.reel i
  if r.state = .pinned ∨ r.state = .saved then { s with reels := { s.reels with owed := s.reels.owed ++ [i] } }
  else (s.setReel i { r with count := r.count - 1 }).reapReel i

/-- A command's chunks given up: its reels return to RESIDENT unfolded, those without a row to STORED (DESIGN CHOICE, log entry 19),
held chunks go. -/
def State.dropChunks (s : State) (seq : Word) : State :=
  let cs := s.reels.chunks.filter (fun (c : Chunk) => c.seq == seq && c.running)
  let s := { s with reels := { s.reels with chunks := s.reels.chunks.filter (fun c => c.seq != seq) } }
  let is := cs.flatMap Chunk.reels
  let s := is.foldl (fun s i => let r := s.reel i
    if r.state = .pinned then s.setReel i (if r.place.isSome then { r with state := .resident } else { r with state := .stored, v := [], c := [] })
    else if r.state = .saved then s.setReel i { r with state := .stored, place := none, imgV := r.v, imgC := r.c } else s) s
  let due := s.reels.owed.filter (fun i => is.contains i)
  due.foldl (fun s i => s.dropReel i) { s with reels := { s.reels with owed := s.reels.owed.filter (fun i => !is.contains i) } }

/-- The takes a command steps, IDLE again; those pre-empted stay so (R163). -/
def State.dropTakes (s : State) (l : List Nat) : State :=
  l.foldl (fun s t => let v := s.take t; if v.state = .advancing then s.setTake t { v with state := .idle, grown := false } else s) s

/-- Everything a command has under way given up. -/
def State.stopWork (s : State) (seq : Word) (c : Cmd) : State :=
  let s := (((s.dropKernels seq).dropReqs seq).dropChunks seq).dropTakes c.takes
  { s with
    takes := { s.takes with
      scores := s.takes.scores.filter (fun q => q.1 != seq)
      pruned := Tab.del s.takes.pruned seq.toNat
      copiesMade := Tab.del s.takes.copiesMade seq.toNat }
    kv := { s.kv with waits := s.kv.waits.filter (fun b => b.seq != seq) }
    video := { s.video with runs := s.video.runs.filter (fun r => r.seq != seq) }
    dma := { s.dma with mail := s.dma.mail.map (fun (p : Nat × MailSlot) => (p.1, { p.2 with
      feeds := if p.2.sent = 0 then p.2.feeds.filter (fun j => j.seq != seq)
               else p.2.feeds.take 1 ++ (p.2.feeds.drop 1).filter (fun j => j.seq != seq) })) } }

end Sys2Proof.Machine
end

