-- ==== Sys2Proof/Machine/Finish.lean ====
section
/-! DEFINITION. How a command ends: its status (R15), its result (R510, R662), its extended result (R512), the
completion queues (R513 to R516) and interrupts (R517). -/

namespace Sys2Proof.Machine

/-- The code of a status (R13). -/
def Status.code : Status → Nat
  | .ok => 0x00 | .okDegraded => 0x01 | .zeroExtent => 0x02 | .rejectedFormat => 0x10 | .shapeOver => 0x11
  | .pageExhausted => 0x12 | .deadlineMiss => 0x13 | .corruptInput => 0x20 | .lateInput => 0x21
  | .schedCollide => 0x30 | .coreFenced => 0x31 | .deviceFault => 0x3F

/-- The status under R15: OK becomes OK_DEGRADED when a flag is set. -/
def Status.withFlags (st : Status) (flags : Byte) : Status :=
  match st with
  | .ok => if flags = 0 then .ok else .okDegraded
  | .okDegraded => if flags = 0 then .ok else .okDegraded
  | x => x

/-- A completion queue. -/
def State.queue (s : State) (q : Nat) : CplQueue := Tab.at s.host.queues q {}

/-- The state with a completion queue written. -/
def State.setQueue (s : State) (q : Nat) (v : CplQueue) : State :=
  { s with host := { s.host with queues := Tab.put s.host.queues q v } }

/-- Records in a queue's ring: LOG2 above 11 is treated as 11 (R520). -/
def CplQueue.size (q : CplQueue) : Nat := 2 ^ (min q.log2.toNat 11 + 4)

/-- Records in the ring not yet consumed (R514). -/
def CplQueue.fill (q : CplQueue) : Nat := (q.prod - q.cons).toNat

/-- Whether a queue is full (R514). -/
def CplQueue.full (q : CplQueue) : Bool := q.fill == q.size

/-- Records of a queue in a given place. -/
def recsIn (l : List CplRec) (q : Nat) (p : CplPlace) : List CplRec := l.filter (fun r => r.queue == q && r.place == p)

/-- Records in the hold store (R514). -/
def heldCount (l : List CplRec) : Nat := (l.filter (fun r => r.place == .held)).length

/-- Whether a queue has room for one more record, those on their way counted. -/
def State.queueRoom (s : State) (q : Nat) : Bool :=
  let v := s.queue q
  v.enable && decide (v.fill + (recsIn s.host.cpls q .writing).length < v.size)

/-- Whether the hold store is full (R514). -/
def State.holdFull (s : State) : Bool := decide (4096 ≤ heldCount s.host.cpls)

/-- Whether R514 holds a command back from dispatch. -/
def State.queueHolds (s : State) (c : Cmd) : Bool :=
  s.holdFull && (!(s.queue c.queue).enable || (s.queue c.queue).full)

/-- Where a new record for a queue goes (R513 to R515). -/
def State.cplPlace (s : State) (q : Nat) : CplPlace :=
  if s.queueRoom q && (recsIn s.host.cpls q .held).isEmpty && (recsIn s.host.cpls q .own).isEmpty then .writing
  else if s.holdFull then .own else .held

/-- The first element that meets a test, and the list without it. -/
def pullFirst {α : Type} (p : α → Bool) : List α → Option (α × List α)
  | [] => none
  | x :: xs => if p x then some (x, xs) else
    match pullFirst p xs with
    | some (y, ys) => some (y, x :: ys)
    | none => none

/-- Held records of a queue appended while it has room: the hold store's first, then the commands' own (R514, R515). -/
def State.promote (s : State) (q : Nat) : Nat → State
  | 0 => s
  | k + 1 =>
    if s.queueRoom q then
      match pullFirst (fun r => r.queue == q && r.place == .held) s.host.cpls with
      | some (r, l) =>
        State.promote { s with host := { s.host with cpls := l ++ [{ r with place := .writing }] } } q k
      | none =>
        match pullFirst (fun r => r.queue == q && r.place == .own) s.host.cpls with
        | some (r, l) =>
          State.promote { s with host := { s.host with cpls := l ++ [{ r with place := .writing }] }
                                 cmds := Tab.del s.cmds r.seq.toNat } q k
        | none => s
    else s

/-- Everything a queue's new room lets through. -/
def State.promoteAll (s : State) (q : Nat) : State := s.promote q (s.host.cpls.length + 1)

/-- A result area from fields of (bytes, value), padded to 22 bytes (R510). -/
def resultOf (fields : List (Nat × Nat)) : List Byte := slice (fields.flatMap (fun p => leBytes p.1 p.2)) 0 22

/-- A 16-bit field that saturates. -/
def sat16 (n : Nat) : Nat := min n 0xFFFF

/-- A 32-bit field that saturates. -/
def sat32 (n : Nat) : Nat := min n 0xFFFFFFFF

/-- The reel area (R128). -/
def DataAreas.reelArea (d : DataAreas) : List Byte := leBytes 4 d.folds ++ leBytes 2 (sat16 d.chunksHeld) ++ leBytes 2 (sat16 d.earlyFolds)

/-- The KV area (R164). -/
def DataAreas.kvArea (d : DataAreas) : List Byte :=
  leBytes 2 (sat16 d.kvJoined) ++ leBytes 2 (sat16 d.kvDeferred) ++ leBytes 2 (sat16 d.kvResumed) ++
  leBytes 2 (sat16 d.kvVictims) ++ leBytes 4 d.kvOut ++ leBytes 4 d.kvIn ++ leBytes 4 d.kvEmpty ++
  leBytes 2 (sat16 d.kvCut) ++ leBytes 2 (sat16 d.kvDelay)

/-- The shape area (R322). -/
def RunAreas.shapeArea (a : RunAreas) (pieces : Nat) : List Byte :=
  leBytes 1 a.point0 ++ leBytes 1 0 ++ leBytes 2 a.piecesDone ++ leBytes 2 pieces ++ leBytes 2 (sat16 a.retaken) ++
  leBytes 4 a.replayed ++ leBytes 4 (sat32 a.voidCyc)

/-- The schedule area (R359). -/
def RunAreas.schedArea (a : RunAreas) : List Byte :=
  leBytes 4 (sat32 (a.placedAt.getD 0)) ++ leBytes 2 (sat16 a.preempts) ++ leBytes 2 (sat16 a.slicesRun) ++
  leBytes 4 (sat32 a.preUs) ++ leBytes 1 (a.size + 16 * b2n a.short) ++ leBytes 1 0 ++ leBytes 2 a.firstCore ++
  a.collide.flatMap (leBytes 1) ++ leBytes 2 a.collideAt ++ leBytes 2 0

/-- The memory area (R383). -/
def DataAreas.memArea (d : DataAreas) : List Byte :=
  leBytes 2 (sat16 d.proxySubs) ++ leBytes 2 (sat16 d.lateNoPath) ++ leBytes 2 (sat16 d.takesCut) ++
  leBytes 2 (sat16 d.reelLate) ++ leBytes 4 (sat32 d.waitUs) ++ leBytes 4 (sat32 d.discarded)

/-- Whether a command writes an extended result (R512). -/
def Cmd.hasExt (c : Cmd) : Bool := c.opcode == 0x02 || c.opcode == 0x03 || c.opcode == 0x11

/-- The extended result (R512). -/
def Cmd.extended (c : Cmd) (seq : Word) : List Byte :=
  leBytes 8 (c.handle seq).toNat ++ c.data.reelArea ++ c.data.kvArea ++
  (if c.opcode == 0x11 then List.replicate 16 0 else c.areas.shapeArea c.pieces.length) ++
  c.areas.schedArea ++ c.data.memArea ++ slice c.data.ingest 0 18 ++ List.replicate 14 0

/-- The result of a kernel or graph command (R511). -/
def Cmd.runResult (c : Cmd) : List Byte :=
  resultOf [(4, c.areas.lastRoot.toNat), (2, c.areas.roots), (4, c.areas.encoded), (4, c.areas.gated)]

/-- The extended result written, and whether it was (R512); a failure is logged and changes nothing else. -/
def State.writeExt (s : State) (seq : Word) (c : Cmd) : State × Bool :=
  if !c.hasExt || s.host.xresBase = 0 then (s, false)
  else
    let va := s.host.xresBase.toNat + 128 * c.slot
    match s.writeVA {} va (c.extended seq) false with
    | some s' => (s', true)
    | none => (s.violation 16 (c.slot % 65536) va, false)

/-- A DMA engine. -/
def State.eng (s : State) (e : Nat) : DmaEng := Tab.at s.dma.engs e {}

/-- The state with a DMA engine written. -/
def State.setEng (s : State) (e : Nat) (v : DmaEng) : State := { s with dma := { s.dma with engs := Tab.put s.dma.engs e v } }

/-- The CRC of a descriptor's bytes so far (R431): 0 when CRC is 0. -/
def DmaDesc.crcOut (d : DmaDesc) : Nat := if d.crc = 0 then 0 else d.acc ^^^ 0xFFFFFFFF

/-- A DMA completion record (R433). -/
def DmaDesc.record (d : DmaDesc) (e c : Nat) (st : Status) (cancelled phase : Bool) : List Byte :=
  leBytes 4 d.tag.toNat ++ leBytes 1 st.code ++ leBytes 1 (b2n d.poison + 2 * b2n cancelled + 128 * b2n phase) ++
  leBytes 1 c ++ leBytes 1 e ++ leBytes 4 d.crcOut ++ leBytes 4 d.bytes

/-- One more record dropped. -/
def DmaEng.dropOne (g : DmaEng) : DmaEng := { g with drop := satAdd g.drop 1 }

/-- A record appended to its engine's queue, or dropped where the queue is full or disabled (R434, R447) or its
address does not take the write (log entry 26). -/
def State.dmaRecord (s : State) (e c : Nat) (d : DmaDesc) (st : Status) (cancelled : Bool) : State :=
  let g := s.eng e
  let n := 2 ^ g.log2.toNat
  if g.log2.toNat < 4 ∨ 15 < g.log2.toNat ∨ (g.prod - g.cons).toNat = n then s.setEng e g.dropOne
  else
    match s.writeVA {} (g.base.toNat + 16 * (g.prod.toNat % n)) (d.record e c st cancelled (g.prod.toNat / n % 2 == 0)) false with
    | none => s.setEng e g.dropOne
    | some s => s.setEng e { g with prod := g.prod + 1 }

/-- The descriptors of some owners cancelled (R436): those with CQ write their records, none signals a slate. -/
def State.cancelDma (s : State) (mine : DmaDesc → Bool) (st : Status) : State :=
  let gone := s.dma.engs.flatMap (fun (p : Nat × DmaEng) => p.2.chans.flatMap (fun (q : Nat × DmaChan) =>
    (q.2.queue.filter mine).map (fun d => (p.1, q.1, d))))
  let s := { s with dma := { s.dma with engs := s.dma.engs.map (fun (p : Nat × DmaEng) => (p.1,
    { p.2 with chans := p.2.chans.map (fun (q : Nat × DmaChan) => (q.1,
        let l := q.2.queue.filter (fun d => !mine d)
        { q.2 with queue := l, reqs := if l.length = q.2.queue.length then q.2.reqs else 0 })) })) } }
  gone.foldl (fun s g => if g.2.2.cq then s.dmaRecord g.1 g.2.1 g.2.2 st true else s) s

/-- A command ended: its work stopped, its record made and placed (R15, R510, R512 to R515); a command whose record stands in its own
entry has ended before, and makes no second one (R23, R515). -/
def State.finish (s : State) (seq : Word) (st : Status) (result : List Byte) : State :=
  match s.cmd? seq with
  | none => s
  | some c =>
    if c.phase = .recorded then s else
    match ((s.stopWork seq c).cancelDma (fun d => d.seq == seq) st).writeExt seq c with
    | (s, ext) =>
      let place := s.cplPlace c.queue
      let rec_ : CplRec :=
        { seq := seq, handle := c.handle seq, queue := c.queue, status := st.withFlags c.flags, flags := c.flags
          ext := ext, result := slice result 0 22
          signal := if (c.fieldN 1 1).testBit 3 then some (c.fieldN 12 4 % 131072) else none
          irq := (c.fieldN 1 1).testBit 1, place := place }
      let s := { s with host := { s.host with cpls := s.host.cpls ++ [rec_] } }
      if place = .own then s.setCmd seq { c with phase := .recorded }
      else { s with cmds := Tab.del s.cmds seq.toNat }

/-- Whether writes of a command to peers await their responses (R539). -/
def State.writesOut (s : State) (seq : Word) : Bool :=
  s.fab.reqs.any (fun r => r.seq == seq && (match r.kind with | .write _ => true | _ => false))

/-- A command that has written its results ended, once every write has been answered (R120, R508). -/
def State.finishWritten (s : State) (seq : Word) (st : Status) (result : List Byte) : State :=
  if s.writesOut seq then s.updCmd seq (fun c => { c with phase := .running, ending := some (st, result) }) else s.finish seq st result

/-- A write of a command answered: the command ends where it waited for the last one. -/
def State.writeAnswered (s : State) (seq : Word) : State :=
  match (s.cmd? seq).bind Cmd.ending with
  | some (st, res) => if s.writesOut seq then s else s.finish seq st res
  | none => s

/-- A command ended before any work of its own, with an empty result. -/
def State.finishBare (s : State) (seq : Word) (st : Status) : State := s.finish seq st []

/-- Takes of an advance that completed a step, live and not left pre-empted (R69, R163); one stepped and pruned since counts among the
pruned takes alone (DESIGN CHOICE, log entry 113). -/
def State.takesStepped (s : State) (c : Cmd) : Nat :=
  (c.stepped.filter (fun t => let v := s.take t; v.state != .free && v.state != .preempted)).length

/-- A kernel or graph command ended with what it did so far. -/
def State.finishRun (s : State) (seq : Word) (st : Status) : State :=
  match s.cmd? seq with
  | some c => s.finish seq st (if c.opcode = 0x11 then resultOf
      [(2, s.takesStepped c), (4, c.steps), (2, Tab.at s.takes.pruned seq.toNat 0),
       (4, Tab.at s.takes.copiesMade seq.toNat 0), (2, c.data.kvResumed)] else c.runResult)
  | none => s

/-- A completion record's 32 bytes (R510). -/
def CplRec.bytes (r : CplRec) (phase : Bool) : List Byte :=
  leBytes 8 r.handle.toNat ++ leBytes 1 (r.status.code + 64 * b2n r.ext + 128 * b2n phase) ++ leBytes 1 r.flags.toNat ++
  slice r.result 0 22

/-- An MSI-X vector sent, or its pending bit set while it is masked (R517). -/
def State.sendVector (s : State) (v : Nat) : State :=
  let e := Tab.at s.host.msix v {}
  if e.ctl.toNat.testBit 0 then { s with host := { s.host with pba := s.host.pba ||| BitVec.ofNat 64 (2 ^ v) } }
  else s.send (.msix e.addr e.data)

/-- A queue's interrupt sent, its holdoff begun (R517). -/
def State.queueIrq (s : State) (q : Nat) : State :=
  let v := s.queue q
  (s.sendVector v.vector.toNat).setQueue q { v with quiet := v.holdoff != 0, owed := false }

/-- A record's interrupt: at once, or owed at the end of a holdoff (R517). -/
def State.recordIrq (s : State) (q : Nat) (irq : Bool) : State :=
  let v := s.queue q
  if irq || v.irqAll then (if v.quiet then s.setQueue q { v with owed := true } else s.queueIrq q) else s

/-- A queue's `n` records on their way kept instead: `f` of them fit the hold store, the rest stay in their own entries. -/
def markHeld (q : Nat) : Nat → Nat → List CplRec → List CplRec
  | 0, _, l => l
  | _, _, [] => []
  | n + 1, f, r :: l =>
    if r.queue == q && r.place == .writing then
      { r with place := if f = 0 then .own else .held } :: markHeld q n (f - 1) l
    else r :: markHeld q (n + 1) f l

/-- A failed record write: the queue disabled, its records held (R514). -/
def State.queueFail (s : State) (q : Nat) (va : Nat) : State :=
  let v := s.queue q
  let s := (s.setQueue q { v with enable := false, wfail := true }).violation 17 q va
  let free := 4096 - heldCount s.host.cpls
  let ws := (recsIn s.host.cpls q .writing).length
  { s with host := { s.host with cpls := markHeld q ws free s.host.cpls } }

/-- The oldest record on its way to a queue becomes visible, or its write fails (R513, R514). -/
def State.recordVisible (s : State) (q : Nat) (accepted : Bool) : State :=
  let v := s.queue q
  match pullFirst (fun r => r.queue == q && r.place == .writing) s.host.cpls with
  | none => s
  | some (r, rest) =>
    if !v.enable then s
    else
      let va := v.base.toNat + 32 * (v.prod.toNat % v.size)
      match (if accepted then s.writeVA {} va (r.bytes v.phase) false else none) with
      | none => s.queueFail q va
      | some s =>
        let prod := v.prod + 1
        let s := { s with host := { s.host with cpls := rest } }
        let s := s.setQueue q { v with prod := prod, phase := if prod.toNat % v.size = 0 then !v.phase else v.phase }
        let s := s.bump .io 0x044 1
        let s := if r.flags = 0 then s else s.bump .io 0x045 1
        let s := match r.signal with
          | some i => (s.slateAsk .io i .signal 0 0).1
          | none => s
        s.recordIrq q r.irq

/-- A command ended with DEVICE_FAULT under a rule that records an address or instruction word (R662): the record
carries what was done, and the fault log gets a PROGRAM report. -/
def State.programFault (s : State) (seq : Word) (subject detail : Nat) : State :=
  (s.report 0x20 subject subject seq detail).finishRun seq .deviceFault

end Sys2Proof.Machine
end

