-- ==== Sys2Proof/Machine/Intake.lean ====
section
/-! DEFINITION. Submission (15_host_interface R488 to R498): the BAR2 intake slots, the check of a completed record,
acceptance and rejection, and the receipt word. -/

namespace Sys2Proof.Machine

/-- The opcodes of R497. -/
def opcodes : List Nat := [0x01, 0x02, 0x03, 0x10, 0x11, 0x12, 0x13, 0x20, 0x21, 0x22, 0x30, 0x31, 0x40, 0x41, 0x42, 0x50, 0x51]

/-- Whether the bits of a mask are zero in each of some bytes of a record. -/
def bitsClear (rec : List Byte) (l : List (Nat × Nat)) : Bool := l.all (fun p => (recField rec p.1 1 &&& p.2) == 0)

/-- Whether the bytes from one to another, both included, are zero. -/
def bytesClear (rec : List Byte) (a b : Nat) : Bool := (slice rec a (b + 1 - a)).all (fun x => x == 0)

/-- Whether the reserved bits of the common header are zero (R498). -/
def headerClear (rec : List Byte) : Bool :=
  let op := recField rec 0 1
  bitsClear rec [(1, 0xF0), (2, 0xC0), (3, 0xFF), (6, 0xFE), (7, 0xFF), (14, 0xFE), (15, 0xFF), (18, 0xFE), (19, 0xFF)] &&
  bytesClear rec 20 23 && (op == 0x02 || op == 0x03 || op == 0x11 || bytesClear rec 16 19)

/-- Whether the reserved bits of an opcode's operand layout are zero. -/
def operandsClear (rec : List Byte) : Bool :=
  match recField rec 0 1 with
  | 0x01 => bitsClear rec [(40, 0xFE)] && bytesClear rec 41 43 && bytesClear rec 48 63 &&
            (!(recField rec 40 1).testBit 0 || bytesClear rec 24 39)
  | 0x02 => bytesClear rec 30 31 && bytesClear rec 48 63
  | 0x03 => bytesClear rec 30 31 && bytesClear rec 48 63
  | 0x10 => bitsClear rec [(31, 0xF0), (34, 0xE0), (35, 0xF0)] && bytesClear rec 52 63
  | 0x11 => bitsClear rec [(25, 0xF0)] && bytesClear rec 34 35 && bytesClear rec 48 63
  | 0x12 => bitsClear rec [(25, 0xF0), (28, 0xFE)] && bytesClear rec 29 31 && bytesClear rec 40 63
  | 0x13 => bytesClear rec 28 63
  | 0x20 => bitsClear rec [(28, 0xFC)] && bytesClear rec 29 31 && bytesClear rec 44 63
  | 0x21 => bitsClear rec [(28, 0xFE)] && bytesClear rec 29 31 && bytesClear rec 44 63
  | 0x22 => bitsClear rec [(26, 0xFC), (32, 0xE0)] && bytesClear rec 27 27 && bytesClear rec 33 35 && bytesClear rec 56 63
  | 0x30 => bytesClear rec 32 63
  | 0x31 => bytesClear rec 26 63
  | 0x40 => bytesClear rec 49 63 && (!(recField rec 48 1).testBit 7 || (bytesClear rec 32 47 && bitsClear rec [(48, 0x7F)]))
  | 0x41 => bitsClear rec [(26, 0xFE), (27, 0xFF), (28, 0xE0), (29, 0xFF), (31, 0xF0)] && bytesClear rec 44 63
  | 0x42 => bitsClear rec [(40, 0xF8)] && bytesClear rec 41 63
  | 0x50 => bitsClear rec [(25, 0xFC), (26, 0xFE)] && bytesClear rec 27 63
  | 0x51 => bytesClear rec 25 27 && bytesClear rec 44 63 && (recField rec 24 1 != 0 || bytesClear rec 28 31)
  | _ => true

/-- Whether an operand check assigned to receipt passes (R51, R358, R378, R508, R631); each fails with SHAPE_OVER. -/
def operandOk (rec : List Byte) : Bool :=
  match recField rec 0 1 with
  | 0x10 => decide (recField rec 28 2 ≤ 256) && decide (recField rec 34 1 % 32 ≤ 18)
  | 0x41 => decide (recField rec 28 1 % 16 < 8)
  | 0x42 => decide (recField rec 40 1 % 4 < 2)
  | 0x50 => decide (fld (recField rec 24 2) 5 5 ≤ 16)
  | 0x51 => decide (recField rec 24 1 < 4)
  | _ => true

/-- Whether R483 holds traffic back: the fuses make IDE mandatory and its streams are not established. -/
def State.ideHolds (s : State) : Bool := s.boot.fuses.ideMand && !s.host.ideUp

/-- The reason a completed record is rejected for, the first that applies (R494), with its status. -/
def State.rejectReason (s : State) (rec : List Byte) (poison : Bool) : Option (Nat × Status) :=
  if s.ideHolds then some (0x09, .deviceFault)
  else if !s.host.intake then some (0x02, .deviceFault)
  else if poison then some (0x08, .shapeOver)
  else if !(opcodes.contains (recField rec 0 1)) then some (0x03, .shapeOver)
  else if !headerClear rec then some (0x04, .shapeOver)
  else if !(s.queue (recField rec 2 1 % 64)).enable then some (0x05, .shapeOver)
  else if !operandsClear rec then some (0x04, .shapeOver)
  else if !operandOk rec then some (0x07, .shapeOver)
  else if 16384 ≤ s.cmds.length then some (0x06, .pageExhausted)
  else none

/-- A rejection's receipt word (R494). -/
def rejectWord (slot reason : Nat) (st : Status) : Dword :=
  BitVec.ofNat 64 (0xFFFF * 2 ^ 48 + (slot % 256) * 2 ^ 32 + reason * 256 + st.code)

/-- An intake slot. -/
def State.slot (s : State) (i : Nat) : Slot := Tab.at s.host.slots i .empty

/-- The state with an intake slot written. -/
def State.setSlot (s : State) (i : Nat) (v : Slot) : State := { s with host := { s.host with slots := Tab.put s.host.slots i v } }

/-- A record rejected: its receipt, the count, the violation logged once (R494, R518, R519). -/
def State.reject (s : State) (slot reason : Nat) (st : Status) : State :=
  let s := s.setSlot slot (.receipt (rejectWord slot reason st))
  let s := { s with host := { s.host with rejected := s.host.rejected + 1 } }
  s.violation (0x80 + reason) slot (slot * 256)

/-- A record accepted: its handle, its entry, the next sequence number (R491, R493). -/
def State.accept (s : State) (slot : Nat) (rec : List Byte) : State :=
  let seq := s.host.nextSeq
  let c : Cmd := { gen := s.host.gen, slot := slot, record := rec }
  let c := { c with readyAt := if s.readyNow c then some s.nowUs else none }
  let s := (s.setSlot slot (.receipt (c.handle seq))).setCmd seq c
  { s with host := { s.host with nextSeq := seq + 1, accepted := s.host.accepted + 1 } }

/-- The check of a completed record (R489, R490, R494). -/
def State.checkRecord (s : State) (slot : Nat) (rec : List Byte) : State :=
  match s.rejectReason rec false with
  | some (reason, st) => s.reject slot reason st
  | none => s.accept slot rec

/-- The bytes of a run written over a record. -/
def overlay (rec : List Byte) (lo : Nat) (bs : List Byte) : List Byte := slice rec 0 lo ++ bs ++ (slice rec 0 64).drop (lo + bs.length)

/-- The mask of bytes a run covers. -/
def runMask (lo n : Nat) : Dword := BitVec.ofNat 64 ((2 ^ n - 1) * 2 ^ lo)

/-- A write to record bytes of one slot begins, fills or completes a record (R489). -/
def State.recordWrite (s : State) (slot lo : Nat) (bs : List Byte) : State :=
  match s.slot slot with
  | .filling mask data _ =>
    let m := mask ||| runMask lo bs.length
    let d := overlay data lo bs
    if m = BitVec.allOnes 64 then s.checkRecord slot d else s.setSlot slot (.filling m d false)
  | _ =>
    let m := runMask lo bs.length
    let d := overlay (List.replicate 64 0) lo bs
    if m = BitVec.allOnes 64 then s.checkRecord slot d else s.setSlot slot (.filling m d false)

/-- INTAKE_WRITE (R488, R489, R518): a write that leaves the record bytes of one slot is dropped whole; a poisoned one
discards the record. -/
def execIntakeWrite (off : BitVec 20) (data : List Byte) (poisoned : Bool) (s : State) : Host.Outcome State Fault Refusal :=
  let o := off.toNat
  let slot := o / 256
  let lo := o % 256
  if data = [] then .next s
  else if (o + data.length - 1) / 256 ≠ slot then .next (s.violation 7 slot o)
  else if 64 < lo + data.length then .next (s.violation 5 slot o)
  else if poisoned then
    match s.rejectReason (List.replicate 64 0) true with
    | some (reason, st) => .next (s.reject slot reason st)
    | none => .next s
  else .next (s.recordWrite slot lo data)

/-- A filling record discarded as PARTIAL (R495). -/
def State.discardPartial (s : State) (slot : Nat) : State :=
  match s.slot slot with
  | .filling _ _ _ => s.reject slot 0x01 .shapeOver
  | _ => s

/-- The receipt word a read returns: all ones for an empty slot (R489). -/
def Slot.word : Slot → Dword
  | .receipt w => w
  | _ => BitVec.allOnes 64

/-- The part of a BAR2 read that falls in one slot (R488, R518): record bytes read zero and are a violation; a receipt
word it covers discards a filling record (R495). -/
def State.slotRead (s : State) (slot lo n : Nat) : List Byte × State :=
  let s := if lo < 64 then s.violation 6 slot (256 * slot + lo) else s
  let s := if lo < 72 ∧ 64 < lo + n then s.discardPartial slot else s
  (slice (List.replicate 64 0 ++ leBytes 8 (s.slot slot).word.toNat ++ List.replicate 184 0) lo n, s)

/-- A BAR2 read from `off`, slot by slot (R488). -/
def State.intakeRead (s : State) (off n : Nat) : List Byte × State :=
  ((List.range ((off % 256 + n + 255) / 256)).map (fun i => off / 256 + i)).foldl (fun p slot =>
    let lo := max off (256 * slot) - 256 * slot
    let hi := min (off + n) (256 * slot + 256) - 256 * slot
    match p.2.slotRead slot lo (hi - lo) with
    | (bs, s) => (p.1 ++ bs, s)) ([], s)

/-- RECEIPT_READ (R488, R489, R490, R495): a read of BAR2 bytes; a read of a filling slot's receipt word discards its record
and returns PARTIAL. -/
def execReceiptRead (off : BitVec 20) (len : Nat) (s : State) : Host.Outcome State Fault Refusal :=
  match s.intakeRead off.toNat len with
  | (bs, s) => .next (s.send (.read bs false))

/-- PARTIAL_TIMEOUT (R495). -/
def execPartialTimeout (slot : IntakeIx) (s : State) : Host.Outcome State Fault Refusal := .next (s.discardPartial slot.val)

/-- COMPLETION_RECORD_VISIBLE (R513, R514, R517): `accepted` says whether the host took the write. -/
def execCompletionRecordVisible (q : QueueIx) (accepted : Bool) (s : State) : Host.Outcome State Fault Refusal :=
  .next (s.recordVisible q.val accepted)

/-- MSIX_HOLDOFF_EXPIRY (R517): one interrupt for the records made visible during the holdoff. -/
def execMsixHoldoffExpiry (q : QueueIx) (s : State) : Host.Outcome State Fault Refusal :=
  let v := s.queue q.val
  if !v.quiet then .next s
  else if v.owed then .next (s.queueIrq q.val)
  else .next (s.setQueue q.val { v with quiet := false })

/-- The stages from which the blocks of BAR0 serve (R555). -/
inductive Serve where
  | fromA | fromB | endC | fromD | fromE
  deriving DecidableEq, Repr

/-- Whether a block is in service. -/
def State.serves (s : State) : Serve → Bool
  | .fromA => decide (1 ≤ s.boot.stage)
  | .fromB => decide (2 ≤ s.boot.stage)
  | .endC => s.hbm.trained && !s.boot.halted
  | .fromD => decide (4 ≤ s.boot.stage)
  | .fromE => decide (5 ≤ s.boot.stage)

/-- Whether a host write to a block takes effect (R483, R555). -/
def State.barTakes (s : State) (b : Serve) : Bool := s.serves b && !s.ideHolds

/-- The index of the BAR0 block an offset lies in, in the order of R487; 0xFF for an offset in none (log entry 25). -/
def blockIx (off : Nat) : Nat :=
  if off < 0xB0000 then off / 65536
  else if 0x100000 ≤ off ∧ off < 0x200000 then 11
  else if 0x200000 ≤ off ∧ off < 0x300000 then 12
  else if 0x400000 ≤ off ∧ off < 0x800000 then 13
  else if 0x800000 ≤ off ∧ off < 0x1000000 then 14
  else if 0x1000000 ≤ off ∧ off < 0x3200000 then 15
  else 0xFF

/-- A BAR0 write that R483 drops, logged (R518 row 15); a write R555 drops is no violation. -/
def State.barDropped (s : State) (off : Nat) : State := if s.ideHolds then s.violation 15 (blockIx off) off else s

/-- A consumer index written (R516): ignored, with BAD_CONS, when it passes PROD or lies too far behind. -/
def State.consWrite (s : State) (q : Nat) (v : Half) : State :=
  let c := s.queue q
  if c.size < (c.prod - v).toNat then
    (s.setQueue q { c with badCons := true }).violation 14 q (0x1010 + 0x20 * q)
  else (s.setQueue q { c with cons := v }).promoteAll q

/-- HIF_CQ_CONS_WRITE (R514, R516). -/
def execHifCqConsWrite (q : QueueIx) (value : Word) (s : State) : Host.Outcome State Fault Refusal :=
  if s.barTakes .fromB then .next (s.consWrite q.val (value.setWidth 16)) else .next (s.barDropped (0x1010 + 0x20 * q.val))

/-- A control register written (R516, R520): LOG2 stands while ENABLE is 1. -/
def State.ctlWrite (s : State) (q : Nat) (v : Nat) : State :=
  let c := s.queue q
  let lg := BitVec.ofNat 4 v
  let c' := { c with
    log2 := if c.enable then c.log2 else lg
    enable := v.testBit 4
    vector := BitVec.ofNat 6 (fld v 5 6)
    irqAll := v.testBit 11
    holdoff := BitVec.ofNat 16 (fld v 16 16) }
  let s := s.setQueue q c'
  let s := if c.enable && lg != c.log2 then s.violation 14 q (0x1008 + 0x20 * q) else s
  s.promoteAll q

/-- HIF_CQ_CTL_WRITE (R514, R516). -/
def execHifCqCtlWrite (q : QueueIx) (value : Word) (s : State) : Host.Outcome State Fault Refusal :=
  if s.barTakes .fromB then .next (s.ctlWrite q.val value.toNat) else .next (s.barDropped (0x1008 + 0x20 * q.val))

/-- A vector control written: unmasking sends the interrupt its pending bit holds (R517). -/
def State.vectorCtl (s : State) (v : Nat) (ctl : Word) : State :=
  let e := Tab.at s.host.msix v {}
  let s := { s with host := { s.host with msix := Tab.put s.host.msix v { e with ctl := ctl &&& 1 } } }
  if !ctl.toNat.testBit 0 && s.host.pba.toNat.testBit v then
    { s with host := { s.host with pba := s.host.pba &&& ~~~(BitVec.ofNat 64 (2 ^ v)) } }.send (.msix e.addr e.data)
  else s

/-- MSIX_VECTOR_UNMASK (R517). -/
def execMsixVectorUnmask (v : QueueIx) (ctl : Word) (s : State) : Host.Outcome State Fault Refusal :=
  if s.barTakes .fromB then .next (s.vectorCtl v.val ctl) else .next (s.barDropped (0x800C + 0x10 * v.val))

end Sys2Proof.Machine
end

