-- ==== Sys2Proof/Machine/Mail.lean ====
section
/-! DEFINITION. The mail slots (R438 to R446): write words packed into tagged read words, reads, the idle event and the
flush. -/

namespace Sys2Proof.Machine

/-- A mail slot. -/
def State.mailSlot (s : State) (m : Nat) : MailSlot := Tab.at s.dma.mail m {}

/-- The state with a mail slot written. -/
def State.setMail (s : State) (m : Nat) (v : MailSlot) : State := { s with dma := { s.dma with mail := Tab.put s.dma.mail m v } }

/-- Read words of a slot in use, a partly filled one among them (R438). -/
def MailSlot.used (v : MailSlot) : Nat := v.words.length + b2n (!v.part.isEmpty)

/-- Free read words. -/
def MailSlot.free (v : MailSlot) : Nat := 256 - v.used

/-- A word made readable: its unused bytes are zeros (R440). -/
def MailSlot.push (v : MailSlot) (bs : List Byte) (fin : Bool) : MailSlot :=
  let w : MailWord := { data := slice bs 0 64, bytes := bs.length, fin := fin, loss := v.loss, packet := v.packet, word := v.word }
  if fin then { v with words := v.words ++ [w], part := [], packet := v.packet + 1, word := 0, loss := false }
  else { v with words := v.words ++ [w], part := [], word := v.word + 1 }

/-- A write word of 1 to 16 bytes packed into a slot that has room (R439, R440). -/
def MailSlot.pack (v : MailSlot) (bs : List Byte) (fin : Bool) : MailSlot :=
  let all := v.part ++ bs
  if all.length < 64 then (if fin then v.push all true else { v with part := all })
  else
    let rest := all.drop 64
    if rest = [] then v.push (all.take 64) fin
    else
      let v := v.push (all.take 64) false
      if fin then v.push rest true else { v with part := rest }

/-- The free read words a write word needs. -/
def MailSlot.needs (v : MailSlot) (n : Nat) : Nat :=
  if v.part = [] then 1 else if 64 < v.part.length + n then 1 else 0

/-- A write word entered, or dropped whole where no read word is free (R439, R444). -/
def MailSlot.write (v : MailSlot) (bs : List Byte) (fin : Bool) : MailSlot :=
  if v.free < v.needs bs.length then { v with overflow := true, loss := true, dropped := satAdd v.dropped bs.length }
  else v.pack bs fin

/-- Bytes written as write words of 16, the last shorter and marked where `fin` says so (R439). -/
def MailSlot.writeRun (v : MailSlot) (fin : Bool) : Nat → List Byte → MailSlot
  | 0, _ => v
  | k + 1, bs =>
    match bs with
    | [] => v
    | _ => let rest := bs.drop 16
           MailSlot.writeRun (v.write (bs.take 16) (fin && rest.isEmpty)) fin k rest

/-- The tag of a read word (R441). -/
def MailWord.tag (w : MailWord) : Dword :=
  BitVec.ofNat 64 (1 + 2 * b2n w.fin + 4 * w.bytes + 512 * b2n w.loss + 65536 * w.packet.toNat + 2 ^ 32 * w.word.toNat)

/-- The tag of an empty read (R442). -/
def MailSlot.emptyTag (v : MailSlot) : Dword := BitVec.ofNat 64 (65536 * v.packet.toNat)

/-- PACKETS (R443). -/
def MailSlot.packets (v : MailSlot) : Nat := (v.words.filter MailWord.fin).length

/-- A slot's next read word taken. -/
def State.mailRead (s : State) (m : Nat) : Option MailWord × State :=
  let v := s.mailSlot m
  match v.words with
  | [] => (none, s.bump (.cluster (m / 4)) 0x136 1)
  | w :: rest => (some w, s.setMail m { v with words := rest, tag := w.tag, fired := false })

/-- A slot flushed (R446): its contents go, packet numbers start at 0 again; packets waiting for the slot stay. -/
def MailSlot.flush (v : MailSlot) : MailSlot := { v with words := [], part := [], packet := 0, word := 0, loss := false }

/-- A slot flushed. -/
def State.flushMail (s : State) (m : Nat) : State := s.setMail m (s.mailSlot m).flush

/-- A whole packet of `n` bytes passed through a slot from its write side to its reader. -/
def MailSlot.passPacket (v : MailSlot) (n : Nat) : MailSlot :=
  let last : MailWord :=
    { data := [], bytes := if n % 64 = 0 then 64 else n % 64, fin := true, loss := v.loss, packet := v.packet
      word := BitVec.ofNat 16 (ceilDiv n 64 - 1) }
  { v with words := [], part := [], packet := v.packet + 1, word := 0, loss := false, tag := last.tag, fired := false }

/-- An edge engine. -/
def State.edge (s : State) (n : Nat) : Edge := Tab.at s.dma.edges n {}

/-- The state with an edge engine written. -/
def State.setEdge (s : State) (n : Nat) (v : Edge) : State := { s with dma := { s.dma with edges := Tab.put s.dma.edges n v } }

/-- The count of a core job left waiting while another core job runs: its stream jobs are consecutive no longer, but one that has
waited through four is owed its turn. -/
def owedTurn (n : Nat) : Nat := if 4 ≤ n then n else 0

/-- The next job an edge engine takes (R247): a core job that has waited through four consecutive stream jobs, the oldest stream job,
the oldest core job. -/
def Edge.take (v : Edge) : Edge :=
  match v.running with
  | some _ => v
  | none =>
    match v.streamQ, v.coreQ with
    | [], [] => v
    | [], c :: cs => { v with coreQ := cs, running := some c, waited := (v.waited.drop 1).map owedTurn }
    | j :: js, [] => { v with streamQ := js, running := some j }
    | j :: js, c :: cs =>
      if 4 ≤ v.waited.headD 0 then { v with coreQ := cs, running := some c, waited := (v.waited.drop 1).map owedTurn }
      else { v with streamQ := js, running := some j, waited := v.waited.map (fun n => n + 1) }

/-- A core job put into an edge engine's core queue (R247). -/
def Edge.addCore (v : Edge) (j : EdgeJob) : Edge := Edge.take { v with coreQ := v.coreQ ++ [j], waited := v.waited ++ [0] }

/-- The bytes of a frame packet after its header (R463, R474). -/
def StreamJob.payload (j : StreamJob) : List Byte :=
  match j.pic with
  | some p => p.data
  | none => j.body

/-- The header of a frame packet (R463). -/
def State.packetHeader (s : State) (j : StreamJob) : List Byte :=
  let x := Tab.at s.video.ctxs j.ctx {}
  let id := j.ctx + 512 * x.gen.toNat
  match j.pic with
  | some p =>
    leBytes 2 id ++ leBytes 1 (p.depth + 4 * b2n p.resampled + 8 * b2n p.mono + 16 * b2n p.damage.isSome + 32 * b2n p.grain) ++
    leBytes 1 0 ++ leBytes 4 j.frame ++ leBytes 2 p.width ++ leBytes 2 p.height ++ leBytes 2 p.dwidth ++ leBytes 2 p.dheight ++
    leBytes 4 ((p.damage.map Damage.blocks).getD 0) ++ List.replicate 44 0
  | none => leBytes 2 id ++ leBytes 1 64 ++ leBytes 1 0 ++ leBytes 4 j.frame ++ List.replicate 56 0

/-- Bytes of a frame packet. -/
def StreamJob.size (j : StreamJob) : Nat := 64 + j.payload.length

/-- The next write word of the packet under way at a slot: engine 33 waits for a free read word, and its first word waits
for room in the edge engine's stream queue (R247, R426); sixteen words are one of its bursts (R423). -/
def State.feedWord (s : State) (m : Nat) (j : StreamJob) : State :=
  let v := s.mailSlot m
  let n := m / 4
  let g := s.edge n
  if v.free < v.needs 16 ∨ j.size ≤ 16 * v.sent ∨ (v.sent = 0 ∧ 16 ≤ g.streamQ.length) then s
  else
    let bs := ((s.packetHeader j ++ j.payload).drop (16 * v.sent)).take 16
    let s := if v.sent % 16 = 0 then s.bump .io 0x130 1 else s
    let s' := s.setMail m { v.write bs (decide (j.size ≤ 16 * v.sent + 16)) with sent := v.sent + 1 }
    if v.sent = 0 then s'.setEdge n (Edge.take { g with streamQ := g.streamQ ++ [EdgeJob.stream m j] }) else s'

/-- MAIL_SLOT_WRITE (R439, R440, R444): a write word of 1 to 16 bytes; at a slot where engine 33 has a frame packet under
way, that packet's next word. -/
def execMailSlotWrite (m : MailIx) (data : List Byte) (fin : Bool) (s : State) : Host.Outcome State Fault Refusal :=
  match (s.mailSlot m.val).feeds with
  | j :: _ => .next (s.feedWord m.val j)
  | [] => .next (if data = [] ∨ 16 < data.length then s else s.setMail m.val ((s.mailSlot m.val).write data fin))

/-- MAIL_SLOT_READ (R442, R443): the data word and its tag, or the tag of an empty slot in its first bytes. -/
def execMailSlotRead (m : MailIx) (s : State) : Host.Outcome State Fault Refusal :=
  match s.mailRead m.val with
  | (some w, s) => .next (s.send (.mail (w.data ++ leBytes 8 w.tag.toNat)))
  | (none, s) => .next (s.send (.mail (leBytes 8 (s.mailSlot m.val).emptyTag.toNat ++ List.replicate 56 0)))

/-- MAIL_SLOT_IDLE (R445, R472): one idle event to the consumer's owner, until the next read. -/
def execMailSlotIdle (m : MailIx) (s : State) : Host.Outcome State Fault Refusal :=
  let v := s.mailSlot m.val
  if v.words.isEmpty || v.idleUs == 0 || v.fired then .next s
  else
    let s := (s.setMail m.val { v with idle := true, fired := true }).bump (.cluster (m.val / 4)) 0x137 1
    match (if m.val % 4 < 2 then v.feeds.head? else none) with
    | none => .next s
    | some j =>
      let x := Tab.at s.video.ctxs j.ctx {}
      .next { s with video := { s.video with ctxs := Tab.put s.video.ctxs j.ctx { x with idle := min (x.idle + 1) 63 } } }

/-- MAIL_SLOT_FLUSH (R446). -/
def execMailSlotFlush (m : MailIx) (s : State) : Host.Outcome State Fault Refusal :=
  if s.barTakes .fromE then .next (s.flushMail m.val) else .next (s.barDropped (0xC00000 + 0x20 * m.val))

end Sys2Proof.Machine
end

