-- ==== Sys2Proof/Machine/Float.lean ====
section
/-! DEFINITION. Number formats and arithmetic (06_numerics R197 to R219): exact dyadic values, the encodings of
each format, rounding (R216, R217), conversion (R215) and microscaling (R204 to R207). -/

namespace Sys2Proof.Machine

/-- The formats of R197, in code order. -/
inductive NumFmt where
  | fp32 | bf16 | fp16 | e4m3 | e5m2 | e3m2 | e2m3 | e2m1
  | mxfp8 | mxfp6 | mxfp4 | int8 | int4 | uint8 | uint16 | int32
  deriving DecidableEq, Repr

/-- The exact value of an encoding: `fin neg m e` is `(-1)^neg × m × 2^e` (a signed zero when `m` is 0). -/
inductive Num where
  | nan
  | inf (neg : Bool)
  | fin (neg : Bool) (m : Nat) (e : Int)
  deriving DecidableEq, Repr

/-- The rounding modes of R216; a stochastic rounding carries its random word (R217). -/
inductive RMode where
  | rne
  | rtz
  | sto (r : Nat)
  deriving DecidableEq, Repr

/-- How a format writes a magnitude beyond its largest finite, and its specials (R199). -/
inductive FpTop where
  | ieee      -- infinity and NaN at the top exponent (FP32, BF16, FP16)
  | ieeeSat   -- infinity and NaN, finite overflow clips (FP8 E5M2)
  | e4m3      -- no infinity, one NaN magnitude
  | finite    -- every encoding finite
  deriving DecidableEq, Repr

/-- A floating-point layout of R199. -/
structure FpFmt where
  eb   : Nat
  fb   : Nat
  bias : Int
  top  : FpTop
  maxE : Nat   -- encoding of the largest finite, without its sign
  nanE : Nat   -- canonical NaN (R201), 0 where the format has none
  deriving DecidableEq, Repr

/-- A converted element: its bits and what R223 counts of it. -/
structure Conv where
  bits    : Nat
  sat     : Bool
  nanLost : Bool
  deriving DecidableEq, Repr

/-- The format a code names (R197); codes 0x10 to 0x1F are reserved. -/
def numFmtOfCode : Nat → Option NumFmt
  | 0x00 => some .fp32 | 0x01 => some .bf16 | 0x02 => some .fp16 | 0x03 => some .e4m3
  | 0x04 => some .e5m2 | 0x05 => some .e3m2 | 0x06 => some .e2m3 | 0x07 => some .e2m1
  | 0x08 => some .mxfp8 | 0x09 => some .mxfp6 | 0x0A => some .mxfp4 | 0x0B => some .int8
  | 0x0C => some .int4 | 0x0D => some .uint8 | 0x0E => some .uint16 | 0x0F => some .int32
  | _ => none

/-- Bits per element of a format (R197), scales apart. -/
def NumFmt.width : NumFmt → Nat
  | .fp32 => 32 | .bf16 => 16 | .fp16 => 16 | .e4m3 => 8 | .e5m2 => 8 | .e3m2 => 6 | .e2m3 => 6 | .e2m1 => 4
  | .mxfp8 => 8 | .mxfp6 => 6 | .mxfp4 => 4 | .int8 => 8 | .int4 => 4 | .uint8 => 8 | .uint16 => 16 | .int32 => 32

/-- Whether a format is one of the microscaling formats. -/
def NumFmt.isMx : NumFmt → Bool
  | .mxfp8 => true | .mxfp6 => true | .mxfp4 => true | _ => false

/-- Whether a format holds integers. -/
def NumFmt.isInt : NumFmt → Bool
  | .int8 => true | .int4 => true | .uint8 => true | .uint16 => true | .int32 => true | _ => false

/-- The layout of a floating-point format or of the elements of an MX format (R199). -/
def NumFmt.layout : NumFmt → Option FpFmt
  | .fp32 => some ⟨8, 23, 127, .ieee, 0x7F7FFFFF, 0x7FC00000⟩
  | .bf16 => some ⟨8, 7, 127, .ieee, 0x7F7F, 0x7FC0⟩
  | .fp16 => some ⟨5, 10, 15, .ieee, 0x7BFF, 0x7E00⟩
  | .e4m3 => some ⟨4, 3, 7, .e4m3, 0x7E, 0x7F⟩
  | .mxfp8 => some ⟨4, 3, 7, .e4m3, 0x7E, 0x7F⟩
  | .e5m2 => some ⟨5, 2, 15, .ieeeSat, 0x7B, 0x7E⟩
  | .e3m2 => some ⟨3, 2, 3, .finite, 0x1F, 0⟩
  | .e2m3 => some ⟨2, 3, 1, .finite, 0x1F, 0⟩
  | .mxfp6 => some ⟨2, 3, 1, .finite, 0x1F, 0⟩
  | .e2m1 => some ⟨2, 1, 1, .finite, 0x7, 0⟩
  | .mxfp4 => some ⟨2, 1, 1, .finite, 0x7, 0⟩
  | _ => none

/-- The FP32 layout. -/
def fp32L : FpFmt := ⟨8, 23, 127, .ieee, 0x7F7FFFFF, 0x7FC00000⟩

/-- The value of a magnitude encoding under R200 (specials apart). -/
def FpFmt.magValue (f : FpFmt) (neg : Bool) (enc : Nat) : Num :=
  let e := enc / 2 ^ f.fb
  let fr := enc % 2 ^ f.fb
  if e = 0 then .fin neg fr (1 - f.bias - (f.fb : Int))
  else .fin neg (2 ^ f.fb + fr) ((e : Int) - f.bias - (f.fb : Int))

/-- The value of an encoding (R199, R200). -/
def FpFmt.value (f : FpFmt) (bits : Nat) : Num :=
  let w := f.eb + f.fb
  let neg := bits.testBit w
  let enc := bits % 2 ^ w
  match f.top with
  | .finite => f.magValue neg enc
  | .e4m3 => if enc = 0x7F then .nan else f.magValue neg enc
  | _ =>
    if enc / 2 ^ f.fb = 2 ^ f.eb - 1 then (if enc % 2 ^ f.fb = 0 then .inf neg else .nan)
    else f.magValue neg enc

/-- The integer range of an integer format (R202). -/
def NumFmt.range : NumFmt → Int × Int
  | .int8 => (-128, 127) | .int4 => (-8, 7) | .uint8 => (0, 255) | .uint16 => (0, 65535)
  | _ => (-2147483648, 2147483647)

/-- The value of an element's bits in a format, scales apart. -/
def NumFmt.value (f : NumFmt) (bits : Nat) : Num :=
  match f.layout with
  | some l => l.value (bits % 2 ^ f.width)
  | none =>
    let v := bits % 2 ^ f.width
    let i : Int := if f = .uint8 ∨ f = .uint16 then (v : Int) else sgn f.width v
    .fin (decide (i < 0)) i.natAbs 0

/-- Floor of the base-2 logarithm of a non-zero dyadic magnitude. -/
def log2Floor (m : Nat) (e : Int) : Int := (Nat.log2 m : Int) + e

/-- A magnitude `m × 2^e` rounded to a multiple of `2^q` (R216, R217): the multiple. -/
def roundTo (mode : RMode) (m : Nat) (e q : Int) : Nat :=
  if q ≤ e then m <<< (e - q).toNat
  else
    let d := (q - e).toNat
    let lo := m >>> d
    let rem := m % 2 ^ d
    match mode with
    | .rtz => lo
    | .rne => if 2 ^ d < 2 * rem ∨ (2 * rem = 2 ^ d ∧ lo % 2 = 1) then lo + 1 else lo
    | .sto r => if r < (rem * 65536) >>> d then lo + 1 else lo

/-- Comparison of two dyadic magnitudes. -/
def magLt (m : Nat) (e : Int) (m' : Nat) (e' : Int) : Bool :=
  let q := min e e'
  decide (m <<< (e - q).toNat < m' <<< (e' - q).toNat)

/-- The encoding of an already rounded magnitude `n × 2^q` not beyond the largest finite. -/
def FpFmt.encodeMag (f : FpFmt) (n : Nat) (q : Int) : Nat :=
  if n = 0 then 0
  else
    let emin : Int := 1 - f.bias
    let l := log2Floor n q
    if l < emin then n <<< (q - (emin - (f.fb : Int))).toNat
    else
      let qe := l - (f.fb : Int)
      let sig := if qe ≤ q then n <<< (q - qe).toNat else n >>> (qe - q).toNat
      ((l + f.bias).toNat) * 2 ^ f.fb + (sig - 2 ^ f.fb)

/-- The sign bit of a layout's encoding. -/
def FpFmt.signBit (f : FpFmt) (neg : Bool) : Nat := b2n neg * 2 ^ (f.eb + f.fb)

/-- A value converted to a floating-point layout by R215, the overflow test made after rounding. -/
def FpFmt.convert (f : FpFmt) (mode : RMode) (x : Num) : Conv :=
  match x with
  | .nan => if f.nanE = 0 then ⟨0, false, true⟩ else ⟨f.nanE, false, false⟩
  | .inf neg =>
    match f.top with
    | .finite => ⟨f.signBit neg + f.maxE, true, false⟩
    | .e4m3 => ⟨f.nanE, false, false⟩
    | _ => ⟨f.signBit neg + (2 ^ f.eb - 1) * 2 ^ f.fb, false, false⟩
  | .fin neg m e =>
    if m = 0 then ⟨f.signBit neg, false, false⟩
    else
      let q := max (log2Floor m e) (1 - f.bias) - (f.fb : Int)
      let n := roundTo mode m e q
      match f.magValue false f.maxE with
      | .fin _ mm me =>
        if magLt mm me n q then
          if f.top = .ieee ∧ mode ≠ .rtz then ⟨f.signBit neg + (2 ^ f.eb - 1) * 2 ^ f.fb, false, false⟩
          else ⟨f.signBit neg + f.maxE, true, false⟩
        else ⟨f.signBit neg + f.encodeMag n q, false, false⟩
      | _ => ⟨f.signBit neg, false, false⟩

/-- A value converted to an integer format: rounded, then saturated at the range limit (R215). -/
def convertInt (f : NumFmt) (mode : RMode) (x : Num) : Conv :=
  let r := f.range
  let put (i : Int) : Nat := wrapN f.width i
  match x with
  | .nan => ⟨0, false, true⟩
  | .inf neg => ⟨put (if neg then r.1 else r.2), true, false⟩
  | .fin neg m e =>
    let n := roundTo mode m e 0
    let i : Int := if neg then -(n : Int) else (n : Int)
    if i < r.1 then ⟨put r.1, true, false⟩
    else if r.2 < i then ⟨put r.2, true, false⟩
    else ⟨put i, false, false⟩

/-- A value converted to a format's element (R215). -/
def NumFmt.convert (f : NumFmt) (mode : RMode) (x : Num) : Conv :=
  match f.layout with
  | some l => l.convert mode x
  | none => convertInt f mode x

/-- The value of an FP32 word. -/
def f32 (w : Word) : Num := fp32L.value w.toNat

/-- A value rounded to FP32, nearest with ties to even (R208, R216). -/
def toF32 (x : Num) : Word := BitVec.ofNat 32 (fp32L.convert .rne x).bits

/-- The canonical FP32 NaN (R201). -/
def nanF32 : Word := 0x7FC00000#32

/-- Whether an FP32 word is a NaN. -/
def isNanF32 (w : Word) : Bool := f32 w == .nan

/-- Whether a value is a NaN. -/
def Num.isNan : Num → Bool
  | .nan => true | _ => false

/-- Whether a value is infinite. -/
def Num.isInf : Num → Bool
  | .inf _ => true | _ => false

/-- A value with its sign turned. -/
def Num.neg : Num → Num
  | .nan => .nan
  | .inf s => .inf (!s)
  | .fin s m e => .fin (!s) m e

/-- A value's magnitude. -/
def Num.abs : Num → Num
  | .nan => .nan
  | .inf _ => .inf false
  | .fin _ m e => .fin false m e

/-- A value's sign bit. -/
def Num.sign : Num → Bool
  | .nan => false
  | .inf s => s
  | .fin s _ _ => s

/-- A value times a power of two. -/
def Num.scale (x : Num) (k : Int) : Num :=
  match x with
  | .fin s m e => .fin s m (e + k)
  | y => y

/-- The integer `± m` of a signed magnitude. -/
def signedMag (neg : Bool) (m : Nat) : Int := if neg then -(m : Int) else (m : Int)

/-- The exact sum of two values; an exact zero of opposite signs is +0 (IEEE 754-2019). -/
def Num.add (x y : Num) : Num :=
  match x, y with
  | .nan, _ => .nan
  | _, .nan => .nan
  | .inf s, .inf t => if s = t then .inf s else .nan
  | .inf s, .fin _ _ _ => .inf s
  | .fin _ _ _, .inf t => .inf t
  | .fin s m e, .fin t n g =>
    let q := min e g
    let i := signedMag s (m <<< (e - q).toNat) + signedMag t (n <<< (g - q).toNat)
    if i = 0 then .fin (s && t) 0 q else .fin (decide (i < 0)) i.natAbs q

/-- The exact product of two values. -/
def Num.mul (x y : Num) : Num :=
  match x, y with
  | .nan, _ => .nan
  | _, .nan => .nan
  | .inf s, .inf t => .inf (s != t)
  | .inf s, .fin t n _ => if n = 0 then .nan else .inf (s != t)
  | .fin s m _, .inf t => if m = 0 then .nan else .inf (s != t)
  | .fin s m e, .fin t n g => .fin (s != t) (m * n) (e + g)

/-- Order of two values that are not NaN: -1, 0 or 1, zeros of either sign equal. -/
def Num.cmp (x y : Num) : Int :=
  match x, y with
  | .inf s, .inf t => if s = t then 0 else if s then -1 else 1
  | .inf s, _ => if s then -1 else 1
  | _, .inf t => if t then 1 else -1
  | .fin s m e, .fin t n g =>
    let q := min e g
    let i := signedMag s (m <<< (e - q).toNat)
    let j := signedMag t (n <<< (g - q).toNat)
    if i < j then -1 else if i = j then 0 else 1
  | _, _ => 0

/-- IEEE less-than: false where either is NaN. -/
def Num.lt (x y : Num) : Bool := !x.isNan && !y.isNan && decide (Num.cmp x y < 0)

/-- IEEE equality: false where either is NaN. -/
def Num.eqv (x y : Num) : Bool := !x.isNan && !y.isNan && decide (Num.cmp x y = 0)

/-- Minimum with NaN propagated and -0 below +0 (R213). -/
def Num.minN (x y : Num) : Num :=
  if x.isNan || y.isNan then .nan
  else if Num.cmp x y < 0 then x
  else if Num.cmp x y = 0 then (if x.sign then x else y) else y

/-- Maximum with NaN propagated and -0 below +0 (R213). -/
def Num.maxN (x y : Num) : Num :=
  if x.isNan || y.isNan then .nan
  else if Num.cmp x y < 0 then y
  else if Num.cmp x y = 0 then (if x.sign then y else x) else x

/-- A quotient with a sticky low bit, enough bits for one correct rounding to FP32. -/
def Num.div (x y : Num) : Num :=
  match x, y with
  | .nan, _ => .nan
  | _, .nan => .nan
  | .inf _, .inf _ => .nan
  | .inf s, .fin t _ _ => .inf (s != t)
  | .fin s _ _, .inf t => .fin (s != t) 0 0
  | .fin s m e, .fin t n g =>
    if n = 0 then (if m = 0 then .nan else .inf (s != t))
    else
      let sh := Nat.log2 n + 40
      let a := m <<< sh
      .fin (s != t) (2 * (a / n) + b2n (a % n != 0)) (e - g - (sh : Int) - 1)

/-- The integer square root, by one bit of the result at a time from the top. -/
def isqrtGo (n : Nat) : Nat → Nat → Nat
  | 0, r => r
  | k + 1, r =>
    let c := r + 2 ^ k
    if c * c ≤ n then isqrtGo n k c else isqrtGo n k r

/-- The integer square root. -/
def isqrt (n : Nat) : Nat := isqrtGo n (Nat.log2 n / 2 + 1) 0

/-- A square root with a sticky low bit, enough bits for one correct rounding to FP32. -/
def Num.sqrt (x : Num) : Num :=
  match x with
  | .nan => .nan
  | .inf s => if s then .nan else .inf false
  | .fin s m e =>
    if m = 0 then x
    else if s then .nan
    else
      let odd := b2n (e % 2 != 0)
      let a := m <<< (64 + odd)
      let r := isqrt a
      .fin false (2 * r + b2n (r * r != a)) ((e - 64 - (odd : Int)) / 2 - 1)

/-- FP32 sum with one rounding. -/
def fadd (a b : Word) : Word := toF32 ((f32 a).add (f32 b))

/-- FP32 difference with one rounding. -/
def fsub (a b : Word) : Word := toF32 ((f32 a).add (f32 b).neg)

/-- FP32 product with one rounding. -/
def fmul (a b : Word) : Word := toF32 ((f32 a).mul (f32 b))

/-- FP32 quotient, correctly rounded (R213). -/
def fdiv (a b : Word) : Word := toF32 ((f32 a).div (f32 b))

/-- FP32 square root, correctly rounded (R213). -/
def fsqrt (a : Word) : Word := toF32 (f32 a).sqrt

/-- FP32 fused multiply-add with one rounding (R208). -/
def ffma (a b c : Word) : Word := toF32 (((f32 a).mul (f32 b)).add (f32 c))

/-- An index put into a list by its key, after those of the same key. -/
def insKey (key : Nat → Nat) (i : Nat) : List Nat → List Nat
  | [] => [i]
  | j :: r => if key i < key j then i :: j :: r else j :: insKey key i r

/-- The order of `n` terms of a sum whose order the manual leaves open (R220; log entry 33). -/
def sumOrder (ctr n : Nat) : List Nat := (List.range n).foldl (fun l i => insKey (Config.sumKey ctr) i l) []

/-- FP32 terms added one by one onto a start, each addition rounded, in an open order. -/
def fsumOpen (ctr : Nat) (start : Word) (terms : List Word) : Word :=
  (sumOrder ctr terms.length).foldl (fun a i => fadd a (nth terms i 0#32)) start

/-- The FP32 word of an integer, rounded to nearest even. -/
def f32OfInt (i : Int) : Word := toF32 (.fin (decide (i < 0)) i.natAbs 0)

/-- The E8M0 scale of a byte (R204): none for 0xFF, the NaN scale. -/
def e8m0 (x : Nat) : Option Int := if x = 0xFF then none else some ((x : Int) - 127)

/-- The value of an MX element under its block's scale (R204). -/
def mxValue (f : NumFmt) (scale bits : Nat) : Num :=
  match e8m0 scale with
  | none => .nan
  | some k => (f.value bits).scale k

/-- The exponent R207 takes from a format's largest element. -/
def NumFmt.emax : NumFmt → Int
  | .mxfp8 => 8 | _ => 2

/-- The larger of two magnitudes. -/
def magMax (x y : Num) : Num := if x.abs.lt y.abs then y.abs else x.abs

/-- One MX block quantised (R207): its scale byte, its elements, and how many saturated. -/
def mxQuantise (f : NumFmt) (modes : List RMode) (vs : List Num) : Nat × List Nat × Nat :=
  if vs.any (fun v => v.isNan || v.isInf) then (0xFF, vs.map (fun _ => 0), 0)
  else
    match vs.foldl magMax (.fin false 0 0) with
    | .fin _ m e =>
      if m = 0 then (0x7F, vs.map (fun _ => 0), 0)
      else
        let x := clampI 0 254 (log2Floor m e - f.emax + 127)
        let cs := (vs.zip modes).map (fun p => f.convert p.2 (p.1.scale (127 - x)))
        (x.toNat, cs.map Conv.bits, (cs.filter Conv.sat).length)
    | _ => (0xFF, vs.map (fun _ => 0), 0)

/-- Bytes of a row of `k` elements (R203). -/
def NumFmt.rowBytes (f : NumFmt) (k : Nat) : Nat := ceilDiv (f.width * k) 8

/-- Element `i` of a row's bytes (R203). -/
def NumFmt.elemAt (f : NumFmt) (row : List Byte) (i : Nat) : Nat :=
  let b := f.width * i
  fld (recField row (b / 8) 5) (b % 8) f.width

/-- A row's elements packed from its first byte, unused bits of the last byte zero (R203). -/
def NumFmt.packRow (f : NumFmt) (els : List Nat) : List Byte :=
  let n := els.foldr (fun e acc => e % 2 ^ f.width + 2 ^ f.width * acc) 0
  leBytes (f.rowBytes els.length) n

end Sys2Proof.Machine
end

