-- ==== Sys2Proof/Machine/Programs.lean ====
section
/-! DEFINITION. The program container (R500 to R507): its sections, their checks (R298, R310, R338, R504, R505,
R663, R192), and what LOAD_PROGRAM and UNLOAD place and release. -/

namespace Sys2Proof.Machine

/-- All ones in 32 bits: an absent offset. -/
def noOff : Nat := 0xFFFFFFFF

/-- A section found in a container: kind, count, body. -/
structure Section where
  kind  : Nat
  count : Nat
  body  : List Byte
  deriving DecidableEq, Repr

/-- The sections of a container from an offset (R503); none where one is of an unknown kind or runs past the end. -/
def parseSections (c : List Byte) (len : Nat) : Nat → Nat → Option (List Section)
  | 0, _ => some []
  | n + 1, off =>
    if len < off + 64 then none
    else
      let kind := recField c off 2
      let blen := recField c (off + 8) 8
      if kind = 0 ∨ 8 < kind ∨ len < off + 64 + blen then none
      else
        match parseSections c len n (alignUp (off + 64 + blen) 64) with
        | none => none
        | some rest => some (⟨kind, recField c (off + 4) 4, slice c (off + 64) blen⟩ :: rest)

/-- The section of a kind. -/
def sectionOf (l : List Section) (k : Nat) : Section := (l.find? (fun x => x.kind == k)).getD ⟨k, 0, []⟩

/-- A kernel entry (R504). -/
def parseKernel (b : List Byte) : KernelEnt :=
  let f := recField b
  { code := f 0 4, words := f 4 4, size := f 8 1 % 16, rankFlex := (f 8 1).testBit 4, chunks := (f 8 1).testBit 5
    aHold := (f 8 1).testBit 6, home := f 9 1, banks := f 10 1, dmaCh := f 11 1, foot := f 12 1, save := f 16 4
    plan := f 20 4, shape := f 24 4, prefetch := f 28 4, pfCount := f 32 4, pSample := f 36 4, pBatch := f 40 4
    pChunk := f 44 4 }

/-- The limits of R504 and R338 on a kernel entry. -/
def KernelEnt.within (k : KernelEnt) : Bool :=
  decide (k.size ≤ 9) && decide (k.banks ≤ 64) && decide (k.dmaCh ≤ 12) && decide (k.foot ≤ 21) && decide (k.save ≤ 1441792)

/-- A shape table (R309). -/
def parseShape (b : List Byte) : ShapeTable :=
  let dims := recField b 0 1 % 8
  let pts := recField b 1 1 % 16
  { dims := dims
    kinds := tabulate 4 (fun d => recField b (4 + d) 1 % 4)
    static := tabulate 4 (fun d => (recField b (4 + d) 1).testBit 2)
    points := tabulate (min pts 8) (fun p => tabulate 4 (fun d => recField b (8 + 16 * p + 4 * d) 4))
    pieceAt := recField b 136 8 }

/-- The POINTS field of a shape table. -/
def shapePoints (b : List Byte) : Nat := recField b 1 1 % 16

/-- Whether each point of a list rises on the one before it in the used dimensions (R310). -/
def ascendingPoints (dims : Nat) : List (List Nat) → Bool
  | a :: b :: r =>
    (List.range dims).all (fun d => decide (nth a d 0 ≤ nth b d 0)) && (List.range dims).any (fun d => decide (nth a d 0 < nth b d 0)) &&
    ascendingPoints dims (b :: r)
  | _ => true

/-- Whether a shape table passes R310. -/
def shapeOk (b : List Byte) : Bool :=
  let t := parseShape b
  decide (1 ≤ t.dims) && decide (t.dims ≤ 4) && decide (1 ≤ shapePoints b) && decide (shapePoints b ≤ 8) &&
  (List.range t.dims).all (fun d => nth t.kinds d 0 != 3) &&
  t.points.all (fun p => (List.range t.dims).all (fun d => nth p d 0 != 0)) && ascendingPoints t.dims t.points

/-- A tile plan (R296, R297). -/
def parsePlan (b : List Byte) : TilePlan :=
  let loops := recField b 0 1 % 8
  let levels := fld (recField b 0 1) 3 2
  { exts := tabulate loops (fun i => let e := recField b (4 + 4 * i) 4
                                     (e.testBit 31, if e.testBit 31 then e % 4 else e % 2 ^ 31))
    levels := tabulate levels (fun j =>
      let o := 32 + 32 * j
      let y := recField b (o + 27) 1
      { tile := tabulate 6 (fun i => recField b (o + 4 * i) 4)
        order := tabulate loops (fun i => fld (recField b (o + 24) 3) (3 * i) 3)
        dist := y % 4, accum := y.testBit 2, bufs := fld y 3 3, counter := recField b (o + 28) 4 % 131072 }) }

/-- Bytes of a tile plan whose header is at hand. -/
def planBytes (b : List Byte) : Nat := 32 + 32 * fld (recField b 0 1) 3 2

/-- Whether a tile plan passes R298 under the shape tables that govern its kernel. -/
def planOk (b : List Byte) (governing : List (Option ShapeTable)) : Bool :=
  let p := parsePlan b
  let loops := p.exts.length
  let ls := p.levels
  decide (1 ≤ loops) && decide (loops ≤ 6) && decide (1 ≤ ls.length) && decide (ls.length ≤ 3) &&
  ls.all (fun l => (List.range loops).all (fun d => l.order.contains d) && l.dist != 3 && decide (1 ≤ l.bufs) && decide (l.bufs ≤ 4) &&
    (List.range loops).all (fun d => decide (1 ≤ nth l.tile d 0) && decide (nth l.tile d 0 < 2 ^ 31))) &&
  ((ls.getLast?.map TileLevel.dist).getD 0 != 2) &&
  (List.range (ls.length - 1)).all (fun j =>
    match ls[j]?, ls[j + 1]? with
    | some a, some c => (List.range loops).all (fun d =>
        decide (nth a.tile d 0 ≤ nth c.tile d 0) && nth c.tile d 0 % nth a.tile d 1 == 0)
    | _, _ => true) &&
  p.exts.all (fun e => !e.1 || (!governing.isEmpty && governing.all (fun t => match t with
    | some t => decide (e.2 < t.dims) | none => false)))

/-- A prefetch entry (R379), a WEIGHT source with bit 63 set relocated into the program window (R505). -/
def parsePf (b : List Byte) (window : Nat) : PfEnt :=
  let src := recField b 0 8
  let kind := recField b 28 1 % 4
  { src := if kind = 0 ∧ src.testBit 63 then window + src % 2 ^ 56 else src
    dst := recField b 8 8, bytes := recField b 16 4, issue := recField b 20 2, need := recField b 22 2
    deadline := recField b 24 4, kind := kind, proxy := recField b 30 2 }

/-- Whether a prefetch entry passes R663. -/
def PfEnt.ok (e : PfEnt) (stages proxies : Nat) : Bool :=
  decide (e.issue ≤ e.need) && decide (e.need < stages) &&
  (e.kind == 2 || e.dst / 2 ^ 52 == 0x12 || e.dst / 2 ^ 52 == 0x13) &&
  (e.kind != 0 || e.proxy == 0xFFFF || decide (e.proxy < proxies))

/-- A graph entry and its layers and slices (R505). -/
def parseGraph (body : List Byte) (i : Nat) : GraphEnt :=
  let f := fun o n => recField body (32 * i + o) n
  { layers := tabulate (f 0 2) (fun k => (recField body (f 8 4 + 16 * k) 2, recField body (f 8 4 + 16 * k + 4) 8))
    slices := tabulate (f 2 2) (fun k => recField body (f 12 4 + 2 * k) 2)
    shape := f 4 4, prefetch := f 16 4, pfCount := f 20 4 }

/-- Whether a list rises strictly. -/
def ascending : List Nat → Bool
  | a :: b :: r => decide (a < b) && ascending (b :: r)
  | _ => true

/-- Whether a graph passes R505, with `n` kernel entries. -/
def GraphEnt.ok (g : GraphEnt) (n : Nat) : Bool :=
  decide (1 ≤ g.layers.length) && decide (1 ≤ g.slices.length) && decide (g.slices.length ≤ g.layers.length) &&
  (g.slices.head? == some 0) && ascending g.slices && g.slices.all (fun x => decide (x < g.layers.length)) &&
  g.layers.all (fun l => decide (l.1 < n))

/-- The stages of a list: one for a kernel, the layers for a graph (R379, log entry 12). -/
def kernelStages : Nat := 1

/-- A proxy entry's FORMAT and MXBLK accepted (R192). -/
def proxyOk (format mxblk : Nat) : Bool :=
  match numFmtOfCode format with
  | none => false
  | some f => f != .uint8 && f != .uint16 && f != .int32 && (mxblk == 0 || f.isMx)

/-- A container's parts, once its sections are found. -/
structure Container where
  code    : Section
  plans   : Section
  shapes  : Section
  prefs   : Section
  proxies : Section
  weights : Section
  attrs   : Section
  graphs  : Section
  deriving DecidableEq, Repr

/-- The kernel entries of a container. -/
def Container.kernels (c : Container) : List KernelEnt := tabulate c.attrs.count (fun i => parseKernel (slice c.attrs.body (64 + 64 * i) 64))

/-- The graph entries of a container. -/
def Container.graphList (c : Container) : List GraphEnt := tabulate c.graphs.count (parseGraph c.graphs.body)

/-- Whether `n` bytes at an offset lie in a body; an absent offset passes. -/
def inBody (b : List Byte) (off n : Nat) : Bool := off == noOff || decide (off + n ≤ b.length)

/-- Whether every offset of a container lies in its section body (R503). -/
def Container.offsetsOk (c : Container) : Bool :=
  decide (64 + 64 * c.attrs.count ≤ c.attrs.body.length) && decide (32 * c.graphs.count ≤ c.graphs.body.length) &&
  decide (32 * c.proxies.count ≤ c.proxies.body.length) &&
  c.kernels.all (fun k => decide (k.code + 8 * k.words ≤ c.code.body.length) && inBody c.plans.body k.plan 32 &&
    (k.plan == noOff || inBody c.plans.body k.plan (planBytes (slice c.plans.body k.plan 32))) &&
    inBody c.shapes.body k.shape 192 && inBody c.prefs.body k.prefetch (32 * k.pfCount)) &&
  (List.range c.graphs.count).all (fun i =>
    let f := fun o n => recField c.graphs.body (32 * i + o) n
    decide (f 8 4 + 16 * f 0 2 ≤ c.graphs.body.length) && decide (f 12 4 + 2 * f 2 2 ≤ c.graphs.body.length) &&
    inBody c.shapes.body (f 4 4) 192 && inBody c.prefs.body (f 16 4) (32 * f 20 4)) &&
  (List.range c.proxies.count).all (fun i =>
    decide (recField c.proxies.body (32 * i) 8 + recField c.proxies.body (32 * i + 16) 4 ≤ c.weights.body.length) &&
    decide (recField c.proxies.body (32 * i + 8) 8 ≤ c.weights.body.length))

/-- The shape table at an offset. -/
def Container.shapeAt (c : Container) (off : Nat) : Option ShapeTable :=
  if off = noOff then none else some (parseShape (slice c.shapes.body off 192))

/-- The shape tables that govern a kernel (R298): its own, or those of the graphs that use it. -/
def Container.governing (c : Container) (ki : Nat) (k : KernelEnt) : List (Option ShapeTable) :=
  if k.shape ≠ noOff then [c.shapeAt k.shape]
  else (c.graphList.filter (fun g => g.layers.any (fun l => l.1 == ki))).map (fun g => c.shapeAt g.shape)

/-- The prefetch entries of a list. -/
def Container.prefList (c : Container) (off n window : Nat) : List PfEnt :=
  if off = noOff then [] else tabulate n (fun i => parsePf (slice c.prefs.body (off + 32 * i) 32) window)

/-- The checks that answer SHAPE_OVER (R506). -/
def Container.shapesOk (c : Container) : Bool :=
  c.kernels.all KernelEnt.within &&
  (List.range c.kernels.length).all (fun i =>
    let k := parseKernel (slice c.attrs.body (64 + 64 * i) 64)
    (k.shape == noOff || shapeOk (slice c.shapes.body k.shape 192)) &&
    (k.plan == noOff || planOk (slice c.plans.body k.plan 128) (c.governing i k)) &&
    (c.prefList k.prefetch k.pfCount 0).all (fun e => e.ok kernelStages c.proxies.count)) &&
  c.graphList.all (fun g => g.ok c.kernels.length &&
    (g.shape == noOff || shapeOk (slice c.shapes.body g.shape 192)) &&
    (c.prefList g.prefetch g.pfCount 0).all (fun e => e.ok g.layers.length c.proxies.count))

/-- The checks that answer REJECTED_FORMAT (R192). -/
def Container.proxiesOk (c : Container) : Bool :=
  (List.range c.proxies.count).all (fun i =>
    proxyOk (recField c.proxies.body (32 * i + 20) 1 % 32) (fld (recField c.proxies.body (32 * i + 20) 1) 5 1))

/-- The container read and its framing checked (R502, R503, R506): none means CORRUPT_INPUT. -/
def parseContainer (b : List Byte) : Option Container :=
  let len := b.length
  if len < 64 ∨ recField b 0 4 ≠ 0x5A50524D ∨ recField b 4 2 ≠ 1 ∨ recField b 8 8 ≠ len ∨ slice b 16 32 ≠ sha3_256 (b.drop 64) then none
  else
    match parseSections b len (recField b 6 2) 64 with
    | none => none
    | some l =>
      let ks := l.map Section.kind
      if ¬ ks.contains 1 ∨ ¬ ks.contains 7 ∨ ks.eraseDups.length ≠ ks.length then none
      else
        let c : Container := ⟨sectionOf l 1, sectionOf l 2, sectionOf l 3, sectionOf l 4, sectionOf l 5, sectionOf l 6, sectionOf l 7, sectionOf l 8⟩
        if c.offsetsOk then some c else none

/-- The base of a program window (R505). -/
def programWindow (p : Nat) : Nat := 0x00F0000000000000 + p * 0x0000100000000000

/-- Pages of the program window: 64 KiB each (DESIGN CHOICE, log entry 12). -/
def windowLg : Nat := 16

/-- The runs of bytes a program window holds, with their offsets: the weights, then the proxies at 64 KiB (R505). -/
def Container.windowRuns (c : Container) : List (Nat × List Byte) :=
  let w := c.weights.body
  let start := alignUp w.length 65536
  let step := fun (acc : List (Nat × List Byte) × Nat) i =>
    let bs := slice w (recField c.proxies.body (32 * i) 8) (recField c.proxies.body (32 * i + 16) 4)
    (acc.1 ++ [(acc.2, bs)], alignUp (acc.2 + bs.length) 65536)
  (0, w) :: ((List.range c.proxies.count).foldl step ([], start)).1

/-- Pages a run needs. -/
def runPages (bs : List Byte) : Nat := ceilDiv bs.length 65536

/-- A leaf added in address order. -/
def insLeaf (l : Leaf) : List Leaf → List Leaf
  | [] => [l]
  | k :: r => if l.va < k.va then l :: k :: r else k :: insLeaf l r

/-- A run stored in pages drawn for it and mapped in a window (R505), or none where none could be drawn. -/
def storeRun (cls window : Nat) (run : Nat × List Byte) : Option (List Nat × State) → Option State
  | none => none
  | some (bs, s) =>
    let pages := bs.zip (List.range bs.length)
    let s := { s with mem := { s.mem with leaves := pages.foldl (fun ls p =>
      insLeaf { va := window + run.1 + 65536 * p.2, lg := windowLg, loc := 0, wr := false, pin := true, addr := p.1, drawn := some cls } ls) s.mem.leaves } }
    some (pages.foldl (fun s p => s.hbmWrite p.1 ((run.2.drop (65536 * p.2)).take 65536) false) s)

/-- A window run placed: pages drawn, mapped pinned and read-only, its bytes written (R505). -/
def State.placeRun (s : State) (cls window : Nat) (run : Nat × List Byte) : Option State :=
  storeRun cls window run (s.drawPages windowLg cls (runPages run.2))

/-- All runs of a window placed, or none. -/
def State.placeRuns (s : State) (cls window : Nat) : List (Nat × List Byte) → Option State
  | [] => some s
  | r :: rest => (s.placeRun cls window r).bind (fun s => State.placeRuns s cls window rest)

/-- Instruction words of a code section. -/
def codeWords (b : List Byte) : List Dword := tabulate (b.length / 8) (fun i => BitVec.ofNat 64 (recField b (8 * i) 8))

/-- The loaded form of a container at a window. -/
def Container.program (c : Container) (window bytes : Nat) : Program :=
  let f := recField c.attrs.body
  let offs := c.kernels.map (fun k => (k.prefetch, k.pfCount)) ++ c.graphList.map (fun g => (g.prefetch, g.pfCount))
  { code := codeWords c.code.body, slates := f 0 4, token := f 4 4, patch := f 8 2, grow := f 10 2
    kernels := c.kernels, graphs := c.graphList
    plans := c.kernels.foldl (fun t k => if k.plan = noOff then t else Tab.put t k.plan (parsePlan (slice c.plans.body k.plan 128))) []
    shapes := (c.kernels.map KernelEnt.shape ++ c.graphList.map GraphEnt.shape).foldl (fun t o =>
      if o = noOff then t else Tab.put t o (parseShape (slice c.shapes.body o 192))) []
    prefs := offs.foldl (fun t p => if p.1 = noOff then t else
      (List.range p.2).foldl (fun t i => Tab.put t (p.1 + 32 * i) (parsePf (slice c.prefs.body (p.1 + 32 * i) 32) window)) t) []
    proxies := ((List.range c.proxies.count).zip (c.windowRuns.drop 1)).map (fun p =>
      let g := fun o n => recField c.proxies.body (32 * p.1 + o) n
      { va := window + p.2.1, forOff := g 8 8, bytes := g 16 4, format := g 20 1 % 32, mxblk := fld (g 20 1) 5 1 })
    bytes := bytes }

/-- A program slot. -/
def State.prog (s : State) (i : Nat) : ProgSlot := Tab.at s.progs i {}

/-- A program identifier (R501). -/
def progId (i : Nat) (gen : Byte) : Nat := i + 256 * gen.toNat

/-- The program an identifier names: none when it is stale. -/
def State.progOf (s : State) (id : Nat) : Option Program :=
  let p := s.prog (id % 256)
  if id < 65536 ∧ id / 256 = p.gen.toNat then p.prog else none

/-- The lowest free program entry. -/
def State.freeProg (s : State) : Option Nat := (List.range 256).find? (fun i => (s.prog i).prog.isNone)

/-- A container's program entered in a slot once its windows stand, or the command ended with PAGE_EXHAUSTED (R501, R506). -/
def State.enterProgram (s : State) (seq : Word) (c : Container) (i : Nat) : Option State → State
  | none => s.finishBare seq .pageExhausted
  | some s1 =>
    let bytes := (c.windowRuns.map (fun r => runPages r.2 * 65536)).foldl (fun a b => a + b) 0
    let p := s.prog i
    let s2 := { s1 with progs := Tab.put s1.progs i { p with prog := some (c.program (programWindow i) bytes) } }
    s2.finish seq .ok (resultOf [(4, progId i p.gen), (8, bytes), (4, recField c.attrs.body 0 4)])

/-- A container checked and placed as one operation (R506). -/
def State.loadContainer (s : State) (seq : Word) (c : Container) (cls : Nat) : State :=
  if !c.shapesOk then s.finishBare seq .shapeOver
  else if !c.proxiesOk then s.finishBare seq .rejectedFormat
  else
    match s.freeProg with
    | none => s.finishBare seq .pageExhausted
    | some i => s.enterProgram seq c i (s.placeRuns cls (programWindow i) c.windowRuns)

/-- The pages of a program window unmapped and returned (R505, R507). -/
def State.releaseWindow (s : State) (i : Nat) : State :=
  let inWin := fun (l : Leaf) => decide (programWindow i ≤ l.va) && decide (l.va < programWindow (i + 1))
  let gone := s.mem.leaves.filter inWin
  let s := { s with mem := { s.mem with leaves := s.mem.leaves.filter (fun l => !inWin l) } }
  gone.foldl (fun s l => s.returnPage l.addr l.lg) s

end Sys2Proof.Machine
end

