-- ==== Sys2Proof/Machine/Order.lean ====
section
/-! DEFINITION. The order among commands that name one object (R20, R22, R27, R28, R101, R507, R508), and the lists a
command's parameter block names (R464, R98, R153). The objects are those the command names when its turn is looked at
(DEDUCED, log entry 13). -/

namespace Sys2Proof.Machine

/-- Whether a command is RUN_KERNEL or RUN_GRAPH. -/
def Cmd.isRun (c : Cmd) : Bool := c.opcode == 0x02 || c.opcode == 0x03

/-- Whether a command is ADVANCE_TAKES. -/
def Cmd.isAdvance (c : Cmd) : Bool := c.opcode == 0x11

/-- Whether a command is an UNLOAD (R500). -/
def Cmd.isUnload (c : Cmd) : Bool := c.opcode == 0x01 && (c.fieldN 40 1).testBit 0

/-- The program identifier a command names. -/
def Cmd.programRef (c : Cmd) : Nat := if c.isAdvance then c.fieldN 28 4 else if c.opcode = 0x01 then c.fieldN 44 4 else c.fieldN 24 4

/-- ENTRY of a kernel, graph or advance command. -/
def Cmd.entry (c : Cmd) : Nat := if c.isAdvance then c.fieldN 32 2 else c.fieldN 28 2

/-- PARAMS of a kernel, graph or advance command (R499). -/
def Cmd.params (c : Cmd) : Nat := if c.isAdvance then c.fieldN 40 8 else c.fieldN 32 8

/-- The graph a RUN_GRAPH names. -/
def State.graphOf (s : State) (c : Cmd) : Option GraphEnt :=
  if c.opcode = 0x03 then (s.progOf c.programRef).bind (fun p => p.graphs[c.entry]?) else none

/-- The kernels a command runs: its kernel, or its graph's layer by layer. -/
def State.kernelsOf (s : State) (c : Cmd) : List KernelEnt :=
  match s.progOf c.programRef with
  | none => []
  | some p =>
    if c.opcode = 0x03 then
      match p.graphs[c.entry]? with
      | none => []
      | some g => g.layers.filterMap (fun l => p.kernels[l.1]?)
    else (p.kernels[c.entry]?).toList

/-- An address the parameter block holds at an offset. -/
def State.paramAddr (s : State) (c : Cmd) (off : Nat) : Option Nat :=
  if off = noOff ∨ c.params = 0 then none else some (leNat (s.fetchVA {} (c.params + off) 8))

/-- The addresses of a kind of list that a command's kernels name, without repeats. -/
def State.listAddrs (s : State) (c : Cmd) (f : KernelEnt → Nat) : List Nat :=
  if c.isRun || c.isAdvance then ((s.kernelsOf c).filterMap (fun k => s.paramAddr c (f k))).eraseDups else []

/-- The sample lists of a command (R464). -/
def State.sampleLists (s : State) (c : Cmd) : List Nat := s.listAddrs c KernelEnt.pSample
/-- The batch lists of a command (R153). -/
def State.batchLists (s : State) (c : Cmd) : List Nat := s.listAddrs c KernelEnt.pBatch
/-- The chunk descriptors of a command (R98). -/
def State.chunkDescs (s : State) (c : Cmd) : List Nat := s.listAddrs c KernelEnt.pChunk

/-- Bytes of a list of fixed-size entries in memory, cut into entries. -/
def entriesOf (bs : List Byte) (size n : Nat) : List (List Byte) := tabulate n (fun i => slice bs (size * i) size)

/-- The 32-bit words of a list in memory. -/
def State.words32 (s : State) (a n : Nat) : List Nat :=
  let bs := s.fetchVA {} a (4 * n)
  tabulate n (fun i => recField bs (4 * i) 4)

/-- The entries of a sample list, 32 bytes each (R464). -/
def State.sampleEntries (s : State) (a : Nat) : List (List Byte) :=
  let n := leNat (s.fetchVA {} a 2)
  entriesOf (s.fetchVA {} (a + 32) (32 * n)) 32 n

/-- The objects of R20. -/
inductive Obj where
  | take (t : Nat)
  | set (n : Nat)
  | reel (i : Nat)
  | anyReel          -- a list of reels in a peer's memory, not read yet
  | stream (c : Nat) (close : Bool)
  | prog (p : Nat) (unload : Bool)
  | seq (i : Nat)
  deriving DecidableEq, Repr

/-- Whether a take is live. -/
def Take.live (t : Take) : Bool := t.state != .free

/-- The take indices of a set, ascending; the set 0xFFF holds none (R34). -/
def State.setTakes (s : State) (n : Nat) : List Nat :=
  if n = 0xFFF then [] else (s.takes.takes.filter (fun p => p.2.live && p.2.set.toNat == n)).map Prod.fst

/-- The reel entries that takes' lists name. -/
def State.reelsOfTakes (s : State) (l : List Nat) : List Obj :=
  (l.flatMap (fun t => (s.take t).reels.map (fun r => Obj.reel (r.toNat % 65536)))).eraseDups

/-- A take set named by a command, with the reels of its takes. -/
def State.setObjs (s : State) (n : Nat) : List Obj := if n = 0xFFF then [] else Obj.set n :: s.reelsOfTakes (s.setTakes n)

/-- A take named by a command, with the reels of its list. -/
def State.takeObjs (s : State) (t : Nat) : List Obj := Obj.take t :: s.reelsOfTakes [t]

/-- The streams a command's sample lists name: as the entries stand in memory, and as the lists under way were read, whose entries
a settled substitution has since rewritten (R28, R469). -/
def State.listStreams (s : State) (seq : Word) (c : Cmd) : List Nat :=
  (s.sampleLists c).flatMap (fun a => (s.sampleEntries a).map (fun e => recField e 0 2 % 512)) ++
  (s.video.runs.filter (fun r => r.seq == seq)).flatMap (fun r => r.reqs.map (fun q => q.stream % 512))

/-- The reels that a list of IDs in memory names; any reel while a peer that holds the list has not answered (R101). -/
def State.reelObjs (s : State) (seq : Word) (a n : Nat) : List Obj :=
  if s.peerReady (accOf seq) a (4 * n) then (s.words32 a n).map (fun w => Obj.reel (w % 65536)) else [.anyReel]

/-- The objects of a kernel, graph or advance command's lists: the reels of its chunks under way, and of the chunks its descriptors
name (R101). -/
def State.listObjs (s : State) (seq : Word) (c : Cmd) : List Obj :=
  (s.listStreams seq c).map (fun x => Obj.stream x false) ++
  (s.chunkDescs c).flatMap (fun a =>
    let d := s.fetchVA {} a 32
    s.reelObjs seq (recField d 8 8) (recField d 4 2)) ++
  (s.reels.chunks.filter (fun h => h.seq == seq)).flatMap (fun h => h.reels.map Obj.reel)

/-- The batch sequences a command holds. -/
def State.seqObjs (s : State) (seq : Word) : List Obj :=
  (s.kv.seqs.filter (fun p => p.2.state != .free && p.2.owner == seq)).map (fun p => .seq p.1)

/-- The objects a command names. -/
def State.objsOf (s : State) (seq : Word) (c : Cmd) : List Obj :=
  match c.opcode with
  | 0x01 => if c.isUnload then [.prog (c.programRef % 256) true] else []
  | 0x02 => .prog (c.programRef % 256) false :: s.listObjs seq c ++ s.seqObjs seq
  | 0x03 => .prog (c.programRef % 256) false :: s.listObjs seq c ++ s.seqObjs seq
  | 0x10 => s.takeObjs (c.fieldN 24 2) ++ s.setObjs (c.fieldN 30 2 % 4096)
  | 0x11 => .prog (c.programRef % 256) false :: s.setObjs (c.fieldN 24 2 % 4096) ++ s.listObjs seq c
  | 0x12 => s.setObjs (c.fieldN 24 2 % 4096)
  | 0x13 => s.takeObjs (c.fieldN 24 2)
  | 0x20 => [.reel (c.fieldN 24 2)]
  | 0x21 => if c.fieldN 24 4 = 0xFFFFFFFF then [] else [.reel (c.fieldN 24 2)]
  | 0x22 => if (c.fieldN 26 1).testBit 0 then [] else s.reelObjs seq (c.fieldN 40 8) (c.fieldN 24 2)
  | 0x31 => [.stream (c.fieldN 24 2 % 512) true]
  | 0x51 =>
    match c.fieldN 24 1 with
    | 1 => s.takeObjs (c.fieldN 28 2)
    | 2 => [.reel (c.fieldN 28 2)]
    | 3 => [.seq (c.fieldN 28 4 % 16384)]
    | _ => []
  | _ => []

/-- Whether two named objects order their commands: a take meets its own set; a stream or program only a CLOSE_STREAM
or an UNLOAD of it. -/
def State.meets (s : State) : Obj → Obj → Bool
  | .take a, .take b => a == b
  | .take a, .set n => (s.take a).live && (s.take a).set.toNat == n
  | .set n, .take a => (s.take a).live && (s.take a).set.toNat == n
  | .set a, .set b => a == b
  | .reel a, .reel b => a == b
  | .anyReel, .reel _ | .reel _, .anyReel | .anyReel, .anyReel => true
  | .stream a x, .stream b y => a == b && (x || y)
  | .prog a x, .prog b y => a == b && (x || y)
  | .seq a, .seq b => a == b
  | _, _ => false

/-- Whether an earlier command must end before a later one (R20). -/
def State.conflicts (s : State) (p q : Word) (a b : Cmd) : Bool :=
  (s.objsOf p a).any (fun x => (s.objsOf q b).any (fun y => s.meets x y))

/-- The unfinished commands that come before one and share an object with it. -/
def State.aheadOf (s : State) (seq : Word) (c : Cmd) : List Cmd :=
  (s.cmds.filter (fun (p : Nat × Cmd) =>
    p.2.phase != .recorded && seqBefore (BitVec.ofNat 32 p.1) seq &&
    s.conflicts (BitVec.ofNat 32 p.1) seq p.2 c)).map Prod.snd

/-- Whether a waiting command is ready and its completion record has somewhere to go (R21, R514); nothing is dispatched
after a fatal fault or a trip (R608, R633). -/
def State.mayDispatch (s : State) (c : Cmd) : Bool :=
  c.phase == .waiting && c.readyAt.isSome && !s.queueHolds c && !s.stopped

/-- The command of a sequence number when its turn has come: ready, and no earlier command on its objects unfinished. -/
def State.turn (s : State) (seq : Word) : Option Cmd :=
  match s.cmd? seq with
  | none => none
  | some c => if s.mayDispatch c && (s.aheadOf seq c).isEmpty then some c else none

/-- The command of a sequence number with an opcode, when its turn has come. -/
def State.turnOf (s : State) (seq : Word) (op : Nat) : Option Cmd :=
  match s.turn seq with
  | none => none
  | some c => if c.opcode = op then some c else none

/-- An own address of a record: where its range starts, its bytes, whether it is written, its alignment. -/
structure OwnAddr where
  va    : Nat
  bytes : Nat
  wr    : Bool
  align : Nat
  deriving DecidableEq, Repr

/-- Whether an own address fails the record check of R518: misaligned, or its first or last byte unmapped or, where it
is written, not writable. -/
def State.ownBad (s : State) (seq : Word) (o : OwnAddr) : Bool :=
  o.va % o.align != 0 || (o.bytes != 0 && (!s.mapped (accOf seq) o.va o.wr || !s.mapped (accOf seq) (o.va + o.bytes - 1) o.wr))

/-- The first own address that fails (DEDUCED: the start of its range, log entry 14). -/
def State.firstOwnBad (s : State) (seq : Word) (l : List OwnAddr) : Option Nat :=
  (l.find? (fun o => s.ownBad seq o)).map OwnAddr.va

/-- A record refused for its own addresses (R518 row 13). -/
def State.refuseOwn (s : State) (seq : Word) (va : Nat) : State :=
  (s.violation 13 ((s.cmd? seq).map Cmd.slot |>.getD 0) va).finish seq .deviceFault (resultOf [(8, va)])

/-- A command ended with nothing left to do: a kernel, graph or advance command with what it did (R662). -/
def State.endCmd (s : State) (seq : Word) (st : Status) : State :=
  match s.cmd? seq with
  | none => s
  | some c => if c.hasExt then s.finishRun seq st else s.finishBare seq st

/-- A command whose address met at use does not translate (R373, R662); the unit of the I/O die that met it. -/
def State.useFault (s : State) (seq : Word) (unit va : Nat) : State :=
  (s.report 0x20 (subjIo unit) (subjIo unit) seq va).endCmd seq .deviceFault

/-- A command whose unit consumed a poisoned burst (R405, R620). -/
def State.poisonFault (s : State) (seq : Word) (pa : Nat) : State :=
  let ch := (hbmChannel s.hbm.out pa).1
  (s.report 0x15 (subjChan ch) (subjChan ch) seq pa).endCmd seq .deviceFault

/-- The leaves of a range marked as the last translated (R376). -/
def State.noteUse (s : State) (va n : Nat) : State :=
  if va < 2 ^ 56 then
    { s with mem := { s.mem with
        tick := s.mem.tick + 1
        leaves := s.mem.leaves.map (fun l => if l.va < va + n ∧ va < l.va + 2 ^ l.lg then { l with used := s.mem.tick + 1 } else l) } }
  else s

/-- The HBM bursts of a range counted as read (R414, R415), its translations noted. -/
def State.touchVA (s : State) (a : Acc) (va n : Nat) : State :=
  ((s.spans a false (n + 1) va n).foldl (fun s p => match p.1 with | .hbm pa => s.hbmTouched pa p.2.2 | _ => s) s).noteUse va n

/-- A range read for a command, which ends when it does not translate or is poisoned; while bytes of a peer are missing, only
the requests for them leave the device (R539). -/
def State.readFor (s : State) (a : Acc) (seq : Word) (unit va n : Nat) (k : List Byte → State → State) : State :=
  if !s.peerReady a va n then s.askPeers a va n
  else
  match s.readVA a va n with
  | .ok bs => k bs ((s.touchVA a va n).usePeers a va n)
  | .unmapped v => s.useFault seq unit v
  | .poisoned pa _ => (s.touchVA a va n).poisonFault seq pa

/-- A range stored for a command, which ends when it does not translate for writing. -/
def State.writeFor (s : State) (a : Acc) (seq : Word) (unit va : Nat) (bs : List Byte) (k : State → State) : State :=
  match s.writeVA a va bs false with
  | some s' => k (s'.noteUse va bs.length)
  | none => s.useFault seq unit ((s.firstBad a va bs.length true).getD va)

/-- The core that holds a rank of a cluster (R326), if one in service does. -/
def State.rankCore (s : State) (n r : Nat) : Option Nat :=
  if !s.isFenced (17 * n + r) then some (17 * n + r)
  else if Tab.find s.flt.standby n = some r ∧ ¬ s.isFenced (17 * n + 16) then some (17 * n + 16)
  else none

/-- The rank a physical core holds in its cluster. -/
def State.rankOf (s : State) (w : Nat) : Nat := if w % 17 = 16 then Tab.at s.flt.standby (clusterOf w) 16 else w % 17

end Sys2Proof.Machine
end

