-- ==== Sys2Proof/Machine/HostCmds.lean ====
section
/-! DEFINITION. LOAD_PROGRAM and UNLOAD (R500 to R507) and QUERY (R508, R509). -/

namespace Sys2Proof.Machine

/-- LOAD_PROGRAM's container read, checked and placed as one operation (R506). -/
def State.loadProgram (s : State) (seq : Word) (c : Cmd) : State :=
  let src := c.fieldN 24 8
  let len := c.fieldN 32 8
  if len = 0 then s.finishBare seq .zeroExtent
  else
    match s.firstOwnBad seq [⟨src, len, false, 64⟩] with
    | some va => s.refuseOwn seq va
    | none => s.readFor (accOf seq) seq 4 src len (fun bs s =>
        match parseContainer bs with
        | none => s.finishBare seq .corruptInput
        | some k => s.loadContainer seq k c.cls)

/-- LOAD_PROGRAM (R500, R506). -/
def execLoadProgram (seq : Word) (s : State) : Host.Outcome State Fault Refusal :=
  match s.turnOf seq 0x01 with
  | none => .next s
  | some c => if c.isUnload then .next s else .next (s.loadProgram seq c)

/-- A program released (R501, R507). -/
def State.unload (s : State) (seq : Word) (c : Cmd) : State :=
  let i := c.programRef % 256
  match s.progOf c.programRef with
  | none => s.finishBare seq .zeroExtent
  | some p =>
    let s := s.releaseWindow i
    let s := { s with progs := Tab.put s.progs i { gen := (s.prog i).gen + 1, prog := none } }
    s.finish seq .ok (resultOf [(4, c.programRef), (8, p.bytes)])

/-- UNLOAD (R507): after every earlier command that names the program has completed. -/
def execUnload (seq : Word) (s : State) : Host.Outcome State Fault Refusal :=
  match s.turnOf seq 0x01 with
  | none => .next s
  | some c => if c.isUnload then .next (s.unload seq c) else .next s

/-- The device report (R509). -/
def State.deviceReport (s : State) : List Byte :=
  let per := fun f => (List.range 32).flatMap (fun n => leBytes 1 (f n))
  per (fun n => ((List.range 16).filter (fun r => (s.rankCore n r).isSome)).length) ++
  per (fun n => b2n (!s.isFenced (17 * n + 16) && !Tab.has s.flt.standby n)) ++
  per (fun n => ((List.range 17).filter (fun k => s.isFenced (17 * n + k))).length) ++
  leBytes 1 s.hbm.out.length ++ leBytes 3 0 ++ leBytes 4 s.mem.regs.cap.toNat ++ leBytes 4 (s.freeBytes / 1048576) ++
  leBytes 2 s.host.gen.toNat ++ List.replicate 18 0

/-- The STATE code of a take (R35). -/
def TakeState.code : TakeState → Nat
  | .free => 0 | .idle => 1 | .advancing => 2 | .preempted => 3 | .releasing => 4

/-- A take's entry (R35). LIST shows where the list lies in HBM, since no window of R362 maps the list store (DESIGN CHOICE, log entry
132). -/
def Take.report (t : Take) : List Byte :=
  leBytes 1 (t.state.code + 8 * t.cls + 16 * b2n t.root) ++ leBytes 1 t.gen.toNat ++ leBytes 2 t.set.toNat ++
  leBytes 4 t.parent.toNat ++ leBytes 4 t.forkStep.toNat ++ leBytes 4 t.steps.toNat ++ leBytes 4 t.score.toNat ++
  leBytes 3 t.pages.length ++ leBytes 1 t.reels.length ++ leBytes 8 (t.listAt % 2 ^ 57) ++ slice t.seed 0 16 ++
  leBytes 3 t.reserve.length ++ leBytes 1 t.rsvSize.toNat ++ leBytes 4 t.born.toNat ++ List.replicate 8 0

/-- The STATE code of a reel (R92). -/
def ReelState.code : ReelState → Nat
  | .free => 0 | .stored => 1 | .resident => 2 | .pinned => 3 | .swapIn => 4 | .swapOut => 5 | .saved => 6 | .lost => 7

/-- PLACE (R92). -/
def ReelPlace.word (p : ReelPlace) : Nat :=
  dieOf p.core + 4 * (clusterOf p.core % 8) + 32 * (p.core % 17) + 1024 * p.bank + 2048 * b2n p.shelf + 4096 * p.slot + 32768 * p.row

/-- PLACE of a reel: all ones unless it occupies a row with its values (R92, R94). -/
def Reel.placeWord (r : Reel) : Nat :=
  match r.place with
  | some p => if r.state = .resident ∨ r.state = .pinned ∨ r.state = .swapOut then p.word else 0xFFFFFFFF
  | none => 0xFFFFFFFF

/-- A reel's entry (R92). -/
def Reel.report (r : Reel) : List Byte :=
  leBytes 1 r.state.code ++ leBytes 1 r.gen.toNat ++ leBytes 1 r.format.toNat ++ leBytes 1 r.wlog.toNat ++ leBytes 4 r.elements ++
  leBytes 8 r.steps.toNat ++ leBytes 4 r.folds.toNat ++ leBytes 4 r.drift.toNat ++ leBytes 4 r.limit.toNat ++ leBytes 4 r.mObs.toNat ++
  leBytes 4 r.count.toNat ++ leBytes 4 r.placeWord ++
  leBytes 8 (r.store % 2 ^ 57) ++ leBytes 4 r.last.toNat ++ List.replicate 12 0

/-- The STATE code of a batch sequence (R136). -/
def SeqState.code : SeqState → Nat
  | .free => 0 | .active => 1 | .preempted => 2 | .releasing => 3

/-- A batch sequence's entry (R136). -/
def SeqEnt.report (q : SeqEnt) : List Byte :=
  leBytes 1 (q.state.code + 4 * q.cls) ++ leBytes 1 q.gen.toNat ++ leBytes 1 q.plog.toNat ++ leBytes 1 0 ++ leBytes 4 q.length ++
  leBytes 4 q.tpp ++ leBytes 4 q.pages.length ++ leBytes 4 ((q.pages.filter PageEnt.swapped).length) ++ leBytes 4 q.born.toNat ++
  leBytes 8 (q.listAt % 2 ^ 57)

/-- The live take a reference names (R32). -/
def State.takeOf (s : State) (ref : Nat) : Option Nat :=
  let t := s.take (ref % 65536)
  if t.live && t.gen.toNat == fld ref 16 8 then some (ref % 65536) else none

/-- A take's present reference. -/
def State.takeRef (s : State) (t : Nat) : Nat := t + 65536 * (s.take t).gen.toNat

/-- The live reel an ID names (R90). -/
def State.reelOf (s : State) (id : Nat) : Option Nat :=
  let r := s.reel (id % 65536)
  if r.state != .free && r.gen.toNat == fld id 16 8 then some (id % 65536) else none

/-- A batch sequence. -/
def State.seqEnt (s : State) (i : Nat) : SeqEnt := Tab.at s.kv.seqs i {}

/-- The live batch sequence an ID names (R134). -/
def State.seqOf (s : State) (id : Nat) : Option Nat :=
  let q := s.seqEnt (id % 16384)
  if id.testBit 31 && fld id 14 2 == 0 && q.state != .free && q.gen.toNat == fld id 16 8 then some (id % 16384) else none

/-- A QUERY answered with a report (R508): none where its ID is stale. -/
def State.query (s : State) (seq : Word) (c : Cmd) (bytes : Nat) (report : Option (List Byte)) : State :=
  let dest := c.fieldN 32 8
  match s.firstOwnBad seq [⟨dest, bytes, true, 64⟩], report with
  | _, none => s.finishBare seq .zeroExtent
  | some va, some _ => s.refuseOwn seq va
  | none, some r =>
    if c.fieldN 40 4 < bytes then s.finishBare seq .shapeOver
    else s.writeFor (accOf seq) seq 0 dest r (fun s => s.finishWritten seq .ok (resultOf [(4, bytes)]))

/-- A QUERY of one kind whose turn has come. -/
def State.queryTurn (s : State) (seq : Word) (kind bytes : Nat) (f : Nat → Option (List Byte)) : State :=
  match s.turnOf seq 0x51 with
  | none => s
  | some c => if c.fieldN 24 1 = kind then s.query seq c bytes (f (c.fieldN 28 4)) else s

/-- QUERY_DEVICE (R6, R508, R509). -/
def execQueryDevice (seq : Word) (s : State) : Host.Outcome State Fault Refusal :=
  .next (s.queryTurn seq 0 128 (fun _ => some s.deviceReport))

/-- QUERY_TAKE (R35, R508). -/
def execQueryTake (seq : Word) (s : State) : Host.Outcome State Fault Refusal :=
  .next (s.queryTurn seq 1 64 (fun id => (s.takeOf id).map (fun t => (s.take t).report)))

/-- QUERY_REEL (R92, R508). -/
def execQueryReel (seq : Word) (s : State) : Host.Outcome State Fault Refusal :=
  .next (s.queryTurn seq 2 64 (fun id => (s.reelOf id).map (fun i => (s.reel i).report)))

/-- QUERY_SEQUENCE (R136, R508). -/
def execQuerySequence (seq : Word) (s : State) : Host.Outcome State Fault Refusal :=
  .next (s.queryTurn seq 3 32 (fun id => (s.seqOf id).map (fun i => (s.seqEnt i).report)))

end Sys2Proof.Machine
end

