-- ==== Sys2Proof/Machine/Takes.lean ====
section
/-! DEFINITION. The take manager (02_takes_and_the_cut): FORK_TAKE, CUT_TAKES, PRUNE_TAKE, root registration, count
updates and page copies; and the references takes hold on reels (R91, R129). -/

namespace Sys2Proof.Machine

/-- Bases of the stores in HBM: table, list, reel, rushes, picture, one after another from address 0
(DESIGN CHOICE, log entry 15). -/
def State.listBase (s : State) : Nat := s.sheet 16 4 * 1048576
/-- Base of the reel store. -/
def State.reelBase (s : State) : Nat := s.listBase + s.sheet 20 4 * 1048576
/-- Base of the rushes cache. -/
def State.rushBase (s : State) : Nat := s.reelBase + s.sheet 24 4 * 1048576
/-- Base of the picture-store reserve. -/
def State.picBase (s : State) : Nat := s.rushBase + s.sheet 28 4 * 1048576
/-- End of the stores. -/
def State.storeEnd (s : State) : Nat := s.picBase + s.sheet 148 4 * 1048576

/-- Bytes of a take's list (R36). -/
def Take.listBytes (t : Take) : Nat := 8 * t.reels.length + 16 * t.pages.length

/-- Bytes in use in the list store: takes' lists and batch sequences' page lists. -/
def State.listUsed (s : State) : Nat :=
  s.takes.takes.foldl (fun a p => a + p.2.listBytes) 0 + s.kv.seqs.foldl (fun a p => a + 16 * p.2.pages.length) 0

/-- The first place for some bytes between extents in address order. -/
def fitAt (n lim : Nat) : Nat → List (Nat × Nat) → Option Nat
  | cur, [] => if cur + n ≤ lim then some cur else none
  | cur, (b, k) :: rest => if cur + n ≤ b then some cur else fitAt n lim (max cur (b + k)) rest

/-- Extents of the lists in the list store. -/
def State.listExtents (s : State) : List (Nat × Nat) :=
  let l : List (Nat × Nat) := s.takes.takes.map (fun (p : Nat × Take) => (p.2.listAt, p.2.listBytes)) ++
    s.kv.seqs.map (fun (p : Nat × SeqEnt) => (p.2.listAt, 16 * p.2.pages.length))
  l.foldl (fun l e => if e.2 = 0 then l else insExtent e l) []

/-- Where a list of some bytes goes in the list store; the address of its base is shown when no gap fits (DESIGN CHOICE, log entry 111):
the list itself stands in the take. -/
def State.listPlace (s : State) (n : Nat) : Nat := (fitAt n s.reelBase s.listBase s.listExtents).getD s.listBase

/-- The state with a take's list grown or cut: its list finds a place anew when its size changes. -/
def State.setPages (s : State) (t : Nat) (ps : List PageEnt) : State :=
  let v := s.take t
  if ps.length = v.pages.length then s.setTake t { v with pages := ps }
  else
    let s := s.setTake t { v with pages := [], reels := [] }
    s.setTake t { v with pages := ps, listAt := s.listPlace (8 * v.reels.length + 16 * ps.length) }

/-- The first index from a number on that meets a test. -/
def firstFrom (p : Nat → Bool) : Nat → Nat → Option Nat
  | 0, _ => none
  | n + 1, i => if p i then some i else firstFrom p n (i + 1)

/-- The lowest free take entry. -/
def State.freeTake (s : State) : Option Nat := firstFrom (fun t => !(s.take t).live) 65536 0

/-- Live takes. -/
def State.liveTakes (s : State) : Nat := (s.takes.takes.filter (fun p => p.2.live)).length

/-! ### References on reels -/

/-- The reel IDs of a take's list that name live reels. -/
def State.takeReels (s : State) (t : Take) : List Nat := t.reels.filterMap (fun id => s.reelOf id.toNat)

/-! ### Forks -/

/-- The seed of a child (R70). -/
def childSeed (p : Take) (i salt : Nat) : List Byte :=
  slice (sha3_256 (slice p.seed 0 16 ++ leBytes 4 p.steps.toNat ++ leBytes 2 i ++ leBytes 8 salt ++ [0x54#8, 0x4B#8])) 0 16

/-- A child of a fork (R50, R55, R70, R139). -/
def forkChild (p : Take) (pref : Nat) (c : Cmd) (seq : Word) (gen : Byte) (i : Nat) (rsv : List Nat) : Take :=
  let f := c.fieldN 35 1
  { state := .idle
    cls := if f.testBit 2 then fld f 3 1 else p.cls
    gen := gen, set := BitVec.ofNat 12 (c.fieldN 30 2)
    parent := BitVec.ofNat 32 pref, forkStep := p.steps, steps := p.steps
    score := if f.testBit 1 then 0#32 else p.score
    pages := p.pages, reels := p.reels, seed := childSeed p i (c.fieldN 36 8)
    reserve := rsv, rsvSize := BitVec.ofNat 5 (c.fieldN 34 1), born := seq, kvLg := p.kvLg, tokens := p.tokens, window := p.window }

/-- The class a fork's children take. -/
def forkClass (p : Take) (c : Cmd) : Nat := let f := c.fieldN 35 1; if f.testBit 2 then fld f 3 1 else p.cls

/-- Children placed in the lowest free entries, in order (R55); their indices. -/
def State.placeChildren (s : State) (p : Take) (pref : Nat) (c : Cmd) (seq : Word) : Nat → Nat → List Nat → List Nat × State
  | 0, _, _ => ([], s)
  | n + 1, i, rsv =>
    match s.freeTake with
    | none => ([], s)
    | some t =>
      let k := c.fieldN 32 2
      let ch := forkChild p pref c seq (s.take t).gen i (rsv.take k)
      let s := s.setTake t { ch with listAt := s.listPlace ch.listBytes }
      let r := State.placeChildren s p pref c seq n (i + 1) (rsv.drop k)
      (t :: r.1, r.2)

/-- Unused reserve pages returned to the pool. -/
def State.returnReserve (s : State) (t : Take) : State := t.reserve.foldl (fun s b => s.returnPage b (t.rsvSize.toNat + 12)) s

/-- A take's entry freed, counts untouched. -/
def State.freeEntry (s : State) (t : Nat) : State := s.setTake t { gen := (s.take t).gen + 1 }

/-- A list of results written where a command asks for it, before the command goes on: an address within it that does not take the
write ends the command (R66, R373). -/
def State.ownList (s : State) (seq : Word) (va : Nat) (bs : List Byte) (k : State → State) : State :=
  if va = 0 ∨ bs = [] then k s else s.writeFor (accOf seq) seq 0x26 va bs k

/-- A fork as one take manager operation (R50 to R57), its parent live; a retired parent's unused reserve goes back to the pool
(DESIGN CHOICE, log entry 110). -/
def State.forkTake (s : State) (seq : Word) (c : Cmd) (t : Nat) : State :=
  let n := c.fieldN 28 2
  let p := s.take t
  let list := c.fieldN 44 8
  let fail := fun (r : Nat) => s.finish seq .pageExhausted (resultOf [(6, 0), (1, r)])
  if 65536 < s.liveTakes + n then fail 1
  else if s.sheet 20 4 * 1048576 < s.listUsed + n * p.listBytes then fail 2
  else
    match s.drawPages (c.fieldN 34 1 % 32 + 12) (forkClass p c) (n * c.fieldN 32 2) with
    | none => fail 3
    | some (rsv, s) =>
      match s.placeChildren p (s.takeRef t) c seq n 0 rsv with
      | (kids, s) =>
        let retire := (c.fieldN 35 1).testBit 0
        let raise := if retire then n - 1 else n
        let s := p.pages.foldl (fun s e => s.raiseCount e.key raise) s
        let s := (s.takeReels p).foldl (fun s i => s.setReel i { s.reel i with count := (s.reel i).count + BitVec.ofNat 32 raise }) s
        let s := if retire then (s.returnReserve p).freeEntry t else s
        (s.bump .io 0x041 n).ownList seq list (kids.flatMap (fun k => leBytes 4 (s.takeRef k))) (fun s =>
          s.finishWritten seq .ok (resultOf [(2, kids.headD 0), (2, kids.getLastD 0), (2, n), (2, 0), (4, p.pages.length)]))

/-- FORK_TAKE (R50 to R57). -/
def execForkTake (seq : Word) (s : State) : Host.Outcome State Fault Refusal :=
  match s.turnOf seq 0x10 with
  | none => .next s
  | some c =>
    match s.takeOf (c.fieldN 24 4) with
    | none => .next (s.finishBare seq .zeroExtent)
    | some t =>
      let n := c.fieldN 28 2
      let list := c.fieldN 44 8
      if n = 0 then .next (s.finishBare seq .zeroExtent)
      else
        match s.firstOwnBad seq (if list = 0 then [] else [⟨list, 4 * n, true, 1⟩]) with
        | some va => .next (s.refuseOwn seq va)
        | none => .next (s.forkTake seq c t)

/-! ### Cuts and prunes -/

/-- A score as an integer in score order; none for a NaN. Both zeros are 0 (R63). -/
def scoreKey (w : Word) : Option Int :=
  if isNanF32 w then none else let m := ((w.toNat % 2 ^ 31 : Nat) : Int); if w.msb then some (-m) else some m

/-- Whether a score ranks before another strictly; `low`: lowest first (R63). -/
def ranksBefore (low : Bool) (a b : Word) : Bool :=
  match scoreKey a, scoreKey b with
  | some x, some y => if low then decide (x < y) else decide (y < x)
  | some _, none => true
  | none, _ => false

/-- A take put into a ranking, after those that rank before it or equal it. -/
def rankIns (score : Nat → Word) (low : Bool) (t : Nat) : List Nat → List Nat
  | [] => [t]
  | u :: r => if ranksBefore low (score t) (score u) then t :: u :: r else u :: rankIns score low t r

/-- Takes in rank order, equal scores by the lower index first. -/
def ranking (score : Nat → Word) (low : Bool) (l : List Nat) : List Nat := l.foldl (fun a t => rankIns score low t a) []

/-- A take released: its reserve returned, its reel references dropped, its entry freed, its count updates queued for
their owner (R65). -/
def State.releaseTake (s : State) (owner : Option Word) (t : Nat) : State :=
  let v := s.take t
  let s := s.returnReserve v
  let s := (s.takeReels v).foldl (fun s i => s.dropReel i) s
  let s := s.freeEntry t
  { s with takes := { s.takes with
      updQ := s.takes.updQ ++ v.pages.map (fun e => { page := e.key, lg := e.lg, raise := 0, lower := 1, owner := owner }) } }

/-- A cut or prune ended when none of its count updates is left (R26). -/
def State.closeCut (s : State) (r : CutRun) : State :=
  let s := { s with takes := { s.takes with cuts := s.takes.cuts.filter (fun k => k.seq != r.seq) } }
  s.finishWritten r.seq .ok (slice r.result 0 r.at_ ++ leBytes 4 r.freed ++ (slice r.result 0 22).drop (r.at_ + 4))

/-- A cut or prune started: it ends at once when it makes no update. -/
def State.openCut (s : State) (r : CutRun) : State :=
  if r.left = 0 then s.closeCut r
  else
    let s := { s with takes := { s.takes with cuts := s.takes.cuts ++ [r] } }
    s.updCmd r.seq (fun c => { c with phase := .running })

/-- Index and BF16 score of each of the first four kept takes (R69). -/
def cutPairs (s : State) (kept : List Nat) : List Byte :=
  (List.range 4).flatMap (fun i =>
    match kept[i]? with
    | some t => leBytes 2 t ++ leBytes 2 (NumFmt.convert .bf16 .rne (f32 (s.take t).score)).bits
    | none => leBytes 2 0xFFFF ++ leBytes 2 0)

/-- CUT_TAKES on a set's live takes (R63 to R66). -/
def State.cutTakes (s : State) (seq : Word) (c : Cmd) (m : List Nat) : State :=
  let rank := ranking (fun t => (s.take t).score) ((c.fieldN 28 1).testBit 0) m
  let kept := rank.take (c.fieldN 26 2)
  let gone := m.filter (fun t => !kept.contains t)
  let list := c.fieldN 32 8
  let entries := kept.flatMap (fun t => leBytes 4 (s.takeRef t) ++ leBytes 4 (s.take t).score.toNat)
  match s.firstOwnBad seq (if list = 0 ∨ kept = [] then [] else [⟨list, entries.length, true, 1⟩]) with
  | some va => s.refuseOwn seq va
  | none =>
    let upd := (gone.map (fun t => (s.take t).pages.length)).foldl (fun a b => a + b) 0
    let rsv := (gone.map (fun t => (s.take t).reserve.length)).foldl (fun a b => a + b) 0
    let res := leBytes 2 kept.length ++ leBytes 4 0 ++ cutPairs s kept
    let s := (gone.foldl (fun s t => s.releaseTake (some seq) t) s).bump .io 0x042 gone.length
    s.ownList seq list entries (fun s => s.openCut { seq := seq, left := upd, freed := rsv, result := res, at_ := 2 })

/-- CUT_TAKES (R62 to R67). -/
def execCutTakes (seq : Word) (s : State) : Host.Outcome State Fault Refusal :=
  match s.turnOf seq 0x12 with
  | none => .next s
  | some c =>
    if c.phase = .running then .next s
    else
      match s.setTakes (c.fieldN 24 2 % 4096) with
      | [] => .next (s.finishBare seq .zeroExtent)
      | m => .next (s.cutTakes seq c m)

/-- Whether a running advance steps a take. -/
def State.advanceOf (s : State) (t : Nat) : Option Word :=
  (s.cmds.find? (fun (p : Nat × Cmd) => p.2.phase == .running && p.2.isAdvance && p.2.takes.contains t)).map (fun p => BitVec.ofNat 32 p.1)

/-- A prune: the take released, its command ended with its last update (R68, R69). -/
def State.pruneTake (s : State) (seq : Word) (t : Nat) (held : Bool) : State :=
  let v := s.take t
  ((s.releaseTake (some seq) t).bump .io 0x042 1).openCut
    { seq := seq, left := v.pages.length, freed := v.reserve.length, result := leBytes 4 0 ++ leBytes 1 (b2n held), at_ := 0 }

/-- Whether an earlier unfinished command that is not a running advance shares an object with a prune (R22, R27). -/
def State.pruneBlocked (s : State) (seq : Word) (c : Cmd) : Bool :=
  (s.aheadOf seq c).any (fun a => !(a.isAdvance && a.phase == .running))

/-- PRUNE_TAKE (R27, R68): a take being advanced is released at the advance's next step boundary, or once the advance
has ended without one. -/
def execPruneTake (seq : Word) (s : State) : Host.Outcome State Fault Refusal :=
  match s.cmd? seq, s.takes.prunes.find? (fun p => p.seq == seq) with
  | none, _ => .next s
  | some _, some p =>
    match s.advanceOf p.take with
    | some _ => .next s
    | none => .next ({ s with takes := { s.takes with prunes := s.takes.prunes.filter (fun q => q.seq != seq) } }.pruneTake seq p.take true)
  | some c, none =>
    if c.opcode ≠ 0x13 ∨ ¬ s.mayDispatch c ∨ s.pruneBlocked seq c then .next s
    else
      match s.takeOf (c.fieldN 24 4) with
      | none => if (s.aheadOf seq c).isEmpty then .next (s.finishBare seq .zeroExtent) else .next s
      | some t =>
        match s.advanceOf t with
        | none => .next (s.pruneTake seq t false)
        | some _ =>
          let s := { s with takes := { s.takes with prunes := s.takes.prunes ++ [(⟨seq, t⟩ : HeldPrune)] } }
          .next (s.updCmd seq (fun c => { c with phase := .running }))

/-- The first update queued for a count unit (R38, R39), and the queue without it. -/
def nextUpdate (u : Nat) (q : List CountUpd) : Option (CountUpd × List CountUpd) :=
  pullFirst (fun p => (p.page % 2 ^ 60 / 2 ^ p.lg) % 8 == u) q

/-- A page count update applied (R38 to R40), its command ended with the last of its own (R26); a page given back in the host swap region
is none returned to the free pool (R69). -/
def State.countUpdate (s : State) (u : Nat) : State :=
  match nextUpdate u s.takes.updQ with
  | none => s
  | some (p, q) =>
    let s := { s with takes := { s.takes with updQ := q } }
    let s := s.raiseCount p.page p.raise
    match s.lowerCount p.page p.lg p.lower with
    | (s, freed) =>
      match p.owner with
      | none => s
      | some seq =>
        match s.takes.cuts.find? (fun r => r.seq == seq) with
        | none => s
        | some r =>
          let r := { r with left := r.left - 1, freed := r.freed + b2n (freed && decide (p.page < 2 ^ 60)) }
          let s := { s with takes := { s.takes with cuts := s.takes.cuts.map (fun k => if k.seq == seq then r else k) } }
          if r.left = 0 then s.closeCut r else s

/-- COUNT_UPDATE (R38 to R40): the oldest update of a count unit. -/
def execCountUpdate (unit : Fin 8) (s : State) : Host.Outcome State Fault Refusal := .next (s.countUpdate unit.val)

/-! ### Roots -/

/-- The automatic KV page size, log2 (R139); none where not even one token fits. -/
def autoKvLg (tok div expect tokens : Nat) : Option Nat :=
  let e := max (max expect tokens) 1
  let want := tok * ceilDiv e (if div = 0 then 16 else div)
  let lg := ((List.range 7).map (fun i => i + 14)).find? (fun k => decide (want ≤ 2 ^ k)) |>.getD 21
  if 2 ^ lg < tok then none else some lg

/-- A root's page as its layer names it. -/
def rootEnt (p : RootPage) : PageEnt := { offset := p.offset.toNat, lg := p.size.toNat + 12, page := p.page.toNat, kv := p.kv }

/-- The token size of a command's program. -/
def State.tokenOf (s : State) (c : Cmd) : Nat := ((s.progOf c.programRef).map Program.token).getD 0

/-- The highest page end of a list, where the next KV page may begin. -/
def pagesEnd (ps : List PageEnt) : Nat := ps.foldl (fun a e => max a (e.offset + 2 ^ e.lg)) 0

/-- A root take registered (R31, R137, R139): each named page's count is set to 1, also that of a page named twice or on another list
(DESIGN CHOICE, log entry 112). -/
def State.registerRoot (s : State) (seq : Word) (c : Cmd) (set : BitVec 12) (cls : Bool) (seed : BitVec 128)
    (pages : List RootPage) (tokens : Word) (reels : List Word) : State :=
  let tok := s.tokenOf c
  let kv := (pages.find? RootPage.kv).map (fun p => p.size.toNat + 12)
  let lg := match kv with
    | some k => if 2 ^ k < tok then none else some k
    | none => autoKvLg tok (s.sheet 53 1) tokens.toNat tokens.toNat
  match lg, s.freeTake with
  | none, _ => s.endCmd seq .shapeOver
  | _, none => s.endCmd seq .pageExhausted
  | some lg, some t =>
    let ps := pages.map rootEnt
    let v : Take :=
      { state := .idle, cls := b2n cls, root := true, gen := (s.take t).gen, set := set, parent := 0xFFFFFFFF#32
        pages := ps, reels := reels, seed := leBytes 16 seed.toNat, born := seq, kvLg := lg, tokens := tokens.toNat, window := pagesEnd ps }
    let s := s.setTake t { v with listAt := s.listPlace v.listBytes }
    let s := ps.foldl (fun s e => { s with takes := { s.takes with counts := Tab.put s.takes.counts e.key 1 } }) s
    let s := (s.takeReels v).foldl (fun s i => s.setReel i { s.reel i with count := (s.reel i).count + 1 }) s
    s.updCmd seq (fun c => { c with areas := { c.areas with lastRoot := BitVec.ofNat 32 (s.takeRef t), roots := c.areas.roots + 1 } })

/-- ROOT_TAKE_REGISTER (R31): by a layer of a running RUN_KERNEL or RUN_GRAPH. -/
def execRootTakeRegister (seq : Word) (set : BitVec 12) (cls : Bool) (seed : BitVec 128) (pages : List RootPage)
    (tokens : Word) (reels : List Word) (s : State) : Host.Outcome State Fault Refusal :=
  match s.cmd? seq with
  | none => .next s
  | some c => if c.isRun && c.phase == .running then .next (s.registerRoot seq c set cls seed pages tokens reels) else .next s

/-! ### Page copies -/

/-- A page entry replaced in a take's list. -/
def State.movePage (s : State) (t key : Nat) (e : PageEnt) : State :=
  let v := s.take t
  s.setTake t { v with pages := v.pages.map (fun p => if p.key == key then { p with page := e.page, swapped := e.swapped } else p) }

/-- Stores held for a page, released against it in order. -/
def State.releaseHeld (s : State) (pa : Nat) (held : List (Nat × List Byte)) : State :=
  held.foldl (fun s h => s.hbmWrite (pa + h.1) h.2 false) s

/-- 256-byte blocks of a page that lie in stacks of a die. -/
def dieBlocks (out : List Nat) (pa lg d : Nat) : Nat :=
  if 16 ≤ lg ∧ out = [] then 2 ^ lg / 1024
  else ((List.range (2 ^ lg / 256)).filter (fun i => dieOfChan (hbmChannel out (pa + 256 * i)).1 == d)).length

/-- The token copy ahead of requests of the I/O die to the dies whose HBM a page lies in (R590). -/
def State.carryDies (s : State) (pa lg : Nat) : State :=
  match s.perf.token with
  | none => s
  | some _ => (List.range 4).foldl (fun s d => if dieBlocks s.hbm.out pa lg d = 0 then s else s.carry .io (.die d)) s

/-- A page copy counted: bursts read and written, blocks copied (R415). -/
def State.countBlocks (s : State) (src dst lg : Nat) : State :=
  (List.range 4).foldl (fun s d =>
    let b := dieBlocks s.hbm.out dst lg d
    ((s.bump (.die d) 0x120 (4 * dieBlocks s.hbm.out src lg d)).bump (.die d) 0x121 (4 * b)).bump (.die d) 0x128 b) s

/-- The bytes of one HBM page copied to another, poison with them (R405, R415). -/
def State.copyPage (s : State) (src dst lg : Nat) : State :=
  let h := s.hbm
  let moved := (h.bytes.filter (fun c => decide (src ≤ c.1) && decide (c.1 < src + 2 ^ lg))).foldl
    (fun m c => Mem.write m (dst + (c.1 - src)) c.2) (h.bytes.clearN dst (2 ^ lg))
  let bad := (s.spoiled src (2 ^ lg)).foldl (fun l b => insNat (dst / 64 + (b - src / 64)) l) (outside h.poison dst (2 ^ lg))
  { s with hbm := { h with bytes := moved, poison := bad, bad := outside h.bad dst (2 ^ lg) } }.countBlocks src dst lg

/-- One more copy counted for the advance that steps a take. -/
def State.countCopy (s : State) (t : Nat) : State :=
  match s.advanceOf t with
  | none => s
  | some q => { s with takes := { s.takes with copiesMade := Tab.upd s.takes.copiesMade q.toNat 0 (fun n => n + 1) } }

/-- A private page put in a take's list in place of a shared one (R41): the counts, the lock, the held stores and those of the take's
faults on the page that are still queued (R43). -/
def State.settleCopy (s : State) (t key lg dst : Nat) (held : List (Nat × List Byte)) : State :=
  let s := { s with takes := { s.takes with locks := s.takes.locks.erase key } }
  let mine := fun (f : CowFault) => f.take == t && f.src == key
  let late := (s.takes.faults.filter mine).map (fun f => (f.offset, f.bytes))
  let s := { s with takes := { s.takes with faults := s.takes.faults.filter (fun f => !mine f) } }
  if (s.take t).pages.any (fun e => e.key == key) then
    let s := s.movePage t key { offset := 0, lg := lg, page := dst }
    let s := { s with takes := { s.takes with counts := Tab.put s.takes.counts dst 1 } }
    ((s.lowerCount key lg 1).1.countCopy t).releaseHeld dst (held ++ late)
  else (s.returnPage dst lg).freeIfZero key lg |>.1

/-- PAGE_COPY_COMPLETE (R41 to R43): the n-th copy under way. -/
def execPageCopyComplete (n : Half) (s : State) : Host.Outcome State Fault Refusal :=
  match s.takes.copies[n.toNat]? with
  | none => .next s
  | some k =>
    let s := { s with takes := { s.takes with copies := s.takes.copies.eraseIdx n.toNat } }
    .next ((s.copyPage k.src k.dst k.lg).settleCopy k.take k.src k.lg k.dst k.held)

end Sys2Proof.Machine
end

