-- ==== Sys2Proof/Machine/Place.lean ====
section
/-! DEFINITION. Placements (R324 to R329, R333, R335), the banks and DMA channels a kernel holds (R328, R422), and the
pre-emption, save and restore of a kernel (R334 to R341). -/

namespace Sys2Proof.Machine

/-- Where a placement lies: its clusters in order, and its ranks within each (R325). -/
structure Spot where
  clusters : List Nat
  first    : Nat
  ranks    : Nat
  deriving DecidableEq, Repr

/-- The placements of a size class, by (die, cluster, first rank) (R325). -/
def spotsOf (size : Nat) : List Spot :=
  if size ≤ 4 then (List.range 32).flatMap (fun n => (List.range (16 / 2 ^ size)).map (fun q => ⟨[n], q * 2 ^ size, 2 ^ size⟩))
  else if size ≤ 7 then
    let k := 2 ^ (size - 4)
    (List.range (32 / k)).map (fun q => ⟨(List.range k).map (fun i => q * k + i), 0, 16⟩)
  else if size = 8 then
    [⟨List.range 16, 0, 16⟩, ⟨(List.range 8) ++ (List.range 8).map (fun i => 24 + i), 0, 16⟩,
     ⟨(List.range 16).map (fun i => 8 + i), 0, 16⟩, ⟨(List.range 16).map (fun i => 16 + i), 0, 16⟩]
  else [⟨List.range 32, 0, 16⟩]

/-- A placement's ranks with their cores; a rank with no core in service has none (R326, R329). -/
def State.spotRanks (s : State) (p : Spot) : List (Option Nat) :=
  p.clusters.flatMap (fun n => (List.range p.ranks).map (fun i => s.rankCore n (p.first + i)))

/-- The cores in service of a placement. -/
def State.spotCores (s : State) (p : Spot) : List Nat := (s.spotRanks p).filterMap id

/-- Whether a placement has a rank with no core in service (R329). -/
def State.spotShort (s : State) (p : Spot) : Bool := (s.spotRanks p).any Option.isNone

/-- Whether a core takes a placement: no kernel on it, no fence pending on it (R630), no march test on its banks (R390). -/
def State.coreOpen (s : State) (w : Nat) : Bool :=
  (s.core w).owner.isNone && !s.flt.drains.any (fun d => d.1 == w) && !s.mem.marBanks.any (fun b => b.1 != 2 && b.2.1 == w)

/-- The cluster a bank belongs to. -/
def bankCluster (b : Nat × Nat × Nat) : Nat := if b.1 = 2 then b.2.1 else clusterOf b.2.1

/-- A bank back in service, counted (R393). -/
def State.wakeBank (s : State) (b : Nat × Nat × Nat) : State :=
  if s.mem.retained.contains b then
    { s with mem := { s.mem with retained := s.mem.retained.filter (fun k => k != b) } }.bump (.cluster (bankCluster b)) 0x115 1
  else s

/-- Whether a cluster memory bank is mapped out. -/
def State.bankOut (s : State) (n b : Nat) : Bool := (Tab.at s.mem.cmOut n 0#64).toNat.testBit b || s.mem.toMapOut.contains (n, b)

/-- The good banks of a cluster memory. -/
def State.goodBanks (s : State) (n : Nat) : List Nat := (List.range 64).filter (fun b => !s.bankOut n b)

/-- The banks of a class in a cluster: the first good ones up to LC_BANKS are latency-critical (R328, R389; which
banks make up a share is a DESIGN CHOICE, log entry 16). -/
def State.classBanks (s : State) (n cls : Nat) : List Nat :=
  if cls = 0 then (s.goodBanks n).take s.sched.lcBanks else (s.goodBanks n).drop s.sched.lcBanks

/-- The banks of a cluster that kernels hold. -/
def State.heldBanks (s : State) (n : Nat) : List Nat := s.sched.kerns.flatMap (fun k => k.banksIn n)

/-- The DMA channels of a cluster that kernels hold. -/
def State.heldChans (s : State) (n : Nat) : List Nat :=
  s.sched.kerns.flatMap (fun k => ((k.chans.find? (fun p => p.1 == n)).map Prod.snd).getD [])

/-- The free banks of a class in a cluster. -/
def State.freeBanks (s : State) (n cls : Nat) : List Nat := (s.classBanks n cls).filter (fun b => !(s.heldBanks n).contains b && !s.mem.marBanks.contains (2, n, b))

/-- The free DMA channels of a cluster that kernels may hold. -/
def State.freeChans (s : State) (n : Nat) : List Nat := (List.range 12).filter (fun c => !(s.heldChans n).contains c)

/-- Whether a cluster can supply a kernel's banks and channels. -/
def State.supplies (s : State) (k : KernelEnt) (cls n : Nat) : Bool :=
  decide (k.banks ≤ (s.freeBanks n cls).length) && decide (k.dmaCh ≤ (s.freeChans n).length)

/-- Whether a placement may carry a kernel: full, or short for a kernel marked RANKFLEX (R329). -/
def State.spotFits (s : State) (k : KernelEnt) (p : Spot) : Bool := k.rankFlex || !s.spotShort p

/-- Whether a placement is free for a kernel. -/
def State.spotFree (s : State) (k : KernelEnt) (cls : Nat) (p : Spot) : Bool :=
  s.spotFits k p && (s.spotCores p).all (fun w => s.coreOpen w) && p.clusters.all (fun n => s.supplies k cls n) && !(s.spotCores p).isEmpty

/-- Whether a placement touches a die. -/
def Spot.onDie (p : Spot) (d : Nat) : Bool := p.clusters.any (fun n => dieOfCluster n == d)

/-- The free placement a kernel takes: on its home die first, then the lowest (R333). -/
def State.freeSpot (s : State) (k : KernelEnt) (cls : Nat) : Option Spot :=
  let l := (spotsOf k.size).filter (fun p => s.spotFree k cls p)
  match l.find? (fun p => p.onDie k.home) with
  | some p => some p
  | none => l.head?

/-- Whether the device has any placement a kernel could use at all (R329). -/
def State.spotExists (s : State) (k : KernelEnt) : Bool :=
  (spotsOf k.size).any (fun p => s.spotFits k p && !(s.spotCores p).isEmpty)

/-- The accessor of a core in a kernel, for a command's transfers. -/
def Kern.accAt (k : Kern) (w : Nat) : Acc := { core := some w, kern := some k, seq := some k.seq }

/-- A core given to a kernel's rank; its register contents stand as they are. -/
def Core.give (c : Core) (seq : Word) (layer rank : Nat) : Core :=
  { c.released with owner := some (seq, layer), rank := rank, pos := 0 }

/-- Cores given to ranks. -/
def State.giveCores (s : State) (seq : Word) (layer : Nat) (l : List (Nat × Nat)) : State :=
  l.foldl (fun s p => s.updCore p.2 (fun c => c.give seq layer p.1)) s

/-- The ranks of a placement that have cores, with the cores. -/
def State.spotPairs (s : State) (p : Spot) : List (Nat × Nat) :=
  let rs := s.spotRanks p
  ((List.range rs.length).zip rs).filterMap (fun q => q.2.map (fun w => (q.1, w)))

/-- A core as schedule area bytes 14 and 15 encode it (R359). -/
def coreCode (w : Nat) : Nat := dieOf w + 4 * (clusterOf w % 8) + 32 * (w % 17)

/-- A kernel placed (R333): its cores, banks and channels taken, counted at the die of its first core (R361). -/
def State.placeKernel (s : State) (seq : Word) (layer prog kix cls : Nat) (k : KernelEnt) (p : Spot) : State :=
  let pairs := s.spotPairs p
  let e : Kern :=
    { seq := seq, layer := layer, prog := prog, kernel := kix, cls := cls, size := k.size
      cores := pairs.map Prod.snd, ranks := pairs.map Prod.fst, clusters := p.clusters
      banks := p.clusters.map (fun n => (n, (s.freeBanks n cls).take k.banks))
      chans := p.clusters.map (fun n => (n, (s.freeChans n).take k.dmaCh))
      phase := .staging, queueAt := s.nowUs, placedUs := s.nowUs }
  let short := s.spotShort p
  let w0 := e.cores.headD 0
  let first := match s.cmd? seq with
    | some c => !c.isAdvance && c.layersDone.isEmpty && !s.sched.kerns.any (fun (h : Kern) => h.seq == seq)
    | none => false
  let s := s.giveCores seq layer pairs
  let s := { s with sched := { s.sched with kerns := s.sched.kerns ++ [e] } }
  let s := s.bump (.die (dieOf w0)) 0x100 1
  let s := if short then s.bump (.die (dieOf w0)) 0x107 1 else s
  let s := if first then s.bump (.die (dieOf w0)) 0x0F5 1 else s
  s.updCmd seq (fun c => { c with areas := { c.areas with
    placedAt := c.areas.placedAt.or (some (s.nowUs - c.readyAt.getD s.nowUs)), size := k.size, short := c.areas.short || short
    firstCore := coreCode w0 } })

/-- The best-effort kernels that hold a core of a placement and are not yet on their way off it. -/
def State.spotHolders (s : State) (p : Spot) : List Kern :=
  s.sched.kerns.filter (fun k => k.phase != .saved && k.cores.any (fun w => (s.spotCores p).contains w))

/-- Whether a kernel is already being stopped for another. -/
def Kern.leaving (k : Kern) : Bool := (k.phase == .stopping || k.phase == .saving) && k.cause != .victim

/-- Whether R335 considers a placement: full enough, its cores free or held by best-effort kernels, its banks at hand. -/
def State.spotTakable (s : State) (k : KernelEnt) (cls : Nat) (p : Spot) : Bool :=
  s.spotFits k p && !(s.spotCores p).isEmpty && p.clusters.all (fun n => s.supplies k cls n) &&
  (s.spotCores p).all (fun w => !s.flt.drains.any (fun d => d.1 == w) && !s.mem.marBanks.any (fun b => b.1 != 2 && b.2.1 == w)) && (s.spotHolders p).all (fun h => h.cls == 1)

/-- The cost of taking a placement: cores of kernels to stop, and the sequence number of the youngest of them (R335, R491). -/
def State.spotCost (s : State) (p : Spot) : Nat × Option Word :=
  let hs := (s.spotHolders p).filter (fun h => !h.leaving)
  ((hs.map (fun h => h.cores.length)).foldl (fun a b => a + b) 0,
   (firstBy (fun (a b : Kern) => !seqBefore a.seq b.seq) hs).map Kern.seq)

/-- Whether the second of two placements' youngest kernels is the younger. -/
def younger (a b : Option Word) : Bool :=
  match a, b with
  | some x, some y => seqBefore x y
  | none, some _ => true
  | _, none => false

/-- The cheapest placement of a list (R335), the lower-numbered first among equals. -/
def State.cheapest (s : State) : List Spot → Option Spot
  | [] => none
  | p :: rest =>
    match State.cheapest s rest with
    | none => some p
    | some q =>
      let a := s.spotCost p
      let b := s.spotCost q
      if b.1 < a.1 ∨ (b.1 = a.1 ∧ younger a.2 b.2) then some q else some p

/-- Whether a kernel is on its way off its placement for another command that still waits for it. -/
def State.promised (s : State) (k : Kern) (seq : Word) : Bool :=
  k.leaving && (match k.forCmd with
    | some q => q != seq && ((s.cmd? q).map (fun c => c.phase == .waiting)).getD false
    | none => false)

/-- The placement R335 takes for a kernel of a latency-critical command. -/
def State.takenSpot (s : State) (seq : Word) (k : KernelEnt) (cls : Nat) : Option Spot :=
  s.cheapest ((spotsOf k.size).filter (fun p => s.spotTakable k cls p && !(s.spotHolders p).any (fun h => s.promised h seq)))

/-! ### Fusion rings -/

/-- A kernel's instruction words. -/
def Program.codeOf (p : Program) (e : KernelEnt) : List Dword := (p.code.drop (e.code / 8)).take e.words

/-- The slates of its own program that a code names with one of some operations (R353). -/
def slatesNamed (code : List Dword) (ops : List Nat) : List Nat :=
  (code.filterMap (fun x => let n := x.toNat
    if opcodeOf n == 0x38 && !bitOf n 12 && ops.contains (fld n 8 4) then some (fld n 23 17) else none)).eraseDups

/-- The slates that may be FULL and FREE of a code's fusion rings (R305, R306): those it both waits on and adds to, where there are
two at least and it has an AWAIT. No container says where a ring lies (log entry 48). -/
def ringSlates (code : List Dword) : List Nat :=
  let l := (slatesNamed code [0, 1]).filter (fun i => (slatesNamed code [2, 3, 4]).contains i)
  if code.any (fun x => opcodeOf x.toNat == 0x4F) ∧ 2 ≤ l.length then l else []

/-- The kernel entry of a placed kernel. -/
def State.entOf (s : State) (k : Kern) : Option KernelEnt := ((s.prog (k.prog % 256)).prog).bind (fun p => p.kernels[k.kernel]?)

/-- The instruction words of a placed kernel. -/
def State.kernCode (s : State) (k : Kern) : List Dword :=
  match (s.prog (k.prog % 256)).prog, s.entOf k with
  | some p, some e => p.codeOf e
  | _, _ => []

/-- The levels of a kernel's tile plan. -/
def State.planLevels (s : State) (k : Kern) : List TileLevel :=
  (((s.prog (k.prog % 256)).prog).bind (fun p => (s.entOf k).bind (fun e => Tab.find p.plans e.plan))).map TilePlan.levels |>.getD []

/-- The absolute slates of a placed kernel's fusion rings. -/
def State.kernRings (s : State) (k : Kern) : List Nat :=
  match s.cmd? k.seq with
  | some c => (ringSlates (s.kernCode k)).map (fun i => c.slateBase + i)
  | none => []

/-- Whether a kernel's command runs a chunk now (R337). -/
def State.chunkOf (s : State) (seq : Word) : Option Chunk := s.reels.chunks.find? (fun c => c.seq == seq && c.running)

/-- The chunk a kernel runs now. -/
def State.chunkAt (s : State) (k : Kern) : Option Chunk := s.reels.chunks.find? (fun c => c.seq == k.seq && c.layer == k.layer && c.running)

/-- The save of a pre-empted kernel begun: its cores issue no more, their waits are abandoned (R336). -/
def State.beginSave (s : State) (k : Kern) : State :=
  let s := s.setKern { k with phase := .saving }
  let s := { s with sched := { s.sched with waits := s.sched.waits.filter (fun w =>
    match w.who with | .core c _ => !(k.cores.contains c) | _ => true) } }
  s.cancelWaits (fun r => match r.kind with | .slate _ (.core c _) => k.cores.contains c | _ => false)

/-- A kernel pre-empted (R334, R336, R337): a chunk stops at its next step boundary first under the first two causes, its
cores running on till then. -/
def State.preempt (s : State) (k : Kern) (cause : PreCause) : State :=
  let k := { k with phase := .stopping, cause := cause, preAt := s.nowUs, queueAt := if cause = .latency then k.placedUs else s.nowUs }
  let s := if (s.chunkAt k).isSome && cause != .victim then s.setKern k else s.beginSave k
  let s := s.updCmd k.seq (fun c => { c with areas := { c.areas with preempts := c.areas.preempts + 1 } })
  match s.cmd? k.seq with
  | some c => if c.isAdvance then s.setFlag k.seq 6 else s
  | none => s

/-- A core's SRAM that a save record holds: the scratchpad footprint and the operand cache (R338). -/
def State.coreSram (s : State) (w foot : Nat) : Mem :=
  (s.mem.sram.filter (fun c => let o := c.1 - sramCore w 0
    decide (sramCore w 0 ≤ c.1) && (decide (o < foot * 65536) || (decide (0x180000 ≤ o) && decide (o < 0x1C0000))))).map
    (fun c => (c.1 - sramCore w 0, c.2))

/-- A core's SRAM restored from a save record. -/
def State.putSram (s : State) (w foot : Nat) (m : Mem) : State :=
  let cleared := (s.mem.sram.clearN (sramCore w 0) (foot * 65536)).clearN (sramCore w 0x180000) 0x40000
  { s with mem := { s.mem with sram := m.foldl (fun a c => Mem.write a (sramCore w c.1) c.2) cleared } }

/-- Event counts at each core of a list. -/
def State.bumpAll (s : State) (l : List Nat) (ev n : Nat) : State := l.foldl (fun s w => s.bump (.core w) ev n) s

/-- A pre-empted kernel's cores saved (R308, R338, R339): the placement freed unless the kernel resumes where it stands. The record
stands in the kernel's entry, not as bytes of its save frame, whose layout is not stated (DESIGN CHOICE, log entry 119). -/
def State.saveKernel (s : State) (k : Kern) : State :=
  let foot := ((s.entOf k).map KernelEnt.foot).getD 0
  let saved := k.cores.map (fun w => (s.core w, s.coreSram w foot))
  let k := { k with were := k.cores, rings := (s.kernRings k).map (fun i => (i, s.slate i)) }
  let s := s.bumpAll k.cores 0x101 1
  let s := { s with sched := { s.sched with regs := { s.sched.regs with preemptCnt := s.sched.regs.preemptCnt + BitVec.ofNat 32 k.cores.length } } }
  if k.cause = .victim then s.setKern { k with phase := .restoring, saved := saved }
  else
    let s := { s with cores := s.cores.map (fun (p : Nat × Core) => if k.cores.contains p.1 then (p.1, p.2.released) else p) }
    s.setKern { k with phase := .saved, saved := saved, cores := [] }

/-- What a kernel has under way under the windows of its old cores moved to its new ones (R304, R336, R340): the descriptors in its
DMA channels and the tiles its cores hold. -/
def State.moveCores (s : State) (k : Kern) (ws : List (Nat × Nat)) : State :=
  let new := fun (w : Nat) => ((ws.find? (fun p => p.1 == w)).map Prod.snd).getD w
  let base := ((s.cmd? k.seq).map Cmd.slateBase).getD 0
  let own := (s.planLevels k).map (fun l => base + l.counter)
  { s with
    dma := { s.dma with engs := s.dma.engs.map (fun (p : Nat × DmaEng) => (p.1, { p.2 with
      chans := p.2.chans.map (fun (q : Nat × DmaChan) => (q.1, { q.2 with
        queue := q.2.queue.map (fun d => if d.seq == k.seq && d.layer == k.layer then { d with core := d.core.map new } else d) })) })) }
    sched := { s.sched with tiles := s.sched.tiles.map (fun (t : Nat × TileCtr) =>
      if t.2.seq == k.seq && own.contains t.1 then (t.1, { t.2 with held := t.2.held.foldl (fun h p => Tab.put h (new p.1) p.2) [] }) else t) } }

/-- The payload of a SLATE_REQ (R527): OP, V and the compare value. -/
def slatePayload (op : Nat) (v cmp : Word) : List Byte := slice (leBytes 4 op ++ leBytes 4 v.toNat ++ leBytes 4 cmp.toNat) 0 16

/-- A wait reissued on resumption (R336), the time pre-empted not counted towards its limit (R355). -/
def State.reissue (s : State) (seq : Word) (gone w : Nat) : State :=
  match (s.core w).hold with
  | .slate i eq v xr since =>
    let n := s.slate i
    let q : SlateWait := { slate := i, who := .core w xr, eq := eq, value := v }
    let s := s.updCore w (fun c => { c with hold := .slate i eq v xr (since + gone) })
    { s with sched := { s.sched with waits := s.sched.waits ++ [{ q with wake := if q.met n then some n else none }] } }
  | .remote dst i eq v xr since =>
    let s := s.updCore w (fun c => { c with hold := .remote dst i eq v xr (since + gone) })
    s.request seq dst (clusterOf w) 0x05 i (slatePayload (b2n eq) v 0) (.slate (b2n eq) (.core w xr))
  | _ => s

/-- A saved kernel's cores restored (R340) and its time pre-empted counted. -/
def State.restoreKernel (s : State) (k : Kern) : State :=
  let foot := ((s.entOf k).map KernelEnt.foot).getD 0
  let s := (k.cores.zip (k.ranks.zip k.saved)).foldl (fun s p =>
    (s.setCore p.1 { p.2.2.1 with owner := some (k.seq, k.layer), rank := p.2.1 }).putSram p.1 foot p.2.2.2) s
  let s := k.rings.foldl (fun s p => { s with sched := s.sched.writeSlate p.1 p.2 }) (s.moveCores k (k.were.zip k.cores))
  let s := k.cores.foldl (fun s w => s.reissue k.seq (s.nowUs - k.preAt) w) s
  let s := s.setKern { k with phase := .running, saved := [], were := [], rings := [] }
  s.updCmd k.seq (fun c => { c with areas := { c.areas with preUs := c.areas.preUs + (s.nowUs - k.preAt) } })

/-- Whether a placement may resume a saved kernel: of its class, in the clusters of its allocation, its cores open (R340). -/
def State.spotResumes (s : State) (k : Kern) (p : Spot) : Bool :=
  p.clusters == k.clusters && !s.mem.marBanks.any (fun b => b.1 == 2 && (k.banksIn b.2.1).contains b.2.2) && (s.spotCores p).all (fun w => s.coreOpen w) && decide (k.ranks.length ≤ (s.spotPairs p).length) &&
  k.ranks.all (fun r => (s.spotPairs p).any (fun q => q.1 == r))

/-- A saved kernel placed again: its restore begins. -/
def State.resumeKernel (s : State) (k : Kern) (p : Spot) : State :=
  let pairs := (s.spotPairs p).filter (fun q => k.ranks.contains q.1)
  let s := s.giveCores k.seq k.layer pairs
  let s := s.setKern { k with cores := pairs.map Prod.snd, ranks := pairs.map Prod.fst, phase := .restoring, placedUs := s.nowUs }
  let w0 := (pairs.map Prod.snd).headD 0
  (s.bump (.die (dieOf w0)) 0x100 1).updCmd k.seq (fun c => { c with areas := { c.areas with firstCore := coreCode w0 } })

/-- The absolute slate a command's program-relative ID names (R351): none at or above the program's count. -/
def State.progSlate (s : State) (seq : Word) (i : Nat) : Option Nat :=
  match s.cmd? seq with
  | none => none
  | some c => if i < ((s.progOf c.programRef).map Program.slates).getD 0 then some (c.slateBase + i) else none

end Sys2Proof.Machine
end

