-- ==== Sys2Proof/Machine/Dma.lean ====
section
/-! DEFINITION. The DMA engines: descriptors and their checks (R419 to R421), bursts and grants (R423, R424, R427 to
R431, R435), completion (R432 to R434), and DMA_COPY (R437). -/

namespace Sys2Proof.Machine

/-- A dimension's fields read at an offset of a descriptor. -/
def parseDim (b : List Byte) (o : Nat) : DmaDim := ⟨recField b o 2, recField b (o + 2) 2, sgn 64 (recField b (o + 4) 8), sgn 64 (recField b (o + 12) 8)⟩

/-- A descriptor read from its 128 bytes (R419). -/
def parseDesc (seq : Word) (b : List Byte) : DmaDesc :=
  let f := recField b
  let c := f 104 1
  let m := f 106 1
  { seq := seq, src := f 0 8, dst := f 8 8, run := f 16 3, zrun := f 20 3
    dims := ((([24, 44, 64, 84] : List Nat)).map (parseDim b)).filter (fun d => d.n + d.z != 0)
    swap := fld c 0 3, crc := fld c 3 2, prio := fld c 5 2, cq := bitOf c 7, reqline := f 105 1
    slotted := bitOf m 0, pkt := bitOf m 1, skind := bitOf m 2, dkind := bitOf m 3
    slot0 := f 108 2, period := f 110 2, slots := f 112 1
    slate := f 116 4 % 131072, sig := bitOf (f 116 4) 17, add := BitVec.ofNat 32 (f 120 4), tag := BitVec.ofNat 32 (f 124 4) }

/-- Positions of a walk. -/
def DmaDesc.count (d : DmaDesc) : Nat := d.dims.foldl (fun a k => a * (k.n + k.z)) 1

/-- Runs a walk reads. -/
def DmaDesc.reads (d : DmaDesc) : Nat := if d.run = 0 then 0 else d.dims.foldl (fun a k => a * k.n) 1

/-- The index of a position in each used dimension, innermost first. -/
def dimIxs : List DmaDim → Nat → List (DmaDim × Nat)
  | [], _ => []
  | k :: rest, p => (k, p % (k.n + k.z)) :: dimIxs rest (p / (k.n + k.z))

/-- An address moved by strides, modulo 2^64. -/
def strided (a : Nat) (l : List (DmaDim × Nat)) (f : DmaDim → Int) : Nat := wrapN 64 (l.foldl (fun x p => x + f p.1 * p.2) (a : Int))

/-- Whether the walk copies at a position (R420). -/
def DmaDesc.copies (d : DmaDesc) (p : Nat) : Bool := (dimIxs d.dims p).all (fun q => decide (q.2 < q.1.n))

/-- The source of a position. -/
def DmaDesc.srcAt (d : DmaDesc) (p : Nat) : Nat := strided d.src (dimIxs d.dims p) DmaDim.ss

/-- The destination of a position. -/
def DmaDesc.dstAt (d : DmaDesc) (p : Nat) : Nat := strided d.dst (dimIxs d.dims p) DmaDim.ds

/-- Whether a destination is dense (R421). -/
def denseFrom (want : Int) : List DmaDim → Bool
  | [] => true
  | k :: rest => decide (k.ds = want) && denseFrom ((k.n + k.z : Nat) * k.ds) rest

/-- Bytes of a swap element (R430). -/
def swapSize : Nat → Nat
  | 1 => 2 | 2 => 4 | 3 => 8 | 4 => 4 | _ => 1

/-- Whether a request line serves an engine (R426). -/
def lineOf (e line : Nat) : Bool :=
  if e < 32 then decide (1 ≤ line ∧ line ≤ 8)
  else if e = 33 then decide (1 ≤ line ∧ line ≤ 0xA0)
  else if e = 35 then decide (0xA1 ≤ line ∧ line ≤ 0xC8) else false

/-- The accessor of a descriptor. -/
def State.dmaAcc (s : State) (d : DmaDesc) : Acc :=
  { core := d.core, kern := s.kern? d.seq d.layer, seq := some d.seq, flow := if d.core.isNone then some 0x20 else none }

/-- The accessor of a descriptor's source: the memory manager's for one that stages a prefetch, but in a take's window (R379). -/
def State.srcAcc (s : State) (d : DmaDesc) : Acc :=
  if d.pref.isSome && d.src / 2 ^ 52 != 0x14 then { seq := some d.seq, flow := some 0x24 } else s.dmaAcc d

/-- Whether an address lies on the near side of a cluster engine (R416). -/
def State.nearSide (s : State) (e : Nat) (d : DmaDesc) (va : Nat) : Bool :=
  match (s.xlate (s.dmaAcc d) va false).1 with
  | .sram o => o / 2 ^ 30 == e
  | _ => false

/-- The check of a descriptor before its first access (R421). -/
def State.descBad (s : State) (e : Nat) (d : DmaDesc) : Option Status :=
  if d.run + d.zrun = 0 then some .zeroExtent
  else if 5 ≤ d.swap ∨ d.run % swapSize d.swap ≠ 0 ∨ (d.reqline ≠ 0 ∧ lineOf e d.reqline = false) ∨
      (d.slotted ∧ (d.period = 0 ∨ 4096 < d.period ∨ d.slots = 0 ∨ 16 < d.slots ∨ d.period < d.slot0 + d.slots)) ∨
      (d.crc = 2 ∧ (d.zrun ≠ 0 ∨ denseFrom d.run d.dims = false)) ∨ (d.crc = 3 ∧ d.reads ≠ 1) then some .shapeOver
  else if (d.core.isSome && !d.slotted && ((!d.skind && s.nearSide e d d.src) || (!d.dkind && s.nearSide e d d.dst))) ||
      ((d.skind || d.dkind) && decide (32 ≤ e) && e != 33) then some .shapeOver
  else none

/-- The result of DMA_COPY (R437). -/
def DmaDesc.copyResult (d : DmaDesc) : List Byte := resultOf [(8, d.bytes), (4, d.crcOut), (1, b2n d.poison)]

/-- The command that owns a descriptor ended. -/
def State.dmaEnd (s : State) (d : DmaDesc) (st : Status) : State :=
  match d.core with
  | none => s.finish d.seq st d.copyResult
  | some _ => s.endCmd d.seq st

/-- The subject of an engine's access: the issuing core, or the I/O engine (R619). -/
def DmaDesc.subject (d : DmaDesc) (e : Nat) : Nat := match d.core with | some w => subjCore w | none => subjIo (e - 28)

/-- An access of a descriptor that does not translate (R373, R435). -/
def State.dmaFault (s : State) (e : Nat) (d : DmaDesc) (va : Nat) : State :=
  if d.pref.isSome then s.useFault d.seq 1 va
  else (s.report 0x20 (d.subject e) (d.subject e) d.seq va).dmaEnd d .deviceFault

/-- A run's bytes with their elements swapped (R430); an element cut short stays as it is. -/
def swapRun (mode : Nat) (bs : List Byte) : List Byte :=
  let z := swapSize mode
  tabulate bs.length (fun i =>
    if bs.length < i / z * z + z then nth bs i 0
    else nth bs (i / z * z + (if mode = 4 then (i % 4 + 2) % 4 else z - 1 - i % z)) 0)

/-- A descriptor after a segment of `n` bytes at its place in the walk, of which `w` were written. -/
def DmaDesc.advance (d : DmaDesc) (n w : Nat) : DmaDesc :=
  let off := d.off + n
  if d.run + d.zrun ≤ off then { d with off := 0, pos := d.pos + 1, ovr := decide (d.count ≤ d.pos + 1), bytes := d.bytes + w }
  else { d with off := off, bytes := d.bytes + w }

/-- Bytes of one element write put into a mail slot, END marked as PKT directs (R419, R439). -/
def State.dmaToMail (s : State) (d d' : DmaDesc) (bs : List Byte) : State :=
  let fin := if d.pkt then d'.pos != d.pos else d'.ovr
  s.setMail (d.dst % 128) ((s.mailSlot (d.dst % 128)).writeRun fin (bs.length + 1) bs)

/-- The queue of a channel with one descriptor replaced. -/
def State.setDesc (s : State) (e c j : Nat) (d : DmaDesc) : State :=
  let g := s.eng e
  s.setEng e { g with chans := Tab.upd g.chans c {} (fun (h : DmaChan) => { h with queue := h.queue.set j d }) }

/-- Where an engine's bursts are counted (R448). -/
def engAt (e : Nat) : At := if e < 32 then .cluster e else .io

/-- A burst of engine 34 passed on to the channel of the cluster engine that relays it (R418). -/
def State.relayTo (s : State) (e c : Nat) (d : DmaDesc) (bs : List Byte) : State :=
  let g := s.eng e
  s.setEng e { g with chans := Tab.upd g.chans c {} (fun (h : DmaChan) => { h with queue := h.queue.map (fun x =>
    if x.relayed && x.seq == d.seq && x.pref == d.pref && x.core == d.core then { x with buf := x.buf ++ bs } else x) }) }

/-- A burst's bytes put where they go that is no memory: into a mail slot, or to the engine that relays them. -/
def State.passOn (s : State) (d d' : DmaDesc) (bs : List Byte) : State :=
  match d.relay with
  | some (e2, c2) => s.relayTo e2 c2 d bs
  | none => s.dmaToMail d d' bs

/-- A burst's bytes delivered; poisoned data goes on to HBM and host memory and ends the command elsewhere (R435). -/
def State.deliver (s : State) (e c j : Nat) (d d' : DmaDesc) (bs : List Byte) (poison : Option Nat) : State :=
  if d.dkind || d.relay.isSome then
    match poison with
    | some pa => (s.report 0x15 (subjChan (hbmChannel s.hbm.out pa).1) (subjChan (hbmChannel s.hbm.out pa).1) d.seq pa).dmaEnd
        { d with poison := true } .deviceFault
    | none => (s.passOn d d' bs).setDesc e c j d'
  else
    let va := d.dstAt d.pos + d.off
    let s := s.carryVA (engAt e) (s.dmaAcc d) true va bs.length
    match poison, (s.xlate (s.dmaAcc d) va true).1 with
    | some pa, .sram _ => (s.report 0x15 (subjChan (hbmChannel s.hbm.out pa).1) (subjChan (hbmChannel s.hbm.out pa).1) d.seq pa).dmaEnd
        { d with poison := true } .deviceFault
    | _, _ =>
      match s.writeVA (s.dmaAcc d) va bs poison.isSome with
      | none => s.dmaFault e d ((s.firstBad (s.dmaAcc d) va bs.length true).getD va)
      | some s => (s.noteUse va bs.length).setDesc e c j { d' with poison := d'.poison || poison.isSome }

/-- The source range of a descriptor's next burst from memory, whole elements of a swap included (R430). -/
def DmaDesc.burstSpan (d : DmaDesc) : Nat × Nat :=
  let left := d.run - d.off
  let n := if d.dkind then min 256 left else min (256 - (d.dstAt d.pos + d.off) % 256) left
  let z := swapSize d.swap
  let lo := d.off / z * z
  (d.srcAt d.pos + lo, min d.run (ceilDiv (d.off + n) z * z) - lo)

/-- A burst from memory (R423, R430, R431). -/
def State.burstCopy (s : State) (e c j : Nat) (d : DmaDesc) : State :=
  let left := d.run - d.off
  let n := if d.dkind then min 256 left else min (256 - (d.dstAt d.pos + d.off) % 256) left
  let lo := d.off / swapSize d.swap * swapSize d.swap
  let va := d.burstSpan.1
  let len := d.burstSpan.2
  let a := s.srcAcc d
  let s := s.carryVA (engAt e) a false va len
  let got := s.readVA a va len
  let s := (s.touchVA a va len).usePeers a va len
  let go := fun (raw : List Byte) (poison : Option Nat) (s : State) =>
    let rd := slice raw (d.off - lo) n
    let wr := slice (if d.swap = 0 then raw else swapRun d.swap raw) (d.off - lo) n
    s.deliver e c j d { d.advance n n with acc := crcRun d.acc (if d.crc = 3 then rd else wr) } wr poison
  match got with
  | .unmapped v => s.dmaFault e d v
  | .ok raw => go raw none s
  | .poisoned pa raw => go raw (some pa) s

/-- A burst of bytes that engine 34 has relayed (R418). -/
def State.burstRelayed (s : State) (e c j : Nat) (d : DmaDesc) : State :=
  let n := min d.buf.length (min (256 - (d.dstAt d.pos + d.off) % 256) (d.run - d.off))
  s.deliver e c j d { d.advance n n with buf := d.buf.drop n } (d.buf.take n) none

/-- A burst from a mail slot: one read word; a run ends at END (R442, R443). -/
def State.burstMail (s : State) (e c j : Nat) (d : DmaDesc) : State :=
  match s.mailRead (d.src % 128) with
  | (none, s) => s
  | (some w, s) =>
    let n := min w.bytes (d.run - d.off)
    let raw := w.data.take n
    let wr := if d.swap = 0 then raw else swapRun d.swap raw
    let d1 := d.advance (if w.fin then d.run - d.off else n) n
    s.deliver e c j d { d1 with acc := crcRun d.acc (if d.crc = 3 then raw else wr) } wr none

/-- A burst of zeros (R420). -/
def State.burstZero (s : State) (e c j : Nat) (d : DmaDesc) : State :=
  let left := d.run + d.zrun - d.off
  let n := if d.dkind then min 256 left else min (256 - (d.dstAt d.pos + d.off) % 256) left
  let bs := List.replicate n 0
  let s := if e < 32 then s.bump (.cluster e) 0x131 n else s
  s.deliver e c j d { d.advance n n with acc := if d.crc = 3 then d.acc else crcRun d.acc bs } bs none

/-- One burst of a descriptor. -/
def State.burst (s : State) (e c j : Nat) (d : DmaDesc) : State :=
  let s := s.bump (engAt e) 0x130 1
  let copy := d.copies d.pos && decide (d.off < d.run)
  let s := if e < 32 && copy && d.off == 0 && !d.skind && !d.dkind && (d.srcAt d.pos % 64 != d.dstAt d.pos % 64) then
    s.bump (.cluster e) 0x132 1 else s
  if d.relayed then s.burstRelayed e c j d
  else if copy then (if d.skind then s.burstMail e c j d else s.burstCopy e c j d) else s.burstZero e c j d

/-- Whether the kernel of a descriptor is pre-empted, its channels paused (R436). -/
def State.paused (s : State) (d : DmaDesc) : Bool :=
  match d.core, s.kern? d.seq d.layer with
  | some _, some k => k.phase == .saving || k.phase == .saved || k.phase == .restoring
  | _, _ => false

/-- The descriptor a channel walks now, with its place in the queue. -/
def DmaChan.walking (h : DmaChan) : Option (Nat × DmaDesc) :=
  ((List.range h.queue.length).zip h.queue).find? (fun p => !p.2.ovr)

/-- Whether a descriptor's next burst waits for bytes of a peer (R539). -/
def State.waitsPeer (s : State) (d : DmaDesc) : Bool :=
  d.copies d.pos && decide (d.off < d.run) && !d.skind && !d.relayed && !s.peerReady (s.srcAcc d) d.burstSpan.1 d.burstSpan.2

/-- Whether a request for a peer's bytes of a descriptor's command is under way. -/
def State.askedPeer (s : State) (d : DmaDesc) : Bool :=
  s.fab.reqs.any (fun r => r.seq == d.seq && (match r.kind with | .read _ _ => true | _ => false))

/-- The ready channels of an engine (R424); one whose burst waits for a peer's answer is not. -/
def State.readyChans (s : State) (e : Nat) : List (Nat × DmaChan × Nat × DmaDesc) :=
  (s.eng e).chans.filterMap (fun p =>
    match p.2.walking with
    | some (j, d) => if !s.paused d && !(s.waitsPeer d && s.askedPeer d) && !(d.relayed && d.buf.isEmpty) && (d.reqline == 0 || p.2.reqs != 0) then some (p.1, p.2, j, d) else none
    | none => none)

/-- The first of a list by a measure, the earlier among equals. -/
def leastBy {α : Type} (f : α → Nat) : List α → Option α
  | [] => none
  | x :: xs =>
    match leastBy f xs with
    | none => some x
    | some y => if f y < f x then some y else some x

/-- The channel an engine grants (R424): whether by age, and which. -/
def DmaEng.choose (g : DmaEng) (l : List (Nat × DmaChan × Nat × DmaDesc)) : Option (Bool × Nat × DmaChan × Nat × DmaDesc) :=
  let old := l.filter (fun q => g.age != 0 && decide (g.age.toNat ≤ q.2.1.passed))
  match leastBy (fun q => 2 ^ 40 - q.2.1.passed) old with
  | some q => some (true, q)
  | none => (leastBy (fun (q : Nat × DmaChan × Nat × DmaDesc) =>
      32 * q.2.2.2.prio + (q.1 + 31 - nth g.last q.2.2.2.prio 31) % 32) l).map (fun q => (false, q))

/-- The engine after a grant: ages, the channel last served, the request consumed (R424, R427). -/
def DmaEng.granted (g : DmaEng) (ready : List Nat) (c : Nat) (d : DmaDesc) : DmaEng :=
  { g with
    last := g.last.set d.prio c
    chans := g.chans.map (fun (p : Nat × DmaChan) =>
      (p.1, if p.1 = c then { p.2 with passed := 0, reqs := if d.reqline = 0 then p.2.reqs else p.2.reqs - 1 }
            else { p.2 with passed := if ready.contains p.1 then p.2.passed + 1 else 0 })) }

/-- DMA_BURST_GRANT (R423, R424, R427): one burst of the channel the engine grants; a descriptor is checked before its
first access. -/
def execDmaBurstGrant (e : EngineIx) (s : State) : Host.Outcome State Fault Refusal :=
  let l := s.readyChans e.val
  match (s.eng e.val).choose l with
  | none => .next s
  | some (aged, c, _, j, d) =>
    match (if d.checked then none else s.descBad e.val d) with
    | some st => .next (s.dmaEnd d st)
    | none =>
      if s.waitsPeer d then .next (s.askPeers (s.srcAcc d) d.burstSpan.1 d.burstSpan.2)
      else
      let s := s.setEng e.val ((s.eng e.val).granted (l.map Prod.fst) c d)
      let s := if aged && decide (e.val < 32) then s.bump (.cluster e.val) 0x133 1 else s
      .next ((s.perturb 3 e.val).1.burst e.val c j { d with checked := true })

/-- Whether a request line may be asserted: a mail slot's line follows the slot (R426). -/
def State.lineTrue (s : State) (e line : Nat) : Bool :=
  if e < 32 then
    if 1 ≤ line ∧ line ≤ 4 then !(s.mailSlot (4 * e + (line - 1))).words.isEmpty
    else if 5 ≤ line ∧ line ≤ 8 then decide (5 ≤ (s.mailSlot (4 * e + (line - 5))).free) else false
  else if e = 33 ∧ 0x21 ≤ line then decide (5 ≤ (s.mailSlot (line - 0x21)).free) && lineOf e line
  else lineOf e line

/-- REQUEST_LINE_ASSERT (R427): one more pending request for each channel the line paces, 255 at most. -/
def execRequestLineAssert (e : EngineIx) (line : Byte) (s : State) : Host.Outcome State Fault Refusal :=
  let g := s.eng e.val
  if s.lineTrue e.val line.toNat then
    .next (s.setEng e.val { g with chans := g.chans.map (fun (p : Nat × DmaChan) =>
      (p.1, match p.2.walking with
        | some (_, d) => if d.reqline = line.toNat then { p.2 with reqs := satAdd p.2.reqs 1 } else p.2
        | none => p.2)) })
  else .next s

/-- A descriptor's last acts (R432): its record, then its slate, or the end of DMA_COPY. -/
def State.dmaDone (s : State) (e c : Nat) (d : DmaDesc) : State :=
  let g := s.eng e
  let s := s.setEng e { g with chans := Tab.upd g.chans c {} (fun (h : DmaChan) => { h with queue := h.queue.drop 1 }) }
  match d.core with
  | none => s.finish d.seq .ok d.copyResult
  | some _ =>
    let s := if d.cq then s.dmaRecord e c d .ok false else s
    if d.sig then
      match s.progSlate d.seq d.slate with
      | some i => (s.slateAsk (engAt e) i .add d.add 0).1
      | none => s.endCmd d.seq .deviceFault
    else s

/-- DMA_DESCRIPTOR_COMPLETE (R431, R432): the oldest descriptor of a channel, every burst of it issued; one that stages a prefetch
completes with its entry. -/
def execDmaDescriptorComplete (e : EngineIx) (c : Fin 32) (s : State) : Host.Outcome State Fault Refusal :=
  match (Tab.at (s.eng e.val).chans c.val {}).queue with
  | [] => .next s
  | d :: _ =>
    if !d.ovr || d.pref.isSome || s.paused d || s.fab.reqs.any (fun r => r.seq == d.seq && (match r.kind with | .write _ => true | _ => false)) then .next s
    else if d.crc = 2 ∧ d.dkind = false then
      let va := d.dst + d.count * d.run
      match s.writeVA (s.dmaAcc d) va (leBytes 4 d.crcOut) false with
      | none => .next (s.dmaFault e.val d ((s.firstBad (s.dmaAcc d) va 4 true).getD va))
      | some s => .next (s.dmaDone e.val c.val d)
    else if d.crc = 3 ∧ d.skind = false then
      match s.readVA (s.dmaAcc d) (d.src + d.run) 4 with
      | .unmapped v => .next (s.dmaFault e.val d v)
      | .poisoned pa _ => .next ((s.report 0x15 (subjChan (hbmChannel s.hbm.out pa).1) (subjChan (hbmChannel s.hbm.out pa).1) d.seq pa).dmaEnd d .deviceFault)
      | .ok bs =>
        if leNat bs = d.crcOut then .next (s.dmaDone e.val c.val d)
        else .next ((s.bump (if e.val < 32 then .die (dieOfCluster e.val) else .io) 0x135 1).dmaEnd d .corruptInput)
    else .next (s.dmaDone e.val c.val d)

/-- A consumer index written (R434). -/
def State.dmaCons (s : State) (e : Nat) (v : Half) : State :=
  let g := s.eng e
  if 2 ^ g.log2.toNat < (g.prod - v).toNat then s else s.setEng e { g with cons := v }

/-- DMA_CQ_CONS_WRITE (R434). -/
def execDmaCqConsWrite (e : EngineIx) (value : Word) (s : State) : Host.Outcome State Fault Refusal :=
  if s.barTakes .fromE then .next (s.dmaCons e.val (value.setWidth 16)) else .next (s.barDropped (0x800020 + 0x10000 * e.val))

/-- The lowest idle channel of engine 32. -/
def State.idleCopyChan (s : State) : Option Nat := (List.range 32).find? (fun c => (Tab.at (s.eng 32).chans c {}).queue.isEmpty)

/-- A descriptor put on a channel. -/
def State.queueDesc (s : State) (e c : Nat) (d : DmaDesc) : State :=
  let g := s.eng e
  s.setEng e { g with chans := Tab.upd g.chans c {} (fun (h : DmaChan) => { h with queue := h.queue ++ [d] }) }

/-- A copy begun on a channel of engine 32 once its descriptor passes (R421, R437). -/
def State.startCopy (s : State) (seq : Word) (ch : Nat) (d : DmaDesc) : State :=
  match s.descBad 32 d with
  | some st => s.finishBare seq st
  | none => (s.updCmd seq (fun c => { c with phase := .running, started := some s.nowUs })).queueDesc 32 ch { d with checked := true }

/-- DMA_COPY of one run (R437). -/
def State.dmaCopy (s : State) (seq : Word) (c : Cmd) (ch : Nat) : State :=
  let src := c.fieldN 24 8
  let dst := c.fieldN 32 8
  let n := c.fieldN 40 8
  let b := c.fieldN 48 1
  if n = 0 then s.finishBare seq .zeroExtent
  else
    match s.firstOwnBad seq [⟨src, n, false, 1⟩, ⟨dst, n, true, 1⟩] with
    | some va => s.refuseOwn seq va
    | none =>
      if src < dst + n ∧ dst < src + n then s.finishBare seq .shapeOver
      else s.startCopy seq ch { seq := seq, src := src, dst := dst, run := n, swap := fld b 0 3, crc := fld b 3 2, prio := fld b 5 2 }

/-- DMA_COPY with a descriptor (R437). -/
def State.dmaCopyDesc (s : State) (seq : Word) (c : Cmd) (ch : Nat) : State :=
  let src := c.fieldN 24 8
  match s.firstOwnBad seq [⟨src, 128, false, 1⟩] with
  | some va => s.refuseOwn seq va
  | none => s.readFor (accOf seq) seq 4 src 128 (fun bs s =>
      let d := parseDesc seq bs
      if d.sig || d.cq || d.slotted || d.skind || d.dkind || d.reqline != 0 then s.finishBare seq .shapeOver
      else s.startCopy seq ch d)

/-- Whether a DMA_COPY record carries DESC. -/
def Cmd.copyDesc (c : Cmd) : Bool := bitOf (c.fieldN 48 1) 7

/-- A DMA_COPY whose turn has come, on the lowest idle channel; it waits while none is idle (R437). -/
def State.copyTurn (s : State) (seq : Word) (desc : Bool) : State :=
  match s.turnOf seq 0x40, s.idleCopyChan with
  | some c, some ch => if c.copyDesc = desc then (if desc then s.dmaCopyDesc seq c ch else s.dmaCopy seq c ch) else s
  | _, _ => s

/-- DMA_COPY (R437). -/
def execDmaCopy (seq : Word) (s : State) : Host.Outcome State Fault Refusal := .next (s.copyTurn seq false)

/-- DMA_COPY_DESC (R437). -/
def execDmaCopyDesc (seq : Word) (s : State) : Host.Outcome State Fault Refusal := .next (s.copyTurn seq true)

end Sys2Proof.Machine
end

