-- ==== Sys2Proof/Machine/Prep.lean ====
section
/-! DEFINITION. Preparation on the edge engine (R249 to R253): the descriptor, its checks, and the samples it writes, in
FP32 and in the order R250 gives; the order of the operations within a step is a DESIGN CHOICE (log entry 27). -/

namespace Sys2Proof.Machine

/-- A preparation descriptor (R249). -/
structure Prep where
  srcY   : Nat
  srcUV  : Nat
  dst    : Nat
  srcW   : Nat
  srcH   : Nat
  cx     : Nat
  cy     : Nat
  cw     : Nat
  ch     : Nat
  ow     : Nat
  oh     : Nat
  sstr   : Nat
  dstr   : Nat
  depth  : Nat
  matrix : Nat
  full   : Bool
  siting : Bool
  filter : Nat
  layout : Nat
  means  : List Nat
  scales : List Nat
  ofmt   : Nat
  kind   : Nat
  spare  : Bool       -- a reserved bit is set
  deriving DecidableEq, Repr

/-- A preparation descriptor read from its 64 bytes. -/
def parsePrep (b : List Byte) : Prep :=
  let f := recField b
  let p := f 48 1
  let q := f 49 1
  { srcY := f 0 8, srcUV := f 8 8, dst := f 16 8, srcW := f 24 2, srcH := f 26 2, cx := f 28 2, cy := f 30 2, cw := f 32 2, ch := f 34 2
    ow := f 36 2, oh := f 38 2, sstr := f 40 4, dstr := f 44 4, depth := fld p 0 2, matrix := fld p 2 2, full := bitOf p 4
    siting := bitOf p 5, filter := fld q 0 2, layout := fld q 2 2, means := tabulate 3 (fun i => f (50 + 2 * i) 2)
    scales := tabulate 3 (fun i => f (56 + 2 * i) 2), ofmt := f 62 1 % 32, kind := f 63 1 % 4
    spare := fld p 6 2 != 0 || fld q 4 4 != 0 || f 62 1 / 32 != 0 || f 63 1 / 4 != 0 }

/-- Whether a descriptor fails with SHAPE_OVER on its own fields, for a stream job as for a core job (R253). -/
def Prep.shapeBad (p : Prep) : Bool :=
  p.spare || p.kind != 0 || p.matrix == 3 || p.filter == 3 || p.layout == 3 ||
  p.cx % 2 == 1 || p.cy % 2 == 1 || p.cw % 2 == 1 || p.ch % 2 == 1 || p.cw == 0 || p.ch == 0 ||
  p.ow == 0 || p.oh == 0 || decide (8192 < p.ow) || decide (8192 < p.oh) ||
  decide (16 * p.ow < p.cw) || decide (4 * p.cw < p.ow) || decide (16 * p.oh < p.ch) || decide (4 * p.ch < p.oh) ||
  (p.filter == 1 && (decide (p.cw < p.ow) || decide (p.ch < p.oh)))

/-- Whether a core job's source fails with SHAPE_OVER (R249, R253). -/
def Prep.sourceBad (p : Prep) : Bool :=
  decide (1 < p.depth) || p.srcW % 2 == 1 || p.srcH % 2 == 1 || decide (p.srcW < 16) || decide (8192 < p.srcW) ||
  decide (p.srcH < 16) || decide (4352 < p.srcH) || decide (p.srcW < p.cx + p.cw) || decide (p.srcH < p.cy + p.ch)

/-- The output format, where R249 admits it. -/
def Prep.fmt (p : Prep) : Option NumFmt :=
  match p.ofmt with
  | 0x01 => some .bf16 | 0x02 => some .fp16 | 0x03 => some .e4m3 | 0x0D => some .uint8 | 0x0E => some .uint16 | _ => none

/-- Channels a descriptor writes. -/
def Prep.chans (p : Prep) : Nat := if p.layout = 2 then 1 else 3

/-- Rows of the output tensor: planar output holds three planes one after another. -/
def Prep.rows (p : Prep) : Nat := if p.layout = 1 then 3 * p.oh else p.oh

/-- Elements in an output row. -/
def Prep.rowElems (p : Prep) : Nat := if p.layout = 0 then 3 * p.ow else p.ow

/-- Bytes of an output element. -/
def Prep.elemBytes (p : Prep) : Nat := ((p.fmt.getD .bf16).width) / 8

/-- Bytes of an output row. -/
def Prep.rowBytes (p : Prep) : Nat := p.rowElems * p.elemBytes

/-- Bytes from the first to the last byte written. -/
def Prep.span (p : Prep) : Nat := (p.rows - 1) * p.dstr + p.rowBytes

/-- A source picture: its samples' depth, size, and the sample at a position of the luma plane and of a chroma plane
(0 Cb, 1 Cr), both counted from the crop. -/
structure Source where
  depth : Nat
  luma  : Nat → Nat → Nat
  chroma : Nat → Nat → Nat → Nat

/-- An FP32 word from a ratio of integers. -/
def f32Ratio (a : Int) (b : Nat) : Word := toF32 (Num.div (.fin (decide (a < 0)) a.natAbs 0) (.fin false b 0))

/-- k of R250. -/
def depthK (depth : Nat) : Nat := if depth = 0 then 1 else 4

/-- D of R250. -/
def depthD (depth : Nat) : Nat := if depth = 0 then 255 else 1023

/-- Twice-weighted neighbours of a half-resolution sample: the two positions and their weights in quarters, at a co-sited
(`false`) or centred siting. -/
def chromaTaps (centred : Bool) (x n : Nat) : (Nat × Nat) × (Nat × Nat) :=
  let hi := fun i => min i (n - 1)
  if centred then (if x % 2 = 0 then ((x / 2 - 1, 1), (hi (x / 2), 3)) else ((hi (x / 2), 3), (hi (x / 2 + 1), 1)))
  else if x % 2 = 0 then ((hi (x / 2), 4), (hi (x / 2), 0)) else ((hi (x / 2), 2), (hi (x / 2 + 1), 2))

/-- A chroma sample at luma resolution, in sixteenths (R250): SITING horizontally, centred vertically (PRESUMED, log entry 28). -/
def Prep.chromaAt (p : Prep) (src : Source) (c x y : Nat) : Nat :=
  match chromaTaps p.siting x (p.cw / 2), chromaTaps true y (p.ch / 2) with
  | ((x0, a0), (x1, a1)), ((y0, b0), (y1, b1)) =>
    b0 * (a0 * src.chroma c x0 y0 + a1 * src.chroma c x1 y0) + b1 * (a0 * src.chroma c x0 y1 + a1 * src.chroma c x1 y1)

/-- Y′ of a sample (R250). -/
def Prep.lumaNorm (p : Prep) (depth y : Nat) : Word :=
  let k := depthK depth
  if p.full then f32Ratio y (depthD depth) else f32Ratio ((y : Int) - (16 * k : Nat)) (219 * k)

/-- Cb or Cr of a sample in sixteenths (R250). -/
def Prep.chromaNorm (p : Prep) (depth c16 : Nat) : Word :=
  let k := depthK depth
  let a : Int := (c16 : Int) - (16 * 128 * k : Nat)
  if p.full then f32Ratio a (16 * depthD depth) else f32Ratio a (16 * 224 * k)

/-- A value clipped to [0, 1]. -/
def clip01 (w : Word) : Word := if (f32 w).lt (f32 0#32) then 0#32 else if (f32 0x3F800000#32).lt (f32 w) then 0x3F800000#32 else w

/-- Kr and Kb of R251, in ten-thousandths. -/
def Prep.krb (p : Prep) : Nat × Nat :=
  match p.matrix with
  | 0 => (2990, 1140) | 1 => (2126, 722) | _ => (2627, 593)

/-- The colour of a pixel of the crop (R250, R251): R, G, B, or Y′ alone, bounded to [0, 1] as they are (DEDUCED, log entry 125). -/
def Prep.colour (p : Prep) (src : Source) (x y : Nat) : List Word :=
  let yn := p.lumaNorm src.depth (src.luma x y)
  if p.layout = 2 then [clip01 yn]
  else
    match p.krb with
    | (kr, kb) =>
      let cb := p.chromaNorm src.depth (p.chromaAt src 0 x y)
      let cr := p.chromaNorm src.depth (p.chromaAt src 1 x y)
      let r := fadd yn (fmul (f32Ratio (2 * (10000 - kr) : Nat) 10000) cr)
      let b := fadd yn (fmul (f32Ratio (2 * (10000 - kb) : Nat) 10000) cb)
      let g := fdiv (fsub (fsub yn (fmul (f32Ratio kr 10000) r)) (fmul (f32Ratio kb 10000) b)) (f32Ratio (10000 - kr - kb : Nat) 10000)
      [clip01 r, clip01 g, clip01 b]

/-- The two source positions and the weight of the second, for a bilinear output sample (R252). -/
def bilinTaps (o cn on : Nat) : Nat × Nat × Word :=
  let num : Int := (((2 * o + 1) * cn : Nat) : Int) - (on : Nat)
  let den := 2 * on
  let i := num / (den : Int)
  let fr := num % (den : Int)
  let cl := fun (j : Int) => (clampI 0 ((cn : Int) - 1) j).toNat
  (cl i, cl (i + 1), f32Ratio fr den)

/-- A weighted sum of two values. -/
def lerp (w a b : Word) : Word := fadd (fmul (fsub 0x3F800000#32 w) a) (fmul w b)

/-- The source positions an output sample's footprint covers, with the overlap of each as a numerator over the footprint's
length (R252). -/
def areaTaps (o cn on : Nat) : List (Nat × Nat) :=
  let lo := o * cn
  let hi := (o + 1) * cn
  ((List.range (ceilDiv hi on - lo / on)).map (fun k =>
    let i := lo / on + k
    (i, min hi ((i + 1) * on) - max lo (i * on)))).filter (fun p => p.2 != 0)

/-- A resized value (R252), `v` giving the source value at a position of the crop. -/
def Prep.resize (ctr : Nat) (p : Prep) (v : Nat → Nat → Word) (xo yo : Nat) : Word :=
  match p.filter with
  | 0 =>
    match bilinTaps xo p.cw p.ow, bilinTaps yo p.ch p.oh with
    | (x0, x1, wx), (y0, y1, wy) => lerp wy (lerp wx (v x0 y0) (v x1 y0)) (lerp wx (v x0 y1) (v x1 y1))
  | 1 =>
    let xs := areaTaps xo p.cw p.ow
    fsumOpen ctr 0#32 ((areaTaps yo p.ch p.oh).flatMap (fun q => xs.map (fun r =>
      fmul (f32Ratio (q.2 * r.2 : Nat) (p.cw * p.ch)) (v r.1 q.1))))
  | _ => v ((2 * xo + 1) * p.cw / (2 * p.ow)) ((2 * yo + 1) * p.ch / (2 * p.oh))

/-- A channel value as it is written (R250). -/
def Prep.emit (p : Prep) (c : Nat) (x : Word) : Conv :=
  match p.fmt with
  | some .uint8 => NumFmt.convert .uint8 .rne (f32 (fmul 0x437F0000#32 x))
  | some .uint16 => NumFmt.convert .uint16 .rne (f32 (fmul 0x447FC000#32 x))
  | some f =>
    let m := toF32 (NumFmt.value .fp16 (nth p.means c 0))
    let k := toF32 (NumFmt.value .fp16 (nth p.scales c 0))
    f.convert .rne (f32 (fmul (fsub x m) k))
  | none => ⟨0, false, false⟩

/-- The output rows, each as bytes. -/
def Prep.sample (ctr : Nat) (p : Prep) (src : Source) : List (List Byte) :=
  let px := fun c xo yo => p.emit c (p.resize ctr (fun x y => nth (p.colour src x y) c 0) xo yo)
  let put := fun (cv : Conv) => leBytes p.elemBytes cv.bits
  if p.layout = 0 then
    tabulate p.oh (fun yo => (List.range p.ow).flatMap (fun xo => (List.range 3).flatMap (fun c => put (px c xo yo))))
  else
    (List.range p.chans).flatMap (fun c => tabulate p.oh (fun yo => (List.range p.ow).flatMap (fun xo => put (px c xo yo))))

/-- The resized luma at 10 bits (R74, R252), raw samples at 8 bits shifted left by 2; row by row (DEDUCED, log entry 136). -/
def Prep.luma10 (ctr : Nat) (p : Prep) (src : Source) : List Nat :=
  let sh := if src.depth = 0 then 4 else 1
  (List.range p.oh).flatMap (fun yo => (List.range p.ow).map (fun xo =>
    min 1023 (NumFmt.convert .uint16 .rne (f32 (p.resize ctr (fun x y => f32OfInt ((sh * src.luma x y : Nat) : Int)) xo yo))).bits))

/-- The crop clipped to a decoded frame (R250). -/
def Prep.clip (p : Prep) (w h : Nat) : Prep := { p with cw := min p.cw (w - p.cx), ch := min p.ch (h - p.cy) }

/-- A zero sample's rows. -/
def Prep.zeros (p : Prep) : List (List Byte) := List.replicate p.rows (List.replicate p.rowBytes 0)

end Sys2Proof.Machine
end

