-- ==== Sys2Proof/Machine/Kv.lean ====
section
/-! DEFINITION. KV pages of takes and batch sequences, and the memory order of a step boundary (R133 to R140, R153 to
R161). A sequence is numbered by its take index, or from 65,536 by its entry in the sequence table. -/

namespace Sys2Proof.Machine

/-- First number of the batch sequences. -/
def batchBase : Nat := 65536

/-- What the memory order asks of a sequence. -/
structure Holder where
  ix     : Nat
  cls    : Nat
  born   : Nat
  pages  : List PageEnt
  lg     : Nat
  tokens : Nat
  deriving DecidableEq, Repr

/-- A sequence by its number. -/
def State.holder (s : State) (ix : Nat) : Holder :=
  if ix < batchBase then
    let t := s.take ix
    ⟨ix, t.cls, t.born.toNat, t.pages, t.kvLg, t.tokens⟩
  else
    let q := s.seqEnt (ix - batchBase)
    ⟨ix, q.cls, q.born.toNat, q.pages, q.plog.toNat + 12, q.length⟩

/-- The sequences that may be victims: live and not pre-empted. -/
def State.holders (s : State) : List Nat :=
  (s.takes.takes.filter (fun (p : Nat × Take) => p.2.state == .idle || p.2.state == .advancing)).map Prod.fst ++
  (s.kv.seqs.filter (fun (p : Nat × SeqEnt) => p.2.state == .active)).map (fun p => p.1 + batchBase)

/-- The state with a batch sequence written. -/
def State.setSeq (s : State) (i : Nat) (q : SeqEnt) : State := { s with kv := { s.kv with seqs := Tab.put s.kv.seqs i q } }

/-- A sequence's pages written. -/
def State.setHolderPages (s : State) (ix : Nat) (ps : List PageEnt) (tokens window : Nat) : State :=
  if ix < batchBase then
    let s := s.setPages ix ps
    s.setTake ix { s.take ix with tokens := tokens, window := window, grown := true }
  else
    let q := s.seqEnt (ix - batchBase)
    let at_ := if ps.length = q.pages.length then q.listAt else (s.setSeq (ix - batchBase) { q with pages := [] }).listPlace (16 * ps.length)
    s.setSeq (ix - batchBase) { q with pages := ps, length := tokens, listAt := at_, grown := true }

/-- A batch sequence's state, or a take's, set. -/
def State.setHolderState (s : State) (ix : Nat) (t : TakeState) (q : SeqState) : State :=
  if ix < batchBase then s.setTake ix { s.take ix with state := t }
  else s.setSeq (ix - batchBase) { s.seqEnt (ix - batchBase) with state := q }

/-- The running command that holds a sequence. -/
def State.holderCmd (s : State) (ix : Nat) : Option Word :=
  if ix < batchBase then s.advanceOf ix
  else
    let q := (s.seqEnt (ix - batchBase)).owner
    if ((s.cmd? q).map (fun c => c.phase == .running)).getD false then some q else none

/-- Whether a sequence's growth for the step under way is allocated. -/
def State.grown (s : State) (ix : Nat) : Bool := if ix < batchBase then (s.take ix).grown else (s.seqEnt (ix - batchBase)).grown

/-- A sequence at the end of a step: its next growth is yet to come. -/
def State.stepOver (s : State) (ix : Nat) : State :=
  if ix < batchBase then s.setTake ix { s.take ix with grown := false }
  else s.setSeq (ix - batchBase) { s.seqEnt (ix - batchBase) with grown := false }

/-- Tokens per KV page (R137). -/
def tokensPerPage (lg tok : Nat) : Nat := if tok = 0 then 0 else 2 ^ lg / tok

/-- New pages a sequence needs to hold some more tokens, and 1 when its shared last KV page must be copied first (R140). -/
def State.growth (s : State) (h : Holder) (grow tok : Nat) : Nat × Nat :=
  let t := tokensPerPage h.lg tok
  if t = 0 ∨ grow = 0 then (0, 0)
  else
    let last := (h.pages.filter PageEnt.kv).getLast?
    (ceilDiv (h.tokens + grow) t - ceilDiv h.tokens t,
     if h.tokens % t ≠ 0 ∧ (last.map (fun e => decide (2 ≤ s.pageCount e.key))).getD false then 1 else 0)

/-- Bytes of a sequence's growth. -/
def State.growBytes (s : State) (ix grow tok : Nat) : Nat :=
  let h := s.holder ix
  let g := s.growth h grow tok
  (g.1 + g.2) * 2 ^ h.lg

/-- A sequence's growth allocated: its new pages after its highest, with count 1. -/
def State.growHolder (s : State) (ix grow tok : Nat) : Option State :=
  let h := s.holder ix
  let n := (s.growth h grow tok).1
  match s.drawPages h.lg h.cls n with
  | none => none
  | some (bs, s) =>
    let base := alignUp (pagesEnd h.pages) (2 ^ h.lg)
    let new := (bs.zip (List.range n)).map (fun p => ({ offset := base + p.2 * 2 ^ h.lg, lg := h.lg, page := p.1, kv := true } : PageEnt))
    let s := new.foldl (fun s e => { s with takes := { s.takes with counts := Tab.put s.takes.counts e.key 1 } }) s
    some (s.setHolderPages ix (h.pages ++ new) (h.tokens + grow) (base + n * 2 ^ h.lg))

/-- The pages of a sequence that swap out: of count 1, in HBM, unlocked and not moving (R159). -/
def State.ownPages (s : State) (ps : List PageEnt) : List PageEnt :=
  ps.filter (fun e => !e.swapped && s.pageCount e.key == 1 && !s.takes.locks.contains e.key && !s.migrating e.key)

/-- A place in the swap region for each page of a list, taken; none where one page has none (R158). -/
def State.swapPlaces (s : State) : List PageEnt → Option (List (PageEnt × Nat) × State)
  | [] => some ([], s)
  | e :: rest =>
    match s.swapPlace e.lg with
    | none => none
    | some b =>
      match State.swapPlaces (s.takeSwap b e.lg) rest with
      | none => none
      | some (l, s) => some ((e, b) :: l, s)

/-- Whether a sequence belongs to a take set under CUT_TAKES. -/
def State.underCut (s : State) (ix : Nat) : Bool :=
  ix < batchBase && s.cmds.any (fun (p : Nat × Cmd) => p.2.opcode == 0x12 && p.2.phase == .running &&
    p.2.fieldN 24 2 % 4096 == (s.take ix).set.toNat && (s.take ix).set != 0xFFF#12)

/-- Whether a sequence can be swapped out (R158). -/
def State.swappable (s : State) (ix : Nat) : Bool :=
  let ps := s.ownPages (s.holder ix).pages
  !ps.isEmpty && (s.swapPlaces ps).isSome && !s.underCut ix

/-- Whether a short sequence of a class and BORN may take another as a victim (R157). -/
def mayTake (cls born : Nat) (v : Holder) : Bool := if cls = 0 then v.cls == 1 || decide (born < v.born) else v.cls == 1 && decide (born < v.born)

/-- Whether one victim comes before another (R158). -/
def victimBefore (a b : Holder) : Bool :=
  decide (b.cls < a.cls) || (a.cls == b.cls && (decide (b.born < a.born) || (a.born == b.born && decide (b.ix < a.ix))))

/-- The next victim for a short sequence (R157, R158). -/
def State.nextVictim (s : State) (cls born : Nat) : Option Nat :=
  (firstBy victimBefore (((s.holders.map s.holder).filter (fun h => mayTake cls born h && s.swappable h.ix)))).map Holder.ix

/-- PREEMPTED written to a sequence's entry of the batch list its command last showed (R154). -/
def State.markPreempted (s : State) (q : Word) (i : Nat) : State :=
  match s.cmd? q with
  | none => s
  | some c =>
    match s.batchLists c with
    | [] => s
    | a :: _ =>
      let id := 2 ^ 31 + 65536 * (s.seqEnt i).gen.toNat + i
      let bs := s.fetchVA (accOf q) a (16 * c.listLen)
      match (List.range c.listLen).find? (fun k => recField bs (16 * k) 4 == id) with
      | none => s
      | some k => s.storeVA (accOf q) (a + 16 * k + 4) (leBytes 1 (recField bs (16 * k + 4) 1 ||| 16))

/-- A victim taken (R159): its batch pre-empted, its count-1 pages on their way to the swap region, PREEMPTED. -/
def State.takeVictim (s : State) (ix : Nat) (taker : Word) : State :=
  match s.swapPlaces (s.ownPages (s.holder ix).pages) with
  | none => s
  | some (l, s) =>
    let owner := s.holderCmd ix
    let s := match owner with
      | none => s
      | some q => (s.sched.kerns.filter (fun (k : Kern) => k.seq == q && k.phase == KernPhase.running)).foldl (fun s k => s.preempt k .victim) s
    let migs := l.map (fun p => ({ leafVa := none, src := p.1.page, srcLoc := 0, lg := p.1.lg, dst := p.2, dstLoc := 1, cause := .swapOut ix } : Migration))
    let s := { s with mem := { s.mem with migs := s.mem.migs ++ migs } }
    let s := match owner with
      | none => s
      | some q =>
        let s := s.updCmd q (fun c => { c with data := { c.data with kvOut := c.data.kvOut + l.length } })
        if q = taker then s else s.updCmd taker (fun c => { c with data := { c.data with kvVictims := c.data.kvVictims + 1 } })
    let s := match owner with
      | some q => if batchBase ≤ ix then s.markPreempted q (ix - batchBase) else s
      | none => s
    s.setHolderState ix .preempted .preempted

/-- HBM bytes on their way out to the swap region. -/
def State.leavingBytes (s : State) : Nat :=
  s.mem.migs.foldl (fun a m => a + (match m.cause with | .swapOut _ => 2 ^ m.lg | _ => 0)) 0

/-- A sequence that asks for growth at a boundary: its number and its tokens. -/
abbrev Ask := Nat × Nat

/-- Bytes asked by the sequences of a class. -/
def State.asked (s : State) (tok cls : Nat) (l : List Ask) : Nat :=
  (l.filter (fun a => (s.holder a.1).cls == cls)).foldl (fun n a => n + s.growBytes a.1 a.2 tok) 0

/-- Whether asks fit the free pool by their bytes, some bytes counted as free already. -/
def State.asksFit (s : State) (tok more : Nat) (l : List Ask) : Bool :=
  decide (s.asked tok 1 l ≤ s.freeFor 1 + more) && decide (s.asked tok 0 l + s.asked tok 1 l ≤ s.freeFor 0 + more)

/-- Asks in the order of allocation: latency-critical first, then ascending BORN. -/
def State.askOrder (s : State) (l : List Ask) : List Ask :=
  l.foldl (fun acc a =>
    let h := s.holder a.1
    let before := acc.takeWhile (fun b => let k := s.holder b.1; decide (k.cls < h.cls) || (k.cls == h.cls && decide (k.born ≤ h.born)))
    before ++ [a] ++ acc.drop before.length) []

/-- The asks of a boundary that find no pages when all are drawn in the order of allocation, the copies of R140 among them (R153): the
sequences that are short. -/
def State.shortAsks (s : State) (tok : Nat) : List Ask → List Ask
  | [] => []
  | a :: rest =>
    let h := s.holder a.1
    let g := s.growth h a.2 tok
    match s.drawPages h.lg h.cls (g.1 + g.2) with
    | none => a :: State.shortAsks s tok rest
    | some (_, s) => State.shortAsks s tok rest

/-- Whether every ask of a boundary finds its pages. -/
def State.asksMet (s : State) (tok : Nat) (l : List Ask) : Bool := (s.shortAsks tok (s.askOrder l)).isEmpty

/-- The short sequence that speaks for a boundary: the first in the order of allocation (DEDUCED, log entry 17). -/
def State.spokesman (s : State) (tok : Nat) (l : List Ask) : Option Holder := ((s.shortAsks tok (s.askOrder l)).head?).map (fun a => s.holder a.1)

/-- The short sequence pre-empted when no victim is left (R160). -/
def State.lastResort (s : State) (tok : Nat) (l : List Ask) : Option Holder :=
  firstBy (fun a b => decide (b.born < a.born) || (a.born == b.born && decide (b.ix < a.ix)))
    ((s.shortAsks tok (s.askOrder l)).map (fun a => s.holder a.1))

/-- How the growth of a boundary stands. -/
inductive Verdict where
  | fits | waits | exhausted
  deriving DecidableEq, Repr

/-- Victims taken until the asks of a boundary fit, or will once pages on their way out are freed (R158 to R160); asks of
sequences pre-empted on the way fall away. -/
def State.meetGrowth (s : State) (seq : Word) (tok : Nat) : Nat → List Ask → State × List Ask × Verdict
  | 0, l => (s, l, .exhausted)
  | n + 1, l =>
    if s.asksMet tok l then (s, l, .fits)
    else if 0 < s.leavingBytes ∧ s.asksFit tok s.leavingBytes l then (s, l, .waits)
    else
      match s.spokesman tok l with
      | none => (s, l, .exhausted)
      | some h =>
        match s.nextVictim h.cls h.born with
        | some v => State.meetGrowth (s.takeVictim v seq) seq tok n (l.filter (fun a => a.1 != v))
        | none =>
          match s.lastResort tok l with
          | none => (s, l, .exhausted)
          | some v => if s.swappable v.ix then State.meetGrowth (s.takeVictim v.ix seq) seq tok n (l.filter (fun a => a.1 != v.ix))
                      else (s, l, .exhausted)

/-- Growth allocated for each ask in order; none when a page cannot be drawn. -/
def State.growAll (s : State) (tok : Nat) : List Ask → Option State
  | [] => some s
  | a :: rest =>
    match s.growHolder a.1 a.2 tok with
    | none => none
    | some s => State.growAll s tok rest

/-- A pre-empted sequence brought back (R161): its swapped pages on their way into HBM, flag bit 6 of its command (R162);
none when pages cannot be drawn. -/
def State.resumeHolder (s : State) (ix : Nat) (seq : Word) : Option State :=
  let h := s.holder ix
  let out := h.pages.filter PageEnt.swapped
  let step := fun (acc : Option State) (e : PageEnt) =>
    acc.bind (fun s => (s.drawPage e.lg h.cls (fun _ => true)).map (fun p =>
      { p.2 with mem := { p.2.mem with migs := p.2.mem.migs ++
        [{ leafVa := none, src := e.page, srcLoc := 1, lg := e.lg, dst := p.1, dstLoc := 0, cause := .swapIn ix }] } }))
  (out.foldl step (some s)).map (fun s =>
    let s := (s.setHolderState ix .advancing .active).setFlag seq 6
    s.updCmd seq (fun c => { c with data := { c.data with kvResumed := c.data.kvResumed + 1, kvIn := c.data.kvIn + out.length } }))

/-- Pre-empted sequences of a command in the order of resumption (R161). -/
def State.resumeOrder (s : State) (l : List Nat) : List Nat :=
  l.foldl (fun acc ix =>
    let h := s.holder ix
    let before := acc.takeWhile (fun b => let k := s.holder b
      decide (k.cls < h.cls) || (k.cls == h.cls && (decide (k.born < h.born) || (k.born == h.born && decide (b < ix)))))
    before ++ [ix] ++ acc.drop before.length) []

/-- HBM bytes a class may still take at a boundary, the growth asked by continuing sequences set apart (R153). -/
def State.availFor (s : State) (tok cls : Nat) (asks : List Ask) : Nat := s.freeFor cls - (s.asked tok 0 asks + s.asked tok 1 asks)

/-- Resuming sequences met one after another until one does not fit (R153, R161): whether all were met, and the asks with
those met added. -/
def State.resumeAll (s : State) (seq : Word) (tok : Nat) (grow : Nat → Nat) : List Nat → List Ask → State × Bool × List Ask
  | [], asks => (s, true, asks)
  | ix :: rest, asks =>
    let h := s.holder ix
    let need := (h.pages.filter PageEnt.swapped).foldl (fun a e => a + 2 ^ e.lg) 0 + s.growBytes ix (grow ix) tok
    if s.availFor tok h.cls asks < need ∨ s.mem.migs.any (fun m => m.cause == .swapOut ix) then (s, false, asks)
    else
      match s.resumeHolder ix seq with
      | none => (s, false, asks)
      | some s' =>
        let more := asks ++ [(ix, grow ix)]
        if s'.asksMet tok (more.filter (fun a => a.2 != 0)) then State.resumeAll s' seq tok grow rest more else (s, false, asks)

end Sys2Proof.Machine
end

