-- ==== Sys2Proof/Machine/Reels.lean ====
section
/-! DEFINITION. Reels (03_reels): fold arithmetic, chunks, residency, and the reel commands. -/

namespace Sys2Proof.Machine

/-! ### Fold arithmetic -/

/-- Exponent of ulp of an FP32 value (R104). -/
def ulpExp (w : Word) : Int := let e := fld w.toNat 23 8; if e = 0 then -149 else (e : Int) - 150

/-- A compensation word as a number. -/
def compNum (v : Word) (c : Half) : Num := .fin c.msb (c.toInt.natAbs) (ulpExp v - 15)

/-- A finite number cut toward zero to a multiple of `2^q`. -/
def Num.cut (x : Num) (q : Int) : Num :=
  match x with
  | .fin neg m e => if q ≤ e then x else .fin neg (m >>> (q - e).toNat) q
  | _ => x

/-- A finite number rounded half to even to an integer. -/
def Num.roundInt (x : Num) : Int :=
  match x with
  | .fin neg m e => signedMag neg (roundTo .rne m e 0)
  | _ => 0

/-- The reel's value of record, `V + C × ulp(V) × 2^-15` (R104). -/
def reelValue (v : Word) (c : Half) : Num := (f32 v).add (compNum v c)

/-- A folded element: V, C, and whether R106 or R219 handled it. -/
structure Folded where
  v   : Word
  c   : Half
  bad : Bool
  deriving DecidableEq, Repr

/-- The fold of one element (R105, R106, R219). -/
def foldElem (v : Word) (c : Half) (d : Word) : Folded :=
  let t := (reelValue v c).add ((f32 d).cut (ulpExp v - 40))
  let vn := toF32 t
  if (f32 vn).isNan || (f32 vn).isInf then ⟨vn, 0, true⟩
  else
    let r := (t.add (f32 vn).neg).scale (15 - ulpExp vn)
    ⟨vn, BitVec.ofInt 16 r.roundInt, false⟩

/-- The larger of a magnitude seen and an element's magnitude, a NaN passed over (log entry 18). -/
def magObs (m : Word) (v : Word) : Word :=
  let a := v &&& 0x7FFFFFFF#32
  if (f32 v).isNan then m else if m.toNat < a.toNat then a else m

/-- DRIFT (R112): `4 u √FOLDS + A_max`, each operation in FP32 (DESIGN CHOICE, log entry 18). -/
def driftOf (folds aMax : Word) : Word := fadd (fmul 0x34800000#32 (fsqrt (f32OfInt folds.toNat))) aMax

/-- The in-chunk formats of R103. -/
def reelFormat (code : Nat) : Option NumFmt :=
  match numFmtOfCode code with
  | some .fp32 => some .fp32 | some .bf16 => some .bf16 | some .fp16 => some .fp16 | some .e4m3 => some .e4m3
  | _ => none

/-- D rounded to the in-chunk format at a step's end (R102): the value, and the amount discarded. -/
def stepRound (f : NumFmt) (d : Word) : Word × Word :=
  let r := toF32 (f.value (f.convert .rne (f32 d)).bits)
  (r, toF32 ((f32 d).add (f32 r).neg).abs)

/-! ### Slots and places -/

/-- log2 of the slot width of an element count (R93). -/
def widthLog (elements : Nat) : Nat := max 6 (Nat.log2 (max 1 (elements - 1)) + (if elements ≤ 1 then 0 else 1))

/-- Bytes of a reel's store image. -/
def Reel.image (r : Reel) : Nat := if r.state = .free then 0 else 6 * r.elements

/-- Bytes in use in the reel store. -/
def State.reelUsed (s : State) : Nat := s.reels.reels.foldl (fun a p => a + p.2.image) 0

/-- Where an image of some bytes goes in the reel store. -/
def State.imagePlace (s : State) (n : Nat) : Option Nat :=
  let l : List (Nat × Nat) := (s.reels.reels.map (fun (p : Nat × Reel) => (p.2.store, p.2.image))).filter (fun e => e.2 != 0)
  fitAt n s.rushBase s.reelBase (l.foldl (fun a e => insExtent e a) [])

/-- Wide elements a place covers in its bank or shelf slot. -/
def ReelPlace.span (p : ReelPlace) : Nat × Nat := (p.row * 2 ^ p.wlog, 2 ^ p.wlog)

/-- Whether two rows lie in one bank or shelf slot and cannot both stand: they overlap, or their widths differ within
one reel slot (R94). -/
def ReelPlace.clashes (p q : ReelPlace) : Bool :=
  p.core == q.core && p.bank == q.bank && p.shelf == q.shelf && p.slot == q.slot &&
  (let a := p.span
   let b := q.span
   (decide (a.1 < b.1 + b.2) && decide (b.1 < a.1 + a.2)) ||
   (p.wlog != q.wlog && (a.1 / max 4096 a.2 * max 4096 a.2 < b.1 + max 4096 b.2 && b.1 / max 4096 b.2 * max 4096 b.2 < a.1 + max 4096 a.2)))

/-- The rows taken: those of reels that stand in one, and those that moves under way go to. -/
def State.placed (s : State) : List (Nat × ReelPlace) :=
  s.reels.reels.filterMap (fun (p : Nat × Reel) => p.2.place.map (fun q => (p.1, q))) ++ s.reels.moves

/-- The reels in the way of a row for a reel. -/
def State.inTheWay (s : State) (i : Nat) (p : ReelPlace) : List Nat :=
  ((s.placed.filter (fun q => q.1 != i && p.clashes q.2)).map Prod.fst).eraseDups

/-- The reels in rows of another width in a bank that a chunk is to run on (R96). -/
def State.otherWidth (s : State) (p : ReelPlace) : List Nat :=
  ((s.placed.filter (fun q => q.2.core == p.core && q.2.bank == p.bank && !q.2.shelf && q.2.wlog != p.wlog)).map Prod.fst).eraseDups

/-- The free shelf row of a core for a width, if any (R94). -/
def State.shelfRow (s : State) (w wlog : Nat) : Option ReelPlace :=
  if 12 < wlog then none
  else ((List.range 8).flatMap (fun k => (List.range (4096 / 2 ^ wlog)).map (fun r => (⟨w, 0, true, k, r, wlog⟩ : ReelPlace)))).find?
    (fun p => (s.inTheWay 65536 p).isEmpty)

/-- Whether a reel moves between a bank and the shelf of its core. -/
def State.moving (s : State) (i : Nat) : Bool := s.reels.moves.any (fun m => m.1 == i)

/-- The reels of a core on their way to the store. -/
def State.leavingReels (s : State) (w : Nat) : List Nat :=
  (s.reels.reels.filter (fun (p : Nat × Reel) => p.2.state == .swapOut && p.2.place.map ReelPlace.core == some w)).map Prod.fst

/-- Whether a swap-out has begun to write its image (R118): a core writes one at a time, the next the lowest that waits
(DESIGN CHOICE, log entry 117). -/
def State.hasBegun (s : State) (i : Nat) : Bool :=
  let r := s.reel i
  let on := s.leavingReels ((r.place.map ReelPlace.core).getD 544)
  r.begun || (!on.any (fun j => (s.reel j).begun) && on.head? == some i)

/-- A shelf move issued: the scratchpad banks of its core, which hold the shelf, wake (R387). -/
def State.moveReel (s : State) (i : Nat) (q : ReelPlace) : State :=
  let s := (List.range 16).foldl (fun s b => s.wakeBank (0, q.core, b)) s
  { s with reels := { s.reels with moves := s.reels.moves ++ [(i, q)] } }

/-- A resident reel chosen as a victim (R117): to a free shelf row of its core, else on its way to the store, which begins where no
other of its core's has begun. -/
def State.evict (s : State) (i : Nat) : State :=
  let r := s.reel i
  match r.state, r.place with
  | .resident, some p =>
    if s.moving i then s
    else
      match (if p.shelf then none else s.shelfRow p.core p.wlog) with
      | some q => s.moveReel i q
      | none => s.setReel i { r with state := .swapOut, begun := (s.leavingReels p.core).isEmpty }
  | _, _ => s

/-- A swap-in issued into a row that is free. -/
def State.swapIn (s : State) (i : Nat) (p : ReelPlace) (who : Option Word) : State :=
  s.setReel i { s.reel i with state := .swapIn, place := some p, swapFor := who }

/-- The cores in service (R5): those that hold a rank. -/
def State.serving (s : State) : List Nat := (List.range 32).flatMap (fun n => (List.range 16).filterMap (fun r => s.rankCore n r))

/-- The first free bank row of the cores in service for a width (R94, R95). -/
def State.freeRow (s : State) (i wlog : Nat) : Option ReelPlace :=
  let rows := 16384 / 2 ^ wlog
  s.serving.findSome? (fun w =>
    ((List.range (2 * rows)).map (fun k => (⟨w, k / rows, false, 0, k % rows, wlog⟩ : ReelPlace))).find? (fun p => (s.inTheWay i p).isEmpty))

/-- Whether one reel is a better victim than another (R117). -/
def State.reelBefore (s : State) (a b : Nat) : Bool :=
  let held := fun i => s.reels.chunks.any (fun c => c.reels.contains i)
  let ra := s.reel a
  let rb := s.reel b
  if held a != held b then !held a else if ra.cls != rb.cls then decide (rb.cls < ra.cls) else decide (ra.foldAt < rb.foldAt)

/-- A swap-in that no chunk holds, issued where a row is free; else it is kept as wanted and the next victim makes way (R117, R123). -/
def State.bringIn (s : State) (i : Nat) : State :=
  let wanted := s.reels.wanted.filter (fun j => j != i)
  match s.freeRow i (s.reel i).wlog.toNat with
  | some p => { s with reels := { s.reels with wanted := wanted } }.swapIn i p none
  | none =>
    let s := { s with reels := { s.reels with wanted := wanted ++ [i] } }
    match firstBy s.reelBefore ((s.reels.reels.filter (fun (p : Nat × Reel) =>
        p.2.state == .resident && !s.moving p.1 && (p.2.place.map (fun q => !q.shelf)).getD false)).map Prod.fst) with
    | some v => s.evict v
    | none => s

/-- The wanted swap-ins looked at again: those of reels stored still (R123). -/
def State.bringWanted (s : State) : State :=
  s.reels.wanted.foldl (fun s i =>
    if (s.reel i).state = .stored then s.bringIn i
    else { s with reels := { s.reels with wanted := s.reels.wanted.filter (fun j => j != i) } }) s

/-! ### Movements -/

/-- REEL_SWAP_IN_DONE (R114): the rows are written. -/
def execReelSwapInDone (reel : Half) (s : State) : Host.Outcome State Fault Refusal :=
  let r := s.reel reel.toNat
  if r.state = .swapIn then
    .next ((s.setReel reel.toNat { r with state := .resident, v := r.imgV, c := r.imgC, imgOk := true }).reapReel reel.toNat)
  else .next s

/-- REEL_SWAP_OUT_DONE (R114): the image is written. -/
def execReelSwapOutDone (reel : Half) (s : State) : Host.Outcome State Fault Refusal :=
  let r := s.reel reel.toNat
  if r.state = .swapOut then
    .next ((s.setReel reel.toNat { r with
      state := .stored, place := none, imgV := r.v, imgC := r.c, imgOk := true, begun := false, v := [], c := [] }).reapReel reel.toNat)
  else .next s

/-- SHELF_MOVE_DONE (R96, R97): a reel's row stands at its new place. -/
def execShelfMoveDone (reel : Half) (s : State) : Host.Outcome State Fault Refusal :=
  match s.reels.moves.find? (fun m => m.1 == reel.toNat) with
  | none => .next s
  | some m =>
    let s := { s with reels := { s.reels with moves := s.reels.moves.filter (fun k => k.1 != m.1) } }
    .next (s.setReel m.1 { s.reel m.1 with place := some m.2 })

/-! ### Chunks -/

/-- A chunk descriptor (R98). -/
structure ChunkDesc where
  steps  : Nat
  format : Nat
  masked : Bool
  wb     : Bool
  count  : Nat
  wlog   : Nat
  list   : Nat
  masks  : Nat
  deriving DecidableEq, Repr

/-- A chunk descriptor read from its bytes. -/
def parseChunk (b : List Byte) : ChunkDesc :=
  { steps := recField b 0 2, format := recField b 2 1 % 32, masked := (recField b 3 1).testBit 0, wb := (recField b 3 1).testBit 1
    count := recField b 4 2, wlog := recField b 6 1 % 16, list := recField b 8 8, masks := recField b 16 8 }

/-- The check of a chunk descriptor on a placement of some cores (R99, R103, R132). -/
def State.chunkCheck (s : State) (d : ChunkDesc) (ids : List Nat) (cores : Nat) : Option Status :=
  let rs := ids.map (fun id => s.reelOf id)
  if d.count = 0 ∨ rs.any Option.isNone then some .zeroExtent
  else
    let es : List Reel := rs.filterMap (fun o => o.map (fun i => s.reel i))
    if d.steps = 0 ∨ 256 < d.steps ∨ d.wlog < 6 ∨ 14 < d.wlog ∨ es.any (fun r => decide (2 ^ d.wlog < r.elements)) ∨
       ids.eraseDups.length ≠ ids.length ∨ cores * 2 * (16384 / 2 ^ d.wlog) < d.count then some .shapeOver
    else if (reelFormat d.format).isNone ∨ es.any (fun r => r.format.toNat != d.format) then some .rejectedFormat
    else if es.any (fun r => r.state == .lost) then some .coreFenced
    else none

/-- The place of the n-th reel of a chunk on its cores: row after row, bank after bank (R99). -/
def chunkPlace (cores : List Nat) (wlog n : Nat) : ReelPlace :=
  let rows := 16384 / 2 ^ wlog
  ⟨nth cores (n / rows / 2) 0, n / rows % 2, false, 0, n % rows, wlog⟩

/-- The reels of a chunk with the rows they run in. -/
def Chunk.rows (c : Chunk) (cores : List Nat) : List (Nat × ReelPlace) :=
  c.reels.zip ((List.range c.reels.length).map (fun n => chunkPlace cores c.wlog n))

/-- Whatever stands in the way of a chunk's row sent off it (R96, R117): the row is fixed by R99, so no other victim would do
(DEDUCED, log entry 116). -/
def State.clearRow (s : State) (i : Nat) (p : ReelPlace) : State :=
  ((s.inTheWay i p ++ s.otherWidth p).eraseDups.filter (fun k => k != i)).foldl (fun s k => s.evict k) s

/-- A reel brought towards its row in a chunk (R115, R118): what is in its way makes way, a reel that stands elsewhere leaves
(DEDUCED, log entry 116), a stored reel is swapped in once its row is free, a swap-out not begun is cancelled. -/
def State.drawReel (s : State) (seq : Word) (p : ReelPlace) (i : Nat) : State :=
  let s := s.clearRow i p
  let r := s.reel i
  match r.state with
  | .stored => if (s.inTheWay i p).isEmpty then s.swapIn i p (some seq) else s
  | .swapOut => if s.hasBegun i then s else s.setReel i { r with state := .resident }
  | .resident =>
    if r.place = some p ∨ s.moving i then s
    else if (r.place.map (fun q => q.shelf && q.core == p.core && q.wlog == p.wlog)).getD false && (s.inTheWay i p).isEmpty then
      s.moveReel i p
    else s.setReel i { r with state := .swapOut, begun := (s.leavingReels ((r.place.map ReelPlace.core).getD 544)).isEmpty }
  | _ => s

/-- Whether a reel may be pinned in its row: resident there and not moving (R116), or pinned already in a replay whose row is free. -/
def State.reelReady (s : State) (again : Bool) (i : Nat) (p : ReelPlace) : Bool :=
  let r := s.reel i
  (s.otherWidth p).isEmpty && (s.inTheWay i p).isEmpty &&
  ((r.state == .resident && r.place == some p && !s.moving i) || (again && r.state == .pinned))

/-- The state as a step of a chunk reads it (R102, R219): V + D of every element, converted to the in-chunk format; a row reset in the
chunk has V zero. No instruction of the table names it as an operand (log entry 61). -/
def State.readState (s : State) (c : Chunk) : Chunk :=
  let f := (reelFormat c.format.toNat).getD .fp32
  { c with seen := (List.range c.reels.length).map (fun n =>
      let r := s.reel (nth c.reels n 0)
      let d := Tab.at c.deltas n (List.replicate r.elements 0#32)
      (n, (List.range r.elements).map (fun i =>
        (f.convert .rne (f32 (fadd (if (Tab.find c.zeroed n).isSome then 0#32 else nth r.v i 0#32) (nth d i 0#32)))).bits))) }

/-- The start of a chunk's step: its mask applied before its first read (R108, R109), rows set starting from zero, and the state read
(R102). A mask that does not translate ends the command. -/
def State.maskStep (s : State) (c : Chunk) (k : State → Chunk → State) : State :=
  if !c.masked then k s (s.readState c)
  else
    let rows := 16384 / 2 ^ c.wlog
    let banks := ceilDiv c.reels.length rows
    s.readFor (accOf c.seq) c.seq 0 (c.masks + (c.base + c.step) * banks * 32) (32 * banks) (fun bs s =>
      let hit := (List.range c.reels.length).filter (fun n => (leNat (slice bs (n / rows * 32) 32)).testBit (n % rows))
      let s := hit.foldl (fun s n =>
        let i := nth c.reels n 0
        s.setReel i { s.reel i with steps := 0, folds := 0, drift := 0, mObs := 0, aMax := 0 }) s
      k s (s.readState { c with
        deltas := hit.foldl (fun t n => Tab.put t n (List.replicate ((s.reel (nth c.reels n 0)).elements) 0#32)) c.deltas
        losses := hit.foldl (fun t n => Tab.put t n 0#32) c.losses
        zeroed := hit.foldl (fun t n => Tab.put t n c.step) c.zeroed }))

/-- Whether the masks of all a chunk's steps are at hand where a peer holds them. -/
def State.masksHere (s : State) (c : Chunk) : Bool :=
  !c.masked || s.peerReady (accOf c.seq) (c.masks + c.base * ceilDiv c.reels.length (16384 / 2 ^ c.wlog) * 32)
    (c.steps * ceilDiv c.reels.length (16384 / 2 ^ c.wlog) * 32)

/-- Requests sent for a chunk's masks. -/
def State.askMasks (s : State) (c : Chunk) : State :=
  s.askPeers (accOf c.seq) (c.masks + c.base * ceilDiv c.reels.length (16384 / 2 ^ c.wlog) * 32)
    (c.steps * ceilDiv c.reels.length (16384 / 2 ^ c.wlog) * 32)

/-- The state with a kernel's chunk written. -/
def State.setChunk (s : State) (c : Chunk) : State :=
  { s with reels := { s.reels with chunks := s.reels.chunks.map (fun k => if k.seq == c.seq && k.layer == c.layer then c else k) } }

/-- Live reel entries. -/
def State.liveReels (s : State) : Nat := (s.reels.reels.filter (fun (p : Nat × Reel) => p.2.state != .free)).length

/-- A shared reel copied into a row of its own for a holder (R57, R114, R130): none where no reel entry is free. The place of its store
image is the store's base where no gap fits it (DESIGN CHOICE, log entry 111). -/
def State.slotCopy (s : State) (t i : Nat) (p : ReelPlace) : Option (Nat × State) :=
  let r := s.reel i
  match firstFrom (fun j => (s.reel j).state == .free) 65536 0 with
  | some j =>
    let live := r.state == .resident || r.state == .swapOut
    let n : Reel := { r with gen := (s.reel j).gen, count := 1, soft := false, state := .resident, place := some p
                             store := (s.imagePlace (6 * r.elements)).getD s.reelBase, begun := false
                             v := if live then r.v else r.imgV, c := if live then r.c else r.imgC, imgV := [], imgC := [], imgOk := false }
    let s := (s.setReel j n).setReel i { r with count := r.count - 1 }
    let k := s.take t
    some (j, s.setTake t { k with reels := k.reels.map (fun id => if id.toNat % 65536 = i then BitVec.ofNat 32 (j + 65536 * n.gen.toNat) else id) })
  | none => none

/-- One shared reel of a chunk copied for its holder once its row is free (R57, R130); the last holder left advances it in place. -/
def State.copyShared (s : State) (c : Chunk) (cores : List Nat) (q : Nat × Nat) : State × Chunk :=
  let i := nth c.reels q.1 0
  let p := chunkPlace cores c.wlog q.1
  let rest := c.copies.filter (fun x => x != q)
  if (s.reel i).count.toNat ≤ 1 then (s, { c with copies := rest })
  else if !(s.inTheWay 65536 p).isEmpty || !(s.otherWidth p).isEmpty then (s.clearRow 65536 p, c)
  else
    match s.slotCopy q.2 i p with
    | none => (s, c)
    | some (j, s) => (s, { c with copies := rest, reels := c.reels.set q.1 j })

/-- A chunk's reels moved one step nearer their rows, or the chunk dispatched and its reels pinned (R115, R130). -/
def State.tryChunk (s : State) (c : Chunk) (cores : List Nat) : State :=
  if 65536 < s.liveReels + c.copies.length then s.endCmd c.seq .pageExhausted
  else
    match c.copies.foldl (fun p q => p.1.copyShared p.2 cores q) (s, c) with
    | (s, c) =>
      let s := s.setChunk c
      let rows := c.rows cores
      if c.copies.isEmpty && rows.all (fun q => s.reelReady c.again q.1 q.2) then
        if !s.masksHere c then s.askMasks c
        else
          let c := { c with running := true, again := false }
          let s := rows.foldl (fun s q => s.setReel q.1 { s.reel q.1 with state := .pinned, place := some q.2 }) s
          (s.setChunk c).maskStep c (fun s c => s.setChunk c)
      else rows.foldl (fun s q => s.drawReel c.seq q.2 q.1) s

/-- The positions of a chunk whose reel is shared, each with the first of the command's takes that holds it (R57). -/
def State.shares (s : State) (takes reels : List Nat) : List (Nat × Nat) :=
  (List.range reels.length).filterMap (fun n =>
    let i := nth reels n 0
    if (s.reel i).count.toNat ≤ 1 then none
    else (takes.find? (fun t => (s.take t).reels.any (fun id => s.reelOf id.toNat == some i))).map (fun t => (n, t)))

/-- A new chunk of a kernel checked and tried (R99, R101, R115, R130, R131): the steps its descriptor has left. -/
def State.newChunk (s : State) (seq : Word) (c : Cmd) (k : Kern) (d : ChunkDesc) (ids : List Nat) : State :=
  match s.chunkCheck d ids k.cores.length with
  | some st => s.endCmd seq st
  | none =>
    let reels := ids.filterMap (fun id => s.reelOf id)
    let ran := Tab.at c.chunkFrom k.layer 0
    let h : Chunk :=
      { seq := seq, layer := k.layer, steps := d.steps - ran, base := ran, format := BitVec.ofNat 5 d.format, masked := d.masked, wb := d.wb
        wlog := d.wlog, reels := reels, masks := d.masks, copies := s.shares c.takes reels
        deltas := (List.range reels.length).map (fun n => (n, List.replicate ((s.reel (nth reels n 0)).elements) 0#32)) }
    let s := ({ s with reels := { s.reels with chunks := s.reels.chunks ++ [h] } }).tryChunk h k.cores
    if (s.chunkAt k).isSome then s
    else s.updCmd seq (fun c => { c with data := { c.data with chunksHeld := c.data.chunksHeld + 1 } })

/-- The address of a kernel's chunk descriptor, if its program names one (R98). -/
def State.chunkDesc (s : State) (c : Cmd) (k : Kern) : Option Nat :=
  (s.entOf k).bind (fun e => s.paramAddr c e.pChunk)

/-- Whether a stage waits for an entry no longer (R380, R381). -/
def PfRun.settled (r : PfRun) : Bool := r.done || (r.decided && (r.kind == 1 || r.kind == 2))

/-- Whether the inputs of a kernel's steps are present (R100; DEDUCED, log entry 114): its stage's prefetch entries have settled and every
slot of its sample lists has. -/
def State.inputsHere (s : State) (c : Cmd) (k : Kern) : Bool :=
  c.prefs.all (fun r => r.layer != k.layer || r.kind == 2 || r.need != k.stage || r.settled) &&
  s.video.runs.all (fun r => r.seq != k.seq || r.layer != k.layer || decide (r.slots.length ≤ r.settled))

/-- The kernel whose chunk CHUNK_DISPATCH acts on: the first of the command's with cores, inputs, a descriptor or a held chunk, and none
running (R99, R100). -/
def State.chunkTurn (s : State) (seq : Word) (c : Cmd) : Option Kern :=
  s.sched.kerns.find? (fun k => k.seq == seq && !k.cores.isEmpty && (s.chunkAt k).isNone && s.inputsHere c k &&
    (s.reels.chunks.any (fun h => h.seq == seq && h.layer == k.layer) || (s.chunkDesc c k).isSome))

/-- CHUNK_DISPATCH (R98 to R101, R115, R130): a placed kernel's held chunk, or the one its descriptor names. -/
def execChunkDispatch (seq : Word) (s : State) : Host.Outcome State Fault Refusal :=
  match s.cmd? seq with
  | none => .next s
  | some c =>
    match (if c.phase = .running then s.chunkTurn seq c else none) with
    | none => .next s
    | some k =>
      match s.reels.chunks.find? (fun h => h.seq == seq && h.layer == k.layer) with
      | some h => .next (s.tryChunk h k.cores)
      | none =>
        match s.chunkDesc c k with
        | none => .next s
        | some a => .next (s.readFor (accOf seq) seq 0 a 32 (fun b s =>
            let d := parseChunk b
            s.readFor (accOf seq) seq 0 d.list (4 * d.count) (fun lb s =>
              s.newChunk seq c k d (tabulate d.count (fun i => recField lb (4 * i) 4)))))

/-- The end of a step inside a chunk: every D rounded to the in-chunk format, the largest discarded amount of each reel
added to its sum (R102, R112). -/
def Chunk.endStep (c : Chunk) : Chunk :=
  let f := (reelFormat c.format.toNat).getD .fp32
  { c with
    step := c.step + 1
    deltas := c.deltas.map (fun p => (p.1, p.2.map (fun d => (stepRound f d).1)))
    losses := c.deltas.foldl (fun t p => Tab.upd t p.1 0#32 (fun a => fadd a (p.2.foldl (fun m d => magObs m (stepRound f d).2) 0#32))) c.losses }

/-- What a fold makes of a reel (R105, R106, R110, R112). -/
def Reel.folded (r : Reel) (c : Chunk) (n tick cls : Nat) (seq : Word) (ran : Nat) : Reel × Bool :=
  let zero := Tab.find c.zeroed n
  let d := Tab.at c.deltas n (List.replicate r.elements 0#32)
  let out := (List.range r.elements).map (fun i =>
    foldElem (if zero.isSome then 0 else nth r.v i 0) (if zero.isSome then 0 else nth r.c i 0) (nth d i 0))
  let obs := out.foldl (fun m e => magObs m e.v) r.mObs
  let loss := Tab.at c.losses n 0#32
  let a := if loss = 0 then 0#32 else fdiv loss obs
  let aMax := magObs r.aMax a
  let folds := r.folds + 1
  let drift := driftOf folds aMax
  let bad := out.any Folded.bad
  let v := out.map Folded.v
  let cc := out.map Folded.c
  ({ r with
      state := .resident, v := v, c := cc, mObs := obs, aMax := aMax, folds := folds, drift := drift
      steps := r.steps + BitVec.ofNat 64 (ran - zero.getD 0), last := seq, chunk := BitVec.ofNat 16 c.steps, cls := cls, foldAt := tick
      imgV := if c.wb then v else r.imgV, imgC := if c.wb then cc else r.imgC, imgOk := c.wb }, bad)

/-- Whether a DRIFT exceeds a non-zero limit. -/
def overLimit (drift limit : Word) : Bool := !(f32 limit).eqv (f32 0) && ((f32 limit).lt (f32 drift) || (f32 drift).isNan)

/-- One reel folded, counted at its core (R113, R223). -/
def State.foldReel (s : State) (c : Chunk) (n ran cls : Nat) (early : Bool) : State :=
  let i := nth c.reels n 0
  let r := s.reel i
  let w := (r.place.map ReelPlace.core).getD 0
  match r.folded c n s.reels.tick cls c.seq ran with
  | (r', bad) =>
    let ovr := overLimit r'.drift r.limit
    let near := overLimit (fmul r'.drift 0x40000000#32) r.limit
    let s := s.setReel i r'
    let s := s.bump (.core w) 0x0C5 1
    let s := if early then s.bump (.core w) 0x0C6 1 else s
    let s := if near then s.bump (.core w) 0x0C7 1 else s
    let s := if ovr then s.bump (.core w) 0x0C8 1 else s
    let s := if bad then s.bump (.core w) 0x0C9 1 else s
    if ovr || bad then s.setFlag c.seq 5 else s

/-- A chunk folded (R105, R107, R129): its reels RESIDENT again, references owed since dropped. -/
def State.foldChunk (s : State) (c : Chunk) (early : Bool) : State :=
  let cls := ((s.cmd? c.seq).map Cmd.cls).getD 0
  let s := (List.range c.reels.length).foldl (fun s n => s.foldReel c n c.step cls early) s
  let s := { s with reels := { s.reels with chunks := s.reels.chunks.filter (fun k => !(k.seq == c.seq && k.layer == c.layer)), tick := s.reels.tick + 1 } }
  let due := s.reels.owed.filter (fun i => c.reels.contains i)
  let s := { s with reels := { s.reels with owed := s.reels.owed.filter (fun i => !c.reels.contains i) } }
  let s := due.foldl (fun s i => s.dropReel i) s
  let s := c.reels.foldl (fun s i => s.reapReel i) s
  s.updCmd c.seq (fun k => { k with data := { k.data with folds := k.data.folds + 1, earlyFolds := k.data.earlyFolds + b2n early } })

/-- CHUNK_FOLD (R105): after the last step of a running chunk; its descriptor begins anew with the next one. -/
def execChunkFold (seq : Word) (s : State) : Host.Outcome State Fault Refusal :=
  match s.reels.chunks.find? (fun c => c.seq == seq && c.running && decide (c.steps ≤ c.step)) with
  | some c => .next ((s.foldChunk c false).updCmd seq (fun k => { k with chunkFrom := Tab.del k.chunkFrom c.layer }))
  | none => .next s

/-- A kernel's chunk saved with its cores when it is pre-empted for a victim (R131): its banks are free. -/
def State.saveReels (s : State) (k : Kern) : State :=
  match s.chunkAt k with
  | none => s
  | some c => c.reels.foldl (fun s i => let r := s.reel i
      if r.state = .pinned then s.setReel i { r with state := .saved, place := none } else s) s

/-- Whether the rows of a saved chunk are free on the cores its kernel resumes on (R131). -/
def State.rowsFree (s : State) (k : Kern) : Bool :=
  match s.chunkAt k with
  | none => true
  | some c => (c.rows k.cores).all (fun q => (s.inTheWay q.1 q.2).isEmpty && (s.otherWidth q.2).isEmpty)

/-- What stands in the rows of a saved chunk sent off them. -/
def State.clearRows (s : State) (k : Kern) : State :=
  match s.chunkAt k with
  | none => s
  | some c => (c.rows k.cores).foldl (fun s q => s.clearRow q.1 q.2) s

/-- A saved chunk's reels back in bank rows of the resuming cores, pinned again (R131). -/
def State.restoreReels (s : State) (k : Kern) : State :=
  match s.chunkAt k with
  | none => s
  | some c => (c.rows k.cores).foldl (fun s q => let r := s.reel q.1
      if r.state = .saved then s.setReel q.1 { r with state := .pinned, place := some q.2 } else s) s

/-! ### Commands -/

/-- FP32 V of a version 1 record (R122). -/
def v1Value (v : Word) (c : Half) : Word := toF32 (reelValue v c)

/-- An export record (R121, R122). -/
def Reel.record (r : Reel) (id source : Nat) (v1 : Bool) (v : List Word) (c : List Half) : List Byte :=
  let vs := if v1 then (v.zip c).map (fun p => v1Value p.1 p.2) else v
  let body := vs.flatMap (fun w => leBytes 4 w.toNat) ++ (if v1 then [] else c.flatMap (fun w => leBytes 2 w.toNat))
  let head := leBytes 2 0x5A4C ++ leBytes 1 (if v1 then 1 else 2) ++ leBytes 1 r.format.toNat ++ leBytes 4 id ++ leBytes 4 r.elements ++
    leBytes 2 r.chunk.toNat ++ leBytes 2 source ++ leBytes 8 r.steps.toNat ++ leBytes 4 r.drift.toNat ++ leBytes 4 r.limit.toNat ++
    leBytes 4 (if v1 then 0 else r.folds.toNat) ++ leBytes 4 (if v1 then 0 else r.mObs.toNat) ++
    leBytes 4 ((if v1 then 4 else 6) * r.elements) ++ List.replicate 20 0
  let size := ceilDiv (68 + (if v1 then 4 else 6) * r.elements) 64 * 64
  let all := slice (head ++ body) 0 (size - 4)
  all ++ leBytes 4 (crc32c all)

/-- Software's reference to a reel dropped, once. -/
def State.dropSoft (s : State) (i : Nat) : State :=
  if (s.reel i).soft then (s.setReel i { s.reel i with soft := false }).dropReel i else s

/-- EXPORT_REEL on a live reel (R119 to R122). -/
def State.exportReel (s : State) (seq : Word) (c : Cmd) (i : Nat) : State :=
  let r := s.reel i
  let f := c.fieldN 28 1
  let dest := c.fieldN 32 8
  if r.state = .lost then s.finishBare seq .coreFenced
  else
    let live := r.state == .resident || r.state == .swapOut
    let rec_ := r.record (c.fieldN 24 4) s.fab.id.toNat (f.testBit 0) (if live then r.v else r.imgV) (if live then r.c else r.imgC)
    match s.firstOwnBad seq [⟨dest, rec_.length, true, 64⟩] with
    | some va => s.refuseOwn seq va
    | none =>
      if c.fieldN 40 4 < rec_.length then s.finishBare seq .shapeOver
      else s.writeFor (accOf seq) seq 4 dest rec_ (fun s =>
        let s := (if f.testBit 1 then s.dropSoft i else s).bump .io 0x130 (segments dest rec_.length)
        s.finishWritten seq .ok (resultOf [(4, rec_.length), (4, leNat (rec_.drop (rec_.length - 4))), (8, r.steps.toNat)]))

/-- EXPORT_REEL (R119 to R122); a pinned or saved reel waits for its fold (R116). -/
def execExportReel (seq : Word) (s : State) : Host.Outcome State Fault Refusal :=
  match s.turnOf seq 0x20 with
  | none => .next s
  | some c =>
    match s.reelOf (c.fieldN 24 4) with
    | none => .next (s.finishBare seq .zeroExtent)
    | some i => if (s.reel i).state = .pinned ∨ (s.reel i).state = .saved then .next s else .next (s.exportReel seq c i)

/-- The elements of a record's V and C. -/
def recordV (b : List Byte) (e : Nat) : List Word := tabulate e (fun i => BitVec.ofNat 32 (recField b (64 + 4 * i) 4))
/-- The compensation words of a record. -/
def recordC (b : List Byte) (e : Nat) (v1 : Bool) : List Half :=
  tabulate e (fun i => if v1 then 0 else BitVec.ofNat 16 (recField b (64 + 4 * e + 2 * i) 2))

/-- The CRC of an import record against the one it carries (R124, R431). -/
def recordCrcOk (b : List Byte) (len : Nat) : Bool := crc32c (b.take (len - 4)) == recField b (len - 4) 4

/-- The check of an import record (R124): its version, or the status that ends the import. -/
def recordCheck (b : List Byte) (len : Nat) : Option Status :=
  let e := recField b 8 4
  let ver := recField b 2 1
  let per := if ver = 1 then 4 else 6
  if recField b 0 2 ≠ 0x5A4C ∨ (ver ≠ 1 ∧ ver ≠ 2) ∨ e = 0 ∨ 16384 < e ∨ recField b 40 4 ≠ per * e ∨ len ≠ ceilDiv (68 + per * e) 64 * 64 ∨
     !recordCrcOk b len then some .corruptInput
  else if (reelFormat (recField b 3 1 % 32)).isNone then some .rejectedFormat
  else none

/-- The entry an import writes (R125): A_max restarts at 0 and CHUNK comes from the header (DESIGN CHOICE, log entries 76 and 120). -/
def importEntry (old : Reel) (b : List Byte) (seq : Word) (store : Nat) : Reel :=
  let e := recField b 8 4
  let v1 := recField b 2 1 == 1
  let v := recordV b e
  let steps := recField b 16 8
  let chunk := recField b 12 2
  { old with
    state := .stored, place := none, format := BitVec.ofNat 5 (recField b 3 1), wlog := BitVec.ofNat 4 (widthLog e), elements := e
    steps := BitVec.ofNat 64 steps, drift := BitVec.ofNat 32 (recField b 24 4), limit := BitVec.ofNat 32 (recField b 28 4)
    folds := BitVec.ofNat 32 (if v1 then (if chunk = 0 then 0 else ceilDiv steps chunk) else recField b 32 4)
    mObs := if v1 then v.foldl magObs 0 else BitVec.ofNat 32 (recField b 36 4)
    chunk := BitVec.ofNat 16 chunk, aMax := 0, last := seq, v := [], c := [], imgV := v, imgC := recordC b e v1, imgOk := true, store := store }

/-- An import's entry written and answered (R125, R126, R128); a move of the target's old values ends with them. -/
def State.importInto (s : State) (seq : Word) (c : Cmd) (i : Nat) (r : Reel) : State :=
  let s := { s.setReel i r with reels := { (s.setReel i r).reels with moves := s.reels.moves.filter (fun m => m.1 != i) } }
  let s := if (c.fieldN 28 1).testBit 0 then s.bringIn i else s
  s.finish seq .ok (resultOf [(4, i + 65536 * r.gen.toNat), (4, r.elements), (8, r.steps.toNat)])

/-- IMPORT_REEL with its record at hand (R124 to R126). -/
def State.importReel (s : State) (seq : Word) (c : Cmd) (b : List Byte) : State :=
  let t := c.fieldN 24 4
  let s := s.bump .io 0x130 (segments (c.fieldN 32 8) (c.fieldN 40 4))
  let s := if recordCrcOk b (c.fieldN 40 4) then s else s.bump .io 0x135 1
  match recordCheck b (c.fieldN 40 4) with
  | some st => s.finishBare seq st
  | none =>
    let n := 6 * recField b 8 4
    if t = 0xFFFFFFFF then
      match firstFrom (fun j => (s.reel j).state == .free) 65536 0, s.imagePlace n with
      | some i, some at_ => s.importInto seq c i { importEntry { gen := (s.reel i).gen } b seq at_ with count := 1, soft := true }
      | _, _ => s.finishBare seq .pageExhausted
    else
      match s.reelOf t with
      | none => s.finishBare seq .zeroExtent
      | some i =>
        let old := s.reel i
        match (s.setReel i { old with state := .free }).imagePlace n with
        | none => s.finishBare seq .pageExhausted
        | some at_ => s.importInto seq c i (importEntry old b seq at_)

/-- IMPORT_REEL (R123 to R126): it waits for a fold or a movement of its target. -/
def execImportReel (seq : Word) (s : State) : Host.Outcome State Fault Refusal :=
  match s.turnOf seq 0x21 with
  | none => .next s
  | some c =>
    let st := ((s.reelOf (c.fieldN 24 4)).map (fun i => (s.reel i).state)).getD .free
    let src := c.fieldN 32 8
    let len := c.fieldN 40 4
    if st = .pinned ∨ st = .saved ∨ st = .swapIn ∨ st = .swapOut then .next s
    else
      match s.firstOwnBad seq [⟨src, len, false, 1⟩] with
      | some va => .next (s.refuseOwn seq va)
      | none => .next (s.readFor (accOf seq) seq 4 src len (fun b s => s.importReel seq c b))

/-- A reel set by RESET_REELS (R127): a resident reel in place, any other in its store image. -/
def Reel.resetTo (r : Reel) (v : List Word) (limit seq : Word) : Reel :=
  let z := List.replicate r.elements 0#16
  let base := { r with steps := 0, folds := 0, drift := 0, aMax := 0, mObs := v.foldl magObs 0, limit := limit, last := seq }
  if r.state = .resident then { base with v := v, c := z, imgOk := false }
  else { base with state := .stored, imgV := v, imgC := z, imgOk := true }

/-- The FP32 values of a RESET_REELS for `n` elements, read from its VECTOR (R127); zeros where it names none. -/
def State.withVector (s : State) (seq : Word) (a n : Nat) (k : List Word → State → State) : State :=
  if a = 0 then k (List.replicate n 0) s
  else s.readFor (accOf seq) seq 4 a (4 * n) (fun bs s => k (tabulate n (fun i => BitVec.ofNat 32 (recField bs (4 * i) 4))) s)

/-- `n` reels of an element count created, stored and set from a vector; none where they cannot all be allocated. -/
def State.createReels (s : State) (seq : Word) (e fmt : Nat) (limit : Word) (v : List Word) : Nat → Option (List Nat × State)
  | 0 => some ([], s)
  | n + 1 =>
    match firstFrom (fun j => (s.reel j).state == .free) 65536 0, s.imagePlace (6 * e) with
    | some i, some b =>
      let g := (s.reel i).gen
      let r : Reel := { state := .stored, gen := g, format := BitVec.ofNat 5 fmt, wlog := BitVec.ofNat 4 (widthLog e), elements := e
                        count := 1, soft := true, store := b }
      match State.createReels (s.setReel i (r.resetTo v limit seq)) seq e fmt limit v n with
      | some (l, s') => some ((i + 65536 * g.toNat) :: l, s')
      | none => none
    | _, _ => none

/-- The RESET_REELS whose turn has come, of one of its forms. -/
def State.resetTurn (s : State) (seq : Word) (create release : Bool) : Option Cmd :=
  match s.turnOf seq 0x22 with
  | none => none
  | some c => let f := c.fieldN 26 1; if f.testBit 0 == create && (create || f.testBit 1 == release) then some c else none

/-- RESET_REELS_CREATE (R91, R127). -/
def execResetReelsCreate (seq : Word) (s : State) : Host.Outcome State Fault Refusal :=
  match s.resetTurn seq true false with
  | none => .next s
  | some c =>
    let n := c.fieldN 24 2
    let e := c.fieldN 28 4
    let list := c.fieldN 40 8
    let vec := c.fieldN 48 8
    if n = 0 ∨ (c.fieldN 26 1).testBit 1 then .next (s.finishBare seq .zeroExtent)
    else if 4096 < n ∨ e = 0 ∨ 16384 < e then .next (s.finishBare seq .shapeOver)
    else if (reelFormat (c.fieldN 32 1 % 32)).isNone then .next (s.finishBare seq .rejectedFormat)
    else
      match s.firstOwnBad seq (⟨list, 4 * n, true, 1⟩ :: (if vec = 0 then [] else [⟨vec, 4 * e, false, 1⟩])) with
      | some va => .next (s.refuseOwn seq va)
      | none =>
        .next (s.withVector seq vec e (fun v s =>
          match s.createReels seq e (c.fieldN 32 1 % 32) (BitVec.ofNat 32 (c.fieldN 36 4)) v n with
          | none => s.finishBare seq .pageExhausted
          | some (ids, s') => s'.ownList seq list (ids.flatMap (leBytes 4)) (fun s => s.finishWritten seq .ok (resultOf [(2, n)]))))

/-- The reels some IDs name: none where one is stale. -/
def State.listedReels (s : State) (ids : List Nat) : Option (List Nat) :=
  ids.foldr (fun id acc =>
    match s.reelOf id, acc with
    | some i, some l => some (i :: l)
    | _, _ => none) (some [])

/-- RESET_REELS or its RELEASE form on its list, once no listed reel is pinned or moving (R116, R127). -/
def State.resetListed (s : State) (seq : Word) (c : Cmd) (f : State → List Nat → State) : State :=
  let n := c.fieldN 24 2
  if n = 0 then s.finishBare seq .zeroExtent
  else if 4096 < n then s.finishBare seq .shapeOver
  else
    match s.firstOwnBad seq [⟨c.fieldN 40 8, 4 * n, false, 1⟩] with
    | some va => s.refuseOwn seq va
    | none => s.readFor (accOf seq) seq 4 (c.fieldN 40 8) (4 * n) (fun bs s' =>
      match s'.listedReels (tabulate n (fun i => recField bs (4 * i) 4)) with
      | none => s'.finishBare seq .zeroExtent
      | some l =>
        if l.any (fun i => let st := (s.reel i).state; st == .pinned || st == .saved || st == .swapIn || st == .swapOut) then s
        else f s' l)

/-- RESET_REELS (R127): every listed reel set. -/
def execResetReels (seq : Word) (s : State) : Host.Outcome State Fault Refusal :=
  match s.resetTurn seq false false with
  | none => .next s
  | some c => .next (s.resetListed seq c (fun s l =>
      let vec := c.fieldN 48 8
      let longest := l.foldl (fun m i => max m (s.reel i).elements) 0
      match s.firstOwnBad seq (if vec = 0 then [] else [⟨vec, 4 * longest, false, 1⟩]) with
      | some va => s.refuseOwn seq va
      | none => s.withVector seq vec longest (fun v s =>
        (l.foldl (fun s i => s.setReel i ((s.reel i).resetTo (v.take (s.reel i).elements) (BitVec.ofNat 32 (c.fieldN 36 4)) seq)) s).finish
          seq .ok (resultOf [(2, l.length)]))))

/-- RESET_REELS_RELEASE (R91, R127): software's reference to each listed reel dropped. -/
def execResetReelsRelease (seq : Word) (s : State) : Host.Outcome State Fault Refusal :=
  match s.resetTurn seq false true with
  | none => .next s
  | some c => .next (s.resetListed seq c (fun s l =>
      (l.foldl (fun s i => s.dropSoft i) s).finish seq .ok (resultOf [(2, l.length)])))

end Sys2Proof.Machine
end

