-- ==== Sys2Proof/Machine/Stage.lean ====
section
/-! DEFINITION. Prefetch staging through the DMA engines (R379, R380, R417, R418): each entry issued holds descriptors on the memory
manager's channels of the cluster engines, and on engine 34 where its source is host memory or a peer. -/

namespace Sys2Proof.Machine

/-- The accessor of a prefetch run's source. -/
def prefAcc (r : PfRun) (k : Kern) : Acc := if r.kind = 1 then k.accAt r.core else { seq := some k.seq, flow := some 0x24 }

/-- The cores whose windows a run is staged through: a TAKE run's own, each core for its own SRAM, one core of each cluster for
cluster memory, one for the rank window. -/
def Kern.stageCores (k : Kern) (r : PfRun) : List Nat :=
  if r.kind = 1 then [r.core]
  else if r.dst / 2 ^ 52 ≠ 0x12 then k.cores.take 1
  else if r.dst % 2 ^ 52 < 0x1000000 then k.cores
  else k.clusters.filterMap (fun n => k.cores.find? (fun w => clusterOf w == n))

/-- The engine of the cluster that a run is staged into through a core. -/
def State.stageEng (s : State) (k : Kern) (w : Nat) (r : PfRun) : Nat :=
  match (s.xlate (k.accAt w) r.dst true).1 with
  | .sram o => o / 2 ^ 30 % 32
  | _ => clusterOf w

/-- The channel of a list with the fewest descriptors queued, the lowest among equals; which channel the memory manager takes is not
stated (DESIGN CHOICE, log entry 128). -/
def State.leastChan (s : State) (e : Nat) (l : List Nat) : Nat := (leastBy (fun c => (Tab.at (s.eng e).chans c {}).queue.length) l).getD 0

/-- Whether a run's source lies off the near side, so that engine 34 reads it and the cluster's engine relays it (R417, R418). -/
def State.offNear (s : State) (k : Kern) (r : PfRun) : Bool :=
  match (s.xlate (prefAcc r k) r.src false).1 with
  | .host _ => true
  | .peer _ _ => true
  | _ => false

/-- A run's descriptor for one core put on its channels (R418). -/
def State.stageOn (s : State) (k : Kern) (ix : Nat) (r : PfRun) (w : Nat) : State :=
  let e := s.stageEng k w r
  let c := s.leastChan e [12, 13, 14]
  let d : DmaDesc := { seq := k.seq, layer := k.layer, core := some w, src := r.src, dst := r.dst, run := r.bytes, pref := some ix, checked := true }
  if s.offNear k r then
    (s.queueDesc e c { d with relayed := true }).queueDesc 34 (s.leastChan 34 (List.range 32)) { d with relay := some (e, c) }
  else s.queueDesc e c d

/-- A run staged: a descriptor for each core it is staged through. -/
def State.stagePref (s : State) (k : Kern) (ix : Nat) (r : PfRun) : State :=
  if r.kind = 2 ∨ r.bytes = 0 then s else (k.stageCores r).foldl (fun s w => s.stageOn k ix r w) s

/-- The descriptors that stage a run. -/
def State.staging (s : State) (seq : Word) (ix : Nat) : List DmaDesc :=
  s.dma.engs.flatMap (fun (p : Nat × DmaEng) => p.2.chans.flatMap (fun (q : Nat × DmaChan) =>
    q.2.queue.filter (fun d => d.seq == seq && d.pref == some ix)))

/-- A run's descriptors taken off their channels. -/
def State.unstage (s : State) (seq : Word) (ix : Nat) : State :=
  { s with dma := { s.dma with engs := s.dma.engs.map (fun (p : Nat × DmaEng) => (p.1, { p.2 with
      chans := p.2.chans.map (fun (q : Nat × DmaChan) => (q.1, { q.2 with
        queue := q.2.queue.filter (fun d => !(d.seq == seq && d.pref == some ix)) })) })) } }

/-- What is left of a run at one core: the offset reached, the bytes relayed and not written, whether engine 34 serves it. -/
def restOf (l : List DmaDesc) (w : Nat) : Nat × List Byte × Bool :=
  match l.find? (fun d => d.core == some w && d.relay.isNone) with
  | some d => (if d.ovr then d.run else d.off, d.buf, d.relayed)
  | none => (0, [], false)

/-- The bursts still to come of a staged run, moved: its last write is acknowledged (R380, R423). A source that does not translate or
is poisoned ends the command. -/
def State.landEntry (s : State) (ix : Nat) (r : PfRun) (k : Kern) : State :=
  let l := s.staging k.seq ix
  let rest := (k.stageCores r).map (fun w => (w, restOf l w))
  let lo := rest.foldl (fun a p => min a (p.2.1 + p.2.2.1.length)) r.bytes
  s.readFor (prefAcc r k) k.seq 1 (r.src + lo) (r.bytes - lo) (fun bs s =>
    (rest.foldl (fun s p =>
      let off := p.2.1
      let out := p.2.2.1 ++ bs.drop (off + p.2.2.1.length - lo)
      let s := s.carryVA (.cluster (s.stageEng k p.1 r)) (prefAcc r k) false (r.src + off) (r.bytes - off)
      let s := s.bump (.cluster (s.stageEng k p.1 r)) 0x130 (segments (r.dst + off) out.length)
      let s := if p.2.2.2 then s.bump .io 0x130 (segments (r.dst + off + p.2.2.1.length) (out.length - p.2.2.1.length)) else s
      s.storeVA (k.accAt p.1) (r.dst + off) out) s).unstage k.seq ix)

end Sys2Proof.Machine
end

