-- ==== Sys2Proof/Machine/Run.lean ====
section
/-! DEFINITION. The dispatch of kernel, graph and advance commands: their checks (R499, R351, R312 to R316, R329, R465),
pieces and tile counters (R301, R316, R317, R357), stages and prefetch (R379 to R381, R664), memory-order boundaries
(R153 to R163) and the scheduling pass (R330 to R337). -/

namespace Sys2Proof.Machine

/-! ### Checks at dispatch -/

/-- The shape table a command's entry carries (R309). -/
def State.shapeOf (s : State) (c : Cmd) : Option ShapeTable :=
  (s.progOf c.programRef).bind (fun p =>
    let off := if c.opcode = 0x03 then (p.graphs[c.entry]?).map GraphEnt.shape else (p.kernels[c.entry]?).map KernelEnt.shape
    off.bind (fun o => if o = noOff then none else Tab.find p.shapes o))

/-- Whether ENTRY names a kernel or graph of the program. -/
def Program.hasEntry (p : Program) (c : Cmd) : Bool := if c.opcode = 0x03 then decide (c.entry < p.graphs.length) else decide (c.entry < p.kernels.length)

/-- Whether a command's entry needs its parameter block (R499). -/
def State.needsParams (s : State) (c : Cmd) : Bool :=
  (s.shapeOf c).isSome || (s.kernelsOf c).any (fun k => k.shape != noOff || k.pSample != noOff || k.pBatch != noOff || k.pChunk != noOff)

/-- Whether a command's SLATE_BASE serves its program (R351). -/
def slateBaseOk (base count : Nat) : Bool := base % 64 == 0 && decide (base + count ≤ 131072)

/-- Whether a RUN_KERNEL's plan names a dynamic dimension that no shape table of its kernel holds (R298). -/
def State.planLacksShape (s : State) (c : Cmd) : Bool :=
  c.opcode != 0x03 && (s.shapeOf c).isNone && (s.kernelsOf c).any (fun k =>
    match (s.progOf c.programRef).bind (fun p => Tab.find p.plans k.plan) with
    | some pl => pl.exts.any Prod.fst
    | none => false)

/-- A stream context. -/
def State.ctx (s : State) (n : Nat) : StreamCtx := Tab.at s.video.ctxs n {}

/-- POLICY of the context a stream ID names. -/
def State.policyOf (s : State) (id : Nat) : Nat := fld (recField (s.ctx (id % 512)).desc 32 1) 2 2

/-- The context a stream ID names, while it is open (R453). -/
def State.ctxOf (s : State) (id : Nat) : Option Nat :=
  let x := s.ctx (id % 512)
  if x.state = 1 ∧ x.gen.toNat = id / 512 % 128 then some (id % 512) else none

/-- POLICY of the stream an ID names, while it is open. -/
def State.livePolicy (s : State) (id : Nat) : Option Nat := (s.ctxOf id).map (fun _ => s.policyOf id)

/-- Whether a command's sample lists have a COUNT in range and streams of one POLICY (R465). -/
def State.samplesOk (s : State) (c : Cmd) : Bool :=
  (s.sampleLists c).all (fun a =>
    let n := leNat (s.fetchVA {} a 2)
    decide (1 ≤ n) && decide (n ≤ 4096) &&
    (((s.sampleEntries a).filterMap (fun e => s.livePolicy (recField e 0 2))).eraseDups.length ≤ 1))

/-- The first point of a shape table whose bounds hold an extent vector (R313). -/
def ShapeTable.pointFor (t : ShapeTable) (ext : List Nat) : Option Nat :=
  (List.range t.points.length).find? (fun p => (List.range t.dims).all (fun d => decide (nth ext d 0 ≤ nth (nth t.points p []) d 0)))

/-- The coordinates of a piece, dimension 0 slowest (R315). -/
def pieceCoord (cnt : List Nat) (dims i : Nat) : List Nat :=
  (List.range dims).map (fun d => i / ((cnt.drop (d + 1)).foldl (fun a b => a * b) 1) % nth cnt d 1)

/-- The pieces of an extent vector (R313, R315): none means SHAPE_OVER. -/
def ShapeTable.piecesOf (t : ShapeTable) (ext : List Nat) : Option (List Piece) :=
  match t.pointFor ext with
  | some p => some [⟨List.replicate t.dims 0, ext, p⟩]
  | none =>
    let last := t.points.getLastD []
    if (List.range t.dims).any (fun d => decide (nth last d 0 < nth ext d 0) && nth t.kinds d 0 == 0) then none
    else
      let cnt := (List.range t.dims).map (fun d => if nth last d 0 < nth ext d 0 then ceilDiv (nth ext d 0) (nth last d 0) else 1)
      let n := cnt.foldl (fun a b => a * b) 1
      if 4096 < n then none
      else some (tabulate n (fun i =>
        let co := pieceCoord cnt t.dims i
        let org := (List.range t.dims).map (fun d => nth co d 0 * nth last d 0)
        let exs := (List.range t.dims).map (fun d => if 1 < nth cnt d 1 then min (nth last d 0) (nth ext d 0 - nth org d 0) else nth ext d 0)
        ⟨org, exs, (t.pointFor exs).getD 0⟩))

/-- A dispatch refused: the status, or the own address that fails. -/
inductive Refused where
  | status (st : Status)
  | own (va : Nat)
  deriving DecidableEq, Repr

/-- The checks of a kernel or graph command's dispatch: its pieces, or why it ends (R499, R351, R518, R312, R315, R329). -/
def State.runCheck (s : State) (seq : Word) (c : Cmd) : Except Refused (List Piece) :=
  match s.progOf c.programRef with
  | none => .error (.status .zeroExtent)
  | some p =>
    let shape := s.shapeOf c
    let exts := c.fieldN 40 8
    if !p.hasEntry c || (shape.isSome && exts == 0) || (c.params == 0 && s.needsParams c) || !slateBaseOk c.slateBase p.slates ||
       s.planLacksShape c then .error (.status .shapeOver)
    else
      let own := (if c.params = 0 then [] else [⟨c.params, 1, false, 1⟩]) ++
                 (match shape with | some t => [⟨exts, 4 * t.dims, false, 1⟩] | none => [])
      match s.firstOwnBad seq own with
      | some va => .error (.own va)
      | none =>
        let pieces : Except Refused (List Piece) := match shape with
          | none => .ok [⟨[], [], 0xFF⟩]
          | some t =>
            let e := s.words32 exts t.dims
            if e.any (fun x => x == 0) then .error (.status .zeroExtent)
            else match t.piecesOf e with
              | none => .error (.status .shapeOver)
              | some l => .ok l
        match pieces with
        | .error r => .error r
        | .ok l =>
          if !s.samplesOk c then .error (.status .shapeOver)
          else if (s.kernelsOf c).any (fun k => !s.spotExists k) then .error (.status .coreFenced)
          else .ok l

/-- The checks of an ADVANCE_TAKES dispatch (R58, R59, R499): the takes it steps. -/
def State.advanceCheck (s : State) (seq : Word) (c : Cmd) : Except Refused (List Nat) :=
  let takes := s.setTakes (c.fieldN 24 2 % 4096)
  match s.progOf c.programRef with
  | none => .error (.status .zeroExtent)
  | some p =>
    if takes = [] ∨ c.fieldN 26 2 = 0 then .error (.status .zeroExtent)
    else if !p.hasEntry c || (c.params == 0 && s.needsParams c) || !slateBaseOk c.slateBase p.slates || s.planLacksShape c then
      .error (.status .shapeOver)
    else
      match s.firstOwnBad seq (if c.params = 0 then [] else [⟨c.params, 1, false, 1⟩]) with
      | some va => .error (.own va)
      | none => if (s.kernelsOf c).any (fun k => !s.spotExists k) then .error (.status .coreFenced) else .ok takes

/-- A command ended by a check of its dispatch. -/
def State.refuse (s : State) (seq : Word) : Refused → State
  | .status st => s.endCmd seq st
  | .own va => s.refuseOwn seq va

/-! ### Pieces -/

/-- The piece record of R316. -/
def Piece.record (p : Piece) (i n : Nat) : List Byte :=
  (List.range 4).flatMap (fun d => leBytes 4 (nth p.origin d 0)) ++ (List.range 4).flatMap (fun d => leBytes 4 (nth p.extent d 0)) ++
  leBytes 1 (p.point % 8) ++ leBytes 1 0 ++ leBytes 2 i ++ leBytes 2 n ++ List.replicate 26 0

/-- The extent a plan's loop dimension has in a piece (R299). -/
def planExtent (shape : Option ShapeTable) (pc : Piece) (e : Bool × Nat) : Nat :=
  if !e.1 then e.2
  else match shape with
    | none => 0
    | some t => if nth t.static e.2 false then nth (nth t.points pc.point []) e.2 0 else nth pc.extent e.2 0

/-- The true extent of a plan's loop dimension in a piece (R314). -/
def trueExtent (pc : Piece) (e : Bool × Nat) : Nat := if e.1 then nth pc.extent e.2 0 else e.2

/-- The tile count of each loop dimension at a level (R299). -/
def TileLevel.counts (l : TileLevel) (exts : List Nat) : List Nat := tabulate exts.length (fun d => ceilDiv (nth exts d 0) (nth l.tile d 1))

/-- T of a level (R299), which is at most 2^31: a plan that would cut more is held there (DESIGN CHOICE, log entry 126). -/
def TileLevel.total (l : TileLevel) (exts : List Nat) : Nat := min (2 ^ 31) ((l.counts exts).foldl (fun a b => a * b) 1)

/-- The coordinates of a tile by its index, the innermost loop fastest (R299). -/
def TileLevel.coords (l : TileLevel) (exts : List Nat) (i : Nat) : List Nat :=
  let n := l.counts exts
  let got := (l.order.reverse.foldl (fun (a : Nat × Tab Nat) d => (a.1 / nth n d 1, Tab.put a.2 d (a.1 % nth n d 1))) (i, [])).2
  tabulate exts.length (fun d => Tab.at got d 0)

/-- Whether a tile lies wholly beyond the true extent of a dimension: a void tile (R314). -/
def TileGrid.isVoid (g : TileGrid) (i : Nat) : Bool :=
  let co := g.level.coords g.exts i
  (List.range g.exts.length).any (fun d => decide (nth g.real d 0 ≤ nth co d 0 * nth g.level.tile d 1))

/-- Whether a tile lies partly beyond the true extent of a dimension: a partial tile that is computed (R314, R320). -/
def TileGrid.isPartial (g : TileGrid) (i : Nat) : Bool :=
  let co := g.level.coords g.exts i
  !g.isVoid i && (List.range g.exts.length).any (fun d => decide (nth g.real d 0 < (nth co d 0 + 1) * nth g.level.tile d 1))

/-- The tiles of the unit of rank r in a placement of C units under static distribution (R300). -/
def tileShare (r c t : Nat) : List Nat := (List.range t).filter (fun i => i % max 1 c == r)

/-- The grid of a level of a plan in a piece. -/
def State.gridOf (s : State) (c : Cmd) (pl : TilePlan) (pc : Piece) (l : TileLevel) : TileGrid :=
  ⟨l, pl.exts.map (planExtent (s.shapeOf c) pc), pl.exts.map (trueExtent pc)⟩

/-- The tiles of a command's gated frames whose code satisfies a test, as context, frame and tile in gating order. -/
def Cmd.tilesBy (c : Cmd) (p : Nat → Bool) : List (Nat × Nat × Nat) :=
  c.gated.flatMap (fun f => ((List.range f.codes.length).filter (fun t => p (nth f.codes t 0))).map (fun t => (f.ctx, f.frame, t)))

/-- The list of computed tiles that a command's encoder runs over, of all its frames (R73, R86; log entry 129). -/
def Cmd.computed (c : Cmd) : List (Nat × Nat × Nat) := c.tilesBy (fun k => k != 1)

/-- The gated tiles of a command, whose latent tokens are copies of the predictor's and which its encoder does not compute (R75). -/
def Cmd.copied (c : Cmd) : List (Nat × Nat × Nat) := c.tilesBy (fun k => k == 1)

/-- The tile-count dimension of a shape table: its lowest STATIC one (DESIGN CHOICE, log entry 129). -/
def ShapeTable.tileDim (t : ShapeTable) : Option Nat := (List.range t.dims).find? (fun d => nth t.static d false)

/-- The piece that a call runs at once its list of computed tiles is known: the smallest compiled bucket that holds the list (R86). -/
def ShapeTable.bucketPiece (t : ShapeTable) (pc : Piece) (n : Nat) : Option Piece :=
  t.tileDim.bind (fun d =>
    let ext := pc.extent.set d n
    (t.pointFor ext).map (fun p => { pc with extent := ext, point := p }))

/-- The piece under way as a layer's call runs it. -/
def Cmd.pieceOf (c : Cmd) (layer : Nat) : Piece := (Tab.find c.ran layer).getD (nth c.pieces c.piece ⟨[], [], 0xFF⟩)

/-- The tile counters a kernel's plan binds in a piece: absolute slate and record (R301, R303). -/
def State.countersOf (s : State) (seq : Word) (c : Cmd) (k : KernelEnt) (pc : Piece) : List (Nat × TileCtr) :=
  match (s.progOf c.programRef).bind (fun p => Tab.find p.plans k.plan) with
  | none => []
  | some pl =>
    (((List.range pl.levels.length).zip pl.levels).filter (fun q => q.2.dist == 1)).map (fun q =>
      let g := s.gridOf c pl pc q.2
      (c.slateBase + q.2.counter,
        { seq := seq, total := q.2.total g.exts, bufs := q.2.bufs, accum := q.2.accum, grid := if q.1 = 0 then some g else none }))

/-- Core tiles that a core comes to, void and partial ones counted (R314, R323): the cycles it idles on a void one are a free value. -/
def State.meetTiles (s : State) (seq : Word) (w : Nat) (g : TileGrid) (l : List Nat) : State :=
  let v := (l.filter g.isVoid).length
  let s := (s.bump (.core w) 0x0F2 v).bump (.core w) 0x0F3 (l.filter g.isPartial).length
  if v = 0 then s
  else (s.draw.2).updCmd seq (fun c => { c with areas := { c.areas with voidCyc := c.areas.voidCyc + s.draw.1.toNat } })

/-- The core tiles that a kernel came to without a shared counter (R300), counted as it completes: under static distribution each
rank's own, and under DIST 2, of which no rule names the core, at the first core (DESIGN CHOICE, log entry 126). -/
def State.countTiles (s : State) (k : Kern) : State :=
  match s.cmd? k.seq with
  | none => s
  | some c =>
    match (((s.prog (k.prog % 256)).prog).bind (fun p => (s.entOf k).bind (fun e => Tab.find p.plans e.plan))) with
    | none => s
    | some pl =>
      match pl.levels with
      | [] => s
      | l :: _ =>
        let g := s.gridOf c pl (c.pieceOf k.layer) l
        let t := l.total g.exts
        if l.dist = 1 then s
        else if l.dist = 0 then (k.cores.zip k.ranks).foldl (fun s p => s.meetTiles k.seq p.1 g (tileShare p.2 (2 ^ k.size) t)) s
        else s.meetTiles k.seq (k.cores.headD 0) g (List.range t)

/-- Whether every bank has a holder record free for some new counters (R357). -/
def State.counterRoom (s : State) (seq : Word) (l : List (Nat × TileCtr)) : Bool :=
  (List.range 32).all (fun b =>
    decide ((l.filter (fun p => slateBank p.1 == b)).length + (s.sched.tiles.filter (fun p => slateBank p.1 == b && p.2.seq != seq)).length ≤ 64))

/-- The counts of a command's program-relative slates (R628). -/
def State.slateSnap (s : State) (c : Cmd) : List Word :=
  tabulate (((s.progOf c.programRef).map Program.slates).getD 0) (fun i => s.slate (c.slateBase + i))

/-- FULL and FREE of a command's fusion rings set to 0 (R305, R308; log entry 48). -/
def State.zeroRings (s : State) (c : Cmd) : State :=
  match s.progOf c.programRef with
  | none => s
  | some p => (s.kernelsOf c).foldl (fun s k => (ringSlates (p.codeOf k)).foldl (fun s i => s.putSlate (c.slateBase + i) 0) s) s

/-- The tile counters of a piece, or of a step of an advance, bound anew with empty holder records and counts of 0 (R301, R357; a
step of an advance as a piece is a DESIGN CHOICE, log entry 126). -/
def State.bindTiles (s : State) (seq : Word) (l : List (Nat × TileCtr)) : State :=
  let s := { s with sched := { s.sched with tiles := s.sched.tiles.filter (fun t => t.2.seq != seq) } }
  l.foldl (fun s p => let s := s.putSlate p.1 0
                      { s with sched := { s.sched with tiles := Tab.put s.sched.tiles p.1 p.2 } }) s

/-- A piece begun: its record written, its counters bound and zeroed, the slate counts noted (R301, R316, R317, R628). -/
def State.beginPiece (s : State) (seq : Word) (i : Nat) : State :=
  match s.cmd? seq with
  | none => s
  | some c =>
    let pc := nth c.pieces i ⟨[], [], 0xFF⟩
    let ctrs := (s.kernelsOf c).flatMap (fun k => s.countersOf seq c k pc)
    let s := s.updCmd seq (fun k => { k with piece := i, ran := [], layersDone := [], sealed := false, snap := s.slateSnap c })
    let s := (s.bindTiles seq ctrs).zeroRings c
    match s.shapeOf c with
    | none => s
    | some t => s.writeFor (accOf seq) seq 0 (c.params + t.pieceAt + 64 * (i % 2)) (pc.record i c.pieces.length) (fun s => s)

/-! ### Stages and prefetch -/

/-- The prefetch list of a command: its graph's, or its kernel's. -/
def State.prefetchOf (s : State) (c : Cmd) : List PfEnt :=
  match s.progOf c.programRef with
  | none => []
  | some p =>
    let l := if c.opcode = 0x03 then (p.graphs[c.entry]?).map (fun g => (g.prefetch, g.pfCount))
             else (p.kernels[c.entry]?).map (fun k => (k.prefetch, k.pfCount))
    match l with
    | none => []
    | some (off, n) => if off = noOff then [] else (List.range n).filterMap (fun i => Tab.find p.prefs (off + 32 * i))

/-- The first address of an entry's destination the kernel does not cover, if any (R663). -/
def State.pfBad (s : State) (k : Kern) (e : PfEnt) : Option Nat :=
  if e.kind = 2 then none
  else (if e.dst / 2 ^ 52 = 0x12 then k.cores else k.cores.take 1).findSome? (fun w => s.firstBad (k.accAt w) e.dst e.bytes true)

/-- The runs an entry makes: one, or one per take row (R379). -/
def State.pfRuns (s : State) (k : Kern) (ix : Nat) (e : PfEnt) : List PfRun :=
  let r : PfRun := { ix := ix, kind := e.kind, src := e.src, dst := e.dst, bytes := e.bytes, need := e.need, proxy := e.proxy
                     deadline := e.deadline, layer := k.layer, core := k.cores.headD 0 }
  if e.kind = 1 then
    k.cores.flatMap (fun w => let rows := (s.core w).rows
      (List.range rows.length).map (fun b =>
        { r with core := w, take := rows[b]?, src := 0x14 * 2 ^ 52 + b * 2 ^ 36 + e.src % 2 ^ 36 }))
  else [r]

/-- A REEL entry's swap-ins (R115, R379): the stored reels of the chunk its kernel's descriptor names. -/
def State.pfReels (s : State) (seq : Word) (k : Kern) : State :=
  match (s.cmd? seq).bind (fun c => s.chunkDesc c k) with
  | none => s
  | some a => s.readFor (accOf seq) seq 0 a 32 (fun b s =>
      let d := parseChunk b
      s.readFor (accOf seq) seq 0 d.list (4 * d.count) (fun lb s =>
        let ids := (tabulate d.count (fun i => recField lb (4 * i) 4)).filterMap (fun id => s.reelOf id)
        (ids.zip (List.range ids.length)).foldl (fun s p => s.drawReel seq (chunkPlace k.cores d.wlog p.2) p.1) s))

/-- The entries of a kernel's layer under way that no channel stages any more, since a fence cancelled them, staged again. -/
def State.restage (s : State) (k : Kern) (c : Cmd) : State :=
  ((List.range c.prefs.length).zip c.prefs).foldl (fun s p =>
    if p.2.layer == k.layer && !p.2.done && (s.staging k.seq p.1).isEmpty then s.stagePref k p.1 p.2 else s) s

/-- The entries of an ISSUE stage issued once (R664), or the command ended where a destination is not covered (R663). -/
def State.issueStage (s : State) (seq : Word) (k : Kern) (stage : Nat) : State :=
  match s.cmd? seq with
  | none => s
  | some c =>
    if c.issued.contains stage then s.restage k c
    else
      let l := s.prefetchOf c
      let es := ((List.range l.length).zip l).filter (fun p => p.2.issue == stage)
      match es.findSome? (fun p => s.pfBad k p.2) with
      | some va => s.useFault seq 1 va
      | none =>
        let runs := es.flatMap (fun p => s.pfRuns k p.1 p.2)
        let s := runs.foldl (fun s r => s.bump (.cluster (clusterOf r.core)) 0x112 1) s
        let s := s.updCmd seq (fun c => { c with issued := c.issued ++ [stage], prefs := c.prefs ++ runs })
        let s := runs.foldl (fun s r => if r.kind = 2 then s else s.askPeers (prefAcc r k) r.src r.bytes) s
        let s := ((List.range runs.length).zip runs).foldl (fun s p => s.stagePref k (c.prefs.length + p.1) p.2) s
        es.foldl (fun s p => if p.2.kind = 2 then s.pfReels seq k else s) s

/-- Whether a command waits at a boundary. -/
def State.atBoundary (s : State) (seq : Word) : Bool := s.kv.waits.any (fun b => b.seq == seq)

/-- The takes of a command that step now. -/
def State.stepping (s : State) (c : Cmd) : List Nat := c.takes.filter (fun t => (s.take t).state == .advancing)

/-- The take rows of the cores of a step's pass: contiguous blocks in rank order (R282; DESIGN CHOICE, log entry 20). -/
def State.giveRows (s : State) (c : Cmd) (k : Kern) : State :=
  let all := ((s.stepping c).drop (c.pass * 256 * k.cores.length)).take (256 * k.cores.length)
  let per := ceilDiv all.length (max 1 k.cores.length)
  ((List.range k.cores.length).zip k.cores).foldl (fun s p =>
    let rows := (all.drop (p.1 * per)).take per
    s.updCore p.2 (fun v => { v with rows := rows, xs := Tab.put v.xs 1 (BitVec.ofNat 32 rows.length), pos := 0, loops := [] })) s

/-- Whether a bank of a kernel's placement or allocation is in retention (R387): kinds 0 scratchpad and 1 operand cache
of a core window, 2 cluster memory of a cluster. -/
def State.asleep (s : State) (k : Kern) : Bool :=
  s.mem.retained.any (fun r => if r.1 = 2 then (k.banksIn r.2.1).contains r.2.2 else k.cores.contains r.2.1)

/-- A kernel that comes after the gating of its command's frames set to run at the smallest tile-count bucket that holds the list of
computed tiles (R86): its counters follow that bucket and the piece record names it (log entry 129). -/
def State.compact (s : State) (seq : Word) (layer : Nat) : State :=
  match s.cmd? seq, (s.kern? seq layer).bind s.entOf with
  | some c, some e =>
    match (if c.gated = [] then none else s.shapeOf c).bind (fun t => (t.bucketPiece (c.pieceOf layer) c.computed.length).map (fun pc => (t, pc))) with
    | none => s
    | some (t, pc) =>
      let s := s.updCmd seq (fun c => { c with ran := Tab.put c.ran layer pc })
      let s := (s.countersOf seq c e pc).foldl (fun s p => { s with sched := { s.sched with tiles := Tab.put s.sched.tiles p.1 p.2 } }) s
      s.writeFor (accOf seq) seq 0 (c.params + t.pieceAt + 64 * (c.piece % 2)) (pc.record c.piece c.pieces.length) (fun s => s)
  | _, _ => s

/-- A stage dispatched once its entries have settled (R380): its kernel's cores run. -/
def State.dispatchStage (s : State) (k : Kern) : State :=
  match s.cmd? k.seq with
  | none => s
  | some c =>
    if k.phase ≠ .staging ∨ c.sealed ∨ s.atBoundary k.seq ∨ s.asleep k ∨ (c.prefs.any (fun r => r.need == k.stage && !r.settled)) then s
    else
      let s := s.updCmd k.seq (fun c => { c with data := { c.data with waitUs := c.data.waitUs + (s.nowUs - k.reachUs) } })
      (s.setKern { k with phase := .running }).compact k.seq k.layer

/-- A stage reached by a kernel: its entries issued, the stage dispatched if nothing holds it. -/
def State.reachStage (s : State) (seq : Word) (layer stage : Nat) : State :=
  match s.kern? seq layer with
  | none => s
  | some k =>
    let k := { k with stage := stage, reachUs := s.nowUs, phase := .staging }
    let s := (s.setKern k).issueStage seq k stage
    match s.kern? seq layer with
    | none => s
    | some k => s.dispatchStage k

/-- STAGE_DISPATCH (R380): the stage of a placed kernel, reached now or held before. -/
def execStageDispatch (seq : Word) (stage : Half) (s : State) : Host.Outcome State Fault Refusal :=
  match s.cmd? seq with
  | none => .next s
  | some c =>
    let layer := if c.opcode = 0x03 then stage.toNat else 0
    match s.kern? seq layer with
    | none => .next s
    | some k =>
      if k.phase = .staging ∧ k.stage = stage.toNat then .next (s.dispatchStage k)
      else if c.isAdvance && k.phase == .running && decide (k.stage < stage.toNat) then .next (s.reachStage seq layer stage.toNat)
      else .next s

/-- One prefetch run of a command changed. -/
def State.setPref (s : State) (seq : Word) (ix : Nat) (f : PfRun → PfRun) : State :=
  s.updCmd seq (fun c => { c with prefs := (List.range c.prefs.length).zip c.prefs |>.map (fun p => if p.1 = ix then f p.2 else p.2) })

/-- PREFETCH_ENTRY_COMPLETE (R380): the ix-th run issued by the command; a REEL entry completes when its reels are resident. No entry
completes while the kernel it stages into is off its cores (log entry 128). -/
def execPrefetchEntryComplete (seq : Word) (ix : Half) (s : State) : Host.Outcome State Fault Refusal :=
  match (s.cmd? seq).bind (fun c => c.prefs[ix.toNat]?) with
  | none => .next s
  | some r =>
    if r.done then .next s
    else
      match s.kern? seq r.layer with
      | none => .next s
      | some k =>
        if r.kind ≠ 2 ∧ (k.phase = .saving ∨ k.phase = .saved ∨ k.phase = .restoring) then .next s
        else if r.kind ≠ 2 ∧ !s.peerReady (prefAcc r k) r.src r.bytes then .next (s.askPeers (prefAcc r k) r.src r.bytes)
        else
          let s := s.setPref seq ix.toNat (fun r => { r with done := true })
          .next (if r.kind = 2 then s else s.landEntry ix.toNat r k)

/-- The program of a command. -/
def State.cmdProg (s : State) (seq : Word) : Option Program := (s.cmd? seq).bind (fun c => s.progOf c.programRef)

/-- An entry past its decision point (R381): `landed` bytes had been staged and are discarded if it is cancelled. -/
def State.takePath (s : State) (seq : Word) (ix landed : Nat) (r : PfRun) : State :=
  let n := clusterOf r.core
  let s := (s.setPref seq ix (fun r => { r with decided := true })).bump (.cluster n) 0x113 1
  let s := { s with mem := { s.mem with regs := { s.mem.regs with pfLate := satAdd s.mem.regs.pfLate 1 } } }
  let data := fun (f : DataAreas → DataAreas) (s : State) => s.updCmd seq (fun c => { c with data := f c.data })
  match r.kind with
  | 0 =>
    match (s.cmdProg seq).bind (fun p => if r.proxy = 0xFFFF then none else p.proxies[r.proxy]?) with
    | some q =>
      let s := (s.unstage seq ix).setPref seq ix (fun r => { r with src := q.va, bytes := q.bytes })
      let s := match s.kern? seq r.layer with
        | some k => s.stagePref k ix { r with src := q.va, bytes := q.bytes }
        | none => s
      let s := ((s.setFlag seq 0).bump (.cluster n) 0x114 1).bump (.cluster n) 0x024 (landed / 1024)
      let s := { s with mem := { s.mem with regs := { s.mem.regs with pfProxy := satAdd s.mem.regs.pfProxy 1 } } }
      data (fun d => { d with proxySubs := d.proxySubs + 1, discarded := d.discarded + landed / 1024 }) s
    | none => data (fun d => { d with lateNoPath := d.lateNoPath + 1 }) s
  | 1 =>
    let s := match r.take with | some t => s.setTake t { s.take t with state := .preempted } | none => s
    let s := match s.kern? seq r.layer with
      | some k => if k.phase = .running then s.preempt k .victim else s
      | none => s
    data (fun d => { d with takesCut := d.takesCut + 1 }) s
  | 2 => data (fun d => { d with reelLate := d.reelLate + 1 }) s
  | _ => data (fun d => { d with lateNoPath := d.lateNoPath + 1 }) s

/-- PREFETCH_DECISION_POINT (R381): an entry with a deadline that has not completed, or that a forced miss takes for one (R634). -/
def execPrefetchDecisionPoint (seq : Word) (ix : Half) (landed : Word) (s : State) : Host.Outcome State Fault Refusal :=
  match (s.cmd? seq).bind (fun c => c.prefs[ix.toNat]?) with
  | none => .next s
  | some r =>
    if r.decided || r.deadline == 0 then .next s
    else
      match s.perturb 5 (clusterOf r.core) with
      | (s, hit) => if r.done && !hit then .next s else .next (s.takePath seq ix.toNat landed.toNat { r with done := false })

end Sys2Proof.Machine
end

