-- ==== Sys2Proof/Machine/Gate.lean ====
section
/-! DEFINITION. Surprise gating (R24, R25, R73 to R88): tile decisions, their counts, the surprise map and the rings of
R81, R82 and R471. -/

namespace Sys2Proof.Machine

/-- Edge of a stream's tiles by TILE (R80); the reserved value counts as 16 in its maps (log entry 29). -/
def tileEdge (tile : Nat) : Nat := match tile with | 1 => 8 | 2 => 32 | _ => 16

/-- What a frame offers to the gate: the output size, the concealed regions in luma samples with the crop, observed luma
at 10 bits and the prediction, if one has completed. -/
structure GateIn where
  ow     : Nat
  oh     : Nat
  prep   : Prep
  rects  : List (Nat × Nat × Nat × Nat)
  luma   : List Nat
  pred   : Option (List Nat)
  deriving DecidableEq, Repr

/-- Whether a tile overlaps a concealed region, both at model resolution. -/
def GateIn.hit (g : GateIn) (e tx ty : Nat) : Bool :=
  g.rects.any (fun r =>
    let p := g.prep
    decide (r.1 * g.ow < (p.cx * g.ow + (tx + 1) * e * p.cw)) && decide (p.cx * g.ow + tx * e * p.cw < (r.1 + r.2.2.1) * g.ow) &&
    decide (r.2.1 * g.oh < (p.cy * g.oh + (ty + 1) * e * p.ch)) && decide (p.cy * g.oh + ty * e * p.ch < (r.2.1 + r.2.2.2) * g.oh))

/-- The SAD of a tile (R74), over the samples it holds. -/
def GateIn.sad (g : GateIn) (e tx ty : Nat) : Nat :=
  match g.pred with
  | none => 0
  | some q =>
    ((List.range (min e (g.oh - ty * e))).map (fun j => ((List.range (min e (g.ow - tx * e))).map (fun i =>
      let k := (ty * e + j) * g.ow + tx * e + i
      let a := nth g.luma k 0
      let b := nth q k 0
      (a - b) + (b - a))).foldl (fun x y => x + y) 0)).foldl (fun x y => x + y) 0

/-- The gating registers' fields (R80). -/
def StreamCtx.thr (x : StreamCtx) : Nat := fld x.gateThr.toNat 0 20
/-- TILE. -/
def StreamCtx.tile (x : StreamCtx) : Nat := fld x.gateThr.toNat 20 2
/-- REFRESH. -/
def StreamCtx.refresh (x : StreamCtx) : Nat := fld x.gateThr.toNat 24 8

/-- GATING_OFF of a frame (R76, R78, R84). -/
def StreamCtx.gatingOff (x : StreamCtx) (patch : Nat) : Bool :=
  !bitOf x.gateCtl.toNat 0 || x.thr == 0 || x.tile == 3 || tileEdge x.tile != patch

/-- Whether a tile of a frame was gated in the frame before (R77). -/
def StreamCtx.wasGated (x : StreamCtx) (frame t : Nat) : Bool :=
  frame != 0 && nth (Tab.at x.tiles (frame - 1) []) t 0 == 1

/-- The code of a tile (R74, R76, R77, R85): frame 0 is encoded in full (R24). -/
def GateIn.code (g : GateIn) (x : StreamCtx) (patch frame across t : Nat) : Nat :=
  let e := tileEdge x.tile
  let tx := t % across
  let ty := t / across
  if x.gatingOff patch || frame == 0 || g.pred.isNone || decide (g.ow < (tx + 1) * e) || decide (g.oh < (ty + 1) * e) || g.hit e tx ty then 3
  else if x.refresh != 0 && (frame + t) % (x.refresh + 1) == 0 && x.wasGated frame t then 2
  else if g.sad e tx ty < x.thr then 1 else 0

/-- How many tiles of a frame carry a code. -/
def countCode (codes : List Nat) (k : Nat) : Nat := (codes.filter (fun c => c == k)).length

/-- The header of a surprise map (R84). -/
def mapHeader (x : StreamCtx) (c frame across down epoch : Nat) (codes : List Nat) (noPred concealed off : Bool) : List Byte :=
  leBytes 2 c ++ leBytes 1 (b2n (bitOf x.gateCtl.toNat 1)) ++ leBytes 1 x.tile ++ leBytes 4 frame ++ leBytes 2 across ++ leBytes 2 down ++
  leBytes 4 (countCode codes 1) ++ leBytes 4 x.thr ++ leBytes 4 epoch ++ leBytes 4 (countCode codes 2) ++
  leBytes 4 (b2n noPred + 2 * b2n concealed + 4 * b2n off)

/-- Codes packed two bits to a tile (R85). -/
def packCodes (codes : List Nat) : List Byte :=
  tabulate (ceilDiv codes.length 4) (fun i => BitVec.ofNat 8 ((List.range 4).foldl (fun a j => a + nth codes (4 * i + j) 0 * 4 ^ j) 0))

/-- A map's bytes, padded to a multiple of 64 (R84, R85). -/
def GateIn.map (g : GateIn) (x : StreamCtx) (c patch frame epoch : Nat) (codes : List Nat) : List Byte :=
  let e := tileEdge x.tile
  let across := ceilDiv g.ow e
  let h := mapHeader x c frame across (ceilDiv g.oh e) epoch codes g.pred.isNone (!g.rects.isEmpty) (x.gatingOff patch)
  let body := if bitOf x.gateCtl.toNat 1 then
      (List.range codes.length).flatMap (fun t =>
        let v := if g.pred.isNone then 0xFFFF else g.sad e (t % across) (t / across) / 4 ^ (Nat.log2 e - 3)
        leBytes 4 (v % 65536 + 65536 * nth codes t 0))
    else packCodes codes
  let m := h ++ body
  slice m 0 (ceilDiv m.length 64 * 64)

/-- SLOT of a stream's map ring (R82). -/
def mapSlot (ow oh : Nat) : Nat := ceilDiv (32 + 4 * ceilDiv ow 8 * ceilDiv oh 8) 64 * 64

/-- Whether a ring of R81 is full: what the device has written less the host's consumer index (R82). -/
def State.ringFull (s : State) (ring n prod : Nat) : Bool := (prod + 2 ^ 32 - leNat (s.fetchVA {} (ring + 4) 4)) % 2 ^ 32 == n

/-- An entry written into a ring of R81 and its producer index after it: none where the ring does not take it. -/
def State.ringWrite (s : State) (ring n slot prod : Nat) (bs : List Byte) : Option State :=
  match s.writeVA {} (ring + 64 + (prod % n) * slot) bs false with
  | none => none
  | some s => s.writeVA {} ring (leBytes 4 (prod + 1)) false

/-- The descriptor's preparation (R459). -/
def StreamCtx.prep (x : StreamCtx) : Prep := parsePrep (slice x.desc 64 64)

/-- The state with a context written. -/
def State.setCtx (s : State) (c : Nat) (x : StreamCtx) : State := { s with video := { s.video with ctxs := Tab.put s.video.ctxs c x } }

/-- A surprise map written for a frame, or dropped (R25, R81, R83); a ring that does not take it drops it too (log entry 29). -/
def State.writeMap (s : State) (c : Nat) (bs : List Byte) : State :=
  let x := s.ctx c
  let ring := recField x.desc 40 8
  let n := recField x.desc 48 4
  if ring = 0 then s
  else if s.ringFull ring n x.mapProd then s.setCtx c { x with mapDrop := satAdd x.mapDrop 1 }
  else
    match s.ringWrite ring n (mapSlot x.prep.ow x.prep.oh) x.mapProd bs with
    | some s => s.setCtx c { x with mapProd := (x.mapProd + 1) % 2 ^ 32 }
    | none => s.setCtx c { x with mapDrop := satAdd x.mapDrop 1 }

/-- Whether a command's encoder already has the decisions of a frame, which change no more (R73). -/
def State.decided (s : State) (seq : Word) (c frame : Nat) : Bool :=
  (s.cmd? seq).any (fun q => q.gated.any (fun f => f.ctx == c && f.frame == frame))

/-- A frame gated for a command (R73 to R78, R86, R88): its codes counted, put into the command's list of tiles, kept for the
frame after it, and mapped; a frame offered again keeps its decisions (log entry 129). -/
def State.gateFrame (s : State) (seq : Word) (c frame patch : Nat) (g : GateIn) : State :=
  if s.decided seq c frame then s else
  let x := s.ctx c
  let e := tileEdge x.tile
  let across := ceilDiv g.ow e
  let codes := (List.range (across * ceilDiv g.oh e)).map (fun t => g.code x patch frame across t)
  let k := countCode codes
  let n := recField x.desc 34 1 % 32
  let s := ((((s.bump (.cluster n) 0x020 (k 0 + k 1 + k 2)).bump (.cluster n) 0x021 (k 1)).bump (.cluster n) 0x022 (k 2)).bump
    (.cluster n) 0x023 (k 3))
  let s := s.updCmd seq (fun q => { q with gated := q.gated ++ [⟨c, frame, codes⟩]
                                           areas := { q.areas with encoded := q.areas.encoded + (codes.length - k 1), gated := q.areas.gated + k 1 } })
  let s := if k 1 = 0 then s else s.setFlag seq 3
  let s := s.setCtx c { x with gateCnt := x.gateCnt + BitVec.ofNat 32 (k 1), tiles := Tab.put x.tiles frame codes }
  s.writeMap c (g.map x c patch frame (s.epochAt (544 + n)).toNat codes)

/-- An error ring entry (R471) for a damaged frame, or one more dropped. -/
def State.errorEntry (s : State) (c frame : Nat) (d : Damage) : State :=
  let x := s.ctx c
  let ring := recField x.desc 128 8
  let n := recField x.desc 136 4
  let bs := leBytes 2 (c + 512 * x.gen.toNat) ++ leBytes 1 d.kind ++ leBytes 1 0 ++ leBytes 4 frame ++ leBytes 8 d.byte ++ leBytes 2 d.bx ++
    leBytes 2 d.by_ ++ leBytes 4 d.blocks ++ leBytes 4 s.perf.epoch.toNat ++ leBytes 4 0
  let drop := { x with dropped := min 63 (x.dropped + 1) }
  if ring = 0 then s
  else if s.ringFull ring n x.errProd then s.setCtx c drop
  else
    match s.ringWrite ring n 32 x.errProd bs with
    | some s => s.setCtx c { x with errProd := (x.errProd + 1) % 2 ^ 32 }
    | none => s.setCtx c drop

end Sys2Proof.Machine
end

