-- ==== Sys2Proof/Machine/Stream.lean ====
section
/-! DEFINITION. The bitstreams the decode engines accept (R449, R450): where a stream's bytes lie (R459, R461), the OBUs, NAL units and
JPEG segments they fall into, and the profiles. What a unit holds beyond that is the named standards' (log entry 130). -/

namespace Sys2Proof.Machine

/-- A coded unit: its type and its bytes after the header that gives it. -/
structure CodedUnit where
  kind : Nat
  body : List Byte
  deriving DecidableEq, Repr

/-! ### AV1 -/

/-- A leb128 value at the head of some bytes, `n` bytes of it at most, and the bytes it takes. -/
def leb128 : Nat → List Byte → Option (Nat × Nat)
  | 0, _ => none
  | _ + 1, [] => none
  | n + 1, b :: rest => if b.toNat < 128 then some (b.toNat, 1) else (leb128 n rest).map (fun q => (b.toNat - 128 + 128 * q.1, q.2 + 1))

/-- The head of an OBU: its type, whether it has a size field, and the bytes of the head. -/
def obuHead (l : List Byte) : Option (Nat × Bool × Nat) :=
  match l with
  | [] => none
  | h :: _ => if bitOf h.toNat 7 then none else some (fld h.toNat 3 4, bitOf h.toNat 1, 1 + b2n (bitOf h.toNat 2))

/-- The OBUs of the low-overhead format, `k` of them at most. -/
def lowUnits : Nat → List Byte → Option (List CodedUnit)
  | _, [] => some []
  | 0, _ :: _ => none
  | k + 1, b :: rest =>
    let l := b :: rest
    match obuHead l with
    | some (t, true, h) =>
      match leb128 8 (l.drop h) with
      | some (n, m) => if l.length < h + m + n then none else (lowUnits k (l.drop (h + m + n))).map (fun u => ⟨t, slice l (h + m) n⟩ :: u)
      | none => none
    | _ => none

/-- One OBU of the length-delimited format, whose length is known: its own size field, where it has one, says the same. -/
def lengthUnit (l : List Byte) : Option CodedUnit :=
  match obuHead l with
  | none => none
  | some (t, false, h) => if l.length < h then none else some ⟨t, l.drop h⟩
  | some (t, true, h) =>
    match leb128 8 (l.drop h) with
    | some (n, m) => if l.length = h + m + n then some ⟨t, l.drop (h + m)⟩ else none
    | none => none

/-- The OBUs of a frame unit of the length-delimited format, `k` of them at most. -/
def lengthUnits : Nat → List Byte → Option (List CodedUnit)
  | _, [] => some []
  | 0, _ :: _ => none
  | k + 1, b :: rest =>
    let l := b :: rest
    match leb128 8 l with
    | some (n, m) =>
      if l.length < m + n then none
      else (lengthUnit (slice l m n)).bind (fun u => (lengthUnits k (l.drop (m + n))).map (fun us => u :: us))
    | none => none

/-- The OBUs of bytes that are one frame unit with its size. -/
def frameUnit (l : List Byte) : Option (List CodedUnit) :=
  match leb128 8 l with
  | some (n, m) => if l.length = m + n then lengthUnits l.length (l.drop m) else none
  | none => none

/-- The OBUs of a frame of the length-delimited format: a frame unit, which the size of its temporal unit precedes at that unit's head. -/
def annexBUnits (l : List Byte) : Option (List CodedUnit) :=
  match frameUnit l with
  | some u => some u
  | none =>
    match leb128 8 l with
    | some (n, m) => if l.length ≤ m + n then frameUnit (l.drop m) else none
    | none => none

/-- Whether OBUs hold a coded frame of an accepted profile, Main or High, and no tile list (R449). -/
def av1Ok (us : List CodedUnit) : Bool :=
  us.any (fun u => u.kind == 3 || u.kind == 6 || u.kind == 7) && us.all (fun u => u.kind != 8) &&
  us.all (fun u => u.kind != 1 || decide ((nth u.body 0 0xFF#8).toNat / 32 ≤ 1))

/-! ### HEVC and AVC -/

/-- What follows a start code, two zeros or more and a one, after `z` zeros. -/
def startCode : Nat → List Byte → Option (List Byte)
  | _, [] => none
  | z, b :: rest => if b = 0#8 then startCode (z + 1) rest else if b = 1#8 ∧ 2 ≤ z then some rest else none

/-- The bytes of a NAL unit, up to the zeros of the next start code, and what is left. -/
def nalBody : List Byte → List Byte × List Byte
  | [] => ([], [])
  | b :: rest =>
    if b = 0#8 ∧ rest.head? = some 0#8 ∧ decide (nth rest 1 2#8 ≤ 1#8) then ([], b :: rest)
    else match nalBody rest with | (x, y) => (b :: x, y)

/-- The NAL units of an Annex B byte stream, `k` of them at most, whose header takes `h` bytes. -/
def nalUnits (h : Nat) : Nat → List Byte → Option (List CodedUnit)
  | _, [] => some []
  | 0, _ :: _ => none
  | k + 1, b :: rest =>
    match startCode 0 (b :: rest) with
    | none => none
    | some l =>
      match nalBody l with
      | ([], _) => none
      | (x :: xs, left) =>
        if bitOf x.toNat 7 then none
        else (nalUnits h k left).map (fun us => ⟨if h = 2 then fld x.toNat 1 6 else fld x.toNat 0 5, xs.drop (h - 1)⟩ :: us)

/-- A NAL unit's bytes without the emulation prevention bytes, after `z` zeros. -/
def unescape : Nat → List Byte → List Byte
  | _, [] => []
  | z, b :: rest => if b = 3#8 ∧ 2 ≤ z then unescape 0 rest else b :: unescape (if b = 0#8 then z + 1 else 0) rest

/-- Whether NAL units hold a coded picture of an accepted HEVC profile and level (R449). -/
def hevcOk (us : List CodedUnit) : Bool :=
  us.any (fun u => decide (u.kind < 32)) &&
  us.all (fun u => u.kind != 33 ||
    (let p := unescape 0 u.body
     let i := (nth p 1 0#8).toNat % 32
     decide (1 ≤ i) && decide (i ≤ 3) && decide ((nth p 12 0xFF#8).toNat ≤ 183)))

/-- Whether NAL units hold a coded picture of an accepted AVC profile and level (R449). -/
def avcOk (us : List CodedUnit) : Bool :=
  us.any (fun u => u.kind == 1 || u.kind == 5) &&
  us.all (fun u => u.kind != 7 ||
    (let p := (nth u.body 0 0#8).toNat
     (p == 77 || p == 100 || (p == 66 && bitOf (nth u.body 1 0#8).toNat 6)) && decide ((nth u.body 2 0xFF#8).toNat ≤ 52)))

/-! ### JPEG -/

/-- What follows entropy-coded data: the next marker that is no restart marker. -/
def jpegScan : List Byte → List Byte
  | [] => []
  | b :: rest =>
    let m := (nth rest 0 0#8).toNat
    if b = 0xFF#8 ∧ m ≠ 0 ∧ !(decide (0xD0 ≤ m) && decide (m ≤ 0xD7)) then b :: rest else jpegScan rest

/-- Whether segments, `k` of them at most, run to an EOI that ends the bytes, with a baseline frame among them (R449, R450): a segment
that is neither frame nor scan, APPn among them, is passed over. -/
def jpegSegs (frame : Bool) : Nat → List Byte → Bool
  | 0, _ => false
  | k + 1, l =>
    let m := (nth l 1 0#8).toNat
    let n := 256 * (nth l 2 0#8).toNat + (nth l 3 0#8).toNat
    let comps := (nth l 9 0#8).toNat
    if nth l 0 0#8 ≠ 0xFF#8 ∨ m = 0 then false
    else if m = 0xFF then jpegSegs frame k (l.drop 1)
    else if m = 0xD9 then frame && l.length == 2
    else if n < 2 ∨ l.length < n + 2 then false
    else if m = 0xC0 then (nth l 4 0#8 == 8#8 && (comps == 1 || comps == 3)) && jpegSegs true k (l.drop (n + 2))
    else if 0xC1 ≤ m ∧ m ≤ 0xCF ∧ m ≠ 0xC4 then false
    else if m = 0xDA then frame && jpegSegs frame k (jpegScan (l.drop (n + 2)))
    else jpegSegs frame k (l.drop (n + 2))

/-- Whether bytes are one JPEG image, from SOI to EOI. -/
def jpegOk (l : List Byte) : Bool := nth l 0 0#8 == 0xFF#8 && nth l 1 0#8 == 0xD8#8 && jpegSegs false l.length (l.drop 2)

/-! ### A stream's frames -/

/-- CODEC of a stream (R459). -/
def StreamCtx.codec (x : StreamCtx) : Nat := fld (recField x.desc 32 1) 0 2

/-- Whether bytes are a coded frame in the format and a profile that a stream's engine accepts (R449, R450). -/
def StreamCtx.accepts (x : StreamCtx) (l : List Byte) : Bool :=
  match x.codec with
  | 0 => ((if bitOf (recField x.desc 32 1) 6 then annexBUnits l else lowUnits l.length l).map av1Ok).getD false
  | 1 => ((nalUnits 2 l.length l).map hevcOk).getD false
  | 2 => ((nalUnits 1 l.length l).map avcOk).getD false
  | _ => jpegOk l

/-- Whether a decoded frame has a depth and a sampling that its codec's row allows (R449). -/
def StreamCtx.allows (x : StreamCtx) (f : DecodedFrame) : Bool :=
  match x.codec with
  | 0 => f.sampling == 0#3 || f.sampling == 3#3 || f.sampling == 4#3
  | 1 => f.sampling == 0#3
  | 2 => f.sampling == 0#3 && !f.deep
  | _ => !f.deep && decide (f.sampling ≤ 4#3)

/-- The ranges of device virtual addresses that hold `n` bytes of a bitstream from a position: a ring wraps (R459, R461). -/
def StreamCtx.ranges (x : StreamCtx) (pos n : Nat) : List (Nat × Nat) :=
  let base := recField x.desc 0 8
  let size := recField x.desc 8 8
  if recField x.desc 16 8 = 0 then [(base + pos, n)]
  else
    let o := pos % size
    let m := min n (size - o)
    [(base + o, m), (base, n - m)]

/-- Bytes of a bitstream as engine 33 fetches them. -/
def State.bitBytes (s : State) (x : StreamCtx) (pos n : Nat) : List Byte := (x.ranges pos n).flatMap (fun r => s.fetchVA {} r.1 r.2)

/-- Whether a bitstream's bytes in other devices' memory have come. -/
def State.bitReady (s : State) (x : StreamCtx) (pos n : Nat) : Bool := (x.ranges pos n).all (fun r => s.peerReady {} r.1 r.2)

/-- A bitstream's bytes asked of the devices that hold them. -/
def State.askBits (s : State) (x : StreamCtx) (pos n : Nat) : State := (x.ranges pos n).foldl (fun s r => s.askPeers {} r.1 r.2) s

/-- Whether an engine can have made this frame of the bytes it has fetched: a frame without damage comes of bytes that parse in the
stream's format and of an accepted profile, or of none where a picture decoded before is put out in its display order (R449 to R451). -/
def State.parses (s : State) (x : StreamCtx) (f : DecodedFrame) : Bool :=
  f.lost || f.damage.isSome || (x.allows f && (f.consumed == 0 || x.accepts (s.bitBytes x x.pos f.consumed.toNat)))

/-- The bursts of a bitstream's fetch through engine 33, counted (R426, R437). -/
def State.countBits (s : State) (n : Nat) : State := s.bump .io 0x130 (ceilDiv n 256)

end Sys2Proof.Machine
end

