-- ==== Sys2Proof/Machine/Video.lean ====
section
/-! DEFINITION. Video ingest (14_video_ingest): conversion to 4:2:0 and concealment (R451, R470), the engines' choice of
frames (R455, R456), sample lists and their policies (R464 to R469), and the rushes cache (R473 to R476). -/

namespace Sys2Proof.Machine

/-! ### Pictures -/

/-- A plane: its size and its samples. -/
structure Plane where
  w : Nat
  h : Nat
  v : List Nat
  deriving DecidableEq, Repr

/-- A sample of a plane, its last column and row replicated beyond it (R451). -/
def Plane.at (p : Plane) (x y : Nat) : Nat := nth p.v (min y (p.h - 1) * p.w + min x (p.w - 1)) 0

/-- A plane made even in both directions. -/
def Plane.even (p : Plane) (w h : Nat) : Plane := ⟨w, h, (List.range h).flatMap (fun y => (List.range w).map (fun x => p.at x y))⟩

/-- A number made even. -/
def evenUp (n : Nat) : Nat := n + n % 2

/-- A chroma plane at half resolution (R451). -/
def chroma420 (sampling w h k : Nat) (p : Plane) : List Nat :=
  (List.range (h / 2)).flatMap (fun y => (List.range (w / 2)).map (fun x =>
    match sampling with
    | 0 => p.at x y
    | 1 => (p.at x (2 * y) + p.at x (2 * y + 1) + 1) / 2
    | 2 => (p.at (2 * x) y + p.at (2 * x + 1) y + 1) / 2
    | 3 => (p.at (2 * x) (2 * y) + p.at (2 * x + 1) (2 * y) + p.at (2 * x) (2 * y + 1) + p.at (2 * x + 1) (2 * y + 1) + 2) / 4
    | _ => 128 * k))

/-- Samples as bytes at a depth (R463). -/
def sampleBytes (depth : Nat) (l : List Nat) : List Byte := l.flatMap (leBytes (depth + 1))

/-- The size of a chroma plane as coded. -/
def chromaSize (sampling w h : Nat) : Nat × Nat :=
  match sampling with
  | 0 => (ceilDiv w 2, ceilDiv h 2) | 1 => (ceilDiv w 2, h) | 2 => (w, ceilDiv h 2) | _ => (w, h)

/-- Two lists taken in turn. -/
def interleave : List Nat → List Nat → List Nat
  | a :: as, b :: bs => a :: b :: interleave as bs
  | _, _ => []

/-- A picture in 4:2:0 from a decoded frame (R451), before concealment. -/
def pictureOf (frame : Nat) (f : DecodedFrame) : Picture :=
  let w := f.width.toNat
  let h := f.height.toNat
  let w2 := evenUp w
  let h2 := evenUp h
  let depth := b2n f.deep
  let sm := f.sampling.toNat
  let cs := chromaSize sm w h
  let held := fun (v : Half) => v.toNat % (256 * depthK depth)
  let plane := fun (l : List Half) => (⟨cs.1, cs.2, l.map held⟩ : Plane)
  let y : Plane := ⟨w, h, f.y.map held⟩
  let uv := interleave (chroma420 sm w2 h2 (depthK depth) (plane f.cb)) (chroma420 sm w2 h2 (depthK depth) (plane f.cr))
  { frame := frame, width := w2, height := h2, dwidth := w, dheight := h, depth := depth
    resampled := sm == 1 || sm == 2 || sm == 3, mono := decide (4 ≤ sm), grain := f.grain
    data := sampleBytes depth ((y.even w2 h2).v ++ uv) }

/-- A sample of a picture, 8 bits or [9:0] of 16 (R463): its index in the samples, luma first. -/
def Picture.sampleAt (p : Picture) (i : Nat) : Nat := recField p.data (i * (p.depth + 1)) (p.depth + 1) % (256 * depthK p.depth)

/-- A luma sample. -/
def Picture.lumaAt (p : Picture) (x y : Nat) : Nat := p.sampleAt (y * p.width + x)

/-- A chroma sample, 0 Cb or 1 Cr. -/
def Picture.chromaAt (p : Picture) (c x y : Nat) : Nat := p.sampleAt (p.width * p.height + y * p.width + 2 * x + c)

/-- Whether a luma position lies in one of some regions. -/
def inRects (l : List (Nat × Nat × Nat × Nat)) (x y : Nat) : Bool :=
  l.any (fun r => decide (r.1 ≤ x) && decide (x < r.1 + r.2.2.1) && decide (r.2.1 ≤ y) && decide (y < r.2.1 + r.2.2.2))

/-- A picture with its damaged regions concealed by the co-located samples of the previous picture, or mid-grey (R470). -/
def Picture.conceal (p : Picture) (prev : Option Picture) (d : Damage) : Picture :=
  let grey := 128 * depthK p.depth
  let old := prev.bind (fun q => if q.width = p.width ∧ q.height = p.height ∧ q.depth = p.depth then some q else none)
  let n := p.width * p.height
  let pick := fun i =>
    let xy := if i < n then (i % p.width, i / p.width) else ((i - n) % p.width, 2 * ((i - n) / p.width))
    if inRects d.rects xy.1 xy.2 then (match old with | some q => q.sampleAt i | none => grey) else p.sampleAt i
  { p with data := sampleBytes p.depth ((List.range (n + n / 2)).map pick), damage := some d }

/-- The damage of a frame with its regions in luma samples. -/
def FrameDamage.toDamage (d : FrameDamage) : Damage :=
  { kind := d.kind.toNat, byte := d.byte.toNat, bx := (d.blocks.head?.map (fun b => b.1.toNat)).getD 0
    by_ := (d.blocks.head?.map (fun b => b.2.toNat)).getD 0, blocks := d.blocks.length
    rects := d.blocks.map (fun b => (b.1.toNat * d.bw.toNat, b.2.toNat * d.bh.toNat, d.bw.toNat, d.bh.toNat)) }

/-- A frame concealed whole: a copy of the previous picture (R470). -/
def Picture.copyWhole (q : Picture) (frame : Nat) (d : Damage) : Picture :=
  { q with frame := frame, damage := some { d with rects := [(0, 0, q.width, q.height)] } }

/-- A picture's source for preparation, counted from a crop. -/
def Picture.source (p : Picture) (q : Prep) : Source :=
  { depth := p.depth, luma := fun x y => p.lumaAt (q.cx + x) (q.cy + y), chroma := fun c x y => p.chromaAt c (q.cx / 2 + x) (q.cy / 2 + y) }

/-! ### Sample lists -/

/-- The sample list of a command at an address. -/
def State.run? (s : State) (seq : Word) (addr : Nat) : Option SampleRun := s.video.runs.find? (fun r => r.seq == seq && r.addr == addr)

/-- The state with a sample list replaced. -/
def State.setRun (s : State) (r : SampleRun) : State :=
  { s with video := { s.video with runs := s.video.runs.map (fun q => if q.seq == r.seq && q.addr == r.addr then r else q) } }

/-- A slot of a list changed. -/
def SampleRun.setSlot (r : SampleRun) (i : Nat) (f : SampleSlot → SampleSlot) : SampleRun :=
  match r.slots[i]? with | some x => { r with slots := r.slots.set i (f x) } | none => r

/-- A request of a list changed. -/
def SampleRun.setReq (r : SampleRun) (i : Nat) (f : SampleReq → SampleReq) : SampleRun :=
  match r.reqs[i]? with | some x => { r with reqs := r.reqs.set i (f x) } | none => r

/-- Whether a request is ready: decoded, or found in the cache (log entry 30). -/
def SampleReq.ready (q : SampleReq) : Bool := q.pic.isSome || q.body.isSome

/-- The accessor of a list's destinations: the kernel that named it. -/
def State.runAcc (s : State) (r : SampleRun) : Acc :=
  match s.kern? r.seq r.layer with
  | some k => k.accAt (k.cores.headD 0)
  | none => accOf r.seq

/-- Rows written from an address at a stride; the first address that does not take them. -/
def State.writeRows (s : State) (a : Acc) (dst stride : Nat) : List (List Byte) → State × Option Nat
  | [] => (s, none)
  | row :: rest =>
    match s.writeVA a dst row false with
    | none => (s, some ((s.firstBad a dst row.length true).getD dst))
    | some s => State.writeRows s a (dst + stride) stride rest

/-- A sample's rows written at a slot's destination, or the command ended. -/
def State.writeSample (s : State) (r : SampleRun) (dst stride : Nat) (rows : List (List Byte)) (k : State → State) : State :=
  match s.writeRows (s.runAcc r) dst stride rows with
  | (s, none) => k s
  | (s, some va) => s.useFault r.seq 8 va

/-- A slot padded: a zero sample, its mask bit 0 (R468). -/
def State.padSlot (s : State) (r : SampleRun) (i : Nat) (q : Option SampleReq) : State :=
  match r.slots[i]? with
  | none => s
  | some x =>
    let p := ((q.bind (fun q => s.ctxOf q.stream)).map (fun c => (s.ctx c).prep)).getD (parsePrep [])
    s.writeSample r x.dst p.dstr (if q.isSome && p.ofmt != 0 then p.zeros else []) (fun s =>
      match s.run? r.seq r.addr with
      | some r => s.setRun (r.setSlot i (fun x => { x with how := .padded, mask := false, prepared := true }))
      | none => s)

/-- A request's sample sent to its stream's mail slot for a slot of the list (R463, R474). -/
def State.prepare (s : State) (r : SampleRun) (i : Nat) (q : SampleReq) (how : How) : State :=
  let c := q.stream % 512
  let b := recField (s.ctx c).desc 34 1
  let m := 4 * (b % 32) + b2n (bitOf b 5)
  let v := s.mailSlot m
  let frame := match q.pic with | some p => p.frame | none => q.frame
  let j : StreamJob := { seq := r.seq, list := r.addr, slot := i, ctx := c, frame := frame, pic := q.pic, body := q.body.getD [] }
  let s := s.setMail m { v with feeds := v.feeds ++ [j], sent := if v.feeds = [] then 0 else v.sent }
  s.setRun (r.setSlot i (fun x => { x with how := how, mask := true, stream := q.stream, frame := frame }))

/-- A corrupt request under CONCEAL, PAD or STRICT (R468): one that cannot be concealed is padded. -/
def State.corruptReq (s : State) (r : SampleRun) (i : Nat) (q : SampleReq) : State :=
  match r.policy with
  | 0 => let s := s.setFlag r.seq 1
         if q.hopeless then s.padSlot r i (some q) else s.prepare r i q .concealed
  | 1 => (s.setFlag r.seq 1).padSlot r i (some q)
  | _ => s.endCmd r.seq .corruptInput

/-- Under REPLACE, the lowest unsettled slot filled as R469 lays down, `n` queue entries at most. -/
def State.fillSlot (s : State) (r : SampleRun) : Nat → State
  | 0 => s
  | n + 1 =>
    let i := r.settled
    match r.slots[i]?, r.reqs[i]? with
    | some x, some own =>
      if x.prepared || x.req.isSome then s
      else
        let take := fun (j : Nat) (q : SampleReq) (s : State) (r : SampleRun) =>
          let r := { (r.setSlot i (fun x => { x with req := some j })) with queue := r.queue.filter (fun k => k != j) }
          (s.setRun r).prepare r i q (if j ≠ i then .substituted else if q.body.isSome then .cache else .decoded)
        let pad := fun (s : State) (r : SampleRun) => (s.setRun r).padSlot r i (some own)
        match r.queue with
        | [] => pad s r
        | j :: rest =>
          match r.reqs[j]? with
          | none => s
          | some q =>
            if q.ready then take j q s r
            else if !(own.deadline.map (fun d => decide (d ≤ s.nowUs))).getD false then s
            else
              let r := { (r.setReq j (fun q => { q with late := true })) with queue := rest ++ [j] }
              let s := (s.setRun r).setFlag r.seq 2
              match r.queue.find? (fun k => ((r.reqs[k]?).map SampleReq.ready).getD false) with
              | none => pad s r
              | some k => match r.reqs[k]? with | some q => take k q s r | none => s.fillSlot r n
    | _, _ => s

/-- A list's next slot filled, when its policy is REPLACE. -/
def State.fillRun (s : State) (seq : Word) (addr : Nat) : State :=
  match s.run? seq addr with
  | none => s
  | some r => if r.policy = 2 then s.fillSlot r (r.reqs.length + 1) else s

/-- A request that has become ready or hopeless dealt with (R468, R469). -/
def State.reqReady (s : State) (seq : Word) (addr i : Nat) : State :=
  match s.run? seq addr with
  | none => s
  | some r =>
    match r.reqs[i]?, r.slots[i]? with
    | some q, some x =>
      let bad := q.hopeless || ((q.pic.bind Picture.damage).isSome)
      if r.policy = 2 then
        if bad then
          let r := { (r.setReq i (fun q => { q with gone := true, pic := none })) with queue := r.queue.filter (fun j => j != i) }
          ((s.setRun r).setFlag seq 1).fillRun seq addr
        else s.fillRun seq addr
      else if x.prepared || x.how != .pending then s
      else if bad then s.corruptReq r i q
      else s.prepare r i q (if q.body.isSome then .cache else .decoded)
    | _, _ => s

/-- The requests of a stream that still wait for a decode. -/
def State.wanting (s : State) (id : Nat) : List (Word × Nat × Nat × SampleReq) :=
  s.video.runs.flatMap (fun r => ((List.range r.reqs.length).zip r.reqs).filterMap (fun p =>
    if p.2.stream == id && !p.2.ready && !p.2.hopeless && !p.2.gone && !((r.slots[p.1]?.map (fun x => r.policy != 2 && (x.prepared || x.how != .pending))).getD false)
    then some (r.seq, r.addr, p.1, p.2) else none))

/-- The requests of a frame of a stream made ready with a picture, each dealt with in turn. -/
def State.offer (s : State) (id frame : Nat) (pic : Picture) : State :=
  (s.wanting id).foldl (fun s w =>
    if w.2.2.2.frame = frame then
      match s.run? w.1 w.2.1 with
      | some r => (s.setRun (r.setReq w.2.2.1 (fun q => { q with pic := some pic }))).reqReady w.1 w.2.1 w.2.2.1
      | none => s
    else s) s

/-- A request that cannot be served at all, its error entered where its stream has a ring (R468, R471). -/
def State.hopeless (s : State) (w : Word × Nat × Nat × SampleReq) (kind : Nat) : State :=
  match s.run? w.1 w.2.1 with
  | none => s
  | some r =>
    let s := s.setRun (r.setReq w.2.2.1 (fun q => { q with hopeless := true }))
    let s := match s.ctxOf w.2.2.2.stream with
      | some c => s.errorEntry c w.2.2.2.frame { kind := kind, byte := (s.ctx c).pos, bx := 0, by_ := 0, blocks := 0 }
      | none => s
    s.reqReady w.1 w.2.1 w.2.2.1

/-- The requests of a stream beyond the end of its bitstream given up (R468). -/
def State.pastEnd (s : State) (c : Nat) : State :=
  let x := s.ctx c
  match x.total with
  | none => s
  | some n => (s.wanting (c + 512 * x.gen.toNat)).foldl (fun s w => if n ≤ w.2.2.2.frame then s.hopeless w 5 else s) s

/-! ### Engines -/

/-- A decode engine. -/
def State.dec (s : State) (e : Nat) : Engine := Tab.at s.video.engines e {}

/-- The state with a decode engine written. -/
def State.setDec (s : State) (e : Nat) (v : Engine) : State := { s with video := { s.video with engines := Tab.put s.video.engines e v } }

/-- The average decode time of a stream in µs (R457), once it has completed a frame. -/
def StreamCtx.avg (x : StreamCtx) : Option Nat := if x.times = [] then none else some ((x.times.foldl (fun a b => a + b) 0) / x.times.length)

/-- The bitstream bytes at hand and whether they end there (R461). -/
def State.bitstream (s : State) (x : StreamCtx) : Nat × Bool :=
  let prod := recField x.desc 16 8
  if prod = 0 then (recField x.desc 8 8, true)
  else
    let w := leNat (s.fetchVA {} prod 8)
    (w % 2 ^ 63, w.testBit 63)

/-- Earliest of some deadlines, 2^63 for none. -/
def earliest (l : List (Option Nat)) : Nat := l.foldl (fun a d => min a (d.getD (2 ^ 63))) (2 ^ 64)

/-- A context's demand (R455): the order it is served in, and the frame it wants. -/
def State.demand (s : State) (c : Nat) : Option (Nat × Nat) :=
  let x := s.ctx c
  let b := s.bitstream x
  let ws := s.wanting (c + 512 * x.gen.toNat)
  match leastBy (fun (w : Word × Nat × Nat × SampleReq) => w.2.2.2.deadline.getD (2 ^ 63)) ws with
  | some (w : Word × Nat × Nat × SampleReq) =>
    let back := decide (w.2.2.2.frame < x.next)
    if x.state = 1 ∧ (back ∨ x.pos < b.1) then some (earliest (ws.map (fun (w : Word × Nat × Nat × SampleReq) => w.2.2.2.deadline)), w.2.2.2.frame) else none
  | none =>
    if x.state = 1 ∧ x.pos < b.1 ∧ x.total.all (fun n => decide (x.next < n)) ∧ x.store.length < recField x.desc 33 1 ∧
        x.next < x.asked + recField x.desc 33 1 then some (2 ^ 65, x.next) else none

/-- The latest random access point at or before a frame, with its bitstream position; the start where none is recorded (R456). -/
def StreamCtx.seekTo (x : StreamCtx) (f : Nat) : Nat × Nat :=
  (x.raps.filter (fun r => decide (r.1 ≤ f))).foldl (fun a r => if a.1 ≤ r.1 then r else a) (0, 0)

/-- An idle engine's next context at a frame boundary (R455, R456). -/
def State.engineNext (s : State) (e : Nat) : State :=
  let v := s.dec e
  if v.busy then s
  else
    let cs := (s.video.ctxs.filter (fun (p : Nat × StreamCtx) => p.2.state == 1 && p.2.engine == e)).map Prod.fst
    let ds := cs.filterMap (fun c => (s.demand c).map (fun d => (c, d)))
    match leastBy (fun (q : Nat × Nat × Nat) => q.2.1) ds with
    | none => s
    | some (c, _, f) =>
      let x := s.ctx c
      let s := if f < x.next then (match x.seekTo f with | (n, p) => s.setCtx c { x with next := n, pos := p }) else s
      let s := if v.ctx = c then s else s.bump .io 0x142 1
      s.setDec e { v with busy := true, ctx := c, startUs := s.nowUs }

/-- Every idle engine given a frame to decode. -/
def State.enginesNext (s : State) : State := (List.range 16).foldl (fun s e => s.engineNext e) s

/-- A picture put into its picture store, whose run-ahead share holds AHEAD + 2 (log entry 31). -/
def StreamCtx.keep (x : StreamCtx) (p : Picture) : StreamCtx :=
  let l := x.store.filter (fun q => q.frame != p.frame) ++ [p]
  { x with store := l.drop (l.length - (recField x.desc 33 1 + 2)) }

/-- A shown picture delivered: to the requests that want it, or kept as run-ahead; a frame nobody wants was only a
reference (R455, R456). -/
def State.deliverPicture (s : State) (c : Nat) (pic : Picture) : State :=
  let x := s.ctx c
  let id := c + 512 * x.gen.toNat
  let wanted := (s.wanting id).any (fun w => w.2.2.2.frame == pic.frame)
  let ahead := decide (x.asked ≤ pic.frame)
  let x := { x with last := some pic }
  if wanted then (s.setCtx c x).offer id pic.frame pic
  else if ahead then s.setCtx c (x.keep pic)
  else (s.setCtx c x).bump .io 0x141 1

/-- The picture a decoded frame gives, concealed as R470 lays down: none where nothing can stand for it (R468). -/
def StreamCtx.outcome (x : StreamCtx) (f : DecodedFrame) : Option Picture :=
  let ovr := decide (recField x.desc 36 2 < f.width.toNat) || decide (recField x.desc 38 2 < f.height.toNat)
  let d : Damage := (f.damage.map FrameDamage.toDamage).getD { kind := if ovr then 4 else 0, byte := x.pos, bx := 0, by_ := 0, blocks := 0 }
  if ovr then none
  else if f.lost then x.last.map (fun q => q.copyWhole x.next d)
  else
    match f.damage with
    | none => some (pictureOf x.next f)
    | some _ => some ((pictureOf x.next f).conceal x.last d)

/-- A context after a frame: counts, times, positions, random access points, the end of the bitstream once reached. -/
def State.afterFrame (s : State) (c e : Nat) (shown rap damaged : Bool) (consumed : Nat) : State :=
  let x := s.ctx c
  let v := s.dec e
  let pos := x.pos + consumed
  let b := s.bitstream x
  let next := x.next + b2n shown
  let x' := { x with
    frames := x.frames + 1, damaged := x.damaged + b2n damaged, times := (s.nowUs - v.startUs) :: x.times.take 63
    raps := if rap && !x.raps.any (fun r => r.1 == x.next) then x.raps ++ [(x.next, x.pos)] else x.raps
    next := next, pos := pos, consumed := max x.consumed pos
    total := if b.2 && decide (b.1 ≤ pos) then some next else x.total }
  let s := (s.setCtx c x').setDec e { v with busy := false, frames := v.frames + 1 }
  let s := s.bump .io 0x140 1
  let s := if damaged then s.bump .io 0x143 1 else s
  let prod := recField x.desc 16 8
  if prod = 0 then s else s.storeVA {} (prod + 8) (leBytes 8 x'.consumed)

/-- FRAME_DECODED (R449 to R451, R455 to R457, R461, R470): the engine's frame ends. It waits while its bytes are not written yet or
have not come, and no frame without damage comes of bytes that do not parse (log entry 130). -/
def execFrameDecoded (e : DecIx) (f : DecodedFrame) (s : State) : Host.Outcome State Fault Refusal :=
  let v := s.dec e.val
  let c := v.ctx
  let x := s.ctx c
  if !v.busy || x.state != 1 || decide ((s.bitstream x).1 < x.pos + f.consumed.toNat) then .next s
  else if !s.bitReady x x.pos f.consumed.toNat then .next (s.askBits x x.pos f.consumed.toNat)
  else if !s.parses x f then .next s
  else
    let s := (s.countBits f.consumed.toNat).perturb 4 e.val |>.1
    let out := x.outcome f
    let bad := f.lost || f.damage.isSome || out.isNone
    let frame := x.next
    let s := if bad then s.errorEntry c frame (match out.bind Picture.damage with
        | some d => d
        | none => { kind := 4, byte := x.pos, bx := 0, by_ := 0, blocks := 0 }) else s
    let s := s.afterFrame c e.val f.shown f.rap bad f.consumed.toNat
    let s := if !f.shown then s.bump .io 0x141 1
      else
        match out with
        | some pic => s.deliverPicture c pic
        | none => (s.wanting (c + 512 * x.gen.toNat)).foldl (fun (s : State) (w : Word × Nat × Nat × SampleReq) => if w.2.2.2.frame = frame then s.hopeless w 4 else s) s
    .next (s.pastEnd c).enginesNext

/-- BITSTREAM_PRODUCER_ADVANCE (R461): the producer word read again; a context that waited for bytes has demand again, and
the end of the bitstream is met where the word marks it. -/
def execBitstreamProducerAdvance (c : StreamIx) (s : State) : Host.Outcome State Fault Refusal :=
  let x := s.ctx c.val
  if x.state ≠ 1 then .next s
  else
    let b := s.bitstream x
    let x' := { x with total := if b.2 && decide (b.1 ≤ x.pos) then some x.next else x.total }
    .next ((s.setCtx c.val x').pastEnd c.val).enginesNext

/-- A frame abandoned (R457): corrupt in every block, `blocks` of them, with kind TIMEOUT. -/
def State.abandon (s : State) (e blocks : Nat) : State :=
  let c := (s.dec e).ctx
  let x := s.ctx c
  let d : Damage := { kind := 7, byte := x.pos, bx := 0, by_ := 0, blocks := blocks }
  let frame := x.next
  let out := x.last.map (fun q => q.copyWhole frame d)
  let s := ((s.errorEntry c frame d).afterFrame c e true false true 0)
  let s := match out with
    | some pic => s.deliverPicture c pic
    | none => (s.wanting (c + 512 * x.gen.toNat)).foldl (fun (s : State) (w : Word × Nat × Nat × SampleReq) => if w.2.2.2.frame = frame then s.hopeless w 7 else s) s
  (s.pastEnd c).enginesNext

/-- DECODE_ABANDON (R457): after 1,000 times the stream's average, or 100 ms. -/
def execDecodeAbandon (e : DecIx) (blocks : Word) (s : State) : Host.Outcome State Fault Refusal :=
  let v := s.dec e.val
  let run := s.nowUs - v.startUs
  if v.busy ∧ (100000 ≤ run ∨ (s.ctx v.ctx).avg.any (fun a => decide (1000 * a ≤ run))) then .next (s.abandon e.val blocks.toNat) else .next s

/-- DECODE_HANG (R620): a report, the engine reset, its frame abandoned. -/
def execDecodeHang (e : DecIx) (blocks : Word) (s : State) : Host.Outcome State Fault Refusal :=
  if (s.dec e.val).busy then .next ((s.report 0x19 (subjDec e.val) (subjDec e.val) 0xFFFFFFFF#32 0).abandon e.val blocks.toNat) else .next s

/-! ### The rushes cache -/

/-- Bytes 0 to 7 of the digest that keys a preparation (R473). -/
def StreamCtx.prepKey (x : StreamCtx) : Nat := leNat ((sha3_256 (slice x.desc 88 40)).take 8)

/-- SOURCE_KEY of a stream. -/
def StreamCtx.sourceKey (x : StreamCtx) : Nat := recField x.desc 24 8

/-- CACHE of a stream. -/
def StreamCtx.cache (x : StreamCtx) : Nat := fld (recField x.desc 32 1) 4 2

/-- Whether an entry has a key. -/
def RushEnt.has (r : RushEnt) (key frame prep : Nat) : Bool := r.key == key && r.frame == frame && r.prep == prep

/-- A lookup (R474): the body of the entry found, which the hit is now reading. Nothing is found while a FLUSH or INVAL
waits (log entry 32). -/
def State.lookup (s : State) (x : StreamCtx) (frame : Nat) : State × Option (List Byte) :=
  let v := s.video.rush
  if x.cache ≠ 1 ∧ x.cache ≠ 2 then (s, none)
  else
    match (if v.busy.isSome then none else v.ents.find? (fun r => r.has x.sourceKey frame x.prepKey)) with
    | none => ({ s with video := { s.video with rush := { v with miss := v.miss + 1 } } }, none)
    | some r =>
      let ents := v.ents.map (fun q => if q == r then { q with hitAt := v.tick + 1, reading := q.reading + 1 } else q)
      ({ s with video := { s.video with rush := { v with ents := ents, hit := v.hit + 1, tick := v.tick + 1 } } }.bump .io 0x146 1, some r.body)

/-- Blocks of 64 KiB an entry takes, its header among them. -/
def rushBlocks (body : List Byte) : Nat := ceilDiv (64 + body.length) 65536

/-- Blocks of the cache's region. -/
def State.rushCap (s : State) : Nat := 16 * s.sheet 28 4

/-- Blocks in use. -/
def Rush.used (v : Rush) : Nat := (v.ents.map RushEnt.blocks).foldl (fun a b => a + b) 0

/-- Entries evicted in least-recently-hit order until `need` blocks are free, `n` of them at most (R476). -/
def Rush.evictFor (v : Rush) (cap need : Nat) : Nat → Rush
  | 0 => v
  | n + 1 =>
    if v.used + need ≤ cap then v
    else
      match leastBy RushEnt.hitAt (v.ents.filter (fun r => r.reading == 0)) with
      | none => v
      | some r => Rush.evictFor { v with ents := v.ents.erase r, evict := v.evict + 1 } cap need n

/-- An insertion's last write acknowledged (R475, R476). -/
def State.rushInsert (s : State) (i : RushIns) : State :=
  let v := s.video.rush
  let drop := s.bump .io 0x147 1
  if v.ents.any (fun r => r.has i.key i.frame i.prep) then drop
  else
    let need := rushBlocks i.body
    let w := v.evictFor s.rushCap need (v.ents.length + 1)
    if s.rushCap < w.used + need then { drop with video := { drop.video with rush := w } }
    else
      let ent : RushEnt := { key := i.key, frame := i.frame, prep := i.prep, blocks := need, body := i.body, hitAt := w.tick + 1 }
      { s with video := { s.video with rush := { w with ents := w.ents ++ [ent], tick := w.tick + 1 } } }

/-- RUSH_INSERT_DONE (R475, R476): the n-th insertion in progress. -/
def execRushInsertDone (n : Half) (s : State) : Host.Outcome State Fault Refusal :=
  let v := s.video.rush
  match v.inserts[n.toNat]? with
  | none => .next s
  | some i => .next ({ s with video := { s.video with rush := { v with inserts := v.inserts.eraseIdx n.toNat } } }.rushInsert i)

/-- A FLUSH (`true`) or INVAL done once no read is in progress. -/
def Rush.discard (v : Rush) (flush : Bool) : Rush :=
  let hit := fun (k : Nat) => flush || k == v.keyReg.toNat
  let gone := v.ents.filter (fun r => hit r.key)
  { v with ents := v.ents.filter (fun r => !hit r.key), inserts := v.inserts.filter (fun i => !hit i.key), busy := none
           disc := BitVec.ofNat 16 (min gone.length 0xFFFF) }

/-- A waiting FLUSH or INVAL done when the last read has ended. -/
def Rush.settle (v : Rush) : Rush :=
  match v.busy with
  | some f => if v.ents.any (fun r => r.reading != 0) then v else v.discard f
  | none => v

/-- A write of RUSH_CTL (R476, R479): ignored while one is in progress; the insertions in progress are discarded. -/
def State.rushCtl (s : State) (flush : Bool) : State :=
  let v := s.video.rush
  if v.busy.isSome then s
  else
    let hit := fun (k : Nat) => flush || k == v.keyReg.toNat
    { s with video := { s.video with rush := Rush.settle { v with busy := some flush, inserts := v.inserts.filter (fun i => !hit i.key) } } }

/-- RUSH_FLUSH (R476). -/
def execRushFlush (s : State) : Host.Outcome State Fault Refusal :=
  if s.barTakes .fromE then .next (s.rushCtl true) else .next (s.barDropped 0x70020)

/-- RUSH_INVAL (R476). -/
def execRushInval (s : State) : Host.Outcome State Fault Refusal :=
  if s.barTakes .fromE then .next (s.rushCtl false) else .next (s.barDropped 0x70020)

/-- A hit's read of an entry over. -/
def State.readOver (s : State) (x : StreamCtx) (frame : Nat) : State :=
  let v := s.video.rush
  { s with video := { s.video with rush := Rush.settle { v with ents := v.ents.map (fun r =>
      if r.has x.sourceKey frame x.prepKey then { r with reading := r.reading - 1 } else r) } } }

/-! ### The list read, deadlines and settling -/

/-- A destination's check (R465): its sample lies in the bound cluster's share of the allocation. -/
def State.dstOk (s : State) (k : Kern) (x : StreamCtx) (dst : Nat) : Bool :=
  let a := k.accAt (k.cores.headD 0)
  let p := x.prep
  dst / 2 ^ 52 == 0x13 && dst.testBit 30 && k.clusters[fld dst 25 5]? == some (recField x.desc 34 1 % 32) &&
  (s.firstBad a dst (max 1 p.span) true).isNone && dst % 2 ^ 25 + p.span ≤ 2 ^ 25

/-- A request's first step when its list is read: the cache, the picture store, the end of the bitstream (R455, R468, R474). -/
def State.startReq (s : State) (seq : Word) (addr i : Nat) : State :=
  match (s.run? seq addr).bind (fun r => r.reqs[i]?) with
  | none => s
  | some q =>
    let put := fun (s : State) (f : SampleReq → SampleReq) =>
      match s.run? seq addr with | some r => s.setRun (r.setReq i f) | none => s
    match s.ctxOf q.stream with
    | none => s.hopeless (seq, addr, i, q) 6
    | some c =>
      let x := s.ctx c
      match s.lookup x q.frame with
      | (s, some body) => (put s (fun q => { q with body := some body })).reqReady seq addr i
      | (s, none) =>
        let s := s.setCtx c { x with asked := max x.asked (q.frame + 1) }
        match x.store.find? (fun p => p.frame == q.frame) with
        | some pic =>
          let s := s.setCtx c { s.ctx c with store := (s.ctx c).store.filter (fun p => p.frame != q.frame) }
          (put s (fun q => { q with pic := some pic })).reqReady seq addr i
        | none => if x.total.any (fun n => decide (n ≤ q.frame)) then s.hopeless (seq, addr, i, q) 5 else s

/-- A sample list read at its command's first dispatch (R464, R465): its run, or none where R465 refuses it. -/
def State.readList (s : State) (seq : Word) (k : Kern) (addr : Nat) : Option SampleRun :=
  let es := s.sampleEntries addr
  let h := s.fetchVA {} addr 32
  let ok := es.all (fun e => match s.ctxOf (recField e 0 2) with | some c => s.dstOk k (s.ctx c) (recField e 8 8) | none => true)
  if !ok then none
  else
    let q := es.map (fun e => ({ stream := recField e 0 2, frame := recField e 4 4
                                 deadline := if recField e 16 4 = 0 then none else some (s.nowUs + recField e 16 4) } : SampleReq))
    let pol := ((es.filterMap (fun e => s.livePolicy (recField e 0 2))).head?).getD 0
    some { seq := seq, layer := k.layer, addr := addr, slate := recField h 4 4 % 131072, mask := recField h 8 8, policy := pol, reqs := q
           slots := es.map (fun e => ({ dst := recField e 8 8, stream := recField e 0 2, frame := recField e 4 4 } : SampleSlot))
           queue := if pol = 2 then List.range q.length else [] }

/-- The ingest area before any slot has settled: no slot substituted (R477). -/
def ingestStart : List Byte := leBytes 16 0 ++ leBytes 2 0xFFFF

/-- A sample list begun. -/
def State.startList (s : State) (seq : Word) (k : Kern) (addr : Nat) : State :=
  match s.readList seq k addr with
  | none => s.endCmd seq .shapeOver
  | some r =>
    let s := s.updCmd seq (fun c => { c with data := { c.data with ingest := ingestStart } })
    let s := { s with video := { s.video with runs := s.video.runs ++ [r] } }
    (List.range r.reqs.length).foldl (fun s i => s.startReq seq addr i) s

/-- The sample lists of a command begun (R464), on a kernel of its placement. -/
def State.startSamples (s : State) (seq : Word) (k : Kern) : State :=
  match s.cmd? seq with
  | none => s
  | some c => ((s.sampleLists c).foldl (fun s a => s.startList seq k a) s).enginesNext

/-- A field of the ingest area with `n` added. -/
def Cmd.countIngest (c : Cmd) (off n : Nat) : Cmd :=
  let l := c.data.ingest
  let l' := slice l 0 off ++ leBytes 2 (sat16 (recField l off 2 + n)) ++ slice l (off + 2) (16 - off)
  { c with data := { c.data with ingest := l' } }

/-- A late request counted (R466, R478, R480). -/
def State.countLate (s : State) (seq : Word) (addr i : Nat) (q : SampleReq) : State :=
  if q.late then s
  else
    let s := match s.run? seq addr with | some r => s.setRun (r.setReq i (fun q => { q with late := true })) | none => s
    let s := s.bump .io 0x144 1
    let c := q.stream % 512
    let x := s.ctx c
    let s := s.setCtx c { x with late := min 255 (x.late + 1) }
    s.updCmd seq (fun c => c.countIngest 14 1)

/-- A late request disposed of (R468): CONCEAL takes the stream's most recent picture, or pads without one. -/
def State.disposeLate (s : State) (r : SampleRun) (i : Nat) (q : SampleReq) : State :=
  match r.policy with
  | 0 =>
    let s := s.setFlag r.seq 2
    match (s.ctxOf q.stream).bind (fun c => (s.ctx c).last) with
    | some pic => s.prepare r i { q with pic := some pic, body := none } .concealed
    | none => s.padSlot r i (some q)
  | 1 => (s.setFlag r.seq 2).padSlot r i (some q)
  | 2 => s.fillRun r.seq r.addr
  | _ => s.endCmd r.seq .lateInput

/-- Whether a request is late (R466): its deadline has passed, or its frame's decode has run for 100 times the average. -/
def State.isLate (s : State) (q : SampleReq) : Bool :=
  (q.deadline.map (fun d => decide (d ≤ s.nowUs))).getD false ||
  (match s.ctxOf q.stream with
   | none => false
   | some c =>
     let x := s.ctx c
     let v := s.dec x.engine
     v.busy && v.ctx == c && x.next == q.frame && x.avg.any (fun a => decide (100 * a ≤ s.nowUs - v.startUs)))

/-- SAMPLE_DEADLINE (R466, R468, R469): a slot of the command's n-th list whose request is late. -/
def execSampleDeadline (seq : Word) (n : Byte) (slot : Half) (s : State) : Host.Outcome State Fault Refusal :=
  match (s.video.runs.filter (fun r => r.seq == seq))[n.toNat]? with
  | none => .next s
  | some r =>
    match r.reqs[slot.toNat]?, r.slots[slot.toNat]? with
    | some q, some x =>
      let held := q.body.isSome && (s.mailSlot (4 * (recField (s.ctx (q.stream % 512)).desc 34 1 % 32) + b2n (bitOf (recField (s.ctx (q.stream % 512)).desc 34 1) 5))).feeds.any
        (fun j => j.seq == seq && j.list == r.addr && j.slot == slot.toNat)
      if !s.isLate q || x.prepared || q.gone || q.late then .next s
      else if q.ready && !held then .next (s.fillRun seq r.addr)
      else
        let s := s.countLate seq r.addr slot.toNat q
        match s.run? seq r.addr with
        | none => .next s
        | some r =>
          if r.policy = 2 then .next (s.fillRun seq r.addr)
          else if x.how != .pending then .next s
          else .next (s.disposeLate r slot.toNat q).enginesNext
    | _, _ => .next s

/-- The code of HOW (R464). -/
def How.code : How → Nat
  | .pending => 0 | .decoded => 1 | .cache => 2 | .concealed => 3 | .padded => 4 | .substituted => 5 | .failed => 6

/-- A list entry as it is rewritten at settling (R464, R467). -/
def settledEntry (old : List Byte) (x : SampleSlot) (own : SampleReq) : List Byte :=
  let d := own.pic.bind Picture.damage
  leBytes 2 x.stream ++ slice old 2 2 ++ leBytes 4 x.frame ++ slice old 8 12 ++
  leBytes 1 (x.how.code + 8 * b2n own.late + 16 * b2n (d.isSome || own.hopeless || own.gone)) ++ leBytes 1 0 ++
  leBytes 2 (sat16 ((d.map Damage.blocks).getD 0)) ++ leBytes 4 ((d.map Damage.byte).getD 0) ++
  leBytes 4 ((d.map (fun d => d.bx % 65536 + 65536 * d.by_)).getD 0)

/-- The ingest area with one more slot settled (R477). -/
def ingestSettled (l : List Byte) (how : How) (i : Nat) : List Byte :=
  let inc := fun k => leBytes 2 (sat16 (recField l k 2 + 1))
  let at_ := fun k h => if how = h then inc k else slice l k 2
  inc 0 ++ at_ 2 .decoded ++ at_ 4 .cache ++ at_ 6 .concealed ++ at_ 8 .padded ++ at_ 10 .substituted ++ slice l 12 4 ++
  (if how = .substituted ∧ recField l 16 2 = 0xFFFF then leBytes 2 i else slice l 16 2)

/-- The requests left when the last slot settles dropped (R469). -/
def State.dropLeft (s : State) (r : SampleRun) : State :=
  if r.settled = r.slots.length ∧ r.queue ≠ [] then
    let n := r.queue.length
    let s := s.setRun { r with queue := [], dropped := n }
    s.updCmd r.seq (fun c => c.countIngest 12 n)
  else s

/-- The lowest unsettled slot of a list settled (R467): entry, mask, SETTLED, then one slate add. -/
def State.settleSlot (s : State) (r : SampleRun) (x : SampleSlot) (own : SampleReq) : State :=
  let i := r.settled
  let a := accOf r.seq
  let at_ := r.addr + 32 + 32 * i
  s.readFor a r.seq 8 at_ 32 (fun old s => s.writeFor a r.seq 8 at_ (settledEntry old x own) (fun s =>
    s.readFor a r.seq 8 (r.mask + i / 8) 1 (fun m s =>
      let bit := 2 ^ (i % 8)
      let v := leNat m
      let v' := if x.mask then v ||| bit else if v.testBit (i % 8) then v - bit else v
      s.writeFor a r.seq 8 (r.mask + i / 8) (leBytes 1 v') (fun s => s.writeFor a r.seq 8 (r.addr + 2) (leBytes 2 (i + 1)) (fun s =>
        let r := { r with settled := i + 1 }
        let s := s.setRun r
        let s := if x.how = .padded ∨ x.how = .substituted then s.bump .io 0x145 1 else s
        let s := s.updCmd r.seq (fun c => { c with data := { c.data with ingest := ingestSettled c.data.ingest x.how i } })
        let s := s.dropLeft r
        match s.progSlate r.seq r.slate with
        | some j => ((s.slateAsk .io j .add 1 0).1).fillRun r.seq r.addr
        | none => (s.report 0x20 (subjIo 8) (subjIo 8) r.seq r.slate).endCmd r.seq .deviceFault)))))

/-- SLOT_SETTLE (R467): the lowest unsettled slot of the command's n-th list, once its sample is written or disposed of. -/
def execSlotSettle (seq : Word) (n : Byte) (s : State) : Host.Outcome State Fault Refusal :=
  match (s.video.runs.filter (fun r => r.seq == seq))[n.toNat]? with
  | none => .next s
  | some r =>
    match r.slots[r.settled]?, r.reqs[r.settled]? with
    | some x, some own => if x.prepared then .next (s.settleSlot r x own) else .next s
    | _, _ => .next s

end Sys2Proof.Machine
end

