-- ==== Sys2Proof/Machine/Edge.lean ====
section
/-! DEFINITION. OPEN_STREAM and CLOSE_STREAM (R454, R458 to R462), the convolution of the edge engine (R255 to R257), and
the completion of edge jobs (R247 to R250). -/

namespace Sys2Proof.Machine

/-! ### Streams -/

/-- Whether a number is a power of two in a range. -/
def pow2In (n lo hi : Nat) : Bool := decide (lo ≤ n) && decide (n ≤ hi) && 2 ^ Nat.log2 n == n

/-- Whether a stream descriptor has a value OPEN_STREAM refuses with SHAPE_OVER (R82, R459, R460); MAP_ENTRIES is checked whether or
not there is a map ring, ERR_ENTRIES where there is an error ring (log entry 29). -/
def streamBad (d : List Byte) : Bool :=
  let f := recField d
  let p := parsePrep (slice d 64 64)
  fld (f 32 1) 4 2 == 3 || bitOf (f 32 1) 7 || fld (f 34 1) 6 2 != 0 || fld (f 35 1) 1 7 != 0 || f 60 4 != 0 || !bytesClear d 140 255 ||
  decide (16 < f 33 1) || decide (f 36 2 < 16) || decide (8192 < f 36 2) || decide (f 38 2 < 16) || decide (4352 < f 38 2) ||
  f 8 8 == 0 || (f 16 8 != 0 && !pow2In (f 8 8) 65536 (2 ^ 30)) || !pow2In (f 48 4) 1 65536 ||
  (f 128 8 != 0 && !pow2In (f 136 4) 1 65536) || decide (2 ≤ p.depth) || p.shapeBad

/-- Bytes of a picture store (R454). -/
def storeBytes (d : List Byte) : Nat :=
  let f := recField d
  let dpb := match fld (f 32 1) 0 2 with | 2 => 16 | 3 => 0 | _ => 8
  (dpb + f 33 1 + 2) * (f 36 2 * f 38 2 * (if bitOf (f 35 1) 0 then 6 else 3) / 2)

/-- Size of a picture-store page, log2: 2 MiB (DESIGN CHOICE, log entry 31). -/
def picLg : Nat := 21

/-- Picture-store pages of the reserve in use. -/
def State.reserveUsed (s : State) : Nat := s.video.ctxs.foldl (fun a p => a + p.2.reserve) 0

/-- Contexts bound to an engine. -/
def State.boundTo (s : State) (e : Nat) : Nat := (s.video.ctxs.filter (fun (p : Nat × StreamCtx) => p.2.state != 0 && p.2.engine == e)).length

/-- The engine with the fewest bound contexts among those in service, if it has room (R454, R562). -/
def State.freeEngine (s : State) : Option Nat :=
  match leastBy (fun e => s.boundTo e) (maskIxs 16 (s.sheet 136 2)) with
  | some e => if s.boundTo e < min 32 (s.sheet 138 1) then some e else none
  | none => none

/-- A stream opened in a context on an engine with the picture-store pages drawn for it (R458 to R460), or the command ended with
PAGE_EXHAUSTED where none could be drawn. The producer indices of its rings start at 0, and bytes 0 to 7 of a control block are left as the
host wrote them (DESIGN CHOICE, log entry 131). -/
def State.enterStream (s : State) (seq : Word) (cls : Nat) (d : List Byte) (c e fromRes : Nat) : Option (List Nat × State) → State
  | none => s.finishBare seq .pageExhausted
  | some (ps, s) =>
    let f := recField d
    let x : StreamCtx :=
      { state := 1, gen := (s.ctx c).gen, desc := d, engine := e, cls := cls, gateThr := BitVec.ofNat 32 (f 52 4) &&& 0xFF3FFFFF
        gateCtl := BitVec.ofNat 32 (f 56 4 % 4), reserve := fromRes, pages := ps }
    let s := s.setCtx c x
    let ring := fun (s : State) (at_ slot : Nat) => if at_ = 0 then s else s.storeVA (accOf seq) (at_ + 8) (leBytes 4 slot)
    let s := ring (ring s (f 40 8) (mapSlot x.prep.ow x.prep.oh)) (f 128 8) 32
    let s := s.flushMail (4 * (f 34 1 % 32) + b2n (bitOf (f 34 1) 5))
    (s.finish seq .ok (resultOf [(2, c + 512 * x.gen.toNat), (1, e)])).enginesNext

/-- OPEN_STREAM's allocation and start (R454, R460, R79, R446). -/
def State.openCtx (s : State) (seq : Word) (cls : Nat) (d : List Byte) : State :=
  let n := ceilDiv (storeBytes d) (2 ^ picLg)
  let fromRes := min n (s.sheet 148 4 / 2 - s.reserveUsed)
  match firstFrom (fun i => (s.ctx i).state == 0) 512 0, s.freeEngine with
  | some c, some e => s.enterStream seq cls d c e fromRes (s.drawPages picLg cls (n - fromRes))
  | _, _ => s.finishBare seq .pageExhausted

/-- OPEN_STREAM (R458 to R460). -/
def execOpenStream (seq : Word) (s : State) : Host.Outcome State Fault Refusal :=
  match s.turnOf seq 0x30 with
  | none => .next s
  | some c =>
    let a := c.fieldN 24 8
    match s.firstOwnBad seq [⟨a, 256, false, 1⟩] with
    | some va => .next (s.refuseOwn seq va)
    | none => .next (s.readFor (accOf seq) seq 8 a 256 (fun d s =>
        if streamBad d then s.finishBare seq .shapeOver
        else if (parsePrep (slice d 64 64)).fmt.isNone then s.finishBare seq .rejectedFormat
        else s.openCtx seq c.cls d))

/-- A context closed (R462): its pages go back where they came from, its generation moves on; its other registers read as after
power-on until the next OPEN_STREAM (DESIGN CHOICE, log entry 131). -/
def State.closeCtx (s : State) (c : Nat) : State :=
  let x := s.ctx c
  let b := recField x.desc 34 1
  let s := s.flushMail (4 * (b % 32) + b2n (bitOf b 5))
  let s := x.pages.foldl (fun s p => s.returnPage p picLg) s
  let s := s.setCtx c { gen := x.gen + 1 }
  let v := s.dec x.engine
  let s := if v.busy ∧ v.ctx = c then s.setDec x.engine { v with busy := false } else s
  s.enginesNext

/-- CLOSE_STREAM (R28, R462). -/
def execCloseStream (seq : Word) (s : State) : Host.Outcome State Fault Refusal :=
  match s.turnOf seq 0x31 with
  | none => .next s
  | some q =>
    match s.ctxOf (q.fieldN 24 2) with
    | none => .next (s.finishBare seq .zeroExtent)
    | some c =>
      let x := s.ctx c
      .next ((s.closeCtx c).finish seq .ok (resultOf [(4, x.frames.toNat), (4, x.damaged), (8, x.consumed)]))

/-! ### Convolution on the edge engine -/

/-- The fields of a convolution that CONV and the edge engine share (R227, R228, R229, R255). -/
structure ConvShape where
  ih : Nat
  iw : Nat
  cin : Nat
  cout : Nat
  groups : Nat
  fh : Nat
  fw : Nat
  sh : Nat
  sw : Nat
  dh : Nat
  dw : Nat
  pt : Nat
  pb : Nat
  pl : Nat
  pr : Nat
  deriving DecidableEq, Repr

/-- An output extent (R228). -/
def outExtent (i p f d st : Nat) : Nat := if i + p < d * (f - 1) + 1 then 0 else (i + p - d * (f - 1) - 1) / st + 1

/-- Output rows. -/
def ConvShape.oh (c : ConvShape) : Nat := outExtent c.ih (c.pt + c.pb) c.fh c.dh c.sh
/-- Output columns. -/
def ConvShape.ow (c : ConvShape) : Nat := outExtent c.iw (c.pl + c.pr) c.fw c.dw c.sw

/-- The input position an output position's tap reads (R228): none for padding. -/
def tapPos (o st pad f d ext : Nat) : Option Nat :=
  if o * st + f * d < pad then none else if o * st + f * d - pad < ext then some (o * st + f * d - pad) else none

/-- The shape of an edge convolution's descriptor (R255). -/
def edgeShape (b : List Byte) : ConvShape :=
  let f := recField b
  { ih := f 32 2, iw := f 34 2, cin := f 36 2, cout := f 38 2, groups := f 40 2, fh := f 42 1, fw := f 43 1, sh := f 44 1, sw := f 45 1
    dh := f 46 1, dw := f 47 1, pt := f 48 1, pb := f 49 1, pl := f 50 1, pr := f 51 1 }

/-- Whether a value lies between 1 and a bound. -/
def in1 (n hi : Nat) : Bool := decide (1 ≤ n) && decide (n ≤ hi)

/-- The formats of an edge convolution: operand, weight, output (R255). -/
def edgeFmts (b : List Byte) : Option (NumFmt × NumFmt × NumFmt) :=
  let one := fun (l : List NumFmt) o => (numFmtOfCode (recField b o 1 % 32)).bind (fun f => if l.contains f then some f else none)
  match one [.bf16, .fp16, .e4m3, .e5m2, .int8, .uint8, .uint16] 52, one [.bf16, .fp16, .e4m3, .e5m2] 53,
        one [.fp32, .bf16, .fp16, .e4m3, .uint8, .uint16] 54 with
  | some a, some w, some c => some (a, w, c)
  | _, _, _ => none

/-- Weight elements of a shape. -/
def ConvShape.weights (c : ConvShape) : Nat := c.groups * (c.fh * c.fw) * (c.cin / c.groups) * (c.cout / c.groups)

/-- The check of an edge convolution (R256, with the ranges of R255 in the order of R230). -/
def edgeConvBad (b : List Byte) : Option Status :=
  let c := edgeShape b
  let f := recField b
  if c.ih = 0 ∨ c.iw = 0 ∨ c.cin = 0 ∨ c.cout = 0 ∨ c.groups = 0 then some .zeroExtent
  else if in1 c.fh 11 && in1 c.fw 11 && in1 c.sh 16 && in1 c.sw 16 && in1 c.dh 16 && in1 c.dw 16 && (c.oh = 0 || c.ow = 0) then some .zeroExtent
  else if !(in1 c.fh 11 && in1 c.fw 11 && in1 c.sh 16 && in1 c.sw 16 && in1 c.dh 16 && in1 c.dw 16) || decide (1024 < c.cin) ||
      decide (1024 < c.cout) || decide (15 < c.pt) || decide (15 < c.pb) || decide (15 < c.pl) || decide (15 < c.pr) ||
      c.cin % c.groups != 0 || c.cout % c.groups != 0 || f 0 8 % 16 != 0 || f 16 8 % 16 != 0 ||
      fld (f 55 1) 0 2 == 3 || f 52 1 / 32 != 0 || f 53 1 / 32 != 0 || f 54 1 / 32 != 0 || f 55 1 / 4 != 0 || f 56 7 != 0 || f 63 1 / 4 != 0 then
    some .shapeOver
  else
    match edgeFmts b with
    | none => some .rejectedFormat
    | some (_, w, _) =>
      if (16 < c.cin / c.groups ∧ 16 < c.cout / c.groups) ∨ 65536 < c.weights * w.width / 8 then some .shapeOver else none

/-- The check of an EDGE descriptor (R230, R253, R256). -/
def edgeBad (b : List Byte) : Option Status :=
  match recField b 63 1 % 4 with
  | 0 => let p := parsePrep b
         if p.shapeBad || p.sourceBad then some .shapeOver else if p.fmt.isNone then some .rejectedFormat else none
  | 1 => edgeConvBad b
  | _ => some .shapeOver

/-- ACT of R255. -/
def actOf (act : Nat) (x : Word) : Word :=
  match act with
  | 1 => if (f32 x).lt (f32 0#32) then 0#32 else x
  | 2 => clip01 x
  | _ => x

/-- Elements of a run of bytes in a byte-wide or wider format. -/
def elemsOf (f : NumFmt) (bs : List Byte) : List Num :=
  tabulate (bs.length / (f.width / 8)) (fun i => f.value (recField bs (i * (f.width / 8)) (f.width / 8)))

/-- The outputs of an edge convolution, pixel by pixel, channel fastest (R257), padding fed as zero (R255); the order of the terms is
open. -/
def edgeConv (ctr : Nat) (c : ConvShape) (act : Nat) (cf : NumFmt) (inp wts : List Num) (bias : List Word) : List Conv :=
  let ci := c.cin / c.groups
  let co := c.cout / c.groups
  (List.range (c.oh * c.ow)).flatMap (fun px => (List.range c.cout).map (fun o =>
    let g := o / co
    let terms := (List.range (c.fh * c.fw)).flatMap (fun t =>
      match tapPos (px / c.ow) c.sh c.pt (t / c.fw) c.dh c.ih, tapPos (px % c.ow) c.sw c.pl (t % c.fw) c.dw c.iw with
      | some y, some x => (List.range ci).map (fun k =>
          (nth inp ((y * c.iw + x) * c.cin + g * ci + k) .nan).mul (nth wts (((g * (c.fh * c.fw) + t) * ci + k) * co + o % co) .nan))
      | _, _ => (List.range ci).map (fun k =>
          (Num.fin false 0 0).mul (nth wts (((g * (c.fh * c.fw) + t) * ci + k) * co + o % co) .nan)))
    let acc := (sumOrder ctr terms.length).foldl (fun a i => toF32 ((f32 a).add (nth terms i .nan))) (nth bias o 0#32)
    cf.convert .rne (f32 (actOf act acc))))

/-! ### Jobs -/

/-- Whether a run lies in the cluster memory of a cluster, the only memory its edge engine reaches. -/
def State.edgeReach (s : State) (n : Nat) (a : Acc) (va len : Nat) (wr : Bool) : Option Nat :=
  ((s.spans a wr (len + 1) va len).find? (fun p => match p.1 with
    | .sram o => o / 2 ^ 30 != n || !o.testBit 29
    | _ => true)).map (fun p => p.2.1)

/-- Rows read at a stride: bytes, or the first address out of reach. -/
def State.edgeRows (s : State) (n : Nat) (a : Acc) (va stride len : Nat) : Nat → Except Nat (List Byte)
  | 0 => .ok []
  | k + 1 =>
    match s.edgeReach n a va len false with
    | some v => .error v
    | none =>
      match State.edgeRows s n a (va + stride) stride len k with
      | .error v => .error v
      | .ok rest => .ok (s.fetchVA a va len ++ rest)

/-- Rows stored at a stride in reach. -/
def State.edgeStore (s : State) (n : Nat) (a : Acc) (va stride : Nat) : List (List Byte) → Except Nat State
  | [] => .ok s
  | r :: rest =>
    match s.edgeReach n a va r.length true with
    | some v => .error v
    | none => State.edgeStore (s.storeVA a va r) n a (va + stride) stride rest

/-- A core job whose access is out of reach (R180). -/
def State.edgeFault (s : State) (w : Nat) (seq : Word) (va : Nat) : State :=
  (s.report 0x20 (subjCore w) (subjCore w) seq va).endCmd seq .deviceFault

/-- The source planes of a core's preparation job. -/
def planeSource (p : Prep) (ys uvs : List Byte) : Source :=
  let z := p.depth + 1
  let at_ := fun (l : List Byte) i => recField l (i * z) z % (if p.depth = 0 then 256 else 1024)
  { depth := p.depth, luma := fun x y => at_ ys ((p.cy + y) * p.srcW + p.cx + x)
    chroma := fun c x y => at_ uvs ((p.cy / 2 + y) * p.srcW + 2 * (p.cx / 2 + x) + c) }

/-- A core's preparation job done (R249 to R252). -/
def State.prepJob (s : State) (n w : Nat) (seq : Word) (a : Acc) (b : List Byte) : State :=
  let p := parsePrep b
  let len := p.srcW * (p.depth + 1)
  match s.edgeRows n a p.srcY p.sstr len p.srcH, s.edgeRows n a p.srcUV p.sstr len (p.srcH / 2) with
  | .ok ys, .ok uvs =>
    match s.edgeStore n a p.dst p.dstr (p.sample s.freeCtr (planeSource p ys uvs)) with
    | .ok s => { s with freeCtr := s.freeCtr + 1 }
    | .error v => s.edgeFault w seq v
  | .error v, _ => s.edgeFault w seq v
  | _, .error v => s.edgeFault w seq v

/-- A core's convolution job done (R255 to R257). -/
def State.convJob (s : State) (n w : Nat) (seq : Word) (a : Acc) (b : List Byte) : State :=
  let c := edgeShape b
  let f := recField b
  match edgeFmts b with
  | none => s
  | some (af, wf, cf) =>
    let inN := c.ih * c.iw * c.cin * (af.width / 8)
    let biasN := if f 24 8 = 0 then 0 else 4 * c.cout
    match s.edgeRows n a (f 0 8) 0 inN 1, s.edgeRows n a (f 8 8) 0 (c.weights * (wf.width / 8)) 1, s.edgeRows n a (f 24 8) 0 biasN 1 with
    | .ok i, .ok wt, .ok bi =>
      let bias := tabulate c.cout (fun k => if biasN = 0 then 0#32 else BitVec.ofNat 32 (recField bi (4 * k) 4))
      let out := edgeConv s.freeCtr c (fld (f 55 1) 0 2) cf (elemsOf af i) (elemsOf wf wt) bias
      match s.edgeStore n a (f 16 8) 0 [out.flatMap (fun v => leBytes (cf.width / 8) v.bits)] with
      | .ok s => { s with freeCtr := s.freeCtr + 1 }
      | .error v => s.edgeFault w seq v
    | .error v, _, _ => s.edgeFault w seq v
    | _, .error v, _ => s.edgeFault w seq v
    | _, _, .error v => s.edgeFault w seq v

/-- Words read as a luma plane of 2 bytes a sample. -/
def lumaWords (bs : List Byte) : List Nat := tabulate (bs.length / 2) (fun i => recField bs (2 * i) 2)

/-- An insertion begun for a prepared sample (R475). -/
def State.beginInsert (s : State) (n : Nat) (x : StreamCtx) (frame : Nat) (rows : List (List Byte)) (luma : List Nat) : State :=
  let body := rows.flatten ++ luma.flatMap (leBytes 2)
  let v := s.video.rush
  let i : RushIns := { key := x.sourceKey, frame := frame, prep := x.prepKey, body := body }
  let s := { s with video := { s.video with rush := { v with inserts := v.inserts ++ [i] } } }
  s.setMail (4 * n + 3) ((s.mailSlot (4 * n + 3)).passPacket (64 + body.length))

/-- A stream job's sample written, gated, mapped, and inserted into the cache (R73, R250, R474, R475). -/
def State.streamSample (s : State) (n : Nat) (j : StreamJob) (r : SampleRun) (slot : SampleSlot) (pred : Option (List Nat)) : State :=
  let x := s.ctx j.ctx
  let p0 := x.prep
  let p := match j.pic with | some q => p0.clip q.width q.height | none => p0
  let rows := match j.pic with
    | some q => p.sample s.freeCtr (q.source p)
    | none => entriesOf j.body p.rowBytes p.rows
  let luma := match j.pic with
    | some q => p.luma10 s.freeCtr (q.source p)
    | none => lumaWords (j.body.drop (p.rows * p.rowBytes))
  let rects := match j.pic.bind Picture.damage with | some d => d.rects | none => []
  let patch := ((s.cmdProg j.seq).map Program.patch).getD 0
  { s with freeCtr := s.freeCtr + 1 }.writeSample r slot.dst p.dstr rows (fun s =>
    let s := match s.run? r.seq r.addr with
      | some r => s.setRun (r.setSlot j.slot (fun x => { x with prepared := true }))
      | none => s
    let s := s.gateFrame j.seq j.ctx j.frame patch { ow := p.ow, oh := p.oh, prep := p, rects := rects, luma := luma, pred := pred }
    if x.cache = 2 ∧ j.pic.isSome ∧ rects = [] ∧ slot.how = How.decoded then s.beginInsert n x j.frame rows luma else s)

/-- A stream job done. -/
def State.streamJob (s : State) (n m : Nat) (j : StreamJob) (pred : Option (List Nat)) : State :=
  let s := s.bump (.cluster n) 0x0D5 1
  let v := (s.mailSlot m).passPacket j.size
  let s := s.setMail m { v with feeds := v.feeds.drop 1, sent := 0 }
  let s := if j.pic.isNone then s.readOver (s.ctx j.ctx) j.frame else s
  match s.run? j.seq j.list with
  | none => s
  | some r =>
    match r.slots[j.slot]? with
    | none => s
    | some x => if x.prepared then s else s.streamSample n j r x pred

/-- A core job done (R248): it runs to completion even where its core was pre-empted or fenced, or its command has ended (log entry
34). -/
def State.coreJob (s : State) (n w : Nat) (seq : Word) (k : Option Kern) (b : List Byte) : State :=
  let s := s.bump (.cluster n) 0x0D6 1
  let a : Acc := { core := some w, kern := k, seq := some seq }
  if recField b 63 1 % 4 = 0 then s.prepJob n w seq a b else s.convJob n w seq a b

end Sys2Proof.Machine
end

