-- ==== Sys2Proof/Machine/Flags.lean ====
section
/-! DEFINITION. What arithmetic leaves behind beside its results: the NUM_ events of R223 (the device has no exception
flags, R201). -/

namespace Sys2Proof.Machine

/-- The events of R223 that some work made: NUM_NAN_MADE, NUM_SAT, NUM_NAN_LOST, NUM_INT_WRAP, NUM_MX_NAN. -/
structure NumCnt where
  nanMade : Nat := 0
  sat     : Nat := 0
  nanLost : Nat := 0
  wrap    : Nat := 0
  mxNan   : Nat := 0
  deriving DecidableEq, Repr

/-- Two counts together. -/
def NumCnt.add (a b : NumCnt) : NumCnt :=
  ⟨a.nanMade + b.nanMade, a.sat + b.sat, a.nanLost + b.nanLost, a.wrap + b.wrap, a.mxNan + b.mxNan⟩

/-- Some work's counts as often as it was done. -/
def NumCnt.times (a : NumCnt) (n : Nat) : NumCnt := ⟨a.nanMade * n, a.sat * n, a.nanLost * n, a.wrap * n, a.mxNan * n⟩

/-- The counts of a list of work. -/
def NumCnt.sum (l : List NumCnt) : NumCnt := l.foldl NumCnt.add {}

/-- What a conversion counts. -/
def Conv.cnt (c : Conv) : NumCnt := { sat := b2n c.sat, nanLost := b2n c.nanLost }

/-- NUM_NAN_MADE of a result, given whether an operand was NaN. -/
def nanCnt (operand : Bool) (r : Word) : NumCnt := { nanMade := b2n (!operand && isNanF32 r) }

/-- The events of some work counted at a core (R223). -/
def State.countNum (s : State) (w : Nat) (c : NumCnt) : State :=
  ((((s.bump (.core w) 0x0C0 c.nanMade).bump (.core w) 0x0C1 c.sat).bump (.core w) 0x0C2 c.nanLost).bump (.core w) 0x0C3 c.wrap).bump
    (.core w) 0x0C4 c.mxNan

end Sys2Proof.Machine
end

