-- ==== Sys2Proof/Machine/Transc.lean ====
section
/-! DEFINITION. The functions of R213 that need not be correctly rounded: their values to more than a hundred bits, and the bound
their results are held to. Fixed-point numbers here are integers in units of 2^-200. -/

namespace Sys2Proof.Machine

/-- 1 in fixed point. -/
def fxOne : Int := 2 ^ 200
/-- ln 2 in fixed point. -/
def fxLn2 : Int := 0xb17217f7d1cf79abc9e3b39803f2f6af40f343267298b62d8a
/-- π/2 in fixed point. -/
def fxHalfPi : Int := 0x1921fb54442d18469898cc51701b839a252049c1114cf98e804
/-- 2/√π in fixed point. -/
def fxErf : Int := 0x120dd750429b6d11ae3a914fed7fd8688281341d7587cea2e73
/-- 2/π in units of 2^-400. -/
def fxTwoOverPi : Int := 0xa2f9836e4e441529fc2757d1f534ddc0db6295993c439041fe5163abdebbc561b7246e3a424dd2e006492eea09d1921cfe1d

/-- A fixed-point product. -/
def fxMul (a b : Int) : Int := a * b / 2 ^ 200

/-- A finite value in fixed point, rounded down; what is not finite has none. -/
def fxOf (x : Num) : Int :=
  match x with
  | .fin s m e => if 0 ≤ e + 200 then signedMag s (m <<< (e + 200).toNat) else signedMag s m / 2 ^ (-(e + 200)).toNat
  | _ => 0

/-- The value of a fixed-point number. -/
def fxNum (i : Int) : Num := .fin (decide (i < 0)) i.natAbs (-200)

/-- The sum of terms that each follow from the one before it: `next i t` is the term after the `i`-th. -/
def fxSeries (next : Nat → Int → Int) : Nat → Nat → Int → Int
  | 0, _, _ => 0
  | n + 1, i, t => t + fxSeries next n (i + 1) (next i t)

/-- e^r for |r| below 1. -/
def fxExp (r : Int) : Int := fxSeries (fun i t => fxMul t r / (i + 1)) 64 0 fxOne

/-- sin r for r from 0 to π/2. -/
def fxSin (r : Int) : Int := fxSeries (fun i t => -(fxMul t (fxMul r r) / ((2 * i + 2) * (2 * i + 3)))) 40 0 r

/-- cos r for r from 0 to π/2. -/
def fxCos (r : Int) : Int := fxSeries (fun i t => -(fxMul t (fxMul r r) / ((2 * i + 1) * (2 * i + 2)))) 40 0 fxOne

/-- Σ z^(2i + 1) ÷ (2i + 1), the inverse hyperbolic tangent of z up to 1/3. -/
def fxAtanh (z : Int) : Int :=
  ((List.range 66).foldl (fun (a : Int × Int) (i : Nat) => (a.1 + a.2 / (2 * i + 1), fxMul a.2 (fxMul z z))) (0, z)).1

/-- e^x of a value: beyond the range of FP32 a value still farther out. -/
def expVal (x : Num) : Num :=
  let v := fxOf x
  if 256 * fxOne < v then .fin false 1 512
  else if v < -(256 * fxOne) then .fin false 1 (-512)
  else
    let n := v / fxLn2
    .fin false (fxExp (v - n * fxLn2)).toNat (n - 200)

/-- 2^x of a value. -/
def exp2Val (x : Num) : Num :=
  let v := fxOf x
  if 256 * fxOne < v then .fin false 1 512
  else if v < -(256 * fxOne) then .fin false 1 (-512)
  else
    let n := v / fxOne
    .fin false (fxExp (fxMul (v - n * fxOne) fxLn2)).toNat (n - 200)

/-- ln of a positive value, in fixed point. -/
def lnFx (x : Num) : Int :=
  match x with
  | .fin _ m e =>
    let l := Nat.log2 m
    let y : Int := (m <<< 200 >>> l : Nat)
    ((l : Int) + e) * fxLn2 + 2 * fxAtanh ((y - fxOne) * 2 ^ 200 / (y + fxOne))
  | _ => 0

/-- An odd function that is x × (a + b x² + c x⁴) to 70 bits near zero. -/
def nearZero (a b c : Int) (x : Num) : Num :=
  let x2 := fxOf (x.mul x)
  x.mul (fxNum (a + fxMul b x2 + fxMul c (fxMul x2 x2)))

/-- Whether a value lies within 2^-12 of zero. -/
def tinyArg (x : Num) : Bool := x.abs.lt (.fin false 1 (-12))

/-- tanh of a value. -/
def tanhVal (x : Num) : Num :=
  if tinyArg x then nearZero fxOne (-(fxOne / 3)) (2 * fxOne / 15) x
  else
    let v := fxOf x.abs
    let t := if 32 * fxOne < v then fxOne
             else let e := fxOf (expVal (x.abs.scale 1)); (e - fxOne) * 2 ^ 200 / (e + fxOne)
    let r := fxNum t
    if x.sign then r.neg else r

/-- erf of a value. -/
def erfVal (x : Num) : Num :=
  if tinyArg x then nearZero fxErf (-(fxErf / 3)) (fxErf / 10) x
  else
    let v := fxOf x.abs
    let sum := ((List.range 256).foldl (fun (a : Int × Int) (i : Nat) =>
      (a.1 + a.2 / (2 * i + 1), -(fxMul a.2 (fxMul v v) / (i + 1)))) (0, v)).1
    let r := fxNum (if 6 * fxOne < v then fxOne else fxMul fxErf sum)
    if x.sign then r.neg else r

/-- 1 ÷ (1 + e^-x) of a value. -/
def sigmoidVal (x : Num) : Num :=
  let e := expVal (if x.sign then x else x.neg)
  (if x.sign then e else .fin false 1 0).div (Num.add (.fin false 1 0) e)

/-- sin of a value, or cos a quarter turn on. -/
def trigVal (turn : Nat) (x : Num) : Num :=
  match x with
  | .fin s m e =>
    let p : Int := (if 0 ≤ e then (m <<< e.toNat : Nat) * fxTwoOverPi else m * fxTwoOverPi / 2 ^ (-e).toNat)
    let a := p / 2 ^ 200
    let a := if s then -a else a
    let k := (a / fxOne + turn) % 4
    let r := fxMul (a % fxOne) fxHalfPi
    let v := if k % 2 = 0 then fxSin r else fxCos r
    fxNum (if k < 2 then v else -v)
  | _ => .nan

/-- Whether an FP32 word lies within some ulp of a value, an ulp being that of the value in FP32 (R213). -/
def nearTo (n : Nat) (exact : Num) (r : Word) : Bool :=
  match exact with
  | .fin _ m e =>
    let q := max (log2Floor (max 1 m) e) (-126) - 23
    let d := ((f32 r).add exact.neg).abs
    !d.isNan && !(Num.fin false n q).lt d
  | _ => false

/-- A free result held to some ulp of a value (R213): a draw outside the bound gives the value correctly rounded. -/
def boundTransc (n f : Nat) (a : Word) (exact : Num) : Word :=
  if (f32 (toF32 exact)).isInf then toF32 exact
  else if nearTo n exact (Config.transc f a) then Config.transc f a else toF32 exact

/-- A free result held to 2^-22 of a value (R213). -/
def boundAbs (f : Nat) (a : Word) (exact : Num) : Word :=
  let d := ((f32 (Config.transc f a)).add exact.neg).abs
  if !d.isNan && !(Num.fin false 1 (-22)).lt d then Config.transc f a else toF32 exact

end Sys2Proof.Machine
end

