-- ==== Sys2Proof/Machine/Lanes.lean ====
section
/-! DEFINITION. Lane arithmetic of the vector engine (R212 to R217, R266, R269, R270, R280): element functions, their
special arguments, comparisons, reductions, and the conversion of lanes to and from memory formats (R271 to R273). -/

namespace Sys2Proof.Machine

/-! ### Functions of bounded accuracy -/

/-- FP32 one. -/
def oneF32 : Word := 0x3F800000#32

/-- FP32 zero or infinity of a sign. -/
def zeroOf (neg : Bool) : Word := toF32 (.fin neg 0 0)
/-- FP32 infinity of a sign. -/
def infOf (neg : Bool) : Word := toF32 (.inf neg)

/-- RECIP (R213). -/
def recipOf (a : Word) : Word :=
  match f32 a with
  | .nan => nanF32
  | .inf s => zeroOf s
  | .fin s m e => if m = 0 then infOf s else boundTransc 1 0x06 a ((Num.fin false 1 0).div (.fin s m e))

/-- RSQRT (R213). -/
def rsqrtOf (a : Word) : Word :=
  match f32 a with
  | .nan => nanF32
  | .inf s => if s then nanF32 else zeroOf false
  | .fin s m e =>
    if m = 0 then infOf s else if s then nanF32 else boundTransc 1 0x07 a ((Num.fin false 1 0).div (Num.fin s m e).sqrt)

/-- EXP and EXP2: exact at 0, ±∞ and NaN, else within 2 ulp (R213). -/
def expOf (f : Nat) (a : Word) : Word :=
  match f32 a with
  | .nan => nanF32
  | .inf s => if s then zeroOf false else infOf false
  | .fin _ m _ => if m = 0 then oneF32 else boundTransc 2 f a (if f = 0x0D then expVal (f32 a) else exp2Val (f32 a))

/-- LN and LOG2: exact at zeros, 1, +∞, negatives and NaN, else within 2 ulp (R213). -/
def logOf (f : Nat) (a : Word) : Word :=
  match f32 a with
  | .nan => nanF32
  | .inf s => if s then nanF32 else infOf false
  | .fin s m _ => if m = 0 then infOf true else if s then nanF32 else if a = oneF32 then zeroOf false
    else
      let l := lnFx (f32 a)
      boundTransc 2 f a (fxNum (if f = 0x0F then l else l * 2 ^ 200 / fxLn2))

/-- TANH and ERF: odd, exact at zeros, ±∞ and NaN, else within 2 ulp. -/
def oddOf (f : Nat) (a : Word) : Word :=
  match f32 a with
  | .nan => nanF32
  | .inf s => if s then 0xBF800000#32 else oneF32
  | .fin _ m _ => if m = 0 then a else boundTransc 2 f a (if f = 0x11 then tanhVal (f32 a) else erfVal (f32 a))

/-- SIGMOID: its limits at ±∞, else within 2 ulp. -/
def sigmoidOf (a : Word) : Word :=
  match f32 a with
  | .nan => nanF32
  | .inf s => if s then zeroOf false else oneF32
  | .fin _ _ _ => boundTransc 2 0x12 a (sigmoidVal (f32 a))

/-- SIN and COS: NaN at ±∞; exact at zeros; within 2 ulp for arguments up to 2^16, and 2^-22 beyond (R213). -/
def trigOf (f : Nat) (a : Word) : Word :=
  match f32 a with
  | .nan => nanF32
  | .inf _ => nanF32
  | .fin _ m _ =>
    if m = 0 then (if f = 0x14 then a else oneF32)
    else
      let v := trigVal (if f = 0x14 then 0 else 1) (f32 a)
      if (Num.fin false 1 16).lt (f32 a).abs then boundAbs f a v else boundTransc 2 f a v

/-! ### Element functions -/

/-- The VOP function codes in use (R266). -/
def vopFunc (f : Nat) : Bool :=
  decide (f ≤ 0x1C) || (decide (0x20 ≤ f) && decide (f ≤ 0x2C)) || (decide (0x40 ≤ f) && decide (f ≤ 0x43))

/-- A value cut to an integral one: down, or to nearest even. -/
def integral (down : Bool) (x : Num) : Num :=
  match x with
  | .fin s m e =>
    if 0 ≤ e then x
    else if down then .fin s ((m >>> (-e).toNat) + b2n (s && m % 2 ^ (-e).toNat != 0)) 0
    else .fin s (roundTo .rne m e 0) 0
  | y => y

/-- 1.0 or 0.0. -/
def truth (b : Bool) : Word := if b then oneF32 else 0#32

/-- Whether a lane is non-zero and not NaN (SEL). -/
def laneTrue (c : Word) : Bool := !isNanF32 c && !(f32 c).eqv (f32 0#32)

/-- An element function of R266, F2I apart. -/
def elemFn (f : Nat) (a b c : Word) : Word :=
  match f with
  | 0x00 => fadd a b
  | 0x01 => fsub a b
  | 0x02 => fmul a b
  | 0x03 => ffma a b c
  | 0x04 => fdiv a b
  | 0x05 => fsqrt a
  | 0x06 => recipOf a
  | 0x07 => rsqrtOf a
  | 0x08 => toF32 ((f32 a).minN (f32 b))
  | 0x09 => toF32 ((f32 a).maxN (f32 b))
  | 0x0A => toF32 (f32 a).abs
  | 0x0B => toF32 (f32 a).neg
  | 0x0C => toF32 (if b.msb then (f32 a).abs.neg else (f32 a).abs)
  | 0x0D => expOf 0x0D a
  | 0x0E => expOf 0x0E a
  | 0x0F => logOf 0x0F a
  | 0x10 => logOf 0x10 a
  | 0x11 => oddOf 0x11 a
  | 0x12 => sigmoidOf a
  | 0x13 => oddOf 0x13 a
  | 0x14 => trigOf 0x14 a
  | 0x15 => trigOf 0x15 a
  | 0x16 => if laneTrue c then a else b
  | 0x17 => a
  | 0x18 => truth ((f32 a).eqv (f32 b))
  | 0x19 => truth ((f32 a).lt (f32 b))
  | 0x1A => truth ((f32 a).lt (f32 b) || (f32 a).eqv (f32 b))
  | 0x1B => toF32 (integral true (f32 a))
  | 0x1C => toF32 (integral false (f32 a))
  | 0x20 => a + b
  | 0x21 => a - b
  | 0x22 => a * b
  | 0x23 => a &&& b
  | 0x24 => a ||| b
  | 0x25 => a ^^^ b
  | 0x26 => a <<< (b.toNat % 32)
  | 0x27 => a >>> (b.toNat % 32)
  | 0x28 => a.sshiftRight (b.toNat % 32)
  | 0x29 => if a.slt b then a else b
  | 0x2A => if a.slt b then b else a
  | 0x2B => f32OfInt a.toInt
  | _ => a

/-- Operands an element function reads. -/
def elemArity (f : Nat) : Nat :=
  if f = 0x03 ∨ f = 0x16 then 3
  else if f = 0x05 ∨ f = 0x06 ∨ f = 0x07 ∨ f = 0x0A ∨ f = 0x0B ∨ (0x0D ≤ f ∧ f ≤ 0x15) ∨ f = 0x17 ∨ f = 0x1B ∨ f = 0x1C ∨ f = 0x2B ∨ f = 0x2C then 1
  else 2

/-- Whether an element function computes a floating-point result. -/
def elemFloat (f : Nat) : Bool := decide (f ≤ 0x15) || f == 0x1B || f == 0x1C

/-- An element function and what it counts; F2I converts under R215, to nearest even. -/
def elemEval (f : Nat) (a b c : Word) : Word × NumCnt :=
  if f = 0x2C then
    let v := NumFmt.int32.convert .rne (f32 a)
    (BitVec.ofNat 32 v.bits, v.cnt)
  else
    let r := elemFn f a b c
    let n := elemArity f
    let nan := isNanF32 a || (decide (2 ≤ n) && isNanF32 b) || (decide (3 ≤ n) && isNanF32 c)
    (r, if elemFloat f then nanCnt nan r else {})

/-- Whether FUNC names an integer function, whose immediate is an INT16 (R265). -/
def immInt (f : Nat) : Bool := decide (0x20 ≤ f) && decide (f ≤ 0x2A)

/-- The lane an immediate stands for (R265). -/
def immLane (int : Bool) (imm : Nat) : Word := if int then BitVec.ofInt 32 (sgn 16 imm) else BitVec.ofNat 32 (imm * 65536)

/-! ### Comparisons and reductions -/

/-- A comparison of VCMP (R269). -/
def vcmpFn (f : Nat) (a b : Word) : Bool :=
  let x := f32 a
  let y := f32 b
  match f with
  | 0 => x.eqv y
  | 1 => !x.eqv y
  | 2 => x.lt y
  | 3 => x.lt y || x.eqv y
  | 4 => y.lt x
  | 5 => y.lt x || x.eqv y
  | 6 => a == b
  | 7 => a != b
  | 8 => a.slt b
  | 9 => !b.slt a
  | 10 => b.slt a
  | _ => !a.slt b

/-- The function of a reduction (R279). -/
def vredFn (f : Nat) (a b : Word) : Word :=
  match f with
  | 0 => fadd a b
  | 1 => toF32 ((f32 a).maxN (f32 b))
  | 2 => toF32 ((f32 a).minN (f32 b))
  | 3 => a + b
  | 4 => if a.slt b then b else a
  | _ => if a.slt b then a else b

/-- The identity of a reduction (R280). -/
def vredId (f : Nat) : Word :=
  match f with
  | 1 => 0xFF800000#32
  | 2 => 0x7F800000#32
  | 4 => 0x80000000#32
  | 5 => 0x7FFFFFFF#32
  | _ => 0#32

/-- One level of the tree: positions 2m and 2m + 1 combined (R280). -/
def treeLevel (g : Word → Word → Word) : List Word → List Word
  | a :: b :: r => g a b :: treeLevel g r
  | l => l

/-- Some levels of the tree. -/
def tree (g : Word → Word → Word) : Nat → List Word → List Word
  | 0, l => l
  | n + 1, l => tree g n (treeLevel g l)

/-- The transposed lane. -/
def transLane (i : Nat) : Nat := i % 16 * 16 + i / 16

/-! ### Memory formats -/

/-- An element widened to a lane (R212, R272). -/
def NumFmt.widen (f : NumFmt) (bits : Nat) : Word :=
  match f with
  | .fp32 => BitVec.ofNat 32 bits
  | .int32 => BitVec.ofNat 32 bits
  | .int8 => BitVec.ofInt 32 (sgn 8 bits)
  | .int4 => BitVec.ofInt 32 (sgn 4 bits)
  | .uint8 => BitVec.ofNat 32 (bits % 256)
  | .uint16 => BitVec.ofNat 32 (bits % 65536)
  | _ => toF32 (f.value bits)

/-- A lane stored in a format (R272): FP32 and INT32 unchanged, an integer saturated, any other rounded. -/
def NumFmt.narrow (f : NumFmt) (mode : RMode) (v : Word) : Conv :=
  match f with
  | .fp32 => ⟨v.toNat, false, false⟩
  | .int32 => ⟨v.toNat, false, false⟩
  | _ => if f.isInt then f.convert .rtz (.fin v.msb v.toInt.natAbs 0) else f.convert mode (f32 v)

/-- A stored element and what it counts (R223): a NaN that a lane without one becomes is made by the store. -/
def NumFmt.storeCnt (f : NumFmt) (v : Word) (c : Conv) : NumCnt :=
  c.cnt.add (if f.isInt then {} else nanCnt (isNanF32 v) (f.widen c.bits))

/-- VCVT of one lane (R270): the grid's value in FP32, or the integer. -/
def NumFmt.vcvt (f : NumFmt) (mode : RMode) (v : Word) : Word × NumCnt :=
  if f = .fp32 then (v, {})
  else
    let c := f.convert mode (f32 v)
    (f.widen c.bits, c.cnt.add (nanCnt (isNanF32 v) (if f.isInt then 0#32 else f.widen c.bits)))

/-- A rounding mode field with its random word (R216, R217); 3 is reserved. -/
def rmodeOf (m r : Nat) : RMode := match m with | 0 => .rne | 1 => .rtz | _ => .sto (r % 65536)

/-- An element put into a row's bytes (R203). -/
def NumFmt.putElem (f : NumFmt) (row : List Byte) (i v : Nat) : List Byte :=
  let n := leNat row
  let b := f.width * i
  leBytes row.length (n - fld n b f.width * 2 ^ b + v % 2 ^ f.width * 2 ^ b)

end Sys2Proof.Machine
end

