-- ==== Sys2Proof/Machine/Reach.lean ====
section
/-! DEFINITION. What a core's instructions reach: the spaces of R363, the memory of R180, and how a core's fault ends its command. -/

namespace Sys2Proof.Machine

/-! ### Spaces -/

/-- The self window. -/
def selfWindow : Nat := 0x12 * 2 ^ 52

/-- The offset of a SPACE in the self window (R363). -/
def spaceBase (sp : Nat) : Nat := match sp with | 0 => 0 | 1 => 0x1000000 | _ => 0x180000

/-- Bytes of a SPACE that a kernel has on a core (R272, R328). -/
def Kern.spaceSize (k : Kern) (w sp : Nat) : Nat :=
  match sp with
  | 0 => 0x150000
  | 1 => bankBytes * (k.banksIn (clusterOf w)).length
  | _ => 0x40000

/-- The device virtual address of an offset in a SPACE. -/
def spaceVa (sp off : Nat) : Nat := selfWindow + spaceBase sp + off

/-- The first address of a run that is not in the core's own SRAM or its kernel's share of its cluster's (R180). -/
def State.selfBad (s : State) (k : Kern) (w va n : Nat) : Option Nat :=
  if n = 0 then none else if va / 2 ^ 52 ≠ 0x12 then some va else s.firstBad (k.accAt w) va n true

/-- The first bad address of some runs. -/
def State.selfBads (s : State) (k : Kern) (w : Nat) (l : List (Nat × Nat)) : Option Nat := l.findSome? (fun p => s.selfBad k w p.1 p.2)

/-- Bytes in a core's own reach. -/
def State.selfRead (s : State) (k : Kern) (w va n : Nat) : List Byte := s.fetchVA (k.accAt w) va n

/-- Bytes stored in a core's own reach. -/
def State.selfWrite (s : State) (k : Kern) (w va : Nat) (bs : List Byte) : State := s.storeVA (k.accAt w) va bs

/-- A command ended for an instruction word or an address of its core (R180, R268, R662). -/
def State.coreFault (s : State) (w : Nat) (k : Kern) (detail : Nat) : State := s.programFault k.seq (subjCore w) detail

end Sys2Proof.Machine
end

