-- ==== Sys2Proof/Machine/Matrix.lean ====
section
/-! DEFINITION. The matrix array (05_matrix_array R165 to R192): formats and pairings (R175 to R177), the sums of a column chain
(R186, R188, R208 to R210), the passes of an array instruction row by row (R168 to R170, R186, R187, R195), and MATMUL: its descriptor,
its proxies (R192), and its effect on C or on the increments of the running chunk (R189). -/

namespace Sys2Proof.Machine

/-! ### Formats -/

/-- The pairings of activation and weight format (R176). -/
def pairOk (a b : NumFmt) : Bool :=
  let small := fun (f : NumFmt) => f == .e4m3 || f == .e5m2 || f == .e3m2 || f == .e2m3 || f == .e2m1
  let int := fun (f : NumFmt) => f == .int8 || f == .int4
  (small a && small b) || (a.isMx && b.isMx) || (int a && int b) || (a == b && (a == .bf16 || a == .fp16 || a == .fp32))

/-- Whether a pairing is of the 4-bit class, where a cell holds two weights (R175). -/
def fourBit (a b : NumFmt) : Bool := a.width == 4 && b.width == 4

/-- k_t, the reduction of one pass (R175). -/
def passK (a b : NumFmt) : Nat := if fourBit a b then 256 else 128

/-- The output formats of a product (R177). -/
def outOk (a c : NumFmt) : Bool :=
  if a.isInt then c == .int32 else c == .fp32 || c == .bf16 || c == .fp16 || c == .e4m3 || c == .e5m2

/-! ### Column chains -/

/-- Terms taken two by two: the products of one cell of the 4-bit class summed exactly (R208). -/
def pairUp : List Num → List Num
  | a :: b :: r => a.add b :: pairUp r
  | l => l

/-- The terms of a column's cells. -/
def cellTerms (four : Bool) (l : List Num) : List Num := if four then pairUp l else l

/-- Terms added one by one onto a sum, each addition rounded (R208). -/
def chain (start : Word) (l : List Num) : Word := l.foldl (fun a p => toF32 ((f32 a).add p)) start

/-- The products of a row of activations and a column of weights. -/
def products (xs ws : List Num) : List Num := (xs.zip ws).map (fun p => p.1.mul p.2)

/-- A list cut into runs of `n`, `fuel` runs at most. -/
def runsOf {α : Type} (n : Nat) : Nat → List α → List (List α)
  | 0, _ => []
  | f + 1, l => if l.isEmpty then [] else l.take n :: runsOf n f (l.drop n)

/-- A block's partial sum under the product of its two scales (R209). -/
def scaledBlock (sum : Word) (xa xb : Nat) : Word :=
  if xa = 0xFF ∨ xb = 0xFF then nanF32 else toF32 ((f32 sum).scale ((xa : Int) + (xb : Int) - 254))

/-- What one pass's column makes of its start (R208, R209): its products, MX blocks of `blk` with their pairs of scales;
cells beyond K feed zeros (R188). -/
def passSum (four : Bool) (blk : Option Nat) (cells : Nat) (start : Word) (ps : List Num) (scales : List (Nat × Nat)) : Word :=
  let r := match blk with
    | none => chain start (cellTerms four ps)
    | some n => ((runsOf n ps.length ps).zip scales).foldl (fun a q => fadd a (scaledBlock (chain 0#32 (cellTerms four q.1)) q.2.1 q.2.2)) start
  if ps.length < cells then fadd r 0#32 else r

/-- A running INT32 sum and whether it has wrapped (R210). -/
def intAdd (a : Word × Bool) (v : Int) : Word × Bool :=
  let e := a.1.toInt + v
  (wordOfInt e, a.2 || decide (e < -2147483648) || decide (2147483647 < e))

/-- The integer a value stands for. -/
def Num.int : Num → Int
  | .fin s m e => signedMag s (m <<< e.toNat)
  | _ => 0

/-- How an array instruction sums: its class, block size, K tile, cells of a column, path, and whether it counts integers. -/
structure Fold where
  four  : Bool
  blk   : Option Nat
  kt    : Nat
  cells : Nat
  spill : Bool
  int   : Bool
  deriving DecidableEq, Repr

/-- What leaves a column for one row of a pass: the sum onto what entered north, and whether an integer sum wrapped. -/
def Fold.column (f : Fold) (north : Word) (x w : List Num × List Nat) : Word × Bool :=
  let ps := products x.1 w.1
  if f.int then ps.foldl (fun a p => intAdd a p.int) (north, false)
  else (passSum f.four f.blk f.cells north ps (x.2.zip w.2), false)

/-- A pass's sum merged into an entry of the A plane: one rounding (R208), or a wrapping sum. -/
def Fold.merge (f : Fold) (a v : Word) : Word × Bool := if f.int then intAdd (a, false) v.toInt else (fadd a v, false)

/-- Whether an operand of a column's sum is NaN. -/
def anyNan (xs ws : List Num) (sc : List Nat) : Bool := xs.any Num.isNan || ws.any Num.isNan || sc.any (fun v => v == 0xFF)

/-- A drained output (R177): its bits in CFMT and what is counted of it, given whether an operand was NaN and whether it wrapped. -/
def drainTo (c : NumFmt) (m : Bool × Bool) (v : Word) : Nat × NumCnt :=
  if c = .int32 then (v.toNat, { wrap := b2n m.2 })
  else
    let r := c.convert .rne (f32 v)
    (r.bits, { nanMade := b2n (!m.1 && (c.value r.bits).isNan), sat := b2n r.sat, nanLost := b2n r.nanLost })

/-! ### Passes -/

/-- One pass of an array instruction (R168, R186, R187, R231): the problems whose rows it issues together, its N tile, its first row,
its rows, its tap and K tile, whether bias enters north and sums drain south, the cells each row leaves unused by 64 (R584), and for a
CONV whether no tap is kept, how many are skipped, and whether its block is a halo block (R244). -/
structure ArrPass where
  probs : List Nat
  nt    : Nat
  first : Nat
  rows  : Nat
  tap   : Nat := 0
  kt    : Nat := 0
  north : Bool
  south : Bool
  out   : Nat := 0
  bare  : Bool := false
  skips : Nat := 0
  halo  : Bool := false
  deriving DecidableEq, Repr

/-- An array instruction as the array runs it: how it sums, its formats, its passes, where a row of activations and a tile of weights
come from, the bias of a problem's column, the address of an output row from some column on, and under REEL the key of a row's
increments. -/
structure Job where
  fold   : Fold
  bf     : NumFmt
  cf     : NumFmt
  passes : List ArrPass
  x      : State → ArrPass → Nat → Nat → List Num × List Nat
  tile   : State → ArrPass → Nat → List WCol
  bias   : State → ArrPass → Nat → Nat → Word
  out    : Nat → Nat → Nat → Nat
  reel   : Option (Nat → Nat) := none

/-- The problems of a split or plain instruction in the groups that run together (R187): pairs, an odd last one alone. -/
def probGroups (split : Bool) (n : Nat) : List (List Nat) :=
  if split then (List.range (ceilDiv n 2)).map (fun i => (List.range (min 2 (n - 2 * i))).map (fun j => 2 * i + j))
  else (List.range n).map (fun i => [i])

/-- Cells of a tile whose weight positions lie in K and N. -/
def tileCells (four : Bool) (kt k n i j : Nat) : Nat :=
  let kk := min kt (k - i * kt)
  (if four then (kk + 1) / 2 else kk) * min 128 (n - 128 * j)

/-- ARR_CELL_OUT of one row of a pass by a group of problems (R584): the array's cells, or half of them, less those in use. -/
def cellsOut (split : Bool) (probs : List Nat) (used : Nat) : Nat :=
  ceilDiv ((if split && decide (probs.length < 2) then 8192 else 16384) - probs.length * used) 64

/-- The blocks with scale 0xFF among some rows' scales (R223). -/
def nanBlocks (l : List (List Nat)) : Nat := (l.flatMap id).countP (fun v => v == 0xFF)

/-- A column of weights as numbers, with its scales. -/
def WCol.nums (c : WCol) (f : NumFmt) : List Num × List Nat := (c.els.map f.value, c.scales)

/-- The tiles of a pass read, and the scale blocks read with them counted. -/
def State.fillTiles (s : State) (w : Nat) (j : Job) (q : ArrPass) : List (List WCol) × State :=
  let l := if q.bare then [] else q.probs.map (fun p => j.tile s q p)
  (l, s.countNum w { mxNan := (l.map (fun t => nanBlocks (t.map WCol.scales))).foldl (fun a b => a + b) 0 })

/-- The weights of a pass in the cells before its row `row` (R169, R170, R195): at its first row the shadow weights become the live
ones, or are read if no fill brought them, and the fill of the next pass's tile begins; after a pre-emption the tile is filled again. -/
def State.loadLive (s : State) (w : Nat) (j : Job) (q : ArrPass) (rest : List ArrPass) (row : Nat) : State :=
  let c := s.core w
  if row ≠ 0 ∧ c.live ≠ [] then s
  else
    let (l, s) := if row = 0 ∧ c.shadow ≠ [] then (c.shadow, s) else s.fillTiles w j q
    let (h, s) := match rest with
      | [] => ([], s)
      | n :: _ => s.fillTiles w j n
    s.updCore w (fun c => { c with live := l, shadow := h })

/-- A column's sum under way at a pass's row: its place, its sum, its marks. -/
structure ColSum where
  key  : Nat
  v    : Word
  mark : Bool × Bool
  deriving DecidableEq, Repr

/-- The columns of a row of a pass (R186): north enters the bias, the spilled partial or zero, and what leaves south is merged into the
A plane's entry. Under REEL the pass stands for itself (R189). -/
def State.rowSums (s : State) (w : Nat) (j : Job) (q : ArrPass) (half p row : Nat) (r : ArrayRun) : List ColSum × List Nat :=
  let x := j.x s q p (q.first + row)
  let cols := nth (s.core w).live half []
  let plane := (s.core w).plane
  ((List.range cols.length).map (fun i =>
    let wc := (nth cols i ⟨[], []⟩).nums j.bf
    let e := row % 128 * 128 + i
    let old := if q.north then (false, false) else Tab.at r.marks e (false, false)
    let bias := if q.north then j.bias s q p (128 * q.nt + i) else 0#32
    let v := j.fold.column (if j.fold.spill && !q.north && j.reel.isNone then Tab.at r.spilled e 0 else bias) x wc
    let m := if q.north || j.fold.spill || j.reel.isSome then (v.1, false) else j.fold.merge (Tab.at plane e 0) v.1
    ⟨e, m.1, (old.1 || isNanF32 bias || anyNan x.1 wc.1 (x.2 ++ wc.2), old.2 || v.2 || m.2)⟩), x.2)

/-- An output row drained: written from the pass's first column on, and counted. -/
def State.drainRow (s : State) (k : Kern) (w : Nat) (j : Job) (q : ArrPass) (p row : Nat) (l : List ColSum) : State :=
  let outs := l.map (fun c => drainTo j.cf c.mark c.v)
  (s.selfWrite k w (j.out p (q.first + row) (128 * q.nt)) (j.cf.packRow (outs.map Prod.fst))).countNum w (NumCnt.sum (outs.map Prod.snd))

/-- The chunk that runs on a core, if any. -/
def State.chunkOn (s : State) (k : Kern) : Option Chunk := s.chunkAt k

/-- A row's sums added into the increments of the running chunk, those of its own pass alone (R189); a row without a reel of the chunk
is dropped. An integer product's sum with an FP32 increment is not stated: free words (log entry 39). -/
def State.addReel (s : State) (k : Kern) (int : Bool) (key first : Nat) (l : List ColSum) : State :=
  match s.chunkOn k with
  | none => s
  | some c =>
    match Tab.find c.deltas key with
    | none => s
    | some d =>
      let at_ := fun (i : Nat) (f : Nat → Word) => if first ≤ i ∧ i < first + l.length then f (i - first) else nth d i 0#32
      let v := (List.range d.length).map (fun i => at_ i (fun n =>
        if int then Config.freeWord (s.freeCtr + n) else fadd (nth d i 0#32) (nth l n ⟨0, 0, (false, false)⟩).v))
      let s := s.setChunk { c with deltas := Tab.put c.deltas key v }
      if int then { s with freeCtr := s.freeCtr + l.length } else s

/-- One row of one problem streamed through its tile: drained on the block's last pass, kept in the A plane or through the spill path
before it, or added into D (R186, R189). -/
def State.streamOne (s : State) (k : Kern) (w : Nat) (j : Job) (q : ArrPass) (row : Nat) (a : ArrayRun) (hp : Nat × Nat) : State × ArrayRun :=
  match s.rowSums w j q hp.1 hp.2 row a with
  | (l, sc) =>
    let s := s.countNum w { mxNan := nanBlocks [sc] }
    let marks := l.foldl (fun t c => Tab.put t c.key c.mark) a.marks
    match j.reel with
    | some key =>
      let s := s.addReel k j.fold.int (key (q.first + row)) (128 * q.nt) l
      ((if q.south then s.countNum w { wrap := l.countP (fun c => c.mark.2) } else s), { a with marks := marks })
    | none =>
      if q.south then (s.drainRow k w j q hp.2 row l, a)
      else if j.fold.spill then (s, { a with marks := marks, spilled := l.foldl (fun t c => Tab.put t c.key c.v) a.spilled })
      else (s.updCore w (fun c => { c with plane := l.foldl (fun t e => Tab.put t e.key e.v) c.plane }), { a with marks := marks })

/-- A row of a pass: one row of each of its problems, or for a CONV with no kept tap the adjusted bias written to its pixel (R234). -/
def State.streamRow (s : State) (k : Kern) (w : Nat) (j : Job) (q : ArrPass) (row : Nat) (a : ArrayRun) : State × ArrayRun :=
  if q.bare then
    (q.probs.foldl (fun s p => s.drainRow k w j q p row ((nth (q.probs.map (fun p => j.tile s q p)) 0 []).length |> List.range |>.map (fun i =>
      let b := j.bias s q p (128 * q.nt + i)
      ⟨i, b, (isNanF32 b, false)⟩))) s, a)
  else ((List.range q.probs.length).zip q.probs).foldl (fun t hp => t.1.streamOne k w j q row t.2 hp) (s, a)

/-- Rows issued at the west edge counted (R584). -/
def State.countRows (s : State) (w : Nat) (c : Nat × Nat) : State := (s.bump (.core w) 0x00B c.1).bump (.core w) 0x00A c.2

/-- What a CONV counts at the first row of a pass (R259). -/
def State.countPass (s : State) (w : Nat) (q : ArrPass) (conv : Bool) : State :=
  if !conv then s
  else
    let s := if q.north then s.bump (.core w) 0x0D1 (q.skips * q.probs.length) else s
    if q.bare then s else s.bump (.core w) 0x0D0 1

/-- Some rows of an instruction issued from where it stands, pass after pass (R168, R186, R195). -/
def State.runRows (s : State) (k : Kern) (w : Nat) (j : Job) (conv : Bool) : List ArrPass → Nat → ArrayRun → State × ArrayRun
  | [], _, a => (s, a)
  | q :: rest, n, a =>
    if n = 0 then (s, a)
    else
      let m := min n (q.rows - a.row)
      let s := if a.row = 0 then s.countPass w q conv else s
      let s := s.loadLive w j q rest a.row
      let t := (List.range m).foldl (fun t i => t.1.streamRow k w j q (a.row + i) t.2) (s, a)
      let s := if q.bare then t.1 else t.1.countRows w (m, m * q.out)
      if n < q.rows - a.row then (s, { t.2 with row := a.row + n })
      else State.runRows s k w j conv rest (n - m) { t.2 with pass := a.pass + 1, row := 0 }

/-- The rows an instruction has still to issue. -/
def rowsLeft (l : List ArrPass) (a : ArrayRun) : Nat := ((l.drop a.pass).map ArrPass.rows).foldl (fun x y => x + y) 0 - a.row

/-- The rows an instruction may issue before its next halo block, all of them where its halo rows have come (R244). -/
def rowsBeforeHalo (l : List ArrPass) (a : ArrayRun) (come : Bool) : Nat :=
  if come then rowsLeft l a else (((l.drop a.pass).takeWhile (fun q => !q.halo)).map ArrPass.rows).foldl (fun x y => x + y) 0 - a.row

/-! ### The descriptor -/

/-- A MATMUL descriptor (R183). -/
structure Gemm where
  a       : Nat
  b       : Nat
  c       : Nat
  bias    : Nat
  ascale  : Nat
  bscale  : Nat
  m       : Nat
  n       : Nat
  k       : Nat
  batch   : Nat
  heads   : Nat
  af      : Nat
  bf      : Nat
  cf      : Nat
  spill   : Bool
  reel    : Bool
  bank    : Nat
  transB  : Bool
  blk     : Nat
  noSplit : Bool
  lda     : Nat
  ldb     : Nat
  ldc     : Nat
  row0    : Nat
  sab     : Nat
  sah     : Nat
  sbb     : Nat
  sbh     : Nat
  scb     : Nat
  sch     : Nat
  deriving DecidableEq, Repr

/-- A descriptor read from its bytes. -/
def parseGemm (d : List Byte) : Gemm :=
  let f := recField d
  let g := f 63 1
  { a := f 0 8, b := f 8 8, c := f 16 8, bias := f 24 8, ascale := f 32 8, bscale := f 40 8, m := f 48 3, n := f 52 2, k := f 54 2
    batch := f 56 2, heads := f 58 2, af := f 60 1 % 32, bf := f 61 1 % 32, cf := f 62 1 % 32
    spill := bitOf g 0, reel := bitOf g 1, bank := fld g 2 1, transB := bitOf g 3, blk := if bitOf g 4 then 16 else 32, noSplit := bitOf g 5
    lda := f 64 4, ldb := f 68 4, ldc := f 72 4, row0 := f 76 1, sab := f 80 8, sah := f 88 8, sbb := f 96 8, sbh := f 104 8
    scb := f 112 8, sch := f 120 8 }

/-- Bytes of a row in a format code, 0 for a reserved one. -/
def codeRow (code n : Nat) : Nat := ((numFmtOfCode code).map (fun f => f.rowBytes n)).getD 0

/-- Where a core's address stands in its device's SRAM. -/
def State.sramAt (s : State) (k : Kern) (w va : Nat) : Option Nat :=
  match (s.xlate (k.accAt w) va false).1 with
  | .sram o => some o
  | _ => none

/-- How far an address of a core lies behind the destination of a prefetch entry of its kernel, whichever window names it. -/
def State.behind (s : State) (k : Kern) (w dst va : Nat) : Option Nat :=
  if dst / 2 ^ 52 = va / 2 ^ 52 then (if dst ≤ va then some (va - dst) else none)
  else
    match s.sramAt k w dst, s.sramAt k w va with
    | some d, some v => if d ≤ v then some (v - d) else none
    | _, _ => none

/-- The proxy that stands for the weights at an address, if the entry that stages them for this stage took the cheaper path (R381,
R192): B may lie anywhere in the weights it replaced. -/
def State.substAt (s : State) (k : Kern) (w va : Nat) : Option Subst :=
  match s.cmd? k.seq, s.cmdProg k.seq with
  | some c, some p =>
    c.prefs.findSome? (fun (r : PfRun) =>
      if r.kind != 0 || !r.decided || !r.done || r.need != k.stage || r.layer != k.layer || r.proxy == 0xFFFF then none
      else
        match p.proxies[r.proxy]?, (s.prefetchOf c)[r.ix]?, s.behind k w r.dst va with
        | some q, some e, some off =>
          if off < e.bytes then some ⟨q.format, if q.mxblk = 1 then 16 else 32, va - off, q.bytes, off⟩ else none
        | _, _, _ => none)
  | _, _ => none

/-- The zero extents of R190. -/
def Gemm.empty (g : Gemm) : Bool := g.m == 0 || g.n == 0 || g.k == 0 || g.batch == 0 || g.heads == 0

/-- The strides and alignments of R190 broken, given the weight format and the chunk's log2 W. -/
def Gemm.misfit (g : Gemm) (bf : Nat) (wlog : Option Nat) : Bool :=
  decide (g.lda < codeRow g.af g.k) || decide (g.ldb < codeRow bf (if g.transB then g.k else g.n)) ||
  (!g.reel && decide (g.ldc < codeRow g.cf g.n)) ||
  ([g.a, g.b, g.bias, g.ascale, g.bscale, g.lda, g.ldb, g.sab, g.sah, g.sbb, g.sbh, g.scb, g.sch].any (fun v => v % 64 != 0)) ||
  (!g.reel && (g.c % 64 != 0 || g.ldc % 64 != 0)) ||
  (g.reel && (match wlog with | some l => decide (2 ^ l < g.n) || decide (16384 / 2 ^ l < g.row0 + g.m) | none => false))

/-- The formats of a product, if R190 accepts them with a weight format. -/
def Gemm.formats (g : Gemm) (bf : Nat) : Option (NumFmt × NumFmt × NumFmt) :=
  match numFmtOfCode g.af, numFmtOfCode bf, (if g.reel then some .fp32 else numFmtOfCode g.cf) with
  | some a, some b, some c =>
    if !pairOk a b || (!g.reel && !outOk a c) || (a.isMx == (g.ascale == 0)) || (b.isMx == (g.bscale == 0)) then none
    else some (a, b, c)
  | _, _, _ => none

/-- The checks of R190 in the table's order, by the proxy's format where weights are substituted (R192); a proxy of another
block size does not pair either (R178, DEDUCED; log entry 38). -/
def Gemm.check (g : Gemm) (chunk : Option Chunk) (sub : Option Subst) : Except Status (NumFmt × NumFmt × NumFmt) :=
  if g.empty then .error .zeroExtent
  else if g.misfit ((sub.map Subst.fmt).getD g.bf) (chunk.map Chunk.wlog) then .error .shapeOver
  else
    match g.formats ((sub.map Subst.fmt).getD g.bf) with
    | none => .error .rejectedFormat
    | some (a, b, c) =>
      if b.isMx && (sub.map (fun q => q.blk != g.blk)).getD false then .error .rejectedFormat
      else if (g.reel && chunk.isNone) || (!g.spill && decide (passK a b < g.k) && chunk.isSome) then .error .schedCollide
      else .ok (a, b, c)

/-! ### Operands -/

/-- Where the weights stand: their rows, their row and problem strides, and of their scales the first, the columns of a problem, the
bytes of a column and how far in the first block lies (R184, R192). -/
structure Weights where
  fmt    : NumFmt
  base   : Nat
  ld     : Nat
  sb     : Nat
  sh     : Nat
  scales : Nat
  cols   : Nat
  blocks : Nat
  skip   : Nat
  deriving DecidableEq, Repr

/-- Rows of B as it is stored. -/
def Gemm.bRows (g : Gemm) : Nat := if g.transB then g.n else g.k

/-- The weights of a product. A proxy holds a row of LDB's elements for each row of the weights it replaces, rows packed one after
another, its scales behind them (R505; log entry 38). -/
def Gemm.weights (g : Gemm) (b : NumFmt) (sub : Option Subst) : Weights :=
  match sub with
  | none => ⟨b, g.b, g.ldb, g.sbb, g.sbh, g.bscale, g.n, ceilDiv g.k g.blk, 0⟩
  | some q =>
    let was := ((numFmtOfCode g.bf).map NumFmt.width).getD 8
    let len := g.ldb * 8 / was
    let row := b.rowBytes len
    let elems := if b.isMx then q.bytes * (b.width * q.blk) / (b.width * q.blk + 8) else q.bytes
    let r0 := q.off / max 1 g.ldb
    let c0 := q.off % max 1 g.ldb * 8 / was
    let per := (if g.sbh ≠ 0 then g.sbh / g.ldb else if g.sbb ≠ 0 then g.sbb / g.ldb else elems / max 1 row)
    let nb := ceilDiv (if g.transB then len else per) q.blk
    ⟨b, q.base + r0 * row + c0 * b.width / 8, row, g.sbb / max 1 g.ldb * row, g.sbh / max 1 g.ldb * row,
     q.base + elems + (if g.transB then r0 else c0) * nb, if g.transB then per else len, nb, (if g.transB then c0 else r0) / q.blk⟩

/-- The problems in (b, h) order (R185). -/
def Gemm.problems (g : Gemm) : List (Nat × Nat) := (List.range g.batch).flatMap (fun b => (List.range g.heads).map (fun h => (b, h)))

/-- Row `m` of A of a problem. -/
def Gemm.aRow (g : Gemm) (p : Nat × Nat) (m : Nat) : Nat := g.a + p.1 * g.sab + p.2 * g.sah + m * g.lda

/-- Row `m` of C of a problem. -/
def Gemm.cRow (g : Gemm) (p : Nat × Nat) (m : Nat) : Nat := g.c + p.1 * g.scb + p.2 * g.sch + m * g.ldc

/-- Row `r` of B of a problem. -/
def Weights.row (w : Weights) (p : Nat × Nat) (r : Nat) : Nat := w.base + p.1 * w.sb + p.2 * w.sh + r * w.ld

/-- The activation scales of row `m` (R184). -/
def Gemm.aScale (g : Gemm) (p : Nat × Nat) (m : Nat) : Nat := g.ascale + ((p.1 * g.heads + p.2) * g.m + m) * ceilDiv g.k g.blk

/-- The weight scales of column `n` (R184). -/
def Gemm.bScale (g : Gemm) (w : Weights) (p : Nat × Nat) (n : Nat) : Nat :=
  let b := if g.sbb = 0 then 0 else p.1
  let h := if g.sbh = 0 then 0 else p.2
  let hs := if g.sbh = 0 then 1 else g.heads
  w.scales + ((b * hs + h) * w.cols + n) * w.blocks + w.skip

/-- The runs a MATMUL touches, in the order A, B, scales, bias, C. -/
def Gemm.runs (g : Gemm) (w : Weights) (a c : NumFmt) : List (Nat × Nat) :=
  let each := fun (n : Nat) (f : Nat × Nat → Nat → Nat × Nat) => g.problems.flatMap (fun p => (List.range n).map (f p))
  each g.m (fun p m => (g.aRow p m, a.rowBytes g.k)) ++
  each g.bRows (fun p r => (w.row p r, w.fmt.rowBytes (if g.transB then g.k else g.n))) ++
  (if a.isMx then each g.m (fun p m => (g.aScale p m, ceilDiv g.k g.blk)) else []) ++
  (if w.fmt.isMx then each g.n (fun p n => (g.bScale w p n, ceilDiv g.k g.blk)) else []) ++
  (if g.bias = 0 then [] else [(g.bias, 4 * g.n)]) ++
  (if g.reel then [] else each g.m (fun p m => (g.cRow p m, c.rowBytes g.n)))

/-- The values of a packed row. -/
def NumFmt.rowValues (f : NumFmt) (row : List Byte) (n : Nat) : List Num := (List.range n).map (fun i => f.value (f.elemAt row i))

/-- A slice of a list: some elements from a place on. -/
def cut {α : Type} (l : List α) (i n : Nat) : List α := (l.drop i).take n

/-- A row of A over a K tile, with its scale bytes. -/
def State.gemmRow (s : State) (k : Kern) (w : Nat) (g : Gemm) (a : NumFmt) (kt i : Nat) (p : Nat × Nat) (m : Nat) : List Num × List Nat :=
  (cut (a.rowValues (s.selfRead k w (g.aRow p m) (a.rowBytes g.k)) g.k) (i * kt) kt,
   if a.isMx then cut ((s.selfRead k w (g.aScale p m) (ceilDiv g.k g.blk)).map BitVec.toNat) (i * kt / g.blk) (kt / g.blk) else [])

/-- The elements of a packed row. -/
def NumFmt.rowElems (f : NumFmt) (row : List Byte) (n : Nat) : List Nat := (List.range n).map (fun i => f.elemAt row i)

/-- The weight tile of a K tile and an N tile of a problem (R186, R188). -/
def State.gemmTile (s : State) (k : Kern) (w : Nat) (g : Gemm) (q : Weights) (kt i nt : Nat) (p : Nat × Nat) : List WCol :=
  let len := if g.transB then g.k else g.n
  let ks := min kt (g.k - i * kt)
  let ns := min 128 (g.n - 128 * nt)
  let row := fun (r : Nat) => q.fmt.rowElems (s.selfRead k w (q.row p r) (q.fmt.rowBytes len)) len
  let rows := if g.transB then (List.range ns).map (fun n => cut (row (128 * nt + n)) (i * kt) kt)
              else (List.range ks).map (fun r => cut (row (i * kt + r)) (128 * nt) 128)
  (List.range ns).map (fun n =>
    { els := if g.transB then nth rows n [] else rows.map (fun l => nth l n 0)
      scales := if q.fmt.isMx then
        cut ((s.selfRead k w (g.bScale q p (128 * nt + n)) (ceilDiv g.k g.blk)).map BitVec.toNat) (i * kt / g.blk) (kt / g.blk) else [] })

/-! ### MATMUL -/

/-- The bias of a column: an FP32 value, zero for none; onto an integer product its effect is not stated, and a free word enters
north instead (R183; log entry 39). -/
def State.biasAt (s : State) (k : Kern) (w : Nat) (va n draw : Nat) (int : Bool) : Word :=
  if va = 0 then 0#32 else if int then Config.freeWord (draw + n) else BitVec.ofNat 32 (leNat (s.selfRead k w (va + 4 * n) 4))

/-- The (b, h) pairs of each problem left after fusion (R185). -/
def Gemm.fusedProblems (g : Gemm) : List (List (Nat × Nat)) :=
  if g.sbh = 0 then (if g.sbb = 0 then [g.problems] else (List.range g.batch).map (fun b => (List.range g.heads).map (fun h => (b, h))))
  else g.problems.map (fun p => [p])

/-- Whether a product runs in split mode (R187). -/
def Gemm.splits (g : Gemm) (kt : Nat) : Bool := decide (g.k ≤ kt / 2) && !g.noSplit && decide (2 ≤ g.fusedProblems.length)

/-- The passes of a MATMUL in order (R186, R187). -/
def Gemm.passes (g : Gemm) (four : Bool) (kt : Nat) : List ArrPass :=
  let rows := g.m * (g.fusedProblems.headD []).length
  let p := ceilDiv g.k kt
  (probGroups (g.splits kt) g.fusedProblems.length).flatMap (fun ps => (List.range (ceilDiv g.n 128)).flatMap (fun nt =>
    let pass := fun (first n i : Nat) =>
      ({ probs := ps, nt := nt, first := first, rows := n, kt := i, north := i == 0, south := i + 1 == p
         out := cellsOut (g.splits kt) ps (tileCells four kt g.k g.n i nt) } : ArrPass)
    if p = 1 then [pass 0 rows 0]
    else (List.range (ceilDiv rows 128)).flatMap (fun mb => (List.range p).map (fun i => pass (128 * mb) (min 128 (rows - 128 * mb)) i))))

/-- The (b, h) pair of a fused row, and the row within it. -/
def Gemm.rowOf (g : Gemm) (p row : Nat) : (Nat × Nat) × Nat := (nth (nth g.fusedProblems p []) (row / max 1 g.m) (0, 0), row % max 1 g.m)

/-- A MATMUL as the array runs it, its formats accepted (R183 to R189). -/
def Gemm.job (g : Gemm) (k : Kern) (w : Nat) (sub : Option Subst) (draw : Nat) (wlog : Option Nat) (f : NumFmt × NumFmt × NumFmt) : Job :=
  let q := g.weights f.2.1 sub
  let four := fourBit f.1 f.2.1
  let kt := passK f.1 f.2.1
  { fold := { four := four, blk := if f.1.isMx then some g.blk else none, kt := kt, cells := if g.splits kt then kt / 2 else kt
              spill := g.spill, int := f.1.isInt }
    bf := f.2.1, cf := f.2.2, passes := g.passes four kt
    x := fun s ps p row => let r := g.rowOf p row; s.gemmRow k w g f.1 kt ps.kt r.1 r.2
    tile := fun s ps p => s.gemmTile k w g q kt ps.kt ps.nt (nth (nth g.fusedProblems p []) 0 (0, 0))
    bias := fun s _ _ n => s.biasAt k w g.bias n draw f.1.isInt
    out := fun p row n => let r := g.rowOf p row; g.cRow r.1 r.2 + n * f.2.2.width / 8
    reel := if g.reel then some (fun row => (k.cores.idxOf w * 2 + g.bank) * (16384 / 2 ^ wlog.getD 0) + g.row0 + row % max 1 g.m) else none }

/-- MATMUL's checks with its descriptor at hand (R190, R180): its formats, or why it ends. -/
def State.matmulCheck (s : State) (k : Kern) (w : Nat) (b : List Byte) (sub : Option Subst) : Except (Status ⊕ Nat) Unit :=
  let g := parseGemm b
  match g.check (s.chunkOn k) sub with
  | .error st => .error (.inl st)
  | .ok (af, bf, cf) =>
    match s.selfBads k w (g.runs (g.weights bf sub) af cf) with
    | some va => .error (.inr va)
    | none => .ok ()

/-- A MATMUL of the queue as the array runs it. -/
def State.gemmJob (s : State) (k : Kern) (w : Nat) (r : ArrayRun) : Option Job :=
  let g := parseGemm r.desc
  (g.formats ((r.subst.map Subst.fmt).getD g.bf)).map (fun f => g.job k w r.subst r.draw ((s.chunkOn k).map Chunk.wlog) f)

end Sys2Proof.Machine
end

