-- ==== Sys2Proof/Machine/Conv.lean ====
section
/-! DEFINITION. CONV and POOL (07_convolution_and_edge R225 to R241, R244): their descriptors, checks, passes and results. -/

namespace Sys2Proof.Machine

/-! ### CONV -/

/-- A CONV descriptor beside its shape (R229). -/
structure ConvDesc where
  shape    : ConvShape
  inp      : Nat
  wt       : Nat
  out      : Nat
  bias     : Nat
  wsum     : Nat
  siy      : Nat
  six      : Nat
  sin      : Nat
  soy      : Nat
  sox      : Nat
  son      : Nat
  ldw      : Nat
  st       : Nat
  sg       : Nat
  batch    : Nat
  af       : Nat
  bf       : Nat
  cf       : Nat
  spill    : Bool
  noSkip   : Bool
  gathered : Bool
  haloEn   : Bool
  noSplit  : Bool
  htop     : Nat
  hbot     : Nat
  padval   : Word
  hslate   : Nat
  hcount   : Word
  deriving DecidableEq, Repr

/-- A descriptor read from its bytes. -/
def parseConv (b : List Byte) : ConvDesc :=
  let f := recField b
  let g := f 113 1
  { shape := { ih := f 88 2, iw := f 90 2, cin := f 92 2, cout := f 94 2, groups := f 98 2, fh := f 100 1, fw := f 101 1, sh := f 102 1
               sw := f 103 1, dh := f 104 1, dw := f 105 1, pt := f 106 1, pb := f 107 1, pl := f 108 1, pr := f 109 1 }
    inp := f 0 8, wt := f 8 8, out := f 16 8, bias := f 24 8, wsum := f 32 8, siy := f 40 4, six := f 44 4, sin := f 48 8, soy := f 56 4
    sox := f 60 4, son := f 64 8, ldw := f 72 4, st := f 76 4, sg := f 80 8, batch := f 96 2, af := f 110 1 % 32, bf := f 111 1 % 32
    cf := f 112 1 % 32, spill := bitOf g 0, noSkip := bitOf g 1, gathered := bitOf g 2, haloEn := bitOf g 3, noSplit := bitOf g 4
    htop := f 114 1, hbot := f 115 1, padval := BitVec.ofNat 32 (f 116 4), hslate := f 120 4 % 131072, hcount := BitVec.ofNat 32 (f 124 4) }

/-- Input channels of a group. -/
def ConvDesc.ci (c : ConvDesc) : Nat := c.shape.cin / c.shape.groups
/-- Output channels of a group. -/
def ConvDesc.co (c : ConvDesc) : Nat := c.shape.cout / c.shape.groups
/-- Output pixels of an image. -/
def ConvDesc.pixels (c : ConvDesc) : Nat := c.shape.oh * c.shape.ow
/-- Taps of the filter. -/
def ConvDesc.taps (c : ConvDesc) : Nat := c.shape.fh * c.shape.fw

/-- Whether PADVAL is zero, of either sign. -/
def ConvDesc.padZero (c : ConvDesc) : Bool := c.padval.toNat % 2 ^ 31 == 0

/-- The condition under which a gathered input is accepted (R235). -/
def ConvDesc.gatherOk (c : ConvDesc) : Bool :=
  let q := c.shape
  decide ((q.fh - 1) * q.dh + 1 ≤ q.sh) && decide ((q.fw - 1) * q.dw + 1 ≤ q.sw)

/-- Whether the shape checks of R230 fail. -/
def ConvDesc.misfit (c : ConvDesc) : Bool :=
  let q := c.shape
  let bits := ((numFmtOfCode c.af).map NumFmt.width).getD 8
  q.cin % q.groups != 0 || q.cout % q.groups != 0 || c.ci * bits % 8 != 0 ||
  !(in1 q.fh 32 && in1 q.fw 32 && in1 q.sh 64 && in1 q.sw 64 && in1 q.dh 255 && in1 q.dw 255) ||
  [c.inp, c.out, c.siy, c.six, c.soy, c.sox].any (fun v => v % 16 != 0) || [c.wt, c.ldw, c.st, c.sg].any (fun v => v % 64 != 0) ||
  decide (c.six < codeRow c.af q.cin) || decide (q.ih ≤ c.htop + c.hbot) || (!c.padZero && c.wsum == 0) || (c.gathered && !c.gatherOk)

/-- The formats of a CONV, if R230 accepts them. -/
def ConvDesc.formats (c : ConvDesc) : Option (NumFmt × NumFmt × NumFmt) :=
  match numFmtOfCode c.af, numFmtOfCode c.bf, numFmtOfCode c.cf with
  | some a, some b, some o =>
    let v := f32 c.padval
    if !pairOk a b || a.isMx || !outOk a o || v.isNan || v.isInf || (!c.padZero && a.isInt) then none else some (a, b, o)
  | _, _, _ => none

/-- The row blocks of an image's output pixels: first pixel and pixels (R231). -/
def ConvDesc.blocks (c : ConvDesc) : List (Nat × Nat) :=
  (List.range (ceilDiv c.pixels 128)).map (fun i => (128 * i, min 128 (c.pixels - 128 * i)))

/-- The input pixel a tap reads for an output pixel: none at padding (R228, R231). -/
def ConvDesc.reads (c : ConvDesc) (t px : Nat) : Option (Nat × Nat) :=
  let q := c.shape
  match tapPos (px / q.ow) q.sh q.pt (t / q.fw) q.dh q.ih, tapPos (px % q.ow) q.sw q.pl (t % q.fw) q.dw q.iw with
  | some y, some x => some (y, x)
  | _, _ => none

/-- Whether a tap is wholly padding for a block (R232). -/
def ConvDesc.wholly (c : ConvDesc) (t : Nat) (blk : Nat × Nat) : Bool := (List.range blk.2).all (fun i => (c.reads t (blk.1 + i)).isNone)

/-- The taps a block keeps, ascending (R231, R233). -/
def ConvDesc.kept (c : ConvDesc) (blk : Nat × Nat) : List Nat := (List.range c.taps).filter (fun t => c.noSkip || !c.wholly t blk)

/-- Passes of a row block. -/
def ConvDesc.passes (c : ConvDesc) (kt : Nat) (blk : Nat × Nat) : Nat := (c.kept blk).length * ceilDiv c.ci kt

/-- The checks of R230 in the table's order. -/
def ConvDesc.check (c : ConvDesc) (chunk : Bool) : Except Status (NumFmt × NumFmt × NumFmt) :=
  let q := c.shape
  if q.ih = 0 ∨ q.iw = 0 ∨ q.cin = 0 ∨ q.cout = 0 ∨ c.batch = 0 ∨ q.groups = 0 ∨ q.oh = 0 ∨ q.ow = 0 then .error .zeroExtent
  else if c.misfit then .error .shapeOver
  else
    match c.formats with
    | none => .error .rejectedFormat
    | some (a, b, o) =>
      if !c.spill && chunk && c.blocks.any (fun k => decide (1 < c.passes (passK a b) k)) then .error .schedCollide else .ok (a, b, o)

/-- The address of the channel row a tap reads for an output pixel, for group `g` of image `n` (R227, R235). -/
def ConvDesc.inAddr (c : ConvDesc) (a : NumFmt) (n g t px : Nat) (yx : Nat × Nat) : Nat :=
  let q := c.shape
  let y := if c.gathered then px / q.ow * q.fh + t / q.fw else yx.1
  let x := if c.gathered then px % q.ow * q.fw + t % q.fw else yx.2
  c.inp + n * c.sin + y * c.siy + x * c.six + g * c.ci * a.width / 8

/-- The address of a weight row. -/
def ConvDesc.wAddr (c : ConvDesc) (g t k : Nat) : Nat := c.wt + g * c.sg + t * c.st + k * c.ldw

/-- The address of an output pixel's channels of a group. -/
def ConvDesc.outAddr (c : ConvDesc) (o : NumFmt) (n g px : Nat) : Nat :=
  c.out + n * c.son + px / c.shape.ow * c.soy + px % c.shape.ow * c.sox + g * c.co * o.width / 8

/-- The problems in (n, g) order (R231). -/
def ConvDesc.problems (c : ConvDesc) : List (Nat × Nat) := (List.range c.batch).flatMap (fun n => (List.range c.shape.groups).map (fun g => (n, g)))

/-- Whether some block of the image skips a tap. -/
def ConvDesc.skipsAny (c : ConvDesc) : Bool := c.blocks.any (fun b => decide ((c.kept b).length < c.taps))

/-- The runs a CONV touches, in the order input, weights, bias, WSUM, output. -/
def ConvDesc.runs (c : ConvDesc) (a b o : NumFmt) : List (Nat × Nat) :=
  let row := ceilDiv (c.ci * a.width) 8
  let used := (List.range c.taps).filter (fun t => c.blocks.any (fun k => (c.kept k).contains t))
  c.problems.flatMap (fun p => c.blocks.flatMap (fun k => (c.kept k).flatMap (fun t => (List.range k.2).filterMap (fun i =>
    (c.reads t (k.1 + i)).map (fun yx => (c.inAddr a p.1 p.2 t (k.1 + i) yx, row)))))) ++
  (List.range c.shape.groups).flatMap (fun g => used.flatMap (fun t => (List.range c.ci).map (fun k => (c.wAddr g t k, b.rowBytes c.co)))) ++
  (if c.bias = 0 then [] else [(c.bias, 4 * c.shape.cout)]) ++
  (if !c.padZero && c.skipsAny then [(c.wsum, 4 * c.taps * c.shape.cout)] else []) ++
  c.problems.flatMap (fun p => (List.range c.pixels).map (fun px => (c.outAddr o p.1 p.2 px, o.rowBytes c.co)))

/-- Whether a block is a halo block: over its kept taps it reads a row of IN that neighbours write (R244). -/
def ConvDesc.haloBlock (c : ConvDesc) (blk : Nat × Nat) : Bool :=
  c.haloEn && (c.kept blk).any (fun t => (List.range blk.2).any (fun i =>
    ((c.reads t (blk.1 + i)).map (fun yx => decide (yx.1 < c.htop) || decide (c.shape.ih ≤ yx.1 + c.hbot))).getD false))

/-- The row blocks in the order in which the array runs them: halo blocks after all others (R244). -/
def ConvDesc.order (c : ConvDesc) : List (Nat × Nat) :=
  c.blocks.filter (fun b => !c.haloBlock b) ++ c.blocks.filter (fun b => c.haloBlock b)

/-- Whether a CONV runs in split mode (R187, R231). -/
def ConvDesc.splits (c : ConvDesc) (kt : Nat) : Bool := decide (c.ci ≤ kt / 2) && !c.noSplit && decide (2 ≤ c.problems.length)

/-- The passes of a CONV in order (R231, R233). -/
def ConvDesc.runPasses (c : ConvDesc) (four : Bool) (kt : Nat) : List ArrPass :=
  let p := ceilDiv c.ci kt
  (probGroups (c.splits kt) c.problems.length).flatMap (fun ps => (List.range (ceilDiv c.co 128)).flatMap (fun nt => c.order.flatMap (fun blk =>
    let kept := c.kept blk
    let base : ArrPass :=
      { probs := ps, nt := nt, first := blk.1, rows := blk.2, north := true, south := true, skips := c.taps - kept.length, halo := c.haloBlock blk }
    if kept.isEmpty then [{ base with bare := true }]
    else (List.range (kept.length * p)).map (fun i =>
      { base with tap := nth kept (i / p) 0, kt := i % p, north := i == 0, south := i + 1 == kept.length * p
                  out := cellsOut (c.splits kt) ps (tileCells four kt c.ci c.co (i % p) nt) }))))

/-- The weight tile of a tap, K tile and N tile of a group (R229, R188). -/
def State.convTile (s : State) (k : Kern) (w : Nat) (c : ConvDesc) (b : NumFmt) (kt : Nat) (q : ArrPass) (g : Nat) : List WCol :=
  let ns := min 128 (c.co - 128 * q.nt)
  let rows := (List.range (min kt (c.ci - q.kt * kt))).map (fun r =>
    cut (b.rowElems (s.selfRead k w (c.wAddr g q.tap (q.kt * kt + r)) (b.rowBytes c.co)) c.co) (128 * q.nt) 128)
  (List.range ns).map (fun n => { els := if q.bare then [] else rows.map (fun l => nth l n 0) })

/-- The channel row a tap streams for an output pixel, over a K tile: PADVAL rounded to AFMT at padding (R231). -/
def State.convRow (s : State) (k : Kern) (w : Nat) (c : ConvDesc) (a : NumFmt) (pv : Num) (kt : Nat) (p : Nat × Nat) (q : ArrPass) (px : Nat) :
    List Num :=
  match c.reads q.tap px with
  | none => List.replicate (min kt (c.ci - q.kt * kt)) pv
  | some yx => cut (a.rowValues (s.selfRead k w (c.inAddr a p.1 p.2 q.tap px yx) (ceilDiv (c.ci * a.width) 8)) c.ci) (q.kt * kt) kt

/-- The bias of an output channel of a block under the taps it skips (R234), the order of the sum open. -/
def State.convBias (s : State) (k : Kern) (w : Nat) (c : ConvDesc) (int : Bool) (draw : Nat) (pv : Num) (q : ArrPass) (co : Nat) : Word :=
  let bias := s.biasAt k w c.bias co draw int
  let kept := c.kept (q.first, q.rows)
  let skipped := (List.range c.taps).filter (fun t => !kept.contains t)
  if c.padZero || skipped.isEmpty then bias
  else
    let sum := fsumOpen (draw + c.shape.cout + q.first / 128) 0#32 (skipped.map (fun t =>
      BitVec.ofNat 32 (leNat (s.selfRead k w (c.wsum + 4 * (t * c.shape.cout + co)) 4))))
    fadd bias (fmul (toF32 pv) sum)

/-- The free values a CONV draws: a word for each output channel and an order of terms for each row block. -/
def ConvDesc.draws (c : ConvDesc) : Nat := c.shape.cout + c.blocks.length

/-- A CONV as the array runs it, its formats accepted (R231 to R235). -/
def ConvDesc.job (c : ConvDesc) (k : Kern) (w draw : Nat) (f : NumFmt × NumFmt × NumFmt) : Job :=
  let four := fourBit f.1 f.2.1
  let kt := passK f.1 f.2.1
  let pv := f.1.value (f.1.convert .rne (f32 c.padval)).bits
  let prob := fun (p : Nat) => nth c.problems p (0, 0)
  { fold := { four := four, blk := none, kt := kt, cells := if c.splits kt then kt / 2 else kt, spill := c.spill, int := f.1.isInt }
    bf := f.2.1, cf := f.2.2, passes := c.runPasses four kt
    x := fun s q p row => (s.convRow k w c f.1 pv kt (prob p) q row, [])
    tile := fun s q p => s.convTile k w c f.2.1 kt q (prob p).2
    bias := fun s q p n => s.convBias k w c f.1.isInt draw pv q ((prob p).2 * c.co + n)
    out := fun p row n => c.outAddr f.2.2 (prob p).1 (prob p).2 row + n * f.2.2.width / 8 }

/-- CONV's checks with its descriptor at hand (R230, R180): why it ends, a device fault without an address where its halo slate is not
one of its program's. -/
def State.convCheck (s : State) (k : Kern) (w : Nat) (b : List Byte) : Except (Status ⊕ Nat) Unit :=
  let c := parseConv b
  match c.check (s.chunkOn k).isSome with
  | .error st => .error (.inl st)
  | .ok (af, bf, cf) =>
    if c.haloEn && (s.progSlate k.seq c.hslate).isNone then .error (.inl .deviceFault)
    else
      match s.selfBads k w (c.runs af bf cf) with
      | some va => .error (.inr va)
      | none => .ok ()

/-- Whether a CONV's halo rows have come (R244). -/
def State.haloCome (s : State) (k : Kern) (c : ConvDesc) : Bool :=
  !c.haloEn || ((s.progSlate k.seq c.hslate).map (fun i => waitMet (s.slate i) c.hcount)).getD false

/-- A CONV of the queue as the array runs it. -/
def ArrayRun.convJob (k : Kern) (w : Nat) (r : ArrayRun) : Option Job :=
  let c := parseConv r.desc
  c.formats.map (fun f => c.job k w r.draw f)

/-! ### POOL -/

/-- A POOL descriptor (R239). -/
structure PoolDesc where
  inp    : Nat
  out    : Nat
  siy    : Nat
  six    : Nat
  soy    : Nat
  sox    : Nat
  ih     : Nat
  iw     : Nat
  ch     : Nat
  batch  : Nat
  fh     : Nat
  fw     : Nat
  sh     : Nat
  sw     : Nat
  pt     : Nat
  pb     : Nat
  pl     : Nat
  pr     : Nat
  op     : Nat
  ifmt   : Nat
  ofmt   : Nat
  padval : Word
  deriving DecidableEq, Repr

/-- A descriptor read from its bytes; under GLOBAL one window covers the image. -/
def parsePool (b : List Byte) : PoolDesc :=
  let f := recField b
  let one := bitOf (f 48 1) 2
  let g := fun (o v : Nat) => if one then v else f o 1
  { inp := f 0 8, out := f 8 8, siy := f 16 4, six := f 20 4, soy := f 24 4, sox := f 28 4, ih := f 32 2, iw := f 34 2, ch := f 36 2
    batch := f 38 2, fh := g 40 (f 32 2), fw := g 41 (f 34 2), sh := g 42 1, sw := g 43 1, pt := g 44 0, pb := g 45 0, pl := g 46 0
    pr := g 47 0, op := f 48 1 % 4, ifmt := f 49 1 % 32, ofmt := f 50 1 % 32, padval := BitVec.ofNat 32 (f 52 4) }

/-- Output rows (R228, R240). -/
def PoolDesc.oh (d : PoolDesc) : Nat := outExtent d.ih (d.pt + d.pb) d.fh 1 d.sh
/-- Output columns. -/
def PoolDesc.ow (d : PoolDesc) : Nat := outExtent d.iw (d.pl + d.pr) d.fw 1 d.sw

/-- The formats of a POOL, if R239 has them. -/
def PoolDesc.formats (d : PoolDesc) : Option (NumFmt × NumFmt) :=
  match numFmtOfCode d.ifmt, numFmtOfCode d.ofmt with
  | some i, some o =>
    if [NumFmt.fp32, .bf16, .fp16, .e4m3, .e5m2, .int8, .uint8].contains i &&
       ([NumFmt.fp32, .bf16, .fp16, .e4m3, .e5m2].contains o || (d.op == 0 && o == i)) then some (i, o) else none
  | _, _ => none

/-- The checks of R241. -/
def PoolDesc.check (d : PoolDesc) : Except Status (NumFmt × NumFmt) :=
  let bad := d.op == 3 || d.fh == 0 || d.fw == 0 || d.sh == 0 || d.sw == 0
  if d.ch = 0 ∨ d.batch = 0 ∨ d.ih = 0 ∨ d.iw = 0 ∨ (!bad && (d.oh == 0 || d.ow == 0)) then .error .zeroExtent
  else if bad then .error .shapeOver
  else match d.formats with | some f => .ok f | none => .error .rejectedFormat

/-- The image positions of an output's window. -/
def PoolDesc.window (d : PoolDesc) (oy ox : Nat) : List (Nat × Nat) :=
  (List.range d.fh).flatMap (fun r => (List.range d.fw).filterMap (fun c =>
    match tapPos oy d.sh d.pt r 1 d.ih, tapPos ox d.sw d.pl c 1 d.iw with
    | some y, some x => some (y, x)
    | _, _ => none))

/-- The channel row of an input pixel. -/
def PoolDesc.inAddr (d : PoolDesc) (n y x : Nat) : Nat := d.inp + n * (d.ih * d.siy) + y * d.siy + x * d.six
/-- The channel row of an output pixel. -/
def PoolDesc.outAddr (d : PoolDesc) (n y x : Nat) : Nat := d.out + n * (d.oh * d.soy) + y * d.soy + x * d.sox

/-- A pooled value in FP32 (R240), the order of a sum open. -/
def PoolDesc.value (d : PoolDesc) (ctr : Nat) (els : List Word) : Word :=
  match d.op with
  | 0 =>
    match els with
    | [] => 0#32
    | a :: r => r.foldl (fun m x => toF32 ((f32 m).maxN (f32 x))) a
  | 1 => fdiv (fsumOpen ctr 0#32 (els ++ List.replicate (d.fh * d.fw - els.length) d.padval)) (f32OfInt (d.fh * d.fw : Nat))
  | _ => if els.isEmpty then 0#32 else fdiv (fsumOpen ctr 0#32 els) (f32OfInt (els.length : Nat))

/-- The output pixels of a batch: image, row, column. -/
def PoolDesc.outs (d : PoolDesc) : List (Nat × Nat × Nat) :=
  (List.range d.batch).flatMap (fun n => (List.range d.oh).flatMap (fun y => (List.range d.ow).map (fun x => (n, y, x))))

/-- One output pixel pooled, channel by channel, from memory as it stood at the start. -/
def State.poolPixel (s s0 : State) (k : Kern) (w : Nat) (d : PoolDesc) (i o : NumFmt) (p : Nat × Nat × Nat) : State :=
  let at_ := d.window p.2.1 p.2.2
  let rows := at_.map (fun q => s0.selfRead k w (d.inAddr p.1 q.1 q.2) (i.rowBytes d.ch))
  let outs := (List.range d.ch).map (fun c =>
    let els := rows.map (fun r => toF32 (i.value (i.elemAt r c)))
    let v := d.value (s.freeCtr + c) els
    let r := o.convert .rne (f32 v)
    let nan := els.any isNanF32 || (d.op == 1 && decide (els.length < d.fh * d.fw) && isNanF32 d.padval)
    (r.bits, { r.cnt with nanMade := b2n (!nan && (o.value r.bits).isNan) }))
  let s := { s with freeCtr := s.freeCtr + d.ch }
  let s := (s.selfWrite k w (d.outAddr p.1 p.2.1 p.2.2) (o.packRow (outs.map Prod.fst))).countNum w (NumCnt.sum (outs.map Prod.snd))
  s.bump (.core w) 0x0D4 (if at_.isEmpty then d.ch else 0)

/-- POOL's checks with its descriptor at hand (R241, R180). -/
def State.poolCheck (s : State) (k : Kern) (w : Nat) (b : List Byte) : Except (Status ⊕ Nat) Unit :=
  let d := parsePool b
  match d.check with
  | .error st => .error (.inl st)
  | .ok (i, o) =>
    let ins := (List.range d.batch).flatMap (fun n => (List.range d.ih).flatMap (fun y => (List.range d.iw).filterMap (fun x =>
      if d.outs.any (fun p => p.1 == n && (d.window p.2.1 p.2.2).contains (y, x)) then some (d.inAddr n y x, i.rowBytes d.ch) else none)))
    match s.selfBads k w (ins ++ d.outs.map (fun p => (d.outAddr p.1 p.2.1 p.2.2, o.rowBytes d.ch))) with
    | some va => .error (.inr va)
    | none => .ok ()

/-- A POOL done. -/
def State.pool (s : State) (k : Kern) (w : Nat) (b : List Byte) : State :=
  let d := parsePool b
  match d.formats with
  | some (i, o) => d.outs.foldl (fun t p => t.poolPixel s k w d i o p) s
  | none => s

end Sys2Proof.Machine
end

