-- ==== Sys2Proof/Machine/Attend.lean ====
section
/-! DEFINITION. ATTEND: paged attention over takes and batch sequences (R141 to R151, R193, R194, R218). -/

namespace Sys2Proof.Machine

/-- The attention descriptor (R141). -/
structure AttDesc where
  q        : Nat
  out      : Nat
  lse      : Nat
  seqs     : Nat
  empty    : Nat
  nseq     : Nat
  qrows    : Nat
  qfmt     : Nat
  kvfmt    : Nat
  ofmt     : Nat
  dlog     : Nat
  causal   : Bool
  windowed : Bool
  hq       : Nat
  hkv      : Nat
  layer    : Nat
  scale    : Word
  window   : Nat
  deriving DecidableEq, Repr

/-- A descriptor read from its bytes. -/
def parseAtt (b : List Byte) : AttDesc :=
  let f := recField b
  let g := f 47 1
  { q := f 0 8, out := f 8 8, lse := f 16 8, seqs := f 24 8, empty := f 32 8, nseq := f 40 2, qrows := f 42 2, qfmt := f 44 1 % 32
    kvfmt := f 45 1 % 32, ofmt := f 46 1 % 32, dlog := fld g 0 2, causal := bitOf g 2, windowed := bitOf g 3, hq := f 48 1, hkv := f 49 1
    layer := f 50 2, scale := BitVec.ofNat 32 (f 52 4), window := f 56 4 }

/-- The head dimension. -/
def AttDesc.d (a : AttDesc) : Nat := 64 * 2 ^ a.dlog

/-- Query heads per KV head (R145). -/
def AttDesc.group (a : AttDesc) : Nat := a.hq / a.hkv

/-- Bytes of one head's K or V row of a token (R138). -/
def AttDesc.kvBytes (a : AttDesc) : Nat := codeRow a.kvfmt a.d

/-- The formats, if R141 has them. -/
def AttDesc.formats (a : AttDesc) : Option (NumFmt × NumFmt × NumFmt) :=
  match numFmtOfCode a.qfmt, numFmtOfCode a.kvfmt, numFmtOfCode a.ofmt with
  | some q, some v, some o =>
    if [NumFmt.bf16, .fp16, .e4m3].contains q && [NumFmt.bf16, .fp16, .e4m3, .e5m2].contains v && [NumFmt.fp32, .bf16, .fp16].contains o then
      some (q, v, o) else none
  | _, _, _ => none

/-- Whether LAYER and a layer's KV bytes match the program's token size (R137, R142). -/
def AttDesc.sizeOk (a : AttDesc) (tok : Nat) : Bool :=
  let one := 2 * a.hkv * a.kvBytes
  one == 0 || (tok % one == 0 && decide (a.layer < tok / one))

/-- The checks of R142 in the table's order, against the program's token size. -/
def AttDesc.check (a : AttDesc) (tok : Nat) : Except Status (NumFmt × NumFmt × NumFmt) :=
  if a.nseq = 0 ∨ a.qrows = 0 then .error .zeroExtent
  else if a.dlog = 3 ∨ !in1 a.hq 128 ∨ !in1 a.hkv 128 ∨ a.hq % a.hkv ≠ 0 ∨ 16 < a.group ∨ 4096 < a.nseq ∨ 1024 < a.qrows ∨
      (a.windowed ∧ a.window = 0) ∨ !a.sizeOk tok then .error .shapeOver
  else match a.formats with | some f => .ok f | none => .error .rejectedFormat

/-- A sequence of the list: its tokens and its KV pages in list order; a stale one holds none (R143). -/
structure AttSeq where
  n     : Nat
  lg    : Nat
  pages : List PageEnt
  deriving DecidableEq, Repr

/-- The sequence an ID of the list names. -/
def State.attSeq (s : State) (id : Nat) : AttSeq :=
  let h := if id.testBit 31 then (s.seqOf id).map (fun i => i + batchBase) else s.takeOf id
  match h with
  | none => ⟨0, 0, []⟩
  | some ix => let v := s.holder ix
               ⟨v.tokens, v.lg, v.pages.filter PageEnt.kv⟩

/-- Whether row `j` sees the key at position `k` (R143). -/
def AttDesc.sees (a : AttDesc) (n j k : Nat) : Bool :=
  let p : Int := (n : Int) - a.qrows + j
  (!a.causal || decide ((k : Int) ≤ p)) && (!a.windowed || (decide (p - a.window < k) && decide ((k : Int) ≤ p)))

/-- The place of a token's K or V row (R138). -/
def AttDesc.kvPlace (a : AttDesc) (tok : Nat) (q : AttSeq) (h t : Nat) (v : Bool) : Option Place :=
  let per := tokensPerPage q.lg tok
  let e := a.kvBytes
  (q.pages[t / max 1 per]?).map (fun p => p.at_ (((a.layer * a.hkv + h) * 2 + b2n v) * (per * e) + t % max 1 per * e))

/-- A token's K or V row, with the address of a poisoned burst it met. -/
def State.kvRow (s : State) (a : AttDesc) (tok : Nat) (f : NumFmt) (q : AttSeq) (h t : Nat) (v : Bool) : List Num × Option Nat :=
  match (a.kvPlace tok q h t v).map (fun p => s.readPlace p a.kvBytes) with
  | some (b, bad) => (f.rowValues b a.d, bad)
  | none => (List.replicate a.d (.fin false 0 0), none)

/-- The score scale: SCALE, or 1/√d where it is zero (R141). -/
def AttDesc.scaleOf (a : AttDesc) : Word :=
  if a.scale.toNat % 2 ^ 31 = 0 then toF32 (Num.fin false 1 (-(6 + (a.dlog : Int)))).sqrt else a.scale

/-- One row and head under way: the running maximum, the running sum and the output accumulator (R144). -/
structure Soft where
  m : Word
  l : Word
  o : List Word
  deriving DecidableEq, Repr

/-- -∞ in FP32. -/
def ninfF32 : Word := 0xFF800000#32

/-- One KV tile of the online softmax: scores with their V rows (R144); a score of -∞ takes zero weight. -/
def Soft.tile (x : Soft) (ctr : Nat) (ks : List (Word × List Num)) : Soft :=
  let m := ks.foldl (fun m k => toF32 ((f32 m).maxN (f32 k.1))) x.m
  if m = ninfF32 then x
  else
    let f := if x.m = ninfF32 then 0#32 else expOf 0x0D (fsub x.m m)
    let ps := ks.map (fun k => if k.1 = ninfF32 then 0#32 else expOf 0x0D (fsub k.1 m))
    { m := m
      l := fsumOpen ctr (fmul x.l f) ps
      o := (List.range x.o.length).map (fun i =>
        fadd (fmul (nth x.o i 0) f) (chain 0#32 ((ps.zip ks).filterMap (fun q =>
          if q.1 = 0#32 then none else some ((f32 q.1).mul (nth q.2.2 i (.fin false 0 0))))))) }

/-- The FP32 outputs and log-sum-exp of some visible keys with finite or -∞ scores, over the KV tiles of 128 positions that hold them
(R144, R145, R148). -/
def softRow (ctr d n : Nat) (ks : List (Nat × Word × List Num)) : List Word × Word :=
  let tiles := ((List.range (ceilDiv n 128)).map (fun i => (ks.filter (fun k => k.1 / 128 == i)).map Prod.snd)).filter (fun t => !t.isEmpty)
  let x := tiles.foldl (fun x t => Soft.tile x ctr t) { m := ninfF32, l := 0#32, o := List.replicate d 0#32 }
  if x.m = ninfF32 then (List.replicate d 0#32, ninfF32) else (x.o.map (fun v => fdiv v x.l), fadd x.m (logOf 0x0F x.l))

/-- Two segments' results merged (R149). -/
def mergeSeg (a b : List Word × Word) : List Word × Word :=
  if a.2 = ninfF32 ∧ b.2 = ninfF32 then (a.1.map (fun _ => 0#32), ninfF32)
  else
    let mx := toF32 ((f32 a.2).maxN (f32 b.2))
    let lam := fadd mx (logOf 0x0F (fadd (expOf 0x0D (fsub a.2 mx)) (expOf 0x0D (fsub b.2 mx))))
    let x := expOf 0x0D (fsub a.2 lam)
    let y := expOf 0x0D (fsub b.2 lam)
    ((a.1.zip b.1).map (fun p => fadd (fmul p.1 x) (fmul p.2 y)), lam)

/-- The length bounds in use (R146). -/
def State.bounds (s : State) : List Nat := ((List.range 16).map (fun i => s.sheet (72 + 4 * i) 4)).filter (fun b => b != 0)

/-- The segment length of a sequence of `n` tokens, if R147 cuts it. -/
def State.segment (s : State) (n : Nat) : Option Nat :=
  match s.bounds.getLast? with
  | some b => if b < n then some b else none
  | none => none

/-- The bucket of a length: the first bound that holds it, by number; the bounds' count where none does (R147). -/
def State.bucketOf (s : State) (n : Nat) : Nat := (s.bounds.takeWhile (fun b => decide (b < n))).length

/-- The buckets a sequence of `n` tokens runs in (R147): its own, or the last one for each full segment and that of the short one. -/
def State.bucketsOf (s : State) (n : Nat) : List Nat :=
  match s.segment n with
  | none => [s.bucketOf n]
  | some b => List.replicate (n / b) (s.bounds.length - 1) ++ (if n % b = 0 then [] else [s.bucketOf (n % b)])

/-- When a sequence of `n` tokens is done with (R147, R149): an empty one and one of a single key ahead of the buckets, any other with
the last of its buckets. -/
def State.attTurn (s : State) (n : Nat) : Nat := if n = 0 then 0 else if n = 1 then 1 else 2 + (s.bucketsOf n).foldl max 0

/-- The sequences of a list in the order in which their buckets run (R147). -/
def State.attOrder (s : State) (l : List AttSeq) : List (Nat × AttSeq) :=
  let ps := (List.range l.length).zip l
  (List.range (s.bounds.length + 3)).flatMap (fun r => ps.filter (fun p => s.attTurn p.2.n == r))

/-- What one row and head writes: FP32 outputs or the rounded single value, its LSE, whether it is empty, and of each output whether an
operand was NaN (R223). -/
structure AttOut where
  o     : List Num
  lse   : Word
  empty : Bool
  nans  : List Bool := []
  deriving DecidableEq, Repr

/-- One row and head over its visible keys: position, score and V row (R144, R147 to R151, R218). -/
def attRow (ctr d n : Nat) (seg : Option Nat) (ks : List (Nat × Word × List Num)) : AttOut :=
  let nan := ks.any (fun k => (f32 k.2.1).isNan || f32 k.2.1 == .inf false)
  if ks.isEmpty then { o := List.replicate d (.fin false 0 0), lse := ninfF32, empty := true }
  else if nan then { o := List.replicate d .nan, lse := nanF32, empty := false }
  else if n = 1 then
    match ks with
    | k :: _ =>
      if k.2.1 = ninfF32 then { o := List.replicate d (.fin false 0 0), lse := ninfF32, empty := false }
      else { o := k.2.2, lse := k.2.1, empty := false }
    | [] => { o := [], lse := ninfF32, empty := true }
  else
    let r := match seg with
      | none => softRow ctr d n ks
      | some b =>
        match (List.range (ceilDiv n b)).map (fun i => softRow ctr d n (ks.filter (fun (k : Nat × Word × List Num) => k.1 / b == i))) with
        | [] => (List.replicate d 0#32, ninfF32)
        | x :: rest => rest.foldl mergeSeg x
    { o := r.1.map f32, lse := r.2, empty := false }

/-- The position of a sequence, row and query head in LSE and EMPTY order. -/
def AttDesc.pos (a : AttDesc) (i j h : Nat) : Nat := (i * a.qrows + j) * a.hq + h

/-- The scores and V rows of the keys a row and head sees, and of each output column whether a NaN is among Q, the K rows and V's
column. -/
def State.attKeys (s : State) (k : Kern) (w : Nat) (a : AttDesc) (qf : NumFmt) (kv : List (List (List Num × List Num))) (n i j h : Nat) :
    List (Nat × Word × List Num) × List Bool :=
  let row := qf.rowValues (s.selfRead k w (a.q + a.pos i j h * qf.rowBytes a.d) (qf.rowBytes a.d)) a.d
  let keys := nth kv (h / a.group) []
  let seen := ((List.range n).filter (fun t => a.sees n j t)).map (fun t => (t, nth keys t ([], [])))
  let nan := row.any Num.isNan || seen.any (fun q => q.2.1.any Num.isNan)
  (seen.map (fun q => (q.1, fmul a.scaleOf (chain 0#32 (products row q.2.1)), q.2.2)),
   (List.range a.d).map (fun c => nan || seen.any (fun q => (nth q.2.2 c (.fin false 0 0)).isNan)))

/-- One row and head written: its outputs in OFMT, its LSE. -/
def State.attWrite (s : State) (k : Kern) (w : Nat) (a : AttDesc) (o : NumFmt) (p : Nat) (r : AttOut) : State :=
  let cs := r.o.map (fun v => o.convert .rne v)
  let made := (cs.zip r.nans).countP (fun q => !q.2 && (o.value q.1.bits).isNan)
  let s := (s.selfWrite k w (a.out + p * o.rowBytes a.d) (o.packRow (cs.map Conv.bits))).countNum w
    ((NumCnt.sum (cs.map Conv.cnt)).add { nanMade := made })
  if a.lse = 0 then s else s.selfWrite k w (a.lse + 4 * p) (leBytes 4 r.lse.toNat)

/-- A sequence's bits of the bitmap of empty rows written (R151), from its first row's and head's on; other bits of its bytes stay. -/
def State.attEmpty (s : State) (k : Kern) (w : Nat) (a : AttDesc) (first : Nat) (flags : List Bool) : State :=
  if a.empty = 0 then s
  else
    let b := first % 8
    let n := ceilDiv (b + flags.length) 8
    let old := leNat (s.selfRead k w (a.empty + first / 8) n)
    s.selfWrite k w (a.empty + first / 8) (leBytes n (old - fld old b flags.length * 2 ^ b + flagsNat flags * 2 ^ b))

/-- One sequence attended: its rows and heads written, its empty rows marked, and counted for the command. -/
def State.attSequence (s s0 : State) (k : Kern) (w : Nat) (a : AttDesc) (tok : Nat) (f : NumFmt × NumFmt × NumFmt) (i : Nat) (q : AttSeq) :
    State :=
  let kv := (List.range a.hkv).map (fun h => (List.range q.n).map (fun t =>
    ((s0.kvRow a tok f.2.1 q h t false).1, (s0.kvRow a tok f.2.1 q h t true).1)))
  match ((List.range a.qrows).flatMap (fun j => (List.range a.hq).map (fun h => (j, h)))).foldl (fun (acc : State × List Bool) jh =>
    let ks := s0.attKeys k w a f.1 kv q.n i jh.1 jh.2
    let r := { attRow acc.1.freeCtr a.d q.n (s0.segment q.n) ks.1 with nans := ks.2 }
    (({ acc.1 with freeCtr := acc.1.freeCtr + 1 }).attWrite k w a f.2.2 (a.pos i jh.1 jh.2) r, acc.2 ++ [r.empty])) (s, []) with
  | (s, flags) =>
    (s.attEmpty k w a (a.pos i 0 0) flags).updCmd k.seq (fun c => { c with data := { c.data with
      kvEmpty := c.data.kvEmpty + flags.countP id, kvCut := c.data.kvCut + b2n (s0.segment q.n).isSome } })

/-- The runs an ATTEND touches beside the KV pages: Q, LSE, EMPTY, OUT. -/
def AttDesc.runs (a : AttDesc) (q o : NumFmt) : List (Nat × Nat) :=
  let n := a.nseq * a.qrows * a.hq
  [(a.q, n * q.rowBytes a.d), (a.out, n * o.rowBytes a.d)] ++ (if a.lse = 0 then [] else [(a.lse, 4 * n)]) ++
  (if a.empty = 0 then [] else [(a.empty, ceilDiv n 8)])

/-- A poisoned burst among the KV rows the sequences' visible tokens read, if any. -/
def State.kvPoison (s : State) (a : AttDesc) (tok : Nat) (f : NumFmt) (l : List AttSeq) : Option Nat :=
  l.findSome? (fun q => (List.range a.hkv).findSome? (fun h => (List.range q.n).findSome? (fun t =>
    (s.kvRow a tok f q h t false).2.or (s.kvRow a tok f q h t true).2)))

/-- The IDs of the list, read from the core's reach. -/
def State.attIds (s : State) (k : Kern) (w va n : Nat) : List Nat :=
  let bs := s.selfRead k w va (4 * n)
  tabulate n (fun i => recField bs (4 * i) 4)

/-- The size of a KV token of a kernel's program (R137). -/
def State.attToken (s : State) (k : Kern) : Nat := ((s.cmd? k.seq).map (fun c => s.tokenOf c)).getD 0

/-- ATTEND's checks with its descriptor at hand (R142, R180). -/
def State.attCheck (s : State) (k : Kern) (w : Nat) (b : List Byte) : Except (Status ⊕ Nat) Unit :=
  let a := parseAtt b
  match a.check (s.attToken k) with
  | .error st => .error (.inl st)
  | .ok f =>
    match s.selfBads k w ((a.seqs, 4 * a.nseq) :: a.runs f.1 f.2.2) with
    | some va => .error (.inr va)
    | none => .ok ()

/-- The sequences of an ATTEND's list in the order in which it attends them. -/
def State.attTurns (s : State) (k : Kern) (w : Nat) (a : AttDesc) : List (Nat × AttSeq) :=
  s.attOrder ((s.attIds k w a.seqs a.nseq).map (fun id => s.attSeq id))

/-- Some sequences of an ATTEND attended, from where it stands (R144, R147): a poisoned KV burst among them ends the command. A
pre-emption stops it between sequences (DESIGN CHOICE, log entry 123). -/
def State.attRun (s : State) (k : Kern) (w : Nat) (r : ArrayRun) (n : Nat) : State × ArrayRun :=
  let a := parseAtt r.desc
  match a.formats with
  | none => (s, r)
  | some f =>
    let l := cut (s.attTurns k w a) r.pass n
    match s.kvPoison a (s.attToken k) f.2.1 (l.map Prod.snd) with
    | some pa => (s.poisonFault k.seq pa, r)
    | none => (l.foldl (fun t p => t.attSequence t k w a (s.attToken k) f p.1 p.2) s, { r with pass := r.pass + l.length })

end Sys2Proof.Machine
end

