-- ==== Sys2Proof/Machine/Elem.lean ====
section
/-! DEFINITION. The generator draws of a core (R71, R281) and element programs (R284 to R287, R291). -/

namespace Sys2Proof.Machine

/-- The effective-length test of R277: whether a lane is inside some lengths. -/
def inside (l : Nat × Nat) (i : Nat) : Bool := decide (i / 16 < l.1) && decide (i % 16 < l.2)

/-- The lanes outside some lengths (R277). -/
def outLanes (l : Nat × Nat) : Nat := 256 - l.1 * l.2

/-- An index register; X0 reads zero. -/
def Core.x (c : Core) (i : Nat) : Word := if i = 0 then 0 else Tab.at c.xs i 0

/-- The generator words that key a draw: SEED's four words and STEPS (R71, R281). -/
def seedWords (t : Take) : Nat × Nat × Nat × Nat := (recField t.seed 0 4, recField t.seed 4 4, recField t.seed 8 4, recField t.seed 12 4)

/-- A word of the generator for a take row; outside a step program the seed stands in X4 to X7 and STEPS is 0 (R281). -/
def State.drawRow (s : State) (w : Nat) (k : Kern) (row c0 c1 word : Nat) : Nat :=
  let c := s.core w
  if ((s.cmd? k.seq).map Cmd.isAdvance).getD false then
    let t := s.take (nth c.rows row 65536)
    match seedWords t with
    | (a, b, d, e) => philox a b c0 c1 (t.steps.toNat ^^^ d) e word
  else philox (c.x 4).toNat (c.x 5).toNat c0 c1 (c.x 6).toNat (c.x 7).toNat word

/-- An element program's descriptor (R284). -/
structure ElemProg where
  ins    : List Nat
  outs   : List Nat
  sins   : List Nat
  souts  : List Nat
  rows   : Nat
  cols   : Nat
  fins   : List Nat
  col0   : List Bool
  fouts  : List Nat
  rmode  : Nat
  plen   : Nat
  osel   : List Nat
  prog   : Nat
  consts : Nat
  draw   : Nat
  deriving DecidableEq, Repr

/-- A descriptor read from its bytes. -/
def parseElem (b : List Byte) : ElemProg :=
  let f := recField b
  { ins := tabulate 4 (fun i => f (8 * i) 8), outs := tabulate 2 (fun i => f (32 + 8 * i) 8)
    sins := tabulate 4 (fun i => f (48 + 4 * i) 4), souts := tabulate 2 (fun i => f (64 + 4 * i) 4)
    rows := f 72 4, cols := f 76 4, fins := tabulate 4 (fun i => f (80 + i) 1 % 32), col0 := tabulate 4 (fun i => bitOf (f (80 + i) 1) 5)
    fouts := tabulate 2 (fun i => f (84 + i) 1 % 32), rmode := f 86 1 % 4, plen := f 87 1
    osel := [f 88 1 % 16, f 88 1 / 16], prog := f 96 8, consts := f 104 8, draw := f 112 2 }

/-- A format an element program accepts (R287). -/
def elemFmt (c : Nat) : Option NumFmt := (numFmtOfCode c).bind (fun f => if f.isMx then none else some f)

/-- The checks of R287 before PROG is read. -/
def ElemProg.bad (d : ElemProg) : Option Status :=
  if d.rows = 0 ∨ d.cols = 0 ∨ d.outs.all (fun o => o == 0) then some .zeroExtent
  else if d.plen = 0 ∨ 64 < d.plen ∨ (d.ins ++ d.outs ++ d.sins ++ d.souts ++ [d.prog, d.consts]).any (fun a => a % 16 != 0) then some .shapeOver
  else if d.rmode = 3 ∨ (d.fins ++ d.fouts).any (fun c => (elemFmt c).isNone) then some .rejectedFormat
  else none

/-- Whether an element instruction is refused (R268, R287). -/
def elemBad (i : Nat) : Bool := !vopFunc (fld i 0 6) || decide (0x40 ≤ fld i 0 6) || fld i 23 9 != 0

/-- An element program run on one lane: its registers and what it counts (R286). -/
def runElem (consts : List Word) : List Nat → List Word × NumCnt → List Word × NumCnt
  | [], r => r
  | i :: rest, (e, n) =>
    let at_ := fun (k : Nat) => nth e k 0#32
    let b := if bitOf i 22 then nth consts (fld i 14 4) 0#32 else at_ (fld i 14 4)
    match elemEval (fld i 0 6) (at_ (fld i 10 4)) b (at_ (fld i 18 4)) with
    | (v, c) => runElem consts rest (e.set (fld i 6 4) v, n.add c)

/-- The bytes of row `y` of an operand up to the last element used. -/
def ElemProg.span (d : ElemProg) (base stride : Nat) (f : NumFmt) (col0 : Bool) (y : Nat) : Nat × Nat :=
  (base + y * stride, f.rowBytes (if col0 then 1 else d.cols))

/-- The first address of an element program's operands out of reach (R180). -/
def State.elemReach (s : State) (k : Kern) (w : Nat) (d : ElemProg) : Option Nat :=
  let rows := fun (base stride code : Nat) (c0 : Bool) =>
    if base = 0 then none
    else (elemFmt code).bind (fun f => (List.range d.rows).findSome? (fun y => let p := d.span base stride f c0 y; s.selfBad k w p.1 p.2))
  ((List.range 4).findSome? (fun i => rows (nth d.ins i 0) (nth d.sins i 0) (nth d.fins i 0) (nth d.col0 i false))).or
    ((List.range 2).findSome? (fun i => rows (nth d.outs i 0) (nth d.souts i 0) (nth d.fouts i 0) false))

/-- An input element. -/
def State.elemIn (s : State) (k : Kern) (w : Nat) (d : ElemProg) (i y x : Nat) : Word :=
  let base := nth d.ins i 0
  if base = 0 then 0
  else
    match elemFmt (nth d.fins i 0) with
    | none => 0
    | some f =>
      let j := if nth d.col0 i false then 0 else x
      let b := f.width * j
      let bs := s.selfRead k w (base + y * nth d.sins i 0 + b / 8) (ceilDiv (b % 8 + f.width) 8)
      f.widen (fld (leNat bs) (b % 8) f.width)

/-- An output element stored. -/
def State.elemOut (s : State) (k : Kern) (w : Nat) (d : ElemProg) (o y x r : Nat) (v : Word) : State :=
  let base := nth d.outs o 0
  if base = 0 then s
  else
    match elemFmt (nth d.fouts o 0) with
    | none => s
    | some f =>
      let c := f.narrow (rmodeOf d.rmode r) v
      let b := f.width * x
      let va := base + y * nth d.souts o 0 + b / 8
      let n := ceilDiv (b % 8 + f.width) 8
      let old := leNat (s.selfRead k w va n)
      let rest := if x + 1 = d.cols then old % 2 ^ (b % 8) else old - fld old (b % 8) f.width * 2 ^ (b % 8)
      (s.selfWrite k w va (leBytes n (rest + c.bits % 2 ^ f.width * 2 ^ (b % 8)))).countNum w (f.storeCnt v c)

/-- Vector issue cycles of an element function or VOP function on one tile (R290). -/
def funcCycles (f : Nat) : Nat :=
  if f = 0x06 ∨ f = 0x07 ∨ f = 0x0E ∨ f = 0x10 then 2
  else if f = 0x04 ∨ f = 0x05 ∨ f = 0x0D ∨ f = 0x0F ∨ f = 0x11 ∨ f = 0x12 ∨ f = 0x13 then 4
  else if f = 0x14 ∨ f = 0x15 then 8 else 1

/-- The tail of a group: the rows and columns of the extent it holds. -/
def ElemProg.tail (d : ElemProg) (gy gx : Nat) : Nat × Nat := (min 16 (d.rows - 16 * gy), min 16 (d.cols - 16 * gx))

/-- One group (R286): every lane computed from the memory as it stands, those outside the tail on zeros, then the lanes inside stored. -/
def State.elemGroup (s : State) (k : Kern) (w row : Nat) (d : ElemProg) (prog : List Nat) (consts : List Word) (gy gx : Nat) : State :=
  let t := d.tail gy gx
  let cells := (List.range t.1).flatMap (fun r => (List.range t.2).map (fun c => (16 * gy + r, 16 * gx + c)))
  let run := fun (ins : List Word) => runElem consts prog (ins ++ List.replicate 12 0#32, {})
  let res := cells.map (fun p => (p, run ((List.range 4).map (fun i => s.elemIn k w d i p.1 p.2))))
  let out := if outLanes t = 0 then {} else (run (List.replicate 4 0#32)).2.times (outLanes t)
  let s := res.foldl (fun s q =>
    let r := s.drawRow w k row d.draw ((q.1.1 * d.cols + q.1.2) % 2 ^ 32) 0
    let s := s.elemOut k w d 0 q.1.1 q.1.2 r (nth q.2.1 (nth d.osel 0 0) 0#32)
    s.elemOut k w d 1 q.1.1 q.1.2 r (nth q.2.1 (nth d.osel 1 0) 0#32)) s
  let cycles := (prog.map (fun i => funcCycles (fld i 0 6))).foldl (fun a b => a + b) 0
  ((s.countNum w ((NumCnt.sum (res.map (fun q => q.2.2))).add out)).bump (.core w) 0x0E1 (cycles * outLanes t)).bump (.core w) 0x0E2 1

/-- The groups of an element program's extent. -/
def ElemProg.groups (d : ElemProg) : Nat := ceilDiv d.rows 16 * ceilDiv d.cols 16

/-- The next groups of a running element program, row tile by row tile (R286). -/
def State.elemGroups (s : State) (k : Kern) (w : Nat) (r : ElemRun) (n : Nat) : State :=
  let d := parseElem r.desc
  let gx := ceilDiv d.cols 16
  (List.range n).foldl (fun s i => s.elemGroup k w r.row d r.prog r.consts ((r.next + i) / gx) ((r.next + i) % gx)) s

/-- The element program under way at a core run to its end: every later instruction of the core finds it so (R262, R263). -/
def State.finishElem (s : State) (w : Nat) : State :=
  match (s.core w).elem, s.kernOn w with
  | some r, some k => (s.elemGroups k w r ((parseElem r.desc).groups - r.next)).updCore w (fun c => { c with elem := none })
  | _, _ => s

/-- The element program of a core stopped at a group boundary by a pre-emption (R291), after some groups that the manual does not
fix: a free value. -/
def State.stopElem (s : State) (w : Nat) : State :=
  match (s.core w).elem, s.kernOn w with
  | some r, some k =>
    match s.draw with
    | (v, s) =>
      let n := v.toNat % ((parseElem r.desc).groups - r.next + 1)
      (s.elemGroups k w r n).updCore w (fun c => { c with elem := some { r with next := r.next + n } })
  | _, _ => s

/-- EPRUN with its descriptor at hand (R284 to R287): its checks, then its program is under way. The take row whose generator
rounds is open (R286; log entry 37). -/
def State.eprun (s : State) (k : Kern) (w n : Nat) (b : List Byte) : State :=
  let d := parseElem b
  match d.bad with
  | some st => s.endCmd k.seq st
  | none =>
    match s.selfBads k w [(d.prog, 4 * d.plen), (d.consts, 64)] with
    | some va => s.coreFault w k va
    | none =>
      let pb := s.selfRead k w d.prog (4 * d.plen)
      let prog := tabulate d.plen (fun i => recField pb (4 * i) 4)
      let cb := s.selfRead k w d.consts 64
      if prog.any elemBad then s.coreFault w k n
      else
        match s.elemReach k w d with
        | some va => s.coreFault w k va
        | none =>
          match s.draw with
          | (v, s) =>
            let r : ElemRun :=
              { desc := b, prog := prog, consts := tabulate 16 (fun i => BitVec.ofNat 32 (recField cb (4 * i) 4))
                row := v.toNat % max 1 ((s.core w).x 1).toNat }
            s.updCore w (fun c => { c with elem := some r })

end Sys2Proof.Machine
end

