-- ==== Sys2Proof/Machine/Array.lean ====
section
/-! DEFINITION. The array queue of a core (R172 to R174, R182, R195, R225, R226): what starts when, the rows, sequences and windows its
instructions do, HALO (R242, R243), the way of EDGE into the edge engine (R226, R247), and what a pre-emption finds. -/

namespace Sys2Proof.Machine

/-! ### Units -/

/-- Whether an instruction runs on the array: MATMUL, ATTEND, CONV. -/
def ArrayRun.onArray (r : ArrayRun) : Bool := r.op == 0x40 || r.op == 0x41 || r.op == 0x48

/-- Whether an instruction takes the vector engine from its start to its last output: ATTEND, POOL, a CONV with a non-zero PADVAL (R264). -/
def ArrayRun.onVector (r : ArrayRun) : Bool := r.op == 0x41 || r.op == 0x49 || (r.op == 0x48 && !(parseConv r.desc).padZero)

/-- Whether an edge job is of a core's command. -/
def EdgeJob.ofCore (j : EdgeJob) (w : Nat) (seq : Word) : Bool :=
  match j with
  | .core v q _ _ => v == w && q == seq
  | .stream _ _ => false

/-- Whether a core's edge jobs have all written their last (R226). -/
def State.edgeIdle (s : State) (w : Nat) (seq : Word) : Bool :=
  let g := s.edge (clusterOf w)
  !g.coreQ.any (fun j => j.ofCore w seq) && !(g.running.map (fun j => j.ofCore w seq)).getD false

/-- Whether every array instruction of a core has written its last output (R182, R226). -/
def State.arrayIdle (s : State) (w : Nat) : Bool :=
  let c := s.core w
  c.queue.isEmpty && (match c.owner with | some (q, _) => s.edgeIdle w q | none => true)

/-! ### What instructions do -/

/-- An array instruction with weights as the array runs it. -/
def State.jobOf (s : State) (k : Kern) (w : Nat) (r : ArrayRun) : Option Job := if r.op = 0x40 then s.gemmJob k w r else r.convJob k w

/-- The rows, or for ATTEND the sequences, that an instruction may do now. -/
def State.runLeft (s : State) (k : Kern) (w : Nat) (r : ArrayRun) : Nat :=
  if r.op = 0x41 then (parseAtt r.desc).nseq - r.pass
  else ((s.jobOf k w r).map (fun j => rowsBeforeHalo j.passes r (r.op != 0x48 || s.haloCome k (parseConv r.desc)))).getD 0

/-- Some rows or sequences of an instruction done from where it stands. -/
def State.runSome (s : State) (k : Kern) (w : Nat) (r : ArrayRun) (n : Nat) : State × ArrayRun :=
  if r.op = 0x41 then s.attRun k w r n
  else
    match s.jobOf k w r with
    | some j => s.runRows k w j (r.op == 0x48) (j.passes.drop r.pass) n r
    | none => (s, r)

/-- Whether a CONV still has halo blocks to run that it may not (R244). -/
def State.runHeld (s : State) (k : Kern) (r : ArrayRun) : Bool := r.op == 0x48 && !s.haloCome k (parseConv r.desc) && (parseConv r.desc).blocks.any (parseConv r.desc).haloBlock

/-- The first address of a HALO's source outside the core's scratchpad and its share of its cluster's memory (R242). -/
def State.haloReach (s : State) (k : Kern) (w va n : Nat) : Option Nat :=
  match s.selfBad k w va n with
  | some v => some v
  | none => let o := va % 2 ^ 52
            if o < 0x1000000 ∧ 0x150000 < o + n then some (max va (selfWindow + 0x150000)) else none

/-- The checks of R243, and of the ranges of R242. -/
def haloBad (b : List Byte) : Option Status :=
  let f := recField b
  let dst := f 8 4 % 2 ^ 21
  let period := f 32 2
  let slots := f 34 1
  if f 12 4 = 0 ∨ f 16 4 = 0 then some .zeroExtent
  else if 0x150000 < dst + (f 12 4 - 1) * f 24 4 + f 16 4 ∨ period < slots + f 30 2 ∨ f 0 8 % 16 ≠ 0 ∨ dst % 16 ≠ 0 ∨ f 16 4 % 16 ≠ 0 ∨
      period = 0 ∨ 4096 < period ∨ slots = 0 ∨ 16 < slots then some .shapeOver
  else none

/-- A HALO's source rows: address and bytes. -/
def haloRows (b : List Byte) : List (Nat × Nat) :=
  let f := recField b
  (List.range (f 12 4)).map (fun r => (f 0 8 + r * f 20 4, f 16 4))

/-- The core a HALO writes to. -/
def Kern.haloCore (k : Kern) (b : List Byte) : Option Nat :=
  ((k.ranks.zip k.cores).find? (fun p => p.1 == recField b 28 2 % 512)).map Prod.snd

/-- HALO's checks with its descriptor at hand (R242, R243). -/
def State.haloCheck (s : State) (k : Kern) (w : Nat) (b : List Byte) : Except (Status ⊕ Nat) Unit :=
  match haloBad b with
  | some st => .error (.inl st)
  | none =>
    if (k.haloCore b).isNone then .error (.inl .shapeOver)
    else
      match (haloRows b).findSome? (fun r => s.haloReach k w r.1 r.2) with
      | some va => .error (.inr va)
      | none => if (s.progSlate k.seq (recField b 36 4 % 131072)).isNone then .error (.inl .deviceFault) else .ok ()

/-- A HALO started: its rows stand in the destination core's scratchpad (log entry 36), its slate add to come. -/
def State.haloStart (s : State) (k : Kern) (w : Nat) (b : List Byte) : State :=
  let f := recField b
  match k.haloCore b with
  | none => s
  | some dw =>
    let rows := (haloRows b).map (fun r => s.selfRead k w r.1 r.2)
    (((List.range (f 12 4)).zip rows).foldl (fun s p =>
      s.writePlace (.sram (sramCore dw (f 8 4 % 2 ^ 21 + p.1 * f 24 4))) p.2 false k.seq (clusterOf w)) s).bump (.core w) 0x0D3 (f 12 4 * f 16 4)

/-! ### Starting -/

/-- The state with a core's array queue written. -/
def State.setRuns (s : State) (w : Nat) (q : List ArrayRun) : State := s.updCore w (fun c => { c with queue := q })

/-- Whether an instruction at the head of the queue's waiting part may start behind those that have (R181, R226): its unit is free, and
under WAIT every earlier one has written its last output. The array counts as free from the last output on, the 261 cycles before it
being no event (log entry 36). -/
def State.mayStart (s : State) (k : Kern) (w : Nat) (earlier : List ArrayRun) (r : ArrayRun) : Bool :=
  (!r.wait || (earlier.isEmpty && s.edgeIdle w k.seq)) &&
  (if r.onArray then !earlier.any ArrayRun.onArray && (!r.onVector || !earlier.any ArrayRun.onVector)
   else if r.op = 0x49 then !earlier.any ArrayRun.onVector
   else if r.op = 0x4A then !earlier.any (fun h => h.op == 0x4A)
   else decide ((s.edge (clusterOf w)).coreQ.length < 8))

/-- An instruction started: a HALO sends its rows, an EDGE leaves the queue for the edge engine's, and an array that has issued no row
this µs asks for a ramp-up (R172, R174; log entry 124). -/
def State.startRun (s : State) (k : Kern) (w : Nat) (earlier later : List ArrayRun) (r : ArrayRun) : State :=
  if r.op = 0x4B then
    (s.setRuns w (earlier ++ later)).setEdge (clusterOf w) ((s.edge (clusterOf w)).addCore (.core w k.seq (some k) r.desc))
  else
    let s := s.setRuns w (earlier ++ { r with started := true } :: later)
    if r.op = 0x4A then s.haloStart k w r.desc
    else if r.onArray then s.updCore w (fun c => if c.rowUs = some s.nowUs then c else { c with ramp := 1 })
    else s

/-- The instructions of a core's queue that may start, started in order. -/
def State.startGo (s : State) (k : Kern) (w : Nat) : Nat → State
  | 0 => s
  | n + 1 =>
    let q := (s.core w).queue
    let earlier := q.takeWhile ArrayRun.started
    match q.dropWhile ArrayRun.started with
    | [] => s
    | r :: later => if s.mayStart k w earlier r then State.startGo (s.startRun k w earlier later r) k w n else s

/-- What may start in a core's queue started, while its kernel runs. -/
def State.startQueue (s : State) (w : Nat) : State :=
  match s.kernOn w with
  | some k => if k.phase == .running || k.phase == .stopping then s.startGo k w 4 else s
  | none => s

/-- An instruction put into the queue. -/
def State.enqueue (s : State) (w : Nat) (r : ArrayRun) : State := (s.updCore w (fun c => { c with queue := c.queue ++ [r] })).startQueue w

/-- The free values an instruction draws when it is queued. -/
def ArrayRun.draws (r : ArrayRun) : Nat :=
  if r.op = 0x40 then (parseGemm r.desc).n else if r.op = 0x48 then (parseConv r.desc).draws else 0

/-- The instruction an array word makes with its descriptor. -/
def State.newRun (s : State) (k : Kern) (w n : Nat) (b : List Byte) : ArrayRun :=
  { op := opcodeOf n, desc := b, wait := bitOf n 10, draw := s.freeCtr
    subst := if opcodeOf n = 0x40 then s.substAt k w (parseGemm b).b else none }

/-! ### Last outputs -/

/-- A queue split at its first started instruction of the array or the vector engine. -/
def splitRun : List ArrayRun → Option (List ArrayRun × ArrayRun × List ArrayRun)
  | [] => none
  | r :: rest =>
    if r.started && (r.onArray || r.op == 0x49) then some ([], r, rest)
    else (splitRun rest).map (fun p => (r :: p.1, p.2))

/-- An instruction done to its last output, or as far as its halo rows let it. -/
def State.runOut (s : State) (k : Kern) (w : Nat) (r : ArrayRun) : State × ArrayRun :=
  if r.op = 0x49 then (s.pool k w r.desc, r) else s.runSome k w r (s.runLeft k w r)

/-- ARRAY_LAST_OUTPUT (R168, R174, R182, R226, R244): the oldest started instruction of the array or of POOL does what it has left and
leaves the queue, and what waited for it starts. A ramp-up waits for its grant first; a CONV whose halo rows have not come runs its other
blocks and stays. -/
def execArrayLastOutput (w : CoreIx) (s : State) : Host.Outcome State Fault Refusal :=
  match splitRun (s.core w.val).queue, s.kernOn w.val with
  | some (pre, r, post), some k =>
    if r.onArray ∧ (s.core w.val).ramp = 1 then .next s
    else
      let (t, r') := s.runOut k w.val r
      if (t.core w.val).owner.isNone then .next t
      else if s.runHeld k r then .next (t.setRuns w.val (pre ++ r' :: post))
      else
        let t := t.updCore w.val (fun c => { c with queue := pre ++ post, rowUs := if r.onArray then some t.nowUs else c.rowUs
                                                    ramp := if r.onArray then 0 else c.ramp })
        .next (t.startQueue w.val)
  | _, _ => .next s

/-- RAMP_GRANT (R174): the gaffer's grant of a ramp-up. -/
def execRampGrant (w : CoreIx) (s : State) : Host.Outcome State Fault Refusal :=
  let c := s.core w.val
  if c.ramp = 1 then .next (s.setCore w.val { c with ramp := 2 }) else .next s

/-- HALO_DONE (R226, R243): every write of a core's oldest HALO is acknowledged, its slate add lands, and it leaves the queue. -/
def execHaloDone (w : CoreIx) (s : State) : Host.Outcome State Fault Refusal :=
  let q := (s.core w.val).queue
  match q.find? (fun r => r.op == 0x4A && r.started), s.kernOn w.val with
  | some h, some k =>
    let s := s.setRuns w.val (q.erase h)
    let s := match s.progSlate k.seq (recField h.desc 36 4 % 131072) with
      | some i => (s.slateAsk (.core w.val) i .add (BitVec.ofNat 32 (recField h.desc 40 4)) 0).1
      | none => s
    .next (s.startQueue w.val)
  | _, _ => .next s

/-- EDGE_JOB_DONE (R247 to R254): the running job of a cluster's edge engine completes, the next is taken, and an EDGE that found the core
queue full finds room. `pred` is the luma at 10 bits of a prediction the predictor has completed for the frame, if it has (R24; log
entry 34). -/
def execEdgeJobDone (n : ClusterIx) (pred : Option (List Half)) (s : State) : Host.Outcome State Fault Refusal :=
  match (s.edge n.val).running with
  | none => .next s
  | some job =>
    let s := s.setEdge n.val { s.edge n.val with running := none }
    let s := match job with
      | .stream m j => s.streamJob n.val m j (pred.map (fun (l : List Half) => l.map BitVec.toNat))
      | .core w seq k b => s.coreJob n.val w seq k b
    let s := s.setEdge n.val (s.edge n.val).take
    .next ((List.range 17).foldl (fun s i => s.startQueue (17 * n.val + i)) s)

/-! ### Ends and pre-emptions -/

/-- The instructions of a queue done in order: what an instruction that ends its command leaves of the earlier ones (R268). -/
def State.runQueue (s : State) (k : Kern) (w : Nat) (l : List ArrayRun) : State :=
  l.foldl (fun s r => if r.onArray || r.op == 0x49 then (s.runOut k w r).1
                      else if r.op == 0x4A && !r.started then s.haloStart k w r.desc else s) s

/-- The array instructions of a core ahead of one that ends its command, completed (R268). -/
def State.settleArray (s : State) (k : Kern) (w : Nat) : State := s.runQueue k w (s.core w).queue

/-- The array of a core stopped at a row boundary by a pre-emption (R195, R237): some rows that the manual does not fix have been
issued, a free value; the weights are lost, and the array ramps up again when it resumes. A POOL completes, as every vector instruction
does (R291). -/
def State.stopArray (s : State) (k : Kern) (w : Nat) : State :=
  match splitRun (s.core w).queue with
  | none => s.updCore w (fun c => { c with live := [], shadow := [] })
  | some (pre, r, post) =>
    if r.op = 0x49 then (s.pool k w r.desc).updCore w (fun c => { c with queue := pre ++ post, live := [], shadow := [] })
    else
      let (v, s) := s.draw
      let (t, r) := s.runSome k w r (if (s.core w).ramp = 1 then 0 else v.toNat % (s.runLeft k w r + 1))
      if (t.core w).owner.isNone then t
      else t.updCore w (fun c => { c with queue := pre ++ r :: post, live := [], shadow := [], ramp := 1 })

/-- The engines of a kernel's cores stopped where a pre-emption finds them (R195, R291). -/
def State.stopEngines (s : State) (k : Kern) : State := k.cores.foldl (fun s w => (s.stopElem w).stopArray k w) s

/-- The element programs of a kernel's cores run to their ends. -/
def State.finishElems (s : State) (k : Kern) : State := k.cores.foldl (fun s w => s.finishElem w) s

end Sys2Proof.Machine
end

