-- ==== Sys2Proof/Machine/Operands.lean ====
section
/-! DEFINITION. The instruction words of a core and their operands: fields and reserved values (R181, R265, R268, R271,
R274, R275, R281, R284, R353, R422, R596), registers and predicates (R260, R269), loops and effective lengths (R275 to
R278), the spaces of R180 and R363, and the issue of an instruction (R182, R262, R355). -/

namespace Sys2Proof.Machine

/-! ### Words -/

/-- The opcodes of the array word (R181, R225, R284). -/
def isArrayWord (op : Nat) : Bool := op == 0x31 || op == 0x40 || op == 0x41 || op == 0x48 || op == 0x49 || op == 0x4A || op == 0x4B

/-- Whether a word carries a reserved opcode, a reserved value or a non-zero reserved bit (R268). -/
def wordBad (n : Nat) : Bool :=
  let op := opcodeOf n
  if isArrayWord op then fld n 8 2 == 3 || (op == 0x31 && bitOf n 10) || fld n 11 11 != 0 || fld n 41 23 != 0
  else
    match op with
    | 0x10 => !vopFunc (fld n 32 8)
    | 0x11 => false
    | 0x12 => decide (5 < fld n 32 8) || bitOf n 47 || fld n 48 2 == 3 || fld n 51 13 != 0
    | 0x13 => fld n 22 10 != 0 || fld n 48 16 != 0
    | 0x14 => decide (1 < fld n 32 8)
    | 0x15 => decide (11 < fld n 32 8) || fld n 8 3 == 0 || fld n 11 2 != 0
    | 0x20 => fld n 13 2 == 3 || fld n 24 3 != 0
    | 0x21 => fld n 13 2 == 3
    | 0x28 => fld n 12 20 != 0
    | 0x30 => fld n 8 2 != 0 || fld n 46 18 != 0
    | 0x38 => decide (7 < fld n 8 4) || fld n 43 5 != 0
    | 0x39 => fld n 8 2 == 3 || fld n 14 2 != 0 || fld n 16 7 != 0 || fld n 41 23 != 0
    | 0x3A => fld n 17 47 != 0
    | 0x4F => fld n 8 56 != 0
    | _ => true

/-- The index registers a word reads or writes, which a remote result still to come holds back (R355). -/
def wordXs (n : Nat) : List Nat :=
  match opcodeOf n with
  | 0x13 => [fld n 13 3, fld n 16 3, 4, 5, 6, 7]
  | 0x14 => [1]
  | 0x20 => [fld n 27 3, fld n 30 3]
  | 0x21 => [fld n 27 3, fld n 30 3]
  | 0x28 => [fld n 8 3]
  | 0x31 => [4, 5, 6, 7]
  | 0x38 => [fld n 14 3, fld n 17 3, fld n 20 3, fld n 40 3]
  | 0x3A => [fld n 14 3]
  | _ => []

/-! ### Registers -/

/-- A tile register: 256 lanes, row first. -/
def Core.tile (c : Core) (t : Nat) : List Word := Tab.at c.tiles t (List.replicate 256 0)

/-- A tile register written. -/
def Core.setTile (c : Core) (t : Nat) (v : List Word) : Core := { c with tiles := Tab.put c.tiles t v }

/-- A predicate register; the bits of P0 all read 1. -/
def Core.pred (c : Core) (p : Nat) : BitVec 256 := if p = 0 then BitVec.allOnes 256 else Tab.at c.preds p 0

/-- An index register written; X0 ignores writes. -/
def Core.setX (c : Core) (i : Nat) (v : Word) : Core := if i = 0 then c else { c with xs := Tab.put c.xs i v }

/-- Whether a register instruction's predicate lets a lane through (R265, R267). -/
def Core.laneOn (c : Core) (n i : Nat) : Bool := (c.pred (fld n 28 3)).toNat.testBit i != bitOf n 31

/-! ### Loops and lengths -/

/-- The length set of an open loop in its present iteration (R276). -/
def LoopFrame.lens (f : LoopFrame) : Nat × Nat :=
  if f.iter + 1 < f.trip then (16, 16) else (if f.tailR = 0 then 16 else f.tailR, if f.tailC = 0 then 16 else f.tailC)

/-- The effective lengths at a core's next instruction (R276). -/
def Core.lens (c : Core) : Nat × Nat := c.loops.foldl (fun a f => (min a.1 f.lens.1, min a.2 f.lens.2)) (16, 16)

/-- The loops closed at a position: the innermost whose body ends there runs its next iteration or is left (R275). -/
def loopEnd : Nat → Nat → List LoopFrame → Nat × List LoopFrame
  | 0, p, l => (p, l)
  | _, p, [] => (p, [])
  | n + 1, p, f :: r =>
    if p < f.start + f.len then (p, f :: r)
    else if f.iter + 1 < f.trip then (f.start, { f with iter := f.iter + 1 } :: r)
    else loopEnd n p r

/-- A core past an instruction. -/
def Core.next (c : Core) : Core :=
  match loopEnd 5 (c.pos + 1) c.loops with
  | (p, l) => { c with pos := p, loops := l }

/-! ### Issue -/

/-- The words of the vector engine, which wait while an earlier array instruction has it (R264). -/
def isVectorWord (op : Nat) : Bool := (decide (0x10 ≤ op) && decide (op ≤ 0x15)) || op == 0x20 || op == 0x21 || op == 0x31

/-- Whether a core is held back from a word (R182, R264, R355). -/
def State.holds (s : State) (w n : Nat) : Bool :=
  let c := s.core w
  (isVectorWord (opcodeOf n) && c.queue.any ArrayRun.onVector) ||
  (match c.hold with
   | .none => false
   | .array => !s.arrayIdle w
   | _ => true) || c.await.any (fun x => (wordXs n).contains x)

/-- The kernel whose core issues a word now: placed and running, its command running, nothing in the word's way. -/
def State.issuing (s : State) (w n : Nat) : Option Kern :=
  match s.kernOn w with
  | none => none
  | some k =>
    let live := match s.cmd? k.seq with | some c => c.phase == .running && !c.sealed | none => false
    let words := ((s.entOf k).map KernelEnt.words).getD 0
    if live && (k.phase == .running || k.phase == .stopping) && !s.isFenced w && decide ((s.core w).pos < words) && !s.holds w n then some k
    else none

/-- A core past the instruction it issued; a core whose command has ended has none. -/
def State.retire (s : State) (w : Nat) : State :=
  let c := s.core w
  if c.owner.isNone then s else s.setCore w c.next

/-- A core whose AWAIT is over, free of its hold. -/
def Core.unheld (c : Core) : Core := { c with hold := if c.hold = .array then .none else c.hold }

/-- A core before the instruction it issues: its hold over, its element program done (R262, R263). -/
def State.atIssue (s : State) (w : Nat) : State := (s.finishElem w).updCore w Core.unheld

/-- An instruction of a core: a reserved word ends the command (R268); `f` answers none while the instruction stalls, and
then nothing changes. One that ends the command does so behind the array instructions before it, whose effects stand. -/
def issue (w : CoreIx) (word : Dword) (want : Nat → Bool) (f : Kern → State → Option State) (s : State) :
    Host.Outcome State Fault Refusal :=
  match s.issuing w.val word.toNat with
  | none => .next s
  | some k =>
    if !want word.toNat then .next s
    else
      let s0 := s.atIssue w.val
      if wordBad word.toNat then .next ((s0.settleArray k w.val).coreFault w.val k word.toNat)
      else
        match f k s0 with
        | none => .next s
        | some t =>
          if (t.core w.val).owner.isSome then .next (t.retire w.val)
          else .next ((f k (s0.settleArray k w.val)).getD t)

/-- RESERVED_INSTRUCTION (R225, R268). -/
def execReservedInstruction (w : CoreIx) (word : Dword) (s : State) : Host.Outcome State Fault Refusal :=
  issue w word wordBad (fun _ _ => none) s

/-- The descriptor an array word names: its bytes, or the first address out of reach (R181). -/
def State.descOf (s : State) (k : Kern) (w n size : Nat) : Except Nat (List Byte) :=
  let va := spaceVa (fld n 8 2) (fld n 16 25)
  match (if k.spaceSize w (fld n 8 2) < fld n 16 25 + size then some va else s.selfBad k w va size) with
  | some v => .error v
  | none => .ok (s.selfRead k w va size)

/-- An array word with its descriptor, once the queue has a place (R181, R182): the checks of its kind, then its place in the queue. -/
def arrayIssue (w : CoreIx) (word : Dword) (op size : Nat) (check : State → Kern → Nat → List Byte → Except (Status ⊕ Nat) Unit) (s : State) :
    Host.Outcome State Fault Refusal :=
  issue w word (fun n => opcodeOf n == op) (fun k s =>
    if 4 ≤ (s.core w.val).queue.length then none
    else
      match s.descOf k w.val word.toNat size with
      | .error v => some (s.coreFault w.val k v)
      | .ok b =>
        match check s k w.val b with
        | .error (.inl st) => some (s.endCmd k.seq st)
        | .error (.inr va) => some (s.coreFault w.val k va)
        | .ok () =>
          let r := s.newRun k w.val word.toNat b
          some ({ s with freeCtr := s.freeCtr + r.draws }.enqueue w.val r)) s

/-- MATMUL (R181 to R192, R208 to R210). -/
def execMatmul (w : CoreIx) (word : Dword) (s : State) : Host.Outcome State Fault Refusal :=
  arrayIssue w word 0x40 128 (fun s k v b => s.matmulCheck k v b (s.substAt k v (parseGemm b).b)) s

/-- ATTEND (R193, R194). -/
def execAttend (w : CoreIx) (word : Dword) (s : State) : Host.Outcome State Fault Refusal := arrayIssue w word 0x41 64 State.attCheck s

/-- CONV (R225 to R238, R244). -/
def execConv (w : CoreIx) (word : Dword) (s : State) : Host.Outcome State Fault Refusal := arrayIssue w word 0x48 128 State.convCheck s

/-- POOL (R225, R226, R239 to R241). -/
def execPool (w : CoreIx) (word : Dword) (s : State) : Host.Outcome State Fault Refusal := arrayIssue w word 0x49 64 State.poolCheck s

/-- HALO (R225, R242, R243). -/
def execHalo (w : CoreIx) (word : Dword) (s : State) : Host.Outcome State Fault Refusal := arrayIssue w word 0x4A 64 State.haloCheck s

/-- EDGE's checks with its descriptor at hand (R253, R256). -/
def edgeCheck (b : List Byte) : Except (Status ⊕ Nat) Unit :=
  match edgeBad b with
  | some st => .error (.inl st)
  | none => .ok ()

/-- An EDGE word whose descriptor is of a kind: its opcode is the same for both. -/
def edgeIssue (w : CoreIx) (word : Dword) (prep : Bool) (s : State) : Host.Outcome State Fault Refusal :=
  let mine := match s.issuing w.val word.toNat with
    | some k =>
      match (s.atIssue w.val).descOf k w.val word.toNat 64 with
      | .ok b => prep == (recField b 63 1 % 4 == 0)
      | .error _ => true
    | none => true
  if mine then arrayIssue w word 0x4B 64 (fun _ _ _ b => edgeCheck b) s else .next s

/-- EDGE_PREP (R225, R247 to R253): EDGE with a descriptor of KIND 0. -/
def execEdgePrep (w : CoreIx) (word : Dword) (s : State) : Host.Outcome State Fault Refusal := edgeIssue w word true s

/-- EDGE_CONV (R225, R247, R248, R255, R256): EDGE with a descriptor of KIND 1, or of a reserved kind, which is refused. -/
def execEdgeConv (w : CoreIx) (word : Dword) (s : State) : Host.Outcome State Fault Refusal := edgeIssue w word false s

/-- AWAIT (R182): later instructions wait for every earlier array instruction's last output. -/
def execAwait (w : CoreIx) (word : Dword) (s : State) : Host.Outcome State Fault Refusal :=
  issue w word (fun n => opcodeOf n == 0x4F) (fun _ s =>
    some (if s.arrayIdle w.val then s else s.updCore w.val (fun c => { c with hold := .array }))) s

end Sys2Proof.Machine
end

