-- ==== Sys2Proof/Machine/Slates.lean ====
section
/-! DEFINITION. The slate instructions of a core and the SLATE_OP command (R350 to R358), takes from a tile counter (R301 to R304),
DMAQ (R422) and PERFRD (R596). -/

namespace Sys2Proof.Machine

/-! ### Core instructions -/

/-- The operand V of a slate word: its immediate, or an index register (R353). -/
def Core.slateV (c : Core) (n : Nat) : Word := if bitOf n 13 then wordOfInt (sgn 16 (fld n 48 16)) else c.x (fld n 17 3)

/-- The operation of an OP code that does not hold (R354). -/
def slateOpOf (op : Nat) : SlateOp :=
  match op with
  | 2 => .signal | 3 => .add | 4 => .fadd | 5 => .cas | 6 => .read | _ => .set

/-- Whether an OP writes XR at once (R354). -/
def slateReads (op : Nat) : Bool := op == 4 || op == 5 || op == 6

/-- An index taken by a core entered into its holder record, the oldest leaving a full one (R303). -/
def TileCtr.hold (t : TileCtr) (w i : Nat) : TileCtr :=
  let l := Tab.at t.held w []
  { t with held := Tab.put t.held w ((if l.length < t.bufs then l else l.drop (l.length + 1 - t.bufs)) ++ [i]) }

/-- A take from a bound tile counter (R301, R303, R304, R324): the head of the retake queue, else the count before it advances. -/
def State.takeTile (s : State) (w i : Nat) (t : TileCtr) : State × Word :=
  let put := fun (s : State) (t : TileCtr) => { s with sched := { s.sched with tiles := Tab.put s.sched.tiles i t } }
  let met := fun (s : State) (j : Nat) => match t.grid with | some g => s.meetTiles t.seq w g [j] | none => s
  match t.retake with
  | j :: rest =>
    let s := met s j
    let s := ((put s ({ t with retake := rest }.hold w j)).bump (.core w) 0x0F0 1).bump (.core w) 0x0F1 1
    (s.slateSeen (.core w) i, BitVec.ofNat 32 j)
  | [] =>
    match s.slateAsk (.core w) i .fadd 1 0 with
    | (s, n) => (if n.toNat < t.total then met ((put s (t.hold w n.toNat)).bump (.core w) 0x0F0 1) n.toNat else s, n)

/-- An operation of a core on a slate of its own device: the state and the result. -/
def State.coreSlate (s : State) (k : Kern) (w i op : Nat) (v cmp : Word) : State × Word :=
  match (if op = 4 ∧ v = 1 then Tab.find s.sched.tiles i else none) with
  | some t => if t.seq = k.seq then s.takeTile w i t else s.slateAsk (.core w) i (slateOpOf op) v cmp
  | none => s.slateAsk (.core w) i (slateOpOf op) v cmp

/-- A core's wait on a slate of its own device (R354, R355): met at once, or held at the bank. -/
def State.coreWait (s : State) (w i : Nat) (eq : Bool) (v : Word) (xr : Nat) : State :=
  let n := s.slate i
  let q : SlateWait := { slate := i, who := .core w xr, eq := eq, value := v }
  let s := s.slateSeen (.core w) i
  if q.met n then s.updCore w (fun c => c.setX xr n)
  else
    let s := s.updCore w (fun c => { c with hold := .slate i eq v xr s.nowUs })
    { s with sched := { s.sched with waits := s.sched.waits ++ [q] } }

/-- The slate of a word, on its own device or another's (R351, R353, R356). -/
inductive SlateAt where
  | own (i : Nat)
  | away (dst i : Nat)
  | bad
  deriving DecidableEq, Repr

/-- Where a slate word's slate is. -/
def State.slateAt (s : State) (k : Kern) (w n : Nat) : SlateAt :=
  match s.progSlate k.seq (fld n 23 17) with
  | none => .bad
  | some i =>
    if !bitOf n 12 then .own i
    else
      let id := (((s.core w).x (fld n 40 3)).toNat) % 4096
      if id = s.fab.id.toNat then .own i else if s.fab.routed id then .away id i else .bad

/-- A slate instruction with operation `op` (R352 to R356). A slate at or beyond the program's count, or a fabric ID without
a route, ends the command. -/
def slateIssue (w : CoreIx) (word : Dword) (op : Nat) (s : State) : Host.Outcome State Fault Refusal :=
  issue w word (fun n => opcodeOf n == 0x38 && fld n 8 4 == op) (fun k s =>
    let n := word.toNat
    let c := s.core w.val
    let v := c.slateV n
    let cmp := c.x (fld n 20 3)
    let xr := fld n 14 3
    match s.slateAt k w.val n with
    | .bad => some (s.endCmd k.seq .deviceFault)
    | .own i =>
      if op ≤ 1 then some (s.coreWait w.val i (op == 1) v xr)
      else
        match s.coreSlate k w.val i op v cmp with
        | (s, r) => some (if slateReads op then s.updCore w.val (fun c => c.setX xr r) else s)
    | .away dst i =>
      let s := s.request k.seq dst (clusterOf w.val) 0x05 i (slatePayload op v cmp) (.slate op (.core w.val xr))
      some (s.updCore w.val (fun c =>
        if op ≤ 1 then { c with hold := .remote dst i (op == 1) v xr s.nowUs }
        else if slateReads op && xr != 0 then { c with await := c.await ++ [xr] } else c))) s

/-- SLATE_WAIT (R354, R355). -/
def execSlateWait (w : CoreIx) (word : Dword) (s : State) : Host.Outcome State Fault Refusal := slateIssue w word 0 s

/-- SLATE_WAITEQ (R354, R355). -/
def execSlateWaiteq (w : CoreIx) (word : Dword) (s : State) : Host.Outcome State Fault Refusal := slateIssue w word 1 s

/-- SLATE_SIGNAL (R354). -/
def execSlateSignal (w : CoreIx) (word : Dword) (s : State) : Host.Outcome State Fault Refusal := slateIssue w word 2 s

/-- SLATE_ADD (R354). -/
def execSlateAdd (w : CoreIx) (word : Dword) (s : State) : Host.Outcome State Fault Refusal := slateIssue w word 3 s

/-- SLATE_FADD (R301, R354). -/
def execSlateFadd (w : CoreIx) (word : Dword) (s : State) : Host.Outcome State Fault Refusal := slateIssue w word 4 s

/-- SLATE_CAS (R354). -/
def execSlateCas (w : CoreIx) (word : Dword) (s : State) : Host.Outcome State Fault Refusal := slateIssue w word 5 s

/-- SLATE_READ (R354). -/
def execSlateRead (w : CoreIx) (word : Dword) (s : State) : Host.Outcome State Fault Refusal := slateIssue w word 6 s

/-- SLATE_SET (R354). -/
def execSlateSet (w : CoreIx) (word : Dword) (s : State) : Host.Outcome State Fault Refusal := slateIssue w word 7 s

/-- The wait of a core at its slate bank, if it has its wake. -/
def State.coreWake (s : State) (w : Nat) : Option (SlateWait × Nat × Word) :=
  s.sched.waits.findSome? (fun q => match q.who, q.wake with
    | .core c xr, some n => if c = w then some (q, xr, n) else none
    | _, _ => none)

/-- SLATE_WAKE (R355): a wake reaches a waiting core. -/
def execSlateWake (w : CoreIx) (s : State) : Host.Outcome State Fault Refusal :=
  match s.coreWake w.val with
  | none => .next s
  | some (q, xr, n) =>
    let s := { s with sched := { s.sched with waits := s.sched.waits.filter (fun x => x != q) } }
    .next (s.updCore w.val (fun c => { c.setX xr n with hold := .none }))

/-- SLATE_WAIT_LIMIT (R355): the limit of a core's wait passes with no wake at the core. -/
def execSlateWaitLimit (w : CoreIx) (s : State) : Host.Outcome State Fault Refusal :=
  let c := s.core w.val
  let since := match c.hold with
    | .slate _ _ _ _ t => some t
    | .remote _ _ _ _ _ t => some t
    | _ => none
  match since, c.owner with
  | some t, some (seq, _) => if s.sched.regs.waitLimit = 0 ∨ s.nowUs < t + s.sched.regs.waitLimit.toNat then .next s else .next (s.endCmd seq .deadlineMiss)
  | _, _ => .next s

/-! ### SLATE_OP -/

/-- A SLATE_OP ended with OK: the result of R354, and whether a CAS stored V (R358). -/
def State.slateOpDone (s : State) (seq : Word) (st : Status) (r : Word) (stored : Bool) : State :=
  s.finish seq st (resultOf [(4, r.toNat), (1, b2n stored)])

/-- A SLATE_OP on its way: dispatched, its wait or its request to come. -/
def State.slateOpRuns (s : State) (seq : Word) : State := s.updCmd seq (fun c => { c with phase := .running, started := some s.nowUs })

/-- A SLATE_OP wait at its dispatch (R355, R358). -/
def State.slateOpWait (s : State) (seq : Word) (i : Nat) (eq : Bool) (v : Word) : State :=
  let n := s.slate i
  let q : SlateWait := { slate := i, who := .cmd seq, eq := eq, value := v }
  let s := s.slateSeen .io i
  if q.met n then s.slateOpDone seq .ok n false
  else { s.slateOpRuns seq with sched := { s.sched with waits := s.sched.waits ++ [q] } }

/-- SLATE_OP with operation `op` at its dispatch (R358). -/
def State.slateOp (s : State) (seq : Word) (c : Cmd) (op : Nat) : State :=
  let i := c.fieldN 24 4 % 131072
  let v := BitVec.ofNat 32 (c.fieldN 32 4)
  let cmp := BitVec.ofNat 32 (c.fieldN 36 4)
  let id := c.fieldN 30 2 % 4096
  if bitOf (c.fieldN 28 1) 4 ∧ id ≠ s.fab.id.toNat then
    if s.fab.routed id then (s.slateOpRuns seq).request seq id 0x25 0x05 i (slatePayload op v cmp) (.slate op (.cmd seq))
    else s.finishBare seq .deviceFault
  else if op ≤ 1 then s.slateOpWait seq i (op == 1) v
  else
    match s.slateAsk .io i (slateOpOf op) v cmp with
    | (s, n) => s.slateOpDone seq .ok (if slateReads op then n else 0) (op == 5 && n == cmp)

/-- The wake a SLATE_OP wait has, if any. -/
def State.cmdWake (s : State) (seq : Word) : Option Word :=
  (s.sched.waits.find? (fun q => q.who == Waiter.cmd seq)).bind SlateWait.wake

/-- SLATE_OP with operation `op`: dispatched when its turn has come, or ended by the wake that reaches it. -/
def State.slateOpTurn (s : State) (seq : Word) (op : Nat) : State :=
  match s.turnOf seq 0x41 with
  | some c => if c.fieldN 28 1 % 16 = op then s.slateOp seq c op else s
  | none =>
    match s.cmd? seq, s.cmdWake seq with
    | some c, some n =>
      if c.opcode = 0x41 ∧ c.phase = .running ∧ c.fieldN 28 1 % 16 = op then
        let s := { s with sched := { s.sched with waits := s.sched.waits.filter (fun q => q.who != Waiter.cmd seq) } }
        s.slateOpDone seq .ok n false
      else s
    | _, _ => s

/-- SLATE_OP_WAIT (R358). -/
def execSlateOpWait (seq : Word) (s : State) : Host.Outcome State Fault Refusal := .next (s.slateOpTurn seq 0)

/-- SLATE_OP_WAITEQ (R358). -/
def execSlateOpWaiteq (seq : Word) (s : State) : Host.Outcome State Fault Refusal := .next (s.slateOpTurn seq 1)

/-- SLATE_OP_SIGNAL (R358). -/
def execSlateOpSignal (seq : Word) (s : State) : Host.Outcome State Fault Refusal := .next (s.slateOpTurn seq 2)

/-- SLATE_OP_ADD (R358). -/
def execSlateOpAdd (seq : Word) (s : State) : Host.Outcome State Fault Refusal := .next (s.slateOpTurn seq 3)

/-- SLATE_OP_FADD (R358). -/
def execSlateOpFadd (seq : Word) (s : State) : Host.Outcome State Fault Refusal := .next (s.slateOpTurn seq 4)

/-- SLATE_OP_CAS (R358). -/
def execSlateOpCas (seq : Word) (s : State) : Host.Outcome State Fault Refusal := .next (s.slateOpTurn seq 5)

/-- SLATE_OP_READ (R358). -/
def execSlateOpRead (seq : Word) (s : State) : Host.Outcome State Fault Refusal := .next (s.slateOpTurn seq 6)

/-- SLATE_OP_SET (R358). -/
def execSlateOpSet (seq : Word) (s : State) : Host.Outcome State Fault Refusal := .next (s.slateOpTurn seq 7)

/-- The wait limit of a SLATE_OP, in µs; 0 is no limit (R358, R360). -/
def State.opLimit (s : State) (c : Cmd) : Nat := if c.fieldN 40 4 = 0 then s.sched.regs.waitLimit.toNat else c.fieldN 40 4

/-- SLATE_OP_LIMIT (R358): a SLATE_OP wait's limit passes with no wake; its result is the count at the limit, a free
word for a slate of another device (log entry 41). -/
def execSlateOpLimit (seq : Word) (s : State) : Host.Outcome State Fault Refusal :=
  match s.cmd? seq with
  | none => .next s
  | some c =>
    if c.opcode = 0x41 ∧ c.phase = .running ∧ c.fieldN 28 1 % 16 ≤ 1 ∧ s.opLimit c ≠ 0 ∧ c.started.getD 0 + s.opLimit c ≤ s.nowUs then
      let own := s.sched.waits.any (fun q => q.who == Waiter.cmd seq)
      let r := if own then (s.slate (c.fieldN 24 4 % 131072), s) else s.draw
      let t := { r.2 with sched := { r.2.sched with waits := r.2.sched.waits.filter (fun q => q.who != Waiter.cmd seq) } }
      .next ((t.dropReqs seq).slateOpDone seq .deadlineMiss r.1 false)
    else .next s

/-! ### DMAQ and PERFRD -/

/-- DMAQ (R422): a descriptor queued on a channel of the kernel; it stalls while the channel's queue is full. -/
def execDmaq (w : CoreIx) (word : Dword) (s : State) : Host.Outcome State Fault Refusal :=
  issue w word (fun n => opcodeOf n == 0x39) (fun k s =>
    let n := word.toNat
    let cl := clusterOf w.val
    match (((k.chans.find? (fun p => p.1 == cl)).map Prod.snd).getD [])[fld n 10 4]? with
    | none => some (s.endCmd k.seq .deviceFault)
    | some c =>
      if 4 ≤ (Tab.at (s.eng cl).chans c {}).queue.length then none
      else
        match s.descOf k w.val n 128 with
        | .error va => some (s.coreFault w.val k va)
        | .ok b => some (s.queueDesc cl c { parseDesc k.seq b with core := some w.val, layer := k.layer })) s

/-- Whether a core's code may read its live counters (R578, R596): a grant of CTR, or the fuse and the call sheet allow it. -/
def State.userCounters (s : State) : Bool := s.granted 3 || (!s.boot.fuses.ctrNoUser && bitOf (s.sheet 139 1) 0)

/-- PERFRD (R596): half of a live counter of the issuing physical core. -/
def execPerfrd (w : CoreIx) (word : Dword) (s : State) : Host.Outcome State Fault Refusal :=
  issue w word (fun n => opcodeOf n == 0x3A) (fun k s =>
    let n := word.toNat
    if !s.userCounters then some (s.coreFault w.val k n)
    else
      match s.counterNow (cntCore w.val + fld n 8 5) with
      | (v, s) => some (s.updCore w.val (fun c =>
        if bitOf n 13 then c.setX (fld n 14 3) (c.latch.setWidth 32)
        else { c.setX (fld n 14 3) (BitVec.ofNat 32 v) with latch := BitVec.ofNat 16 (v / 2 ^ 32) }))) s

end Sys2Proof.Machine
end

