-- ==== Sys2Proof/Machine/Topology.lean ====
section
/-! DEFINITION. The fabric as its coordinator sees it and as a device keeps it: reports on links and faults (R534, R545 to
R547), ports leaving the tables (R538), routes (R532, R535), election (R531, R534). -/

namespace Sys2Proof.Machine

/-- UID of the device (R566). -/
def State.uid (s : State) : BitVec 128 := s.boot.fuses.uid

/-- ROLE of the call sheet (R530): 0 MEMBER, 1 NO_COORD, 2 ISOLATED. -/
def State.role (s : State) : Nat := s.sheet 144 1 % 4

/-- The fabric unit changed. -/
def State.updFab (s : State) (f : Fabric → Fabric) : State := { s with fab := f s.fab }

/-- A port changed. -/
def State.updPort (s : State) (p : Nat) (f : FabPort → FabPort) : State := s.setPort p (f (s.port p))

/-! ### The fault log (R622, R624) -/

/-- Whether a perturbation kind is enabled (R639). -/
def FaultUnit.perturbing (f : FaultUnit) : Bool := f.tst.any (fun p => p.2.enable)

/-- An entry written to the fault log, the window of the entry it overwrites left without one, and the interrupt. -/
def State.logEntry (s : State) (r : Report) (fenced forwarded fatal : Bool) (fepoch : Word) : State :=
  let f := s.flt
  let e : FltEntry := { report := r, fenced := fenced, forwarded := forwarded, fatal := fatal, perturbed := f.perturbing
                        epoch := s.perf.epoch, fepoch := fepoch }
  let s := { s with flt := { f with
    log := Tab.put f.log f.head.toNat e, head := f.head + 1, cnt := f.cnt + 1, lastClass := r.cls
    windows := f.windows.map (fun w => if w.entry = some f.head.toNat then { w with entry := none } else w) } }
  if f.irq then s.sendVector f.vector.toNat else s

/-! ### Fault reports across the fabric (R545 to R547) -/

/-- A FAULT frame taken at the coordinator: its tally entry made or counted, a new key entered in the fault log. -/
def State.tallyFault (s : State) (key : FaultKey) (src : Nat) : State :=
  match s.fab.tally.find? (fun p => p.2.key == key) with
  | some (i, t) => s.updFab (fun f => { f with tally := Tab.put f.tally i { t with reports := satAdd t.reports 1 } })
  | none =>
    let s := s.updFab (fun f => { f with
      tally := Tab.put f.tally f.tallyHead.toNat { key := key, first := BitVec.ofNat 12 src, reports := 1, dups := 0 }
      tallyHead := f.tallyHead + 1 })
    s.logEntry ⟨key.cls, key.subject.setWidth 16, key.subject.setWidth 16, 0xFFFFFFFF, 0⟩ false false false key.epoch

/-- A frame on its way to the coordinator. -/
def State.toCoord (s : State) (type src hops : Nat) (payload : List Byte) : State :=
  s.sendFrame { type := type, vc := 2, epar := s.fab.parity, dst := s.fab.coordId.toNat, src := src, tag := 0, hops := hops, payload := payload }

/-- A fault key in a frame's payload. -/
def keyBytes (k : FaultKey) : List Byte := leBytes 2 k.subject.toNat ++ [k.cls] ++ leBytes 4 k.epoch.toNat

/-- A FAULT frame originated or forwarded: the first of its key goes on, those within its window are counted (R546). -/
def State.coalesce (s : State) (key : FaultKey) (src hops : Nat) : State :=
  if s.fab.windows.any (fun w => w.key == key) then
    s.updFab (fun f => { f with frDup := f.frDup + 1
                                windows := f.windows.map (fun w => if w.key == key then { w with count := w.count + 1 } else w) })
  else
    let s := if s.fab.windows.length < 256 then
        s.updFab (fun f => { f with frFwd := f.frFwd + 1, windows := f.windows ++ [⟨key, 0, s.nowUs⟩] })
      else s.updFab (fun f => { f with frFwd := f.frFwd + 1, frOver := f.frOver + 1 })
    s.toCoord 0x15 src hops (slice (keyBytes key) 0 16)

/-- A FAULT report of the device on its way to the coordinator (R545); none in a fabric of one. -/
def State.sendFault (s : State) (subject cls : Nat) : State :=
  let key : FaultKey := ⟨BitVec.ofNat 12 subject, BitVec.ofNat 8 cls, s.fab.epoch⟩
  if s.fab.devices ≤ 1 then s
  else if s.fab.coord then s.tallyFault key s.fab.id.toNat
  else s.coalesce key s.fab.id.toNat 15

/-! ### Links (R531, R534) -/

/-- Whether a port's link can carry the fabric's frames. -/
def FabPort.usable (v : FabPort) : Bool := v.state == .up && !v.pquar

/-- A LINK_REPORT taken at the coordinator: a device whose fabric ID another holds is not admitted. -/
def State.noteLink (s : State) (l : LinkData) : State :=
  let held := match l.id with
    | some i => s.fab.devs.any (fun d => d.uid != l.uid && d.id == some i.toNat)
    | none => false
  if held then s.sendFault ((l.id.getD 0).toNat) 0x04
  else
    let f := s.fab
    let devs := if f.devs.any (fun d => d.uid == l.uid) then
        f.devs.map (fun d => if d.uid == l.uid && d.id.isNone then { d with id := l.id.map BitVec.toNat } else d)
      else f.devs ++ [⟨l.uid, l.id.map BitVec.toNat⟩]
    let k : LinkInfo := ⟨l.uid, l.port.toNat, l.usable, l.partner⟩
    if devs = f.devs ∧ f.links.contains k then s
    else s.updFab (fun f => { f with
      devs := devs, links := f.links.filter (fun e => !(e.dev == l.uid && e.port == l.port.toNat)) ++ [k]
      topoDirty := true, topoAt := s.nowUs })

/-- What the device reports of a port. -/
def State.linkData (s : State) (p : Nat) : LinkData :=
  let v := s.port p
  { uid := s.uid, id := if s.fab.assigned then some s.fab.id else none, port := BitVec.ofNat 5 p
    usable := v.usable, partner := v.puid.getD 0 }

/-- A report on a link in a frame's payload. -/
def linkBytes (l : LinkData) : List Byte :=
  leBytes 16 l.uid.toNat ++ leBytes 2 (match l.id with | some i => 4096 + i.toNat | none => 0) ++ leBytes 1 l.port.toNat ++
  leBytes 1 (b2n l.usable) ++ leBytes 16 l.partner.toNat

/-- A LINK_REPORT sent on: by the table where the device has one in force, else out of the parent port (R531). -/
def State.passReport (s : State) (l : LinkData) (src : Nat) : State :=
  let fr : Frame := { type := 0x11, vc := 2, epar := s.fab.parity, dst := s.fab.coordId.toNat, src := src, tag := 0, hops := 15
                      payload := slice (linkBytes l) 0 48 }
  if s.fab.state = .committed then s.sendFrame fr
  else match s.fab.parent with
    | some p => s.sendOn p fr
    | none => s

/-- A port's state reported to the coordinator (R538). -/
def State.linkReport (s : State) (p : Nat) : State :=
  if s.fab.coord then s.noteLink (s.linkData p)
  else if s.fab.state = .committed ∨ s.fab.state = .mapping then s.passReport (s.linkData p) s.fab.id.toNat
  else s

/-! ### Election (R531, R534) -/

/-- A new election begun: the lowest UID known is the device's own where it is a MEMBER. -/
def State.elect (s : State) (gone : Option (BitVec 128)) : State :=
  s.updFab (fun f => { f with
    state := .electing, coord := false, lowest := if s.role = 0 then some s.uid else none, parent := none
    lowestAt := s.nowUs, joined := false, gone := gone })

/-- Stage D ended, its time noted (R532, R533, R553). -/
def State.endStageD (s : State) : State :=
  if s.boot.atD.isNone then s
  else { s with boot := { s.boot with atD := none, times := s.boot.times.set 3 ((s.nowUs - s.mod.pgAt) / 1000 % 65536) } }

/-- Stage D ended as a fabric of one (R533). -/
def State.fabricOfOne (s : State) : State :=
  (s.updFab (fun f => { f with
    state := if s.role = 2 then .isolated else .committed, id := 0, assigned := true, epoch := 0, devices := 1, coordId := 0
    coord := s.role == 0, coordUid := if s.role = 0 then s.uid else 0
    devs := if s.role = 0 then [⟨s.uid, some 0⟩] else [] })).endStageD

/-! ### Ports leaving the tables (R538) -/

/-- A routing entry without a port. -/
def Route.without (r : Route) (p : Nat) : Route :=
  let m := r.ports &&& ~~~(BitVec.ofNat 20 (2 ^ p))
  { r with ports := m, valid := r.valid && m != 0 }

/-- A table without a port. -/
def RouteTable.without (t : RouteTable) (p : Nat) : RouteTable :=
  { t with routes := t.routes.map (fun (q : Nat × Route) => (q.1, q.2.without p)) }

/-- The frames waiting at a port sent by the tables left; those no entry routes, and those of the link itself, are lost. -/
def State.requeue (s : State) (p : Nat) : State :=
  let v := s.port p
  let fs := v.txq.flatten.filter (fun f => f.type != 0x08 && f.type != 0x09 && f.type != 0x10)
  fs.foldl State.sendFrame (s.setPort p { v with txq := [[], [], []] })

/-- A port removed from every entry: destinations that lose their last port are reported, but the partner where its own
report goes (`known`), and a lost coordinator starts an election. -/
def State.removePort (s : State) (p : Nat) (known : Option Nat) : State :=
  let lost := (s.fab.cur.routes.filter (fun (q : Nat × Route) => q.2.valid && !(q.2.without p).valid)).map Prod.fst
  let s := s.updFab (fun f => { f with cur := f.cur.without p, prev := f.prev.map (fun t => t.without p) })
  let s := (s.requeue p).linkReport p
  let s := (lost.filter (fun d => some d != known)).foldl (fun s d => s.sendFault d 0x03) s
  if !s.fab.coord && s.fab.state == .committed && lost.contains s.fab.coordId.toNat then s.elect (some s.fab.coordUid) else s

/-- The partner's fabric ID where it is known. -/
def FabPort.partner (v : FabPort) : Option Nat := if v.pvalid then some v.pid.toNat else none

/-- A port taken out of service into a state, its unacknowledged flits discarded (R525). -/
def State.dropPort (s : State) (p : Nat) (st : PortState) : State :=
  s.updPort p (fun v => { v with state := st, sent := [], resends := 0, askAgain := false, credits := [0, 0, 0], owe := [0, 0, 0]
                                 pvalid := false, puid := none, pquar := false, pid := 0, ppart := 0 })

/-- A port gone DOWN (R538), reported as LINK_DOWN with its partner as subject (R545). -/
def State.portDown (s : State) (p : Nat) : State :=
  let v := s.port p
  let up := v.state == .up
  let s := (s.dropPort p .down).removePort p v.partner
  match (if up then v.partner else none) with
  | some d => s.sendFault d 0x01
  | none => s

/-! ### Routes (R532, R535) -/

/-- The devices a device reaches over one link that is UP at both ends, with the port. -/
def Fabric.next (f : Fabric) (u : BitVec 128) : List (Nat × BitVec 128) :=
  (f.links.filter (fun l => l.dev == u && l.usable &&
    f.links.any (fun k => k.dev == l.partner && k.usable && k.partner == u))).map (fun l => (l.port, l.partner))

/-- The devices within some hops of those seen so far, with their distances. -/
def Fabric.reach (f : Fabric) : Nat → Nat → List (BitVec 128) → List (BitVec 128 × Nat) → List (BitVec 128 × Nat)
  | 0, _, _, seen => seen
  | n + 1, k, edge, seen =>
    let new := ((edge.flatMap (fun u => (f.next u).map Prod.snd)).filter
      (fun u => !(seen.map Prod.fst).contains u && f.devs.any (fun d => d.uid == u))).eraseDups
    Fabric.reach f n (k + 1) new (seen ++ new.map (fun u => (u, k)))

/-- Distances from a device, up to 15 hops. -/
def Fabric.dists (f : Fabric) (u : BitVec 128) : List (BitVec 128 × Nat) := f.reach 15 1 [u] [(u, 0)]

/-- A distance in a list of them. -/
def distOf (l : List (BitVec 128 × Nat)) (u : BitVec 128) : Option Nat := (l.find? (fun p => p.1 == u)).map Prod.snd

/-- The entry of a device for a destination, from the distances to that destination. -/
def Fabric.entry (f : Fabric) (x : BitVec 128) (toD : List (BitVec 128 × Nat)) : Option Route :=
  match distOf toD x with
  | some (k + 1) =>
    let ps := ((f.next x).filter (fun q => distOf toD q.2 == some k)).map Prod.fst
    some { ports := BitVec.ofNat 20 (ps.eraseDups.foldl (fun a p => a + 2 ^ p) 0), dist := k + 1, valid := !ps.isEmpty }
  | _ => none

/-- A device's routing table of minimal paths (R532, R535). -/
def Fabric.tableOf (f : Fabric) (epoch : Word) (x : BitVec 128) : RouteTable :=
  { epoch := epoch
    routes := f.devs.foldl (fun t d => match d.id, f.entry x (f.dists d.uid) with
      | some i, some r => Tab.put t i r
      | _, _ => t) [] }

/-- The lowest fabric ID no device holds. -/
def freeId (devs : List FabDev) : Nat :=
  ((List.range (devs.length + 1)).find? (fun i => !devs.any (fun d => d.id == some i))).getD 0

/-- A device put in its place of a list in ascending UID order. -/
def insertDev (d : FabDev) : List FabDev → List FabDev
  | [] => [d]
  | e :: l => if d.uid.toNat ≤ e.uid.toNat then d :: e :: l else e :: insertDev d l

/-- Fabric IDs given in ascending UID order to the devices that have none (R532, R534). -/
def assignIds (devs : List FabDev) : List FabDev :=
  let sorted := devs.foldr insertDev []
  sorted.foldl (fun ds d => if d.id.isSome then ds
    else ds.map (fun e => if e.uid == d.uid then { e with id := some (freeId ds) } else e)) sorted

/-- A table put in force (R532, R537): the one before it is kept, and ports no longer UP are left out. -/
def State.install (s : State) (t : RouteTable) : State :=
  let off := (List.range 20).filter (fun p => !(s.port p).usable)
  s.updFab (fun f => { f with
    prev := if f.cur.routes.isEmpty then none else some f.cur
    cur := off.foldl RouteTable.without t, epoch := t.epoch, commitAt := s.nowUs, state := .committed
    devices := 1 + (t.routes.filter (fun (q : Nat × Route) => q.2.valid)).length, joined := false, gone := none })

end Sys2Proof.Machine
end

