-- ==== Sys2Proof/Machine/Fabric.lean ====
section
/-! DEFINITION. The commands of the OzLink fabric: ports and flits (R522 to R525), frames received (R526 to R528, R539 to
R549), discovery and tables (R529 to R538), and the port controls (R550). -/

namespace Sys2Proof.Machine

/-! ### Frames received -/

/-- Whether a port takes frames. -/
def PortState.takes (p : PortState) : Bool := p == .up || p == .foreign || p == .quarantined || p == .conflict

/-- The VC of a frame type (R527), if the type is in use. -/
def vcOf (type : Nat) : Option Nat :=
  if type = 1 ∨ type = 2 ∨ type = 5 ∨ type = 7 then some 0
  else if type = 3 ∨ type = 4 ∨ type = 6 then some 1
  else if type = 8 ∨ type = 9 ∨ (0x10 ≤ type ∧ type ≤ 0x16) then some 2
  else none

/-- Whether LEN is out of range, does not match the type, or lets the payload cross a 256-byte boundary (R526, R548). -/
def lenBad (type : Nat) (h : FrameHdr) : Bool :=
  let n := h.len.toNat
  decide (16 < n) ||
  (match type with
  | 1 => n == 0 || decide (256 < h.addr.toNat % 256 + 16 * n)
  | 2 => n == 0 || decide (256 < h.addr.toNat % 256 + 16 * n)
  | 3 => (h.status == 0) == (n == 0)
  | 4 => n != 0
  | 5 => n != 1
  | 6 => n != 1
  | 7 => n != 0
  | 9 => n != 1
  | _ => false)

/-- Whether a frame names devices by fabric ID: frames of the link itself and reports of devices not yet numbered do not. -/
def byId (type : Nat) : Bool := type != 0x08 && type != 0x10 && type != 0x11

/-- The reason of R548, of 1 to 6, for which a frame received on a port is dropped. -/
def State.frameFault (s : State) (p type : Nat) (h : FrameHdr) : Option Nat :=
  if vcOf type ≠ some h.vc.toNat then some 1
  else if lenBad type h then some 2
  else if !h.credit then some 3
  else if byId type && s.fab.assigned && h.src == s.fab.id then some 4
  else if h.rsvd then some 5
  else if (s.port p).state != .up && (s.port p).state != .quarantined && type != 0x10 then some 6
  else none

/-- A REJECT sent to the partner (R548). -/
def State.rejectFrame (s : State) (p reason type : Nat) (h : FrameHdr) : State :=
  s.sendOn p { type := 0x09, vc := 2, epar := s.fab.parity, dst := h.src.toNat, src := s.fab.id.toNat, tag := h.tag.toNat, hops := 15
               payload := slice (leBytes 1 reason ++ leBytes 2 h.tag.toNat ++ leBytes 1 type) 0 16 }

/-- A port quarantined (R549). -/
def State.quarantine (s : State) (p : Nat) : State :=
  let v := s.port p
  let s := (s.setPort p { v with state := .quarantined }).removePort p none
  match v.partner with
  | some d => s.sendFault d 0x02
  | none => s

/-- A frame dropped under R548, counted where its reason says (R549, R550), and answered. -/
def State.violate (s : State) (p reason type : Nat) (h : FrameHdr) : State :=
  let s := s.bump .io 0x157 1
  if 7 ≤ reason then (s.updFab (fun f => { f with unroute := f.unroute + 1 })).rejectFrame p reason type h
  else
    let v := s.port p
    let n := if v.opened.isNone then 1 else v.window + 1
    let s := s.setPort p { v with opened := some (v.opened.getD s.nowUs), window := n, last := BitVec.ofNat 4 reason, vtot := v.vtot + 1 }
    let s := s.rejectFrame p reason type h
    if n.toNat = 1000 then s.quarantine p else s

/-- The flits a received frame took, to be returned; a CREDIT goes out with every frame that is not one itself (R528;
log entry 42). -/
def State.returnCredit (s : State) (p type : Nat) (h : FrameHdr) : State :=
  let n := ceilDiv (16 + (if type = 1 then 0 else 16 * h.len.toNat)) 244
  let s := s.updPort p (fun v => { v with owe := (List.range 3).map (fun i => nth v.owe i 0 + (if i = h.vc.toNat then n else 0)) })
  if type = 0x08 then s
  else
    let owe := (s.port p).owe
    (s.updPort p (fun v => { v with owe := [0, 0, 0] })).sendOn p
      { type := 0x08, vc := 2, epar := s.fab.parity, dst := (s.port p).pid.toNat, src := s.fab.id.toNat, tag := 0, hops := 15
        payload := slice (owe.flatMap (leBytes 2)) 0 16 }

/-- A frame passed on by the table of its parity, one hop fewer (R526, R536, R537), or dropped for reason 7 or 8. -/
def State.forward (s : State) (p type : Nat) (h : FrameHdr) (payload : List Byte) : State :=
  if h.hops = 0 then s.violate p 8 type h
  else
    let f : Frame := { type := type, vc := h.vc.toNat, epar := h.epar, dst := h.dst.toNat, src := h.src.toNat, tag := h.tag.toNat
                       hops := h.hops.toNat - 1, flow := h.flow.toNat, status := h.status.toNat, addr := h.addr.toNat
                       ask := h.len.toNat, payload := payload }
    match s.route? f with
    | some s => s
    | none => s.violate p 7 type h

/-- A frame received on a port: dropped, passed on, or taken by the device. -/
def State.arrive (s : State) (p type : Nat) (h : FrameHdr) (payload : List Byte) (take : State → State) : State :=
  let v := s.port p
  if !v.state.takes then s
  else if v.state = .quarantined ∧ type ≠ 0x10 then s
  else
    let s := s.returnCredit p type h
    match s.frameFault p type h with
    | some r => s.violate p r type h
    | none =>
      if !byId type || !s.fab.assigned || h.dst == s.fab.id then take s
      else s.forward p type h payload

/-- The data of a frame with a payload: at most LEN times 16 bytes (log entry 97). -/
def frameData (h : FrameHdr) (payload : List Byte) : List Byte := payload.take (16 * h.len.toNat)

/-- Whether a peer request lies within the exposed range (R540). -/
def State.exposed (s : State) (a n : Nat) : Bool := decide (s.sheet 160 8 ≤ a) && decide (a + n ≤ s.sheet 168 8)

/-- RD_REQ served by a burst of engine 35 (R423, R539, R540). -/
def State.serveRead (s : State) (h : FrameHdr) : State :=
  let a := h.addr.toNat
  let n := 16 * h.len.toNat
  if !s.exposed a n then s.respond 0x03 0x23 3 h []
  else match (s.xPaged a false true).1 with
    | .bad => s.respond 0x03 0x23 2 h []
    | pl => match s.readPlace pl n with
      | (_, some _) => s.respond 0x03 0x23 1 h []
      | (bs, none) => (s.bump .io 0x130 1).respond 0x03 0x23 0 h bs

/-- The migration that holds the page at a place, if any (R375). -/
def State.movingAt (s : State) : Place → Option Migration
  | .hbm pa => migOf s.mem.migs 0 pa
  | .host a => migOf s.mem.migs 1 a
  | _ => none

/-- WR_REQ served by a burst of engine 35 (R423, R539, R540); one to a page that migrates is held, and answered once it is performed
(R375). -/
def State.serveWrite (s : State) (h : FrameHdr) (bs : List Byte) : State :=
  let a := h.addr.toNat
  if !s.exposed a bs.length then s.respond 0x04 0x23 3 h []
  else match s.leafAt a with
    | none => s.respond 0x04 0x23 2 h []
    | some l =>
      if !l.wr then s.respond 0x04 0x23 4 h []
      else match (s.xPaged a true true).1 with
        | .bad => s.respond 0x04 0x23 2 h []
        | pl =>
          let t := (s.writePlace pl bs false 0xFFFFFFFF 0x23).bump .io 0x130 1
          match s.movingAt pl with
          | some m => { t with mem := { t.mem with migs := t.mem.migs.map (fun k =>
              if k.srcLoc == m.srcLoc && k.src == m.src then { k with owed := k.owed ++ [h] } else k) } }
          | none => t.respond 0x04 0x23 0 h []

/-- RD_REQ (R539, R540). -/
def execRdReq (p : PortIx) (h : FrameHdr) (s : State) : Host.Outcome State Fault Refusal :=
  .next (s.arrive p.val 0x01 h [] (fun s => s.serveRead h))

/-- WR_REQ (R539, R540). -/
def execWrReq (p : PortIx) (h : FrameHdr) (data : List Byte) (s : State) : Host.Outcome State Fault Refusal :=
  .next (s.arrive p.val 0x02 h (frameData h data) (fun s => s.serveWrite h (frameData h data)))

/-- The request a response answers, if it is still awaited. -/
def State.reqOf (s : State) (h : FrameHdr) : Option FabReq := s.fab.reqs.find? (fun r => r.tag == h.tag.toNat && r.dst == h.src.toNat)

/-- A request no longer awaited. -/
def State.reqDone (s : State) (tag : Nat) : State := s.updFab (fun f => { f with reqs := f.reqs.filter (fun r => r.tag != tag) })

/-- POISON set in the descriptors of a command (R435). -/
def State.poisonDescs (s : State) (seq : Word) : State :=
  { s with dma := { s.dma with engs := s.dma.engs.map (fun (p : Nat × DmaEng) => (p.1, { p.2 with
      chans := p.2.chans.map (fun (q : Nat × DmaChan) => (q.1, { q.2 with
        queue := q.2.queue.map (fun d => if d.seq == seq then { d with poison := true } else d) })) })) } }

/-- A failed request's command ended (R540, R543, R548). -/
def State.reqFailed (s : State) (r : FabReq) : State := (s.reqDone r.tag).endCmd r.seq .deviceFault

/-- RD_RSP (R539, R540): the bytes reach the unit that asked for them; a status other than OK ends the command. -/
def execRdRsp (p : PortIx) (h : FrameHdr) (data : List Byte) (s : State) : Host.Outcome State Fault Refusal :=
  .next (s.arrive p.val 0x03 h (frameData h data) (fun s =>
    match s.reqOf h with
    | none => s
    | some r =>
      match r.kind with
      | .read a n =>
        if h.status = 0 then
          let bs := slice (frameData h data) 0 n
          (s.reqDone r.tag).updFab (fun f => { f with
            got := (List.range n).foldl (fun t i => Tab.put t (r.dst * 2 ^ 40 + a + i) (nth bs i 0)) f.got })
        else ((if h.status = 1 then s.poisonDescs r.seq else s).reqFailed r)
      | _ => s))

/-- WR_RSP (R540). -/
def execWrRsp (p : PortIx) (h : FrameHdr) (s : State) : Host.Outcome State Fault Refusal :=
  .next (s.arrive p.val 0x04 h [] (fun s =>
    match s.reqOf h with
    | none => s
    | some r => match r.kind with
      | .write _ => if h.status = 0 then (s.reqDone r.tag).writeAnswered r.seq else s.reqFailed r
      | _ => s))

/-- Remote waits held at a slate bank (R350, R542). -/
def State.remoteWaits (s : State) (bank : Nat) : Nat :=
  (s.sched.waits.filter (fun w => match w.who with | .remote _ _ => decide (slateBank w.slate = bank) | _ => false)).length

/-- A remote slate operation at its bank (R354, R541, R542). -/
def State.serveSlate (s : State) (h : FrameHdr) (op : Nat) (v cmp : Word) : State :=
  let i := h.addr.toNat % 131072
  let src := h.src.toNat
  let tag := h.tag.toNat
  if op ≤ 1 then
    let w : SlateWait := { slate := i, who := .remote src tag, eq := op == 1, value := v }
    let n := s.slate i
    if w.met n then (s.slateSeen .io i).slateRsp src tag 0 n false
    else if 256 ≤ s.remoteWaits (slateBank i) then s.slateRsp src tag 5 0 false
    else
      let s := s.slateSeen .io i
      { s with sched := { s.sched with waits := s.sched.waits ++ [w] } }
  else
    match s.slateAsk .io i (slateOpOf op) v cmp with
    | (s, n) => s.slateRsp src tag 0 (if slateReads op then n else 0) (op == 5 && n == cmp)

/-- SLATE_REQ (R541, R542); an OP beyond those of R354 is a non-zero reserved bit. -/
def execSlateReq (p : PortIx) (h : FrameHdr) (op : BitVec 4) (v cmp : Word) (s : State) : Host.Outcome State Fault Refusal :=
  .next (s.arrive p.val 0x05 { h with rsvd := h.rsvd || decide (7 < op.toNat) } (slatePayload op.toNat v cmp)
    (fun s => s.serveSlate h op.toNat v cmp))

/-- A remote slate operation's result at its requester (R355, R358, R541). -/
def State.slateAnswer (s : State) (r : FabReq) (op : Nat) (who : Waiter) (n : Word) (stored : Bool) : State :=
  let s := s.reqDone r.tag
  match who with
  | .core w xr =>
    if op ≤ 1 then s.updCore w (fun c => { c.setX xr n with hold := .none })
    else if slateReads op then s.updCore w (fun c => { c.setX xr n with await := c.await.erase xr })
    else s
  | .cmd seq => s.slateOpDone seq .ok (if op ≤ 1 ∨ slateReads op then n else 0) stored
  | .remote _ _ => s

/-- SLATE_RSP (R541, R542); a wake that crossed its cancel finds no request and is discarded. -/
def execSlateRsp (p : PortIx) (h : FrameHdr) (result : Word) (stored : Bool) (s : State) : Host.Outcome State Fault Refusal :=
  .next (s.arrive p.val 0x06 h (slice (leBytes 4 result.toNat ++ leBytes 1 (b2n stored)) 0 16) (fun s =>
    match s.reqOf h with
    | none => s
    | some r => match r.kind with
      | .slate op who => if h.status = 0 then s.slateAnswer r op who result stored else s.reqFailed r
      | _ => s))

/-- SLATE_CANCEL (R542). -/
def execSlateCancel (p : PortIx) (h : FrameHdr) (s : State) : Host.Outcome State Fault Refusal :=
  .next (s.arrive p.val 0x07 h [] (fun s =>
    { s with sched := { s.sched with waits := s.sched.waits.filter (fun w => w.who != Waiter.remote h.src.toNat h.tag.toNat) } }))

/-- CREDIT (R528): flits of frame space returned on each VC; what waited for them is sent. -/
def execCredit (p : PortIx) (h : FrameHdr) (n0 n1 n2 : Half) (s : State) : Host.Outcome State Fault Refusal :=
  .next (s.arrive p.val 0x08 h [] (fun s =>
    (s.updPort p.val (fun v => { v with
      credits := [nth v.credits 0 0 + n0.toNat, nth v.credits 1 0 + n1.toNat, nth v.credits 2 0 + n2.toNat] })).drainPort p.val))

/-- REJECT (R548): the request whose frame was dropped ends its command. -/
def execReject (p : PortIx) (h : FrameHdr) (reason : Byte) (tag : Half) (type : Byte) (s : State) : Host.Outcome State Fault Refusal :=
  .next (s.arrive p.val 0x09 h (slice ([reason] ++ leBytes 2 tag.toNat ++ [type]) 0 16) (fun s =>
    if type = 0x01 ∨ type = 0x02 ∨ type = 0x05 then
      match s.fab.reqs.find? (fun r => r.tag == tag.toNat) with
      | some r => s.reqFailed r
      | none => s
    else s))

/-- REMOTE_TIMEOUT (R543). -/
def execRemoteTimeout (tag : Half) (s : State) : Host.Outcome State Fault Refusal :=
  match s.fab.reqs.find? (fun r => r.tag == tag.toNat) with
  | none => .next s
  | some r =>
    if r.waits || decide (s.nowUs < r.since + max 1 s.fab.timeout.toNat) then .next s
    else .next ((s.reqFailed r).sendFault r.dst 0x05)

/-! ### Ports and flits -/

/-- What the training pattern lets a port run at (R523): its WIDTH, from the lanes that pass. -/
def trainWidth (lanes : Nat) : Option (BitVec 2) :=
  if lanes = 255 then some 0 else if lanes % 16 = 15 then some 1 else if lanes / 16 = 15 then some 2 else none

/-- The last port to finish training begins the election, or ends stage D alone (R531, R533). -/
def State.trainingDone (s : State) : State :=
  if s.fab.state != .training || (List.range 20).any (fun p => (s.port p).state == .training) then s
  else if (List.range 20).any (fun p => (s.port p).state.takes) then s.elect none
  else s.fabricOfOne

/-- PORT_TRAINED (R523): training of a port completes with the lanes that pass. The credit a partner grants at first is not
stated (R528): three free words. -/
def execPortTrained (p : PortIx) (lanes : Byte) (s : State) : Host.Outcome State Fault Refusal :=
  if (s.port p.val).state ≠ .training then .next s
  else match trainWidth lanes.toNat with
    | none => .next ((s.dropPort p.val .down).trainingDone)
    | some w =>
      let a := s.draw
      let b := a.2.draw
      let c := b.2.draw
      .next ((((c.2).dropPort p.val .up).updPort p.val (fun v => { v with
        width := w, credits := [a.1.toNat, b.1.toNat, c.1.toNat], txSeq := 0, rxSeq := 0xFFF })).trainingDone)

/-- PORT_TRAIN_RETRY (R523). -/
def execPortTrainRetry (p : PortIx) (s : State) : Host.Outcome State Fault Refusal :=
  let v := s.port p.val
  if v.state = .down ∧ !v.disable ∧ v.present ∧ s.role ≠ 2 ∧ 4 ≤ s.boot.stage then .next (s.setPort p.val { v with state := .training })
  else .next s

/-- PORT_DOWN (R525, R538, R545). -/
def execPortDown (p : PortIx) (s : State) : Host.Outcome State Fault Refusal :=
  if (s.port p.val).state.takes then .next (s.portDown p.val) else .next s

/-- The flits of a replay buffer after an ACK (R524): those up to it are freed. -/
def ackFlits (l : List TxFlit) (ack : BitVec 12) : List TxFlit :=
  match l.findIdx? (fun f => f.seq == ack) with
  | some i => l.drop (i + 1)
  | none => l

/-- A flit discarded: REPLAY is set in the flits sent until the resend arrives (R525). -/
def State.askReplay (s : State) (p : Nat) : State :=
  let v := s.port p
  if v.askAgain then s
  else (s.setPort p { v with askAgain := true, replays := satAdd v.replays 1 }).send (.flit p true v.rxSeq.toNat)

/-- A partner's REPLAY answered (R525): every flit kept is sent again; the eighth resend without success takes the port DOWN. -/
def State.resend (s : State) (p : Nat) : State :=
  let v := s.port p
  if v.sent.isEmpty then s
  else if 8 ≤ v.resends then s.portDown p
  else
    let s := s.setPort p { v with resends := v.resends + 1 }
    (v.sent.foldl (fun (s : State) f => s.send (.flit p false f.seq.toNat)) s).bump .io 0x152 v.sent.length

/-- FLIT_RECEIVED (R524, R525): a flit with the fields of its header and the symbols its check finds erroneous; `strays` are
frames of a reserved TYPE that end in it. -/
def execFlitReceived (p : PortIx) (seq ack : BitVec 12) (replay idle : Bool) (errs : Byte) (strays : List (BitVec 5 × FrameHdr))
    (s : State) : Host.Outcome State Fault Refusal :=
  let v := s.port p.val
  if !v.state.takes then .next s
  else if 4 < errs.toNat then .next (s.askReplay p.val)
  else
    let s := if 0 < errs.toNat then s.setPort p.val { v with corrected := satAdd v.corrected 1 } else s
    if seq ≠ v.rxSeq + 1 then .next (s.askReplay p.val)
    else
      let left := ackFlits v.sent ack
      let s := s.updPort p.val (fun v => { v with
        rxSeq := seq, askAgain := false, sent := left, resends := if left.length = v.sent.length then v.resends else 0 })
      let s := if idle then s else s.bump .io 0x151 1
      let s := (strays.filter (fun q => (vcOf q.1.toNat).isNone)).foldl (fun s q => s.arrive p.val q.1.toNat q.2 [] id) s
      let s := if replay then s.resend p.val else s
      .next (s.drainPort p.val)

/-- BAR0 offset of FAB_PORT_CTL_p (R550). -/
def portCtlAt (p : Nat) : Nat := 0x201004 + 0x20 * p

/-- DISABLE of FAB_PORT_CTL_p written (R538, R550). -/
def State.portDisable (s : State) (p : Nat) (on : Bool) : State :=
  let v := s.port p
  let s := s.setPort p { v with disable := on }
  if on && v.state != .disabled then (s.dropPort p .disabled).removePort p none
  else if !on && v.state == .disabled then s.updPort p (fun v => { v with state := .down })
  else s

/-- RELEASE of FAB_PORT_CTL_p written (R549): the quarantine ends. -/
def State.portRelease (s : State) (p : Nat) : State :=
  let v := s.port p
  if v.state = .quarantined then (s.setPort p { v with state := .up, window := 0, opened := none }).linkReport p else s

/-- RETRAIN of FAB_PORT_CTL_p written (R550): the port goes DOWN and trains again. -/
def State.portRetrain (s : State) (p : Nat) : State :=
  if (s.port p).state.takes then (s.portDown p).updPort p (fun v => { v with state := .training }) else s

/-- PORT_DISABLE (R538, R550): FAB_PORT_CTL_p.DISABLE written. -/
def execPortDisable (p : PortIx) (on : Bool) (s : State) : Host.Outcome State Fault Refusal :=
  if s.barTakes .fromD then .next (s.portDisable p.val on) else .next (s.barDropped (portCtlAt p.val))

/-- PORT_RELEASE (R549). -/
def execPortRelease (p : PortIx) (s : State) : Host.Outcome State Fault Refusal :=
  if s.barTakes .fromD then .next (s.portRelease p.val) else .next (s.barDropped (portCtlAt p.val))

/-- PORT_RETRAIN (R550). -/
def execPortRetrain (p : PortIx) (s : State) : Host.Outcome State Fault Refusal :=
  if s.barTakes .fromD then .next (s.portRetrain p.val) else .next (s.barDropped (portCtlAt p.val))

/-- VIOLATION_WINDOW_CLOSE (R549). -/
def execViolationWindowClose (p : PortIx) (s : State) : Host.Outcome State Fault Refusal :=
  let v := s.port p.val
  match v.opened with
  | some t => if s.nowUs < t + 1000000 then .next s else .next (s.setPort p.val { v with opened := none, window := 0 })
  | none => .next s

/-! ### Discovery -/

/-- Discovery begun (R529 to R533): a device with ROLE ISOLATED skips it. -/
def State.startDiscovery (s : State) : State :=
  if s.role = 2 then s.fabricOfOne
  else
    let s := { s with boot := { s.boot with atD := some s.nowUs } }
    let s := s.updFab (fun f => { f with
      state := .training, lowest := if s.role = 0 then some s.uid else none, lowestAt := s.nowUs
      ports := (List.range 20).foldl (fun t p => Tab.upd t p {} (fun v => if v.disable then { v with state := .disabled } else if v.present then { v with state := .training } else { v with state := .down })) f.ports })
    s.trainingDone

/-- STATE of a port as registers and HELLOs carry it (R550). -/
def PortState.code : PortState → Nat
  | .down => 0 | .training => 1 | .up => 2 | .foreign => 3 | .quarantined => 4 | .disabled => 5 | .conflict => 6

/-- HELLO_TIMER (R529): a HELLO sent on each trained port. -/
def execHelloTimer (s : State) : Host.Outcome State Fault Refusal :=
  .next (((List.range 20).filter (fun p => (s.port p).state.takes)).foldl (fun s p =>
    s.sendOn p { type := 0x10, vc := 2, epar := s.fab.parity, dst := (s.port p).pid.toNat, src := s.fab.id.toNat, tag := 0, hops := 15
                 payload := slice (leBytes 16 s.uid.toNat ++ leBytes 1 p ++ leBytes 1 s.role ++ leBytes 8 (s.sheet 152 8) ++
                   leBytes 2 s.fab.id.toNat ++ leBytes 1 (b2n s.fab.assigned) ++ leBytes 1 (s.port p).state.code ++
                   leBytes 4 s.fab.epoch.toNat ++ (match s.fab.lowest with | some u => leBytes 16 u.toNat | none => List.replicate 16 255)) 0 64 }) s)

/-- The lowest UID a device knows after a HELLO (R531, R534; log entry 43). -/
def State.learn (s : State) (p : Nat) (d : HelloData) : State :=
  let f := s.fab
  let take := fun (u : BitVec 128) (j : Bool) => s.updFab (fun f => { f with lowest := some u, parent := some p, lowestAt := s.nowUs, joined := j })
  match d.lowest with
  | none => s
  | some u =>
    if f.gone = some u then s
    else if f.state = .electing ∨ f.state = .training then
      if d.assigned && !f.assigned && !f.joined then take u true
      else if f.joined && !d.assigned then s
      else match f.lowest with
        | none => take u f.joined
        | some l => if u.toNat < l.toNat then take u f.joined else s
    else if f.state = .committed ∧ d.assigned ∧ u.toNat < f.coordUid.toNat then
      (s.elect none).updFab (fun f => { f with lowest := some u, parent := some p })
    else s

/-- Whether a partner of another part holds a fabric ID that this part holds (R534). -/
def State.clash (s : State) (d : HelloData) : Bool :=
  let f := s.fab
  f.state == .committed && d.assigned && d.uid != s.uid && (match d.lowest with | some u => u != f.coordUid && decide (f.coordUid.toNat < u.toNat) | none => false) &&
  (d.id == f.id || (Tab.at f.cur.routes d.id.toNat {}).valid)

/-- HELLO (R529, R530, R531, R534, R549, R654). -/
def execHello (p : PortIx) (h : FrameHdr) (d : HelloData) (s : State) : Host.Outcome State Fault Refusal :=
  .next (s.arrive p.val 0x10 h [] (fun s =>
    let v := s.port p.val
    let quar := d.state == 4
    let new := v.puid != some d.uid || v.pquar != quar
    let s := s.setPort p.val { v with ppart := d.port, pid := d.id, pvalid := d.assigned, puid := some d.uid, pquar := quar }
    if d.domain.toNat ≠ s.sheet 152 8 ∨ d.uid = s.uid then
      if v.state = .up then (s.updPort p.val (fun v => { v with state := .foreign })).removePort p.val none else s
    else if v.state = .quarantined ∨ v.state = .conflict then s
    else if d.state = 6 then (s.updPort p.val (fun v => { v with state := .conflict })).removePort p.val none
    else if s.clash d then ((s.updPort p.val (fun v => { v with state := .conflict })).removePort p.val none).sendFault d.id.toNat 0x04
    else
      let s := s.updPort p.val (fun v => { v with state := .up })
      let s := if quar && !v.pquar then s.removePort p.val none else if new || v.state == .foreign then s.linkReport p.val else s
      s.learn p.val d))

/-- ELECTION_SETTLE (R531, R533): the lowest UID has not changed for 50 ms. The device of that UID becomes coordinator, the
others report their links to it. -/
def execElectionSettle (s : State) : Host.Outcome State Fault Refusal :=
  if s.fab.state ≠ .electing ∨ s.nowUs < s.fab.lowestAt + 50000 then .next s
  else match s.fab.lowest with
    | none => .next s.fabricOfOne
    | some u =>
      let mine := u == s.uid && s.role == 0
      let s := s.updFab (fun f => { f with state := .mapping, coord := mine, coordUid := u
                                           coordId := if mine then f.id else f.coordId
                                           devs := [], links := [], topoDirty := false })
      let s := if mine then s.updFab (fun f => { f with devs := [⟨s.uid, if f.assigned then some f.id.toNat else none⟩], topoDirty := true, topoAt := s.nowUs }) else s
      .next (((List.range 20).filter (fun p => (s.port p).state.takes)).foldl State.linkReport s)

/-- LINK_REPORT (R531, R534, R545): taken at the coordinator, passed on elsewhere. -/
def execLinkReport (p : PortIx) (h : FrameHdr) (l : LinkData) (s : State) : Host.Outcome State Fault Refusal :=
  .next (s.arrive p.val 0x11 h (linkBytes l) (fun s => if s.fab.coord then s.noteLink l else s.passReport l h.src.toNat))

/-- A routing entry as TABLE carries it. -/
def routeBytes (q : Nat × Route) : List Byte :=
  leBytes 2 q.1 ++ leBytes 4 (q.2.ports.toNat + 2 ^ 20 * q.2.dist + 2 ^ 24 * b2n q.2.valid)

/-- A list cut into parts of `k`, `fuel` parts at most. -/
def partsOf {α : Type} (k : Nat) : Nat → List α → List (List α)
  | 0, _ => []
  | n + 1, l => if l.isEmpty then [] else l.take k :: partsOf k n (l.drop k)

/-- A device's ASSIGN, TABLE and COMMIT frames sent to it (R532). -/
def State.distribute (s : State) (own : RouteTable) (i : Nat) (t : RouteTable) : State :=
  match (own.route s.fab.id.toNat i).pick s.fab.id.toNat i 0x27 with
  | none => s
  | some p =>
    let fr := fun (type : Nat) (payload : List Byte) =>
      ({ type := type, vc := 2, epar := t.epoch.toNat.testBit 0, dst := i, src := s.fab.id.toNat, tag := 0, hops := 15, flow := 0x27, payload := payload } : Frame)
    let s := s.sendOn p (fr 0x12 (slice (leBytes 2 i ++ leBytes 4 t.epoch.toNat) 0 16))
    let s := (partsOf 40 103 t.routes).foldl (fun (s : State) rs => s.sendOn p (fr 0x13 (rs.flatMap routeBytes))) s
    s.sendOn p (fr 0x14 (slice (leBytes 4 t.epoch.toNat) 0 16))

/-- ROUTE_RECOMPUTE (R532, R534): 1 ms after the last LINK_REPORT that changes the topology the coordinator numbers the
devices it reaches, computes every table, distributes them and puts its own in force. -/
def execRouteRecompute (s : State) : Host.Outcome State Fault Refusal :=
  let f := s.fab
  if !f.coord || !f.topoDirty || decide (s.nowUs < f.topoAt + 1000) || (f.state != .mapping && f.state != .committed) then .next s
  else
    let near := f.dists s.uid
    let devs := assignIds (f.devs.filter (fun d => (near.map Prod.fst).contains d.uid))
    let f := { f with devs := devs, links := f.links.filter (fun l => devs.any (fun d => d.uid == l.dev)) }
    let epoch := f.epoch + 1
    let own := f.tableOf epoch s.uid
    let id := ((devs.find? (fun d => d.uid == s.uid)).bind FabDev.id).getD 0
    let s := { s with fab := { f with topoDirty := false, id := BitVec.ofNat 12 id, assigned := true, coordId := BitVec.ofNat 12 id } }
    let far := near.filterMap (fun q => if q.1 == s.uid then none else (devs.find? (fun d => d.uid == q.1)).bind (fun d => d.id.map (fun i => (i, q.1))))
    let s := far.foldl (fun s q => s.distribute own q.1 (f.tableOf epoch q.2)) s
    .next (s.install own).endStageD

/-- ASSIGN (R532, R534). -/
def execAssign (p : PortIx) (h : FrameHdr) (id : BitVec 12) (epoch : Word) (s : State) : Host.Outcome State Fault Refusal :=
  .next (s.arrive p.val 0x12 h (slice (leBytes 2 id.toNat ++ leBytes 4 epoch.toNat) 0 16) (fun s =>
    if s.fab.coord then s else s.updFab (fun f => { f with stagedId := some id, staged := { epoch := epoch, routes := [] } })))

/-- TABLE (R532, R535). -/
def execTable (p : PortIx) (h : FrameHdr) (entries : List RouteData) (s : State) : Host.Outcome State Fault Refusal :=
  .next (s.arrive p.val 0x13 h (entries.flatMap (fun e => routeBytes (e.dst.toNat, ⟨e.ports, e.dist.toNat, e.valid⟩))) (fun s =>
    if s.fab.coord then s else s.updFab (fun f => { f with staged := { f.staged with
      routes := entries.foldl (fun t e => Tab.put t e.dst.toNat ⟨e.ports, e.dist.toNat, e.valid⟩) f.staged.routes } })))

/-- COMMIT (R532, R537): the table of the epoch is put in force and acknowledged; an acknowledgement changes nothing. -/
def execCommit (p : PortIx) (h : FrameHdr) (epoch : Word) (s : State) : Host.Outcome State Fault Refusal :=
  .next (s.arrive p.val 0x14 h (slice (leBytes 4 epoch.toNat) 0 16) (fun s =>
    if s.fab.coord || h.len == 0 || s.fab.staged.epoch != epoch || s.fab.stagedId.isNone then s
    else
      let id := s.fab.stagedId.getD 0
      let s := (s.updFab (fun f => { f with id := id, assigned := true, coordId := h.src, coordUid := f.lowest.getD f.coordUid, stagedId := none })).install s.fab.staged
      (s.sendFrame { type := 0x14, vc := 2, epar := s.fab.parity, dst := h.src.toNat, src := id.toNat, tag := 0, hops := 15 }).endStageD))

/-- DISCOVERY_TIMEOUT (R533): no COMMIT 1.5 s into stage D. -/
def execDiscoveryTimeout (s : State) : Host.Outcome State Fault Refusal :=
  match s.boot.atD with
  | some t => if s.nowUs < t + 1500000 then .next s else .next (s.updFab (fun f => { f with state := .failed })).endStageD
  | none => .next s

/-- TABLE_RETIRE (R537). -/
def execTableRetire (s : State) : Host.Outcome State Fault Refusal :=
  if s.nowUs < s.fab.commitAt + max 1 s.fab.timeout.toNat then .next s else .next (s.updFab (fun f => { f with prev := none }))

/-! ### Fault reports -/

/-- CABLE_PRESENCE (R652): a port whose presence pin is high is not trained and stays DOWN. -/
def execCablePresence (p : PortIx) (present : Bool) (s : State) : Host.Outcome State Fault Refusal :=
  let s := s.updPort p.val (fun v => { v with present := present })
  let v := s.port p.val
  if present then .next s
  else if v.state.takes then .next (s.portDown p.val)
  else if v.state = .training then .next ((s.dropPort p.val .down).trainingDone)
  else .next s

/-- FAULT (R545 to R547): tallied at the coordinator, forwarded or counted on the way. -/
def execFault (p : PortIx) (h : FrameHdr) (key : FaultKey) (s : State) : Host.Outcome State Fault Refusal :=
  let pay := slice (keyBytes key) 0 16
  if s.fab.assigned && h.dst != s.fab.id then
    .next (s.arrive p.val 0x15 { h with dst := s.fab.id } pay (fun s =>
      if h.hops = 0 then s.violate p.val 8 0x15 h else s.coalesce key h.src.toNat (h.hops.toNat - 1)))
  else .next (s.arrive p.val 0x15 h pay (fun s => if s.fab.coord then s.tallyFault key h.src.toNat else s))

/-- TALLY (R546, R547). -/
def execTally (p : PortIx) (h : FrameHdr) (key : FaultKey) (count : Word) (s : State) : Host.Outcome State Fault Refusal :=
  .next (s.arrive p.val 0x16 h (slice (keyBytes key ++ leBytes 4 count.toNat) 0 16) (fun s =>
    if s.fab.coord then s.updFab (fun f => { f with
      tally := f.tally.map (fun (q : Nat × Tally) => if q.2.key == key then (q.1, { q.2 with dups := satAdd q.2.dups count.toNat }) else q) })
    else s))

/-- FAULT_COALESCE_CLOSE (R546): a window of 100 ms closes; a TALLY carries its count. -/
def execFaultCoalesceClose (key : FaultKey) (s : State) : Host.Outcome State Fault Refusal :=
  match s.fab.windows.find? (fun w => w.key == key) with
  | none => .next s
  | some w =>
    if s.nowUs < w.since + 100000 then .next s
    else
      let s := s.updFab (fun f => { f with windows := f.windows.filter (fun v => v.key != key) })
      .next (if w.count = 0 then s else s.toCoord 0x16 s.fab.id.toNat 15 (slice (keyBytes key ++ leBytes 4 w.count) 0 16))

end Sys2Proof.Machine
end

