-- ==== Sys2Proof/Machine/Advance.lean ====
section
/-! DEFINITION. Step boundaries: the memory order of R153 for takes and batch lists, the batch list (R154, R155), the
end of an advance step (R47, R48, R60, R163), the steps of a chunk (R102, R108, R337), and copy-on-write faults
(R41 to R46). -/

namespace Sys2Proof.Machine

/-- An entry of a batch list (R154). -/
structure BatchEnt where
  id     : Nat
  action : Nat
  cls    : Nat
  plog   : Nat
  grow   : Nat
  length : Nat
  expect : Nat
  deriving DecidableEq, Repr

/-- A batch list entry read from its bytes. -/
def parseBatch (b : List Byte) : BatchEnt :=
  let f := recField b
  { id := f 0 4, action := f 4 1 % 4, cls := fld (f 4 1) 2 1, plog := f 5 1 % 32, grow := f 6 2, length := f 8 4, expect := f 12 4 }

/-- Whether an entry is a new join. -/
def BatchEnt.isJoin (e : BatchEnt) : Bool := e.action == 1 && e.id == noOff

/-- The sequence an entry names for a command: live, and of no other command under way. -/
def State.batchSeq (s : State) (seq : Word) (e : BatchEnt) : Option Nat :=
  (s.seqOf e.id).bind (fun i =>
    let o := (s.seqEnt i).owner
    if o = seq ∨ ((s.cmd? o).map (fun c => c.phase == .running)).getD false = false then some i else none)

/-- The KV page size of a join, log2 (R137, R139): none where not one token fits a page. -/
def State.joinLg (s : State) (tok : Nat) (e : BatchEnt) : Option Nat :=
  if e.plog = 0 then autoKvLg tok (s.sheet 53 1) e.expect e.length
  else if 2 ^ (e.plog + 12) < tok then none else some (e.plog + 12)

/-- Whether an entry ends the command with SHAPE_OVER (R137, R154). -/
def State.batchBad (s : State) (seq : Word) (tok : Nat) (e : BatchEnt) : Bool :=
  if e.action = 3 then true
  else if e.isJoin then e.plog == 1 || decide (9 < e.plog) || (s.joinLg tok e).isNone
  else (s.batchSeq seq e).isNone

/-- A batch sequence released: its pages' counts lowered, its entry freed (R40, R153). -/
def State.leaveSeq (s : State) (i : Nat) : State :=
  let q := s.seqEnt i
  let s := s.setSeq i { gen := q.gen + 1 }
  q.pages.foldl (fun s e => (s.lowerCount e.key e.lg 1).1) s

/-- A join met where its pages and a sequence entry are at hand (R153, R155): the new sequence. -/
def State.meetJoin (s : State) (seq : Word) (tok : Nat) (asks : List Ask) (e : BatchEnt) : Option (Nat × State) :=
  match s.joinLg tok e, firstFrom (fun i => (s.seqEnt i).state == .free) 16384 0 with
  | some lg, some i =>
    let t := tokensPerPage lg tok
    let n := if t = 0 then 0 else ceilDiv e.length t
    if s.availFor tok e.cls asks < n * 2 ^ lg then none
    else
      match s.drawPages lg e.cls n with
      | none => none
      | some (bs, s) =>
        let ps := (bs.zip (List.range n)).map (fun p => ({ offset := p.2 * 2 ^ lg, lg := lg, page := p.1, kv := true } : PageEnt))
        let s := ps.foldl (fun s p => { s with takes := { s.takes with counts := Tab.put s.takes.counts p.key 1 } }) s
        if !s.asksMet tok (asks.filter (fun a => a.2 != 0)) then none else
        let q : SeqEnt :=
          { state := .active, cls := e.cls, gen := (s.seqEnt i).gen, plog := BitVec.ofNat 5 (lg - 12), length := e.length, tpp := t
            pages := ps, born := seq, listAt := s.listPlace (16 * n), owner := seq, grown := true }
        some (i, s.setSeq i q)
  | _, _ => none

/-- Joins met in list order until one is deferred: the sequence of each join met, by entry number. -/
def State.meetJoins (s : State) (seq : Word) (tok : Nat) (asks : List Ask) : List (Nat × BatchEnt) → List (Nat × Nat) → State × List (Nat × Nat)
  | [], got => (s, got)
  | p :: rest, got =>
    match s.meetJoin seq tok asks p.2 with
    | none => (s, got)
    | some (i, s) => State.meetJoins s seq tok asks rest (got ++ [(p.1, i)])

/-- An entry as the device writes it back (R154): DEFERRED, PREEMPTED, and the ID of a met join. -/
def State.batchBack (s : State) (got : List (Nat × Nat)) (k : Nat) (e : BatchEnt) (b : List Byte) : List Byte :=
  let flags := fun (d p : Bool) => (recField b 4 1 % 8) + 8 * b2n d + 16 * b2n p
  if e.isJoin then
    match got.find? (fun g => g.1 == k) with
    | some g => leBytes 4 (2 ^ 31 + 65536 * (s.seqEnt g.2).gen.toNat + g.2) ++ leBytes 1 (flags false false) ++ (slice b 0 16).drop 5
    | none => slice b 0 4 ++ leBytes 1 (flags true false) ++ (slice b 0 16).drop 5
  else
    let p := ((s.seqOf e.id).map (fun i => (s.seqEnt i).state == .preempted)).getD false
    slice b 0 4 ++ leBytes 1 (flags false p) ++ (slice b 0 16).drop 5

/-- A command's boundary entry changed. -/
def State.updBoundary (s : State) (seq : Word) (f : Boundary → Boundary) : State :=
  { s with kv := { s.kv with waits := s.kv.waits.map (fun b => if b.seq == seq then f b else b) } }

/-- A command's data areas changed. -/
def State.updData (s : State) (seq : Word) (f : DataAreas → DataAreas) : State := s.updCmd seq (fun c => { c with data := f c.data })

/-- The tokens each take grows by in a step (R154). -/
def State.growOf (s : State) (c : Cmd) : Nat := ((s.progOf c.programRef).map Program.grow).getD 0

/-- The takes of a command that may resume (R161, R381): pre-empted, no late entry of theirs still to complete. -/
def State.resumable (s : State) (c : Cmd) : List Nat :=
  c.takes.filter (fun t => (s.take t).state == .preempted && !c.prefs.any (fun r => r.take == some t && r.decided && !r.done))

/-- The tile counters of a step of an advance bound anew (R301). -/
def State.stepTiles (s : State) (seq : Word) (c : Cmd) : State :=
  s.bindTiles seq ((s.kernelsOf c).flatMap (fun k => s.countersOf seq c k (nth c.pieces c.piece ⟨[], [], 0xFF⟩)))

/-- A step of an advance begins (R48): the takes that run it, their rows, the list issued anew (R379), the mask of a
chunk's next step (R108). -/
def State.startStep (s : State) (seq : Word) (first : Bool) : State :=
  match s.cmd? seq, s.kern? seq 0 with
  | some c, some k =>
    let s := s.updCmd seq (fun c => { c with
      stepNow := s.stepping c, pass := 0, issued := [], snap := s.slateSnap c, replays := if first then 0 else c.replays, prefs := c.prefs.filter (fun r => r.kind == 1 && r.decided && !r.done) })
    let go := fun (s : State) => ((s.stepTiles seq c).giveRows c k).reachStage seq 0 0
    match s.chunkAt k with
    | some h => if 0 < h.step ∧ h.step < h.steps then s.maskStep h (fun s h => go (s.setChunk h)) else go s
    | none => go s
  | _, _ => s

/-- A chunk under way folded where its command stops (R107): early inside it, also where the advance ends for another reason than its
deadline (DESIGN CHOICE, log entry 115). -/
def State.foldEarly (s : State) (seq : Word) : State :=
  match s.chunkOf seq with
  | some c => s.foldChunk c (decide (c.step < c.steps))
  | none => s

/-- A chunk stopped for a pre-emption folded at the step boundary reached; its descriptor's other steps are left to a new chunk (R131). -/
def State.foldStopped (s : State) (k : Kern) : State :=
  match s.chunkAt k with
  | some c => (s.foldChunk c (decide (c.step < c.steps))).updCmd k.seq (fun q => { q with
      chunkFrom := if c.step < c.steps then Tab.put q.chunkFrom k.layer (c.base + c.step) else Tab.del q.chunkFrom k.layer })
  | none => s

/-- A completed step counted: in the takes that ran it and in its advance (R48 step 4). -/
def State.countStep (s : State) (seq : Word) (c : Cmd) : State :=
  let done := c.stepNow.filter (fun t => (s.take t).state == .advancing)
  let s := done.foldl (fun s t => let v := s.take t; s.setTake t { v with steps := v.steps + 1 }) s
  s.updCmd seq (fun c => { c with steps := c.steps + 1, stepped := c.stepped ++ done.filter (fun t => !c.stepped.contains t) })

/-- A command stopped at its boundary for want of pages, its takes consistent there: a step completed counts (R60, R160). -/
def State.endShort (s : State) (seq : Word) : State :=
  let after := (s.kv.waits.find? (fun b => b.seq == seq)).any (fun b => !b.first)
  let s := match s.cmd? seq with
    | some c => if c.isAdvance && after then s.countStep seq c else s
    | none => s
  (s.foldEarly seq).endCmd seq .pageExhausted

/-- The end of an advance's boundary after its memory order (R48 steps 4 to 6, R60); a chunk whose takes have all been pruned runs on to
its end (R129). -/
def State.advanceOn (s : State) (seq : Word) (first : Bool) : State :=
  match s.cmd? seq with
  | none => s
  | some c =>
    if first then s.startStep seq true
    else
      let s := s.countStep seq c
      if (c.deadlineAt.map (fun d => decide (d ≤ s.nowUs))).getD false then (s.foldEarly seq).endCmd seq .deadlineMiss
      else if c.fieldN 26 2 ≤ c.steps + 1 then (s.foldEarly seq).endCmd seq .ok
      else if (c.takes.filter (fun t => (s.take t).live)) = [] ∧ ¬ (s.chunkOf seq).any (fun h => decide (h.step < h.steps)) then s.endCmd seq .ok
      else s.startStep seq true

/-- A boundary over: its delay noted, the command goes on. -/
def State.endBoundary (s : State) (b : Boundary) : State :=
  let s := { s with kv := { s.kv with waits := s.kv.waits.filter (fun x => x.seq != b.seq) } }
  let s := s.updData b.seq (fun d => { d with kvDelay := max d.kvDelay (s.nowUs - b.since) })
  match s.cmd? b.seq with
  | none => s
  | some c =>
    if c.isAdvance then s.advanceOn b.seq b.first
    else (s.sched.kerns.filter (fun (k : Kern) => k.seq == b.seq && k.phase == KernPhase.staging)).foldl (fun s k => s.dispatchStage k) s

/-- Whether pages of a command's sequences are on their way back into HBM. -/
def State.comingBack (s : State) (seq : Word) (c : Cmd) : Bool :=
  s.mem.migs.any (fun m => match m.cause with
    | .swapIn ix => if ix < batchBase then c.takes.contains ix else (s.seqEnt (ix - batchBase)).owner == seq
    | _ => false)

/-- The memory order once growth fits (R153): resuming sequences, joins, growth, the list written back. -/
def State.orderMemory (s : State) (seq : Word) (c : Cmd) (tok : Nat) (asks : List Ask) (grow : Nat → Nat)
    (ents : List BatchEnt) (bytes : List Byte) (addr : Nat) : State :=
  let s := s.updCmd seq (fun c => { c with stepNow := c.stepNow.filter (fun t => (s.take t).state == .advancing) })
  let back := if c.isAdvance then s.resumable c
    else (s.kv.seqs.filter (fun (p : Nat × SeqEnt) => p.2.owner == seq && p.2.state == .preempted)).map (fun p => p.1 + batchBase)
  match s.resumeAll seq tok (fun ix => if s.grown ix then 0 else grow ix) (s.resumeOrder back) asks with
  | (s, all, asks) =>
    let joins := ((List.range ents.length).zip ents).filter (fun p => p.2.isJoin)
    match (if all then s.meetJoins seq tok asks joins [] else (s, [])) with
    | (s, got) =>
      match s.growAll tok (s.askOrder (asks.filter (fun a => a.2 != 0))) with
      | none => s.endShort seq
      | some s =>
        let s := s.updData seq (fun d => { d with kvJoined := d.kvJoined + got.length, kvDeferred := joins.length - got.length })
        let done := fun (s : State) =>
          match s.cmd? seq, s.kv.waits.find? (fun b => b.seq == seq) with
          | some c, some b => if s.comingBack seq c then s.updBoundary seq (fun b => { b with inward := true }) else s.endBoundary b
          | _, _ => s
        if ents = [] then done s
        else
          let out := ((List.range ents.length).zip ents).flatMap (fun p => s.batchBack got p.1 p.2 (slice bytes (16 * p.1) 16))
          s.writeFor (accOf seq) seq 1 addr out done

/-- The growth of a boundary met, waited for, or the command ended (R153, R159, R160). -/
def State.orderGrowth (s : State) (seq : Word) (c : Cmd) (asks : List Ask) (grow : Nat → Nat)
    (ents : List BatchEnt) (bytes : List Byte) (addr : Nat) : State :=
  let tok := s.tokenOf c
  if asks.any (fun a => a.2 != 0 && tok != 0 && decide (2 ^ (s.holder a.1).lg < tok)) then s.endCmd seq .shapeOver
  else
    match s.meetGrowth seq tok (s.holders.length + asks.length + 1) asks with
    | (s, asks, .fits) => s.orderMemory seq c tok asks grow ents bytes addr
    | (s, _, .waits) => s
    | (s, _, .exhausted) => s.endShort seq

/-- The boundary of an advance: its takes grow by the program's tokens for the coming step (R153, R154), by none at the
boundary after the last one (DEDUCED, log 57). -/
def State.takesBoundary (s : State) (c : Cmd) (b : Boundary) : State :=
  let g := if !b.first && decide (c.fieldN 26 2 ≤ c.steps + 1) then 0 else s.growOf c
  let on := s.stepping c
  let s := if b.left then s else on.foldl (fun s t => s.stepOver t) s
  let s := s.updBoundary b.seq (fun b => { b with left := true })
  s.orderGrowth b.seq c (on.map (fun t => (t, g))) (fun _ => g) [] [] 0

/-- The boundary of a batch list (R153, R154): its leaving sequences leave once; a pre-empted one keeps the growth of the step it redoes
(R161). -/
def State.batchBoundary (s : State) (c : Cmd) (b : Boundary) : State :=
  match s.batchLists c with
  | [] => s.endBoundary b
  | addr :: _ =>
    s.readFor (accOf b.seq) b.seq 1 addr (16 * b.list) (fun bytes s =>
      let ents := (entriesOf bytes 16 b.list).map parseBatch
      let tok := s.tokenOf c
      if !b.left && ents.any (fun e => s.batchBad b.seq tok e) then s.endCmd b.seq .shapeOver
      else
        let named := ents.filterMap (fun e => if e.isJoin then none else (s.batchSeq b.seq e).map (fun i => (i, e)))
        let s := if b.left then s
          else
            let s := named.foldl (fun s p =>
              let s := s.setSeq p.1 { s.seqEnt p.1 with owner := b.seq }
              if (s.seqEnt p.1).state = .active then s.stepOver (p.1 + batchBase) else s) s
            (named.filter (fun p => p.2.action == 2)).foldl (fun s p => s.leaveSeq p.1) s
        let s := s.updBoundary b.seq (fun b => { b with left := true })
        let on := named.filter (fun p => p.2.action != 2 && (s.seqEnt p.1).state == .active)
        let grow := fun ix => ((named.find? (fun p => p.1 + batchBase == ix)).map (fun p => p.2.grow)).getD 0
        s.orderGrowth b.seq c (on.map (fun p => (p.1 + batchBase, p.2.grow))) grow ents bytes addr)

/-- One boundary served. -/
def State.serveBoundary (s : State) (b : Boundary) : State :=
  match s.cmd? b.seq with
  | none => { s with kv := { s.kv with waits := s.kv.waits.filter (fun x => x.seq != b.seq) } }
  | some c =>
    if b.inward then (if s.comingBack b.seq c then s else s.endBoundary b)
    else if c.isAdvance then s.takesBoundary c b
    else s.batchBoundary c b

/-- Boundaries served in the order in which they came (R156): one that waits for growth holds those behind it back. -/
def State.serveGo (s : State) (blocked : Bool) : List Word → State
  | [] => s
  | q :: rest =>
    match s.kv.waits.find? (fun b => b.seq == q) with
    | none => State.serveGo s blocked rest
    | some b =>
      if !b.posted || (blocked && !b.inward) then State.serveGo s blocked rest
      else
        let s := s.serveBoundary b
        State.serveGo s (blocked || s.kv.waits.any (fun x => x.seq == q && x.posted && !x.inward)) rest

/-- All boundaries served. -/
def State.serveBoundaries (s : State) : State := s.serveGo false (s.kv.waits.map Boundary.seq)

/-- The descriptors of a kernel's cores still in its DMA channels. -/
def State.dmaOf (s : State) (k : Kern) : Bool :=
  s.dma.engs.any (fun (p : Nat × DmaEng) => p.2.chans.any (fun (q : Nat × DmaChan) =>
    q.2.queue.any (fun d => d.seq == k.seq && d.layer == k.layer && d.core.isSome && d.pref.isNone)))

/-- Whether an edge job is of a kernel's cores. -/
def EdgeJob.of (j : EdgeJob) (k : Kern) : Bool :=
  match j with
  | .core _ q _ _ => q == k.seq
  | .stream _ _ => false

/-- The edge jobs of a kernel's cores still accepted. -/
def State.edgeOf (s : State) (k : Kern) : Bool :=
  s.dma.edges.any (fun (p : Nat × Edge) => k.clusters.contains p.1 && (p.2.coreQ.any (fun j => j.of k) || (p.2.running.map (fun j => j.of k)).getD false))

/-- Whether the cores of a kernel have nothing under way: no wait, no array work, no remote result, no DMA descriptor or edge job of
theirs, and every write to a peer answered (R47). -/
def State.quiet (s : State) (k : Kern) : Bool :=
  k.cores.all (fun w => let h := (s.core w).hold; (h == .none || h == .array) && s.arrayIdle w && (s.core w).await.isEmpty) &&
  !s.dmaOf k && !s.edgeOf k && !s.writesOut k.seq

/-- Whether a page copy or fault of some takes is under way, or a migration holds stores to their pages (R47). -/
def State.copying (s : State) (l : List Nat) : Bool :=
  s.takes.copies.any (fun p => l.contains p.take) || s.takes.faults.any (fun f => l.contains f.take) ||
  s.mem.migs.any (fun m => match m.cause with
    | .cow t => l.contains t
    | _ => !m.held.isEmpty && l.any (fun t => (s.take t).pages.any (fun e => e.key == m.src + 2 ^ 60 * m.srcLoc)))

/-- A step's score updates applied in the order in which they came (R48, R61). -/
def State.applyScores (s : State) (seq : Word) (c : Cmd) : State :=
  let mine := s.takes.scores.filter (fun q => q.1 == seq)
  let s := { s with takes := { s.takes with scores := s.takes.scores.filter (fun q => q.1 != seq) } }
  mine.foldl (fun s q =>
    let t := q.2.1
    let v := s.take t
    if c.stepNow.contains t && v.state == .advancing then
      s.setTake t { v with score := if q.2.2.1 then q.2.2.2 else fadd v.score q.2.2.2 } else s) s

/-- Held prunes put in sequence-number order. -/
def pruneIns (p : HeldPrune) : List HeldPrune → List HeldPrune
  | [] => [p]
  | q :: r => if seqBefore p.seq q.seq then p :: q :: r else q :: pruneIns p r

/-- The prunes held for an advance's boundary applied (R27, R48, R129). -/
def State.applyPrunes (s : State) (seq : Word) (c : Cmd) : State :=
  let mine := (s.takes.prunes.filter (fun p => c.takes.contains p.take)).foldl (fun l p => pruneIns p l) []
  let s := { s with takes := { s.takes with prunes := s.takes.prunes.filter (fun p => !c.takes.contains p.take) } }
  let s := mine.foldl (fun s p => s.pruneTake p.seq p.take true) s
  let s := s.updCmd seq (fun c => { c with takes := c.takes.filter (fun t => !mine.any (fun p => p.take == t)) })
  { s with takes := { s.takes with pruned := Tab.upd s.takes.pruned seq.toNat 0 (fun n => n + mine.length) } }

/-- Every count update on its way applied, so that a boundary sees the pages its leaving takes free (R153). -/
def State.drainUpdates (s : State) : State :=
  (List.range s.takes.updQ.length).foldl (fun s _ =>
    match s.takes.updQ with
    | [] => s
    | p :: _ => s.countUpdate ((p.page % 2 ^ 60 / 2 ^ p.lg) % 8)) s

/-- A boundary request sent to the memory manager (R153, R156). -/
def State.askBoundary (s : State) (b : Boundary) : State := { s with kv := { s.kv with waits := s.kv.waits ++ [b] } }

/-- Whether an advance's step has takes left for another pass of its cores (log entry 20). -/
def State.morePasses (s : State) (c : Cmd) (k : Kern) : Bool := decide ((c.pass + 1) * 256 * k.cores.length < (s.stepping c).length)

/-- The next pass of an advance's step. -/
def State.nextPass (s : State) (seq : Word) (c : Cmd) (k : Kern) : State :=
  let s := (s.countTiles k).updCmd seq (fun c => { c with pass := c.pass + 1, issued := [] })
  ((s.stepTiles seq c).giveRows { c with pass := c.pass + 1 } k).reachStage seq 0 0

/-- The end of an advance's step (R47, R48). -/
def State.endStep (s : State) (seq : Word) (c : Cmd) (k : Kern) : State :=
  let s := (s.countTiles k).setKern { k with phase := .staging }
  let s := ((s.applyScores seq c).applyPrunes seq c).drainUpdates
  (s.askBoundary { seq := seq, since := s.nowUs, first := false }).serveBoundaries

/-- A step of a chunk over (R102). -/
def State.chunkStep (s : State) (k : Kern) : State :=
  match s.chunkAt k with
  | some h => s.setChunk { h.endStep with redo := h.redo - 1 }
  | none => s

/-- A step that a chunk's replay ran again (R132): its score updates were applied before, and the next step runs (log entry 118). -/
def State.redoStep (s : State) (seq : Word) : State :=
  { s with takes := { s.takes with scores := s.takes.scores.filter (fun q => q.1 != seq) } }.startStep seq false

/-- A step over, within a chunk or an advance (R48, R102, R107, R132, R337): the chunk of a kernel that is being stopped folds early and
the save begins. -/
def State.stepOf (s : State) (seq : Word) (c : Cmd) (k : Kern) : State :=
  let again := decide (0 < ((s.chunkAt k).map Chunk.redo).getD 0)
  let s := s.chunkStep k
  if again then s.redoStep seq
  else if k.phase = .stopping then (s.foldStopped k).beginSave k
  else if c.isAdvance then s.endStep seq c k
  else
    match s.chunkAt k with
    | some h => if h.step < h.steps then s.maskStep h (fun s h => s.setChunk h) else s
    | none => s

/-- The kernel a STEP_BOUNDARY is of: the first of the command's whose chunk has a step under way and whose cores are at rest, else the
first that runs. -/
def State.stepKern (s : State) (seq : Word) : Option Kern :=
  let l := s.sched.kerns.filter (fun (k : Kern) => k.seq == seq && (k.phase == KernPhase.running || k.phase == KernPhase.stopping))
  (l.find? (fun k => (s.chunkAt k).any (fun h => decide (h.step < h.steps)) && s.quiet k)).or l.head?

/-- STEP_BOUNDARY (R47, R48, R60, R102, R107, R337): of an advance, or within the chunk of a kernel or graph command. -/
def execStepBoundary (seq : Word) (s : State) : Host.Outcome State Fault Refusal :=
  match s.cmd? seq, s.stepKern seq with
  | some c, some k =>
    let ovr := ((s.chunkAt k).map (fun h => decide (h.steps ≤ h.step))).getD false
    if c.phase ≠ .running ∨ c.sealed ∨ s.atBoundary seq ∨ ¬ s.quiet k ∨ ovr ∨ s.copying c.takes then .next s
    else if c.isAdvance && s.morePasses c k then .next ((s.finishElems k).nextPass seq c k)
    else .next ((s.finishElems k).stepOf seq c k)
  | _, _ => .next s

/-- BATCH_STEP_BOUNDARY (R153 to R161): the boundary of a batch list of `n` entries, at dispatch or at a step's end. -/
def execBatchStepBoundary (seq : Word) (n : Half) (s : State) : Host.Outcome State Fault Refusal :=
  match s.cmd? seq with
  | none => .next s
  | some c =>
    if c.phase ≠ .running ∨ c.isAdvance ∨ (s.batchLists c).isEmpty then .next s
    else
      let s := s.updCmd seq (fun c => { c with listLen := n.toNat })
      match s.kv.waits.find? (fun b => b.seq == seq) with
      | some b => if b.posted then .next s else .next (s.updBoundary seq (fun b => { b with posted := true, list := n.toNat })).serveBoundaries
      | none => .next (s.askBoundary { seq := seq, since := s.nowUs, first := false, list := n.toNat }).serveBoundaries

/-! ### Copy-on-write -/

/-- A fault dropped from the queue. -/
def State.dropFault (s : State) (n : Nat) : State := { s with takes := { s.takes with faults := s.takes.faults.eraseIdx n } }

/-- A destination page for a copy (R41, R44, R402): from the take's reserve, then from the free pool, a reserve page of
another copy class given back in exchange. -/
def State.copyDest (s : State) (f : CowFault) : Option (Nat × State) :=
  let v := s.take f.take
  let ok := fun (b : Nat) => decide (2 ^ 60 ≤ f.src) || sameCopyClass s.hbm.out.length f.src b
  match (if v.rsvSize.toNat + 12 = f.lg then v.reserve.find? ok else none) with
  | some b => some (b, s.setTake f.take { v with reserve := v.reserve.erase b })
  | none =>
    match s.drawPage f.lg v.cls ok with
    | none => none
    | some (b, s) =>
      match (if v.rsvSize.toNat + 12 = f.lg then v.reserve else []) with
      | [] => some (b, s)
      | r :: rest => some (b, (s.setTake f.take { v with reserve := rest }).returnPage r f.lg)

/-- A copy ordered for a fault (R41, R45): by the base dies, or from host memory by migration. -/
def State.orderCopy (s : State) (f : CowFault) (dst : Nat) : State :=
  let s := { s with takes := { s.takes with locks := s.takes.locks ++ [f.src] } }.bump .io 0x043 1
  let s := if 2 ^ 60 ≤ f.src then s else (s.carryDies f.src f.lg).carryDies dst f.lg
  if 2 ^ 60 ≤ f.src then
    { s with mem := { s.mem with migs := s.mem.migs ++
      [{ leafVa := none, src := f.src % 2 ^ 60, srcLoc := 1, lg := f.lg, dst := dst, dstLoc := 0, cause := .cow f.take, held := [(f.offset, f.bytes)] }] } }
  else { s with takes := { s.takes with copies := s.takes.copies ++ [{ take := f.take, src := f.src, lg := f.lg, dst := dst, held := [(f.offset, f.bytes)] }] } }

/-- A fault that finds no page (R46): a victim's pages, the faulting take itself when no other is eligible, or
PAGE_EXHAUSTED for the command that steps it. -/
def State.copyShort (s : State) (f : CowFault) : State :=
  let h := s.holder f.take
  let seq := (s.advanceOf f.take).getD 0xFFFFFFFF#32
  if 2 ^ f.lg ≤ s.leavingBytes then s
  else
    match s.nextVictim h.cls h.born with
    | some v => s.takeVictim v seq
    | none => if (s.take f.take).state = .advancing ∧ s.swappable f.take then s.takeVictim f.take seq else s.endCmd seq .pageExhausted

/-- COW_FAULT (R41 to R46): the n-th fault the take manager holds. -/
def execCowFault (n : Half) (s : State) : Host.Outcome State Fault Refusal :=
  match s.takes.faults[n.toNat]? with
  | none => .next s
  | some f =>
    let same := fun (m : Migration) => m.cause == .cow f.take && m.src + 2 ^ 60 == f.src
    match (s.take f.take).pages.find? (fun e => e.key == f.src) with
    | none => .next (s.dropFault n.toNat)
    | some e =>
      if s.takes.copies.any (fun c => c.take == f.take && c.src == f.src) || s.mem.migs.any same then
        .next ((s.dropFault n.toNat).cowStore f.take e f.offset f.bytes)
      else if s.takes.locks.contains f.src || s.migrating f.src then .next s
      else if s.pageCount f.src ≤ 1 then
        .next ((s.dropFault n.toNat).writePlace (e.at_ f.offset) f.bytes false ((s.advanceOf f.take).getD 0xFFFFFFFF#32) 0x26)
      else
        match s.copyDest f with
        | some (b, s) => .next ((s.dropFault n.toNat).orderCopy f b)
        | none => .next (s.copyShort f)

end Sys2Proof.Machine
end

