-- ==== Sys2Proof/Machine/Move.lean ====
section
/-! DEFINITION. The memory manager's own work (11_memory_tiers): migrations (R374 to R378), the map port (R371, R372),
retention (R386, R387) and the march and background tests (R388 to R391). -/

namespace Sys2Proof.Machine

/-! ### Migrations -/

/-- The bytes of one memory's range put in another's. -/
def moveCells (src dst : Mem) (a b n : Nat) : Mem :=
  (src.filter (fun c => decide (a ≤ c.1) && decide (c.1 < a + n))).foldl (fun m c => Mem.write m (b + (c.1 - a)) c.2) (dst.clearN b n)

/-- A page's bytes moved between HBM and host memory by engine 34, its poison forwarded (R375, R405, R417). -/
def State.moveBytes (s : State) (m : Migration) : State :=
  let n := 2 ^ m.lg
  let s := (s.bump .io 0x130 (segments m.dst n)).carryDies (if m.srcLoc = 0 then m.src else m.dst) m.lg
  if m.srcLoc = 0 then
    let s := { s with mem := { s.mem with host := moveCells s.hbm.bytes s.mem.host m.src m.dst n } }
    let s := if (Tab.at s.flt.tst 2 {}).enable then
      (burstsOf m.src n).foldl (fun s b => (s.perturb 2 (hbmChannel s.hbm.out (64 * b)).1).1) s else s
    let s := (List.range 4).foldl (fun s d => s.bump (.die d) 0x120 (4 * dieBlocks s.hbm.out m.src m.lg d)) s
    (s.spoiled m.src n).foldl
      (fun s b => s.send (.hostWrite (m.dst + (64 * b - m.src)) true)) s
  else
    let s := { s with hbm := { s.hbm with
      bytes := moveCells s.mem.host s.hbm.bytes m.src m.dst n
      poison := outside s.hbm.poison m.dst n, bad := outside s.hbm.bad m.dst n } }
    (List.range 4).foldl (fun s d => s.bump (.die d) 0x121 (4 * dieBlocks s.hbm.out m.dst m.lg d)) s

/-- Stores held by a migration, released in order at its destination; a peer's are answered then (R375, R540). -/
def State.releaseMoved (s : State) (m : Migration) : State :=
  let s := m.held.foldl (fun s h =>
    if m.dstLoc = 0 then s.hbmWrite (m.dst + h.1) h.2 false
    else { s with mem := { s.mem with host := s.mem.host.writeN (m.dst + h.1) h.2 } }) s
  m.owed.foldl (fun s h => s.respond 0x04 0x23 0 h []) s

/-- The page of a migration, by its old and new keys, in every list and leaf that names it. -/
def State.renamePage (s : State) (m : Migration) : State :=
  let old := m.src + 2 ^ 60 * m.srcLoc
  let new := m.dst + 2 ^ 60 * m.dstLoc
  let fix := fun (e : PageEnt) => if e.key == old then { e with page := m.dst, swapped := m.dstLoc != 0 } else e
  let cls := match m.cause with | .hint q => ((s.cmd? q).map Cmd.cls).getD 0 | _ => 0
  { s with
    mem := { s.mem with leaves := s.mem.leaves.map (fun l =>
      if l.addr == m.src && l.loc == m.srcLoc then
        { l with addr := m.dst, loc := m.dstLoc, mig := false, pin := l.pin || m.pinNow, drawn := some (l.drawn.getD cls) } else l) }
    takes := { s.takes with
      takes := s.takes.takes.map (fun p => (p.1, { p.2 with pages := p.2.pages.map fix }))
      counts := match Tab.find s.takes.counts old with
        | some n => Tab.put (Tab.del s.takes.counts old) new n
        | none => s.takes.counts
      faults := s.takes.faults.map (fun f => if f.src == old then { f with src := new } else f) }
    kv := { s.kv with seqs := s.kv.seqs.map (fun p => (p.1, { p.2 with pages := p.2.pages.map fix })) } }

/-- The die at which a migration is counted: that of the HBM page (R393). -/
def Migration.die (m : Migration) (out : List Nat) : Nat := dieOfChan (hbmChannel out (if m.srcLoc = 0 then m.src else m.dst)).1

/-- A hint's page moved; the command ends with its last (R378). -/
def State.hintMoved (s : State) (seq : Word) : State :=
  match s.mem.hints.find? (fun h => h.seq == seq) with
  | none => s
  | some h =>
    let h := { h with left := h.left - 1, moved := h.moved + 1 }
    if h.left = 0 then
      { s with mem := { s.mem with hints := s.mem.hints.filter (fun k => k.seq != seq) } }.finish seq .ok (resultOf [(4, h.moved), (4, h.skipped)])
    else { s with mem := { s.mem with hints := s.mem.hints.map (fun k => if k.seq == seq then h else k) } }

/-- A migration's copy complete (R375): its page renamed, held stores released, its source freed; a page no list holds any
more is freed at both places (R377). -/
def State.migrated (s : State) (m : Migration) : State :=
  let s := { s with mem := { s.mem with migs := s.mem.migs.erase m, regs := { s.mem.regs with migCnt := s.mem.regs.migCnt + 1 } } }
  let s := (s.moveBytes m).bump (.die (m.die s.hbm.out)) 0x111 1
  match m.cause with
  | .cow t => s.settleCopy t (m.src + 2 ^ 60) m.lg m.dst m.held
  | _ =>
    let s := (s.renamePage m).releaseMoved m
    let s := if m.srcLoc = 0 then s.returnPage m.src m.lg else s.freeSwap m.src m.lg
    let key := m.dst + 2 ^ 60 * m.dstLoc
    let s := if Tab.find s.takes.counts key = some 0 then (s.freeIfZero key m.lg).1 else s
    match m.cause with
    | .hint q => s.hintMoved q
    | _ => s

/-- SWAP_OUT_PAGE_DONE (R159): the n-th migration under way, a victim's page on its way to the swap region. -/
def execSwapOutPageDone (n : Half) (s : State) : Host.Outcome State Fault Refusal :=
  match s.mem.migs[n.toNat]? with
  | none => .next s
  | some m => match m.cause with
    | .swapOut _ => .next (s.migrated m).serveBoundaries
    | _ => .next s

/-- A page move begun: its leaf marked (R375). -/
def State.beginMove (s : State) (m : Migration) : State :=
  { s with mem := { s.mem with
      migs := s.mem.migs ++ [m]
      leaves := s.mem.leaves.map (fun l => if some l.va == m.leafVa then { l with mig := true } else l) } }

/-- Whether a leaf's page may migrate (R374, R377): unpinned, not peer memory, not moving, not copy-locked, of count 1 at most. -/
def State.leafMoves (s : State) (l : Leaf) : Bool :=
  let key := l.addr + 2 ^ 60 * l.loc
  !l.pin && !l.mig && decide (l.loc < 2) && decide (s.pageCount key ≤ 1) && !s.takes.locks.contains key && !s.migrating key

/-- The pages a MIGRATE_HINT moves, each with its destination: none when the pool cannot supply them. -/
def State.hintMoves (s : State) (seq : Word) (cls tier : Nat) (pin : Bool) : List Leaf → Option State
  | [] => some s
  | l :: rest =>
    let m : Migration := { leafVa := some l.va, src := l.addr, srcLoc := l.loc, lg := l.lg, dst := 0, dstLoc := tier, cause := .hint seq, pinNow := pin }
    if tier = 0 then
      match s.drawPage l.lg (l.drawn.getD cls) (fun _ => true) with
      | none => none
      | some (b, s) => State.hintMoves (s.beginMove { m with dst := b }) seq cls tier pin rest
    else
      match s.swapPlace l.lg with
      | none => State.hintMoves s seq cls tier pin rest
      | some b => State.hintMoves ((s.takeSwap b l.lg).beginMove { m with dst := b }) seq cls tier pin rest

/-- A MIGRATE_HINT on its range (R378; unmapped space is counted in 4 KiB pages, log entry 23). -/
def State.migrateHint (s : State) (seq : Word) (c : Cmd) : State :=
  let va := c.fieldN 24 8
  let n := c.fieldN 32 8
  let tier := c.fieldN 40 1 % 4
  let pin := (c.fieldN 40 1).testBit 2
  let ovr := s.mem.leaves.filter (fun l => decide (l.va < va + n) && decide (va < l.va + 2 ^ l.lg))
  let go := ovr.filter (fun l => s.leafMoves l && l.loc != tier)
  match s.hintMoves seq c.cls tier pin go with
  | none => s.finishBare seq .pageExhausted
  | some t =>
    let moving := (t.mem.migs.filter (fun m => m.cause == .hint seq)).length
    let covered := ovr.foldl (fun a l => a + (min (va + n) (l.va + 2 ^ l.lg) - max va l.va)) 0
    let skipped := (ovr.length - moving) + ceilDiv (n - covered) 4096
    let t := if pin then
        { t with mem := { t.mem with leaves := t.mem.leaves.map (fun l =>
          if l.loc == tier && !l.mig && ovr.any (fun k => k.va == l.va) then { l with pin := true } else l) } } else t
    if moving = 0 then t.finish seq .ok (resultOf [(4, 0), (4, skipped)])
    else
      let t := { t with mem := { t.mem with hints := t.mem.hints ++ [({ seq := seq, left := moving, moved := 0, skipped := skipped } : HintRun)] } }
      t.updCmd seq (fun c => { c with phase := .running })

/-- MIGRATE_HINT (R378). -/
def execMigrateHint (seq : Word) (s : State) : Host.Outcome State Fault Refusal :=
  match s.turnOf seq 0x42 with
  | none => .next s
  | some c =>
    if c.fieldN 32 8 = 0 then .next (s.finishBare seq .zeroExtent)
    else
      match s.firstOwnBad seq [⟨c.fieldN 24 8, 0, false, 4096⟩] with
      | some va => .next (s.refuseOwn seq va)
      | none => .next (s.migrateHint seq c)

/-- Whether a page is the source of a prefetch issued and not complete (R376). -/
def State.prefetching (s : State) (l : Leaf) : Bool :=
  s.cmds.any (fun (p : Nat × Cmd) => p.2.prefs.any (fun r => !r.done && decide (r.src < l.va + 2 ^ l.lg) && decide (l.va < r.src + r.bytes)))

/-- Leaves in the order of their last translation. -/
def useOrder (l : List Leaf) : List Leaf :=
  l.foldl (fun acc k => acc.takeWhile (fun j => decide (j.used ≤ k.used)) ++ [k] ++ acc.dropWhile (fun j => decide (j.used ≤ k.used))) []

/-- Pages demoted until the pool, with those on their way out, reaches the high mark (R376). -/
def State.demote (s : State) (high : Nat) : Nat → List Leaf → State
  | _, [] => s
  | gone, l :: rest =>
    if high ≤ s.freeBytes + gone then s
    else
      match s.swapPlace l.lg with
      | none => State.demote s high gone rest
      | some b => State.demote ((s.takeSwap b l.lg).beginMove
          { leafVa := some l.va, src := l.addr, srcLoc := 0, lg := l.lg, dst := b, dstLoc := 1, cause := .demote }) high (gone + 2 ^ l.lg) rest

/-- HBM bytes on their way out by demotion. -/
def State.demoting (s : State) : Nat := s.mem.migs.foldl (fun a m => if m.cause = .demote then a + 2 ^ m.lg else a) 0

/-- DEMOTION (R376). -/
def execDemotion (s : State) : Host.Outcome State Fault Refusal :=
  let unit := 67108864
  if s.freeBytes < s.mem.regs.waterLow.toNat * unit then
    .next (s.demote (s.mem.regs.waterHigh.toNat * unit) s.demoting
      (useOrder (s.mem.leaves.filter (fun l => l.loc == 0 && s.leafMoves l && !s.prefetching l))))
  else .next s

/-! ### The map port -/

/-- The result codes of MEM_MAP_STATUS (R392). -/
inductive MapRes where
  | done | exhausted | overlap | align | notMapped
  deriving DecidableEq, Repr

/-- The code of a result. -/
def MapRes.code : MapRes → Nat
  | .done => 0 | .exhausted => 1 | .overlap => 2 | .align => 3 | .notMapped => 4

/-- The operation the map port's registers name. -/
def State.mapOp (s : State) : MapOp :=
  let r := s.mem.regs
  { op := r.mapOp.toNat, count := r.mapCount.toNat, va := r.mapVa.toNat, lg := fld r.mapEntry.toNat 2 5 + 12, entry := r.mapEntry.toNat }

/-- The address an operation's pages are mapped from. -/
def MapOp.addr (o : MapOp) : Nat := fld o.entry 12 40 * 4096

/-- Bytes of the range of an operation. -/
def MapOp.bytes (o : MapOp) : Nat := o.count * 2 ^ o.lg

/-- Whether an operation fails with ALIGN (R371, check 1). -/
def MapOp.misaligned (o : MapOp) : Bool :=
  o.count == 0 || decide (4 < o.op) || decide (30 < o.lg) || o.va % 2 ^ o.lg != 0 || (o.op == 1 && o.addr % 2 ^ o.lg != 0) ||
  decide (2 ^ 56 < o.va + o.bytes) || (o.op == 0 && decide (2 ≤ fld o.entry 62 2)) ||
  (o.op == 1 && (fld o.entry 7 2 == 0 || fld o.entry 7 2 == 3))

/-- The leaves an operation's range meets. -/
def State.mapMeets (s : State) (o : MapOp) : List Leaf :=
  s.mem.leaves.filter (fun l => decide (l.va < o.va + o.bytes) && decide (o.va < l.va + 2 ^ l.lg))

/-- The first check an operation fails (R371), PAGE_EXHAUSTED apart. -/
def State.mapCheck (s : State) (o : MapOp) : Option MapRes :=
  let on := s.mapMeets o
  if o.misaligned then some .align
  else if (decide (o.op ≤ 1) && !on.isEmpty) || decide (0x00F0000000000000 < o.va + o.bytes) then some .overlap
  else if decide (2 ≤ o.op) && !(on.all (fun l => l.lg == o.lg) && on.length == o.count) then some .notMapped
  else none

/-- New leaves written (R371). -/
def State.addLeaves (s : State) (o : MapOp) (loc fabric : Nat) (addrs : List Nat) (drawn : Option Nat) : State :=
  let wr := o.entry.testBit 9
  let pin := o.entry.testBit 10
  { s with mem := { s.mem with leaves := ((List.range addrs.length).zip addrs).foldl (fun ls p =>
      insLeaf { va := o.va + p.1 * 2 ^ o.lg, lg := o.lg, loc := loc, wr := wr, pin := pin, addr := p.2, fabric := fabric, drawn := drawn } ls) s.mem.leaves } }

/-- The entries of a checked operation written: its result. -/
def State.mapApply (s : State) (o : MapOp) : State × MapRes :=
  let on := s.mapMeets o
  let inside := fun (l : Leaf) => on.any (fun k => k.va == l.va)
  let each := fun (f : Leaf → Leaf) => { s with mem := { s.mem with leaves := s.mem.leaves.map (fun l => if inside l then f l else l) } }
  match o.op with
  | 0 =>
    let cls := fld o.entry 62 2
    match s.drawPages o.lg cls o.count with
    | none => (s, .exhausted)
    | some (bs, s) => (s.addLeaves o 0 0 bs (some cls), .done)
  | 1 => (s.addLeaves o (fld o.entry 7 2) (fld o.entry 52 12) (tabulate o.count (fun i => o.addr + i * 2 ^ o.lg)) none, .done)
  | 2 =>
    let back := on.filter (fun l => l.drawn.isSome && s.pageCount (l.addr + 2 ^ 60 * l.loc) == 0)
    ({ s with mem := { s.mem with
        leaves := s.mem.leaves.filter (fun l => !inside l)
        drainTo := s.mem.drainTo ++ back.map (fun l => (l.addr + 2 ^ 60 * l.loc, l.lg)) } }, .done)
  | 3 => (each (fun l => { l with wr := o.entry.testBit 9 }), .done)
  | _ => (each (fun l => { l with pin := o.entry.testBit 10 }), .done)

/-- The map port's registers changed. -/
def State.mapRegs (s : State) (f : MemRegs → MemRegs) : State := { s with mem := { s.mem with regs := f s.mem.regs } }

/-- A map operation run (R371, R372): held while a page of it migrates; a failed one is over at once. -/
def State.mapRun (s : State) (o : MapOp) : State :=
  match s.mapCheck o with
  | some r => s.mapRegs (fun m => { m with mapBusy := false, mapHeld := false, mapResult := BitVec.ofNat 3 r.code })
  | none =>
    if (s.mapMeets o).any Leaf.mig then s.mapRegs (fun m => { m with mapBusy := true, mapHeld := true })
    else
      match s.mapApply o with
      | (s, r) => s.mapRegs (fun m => { m with mapBusy := r == .done, mapHeld := false, mapResult := BitVec.ofNat 3 r.code })

/-- MEM_MAP_CTL written (R371, R392): an operation keeps the operands that its GO found; while it runs only GO is ignored. -/
def State.mapCtl (s : State) (v : Nat) : State :=
  let go := v.testBit 31
  let s := s.mapRegs (fun m => { m with mapOp := BitVec.ofNat 3 v, mapCount := BitVec.ofNat 24 (v / 16) })
  if !go then s
  else if s.mem.regs.mapBusy then s.mapRegs (fun m => { m with overrun := true })
  else (s.mapRegs (fun m => { m with mapJob := some s.mapOp })).mapRun s.mapOp

/-- A map operation started by its row. -/
def State.mapGo (s : State) (op : Nat) (count : BitVec 24) : State :=
  let v := op + 16 * count.toNat + 2 ^ 31
  if s.barTakes .endC then s.mapCtl v else s.barDropped 0x80030

/-- ALLOC (R371). -/
def execAlloc (count : BitVec 24) (s : State) : Host.Outcome State Fault Refusal := .next (s.mapGo 0 count)
/-- MAP (R371). -/
def execMap (count : BitVec 24) (s : State) : Host.Outcome State Fault Refusal := .next (s.mapGo 1 count)
/-- UNMAP (R371). -/
def execUnmap (count : BitVec 24) (s : State) : Host.Outcome State Fault Refusal := .next (s.mapGo 2 count)
/-- PROTECT (R371). -/
def execProtect (count : BitVec 24) (s : State) : Host.Outcome State Fault Refusal := .next (s.mapGo 3 count)
/-- PIN (R371). -/
def execPin (count : BitVec 24) (s : State) : Host.Outcome State Fault Refusal := .next (s.mapGo 4 count)

/-- MAP_DRAIN_DONE (R372): the pages an UNMAP cleared return, and BUSY clears. -/
def execMapDrainDone (s : State) : Host.Outcome State Fault Refusal :=
  if !s.mem.regs.mapBusy || s.mem.regs.mapHeld then .next s
  else
    let back := s.mem.drainTo
    let s := { s with mem := { s.mem with drainTo := [] } }
    .next ((back.foldl (fun s p => s.freePage p.1 p.2) s).mapRegs (fun m => { m with mapBusy := false }))

/-- MIGRATION_COPY_DONE (R375, R377): the n-th migration under way, a swap-out apart. -/
def execMigrationCopyDone (n : Half) (s : State) : Host.Outcome State Fault Refusal :=
  match s.mem.migs[n.toNat]? with
  | none => .next s
  | some m => match m.cause with
    | .swapOut _ => .next s
    | _ =>
      let s := s.migrated m
      let s := match s.mem.regs.mapJob with
        | some o => if s.mem.regs.mapHeld && !(s.mapMeets o).any Leaf.mig then s.mapRun o else s
        | none => s
      .next s.serveBoundaries

/-! ### Retention -/

/-- Whether a core has an occupied shelf slot. -/
def State.shelfHeld (s : State) (w : Nat) : Bool :=
  s.reels.reels.any (fun p => match p.2.place with | some q => q.shelf && q.core == w | none => false)

/-- Whether a placed kernel or an occupied shelf slot holds a bank (R386, R390): kinds 0 scratchpad, 1 operand cache,
2 cluster memory. -/
def State.bankHeld (s : State) (b : Nat × Nat × Nat) : Bool :=
  if b.1 = 2 then s.sched.kerns.any (fun k => !k.cores.isEmpty && (k.banksIn b.2.1).contains b.2.2)
  else (s.core b.2.1).owner.isSome || s.shelfHeld b.2.1

/-- Whether the device has a bank. -/
def bankExists (b : Nat × Nat × Nat) : Bool :=
  if b.1 = 2 then decide (b.2.1 < 32) && decide (b.2.2 < 64) else decide (b.1 < 2) && decide (b.2.1 < 544) && decide (b.2.2 < 16)

/-- RETENTION_ENTRY (R386): a bank idle for IDLE_US. -/
def execRetentionEntry (kind : BitVec 2) (unit : Half) (bank : Byte) (s : State) : Host.Outcome State Fault Refusal :=
  let b := (kind.toNat, unit.toNat, bank.toNat)
  let m := s.mem.regs
  if m.idleUs = 0 ∨ m.forceWake ∨ ¬ bankExists b ∨ s.bankHeld b ∨ s.mem.retained.contains b ∨ s.mem.marBanks.contains b then .next s
  else .next { s with mem := { s.mem with retained := s.mem.retained ++ [b] } }

/-- Kernels that wait for their stage looked at again. -/
def State.dispatchStages (s : State) : State :=
  (s.sched.kerns.filter (fun (k : Kern) => k.phase == KernPhase.staging)).foldl (fun s k =>
    match s.kern? k.seq k.layer with | some k => s.dispatchStage k | none => s) s

/-- BANK_WAKE (R387). -/
def execBankWake (kind : BitVec 2) (unit : Half) (bank : Byte) (s : State) : Host.Outcome State Fault Refusal :=
  .next (s.wakeBank (kind.toNat, unit.toNat, bank.toNat)).dispatchStages

/-! ### March and background tests -/

/-- A failing bank: its kind, unit and number, and its first failing 64-bit word. -/
structure BankFail where
  kind : Nat
  unit : Nat
  bank : Nat
  word : Nat
  deriving DecidableEq, Repr

/-- The physical SRAM address of a word of a bank (R366, R384). -/
def BankFail.sram (f : BankFail) : Nat :=
  let spread := (f.word / 8 * 16 + f.bank) * 64 + f.word % 8 * 8
  match f.kind with
  | 0 => sramCore f.unit spread
  | 1 => sramCore f.unit (0x180000 + spread)
  | _ => sramCluster f.unit (f.bank * bankBytes + 8 * f.word)

/-- A cluster memory bank mapped out, at once or when no allocation holds it (R389, R620). -/
def State.mapOutBank (s : State) (n b : Nat) : State :=
  if (s.heldBanks n).contains b then { s with mem := { s.mem with toMapOut := s.mem.toMapOut ++ [(n, b)] } }
  else { s with mem := { s.mem with cmOut := Tab.put s.mem.cmOut n (Tab.at s.mem.cmOut n 0 ||| BitVec.ofNat 64 (2 ^ b)) } }

/-- A failing bank handled (R389): a report that fences its core, or a cluster memory bank mapped out. -/
def State.bankFailed (s : State) (f : BankFail) : State :=
  if f.kind = 2 then s.mapOutBank f.unit f.bank
  else s.report 0x10 (subjCore f.unit) (subjCore f.unit) 0xFFFFFFFF#32 (0x16 * 2 ^ 52 + f.sram)

/-- Every bank of a core. -/
def coreBanks (w : Nat) : List (Nat × Nat × Nat) := (List.range 16).map (fun b => (0, w, b)) ++ (List.range 16).map (fun b => (1, w, b))

/-- Every bank of a cluster memory. -/
def clusterBanks (n : Nat) : List (Nat × Nat × Nat) := (List.range 64).map (fun b => (2, n, b))

/-- Every bank of the device in the order of R391. -/
def allBanks : List (Nat × Nat × Nat) := (List.range 32).flatMap (fun n => (List.range 17).flatMap (fun k => coreBanks (17 * n + k)) ++ clusterBanks n)

/-- The banks a march test request names: none where it is refused (R390; a reserved SCOPE or an absent core is refused,
log entry 24). -/
def State.marchTarget (s : State) (scope die cluster core : Nat) : Option (List (Nat × Nat × Nat)) :=
  let n := 8 * die + cluster
  let whole := fun l => if l.any (fun b => s.bankHeld b) then none else some l
  match scope with
  | 0 => some (allBanks.filter (fun b => !s.bankHeld b))
  | 1 => if core < 17 then whole (coreBanks (17 * n + core)) else none
  | 2 => whole (clusterBanks n)
  | _ => none

/-- MEM_MARCH_CTL written (R390, R392). -/
def State.marchCtl (s : State) (v : Nat) : State :=
  let s := s.mapRegs (fun m => { m with
    marScope := BitVec.ofNat 2 v, marPreserve := v.testBit 2, marDie := BitVec.ofNat 2 (fld v 8 2)
    marCluster := BitVec.ofNat 3 (fld v 10 3), marCore := BitVec.ofNat 5 (fld v 13 5) })
  if !v.testBit 31 ∨ s.mem.regs.marBusy then s
  else
    match s.marchTarget (v % 4) (fld v 8 2) (fld v 10 3) (fld v 13 5) with
    | none => s.mapRegs (fun m => { m with marResult := 2 })
    | some l =>
      let s := l.foldl (fun s b => s.wakeBank b) s
      { s with mem := { s.mem with marBanks := l, marKeep := v.testBit 2 } }.mapRegs (fun m => { m with marBusy := true })

/-- MARCH_TEST_START (R390). -/
def execMarchTestStart (ctl : Word) (s : State) : Host.Outcome State Fault Refusal :=
  let v := ctl.toNat ||| 2 ^ 31
  if s.barTakes .endC then .next (s.marchCtl v) else .next (s.barDropped 0x80060)

/-- The bytes of a bank cleared. -/
def State.clearBank (s : State) (b : Nat × Nat × Nat) : State :=
  let keep := fun (c : Host.Cell) =>
    match b.1 with
    | 2 => !(decide (sramCluster b.2.1 (b.2.2 * bankBytes) ≤ c.1) && decide (c.1 < sramCluster b.2.1 ((b.2.2 + 1) * bankBytes)))
    | k => let o := c.1 - sramCore b.2.1 0
           !(decide (sramCore b.2.1 0 ≤ c.1) && decide (o < 0x1C0000) && (k == 0) == decide (o < 0x180000) && fld o 6 4 == b.2.2)
  { s with mem := { s.mem with sram := s.mem.sram.filter keep } }

/-- MEM_MARCH_FAIL (R392). -/
def BankFail.word64 (f : BankFail) : Dword :=
  let n := if f.kind = 2 then f.unit else clusterOf f.unit
  BitVec.ofNat 64 (f.kind + 4 * dieOfCluster n + 16 * (n % 8) + 128 * (if f.kind = 2 then 0 else f.unit % 17) + 4096 * f.bank + 2 ^ 18 * f.word)

/-- MARCH_TEST_DONE (R389, R390): the test under way ends with some failing banks. -/
def execMarchTestDone (fails : List SramFail) (s : State) : Host.Outcome State Fault Refusal :=
  if !s.mem.regs.marBusy then .next s
  else
    let fs := (fails.map (fun f => (⟨f.kind.toNat, f.unit.toNat, f.bank.toNat, f.word.toNat⟩ : BankFail))).filter (fun f => s.mem.marBanks.contains (f.kind, f.unit, f.bank))
    let s := if s.mem.marKeep then s else s.mem.marBanks.foldl (fun s b => s.clearBank b) s
    let s := fs.foldl (fun s f => s.bankFailed f) s
    let s := { s with mem := { s.mem with marBanks := [] } }
    .next (s.mapRegs (fun m => { m with
      marBusy := false, marResult := if fs = [] then 0 else 1, marFails := BitVec.ofNat 16 fs.length
      marFail := match fs with | f :: _ => f.word64 | [] => m.marFail }))

/-- 4 KiB regions of a bank (R384). -/
def bankRegions (b : Nat × Nat × Nat) : Nat := match b.1 with | 0 => 24 | 1 => 4 | _ => 96

/-- The number of a bank in the order of R391, and the bank of a number: 608 banks a cluster. -/
def bankAt (i : Nat) : Nat × Nat × Nat :=
  let n := i / 608
  let k := i % 608
  if k < 544 then (k % 32 / 16, 17 * n + k / 32, k % 16) else (2, n, k - 544)

/-- The next region the background test takes, from a position: bank number times 96 plus the region. -/
def State.nextRegion (s : State) (pos : Nat) : Option Nat :=
  let fits := fun p => decide (p % 96 < bankRegions (bankAt (p / 96))) && !s.bankHeld (bankAt (p / 96))
  if fits pos then some pos
  else
    (firstFrom (fun k => !s.bankHeld (bankAt ((pos / 96 + 1 + k) % 19456))) 19456 0).map (fun k => (pos / 96 + 1 + k) % 19456 * 96)

/-- BG_TEST_REGION (R391). -/
def execBgTestRegion (failed : Bool) (word : Half) (s : State) : Host.Outcome State Fault Refusal :=
  if !s.mem.regs.bgEnable then .next s
  else
    match s.nextRegion s.mem.bgPos with
    | none => .next s
    | some p =>
      let b := bankAt (p / 96)
      let s := s.wakeBank b
      let s := { s with mem := { s.mem with bgPos := (p + 1) % (19456 * 96) } }
      let s := s.mapRegs (fun m => { m with bgRegions := m.bgRegions + 1, bgFail := m.bgFail || failed })
      .next (if failed then s.bankFailed ⟨b.1, b.2.1, b.2.2, p % 96 * 512 + word.toNat % 512⟩ else s)

end Sys2Proof.Machine
end

