-- ==== Sys2Proof/Machine/Pass.lean ====
section
/-! DEFINITION. Dispatch and the scheduling pass (R330 to R343): a command begun, its kernels and layers placed, pieces
and slices one after another, pre-emption for a latency-critical command and at the end of a quantum, saves and
restores, and a kernel's completion. -/

namespace Sys2Proof.Machine

/-! ### Layers -/

/-- The layers of the slice a command runs: 0 alone for a kernel or a step program (R343, R505). -/
def State.sliceLayers (s : State) (c : Cmd) : List Nat :=
  match s.graphOf c with
  | none => [0]
  | some g =>
    let lo := nth g.slices c.curSlice 0
    let hi := (g.slices[c.curSlice + 1]?).getD g.layers.length
    (List.range (hi - lo)).map (fun i => lo + i)

/-- Whether a layer depends on an earlier one (R505). -/
def GraphEnt.depends (g : GraphEnt) (l j : Nat) : Bool := decide (64 < l - j) || ((g.layers[l]?).map (fun e => e.2.testBit (l - j - 1))).getD false

/-- The kernel entry a layer runs: its index and the entry. -/
def State.layerKernel (s : State) (c : Cmd) (l : Nat) : Option (Nat × KernelEnt) :=
  match s.progOf c.programRef with
  | none => none
  | some p =>
    let i := match s.graphOf c with | some g => ((g.layers[l]?).map Prod.fst).getD 65536 | none => c.entry
    (p.kernels[i]?).map (fun k => (i, k))

/-- The layers of a running command that may be placed: not done, not placed, what they depend on done (R333). -/
def State.openLayers (s : State) (seq : Word) (c : Cmd) : List Nat :=
  (s.sliceLayers c).filter (fun l =>
    !c.layersDone.contains l && (s.kern? seq l).isNone &&
    (match s.graphOf c with
     | some g => (s.sliceLayers c).all (fun j => !decide (j < l) || c.layersDone.contains j || !g.depends l j)
     | none => true))

/-! ### Placing -/

/-- Best-effort kernels ordered off a placement for a latency-critical command (R334, R335); one being restored is left
until it runs. -/
def State.makeRoom (s : State) (seq : Word) (k : KernelEnt) (cls : Nat) : State :=
  match s.takenSpot seq k cls with
  | none => s
  | some p =>
    ((s.spotHolders p).filter (fun h => h.phase == .running || h.phase == .staging)).foldl (fun s h =>
      (s.setKern { h with forCmd := some seq }).preempt { h with forCmd := some seq } .latency) s

/-- A layer's kernel placed where a placement is free, and whether it was; for a latency-critical command room is made
where none is (R333 to R335). -/
def State.placeLayer (s : State) (seq : Word) (c : Cmd) (l : Nat) : State × Bool :=
  match s.layerKernel c l with
  | none => (s, false)
  | some (i, k) =>
    match s.freeSpot k c.cls with
    | some p => (s.placeKernel seq l c.programRef i c.cls k p, true)
    | none => (if c.cls = 0 then s.makeRoom seq k c.cls else s, false)

/-- Whether the device has no placement left that a layer's kernel could use (R329). -/
def State.noSpot (s : State) (c : Cmd) (l : Nat) : Bool := ((s.layerKernel c l).map (fun q => !s.spotExists q.2)).getD false

/-- Every open layer of a running command placed where it can be, and its stage reached; an advance whose kernel lost its
placement is placed again and repeats its step (R627); a layer that no placement is left for ends the command (R329). -/
def State.moreLayers (s : State) (seq : Word) : State :=
  match s.cmd? seq with
  | none => s
  | some c =>
    if c.phase ≠ .running ∨ c.sealed then s
    else if c.isAdvance then
      if (s.kern? seq 0).isSome then s
      else if s.noSpot c 0 then s.endCmd seq .coreFenced
      else match s.placeLayer seq c 0 with
        | (s, true) => if s.atBoundary seq then s else s.startStep seq false
        | (s, false) => s
    else (s.openLayers seq c).foldl (fun s l =>
      match s.cmd? seq with
      | none => s
      | some c =>
        if s.noSpot c l then s.endCmd seq .coreFenced else
        match s.placeLayer seq c l with
        | (s, true) => s.reachStage seq l (if c.opcode = 0x03 then l else 0)
        | (s, false) => s) s

/-! ### Beginning a command -/

/-- A take about to be advanced: ADVANCING, its KV page size settled (R139); one left pre-empted waits to resume. -/
def State.beginTake (s : State) (tok t : Nat) : State :=
  let v := s.take t
  let lg := if v.kvLg = 0 ∧ tok ≠ 0 then (autoKvLg tok (s.sheet 53 1) v.tokens v.tokens).getD 0 else v.kvLg
  s.setTake t { v with kvLg := lg, grown := false, state := if v.state = .idle then .advancing else v.state }

/-- The tile counters of a command's piece. -/
def State.pieceCounters (s : State) (seq : Word) (c : Cmd) (pc : Piece) : List (Nat × TileCtr) :=
  (s.kernelsOf c).flatMap (fun k => s.countersOf seq c k pc)

/-- A dispatched command's first work, its kernel placed: its piece begun, its boundary asked for, its lists read, its
stage reached (R153, R316, R380, R464). -/
def State.beginWork (s : State) (seq : Word) : State :=
  let s := s.beginPiece seq 0
  match s.cmd? seq, s.kern? seq 0 with
  | some c, some k =>
    if c.isAdvance then (s.askBoundary { seq := seq, since := s.nowUs, first := true }).serveBoundaries
    else
      let s := if (s.batchLists c).isEmpty then s else s.askBoundary { seq := seq, since := s.nowUs, first := true, posted := false }
      ((s.startSamples seq k).reachStage seq 0 0).moreLayers seq
  | _, _ => s

/-- A checked command dispatched, once its counters and a placement are to be had (R331, R357). -/
def State.dispatch (s : State) (seq : Word) (c : Cmd) (pieces : List Piece) (takes : List Nat) : State :=
  let pc := nth pieces 0 ⟨[], [], 0xFF⟩
  if !s.counterRoom seq (s.pieceCounters seq c pc) then s
  else
    match s.placeLayer seq c 0 with
    | (s, false) => s
    | (s, true) =>
      let d := c.fieldN 36 4
      let s := s.updCmd seq (fun c => { c with
        phase := .running, started := some s.nowUs, pieces := pieces, takes := takes
        deadlineAt := if c.isAdvance && d != 0 then some (s.nowUs + d) else none
        areas := { c.areas with point0 := pc.point } })
      (takes.foldl (fun s t => s.beginTake (s.tokenOf c) t) s).beginWork seq

/-- Whether an earlier command of the class that HOLD_LIMIT protects is still to be placed (R332). -/
def State.heldBack (s : State) (seq : Word) (c : Cmd) : Bool :=
  s.cmds.any (fun (p : Nat × Cmd) => p.2.holding && p.2.phase == .waiting && p.2.cls == c.cls &&
    seqBefore (BitVec.ofNat 32 p.1) seq && (s.turn (BitVec.ofNat 32 p.1)).isSome)

/-- A command looked at by the scheduler: a running one for its open layers, a ready one for its dispatch, its checks
first (R331, R499). -/
def State.tryCommand (s : State) (seq : Word) : State :=
  match s.cmd? seq with
  | none => s
  | some c =>
    if c.phase = .running then s.moreLayers seq
    else
      match s.turn seq with
      | none => s
      | some c =>
        if s.heldBack seq c then s
        else if c.isAdvance then
          match s.advanceCheck seq c with
          | .error r => s.refuse seq r
          | .ok takes => s.dispatch seq c [⟨[], [], 0xFF⟩] takes
        else if c.isRun then
          match s.runCheck seq c with
          | .error r => s.refuse seq r
          | .ok pieces => s.dispatch seq c pieces []
        else s

/-- RUN_KERNEL (R499): dispatched when its turn has come and a placement is to be had. -/
def execRunKernel (seq : Word) (s : State) : Host.Outcome State Fault Refusal :=
  match s.turnOf seq 0x02 with | none => .next s | some _ => .next (s.tryCommand seq)

/-- RUN_GRAPH (R499). -/
def execRunGraph (seq : Word) (s : State) : Host.Outcome State Fault Refusal :=
  match s.turnOf seq 0x03 with | none => .next s | some _ => .next (s.tryCommand seq)

/-- ADVANCE_TAKES (R58 to R61). -/
def execAdvanceTakes (seq : Word) (s : State) : Host.Outcome State Fault Refusal :=
  match s.turnOf seq 0x11 with | none => .next s | some _ => .next (s.tryCommand seq)

/-! ### The pass -/

/-- What a pass may place: a command, or a pre-empted kernel, with its time and sequence number. -/
structure PassItem where
  seq   : Word
  kern  : Option Nat      -- the layer of a pre-empted kernel
  time  : Nat
  deriving DecidableEq, Repr

/-- Whether one item is placed before another: by sequence number alone, or by time and then sequence number (R331). -/
def PassItem.before (a b : PassItem) (timed : Bool) : Bool :=
  if timed && a.time != b.time then decide (a.time < b.time) else seqBefore a.seq b.seq

/-- An item put in the order of a pass. -/
def passIns (timed : Bool) (x : PassItem) : List PassItem → List PassItem
  | [] => [x]
  | y :: r => if x.before y timed then x :: y :: r else y :: passIns timed x r

/-- The commands of a class that a pass looks at. -/
def State.passCmds (s : State) (cls : Nat) : List PassItem :=
  (s.cmds.filter (fun (p : Nat × Cmd) => (p.2.isRun || p.2.isAdvance) && p.2.cls == cls && p.2.phase != .recorded && p.2.readyAt.isSome)).map
    (fun (p : Nat × Cmd) => ⟨BitVec.ofNat 32 p.1, none, p.2.readyAt.getD 0⟩)

/-- The pre-empted kernels that wait to be placed again. -/
def State.passKerns (s : State) : List PassItem :=
  (s.sched.kerns.filter (fun (k : Kern) => k.phase == KernPhase.saved)).map (fun k => ⟨k.seq, some k.layer, k.queueAt⟩)

/-- The items of a pass in order (R331). -/
def State.passItems (s : State) : List PassItem :=
  (s.passCmds 0).foldl (fun l x => passIns false x l) [] ++ (s.passCmds 1 ++ s.passKerns).foldl (fun l x => passIns true x l) []

/-- A pre-empted kernel placed again where its allocation lies, if a placement is free (R340). -/
def State.tryResume (s : State) (seq : Word) (layer : Nat) : State :=
  match s.kern? seq layer with
  | none => s
  | some k =>
    if k.phase ≠ .saved ∨ s.stopped then s
    else
      match (spotsOf k.size).find? (fun p => s.spotResumes k p) with
      | some p => s.resumeKernel k p
      | none => s

/-- SCHEDULING_PASS (R331 to R335, R340), the swap-ins that imports ask for first (R123). -/
def execSchedulingPass (s : State) : Host.Outcome State Fault Refusal :=
  let s := s.bringWanted
  .next (s.passItems.foldl (fun s x => match x.kern with
    | some l => s.tryResume x.seq l
    | none => s.tryCommand x.seq) s)

/-- HOLD_LIMIT_EXPIRY (R332). -/
def execHoldLimitExpiry (seq : Word) (s : State) : Host.Outcome State Fault Refusal :=
  match s.cmd? seq with
  | none => .next s
  | some c =>
    match c.readyAt with
    | none => .next s
    | some t =>
      if c.phase = .waiting ∧ t + s.sched.regs.holdLimit.toNat ≤ s.nowUs then .next (s.setCmd seq { c with holding := true }) else .next s

/-- Whether the pre-emption of one kernel would free a placement for another (R342). -/
def State.wouldFree (s : State) (k : KernelEnt) (cls : Nat) (h : Kern) : Bool :=
  (spotsOf k.size).any (fun p => s.spotFits k p && !(s.spotCores p).isEmpty && p.clusters.all (fun n => s.supplies k cls n) &&
    (s.spotCores p).all (fun w => h.cores.contains w || s.coreOpen w) && (s.spotCores p).any (fun w => h.cores.contains w))

/-- QUANTUM_EXPIRY (R342): a best-effort command that has waited QUANTUM takes the placement of the kernel that has run
longest, if that has run for QUANTUM. -/
def execQuantumExpiry (seq : Word) (s : State) : Host.Outcome State Fault Refusal :=
  match s.turn seq with
  | none => .next s
  | some c =>
    let q := s.sched.regs.quantum.toNat
    match (if c.isRun || c.isAdvance then s.layerKernel c 0 else none) with
    | none => .next s
    | some (_, e) =>
      if c.cls ≠ 1 ∨ s.nowUs < c.readyAt.getD s.nowUs + q ∨ (s.freeSpot e 1).isSome then .next s
      else
        match firstBy (fun (a b : Kern) => decide (a.placedUs ≤ b.placedUs))
            (s.sched.kerns.filter (fun (h : Kern) => h.cls == 1 && (h.phase == KernPhase.running || h.phase == KernPhase.staging) && s.wouldFree e 1 h)) with
        | none => .next s
        | some h =>
          if s.nowUs < h.placedUs + q then .next s
          else .next ((s.preempt h .quantum).bump (.die (dieOf (h.cores.headD 0))) 0x103 1)

/-! ### Saves and restores -/

/-- The rows of takes no longer in a kernel's batch taken off its cores (R159). -/
def State.dropRows (s : State) (k : Kern) : State :=
  k.cores.foldl (fun s w => s.updCore w (fun c =>
    let rows := c.rows.filter (fun t => (s.take t).state == .advancing)
    if rows = c.rows then c else { c with rows := rows, xs := Tab.put c.xs 1 (BitVec.ofNat 32 rows.length) })) s

/-- SAVE_COMPLETE (R195, R291, R338, R339, R131): the engines have stopped at a boundary and the cores are saved; victims leave the batch of a kernel pre-empted for them (R159). -/
def execSaveComplete (seq : Word) (layer : Half) (s : State) : Host.Outcome State Fault Refusal :=
  match s.kern? seq layer.toNat with
  | none => .next s
  | some k =>
    if k.phase ≠ .saving ∨ k.cores.any (fun w => !(s.core w).await.isEmpty) then .next s
    else
      let s := s.stopEngines k
      if (s.kern? seq layer.toNat).isNone then .next s
      else .next ((if k.cause = .victim then (s.saveReels k).dropRows k else s).saveKernel k)

/-- RESTORE_COMPLETE (R340, R387): the kernel runs on, or waits for its stage as before; its banks must be awake, and
the rows of a saved chunk free on its cores (R131). -/
def execRestoreComplete (seq : Word) (layer : Half) (s : State) : Host.Outcome State Fault Refusal :=
  match s.kern? seq layer.toNat with
  | none => .next s
  | some k =>
    if k.phase ≠ .restoring ∨ s.asleep k then .next s
    else if !s.rowsFree k then .next (s.clearRows k)
    else
      let s := (s.restoreKernel k).restoreReels k
      match s.kern? seq layer.toNat with
      | none => .next s
      | some k =>
        let k := { k with phase := .staging, reachUs := s.nowUs, forCmd := none }
        .next (k.cores.foldl (fun s w => s.startQueue w) ((s.setKern k).dispatchStage k))

/-! ### Completion -/

/-- Whether a kernel has nothing under way and may complete: its cores, its chunk, its DMA and edge work, the entries its
stage issued (log entry 35). -/
def State.kernelOver (s : State) (k : Kern) : Bool :=
  s.quiet k && (s.chunkAt k).isNone &&
  !((s.cmd? k.seq).map (fun c => c.prefs.any (fun r => r.layer == k.layer && r.kind != 2 && !r.done))).getD false

/-- One kernel's placement, allocation and channels given up (R324). -/
def State.freeKernel (s : State) (k : Kern) : State :=
  { s with
    cores := s.cores.map (fun (p : Nat × Core) => if k.cores.contains p.1 then (p.1, p.2.released) else p)
    sched := { s.sched with kerns := s.sched.kerns.filter (fun (j : Kern) => !(j.seq == k.seq && j.layer == k.layer)) } }

/-- Slices of a command. -/
def State.sliceCount (s : State) (c : Cmd) : Nat := ((s.graphOf c).map (fun g => g.slices.length)).getD 1

/-- The tile counters of a command given up as its piece ends, with their holder records (R303, R357). -/
def State.dropTiles (s : State) (seq : Word) : State :=
  { s with sched := { s.sched with tiles := s.sched.tiles.filter (fun t => t.2.seq != seq) } }

/-- A piece over (R303, R317, R318, R343): the command completes with its last, or waits for the next piece or slice. -/
def State.pieceOver (s : State) (seq : Word) (c : Cmd) : State :=
  let lastPiece := decide (c.pieces.length ≤ c.piece + 1)
  let lastSlice := decide (s.sliceCount c ≤ c.curSlice + 1)
  let s := (s.dropTiles seq).updCmd seq (fun c => { c with
    sealed := true
    areas := { c.areas with
      piecesDone := c.areas.piecesDone + b2n lastSlice
      slicesRun := c.areas.slicesRun + b2n (lastPiece && c.opcode == 0x03) } })
  if lastPiece && lastSlice then s.finishRun seq .ok else s

/-- KERNEL_COMPLETE (R324, R317, R343). -/
def execKernelComplete (seq : Word) (layer : Half) (s : State) : Host.Outcome State Fault Refusal :=
  match s.cmd? seq, s.kern? seq layer.toNat with
  | some c, some k =>
    if c.isAdvance || c.sealed || c.phase != .running || k.phase != .running || s.atBoundary seq || !s.kernelOver k then .next s
    else if c.opcode = 0x03 then
      let s := (((s.finishElems k).countTiles k).freeKernel k).updCmd seq (fun c => { c with layersDone := c.layersDone ++ [k.layer] })
      match s.cmd? seq with
      | none => .next s
      | some c => if (s.sliceLayers c).all (fun l => c.layersDone.contains l) then .next (s.pieceOver seq c) else .next s
    else .next ((((s.finishElems k).countTiles k).setKern { k with phase := .staging }).pieceOver seq c)
  | _, _ => .next s

/-- The cores of a kernel at the start of its program. -/
def State.restartCores (s : State) (k : Kern) : State :=
  k.cores.foldl (fun s w => s.updCore w (fun v => { v with pos := 0, loops := [] })) s

/-- The next piece of a sealed command begun (R317): its kernel starts again, or its layers are placed. -/
def State.nextPiece (s : State) (seq : Word) (i : Nat) : State :=
  let s := (s.beginPiece seq i).updCmd seq (fun c => { c with replays := 0 })
  match s.cmd? seq with
  | none => s
  | some c =>
    if c.opcode = 0x03 then s.moreLayers seq
    else
      match s.kern? seq 0 with
      | some k => ((s.restartCores k).bump (.die (dieOf (k.cores.headD 0))) 0x0F5 1).reachStage seq 0 0
      | none => s.moreLayers seq

/-- Whether a sealed command's kernel stands where its next piece or slice may start: on its placement, or given up (R317). -/
def State.restsPlaced (s : State) (seq : Word) : Bool :=
  (s.sched.kerns.filter (fun (k : Kern) => k.seq == seq)).all (fun k => k.phase == KernPhase.staging && !k.cores.isEmpty)

/-- PIECE_DISPATCH (R317): once the previous piece's writes are acknowledged, on the command's placement. -/
def execPieceDispatch (seq : Word) (s : State) : Host.Outcome State Fault Refusal :=
  match s.cmd? seq with
  | none => .next s
  | some c =>
    if c.sealed && decide (c.piece + 1 < c.pieces.length) && !s.writesOut seq && s.restsPlaced seq &&
       s.counterRoom seq (s.pieceCounters seq c (nth c.pieces (c.piece + 1) ⟨[], [], 0xFF⟩)) then .next (s.nextPiece seq (c.piece + 1))
    else .next s

/-- SLICE_START (R343): once the entries the slice's first layer needs have settled. -/
def execSliceStart (seq : Word) (s : State) : Host.Outcome State Fault Refusal :=
  match s.cmd? seq with
  | none => .next s
  | some c =>
    let c' := { c with curSlice := c.curSlice + 1 }
    let first := (s.sliceLayers c').headD 0
    if c.sealed && decide (c.pieces.length ≤ c.piece + 1) && decide (c.curSlice + 1 < s.sliceCount c) && !s.writesOut seq && s.restsPlaced seq &&
       c.prefs.all (fun r => r.need != first || r.settled) then .next ((s.setCmd seq c').nextPiece seq 0)
    else .next s

end Sys2Proof.Machine
end

