-- ==== Sys2Proof/Machine/Faults.lean ====
section
/-! DEFINITION. The fault unit (R619 to R624), fencing with its retakes and replays (R625 to R631, R132), fatal faults
(R633), collisions (R347, R348) and the perturbation controls (R634 to R636). -/

namespace Sys2Proof.Machine

/-! ### Fencing -/

/-- What a fence did (R631): whether a standby took the rank, pieces and steps replayed, tiles retaken. -/
structure FenceDone where
  took     : Bool := false
  replayed : Nat := 0
  retaken  : Nat := 0
  deriving DecidableEq, Repr

/-- Whether a code uses HALO or may hold a fusion ring, so that none of its cores is retaken alone (R627). -/
def codeLinked (code : List Dword) : Bool := code.any (fun x => opcodeOf x.toNat == 0x4A) || !(ringSlates code).isEmpty

/-- The tile counters of a command. -/
def State.tilesOf (s : State) (seq : Word) : List (Nat × TileCtr) := s.sched.tiles.filter (fun t => t.2.seq == seq)

/-- Whether a core holds tiles of a counter. -/
def TileCtr.holds (t : TileCtr) (w : Nat) : Bool := !(Tab.at t.held w []).isEmpty

/-- Whether a fenced core's tiles may be retaken (R304, R627). The levels concerned are the one that hands a core its tiles (level 0, or
the first above it that is not DIST 2) and each whose counter's record holds tiles of the core (DEDUCED, log entry 135). -/
def State.retakes (s : State) (k : Kern) (w : Nat) (took : Bool) : Bool :=
  ((s.planLevels k).find? (fun l => l.dist != 2)).any (fun l => l.dist == 1 && !l.accum) &&
  ((s.tilesOf k.seq).filter (fun t => t.2.holds w)).all (fun t =>
    !t.2.accum && decide (t.2.retake.length + (Tab.at t.2.held w []).length ≤ 64)) &&
  !codeLinked (s.kernCode k) && (((s.entOf k).map KernelEnt.rankFlex).getD false || took)

/-- The tiles a core holds of a command. -/
def State.heldTiles (s : State) (seq : Word) (w : Nat) : Nat := ((s.tilesOf seq).map (fun t => (Tab.at t.2.held w []).length)).foldl (fun a b => a + b) 0

/-- A fenced core's tiles put on the retake queues, its rank given to the standby where one took it, and left out where none
did (R304, R627). -/
def State.retakeCore (s : State) (k : Kern) (w : Nat) (sub : Option Nat) : State :=
  let old := s.core w
  let n := s.heldTiles k.seq w
  let s := { s with sched := { s.sched with tiles := s.sched.tiles.map (fun (t : Nat × TileCtr) =>
    if t.2.seq == k.seq then (t.1, { t.2 with retake := t.2.retake ++ Tab.at t.2.held w [], held := Tab.del t.2.held w }) else t) } }
  let rank := old.rank
  let s := s.setCore w old.released
  let pairs := (k.cores.zip k.ranks).filter (fun p => p.1 != w)
  let s := match sub with
    | some v =>
      let s := s.updCore v (fun c => { c.give k.seq k.layer rank with rows := old.rows, xs := Tab.put c.xs 1 (BitVec.ofNat 32 old.rows.length) })
      s.setKern { k with cores := k.cores.map (fun c => if c = w then v else c) }
    | none => s.setKern { k with cores := pairs.map Prod.fst, ranks := pairs.map Prod.snd }
  let s := s.bump (.die (dieOf (k.cores.headD 0))) 0x174 n
  (s.setFlag k.seq 4).updCmd k.seq (fun c => { c with areas := { c.areas with retaken := c.areas.retaken + n } })

/-- The reels of a kernel's running chunk that stand on a core. -/
def State.reelsOn (s : State) (k : Kern) (w : Nat) : List Nat :=
  ((s.chunkAt k).map Chunk.reels).getD [] |>.filter (fun i => ((s.reel i).place.map ReelPlace.core) == some w)

/-- The chunk reels of a fenced core (R132): one whose store image holds the chunk-start state takes its values from there and has no
row till its chunk runs again, another is LOST. -/
def State.loseReels (s : State) (l : List Nat) : State :=
  l.foldl (fun s i => let r := s.reel i
    if r.imgOk then s.setReel i { r with v := r.imgV, c := r.imgC, place := none }
    else s.setReel i { r with state := .lost, place := none, v := [], c := [] }) s

/-- A chunk put back to its start for a replay (R132): its reels stay pinned for it, every increment is zero; the steps of an advance that
it had run are run again (log entry 118). -/
def Chunk.rewound (h : Chunk) (adv : Bool) : Chunk :=
  { h with running := false, again := true, step := 0, redo := if adv then h.redo + h.step else 0, losses := [], zeroed := []
           deltas := h.deltas.map (fun p => (p.1, p.2.map (fun _ => 0#32))) }

/-- The running chunks of a command put back to their start. -/
def State.rewindChunks (s : State) (seq : Word) (adv : Bool) : State :=
  { s with reels := { s.reels with chunks := s.reels.chunks.map (fun h => if h.seq == seq && h.running then h.rewound adv else h) } }

/-- The slates of a command put back to their counts at the dispatch of the piece or step (R628). -/
def State.restoreSlates (s : State) (c : Cmd) : State :=
  (List.range c.snap.length).foldl (fun s i =>
    { s with sched := s.sched.writeSlate (c.slateBase + i) (nth c.snap i 0) }) s

/-- A command's piece or step run again from its start (R627, R628): every core of it stopped without a save, its channels
cancelled, its chunks put back to their start (R132), its slates restored, and its kernels placed again. -/
def State.replay (s : State) (seq : Word) (c : Cmd) (w0 : Nat) : State :=
  let s := ((s.dropKernels seq).dropReqs seq).rewindChunks seq c.isAdvance
  let s := s.cancelDma (fun d => d.seq == seq) .coreFenced
  let s := (s.restoreSlates c).bump (.die (dieOf w0)) 0x174 1
  let s := { s with takes := { s.takes with scores := s.takes.scores.filter (fun q => q.1 != seq) } }
  let s := (s.setFlag seq 4).updCmd seq (fun c => { c with areas := { c.areas with replayed := c.areas.replayed + 1 } })
  let s := if c.isAdvance then s.zeroRings c else s.beginPiece seq c.piece
  (s.updCmd seq (fun k => { k with replays := c.replays + 1 })).moreLayers seq

/-- The work of a fenced core disposed of (R627): whether a step or piece is under way decides whether it is replayed. -/
def State.dispose (s : State) (k : Kern) (w : Nat) (sub : Option Nat) : State × FenceDone :=
  let took := sub.isSome
  match s.cmd? k.seq with
  | none => (s, { took := took })
  | some c =>
    let w0 := k.cores.headD 0
    if s.retakes k w took && !c.sealed && k.phase != .saving && (s.reelsOn k w).isEmpty then
      let n := s.heldTiles k.seq w
      (s.retakeCore k w sub, { took := took, retaken := n })
    else
      let idle := c.sealed || (c.isAdvance && s.atBoundary k.seq)
      let on := s.reelsOn k w
      let lost := on.any (fun i => !(s.reel i).imgOk)
      let s := s.loseReels on
      if lost || (!idle && decide (2 ≤ c.replays)) || (s.kernelsOf c).any (fun e => !s.spotExists e) then
        (s.endCmd k.seq .coreFenced, { took := took })
      else if idle then
        (((s.dropKernels k.seq).rewindChunks k.seq c.isAdvance |> fun s => if on.isEmpty then s else s.setFlag k.seq 4).cancelDma
          (fun d => d.seq == k.seq) .coreFenced, { took := took })
      else (s.replay k.seq c w0, { took := took, replayed := 1 })

/-- A core fenced (R625 to R627): isolated, its standby given its rank, its work disposed of. -/
def State.fenceCore (s : State) (w : Nat) (cls : Byte) : State × FenceDone :=
  let n := clusterOf w
  let sby := 17 * n + 16
  let took := w != sby && !s.isFenced sby && !Tab.has s.flt.standby n
  let k := s.kernOn w
  let s := ((s.stopCounters w).carry .io (.die (dieOf w))).bump (.die (dieOf w)) 0x173 1
  let s := { s with flt := { s.flt with
    fenced := Tab.put s.flt.fenced w cls, standby := if took then Tab.put s.flt.standby n (w % 17) else s.flt.standby } }
  let s := { s with sched := { s.sched with waits := s.sched.waits.filter (fun q => match q.who with | .core c _ => c != w | _ => true) } }
  let s := s.cancelWaits (fun r => match r.kind with | .slate _ (.core c _) => c == w | _ => false)
  let s := s.cancelDma (fun d => d.core == some w) .coreFenced
  match k with
  | none => (s, { took := took })
  | some k => s.dispose k w (if took then some sby else none)

/-! ### The fault unit -/

/-- The core of a matrix or vector island (R599). -/
def islandCore (i : Nat) : Option Nat := if i < 1088 then some (i / 2) else none

/-- The core a report fences, if any (R620). -/
def Report.fences (r : Report) : Option Nat :=
  let w := r.subject.toNat
  if r.cls = 0x10 ∨ r.cls = 0x12 ∨ r.cls = 0x13 ∨ r.cls = 0x1B then (if w < 544 then some w else none)
  else if r.cls = 0x14 ∧ w / 8192 = 5 then islandCore (w % 8192)
  else none

/-- Whether a report is fatal (R633). -/
def Report.fatal (r : Report) : Bool := r.cls == 0x18 || r.cls == 0x1E

/-- Whether a unit is out of service: fenced, retired, mapped out or FAILED (R621). -/
def State.unitOut (s : State) (u : Half) : Bool :=
  let i := u.toNat % 8192
  match u.toNat / 8192 with
  | 0 => s.isFenced i
  | 3 => s.hbm.out.contains i || s.flt.failed.contains i
  | 5 => s.flt.retired.contains i
  | _ => false

/-- Issue halted, every running command ended with DEVICE_FAULT, the intake closed (R608, R633). -/
def State.haltAll (s : State) : State :=
  let run := (s.cmds.filter (fun (p : Nat × Cmd) => p.2.phase == .running)).map (fun p => BitVec.ofNat 32 p.1)
  let s := run.foldl (fun s q => s.endCmd q .deviceFault) s
  { s with host := { s.host with intake := false } }

/-- The bank a cluster memory's report names: DETAIL holds a physical SRAM address (R366, R389). -/
def clusterBank (detail : Nat) : Nat := detail % 2 ^ 25 / bankBytes

/-- The command whose kernel holds a bank of a cluster. -/
def State.bankHolder (s : State) (n b : Nat) : Option Word := (s.sched.kerns.find? (fun (k : Kern) => (k.banksIn n).contains b)).map Kern.seq

/-- The outcome of a report on the command it concerns, whether or not it is logged (R620, R621). -/
def State.reportEnds (s : State) (r : Report) : State := if r.cls = 0x15 ∨ r.cls = 0x17 then s.endCmd r.seq .deviceFault else s

/-- The action of a first report (R620). -/
def State.act (s : State) (r : Report) : State × FenceDone :=
  let i := r.subject.toNat % 8192
  let s := if r.cls = 0x14 then { s with flt := { s.flt with retired := s.flt.retired ++ [i] } }
    else if r.cls = 0x16 then { s with flt := { s.flt with failed := s.flt.failed ++ [i] } } else s
  match r.fences with
  | some w => s.fenceCore w r.cls
  | none =>
    if r.fatal then ({ s.haltAll with flt := { s.haltAll.flt with fatal := true } }, {})
    else if r.cls = 0x11 ∧ r.subject.toNat / 8192 = 1 then
      let n := r.subject.toNat % 8192
      let b := clusterBank r.detail.toNat
      let s := match s.bankHolder n b with | some q => s.endCmd q .deviceFault | none => s
      (s.mapOutBank n b, {})
    else (s, {})

/-- Banks whose mapping out waited for their allocation, mapped out once none holds them (R620). -/
def State.settleBanks (s : State) : State :=
  let go := s.mem.toMapOut.filter (fun p => !(s.heldBanks p.1).contains p.2)
  let s := { s with mem := { s.mem with toMapOut := s.mem.toMapOut.filter (fun p => !go.contains p) } }
  go.foldl (fun s p => s.mapOutBank p.1 p.2) s

/-- The first report of a key: logged, its window opened, forwarded to the coordinator and acted upon (R621 to R624). -/
def State.firstReport (s : State) (r : Report) : State × FenceDone :=
  let fwd := decide (1 < s.fab.devices) && decide (0x10 ≤ r.cls.toNat) && decide (r.cls.toNat ≤ 0x3F)
  let at_ := s.flt.head.toNat
  let s := s.logEntry r r.fences.isSome fwd r.fatal s.fab.epoch
  let s := if s.flt.windows.length < 256 then
      { s with flt := { s.flt with windows := s.flt.windows ++ [{ subject := r.subject, cls := r.cls, fepoch := s.fab.epoch, entry := some at_, since := s.nowUs }] } }
    else { s with flt := { s.flt with ovr := s.flt.ovr + 1 } }
  (if fwd then s.sendFault s.fab.id.toNat r.cls.toNat else s).act r

/-- A duplicate counted in its window's entry (R621, R622). -/
def State.dupReport (s : State) (r : Report) : State :=
  let f := s.flt
  let s := s.bump .io 0x171 1
  match f.windows.find? (fun w => w.subject == r.subject && w.cls == r.cls && w.fepoch == s.fab.epoch) with
  | none => s
  | some w => { s with flt := { f with
      dup := f.dup + 1
      windows := f.windows.map (fun v => if v = w then { v with dups := satAdd v.dups 1 } else v)
      log := match w.entry with | some i => Tab.upd f.log i {} (fun e => { e with dups := satAdd e.dups 1 }) | none => f.log } }

/-- A report that reaches the fault unit (R621): a duplicate, a secondary, or the first of its key. -/
def State.takeReport (s : State) (r : Report) : State × FenceDone :=
  let s := (s.bump .io 0x170 1).reportEnds r
  if s.flt.windows.any (fun w => w.subject == r.subject && w.cls == r.cls && w.fepoch == s.fab.epoch) then (s.dupReport r, {})
  else if s.unitOut r.subject || s.unitOut r.cause then
    ({ s.bump .io 0x172 1 with flt := { s.flt with supp := s.flt.supp + 1 } }, {})
  else s.firstReport r

/-- A report taken off the request channels, if it is on one. -/
def State.offChannel (s : State) (r : Report) : State := { s with flt := { s.flt with inFlight := s.flt.inFlight.erase r } }

/-- FAULT_REPORT (R619 to R624): a report of the device's channels, or one its hardware raises now, reaches the fault unit. -/
def execFaultReport (cls : Byte) (subject cause : Half) (seq : Word) (detail : Dword) (s : State) : Host.Outcome State Fault Refusal :=
  let r : Report := ⟨cls, subject, cause, seq, detail⟩
  .next ((s.offChannel r).takeReport r).1.settleBanks

/-- FAULT_WINDOW_CLOSE (R621, R623): the window of a subject and class closes after 100 ms. -/
def execFaultWindowClose (subject : Half) (cls : Byte) (epoch : Word) (s : State) : Host.Outcome State Fault Refusal :=
  match s.flt.windows.find? (fun w => w.subject == subject && w.cls == cls && w.fepoch == epoch) with
  | none => .next s
  | some w =>
    if s.nowUs < w.since + 100000 then .next s
    else
      let s := { s with flt := { s.flt with windows := s.flt.windows.filter (fun v => v != w) } }
      if w.dups = 0 ∨ s.fab.devices ≤ 1 then .next s
      else
        let key : FaultKey := ⟨s.fab.id, cls, epoch⟩
        if s.fab.coord then .next (s.updFab (fun f => { f with
          tally := f.tally.map (fun (q : Nat × Tally) => if q.2.key == key then (q.1, { q.2 with dups := satAdd q.2.dups w.dups.toNat }) else q) }))
        else .next (s.toCoord 0x16 s.fab.id.toNat 15 (slice (keyBytes key ++ leBytes 4 w.dups.toNat) 0 16))

/-! ### FENCE_CORE -/

/-- The core a FENCE_CORE names (R630). -/
def Cmd.fenceTarget (c : Cmd) : Nat := let f := c.fieldN 24 2
  (fld f 0 2 * 8 + fld f 2 3) * 17 + fld f 5 5

/-- The command a core's kernel belongs to, all ones where it has none. -/
def State.seqOn (s : State) (w : Nat) : Word := ((s.core w).owner.map Prod.fst).getD 0xFFFFFFFF

/-- A FENCE_CORE carried out and completed (R631). -/
def State.fenceNow (s : State) (seq : Word) (w : Nat) : State :=
  match s.takeReport ⟨0x1B, BitVec.ofNat 16 (subjCore w), BitVec.ofNat 16 (subjCore w), s.seqOn w, 0⟩ with
  | (s, d) => s.finish seq .ok (resultOf [(1, b2n d.took), (1, d.replayed), (2, d.retaken)])

/-- FENCE_CORE without DRAIN (R630, R631). -/
def execFenceCore (seq : Word) (s : State) : Host.Outcome State Fault Refusal :=
  match s.turnOf seq 0x50 with
  | none => .next s
  | some c =>
    if (c.fieldN 26 1).testBit 0 then .next s
    else if s.isFenced c.fenceTarget then .next (s.finish seq .zeroExtent [])
    else .next (s.fenceNow seq c.fenceTarget).settleBanks

/-- FENCE_CORE with DRAIN (R630, R631): the core takes no new placement until the fence takes effect. -/
def execFenceCoreDrain (seq : Word) (s : State) : Host.Outcome State Fault Refusal :=
  match s.turnOf seq 0x50 with
  | none => .next s
  | some c =>
    if !(c.fieldN 26 1).testBit 0 then .next s
    else if s.isFenced c.fenceTarget then .next (s.finish seq .zeroExtent [])
    else .next { s.setCmd seq { c with phase := .running, started := some s.nowUs } with
      flt := { s.flt with drains := s.flt.drains ++ [(c.fenceTarget, seq)] } }

/-- FENCE_DRAIN_EFFECT (R630, R631): a drained core has no kernel any more, or a fault report fenced it meanwhile. -/
def execFenceDrainEffect (w : CoreIx) (s : State) : Host.Outcome State Fault Refusal :=
  match s.flt.drains.find? (fun d => d.1 == w.val) with
  | none => .next s
  | some d =>
    let t := { s with flt := { s.flt with drains := s.flt.drains.filter (fun e => e != d) } }
    if s.isFenced w.val then .next (t.finish d.2 .zeroExtent [])
    else if (s.core w.val).owner.isSome then .next s
    else .next (t.fenceNow d.2 w.val).settleBanks

/-! ### Reports raised -/

/-- CORE_HANG (R620): an island of a core leaves a handshake unanswered for 10 µs. -/
def execCoreHang (w : CoreIx) (s : State) : Host.Outcome State Fault Refusal :=
  .next (s.report 0x13 (subjCore w.val) (subjCore w.val) (s.seqOn w.val) 0)

/-- NET_NOACK (R620): a network write of a unit has no acknowledgement; its command ends with DEVICE_FAULT. -/
def execNetNoack (subject cause : Half) (seq : Word) (detail : Dword) (s : State) : Host.Outcome State Fault Refusal :=
  .next ((s.report 0x17 subject.toNat cause.toNat seq detail.toNat).endCmd seq .deviceFault)

/-- D2D_LINK (R620): a die-to-die flit of a die spine fails 8 resends. -/
def execD2dLink (d : DieIx) (s : State) : Host.Outcome State Fault Refusal :=
  .next (s.report 0x18 (subjSpine d.val) (subjSpine d.val) 0xFFFFFFFF 0)

/-- BANK_COLLISION (R347, R348, R359, R360): two ports meet one bank or link; the access of the higher one, of core `w` or
of its cluster, is dropped, and its command ends with SCHED_COLLIDE. -/
def execBankCollision (w : CoreIx) (atCluster : Bool) (memory : BitVec 3) (bank a b : Byte) (seq : Word) (s : State) :
    Host.Outcome State Fault Refusal :=
  match s.cmd? seq with
  | none => .next s
  | some c =>
    if c.phase ≠ .running then .next s
    else
      let kept := min a.toNat b.toNat
      let dropped := max a.toNat b.toNat
      let where_ := dieOf w.val + 4 * (clusterOf w.val % 8) + (if atCluster then 0 else 32 * (w.val % 17))
      let s := (s.report 0x1A (subjCore w.val) (subjCore w.val) seq 0).bump (.core w.val) 0x106 1
      let s := s.updCmd seq (fun c => { c with areas := { c.areas with collide := [memory.toNat, bank.toNat, kept, dropped], collideAt := where_ } })
      let s := { s with sched := { s.sched with regs := { s.sched.regs with
        collideCnt := s.sched.regs.collideCnt + 1
        collideLast := BitVec.ofNat 64 (memory.toNat + 2 ^ 8 * bank.toNat + 2 ^ 16 * kept + 2 ^ 24 * dropped + 2 ^ 32 * where_ + 2 ^ 48 * (seq.toNat % 65536)) } } }
      .next (s.endCmd seq .schedCollide).settleBanks

/-! ### Perturbation controls -/

/-- Whether a perturbation kind is locked (R578, R636). -/
def State.tstLocked (s : State) (k : Nat) : Bool := (s.boot.fuses.tstLock && !s.granted 2) || (s.sheet 176 1).testBit k

/-- TST_CTL_k written (R635, R636, R639): enabling loads the kind's generator; a locked kind's write is counted. -/
def State.tstWrite (s : State) (k v : Nat) : State :=
  if s.tstLocked k then { s with flt := { s.flt with tstLocked := satAdd s.flt.tstLocked 1 } }
  else
    let s := s.settleTst
    let t := Tab.at s.flt.tst k {}
    let on := bitOf v 0
    { s with flt := { s.flt with tst := Tab.put s.flt.tst k { t with
      enable := on, rate := BitVec.ofNat 8 (fld v 1 8), target := BitVec.ofNat 11 (fld v 9 11), amount := BitVec.ofNat 12 (fld v 20 12)
      gen := if on then (if s.flt.tstSeed = 0 then 1 else s.flt.tstSeed) else t.gen } } }

/-- TST_CTL_WRITE (R635, R636): a host write, dropped before stage E and under R483. -/
def execTstCtlWrite (k : Fin 6) (value : Word) (s : State) : Host.Outcome State Fault Refusal :=
  if s.barTakes .fromE then .next (s.tstWrite k.val value.toNat) else .next (s.barDropped (0x50010 + 16 * k.val))

end Sys2Proof.Machine
end

