-- ==== Sys2Proof/Machine/Gaffer.lean ====
section
/-! DEFINITION. The gaffer (19_gaffer): power samples, the loop over the levers, the trip, plans, emergencies, retirements and
the ageing log; and flash writes in their order (R657). -/

namespace Sys2Proof.Machine

/-- The state with the gaffer changed. -/
def State.updGaf (s : State) (f : Gaffer → Gaffer) : State := { s with gaf := f s.gaf }

/-- An island. -/
def State.island (s : State) (i : Nat) : Island := Tab.at s.gaf.isls i {}

/-- The state with an island changed. -/
def State.updIsland (s : State) (i : Nat) (f : Island → Island) : State :=
  s.updGaf (fun g => { g with isls := Tab.put g.isls i (f (s.island i)) })

/-- KIND of GAF_ISL_i (R617). -/
def islandKind (i : Nat) : Nat :=
  if i < 1088 then i % 2 else if i < 1120 then 2 else if i < 1124 then 3 else if i = 1124 then 4 else 5

/-- The planning target of an island in ps (R599). -/
def planTarget (i : Nat) : Int := match islandKind i with | 0 => 86 | 1 => 43 | 2 => 57 | 3 => 57 | _ => 50

/-- The emergency threshold of an island in ps (R599). -/
def slackFloor (i : Nat) : Int := match islandKind i with | 0 => 29 | 1 => 14 | 2 => 19 | 3 => 19 | 4 => 17 | _ => 25

/-- Steps from FLOOR to CEIL, 200 mV in steps of 5 mV at every planned island (R599). -/
def ceilStep : Nat := 40

/-- Where an island's events are counted (R618). -/
def islandAt (i : Nat) : At :=
  if i < 1088 then .die (dieOf (i / 2)) else if i < 1120 then .die (dieOfCluster (i - 1088)) else if i < 1124 then .die (i - 1120) else .io

/-- The 64 bits of GAF_ISL_i (R617). -/
def State.islandWord (s : State) (i : Nat) : Nat :=
  let v := s.island i
  v.step.toNat + 2 ^ 8 * v.slack.toNat + 2 ^ 24 * v.ratio.toNat + 2 ^ 40 * v.emerg.toNat + 2 ^ 48 * islandKind i + 2 ^ 51 * b2n v.retired

/-! ### Flash writes -/

/-- A flash write put behind those requested before it (R657). -/
def State.flashJob (s : State) (j : FlashJob) : State := { s with boot := { s.boot with jobs := s.boot.jobs ++ [j] } }

/-- Where the n-th record of the ageing log starts (R656, R658). -/
def ageAt (n : Nat) : Nat := 0x04400000 + n / 5 * 65536 + n % 5 * 12288

/-- An ageing record's bytes but its padding (R616); causes 0 start, 1 re-plan, 2 retirement. -/
def State.ageRecord (s : State) (cause : Nat) : List Byte :=
  let g := s.gaf
  let head := leBytes 4 0x5A414745 ++ leBytes 4 (g.serial.toNat + 1) ++ leBytes 4 g.life.toNat ++ leBytes 4 g.stress.toNat ++
    leBytes 1 cause ++ leBytes 1 (s.sheet 142 1) ++ leBytes 2 1126 ++ leBytes 4 s.perf.epoch.toNat ++ List.replicate 36 0
  let isls := (List.range 1126).flatMap (fun i => leBytes 8 (s.islandWord i))
  head ++ leBytes 4 (crc32c (head ++ isls)) ++ isls

/-- An ageing record appended where AGE_LOG asks for it (R615, R658). -/
def State.ageLog (s : State) (cause : Nat) : State :=
  if !(s.sheet 143 1).testBit 0 then s
  else
    (s.flashJob ⟨.ageing, ageAt s.gaf.agePos, s.ageRecord cause⟩).updGaf (fun g => { g with
      serial := g.serial + 1, agePos := (g.agePos + 1) % 5120 })

/-! ### Retirement -/

/-- An island retired (R613): held at CEIL, reported and entered in the ageing log (R615); the report fences the core of a matrix or
vector island (R620). -/
def State.retireIsland (s : State) (i : Nat) : State :=
  let s := s.updIsland i (fun v => { v with step := BitVec.ofNat 8 ceilStep, retired := true })
  ((s.updGaf (fun g => { g with cntRetired := satAdd g.cntRetired 1 })).report 0x14 (subjIsland i) (subjIsland i) 0xFFFFFFFF 0).ageLog 2

/-- ISLAND_RETIRE (R613): an island at CEIL stays below its emergency threshold for 10 µs. -/
def execIslandRetire (i : IslandIx) (s : State) : Host.Outcome State Fault Refusal :=
  let v := s.island i.val
  if i.val = 1125 ∨ v.retired ∨ v.step.toNat < ceilStep then .next s
  else .next (s.retireIsland i.val)

/-- SLACK_EMERGENCY (R612): an island's slack falls below its emergency threshold; the Pronath core's is reported in its
register only (R599). -/
def execSlackEmergency (i : IslandIx) (slack : Half) (s : State) : Host.Outcome State Fault Refusal :=
  if slackFloor i.val ≤ slack.toInt then .next s
  else
    let s := s.updIsland i.val (fun v => { v with slack := slack })
    if i.val = 1125 then .next s
    else
      let s := s.updIsland i.val (fun v => { v with
        step := BitVec.ofNat 8 (min (v.step.toNat + 2) ceilStep), emerg := satAdd v.emerg 1 })
      .next ((s.updGaf (fun g => { g with cntEmerg := satAdd g.cntEmerg 1 })).bump (islandAt i.val) 0x163 1)

/-! ### Plans -/

/-- The sweep of R610 down from a step whose slack meets the target: the step it ends at, and the last slack sampled. -/
def sweepDown (target : Int) : Nat → Half → List Half → Nat × Half
  | 0, last, _ => (0, last)
  | k + 1, last, [] => let _ := last; sweepDown target k 0x7FFF []
  | k + 1, _, x :: xs => if target ≤ x.toInt then sweepDown target k x xs else (k + 1, x)

/-- An island planned (R610): retired where its slack at CEIL is short, else its step from the sweep with the droop guard and
GUARD_MV added. -/
def State.planIsland (s : State) (i : Nat) (slacks : List Half) : State :=
  let first := slacks.headD 0x7FFF
  if first.toInt < planTarget i then (s.updIsland i (fun v => { v with slack := first })).retireIsland i
  else
    match sweepDown (planTarget i) ceilStep first slacks.tail with
    | (k, last) => s.updIsland i (fun v => { v with step := BitVec.ofNat 8 (min (k + 2 + s.sheet 142 1 / 5) ceilStep), slack := last })

/-- The trials of an island among those measured. -/
def trialsOf (l : List IslandTrials) (i : Nat) : List Half := ((l.find? (fun t => t.island.val == i)).map IslandTrials.slacks).getD []

/-- Ring oscillator ratios taken from what was measured. -/
def State.takeRatios (s : State) (l : List IslandTrials) : State :=
  l.foldl (fun s t => s.updIsland t.island.val (fun v => { v with ratio := t.ratio })) s

/-- Every island planned at stage C (R610): no retirement and no emergency raise of an earlier start stands (R612, R613). -/
def State.planAll (s : State) (l : List IslandTrials) : State :=
  let s := (s.updGaf (fun g => { g with
    isls := g.isls.map (fun (q : Nat × Island) => (q.1, { q.2 with retired := false, emerg := 0 })), planAt := s.nowUs, raised := 0 })).takeRatios l
  ((List.range 1125).foldl (fun s i => s.planIsland i (trialsOf l i)) s).ageLog 0

/-- A re-plan of an island from a step (R611): the step and the slack it ends with, raised while the slack is short. -/
def replanFrom (target : Int) : List Half → Nat → Half → Nat × Half
  | [], k, last => (k, last)
  | x :: xs, k, _ => if x.toInt < target ∧ k < ceilStep then replanFrom target xs (k + 1) x else (k, x)

/-- An island re-planned (R611), and whether it was raised. -/
def State.replanIsland (s : State) (i : Nat) (slacks : List Half) : State × Bool :=
  let v := s.island i
  if v.retired then (s, false)
  else
    match replanFrom (planTarget i) slacks v.step.toNat v.slack with
    | (k, last) => (s.updIsland i (fun v => { v with step := BitVec.ofNat 8 k, slack := last }), decide (v.step.toNat < k))

/-- A re-plan of every planned island in ascending index (R611). -/
def State.replan (s : State) (l : List IslandTrials) : State :=
  let r := (List.range 1125).foldl (fun (q : State × Nat) i =>
    match q.1.replanIsland i (trialsOf l i) with | (s, up) => (s, q.2 + b2n up)) (s.takeRatios l, 0)
  (r.1.updGaf (fun g => { g with raised := BitVec.ofNat 11 r.2, planAt := s.nowUs, planOwed := false })).ageLog 1

/-- Whether a re-plan finds LIMITER TRIP, the trip still on (R607, R611). -/
def State.tripOn (s : State) : Bool := s.gaf.limiter == 5 && (s.gaf.trip105.isSome || s.gaf.tripped)

/-- µs of 24 hours. -/
def planPeriod : Nat := 86400000000

/-- REPLAN (R611): 24 hours after the last plan, or once the trip that deferred a re-plan has ended. -/
def execReplan (trials : List IslandTrials) (s : State) : Host.Outcome State Fault Refusal :=
  if !s.mod.good || s.boot.stage < 4 || (s.nowUs < s.gaf.planAt + planPeriod && !s.gaf.planOwed) then .next s
  else if s.tripOn then .next (s.updGaf (fun g => { g with planOwed := true }))
  else .next (s.replan trials)

/-- REPLAN_NOW (R611, R617): GAF_PLAN_CTL written with NOW. -/
def execReplanNow (trials : List IslandTrials) (s : State) : Host.Outcome State Fault Refusal :=
  if !s.barTakes .fromA then .next (s.barDropped 0x40030)
  else if s.tripOn then .next (s.updGaf (fun g => { g with planOwed := true, planAt := s.nowUs }))
  else .next (s.replan trials)

/-! ### Cap and levers -/

/-- GAF_CAP written (R601). -/
def State.capWrite (s : State) (v : Nat) : State :=
  s.updGaf (fun g => { g with cap := BitVec.ofNat 11 (min (max (v % 2048) 900) 1800) })

/-- GAF_CAP_WRITE (R601, R617). -/
def execGafCapWrite (value : Word) (s : State) : Host.Outcome State Fault Refusal :=
  if s.barTakes .fromA then .next (s.capWrite value.toNat) else .next (s.barDropped 0x40004)

/-- Every lever at its minimum, by a rule (R606, R607). -/
def Gaffer.minimum (g : Gaffer) (limiter : BitVec 3) : Gaffer := { g with la := 1, lv := 1, lh := 1, limiter := limiter }

/-- POWER_SAMPLE (R602, R606): three samples in a row above 2,100 W set every lever to its minimum. -/
def execPowerSample (watts : Half) (s : State) : Host.Outcome State Fault Refusal :=
  let ovr := if 2100 < watts.toNat then s.gaf.ovr + 1 else 0
  let s := s.updGaf (fun g => { g with samples := (watts.toNat :: g.samples).take 1000, ovr := if ovr = 3 then 0 else ovr })
  if ovr = 3 then
    .next ((s.updGaf (fun g => { g.minimum 4 with cntOver := satAdd g.cntOver 1 })).report 0x1C (subjIsland 1124) (subjIsland 1124) 0xFFFFFFFF 0)
  else .next s

/-- The mean of some samples, rounded down (log entry 50). -/
def meanOf (l : List Nat) : Nat := l.foldl (fun a b => a + b) 0 / max l.length 1

/-- One lever lowered by a step: LA, then LV, then LH (R602). -/
def Gaffer.lower (g : Gaffer) : Gaffer :=
  if 1 < g.la.toNat then { g with la := g.la - 1 }
  else if 1 < g.lv.toNat then { g with lv := g.lv - 1 }
  else if 1 < g.lh.toNat then { g with lh := g.lh - 1 } else g

/-- One lever raised by a step: LH, then LV, then LA (R602). -/
def Gaffer.raise (g : Gaffer) : Gaffer :=
  if g.lh.toNat < 4 then { g with lh := g.lh + 1 }
  else if g.lv.toNat < 8 then { g with lv := g.lv + 1 }
  else if g.la.toNat < 8 then { g with la := g.la + 1 } else g

/-- What the sensors read, and the thermal rules that stand (R607). -/
def Gaffer.sense (g : Gaffer) (junction hbm inlet outlet : Byte) (hot : Nat) : Gaffer :=
  let j := junction.toNat
  let above := decide (100 ≤ j) || (g.above && decide (98 ≤ j))
  { g with
    junction := junction, hbm := hbm, inlet := inlet, outlet := outlet, hotIsl := BitVec.ofNat 11 hot
    above := above
    hold := if j < 97 then false else g.hold || (g.above && decide (98 ≤ j) && decide (j < 100))
    hbmHot := decide (83 ≤ hbm.toNat) || (g.hbmHot && decide (81 ≤ hbm.toNat))
    cntHot := if above && !g.above then satAdd g.cntHot 1 else g.cntHot }

/-- A junction at or above 105 °C: every lever at its minimum, the 10 ms of R608 counted from the first such reading; below it
the count ends (R607, R608). -/
def Gaffer.watch (g : Gaffer) (nowUs : Nat) : Gaffer :=
  if 105 ≤ g.junction.toNat then { g.minimum 5 with trip105 := some (g.trip105.getD nowUs) } else { g with trip105 := none }

/-- The levers moved by the rules of R602, R607 and R609. -/
def Gaffer.move (g : Gaffer) : Gaffer :=
  let down := decide (g.cap.toNat < g.p100.toNat) || g.above
  let held := g.above || g.hold || g.hbmHot || g.trip105.isSome || g.tripped
  let a := if down then g.lower else if g.p100.toNat * 100 < g.cap.toNat * 97 && !held then g.raise else g
  let a := if down && (a.la != g.la || a.lv != g.lv || a.lh != g.lh) then { a with limiter := if g.above then 2 else 1 } else a
  if g.hbmHot && decide (1 < a.lh.toNat) && a.lh == g.lh then { a with lh := a.lh - 1, limiter := 3 } else a

/-- Steps by which levers fell between two states of the gaffer. -/
def Gaffer.fell (a b : Gaffer) : Nat := (a.la.toNat - b.la.toNat) + (a.lv.toNat - b.lv.toNat) + (a.lh.toNat - b.lh.toNat)

/-- Hours counted in 100 µs (R607, R617). -/
def Gaffer.hours (g : Gaffer) : Gaffer :=
  let t := g.lifeUs + 100
  let u := if 95 < g.junction.toNat then g.stressUs + 100 else g.stressUs
  let hour := 3600000000
  { g with
    life := g.life + BitVec.ofNat 32 (t / hour), lifeUs := t % hour
    stress := g.stress + BitVec.ofNat 32 (u / hour), stressUs := u % hour }

/-- The cap in force: 1,800 W until stage B completes (R601). -/
def State.capInForce (s : State) : BitVec 11 := if s.boot.stage < 2 then 1800 else s.gaf.cap

/-- GAFFER_LOOP_TICK (R602, R607, R609): every 100 µs the sensors are read, P100 is taken and the levers move. -/
def execGafferLoopTick (junction hbm inlet outlet : Byte) (hot : IslandIx) (s : State) : Host.Outcome State Fault Refusal :=
  let g := (s.gaf.sense junction hbm inlet outlet hot.val).hours
  let g := { g with p100 := BitVec.ofNat 12 (min (meanOf (g.samples.take 10)) 4095), p10ms := BitVec.ofNat 12 (min (meanOf g.samples) 4095) }
  let g := g.watch s.nowUs
  let m := { { g with cap := s.capInForce }.move with cap := g.cap }
  .next ({ s with gaf := m }.bump .io 0x160 (g.fell m))

/-- JUNCTION_TRIP_LIMIT (R607): a junction at or above 105 °C sets every lever to its minimum. -/
def execJunctionTripLimit (junction : Byte) (hot : IslandIx) (s : State) : Host.Outcome State Fault Refusal :=
  if junction.toNat < 105 then .next s
  else .next (s.updGaf (fun g => (g.sense junction g.hbm g.inlet g.outlet hot.val).watch s.nowUs))

/-- THERMAL_TRIP (R608): a junction has stayed at or above 105 °C for 10 ms. -/
def execThermalTrip (s : State) : Host.Outcome State Fault Refusal :=
  match s.gaf.trip105 with
  | none => .next s
  | some t =>
    if s.gaf.tripped || s.nowUs < t + 10000 then .next s
    else
      let hot := s.gaf.hotIsl.toNat
      .next ((s.haltAll.updGaf (fun g => { g with tripped := true, tripReg := true, tripTemp := g.junction })).report 0x1D (subjIsland hot) (subjIsland hot) 0xFFFFFFFF 0)

end Sys2Proof.Machine
end

