-- ==== Sys2Proof/Machine/Images.lean ====
section
/-! DEFINITION. Fuses (R566), signed images (R561), the call sheet (R146, R562, R563) and the flash (R655 to R660). -/

namespace Sys2Proof.Machine

/-! ### Fuses -/

/-- A number with the bits of an array's words added that a field's own bits lie at (R567). -/
def fuseBits (array : Tab Word) (field n v : Nat) : Nat :=
  (List.range n).foldl (fun a k =>
    let at_ := Config.fuseAt field k
    if (Tab.at array (at_ / 32) 0#32).toNat.testBit (at_ % 32) then a ||| 2 ^ k else a) v

/-- The fuses as read with the words blown through SEC_PROG_ (R566, R567). -/
def Fuses.readArray (f : Fuses) (array : Tab Word) : Fuses :=
  if array.isEmpty then f
  else
    let bit := fun (i : Nat) (b : Bool) => (fuseBits array i 1 (b2n b)).testBit 0
    { uid := BitVec.ofNat 128 (fuseBits array 0 128 f.uid.toNat)
      rootHash := (List.range 4).map (fun k => BitVec.ofNat 256 (fuseBits array (1 + k) 256 (nth f.rootHash k 0#256).toNat))
      revoke := BitVec.ofNat 4 (fuseBits array 5 4 f.revoke.toNat)
      rollback := BitVec.ofNat 64 (fuseBits array 6 64 f.rollback.toNat)
      dbgFuse := BitVec.ofNat 2 (fuseBits array 7 2 f.dbgFuse.toNat)
      tstLock := bit 8 f.tstLock, ctrNoUser := bit 9 f.ctrNoUser, ctrNoHost := bit 10 f.ctrNoHost, ideMand := bit 11 f.ideMand
      idSeed := BitVec.ofNat 256 (fuseBits array 12 256 f.idSeed.toNat)
      fuseLock := bit 13 f.fuseLock }

/-- Consecutive ones from bit 0, of `n` bits at most. -/
def onesFrom (v : Nat) : Nat → Nat → Nat
  | 0, _ => 0
  | n + 1, k => if v.testBit k then 1 + onesFrom v n (k + 1) else 0

/-- The rollback count (R566). -/
def Fuses.count (f : Fuses) : Nat := onesFrom f.rollback.toNat 64 0

/-- A root hash. -/
def Fuses.root (f : Fuses) (k : Nat) : BitVec 256 := nth f.rootHash k 0

/-- Whether a root key slot is set and not revoked (R561). -/
def Fuses.slotGood (f : Fuses) (k : Nat) : Bool := f.root k != 0 && !f.revoke.toNat.testBit k

/-! ### Signed images -/

/-- Bytes of an image's header. -/
def imageHead : Nat := 5376

/-- KIND of an image. -/
def imageKind (img : List Byte) : Nat := recField img 4 2
/-- LENGTH of an image. -/
def imageLength (img : List Byte) : Nat := recField img 8 4
/-- SVN of an image. -/
def imageSvn (img : List Byte) : Nat := recField img 12 4
/-- SLOT of an image. -/
def imageSlot (img : List Byte) : Nat := recField img 16 1 % 4
/-- The payload of an image. -/
def imagePayload (img : List Byte) : List Byte := slice img imageHead (imageLength img)

/-- Whether a LENGTH is as expected for a kind: fixed for call sheets, tokens and revocations, and within the slot for
firmware (R562, R569, R575, R656). -/
def lengthFits (kind n : Nat) : Bool :=
  match kind with
  | 1 => decide (n + imageHead ≤ 0x100000)
  | 2 => decide (n + imageHead ≤ 0x2000000)
  | 3 => n == 512
  | _ => n == 64

/-- Checks 2 to 6 of R561: 0 when they pass, else the first that failed. -/
def Fuses.laterChecks (f : Fuses) (img : List Byte) : Nat :=
  let key := slice img 64 1952
  if !f.slotGood (imageSlot img) then 2
  else if leNat (sha3_256 key) ≠ (f.root (imageSlot img)).toNat then 3
  else if !Config.mldsaOk key (slice img 0 2016) (slice img 2016 3309) then 4
  else if slice img 32 32 ≠ sha3_256 (imagePayload img) then 5
  else if imageSvn img < f.count then 6
  else 0

/-- R561 on an image of a kind: 0 when it is valid, else the first check that failed. -/
def Fuses.checkImage (f : Fuses) (kind : Nat) (img : List Byte) : Nat :=
  if recField img 0 4 ≠ 0x5A494D47 ∨ imageKind img ≠ kind ∨ recField img 6 2 ≠ 1 ∨ lengthFits kind (imageLength img) = false then 1
  else f.laterChecks img

/-- What the device keeps of an image it loaded. -/
def loadedOf (img : List Byte) : Loaded := ⟨slice img 32 32, imageSvn img⟩

/-! ### The call sheet -/

/-- A field of a call sheet that is out of range or, reserved, not zero: offset and verdict, in payload order (R562, R563). -/
def sheetFields (p : List Byte) : List (Nat × Bool) :=
  let f := recField p
  let mib2 := 2097152
  [(2, f 2 6 == 0), (16, decide (64 ≤ f 16 4 ∧ f 16 4 ≤ 16384)), (20, decide (16 ≤ f 20 4 ∧ f 20 4 ≤ 65536)),
   (24, decide (f 24 4 ≤ 65536)), (28, decide (f 28 4 ≤ 262144)), (32, f 32 8 % mib2 == 0),
   (40, f 40 8 % mib2 == 0 && ((f 32 8 == 0) == (f 40 8 == 0))), (50, decide (f 48 2 < f 50 2)),
   (52, decide (1 ≤ f 52 1 ∧ f 52 1 ≤ 224)), (54, decide (f 54 1 ≤ 64)), (55, f 55 1 == 0),
   (64, decide (500 ≤ f 64 4 ∧ f 64 4 ≤ 100000)), (68, decide (10 ≤ f 68 4 ∧ f 68 4 ≤ 10000))] ++
  [(138, decide (1 ≤ f 138 1 ∧ f 138 1 ≤ 32)), (139, f 139 1 / 4 == 0), (140, decide (900 ≤ f 140 2 ∧ f 140 2 ≤ 1800)),
   (142, decide (f 142 1 ≤ 50) && f 142 1 % 5 == 0), (143, f 143 1 / 2 == 0), (144, decide (f 144 1 < 3)), (145, f 145 3 == 0),
   (148, decide (f 148 4 ≤ 65536)), (160, decide (f 160 8 < 2 ^ 40)), (168, decide (f 160 8 ≤ f 168 8 ∧ f 168 8 ≤ 2 ^ 40)),
   (176, f 176 1 / 64 == 0), (177, f 177 335 == 0)]

/-- The index of the first length bound that breaks R146, from an index and the bound before it. -/
def badBound (p : List Byte) : Nat → Nat → Nat → Option Nat
  | 0, _, _ => none
  | n + 1, i, prev =>
    let b := recField p (72 + 4 * i) 4
    if b = 0 then
      (if (List.range n).all (fun k => recField p (72 + 4 * (i + 1 + k)) 4 == 0) then none
       else ((List.range n).find? (fun k => recField p (72 + 4 * (i + 1 + k)) 4 != 0)).map (fun k => i + 1 + k))
    else if b % 128 = 0 ∧ 128 ≤ b ∧ b ≤ 16777216 ∧ prev < b then badBound p n (i + 1) b
    else some i

/-- REASON and BOOT_DETAIL of a call sheet image that cannot be used (R554, R563). -/
def Fuses.sheetFault (f : Fuses) (img : List Byte) : Option (Nat × Nat) :=
  let p := imagePayload img
  if recField img 0 4 ≠ 0x5A494D47 then some (0x10, 0)
  else if imageKind img ≠ 3 ∨ recField img 6 2 ≠ 1 then some (0x11, 1)
  else if imageLength img ≠ 512 then some (0x12, imageLength img)
  else if f.laterChecks img ≠ 0 then some (0x11, f.laterChecks img)
  else if recField p 0 2 ≠ 1 then some (0x12, recField p 0 2)
  else
    match (sheetFields p).find? (fun q => !q.2) with
    | some q => some (0x13, q.1)
    | none => (badBound p 16 0 0).map (fun i => (0x14, i))

/-! ### The flash -/

/-- Where an FW1 slot starts (R656). -/
def fw1At (slot : Bool) : Nat := if slot then 0x00110000 else 0x00010000
/-- Where an FW2 slot starts. -/
def fw2At (slot : Bool) : Nat := if slot then 0x02210000 else 0x00210000
/-- Where the call sheet starts. -/
def sheetAt : Nat := 0x04210000
/-- Where the identity certificate chain starts. -/
def chainAt : Nat := 0x04220000
/-- Where a copy of the repair record starts. -/
def repairAt (b : Bool) : Nat := if b then 0x04250000 else 0x04230000

/-- The image in a flash partition: its header and as much payload as its LENGTH gives, within the slot. -/
def flashImage (m : Mem) (a kind : Nat) : List Byte :=
  let head := m.readN a imageHead
  if lengthFits kind (imageLength head) then m.readN a (imageHead + imageLength head) else head

/-- Bytes put in the flash, the rest of an erased region blank (log entry 3). -/
def flashPut (m : Mem) (a region : Nat) (bs : List Byte) : Mem :=
  ((List.range bs.length).zip bs).foldl (fun m q => if q.2 = Mem.blank then m else Mem.write m (a + q.1) q.2) (m.clearN a region)

/-- Bytes of a repair record (R660). -/
def repairBytes : Nat := 114752

/-- Whether a copy of the repair record is valid (R659). -/
def repairValid (m : Mem) (b : Bool) : Bool :=
  let a := repairAt b
  leNat (m.readN a 4) == 0x5A524550 && leNat (m.readN (a + 8) 4) == crc32c (m.readN (a + 12) (repairBytes - 12))

/-- SERIAL of a copy. -/
def repairSerial (m : Mem) (b : Bool) : Word := BitVec.ofNat 32 (leNat (m.readN (repairAt b + 4) 4))

/-- The valid copy with the higher SERIAL by signed difference (R659). -/
def repairCopy (m : Mem) : Option Bool :=
  match repairValid m false, repairValid m true with
  | false, false => none
  | true, false => some false
  | false, true => some true
  | true, true => some (seqBefore (repairSerial m false) (repairSerial m true))

/-- A row word of the repair record (R660). -/
def RowRemap.word (r : RowRemap) : Nat := r.pc + 2 * r.row + 2 ^ 31

/-- The row a row word of a channel names, if VALID. -/
def rowOfWord (c w : Nat) : Option RowRemap := if w.testBit 31 then some ⟨c, w % 2, fld w 1 21⟩ else none

/-- A channel's part of the repair record (R660). -/
def HbmMem.repairEntry (h : HbmMem) (c : Nat) : List Byte :=
  let soft := h.remaps.filter (fun r => r.chan == c)
  let hard := h.hardReq.filter (fun r => r.chan == c)
  let blown := (h.blown.filter (fun r => r.chan == c)).length
  slice (leBytes 1 (b2n (Tab.at h.chans c {}).failed) ++ leBytes 1 soft.length ++ leBytes 1 hard.length ++ leBytes 1 blown ++ leBytes 4 0 ++
    slice (soft.flatMap (fun r => leBytes 4 r.word)) 0 256 ++ slice (hard.flatMap (fun r => leBytes 4 r.word)) 0 128) 0 448

/-- A repair record from byte 12 on. -/
def HbmMem.repairBody (h : HbmMem) : List Byte := List.replicate 52 0 ++ (List.range 256).flatMap h.repairEntry

/-- A repair record written to the copy that is not valid or holds the lower SERIAL (R659). -/
def repairPut (m : Mem) (body : List Byte) : Mem :=
  let keep := (repairCopy m).getD true
  let serial := (if repairValid m keep then repairSerial m keep else 0) + 1
  flashPut m (repairAt !keep) 0x20000 (leBytes 4 0x5A524550 ++ leBytes 4 serial.toNat ++ leBytes 4 (crc32c body) ++ body)

/-- Soft entries of a channel in a repair record. -/
def recordSoft (m : Mem) (b : Bool) (c : Nat) : List RowRemap :=
  let a := repairAt b + 64 + 448 * c
  (List.range (min 64 (m.read (a + 1)).toNat)).filterMap (fun i => rowOfWord c (leNat (m.readN (a + 8 + 4 * i) 4)))

/-- Hard requests of a channel in a repair record. -/
def recordHard (m : Mem) (b : Bool) (c : Nat) : List RowRemap :=
  let a := repairAt b + 64 + 448 * c
  (List.range (min 32 (m.read (a + 2)).toNat)).filterMap (fun i => rowOfWord c (leNat (m.readN (a + 264 + 4 * i) 4)))

/-- Channels a repair record marks FAILED. -/
def recordFailed (m : Mem) (b : Bool) : List Nat := (List.range 256).filter (fun c => (m.read (repairAt b + 64 + 448 * c)).toNat.testBit 0)

/-- The index of the newest valid ageing record, the one with the highest SERIAL (R615, R616). -/
def newestAge (m : Mem) : Option Nat :=
  (List.range 5120).foldl (fun best n =>
    let a := ageAt n
    if leNat (m.readN a 4) ≠ 0x5A414745 then best
    else if leNat (m.readN (a + 60) 4) ≠ crc32c (m.readN a 60 ++ m.readN (a + 64) 9008) then best
    else match best with
      | none => some n
      | some k => if leNat (m.readN (ageAt k + 4) 4) < leNat (m.readN (a + 4) 4) then some n else best) none

/-- A flash write done (R657 to R660). -/
def FlashJob.run (j : FlashJob) (m : Mem) : Mem :=
  match j.kind with
  | .fw1 _ => flashPut m j.addr 0x100000 j.bytes
  | .fw2 _ => flashPut m j.addr 0x2000000 j.bytes
  | .sheet => flashPut m j.addr 0x10000 j.bytes
  | .repair => repairPut m j.bytes
  | .ageing =>
    let m := if (j.addr - 0x04400000) % 65536 = 0 then m.clearN j.addr 65536 else m
    flashPut m j.addr 12288 j.bytes

/-- A flash write lost in progress (R645): what it was writing holds no valid record or image (R658, R659). -/
def FlashJob.lost (j : FlashJob) (m : Mem) : Mem :=
  match j.kind with
  | .fw1 _ => m.clearN j.addr 0x100000
  | .fw2 _ => m.clearN j.addr 0x2000000
  | .sheet => m.clearN j.addr 0x10000
  | .repair => m.clearN (repairAt !((repairCopy m).getD true)) 0x20000
  | .ageing => m.clearN j.addr (if (j.addr - 0x04400000) % 65536 = 0 then 65536 else 12288)

end Sys2Proof.Machine
end

