-- ==== Sys2Proof/Machine/Boot.lean ====
section
/-! DEFINITION. Staged start (R552 to R557), resets (R558 to R560), the module's edges (R643 to R646, R651) and flash writes in
their turn (R657). -/

namespace Sys2Proof.Machine

/-- The state with the start and protection unit changed. -/
def State.updBoot (s : State) (f : Boot → Boot) : State := { s with boot := f s.boot }

/-- ms from power good, as BOOT_T_k holds them (R552, R553). -/
def State.bootMs (s : State) : Nat := (s.nowUs - s.mod.pgAt) / 1000 % 65536

/-- A stage entered and completed: its number, its time noted. -/
def State.stageDone (s : State) (stage : Nat) : State :=
  s.updBoot (fun b => { b with stage := stage, times := b.times.set (stage - 1) s.bootMs })

/-- A stage that cannot be completed: the device holds in it (R554). -/
def State.hold (s : State) (stage reason detail : Nat) : State :=
  s.updBoot (fun b => { b with stage := stage, halted := true, reason := BitVec.ofNat 8 reason, detail := BitVec.ofNat 32 detail })

/-! ### Stage A -/

/-- A 128-bit number drawn from the entropy source (R576). -/
def State.drawNonce (s : State) : State :=
  s.updBoot (fun b => { b with
    nonce := BitVec.ofNat 128 ((Config.entropy b.entropyCtr).toNat + 2 ^ 64 * (Config.entropy (b.entropyCtr + 1)).toNat), entropyCtr := b.entropyCtr + 2 })

/-- FW1 loaded from the slot committed last, else from the other (R557). -/
def State.loadFw1 (s : State) : State :=
  let b := s.boot
  let try_ := fun (k : Bool) => let img := flashImage b.flash (fw1At k) 1
    if b.fuses.checkImage 1 img = 0 then some (loadedOf img) else none
  match try_ b.last1 with
  | some l => (s.updBoot (fun b => { b with fw1 := some l, slot1 := b.last1 })).stageDone 1
  | none =>
    match try_ (!b.last1) with
    | some l => (s.updBoot (fun b => { b with fw1 := some l, slot1 := !b.last1 })).stageDone 1
    | none => (s.hold 1 0x01 (b2n (!b.last1))).updBoot (fun b => { b with recovery := true })

/-- STAGE_A (R552, R556, R557, R560): the link trains at a width and a rate, FW1 is verified; a trip holds the device here. -/
def execStageA (width rate : BitVec 2) (err : Option Word) (s : State) : Host.Outcome State Fault Refusal :=
  if !s.mod.good || s.boot.stage ≠ 0 then .next s
  else
    let s := { s with host := { s.host with cfgReady := true, width := width, rate := rate } }.drawNonce
    match err with
    | some a => .next (s.hold 1 0x22 a.toNat)
    | none =>
      let s := s.loadFw1
      .next (if s.gaf.tripped && !s.boot.halted then s.hold 1 0x30 s.gaf.tripTemp.toNat else s)

/-! ### Stage B -/

/-- A call sheet put in force (R562, R564, R601). -/
def State.applySheet (s : State) (img : Loaded) (p : List Byte) : State :=
  let f := recField p
  { s with
    boot := { s.boot with sheet := p, sheetId := BitVec.ofNat 64 (f 8 8), sheetImg := some img, keptSheet := some (img, p) }
    gaf := { s.gaf with cap := BitVec.ofNat 11 (f 140 2) }
    mem := { s.mem with regs := { s.mem.regs with waterLow := BitVec.ofNat 16 (f 48 2), waterHigh := BitVec.ofNat 16 (f 50 2) } }
    sched := { s.sched with
      lcBanks := f 54 1
      regs := { s.sched.regs with quantum := BitVec.ofNat 20 (f 64 4), holdLimit := BitVec.ofNat 20 (f 68 4) } } }

/-- FW2 from the slot committed last, else from the other (R557, R561). -/
def State.loadFw2 (s : State) : State :=
  let b := s.boot
  let img := fun (k : Bool) => flashImage b.flash (fw2At k) 2
  let check := fun (k : Bool) => b.fuses.checkImage 2 (img k)
  let use := fun (k : Bool) => s.updBoot (fun b => { b with fw2 := some (loadedOf (img k)), keptFw2 := some (loadedOf (img k)), slot2 := k })
  if check b.last2 = 0 then use b.last2
  else if check (!b.last2) = 0 then use (!b.last2)
  else s.hold 1 0x02 (check (!b.last2))

/-- The call sheet read, verified and applied (R562, R563). -/
def State.loadSheet (s : State) : State :=
  let img := flashImage s.boot.flash sheetAt 3
  match s.boot.fuses.sheetFault img with
  | some (reason, detail) => s.hold 1 reason detail
  | none => (s.applySheet (loadedOf img) (imagePayload img)).stageDone 2

/-- STAGE_B (R552, R554, R558): FW2 and the call sheet verified and applied; after a warm reset the images kept are used. -/
def execStageB (err : Option Word) (s : State) : Host.Outcome State Fault Refusal :=
  if s.boot.stage ≠ 1 ∨ s.boot.halted then .next s
  else
    match s.boot.keptFw2, s.boot.keptSheet with
    | some f, some (img, p) => .next (((s.updBoot (fun b => { b with fw2 := some f })).applySheet img p).stageDone 2)
    | _, _ =>
      match err with
      | some a => .next (s.hold 1 0x22 a.toNat)
      | none =>
        let s := s.loadFw2
        .next (if s.boot.halted then s else s.loadSheet)

/-! ### Stage C -/

/-- The bank of a row. -/
def RowRemap.bank (r : RowRemap) : Nat × Nat × Nat := (r.chan, r.pc, r.row % 64)

/-- Hard requests blown into spare rows, two a bank (R407, R659). -/
def HbmMem.blow (h : HbmMem) : HbmMem :=
  h.hardReq.foldl (fun h r =>
    if (h.blown.filter (fun q => q.bank == r.bank)).length < 2 then { h with blown := h.blown ++ [r], hardReq := h.hardReq.erase r, recOwed := true } else h) h

/-- The repair record applied (R398, R407, R659): FAILED channels, soft entries, hard requests. -/
def State.applyRepairs (s : State) : State :=
  match repairCopy s.boot.flash with
  | none => s
  | some b =>
    let m := s.boot.flash
    let chans := (recordFailed m b).foldl (fun (t : Tab HbmChan) c => Tab.upd t c {} (fun v => { v with failed := true })) s.hbm.chans
    { s with hbm := { s.hbm with
      chans := chans
      remaps := (List.range 256).flatMap (recordSoft m b)
      hardReq := (List.range 256).flatMap (recordHard m b) }.blow }

/-- Hours continued from the newest ageing record (R615). -/
def State.readAge (s : State) : State :=
  match newestAge s.boot.flash with
  | none => s
  | some n =>
    let v := fun (k : Nat) => BitVec.ofNat 32 (leNat (s.boot.flash.readN (ageAt n + k) 4))
    s.updGaf (fun g => { g with
      serial := v 4, life := if g.life.toNat < (v 8).toNat then v 8 else g.life
      stress := if g.stress.toNat < (v 12).toNat then v 12 else g.stress, agePos := (n + 1) % 5120 })

/-- Reports under way taken by the fault unit in turn (R389). -/
def State.takeReports (s : State) : State :=
  s.flt.inFlight.foldl (fun s r => ((s.offChannel r).takeReport r).1) s

/-- A march test's failures handled (R389). -/
def State.marchFails (s : State) (fails : List SramFail) : State :=
  ((fails.map (fun f => (⟨f.kind.toNat, f.unit.toNat, f.bank.toNat, f.word.toNat⟩ : BankFail))).filter (fun f => bankExists (f.kind, f.unit, f.bank))).foldl
    (fun s f => s.bankFailed f) s

/-- MiB the stores and LC_RESERVE take (R565). -/
def State.storesMib (s : State) : Nat := s.storeEnd / 1048576 + s.sheet 56 4 * 64

/-- STAGE_C (R389, R398, R400, R407, R552, R565, R610, R615): repairs blown, islands planned, HBM trained while the SRAMs are
tested, cores fenced, the stores placed. -/
def execStageC (err : Option Word) (failed : List ChannelIx) (trials : List IslandTrials) (fails : List SramFail) (s : State) :
    Host.Outcome State Fault Refusal :=
  if s.boot.stage ≠ 2 ∨ s.boot.halted then .next s
  else
    match err with
    | some a => .next (s.hold 3 0x22 a.toNat)
    | none =>
      let s := (s.applyRepairs.readAge.planAll trials).marchFails fails
      let s := { s with mem := { s.mem with sram := [] } }
      let s := s.takeReports
      let out := (List.range 256).filter (fun c => (s.chan c).failed || failed.any (fun f => f.val == c))
      if 8 < out.length then .next (s.hold 3 0x20 out.length)
      else
        let cap := 589824 - 2304 * out.length
        let s := { s with
          hbm := { s.hbm with out := out, trained := true, bytes := [], poison := [], bad := [] }
          mem := { s.mem with
            regs := { s.mem.regs with cap := BitVec.ofNat 32 cap, tableBase := 0 }
            used := if s.storeEnd = 0 then [] else [(0, s.storeEnd)] } }
        if cap - 1024 < s.storesMib then .next (s.hold 3 0x21 (s.storesMib - (cap - 1024)))
        else
          let t : State := s.stageDone 3
          .next (if t.role = 2 then t.fabricOfOne.stageDone 4 else t)

/-! ### Stages D and E -/

/-- STAGE_D (R529 to R533, R552): fabric discovery begins. -/
def execStageD (s : State) : Host.Outcome State Fault Refusal :=
  if s.boot.stage ≠ 3 ∨ s.boot.halted then .next s
  else .next (s.updBoot (fun b => { b with stage := 4 })).startDiscovery

/-- The generation of the next opening of the intake (R493). -/
def nextGen (g : Half) : Half := if g = 0xFFFE then 0 else g + 1

/-- STAGE_E (R493, R552): slates, queues and the intake are reset, and the intake opens. -/
def execStageE (s : State) : Host.Outcome State Fault Refusal :=
  if s.boot.stage ≠ 4 ∨ s.boot.halted ∨ s.boot.atD.isSome ∨ s.stopped then .next s
  else
    let s := { s with
      sched := { s.sched with slates := [], waits := [], tiles := [], kerns := [] }
      host := { s.host with intake := true, gen := nextGen s.host.gen, queues := [], slots := [], cpls := [] } }
    .next (s.stageDone 5)

/-! ### Resets -/

/-- A port's record after a warm reset: its error counts and its cable stay (R560). -/
def FabPort.warmed (v : FabPort) : FabPort := { ({} : FabPort) with corrected := v.corrected, replays := v.replays, present := v.present }

/-- A channel's record after a warm reset: its counts stay (R560). -/
def HbmChan.warmed (v : HbmChan) : HbmChan := { ({} : HbmChan) with corr := v.corr, uncorr := v.uncorr }

/-- What is no state of the device's own, or lies outside its power: the commands waiting, host memory, the record of what was
sent, the clock and the free values' index; the fuses and the flash; the cables. -/
def State.outside (s : State) : State :=
  let f : State := {}
  { f with
    pending := s.pending, out := s.out, nowUs := s.nowUs, freeCtr := s.freeCtr, mod := { s.mod with i3cAddr := none }
    mem := { f.mem with host := s.mem.host }
    hbm := { f.hbm with blown := s.hbm.blown }
    boot := { f.boot with
      fuses := s.boot.fuses, array := s.boot.array, flash := s.boot.flash, last1 := s.boot.last1, last2 := s.boot.last2
      entropyCtr := s.boot.entropyCtr }
    fab := { f.fab with ports := s.fab.ports.map (fun (p : Nat × FabPort) => (p.1, { ({} : FabPort) with present := p.2.present })) } }

/-- A warm reset (R558, R560): what it keeps, and the stages to run again. -/
def State.warmReset (s : State) : State :=
  let f := s.outside
  { f with
    host := { f.host with gen := s.host.gen }
    boot := { f.boot with resets := satAdd s.boot.resets 1, keptFw2 := s.boot.keptFw2, keptSheet := s.boot.keptSheet, slot2 := s.boot.slot2 }
    gaf := { f.gaf with
      life := s.gaf.life, stress := s.gaf.stress, lifeUs := s.gaf.lifeUs, stressUs := s.gaf.stressUs, tripped := s.gaf.tripped, tripReg := s.gaf.tripReg, tripTemp := s.gaf.tripTemp }
    hbm := { f.hbm with chans := s.hbm.chans.map (fun (p : Nat × HbmChan) => (p.1, p.2.warmed)) }
    flt := { f.flt with ecc := s.flt.ecc }
    fab := { f.fab with ports := s.fab.ports.map (fun (p : Nat × FabPort) => (p.1, p.2.warmed)) } }

/-- A warm reset, or its wait for the flash write in progress (R558, R657); none while power good is low. -/
def State.warm (s : State) : State :=
  if !s.mod.good then s
  else if s.boot.jobs.isEmpty then s.warmReset
  else s.updBoot (fun b => { b with warmWaits := true })

/-- PERST_ASSERT (R558, R650). -/
def execPerstAssert (s : State) : Host.Outcome State Fault Refusal := .next s.warm

/-- HOT_RESET (R558): a CXL Hot Reset or a Secondary Bus Reset. -/
def execHotReset (s : State) : Host.Outcome State Fault Refusal := .next s.warm

/-- BOOT_WARM (R558, R579): BOOT_CTL written with WARM and its key. -/
def execBootWarm (s : State) : Host.Outcome State Fault Refusal :=
  if s.barTakes .fromA then .next s.warm else .next (s.barDropped 0x20040)

/-- FLASH_WRITE_DONE (R570, R657, R659): the flash write in progress ends, with an error or not; a warm reset that waits for it
runs. -/
def execFlashWriteDone (err : Bool) (s : State) : Host.Outcome State Fault Refusal :=
  match s.boot.jobs with
  | [] => .next s
  | j :: rest =>
    let b := s.boot
    let b := { b with jobs := rest, flash := if err then j.lost b.flash else j.run b.flash }
    let b := match j.kind with
      | .fw1 k => { b with updBusy := false, updResult := if err then 4 else 0, last1 := if err then b.last1 else k }
      | .fw2 k => { b with updBusy := false, updResult := if err then 4 else 0, last2 := if err then b.last2 else k }
      | .sheet => { b with updBusy := false, updResult := if err then 4 else 0 }
      | _ => b
    let t := { s with boot := b }
    .next (if b.warmWaits then t.warmReset else t)

/-! ### The module's edges -/

/-- The state of a device without power: what its power does not hold is gone, and a flash write in progress is lost (R645). -/
def State.unpowered (s : State) : State :=
  let t := s.outside
  match s.boot.jobs with
  | [] => t
  | j :: _ => t.updBoot (fun b => { b with flash := j.lost b.flash })

/-- Power good falls (R645), for a cause that holds MOD_ALERT# low or not (R651). -/
def State.powerFall (s : State) (alert : Bool) : State :=
  if s.mod.good then
    let s := s.unpowered
    { s with mod := { s.mod with good := false, railsOff := false, alert := alert } }
  else s

/-- MOD_EN_RISE (R643). -/
def execModEnRise (s : State) : Host.Outcome State Fault Refusal := .next { s with mod := { s.mod with modEn := true } }

/-- MOD_EN_FALL (R643, R645). -/
def execModEnFall (s : State) : Host.Outcome State Fault Refusal :=
  .next ({ s with mod := { s.mod with modEn := false } }.powerFall false)

/-- VIN_RISE (R643): VIN rises above 46.5 V. -/
def execVinRise (s : State) : Host.Outcome State Fault Refusal := .next { s with mod := { s.mod with vinOk := true } }

/-- VIN_UNDERVOLTAGE (R643, R645): VIN below 44.0 V for 1 ms. -/
def execVinUndervoltage (s : State) : Host.Outcome State Fault Refusal :=
  .next ({ s with mod := { s.mod with vinOk := false } }.powerFall true)

/-- VIN_OVERVOLTAGE (R643, R645): VIN above 63.0 V. -/
def execVinOvervoltage (s : State) : Host.Outcome State Fault Refusal :=
  .next ({ s with mod := { s.mod with vinOk := false } }.powerFall true)

/-- RAIL_FAULT (R645): a rail out of tolerance for 50 µs. -/
def execRailFault (s : State) : Host.Outcome State Fault Refusal := .next (s.powerFall true)

/-- RAIL_OFF_INTERVAL (R643): every rail has been off for 100 ms. -/
def execRailOffInterval (s : State) : Host.Outcome State Fault Refusal :=
  if s.mod.good then .next s else .next { s with mod := { s.mod with railsOff := true } }

/-- BOOT_CTL written with COLD and its key (R559, R645). -/
def State.cold (s : State) : State := if s.mod.good then { s with mod := { s.mod with cold := true } }.powerFall false else s

/-- BOOT_COLD (R559, R579, R645). -/
def execBootCold (s : State) : Host.Outcome State Fault Refusal :=
  if s.barTakes .fromA then .next s.cold else .next (s.barDropped 0x20040)

/-- COLD_INTERVAL_END (R559, R646): the 100 ms of BOOT_CTL.COLD end. -/
def execColdIntervalEnd (s : State) : Host.Outcome State Fault Refusal := .next { s with mod := { s.mod with cold := false } }

/-- Whether the conditions of R643 hold. -/
def Module.ready (m : Module) : Bool := m.modEn && m.vinOk && !m.cold && m.railsOff

/-- POWER_GOOD_RISE (R643, R644, R651): a start from power-on, the fuses read with what SEC_PROG_ blew. -/
def execPowerGoodRise (s : State) : Host.Outcome State Fault Refusal :=
  if s.mod.good || !s.mod.ready then .next s
  else
    let s := s.unpowered
    .next { s with
      mod := { s.mod with good := true, alert := false, pgAt := s.nowUs }
      boot := { s.boot with fuses := s.boot.fuses.readArray s.boot.array } }

/-- MOD_ALERT# held low (R651). -/
def State.alertLow (s : State) : Bool := s.gaf.tripped || s.flt.fatal || s.boot.halted || s.mod.alert

end Sys2Proof.Machine
end

