-- ==== Sys2Proof/Machine/Secure.lean ====
section
/-! DEFINITION. Protection (17_start_and_protection): updates of the flash (R569, R570), anti-rollback (R568), fuse words (R567),
debug tokens (R574 to R577), identity and attestation (R571 to R573), IDE keys (R483, R577) and the TAP. -/

namespace Sys2Proof.Machine

/-! ### Debug tokens -/

/-- The SPDM sessions ended and the IDE keys erased (R577). -/
def State.endSessions (s : State) : State :=
  let t := s.updBoot (fun b => { b with spdm := { b.spdm with keyEx := false, session := false, ideKeys := 0, ideGo := 0 } })
  { t with host := { t.host with ideUp := false } }

/-- What R576 answers for a token: RESULT of SEC_DBG_STATE (R579), its conditions tried in R576's order. -/
def State.tokenResult (s : State) (img : List Byte) : Nat :=
  let f := s.boot.fuses
  let p := imagePayload img
  if f.dbgFuse ≠ 1 then 9
  else if f.checkImage 4 img ≠ 0 then f.checkImage 4 img
  else if recField p 0 16 ≠ f.uid.toNat then 7
  else if recField p 16 16 ≠ s.boot.nonce.toNat then 8
  else if recField p 32 1 % 32 = 0 then 10
  else 0

/-- A token's grants in force (R576, R577). -/
def State.takeToken (s : State) (img : List Byte) : State :=
  let g := BitVec.ofNat 5 (recField (imagePayload img) 32 1)
  let s := if g.toNat.testBit 0 || g.toNat.testBit 4 then s.endSessions else s
  s.updBoot (fun b => { b with grants := b.grants ||| g, tokenDigest := slice img 32 32 })

/-- TOKEN_SUBMIT (R575 to R577, R579): SEC_DBG_CTL written with SUBMIT. -/
def State.submit (s : State) : State :=
  let img := s.boot.tokenWin.readN 0 5440
  let r := s.tokenResult img
  (if r = 0 then s.takeToken img else s).updBoot (fun b => { b with dbgResult := BitVec.ofNat 4 r })

/-- TOKEN_SUBMIT. -/
def execTokenSubmit (s : State) : Host.Outcome State Fault Refusal :=
  if s.barTakes .fromA then .next s.submit else .next (s.barDropped 0x30014)

/-- SEC_DBG_CTL written with DROP (R579). -/
def State.dropGrants (s : State) : State := s.updBoot (fun b => { b with grants := 0, tokenDigest := [] })

/-- DEBUG_DROP (R579). -/
def execDebugDrop (s : State) : Host.Outcome State Fault Refusal :=
  if s.barTakes .fromA then .next s.dropGrants else .next (s.barDropped 0x30014)

/-! ### Updates -/

/-- BOOT_UPD_STATUS with a result (R579). -/
def State.updEnd (s : State) (result check : Nat) : State :=
  s.updBoot (fun b => { b with updResult := BitVec.ofNat 3 result, updCheck := BitVec.ofNat 4 check })

/-- CLEAR (R570). -/
def State.updClear (s : State) : State := (s.updBoot (fun b => { b with staged := [] })).updEnd 0 0

/-- APPEND (R570): bytes of the window added to the staging area of 16 MiB. -/
def State.updAppend (s : State) (len : Nat) : State :=
  let n := min len 32768
  if 16777216 < s.boot.staged.length + n then s.updEnd 2 0
  else (s.updBoot (fun b => { b with staged := b.staged ++ b.win.readN 0 n })).updEnd 0 0

/-- A revocation image applied or refused (R569). -/
def State.revoke (s : State) (img : List Byte) : State :=
  let f := s.boot.fuses
  let p := imagePayload img
  let m := recField p 0 1
  let all_ := { f with revoke := f.revoke ||| BitVec.ofNat 4 m }
  if m < 16 ∧ recField p 1 63 = 0 ∧ ¬ m.testBit (imageSlot img) ∧ (List.range 4).any all_.slotGood then
    (s.updBoot (fun b => { b with fuses := all_ })).updEnd 0 0
  else s.updEnd 5 0

/-- A checked image written to flash: BUSY until its write ends (R570, R657). -/
def State.commitFlash (s : State) (kind : FlashKind) (addr : Nat) : State :=
  ((s.flashJob ⟨kind, addr, s.boot.staged⟩).updEnd 0 0).updBoot (fun b => { b with updBusy := true })

/-- COMMIT (R570). -/
def State.updCommit (s : State) : State :=
  let img := s.boot.staged
  let kind := imageKind img
  let check := s.boot.fuses.checkImage kind img
  if kind = 0 ∨ 5 < kind then s.updEnd 1 1
  else if check ≠ 0 then s.updEnd 1 check
  else if img.length ≠ imageHead + imageLength img then s.updEnd 1 0
  else if s.boot.recovery ∧ kind ≠ 1 then s.updEnd 3 0
  else match kind with
    | 1 => s.commitFlash (.fw1 !s.boot.slot1) (fw1At !s.boot.slot1)
    | 2 => s.commitFlash (.fw2 !s.boot.slot2) (fw2At !s.boot.slot2)
    | 3 => s.commitFlash .sheet sheetAt
    | 4 => if s.tokenResult img = 0 then (s.takeToken img).updEnd 0 0 else s.updEnd 1 0
    | _ => s.revoke img

/-- BOOT_UPD_CTL written (R570, R579). -/
def State.updCtl (s : State) (v : Nat) : State :=
  let s := s.updBoot (fun b => { b with updOp := BitVec.ofNat 2 v, updLen := BitVec.ofNat 16 (fld v 2 16) })
  if !v.testBit 31 || s.boot.updBusy then s
  else match v % 4 with
    | 0 => s.updClear
    | 1 => s.updAppend (fld v 2 16)
    | 2 => s.updCommit
    | _ => s

/-- UPD_CLEAR (R570). -/
def execUpdClear (s : State) : Host.Outcome State Fault Refusal :=
  if s.barTakes .fromA then .next (s.updCtl (2 ^ 31)) else .next (s.barDropped 0x20050)

/-- UPD_APPEND (R570). -/
def execUpdAppend (len : Half) (s : State) : Host.Outcome State Fault Refusal :=
  if s.barTakes .fromA then .next (s.updCtl (2 ^ 31 + 4 * len.toNat + 1)) else .next (s.barDropped 0x20050)

/-- UPD_COMMIT (R569, R570). -/
def execUpdCommit (s : State) : Host.Outcome State Fault Refusal :=
  if s.barTakes .fromA then .next (s.updCtl (2 ^ 31 + 2)) else .next (s.barDropped 0x20050)

/-! ### Rollback and fuse words -/

/-- Whether a raise of the rollback count is accepted (R568). -/
def State.rollbackOk (s : State) (target : Nat) : Bool :=
  let under := fun (l : Option Loaded) => match l with | some x => decide (target ≤ x.svn) | none => false
  s.boot.stage == 5 && decide (s.boot.fuses.count < target) && decide (target ≤ 64) && under s.boot.fw1 && under s.boot.fw2 && under s.boot.sheetImg

/-- SEC_ROLLBACK_CTL written (R568, R579); a GO while a raise is under way changes nothing but TARGET
(DESIGN CHOICE, log entry 134). -/
def State.rollbackCtl (s : State) (v : Nat) : State :=
  let s := s.updBoot (fun b => { b with rbTarget := BitVec.ofNat 7 v })
  if !v.testBit 31 || s.boot.rbResult == 1 then s
  else s.updBoot (fun b => { b with rbResult := if s.rollbackOk (v % 128) then 1 else 2, rbGoal := BitVec.ofNat 7 v })

/-- ROLLBACK_GO (R568). -/
def execRollbackGo (target : BitVec 7) (s : State) : Host.Outcome State Fault Refusal :=
  if s.barTakes .fromA then .next (s.rollbackCtl (2 ^ 31 + target.toNat)) else .next (s.barDropped 0x30008)

/-- ROLLBACK_BIT_BLOW (R568): the next bit of the thermometer code, in ascending order. -/
def execRollbackBitBlow (s : State) : Host.Outcome State Fault Refusal :=
  if s.boot.rbResult ≠ 1 then .next s
  else
    let n := s.boot.fuses.count
    .next (s.updBoot (fun b => { b with
      fuses := { b.fuses with rollback := b.fuses.rollback ||| BitVec.ofNat 64 (2 ^ n) }
      rbResult := if b.rbGoal.toNat ≤ n + 1 then 0 else 1 }))

/-- SEC_PROG_CTL written (R567): DATA blown into WORD, to take effect at the next power-on; nothing after FUSE_LOCK. -/
def State.progCtl (s : State) (v : Nat) : State :=
  if s.boot.fuses.fuseLock then s
  else if !v.testBit 0 then s.updBoot (fun b => { b with progGo := false })
  else s.updBoot (fun b => { b with progGo := true, array := Tab.upd b.array b.progAddr.toNat 0#32 (fun w => w ||| b.progData) })

/-- FUSE_BLOW (R567). -/
def execFuseBlow (s : State) : Host.Outcome State Fault Refusal :=
  if s.barTakes .fromA then .next (s.progCtl 1) else .next (s.barDropped 0x30208)

/-! ### Identity and attestation -/

/-- The ROM's digest, which no chapter gives. -/
def romDigest : List Byte := Config.cryptoBytes 0 []

/-- The seed of the identity key (R571). -/
def State.identitySeed (s : State) : List Byte := sha3_256 (leBytes 32 s.boot.fuses.idSeed.toNat ++ [0x49, 0x44])

/-- The seed of the alias key (R571). -/
def State.aliasSeed (s : State) : List Byte :=
  sha3_256 (leBytes 32 s.boot.fuses.idSeed.toNat ++ [0x41, 0x4C] ++ romDigest ++ (s.boot.fw1.map Loaded.digest).getD [])

/-- The ML-DSA-65 public key of a seed; key generation is FIPS 204's. -/
def publicKey (seed : List Byte) : List Byte := Config.cryptoBytes 1 seed

/-- An ML-DSA-65 signature under a seed's key. -/
def signature (seed msg : List Byte) : List Byte := Config.cryptoBytes 2 (seed ++ msg)

/-- The alias certificate, issued by FW2 in stage B (R571). -/
def State.aliasCert (s : State) : List Byte :=
  if s.boot.fw2.isSome then publicKey s.aliasSeed ++ signature s.identitySeed (publicKey s.aliasSeed) else []

/-- A certificate chain: slot 0 the identity chain of the flash, slot 1 with the alias certificate behind it (R572). -/
def State.chain (s : State) (slot1 : Bool) : List Byte := s.boot.flash.readN chainAt 0x10000 ++ (if slot1 then s.aliasCert else [])

/-- BOOT_STAGE (R579). -/
def State.stageWord (s : State) : Nat :=
  let b := s.boot
  b.stage + 8 * b2n b.halted + 16 * b2n b.recovery + 256 * b.reason.toNat

/-- The fuse flags as SEC_FUSE holds them (R579). -/
def Fuses.word (f : Fuses) : Nat :=
  (if f.dbgFuse = 2 then 3 else f.dbgFuse.toNat) + 4 * b2n f.tstLock + 8 * b2n f.ctrNoUser + 16 * b2n f.ctrNoHost + 32 * b2n f.ideMand + 64 * b2n f.fuseLock +
  256 * f.revoke.toNat + 4096 * flagsNat ((List.range 4).map (fun k => f.root k != 0))

/-- The grants in force (R579). -/
def State.grantBits (s : State) : Nat := if s.boot.fuses.dbgFuse = 0 then 31 else s.boot.grants.toNat

/-- What a measurement block says of a loaded image. -/
def Loaded.measure (l : Loaded) : List Byte := l.digest ++ leBytes 4 l.svn

/-- A measurement block (R573); none when its item has not been loaded. -/
def State.measurement (s : State) (i : Nat) : Option (List Byte) :=
  let b := s.boot
  match i with
  | 1 => some romDigest
  | 2 => b.fw1.map Loaded.measure
  | 3 => b.fw2.map Loaded.measure
  | 4 => b.sheetImg.map (fun l => l.measure ++ leBytes 8 b.sheetId.toNat)
  | 5 => some (leBytes 4 b.fuses.word ++ leBytes 1 b.fuses.count)
  | 6 => some (leBytes 1 s.grantBits ++ slice b.tokenDigest 0 32)
  | 7 => some (leBytes 4 s.stageWord)
  | _ => none

/-- Whether the SPDM responder answers: from the end of stage A, and not in ROM recovery (R557, R572). -/
def State.spdmOn (s : State) : Bool := s.mod.good && s.boot.fw1.isSome

/-- An SPDM response sent. -/
def State.spdmSay (s : State) (code : String) (body : List Byte) : State := s.send (.spdm ⟨code, body⟩)

/-- A request answered where the responder answers and the requester has come far enough in the protocol, an error where it has
not (PRESUMED: the order is SPDM's own, log entry 52). -/
def State.spdmIf (s : State) (ok : Bool) (go : State → State) : State :=
  if !s.spdmOn then s else if ok then go s else s.spdmSay "ERROR" [4]

/-- The state with SPDM's own changed. -/
def State.updSpdm (s : State) (f : Spdm → Spdm) : State := s.updBoot (fun b => { b with spdm := f b.spdm })

/-- GET_VERSION (R572): SPDM 1.4; a new connection begins. -/
def execGetVersion (s : State) : Host.Outcome State Fault Refusal :=
  .next (s.spdmIf true (fun s => (s.updSpdm (fun p => { p with version := true, caps := false, algs := false, keyEx := false })).spdmSay "VERSION" [0x14]))

/-- GET_CAPABILITIES (R572). -/
def execGetCapabilities (s : State) : Host.Outcome State Fault Refusal :=
  .next (s.spdmIf s.boot.spdm.version (fun s => (s.updSpdm (fun p => { p with caps := true })).spdmSay "CAPABILITIES" []))

/-- NEGOTIATE_ALGORITHMS (R572): SHA3-256, ML-DSA-65, ML-KEM-768 and AES-256-GCM are the only ones; `meets` says that the
request offers them. -/
def execNegotiateAlgorithms (meets : Bool) (s : State) : Host.Outcome State Fault Refusal :=
  .next (s.spdmIf (s.boot.spdm.caps && meets) (fun s => (s.updSpdm (fun p => { p with algs := true })).spdmSay "ALGORITHMS" []))

/-- GET_DIGESTS (R572): the digests of both chains. -/
def execGetDigests (s : State) : Host.Outcome State Fault Refusal :=
  .next (s.spdmIf s.boot.spdm.algs (fun s => s.spdmSay "DIGESTS" (sha3_256 (s.chain false) ++ sha3_256 (s.chain true))))

/-- GET_CERTIFICATE (R572): a part of a slot's chain. -/
def execGetCertificate (slot1 : Bool) (offset length : Half) (s : State) : Host.Outcome State Fault Refusal :=
  .next (s.spdmIf s.boot.spdm.algs (fun s => s.spdmSay "CERTIFICATE" (((s.chain slot1).drop offset.toNat).take length.toNat)))

/-- CHALLENGE (R572): signed with the alias key. -/
def execChallenge (nonce : BitVec 256) (s : State) : Host.Outcome State Fault Refusal :=
  .next (s.spdmIf s.boot.spdm.algs (fun s => s.spdmSay "CHALLENGE_AUTH" (signature s.aliasSeed (leBytes 32 nonce.toNat))))

/-- GET_MEASUREMENTS (R572, R573): one block, or every block there is (index 0xFF), signed with the alias key or not. -/
def execGetMeasurements (index : Byte) (signed : Bool) (nonce : BitVec 256) (s : State) : Host.Outcome State Fault Refusal :=
  .next (s.spdmIf s.boot.spdm.algs (fun s =>
    let body := (if index = 0xFF then (List.range 8).filterMap s.measurement else (s.measurement index.toNat).toList).flatten
    s.spdmSay "MEASUREMENTS" (body ++ (if signed then signature s.aliasSeed (leBytes 32 nonce.toNat ++ body) else []))))

/-- KEY_EXCHANGE (R572): ML-KEM-768 with the responder's entropy, signed with the alias key. -/
def execKeyExchange (share : List Byte) (s : State) : Host.Outcome State Fault Refusal :=
  .next (s.spdmIf s.boot.spdm.algs (fun s =>
    let e := leBytes 8 (Config.entropy s.boot.entropyCtr).toNat
    let s := (s.updBoot (fun b => { b with entropyCtr := b.entropyCtr + 1 })).updSpdm (fun p => { p with keyEx := true })
    s.spdmSay "KEY_EXCHANGE_RSP" (Config.cryptoBytes 3 (share ++ e) ++ signature s.aliasSeed (share ++ e))))

/-- FINISH (R572): the session opens where the requester's verification holds. -/
def execFinish (verified : Bool) (s : State) : Host.Outcome State Fault Refusal :=
  .next (s.spdmIf (s.boot.spdm.keyEx && verified) (fun s => (s.updSpdm (fun p => { p with keyEx := false, session := true })).spdmSay "FINISH_RSP" []))

/-- END_SESSION (R572). -/
def execEndSession (s : State) : Host.Outcome State Fault Refusal :=
  .next (s.spdmIf s.boot.spdm.session (fun s => (s.updSpdm (fun p => { p with session := false })).spdmSay "END_SESSION_ACK" []))

/-- IDE_KM in a secured message (R481, R483, R572): keys programmed for a stream (op 0), the stream brought up (op 1) or taken
down (op 2); other messages change nothing. Streams: 0 CXL.io, 1 CXL.cachemem. -/
def execIdeKm (op : BitVec 2) (mem : Bool) (s : State) : Host.Outcome State Fault Refusal :=
  .next (s.spdmIf s.boot.spdm.session (fun s =>
    let m : BitVec 2 := if mem then 2 else 1
    let s := s.updSpdm (fun p => match op.toNat with
      | 0 => { p with ideKeys := p.ideKeys ||| m }
      | 1 => { p with ideGo := p.ideGo ||| (m &&& p.ideKeys) }
      | 2 => { p with ideGo := p.ideGo &&& ~~~m, ideKeys := p.ideKeys &&& ~~~m }
      | _ => p)
    { s with host := { s.host with ideUp := s.boot.spdm.ideGo == 3 } }.spdmSay "IDE_KM_ACK" []))

/-! ### JTAG -/

/-- TAP_INSTRUCTION (R574): BYPASS (0), IDCODE (1) or another. A closed port holds BYPASS and answers IDCODE; what another
instruction does to the device and the stacks is not described. -/
def execTapInstruction (instr : BitVec 2) (s : State) : Host.Outcome State Fault Refusal :=
  if !s.mod.good then .next s
  else if instr = 1 then .next (s.send (.tap Config.idcode))
  else if instr = 0 ∨ !s.granted 0 then .next (s.send (.tap 0))
  else .refused .debugPort

end Sys2Proof.Machine
end

