-- ==== Sys2Proof/Machine/Dailies.lean ====
section
/-! DEFINITION. The dailies (18_dailies): tokens issued (R589, R591), dump records and their ring (R592 to R594). -/

namespace Sys2Proof.Machine

/-- A token issued, or skipped while the record before it has not been written (R589, R591). -/
def State.issueToken (s : State) (snap : Bool) : State :=
  if s.perf.token.isSome then s.updPerf (fun p => { p with skip := satAdd p.skip 1, skipped := p.skipped || !snap })
  else s.updPerf (fun p => { p with token := some (snap, p.epoch + 1), reached := [], latched := [] })

/-- PERF_PERIOD_TICK (R589, R592). -/
def execPerfPeriodTick (s : State) : Host.Outcome State Fault Refusal :=
  if s.perf.period = 0 ∨ s.boot.stage < 2 then .next s else .next (s.issueToken false)

/-- SNAP (R589, R598): PERF_CTL written with SNAP. -/
def execSnap (s : State) : Host.Outcome State Fault Refusal :=
  if s.barTakes .fromB then .next (s.issueToken true) else .next (s.barDropped 0x400000)

/-- SNAPSHOT_TOKEN (R588, R589): the first copy of the token reaches a unit; the I/O die, which issues it, is the first. -/
def execSnapshotToken (u : Fin 581) (s : State) : Host.Outcome State Fault Refusal :=
  match s.perf.token with
  | none => .next s
  | some (_, k) =>
    if s.perf.reached.contains u.val || (u.val != 580 && !s.perf.reached.contains 580) then .next s
    else .next (s.reach k u.val)

/-- A dump record (R592). -/
def State.dumpRecord (s : State) (snap : Bool) (k : Word) (time : Dword) (sweep : Word) : List Byte :=
  let p := s.perf
  leBytes 4 0x5A444C59 ++ leBytes 2 1 ++ leBytes 2 0 ++ leBytes 4 k.toNat ++ leBytes 4 p.period.toNat ++ leBytes 8 time.toNat ++
  leBytes 4 sweep.toNat ++ leBytes 4 (b2n snap + 2 * b2n p.skipped) ++ leBytes 4 p.drop.toNat ++ leBytes 4 p.skip.toNat ++
  List.replicate 24 0 ++ (List.range 20096).flatMap (fun g => leBytes 8 (Tab.at p.latched g 0#64).toNat)

/-- Records the ring holds; none where LOG2 disables it (R598). -/
def Perf.ringSize (p : Perf) : Nat := if 1 ≤ p.ringLog2.toNat ∧ p.ringLog2.toNat ≤ 12 then 2 ^ p.ringLog2.toNat else 0

/-- A record written to the ring, if it has room (R594); with ENABLE 0 or a ring disabled none is, and it counts as dropped (DESIGN
CHOICE, log entry 133). -/
def State.ringPut (s : State) (bs : List Byte) : Option State :=
  let p := s.perf
  if !p.ringEn || p.ringSize ≤ (p.prod - p.cons).toNat then none
  else (s.writeVA {} (p.ringBase.toNat + dumpBytes * (p.prod.toNat % p.ringSize)) bs false).map
    (fun s => s.updPerf (fun p => { p with prod := p.prod + 1 }))

/-- DUMP_RECORD_WRITE (R591, R592, R594): the latched values of a token that has reached every unit become one record, or are
dropped; `time` and `sweep` are ns from power good to the token's issue, and to the last latch. -/
def execDumpRecordWrite (time : Dword) (sweep : Word) (s : State) : Host.Outcome State Fault Refusal :=
  match s.perf.token with
  | none => .next s
  | some (snap, k) =>
    if s.perf.reached.length < 581 then .next s
    else
      let s := match s.ringPut (s.dumpRecord snap k time sweep) with
        | some s => s
        | none => s.updPerf (fun p => { p with drop := satAdd p.drop 1 })
      .next (s.updPerf (fun p => { p with token := none, reached := [], latched := [], skipped := false }))

end Sys2Proof.Machine
end

