-- ==== Sys2Proof/Machine/Repair.lean ====
section
/-! DEFINITION. The base dies' own work (12_hbm): refresh and write batches (R409, R411), scrubbing (R403 to R406), repair (R407,
R408), failed channels (R401) and the repair record (R659). -/

namespace Sys2Proof.Machine

/-- The state with the HBM subsystem changed. -/
def State.updHbm (s : State) (f : HbmMem → HbmMem) : State := { s with hbm := f s.hbm }

/-- HBM_REFRESH (R411, R415): a pseudo-channel's refresh. -/
def execHbmRefresh (c : ChannelIx) (_pc : Bool) (s : State) : Host.Outcome State Fault Refusal :=
  if !s.hbm.trained || s.hbm.out.contains c.val then .next s else .next (s.bump (.die (dieOfChan c.val)) 0x125 1)

/-- WRITE_BATCH_DRAIN (R409): every queued write of a pseudo-channel drains. -/
def execWriteBatchDrain (c : ChannelIx) (pc : Bool) (s : State) : Host.Outcome State Fault Refusal :=
  .next (s.updHbm (fun h => { h with writeQ := Tab.del h.writeQ (2 * c.val + b2n pc) }))

/-! ### Repair -/

/-- Soft entries of a pseudo-channel in use. -/
def HbmMem.softUsed (h : HbmMem) (c pc : Nat) : Nat := (h.remaps.filter (fun r => r.chan == c && r.pc == pc)).length

/-- Whether a row of a channel can be repaired: SID 0 to 2, ROW below 24,576, its channel not mapped out (R414). -/
def HbmMem.rowValid (h : HbmMem) (r : RowRemap) : Bool := decide (r.row % 4 < 3) && decide (r.row / 64 < 24576) && !h.out.contains r.chan

/-- A soft repair begun (R408): its row's requests held; RESULT 2 where no entry is free. -/
def State.beginSoft (s : State) (r : RowRemap) : State :=
  if 32 ≤ s.hbm.softUsed r.chan r.pc then s.updHbm (fun h => { h with repResult := 2 })
  else s.updHbm (fun h => { h with repBusy := true, repTarget := some r })

/-- A soft repair the base die starts on its own (R408), after the one under way; with no entry free it starts none, and RESULT, which
answers a request, stands (DESIGN CHOICE, log entry 127). -/
def State.autoSoft (s : State) (r : RowRemap) : State :=
  if !s.hbm.auto || s.hbm.remaps.contains r || s.hbm.repTarget == some r || s.hbm.autoQ.contains r then s
  else if s.hbm.repBusy then s.updHbm (fun h => { h with autoQ := h.autoQ ++ [r] })
  else if 32 ≤ s.hbm.softUsed r.chan r.pc then s
  else s.beginSoft r

/-- A hard repair requested (R407, R660): at most 32 pending for a channel, and two spare rows a bank. -/
def State.hardRequest (s : State) (r : RowRemap) : State :=
  let h := s.hbm
  if 32 ≤ (h.hardReq.filter (fun q => q.chan == r.chan)).length ∨ 2 ≤ ((h.blown ++ h.hardReq).filter (fun q => q.bank == r.bank)).length then
    s.updHbm (fun h => { h with repResult := 2 })
  else s.updHbm (fun h => { h with hardReq := h.hardReq ++ [r], repResult := 1, recOwed := true })

/-- HBM_REPAIR_CTL written (R408, R414). -/
def State.repairCtl (s : State) (v : Nat) : State :=
  let s := s.updHbm (fun h => { h with
    repChan := BitVec.ofNat 8 v, repPc := v.testBit 8, repRow := BitVec.ofNat 21 (fld v 9 21), repHard := v.testBit 30 })
  let r : RowRemap := ⟨v % 256, fld v 8 1, fld v 9 21⟩
  if !v.testBit 31 ∨ s.hbm.repBusy then s
  else
    if !s.hbm.rowValid r then s.updHbm (fun h => { h with repResult := 3 })
    else if v.testBit 30 then s.hardRequest r
    else s.beginSoft r

/-- SOFT_REPAIR (R408): HBM_REPAIR_CTL written with GO and HARD 0. -/
def execSoftRepair (ctl : Word) (s : State) : Host.Outcome State Fault Refusal :=
  if s.barTakes .endC then .next (s.repairCtl (ctl.toNat % 2 ^ 30 + 2 ^ 31)) else .next (s.barDropped 0x90060)

/-- HARD_REPAIR_REQUEST (R407): HBM_REPAIR_CTL written with GO and HARD 1. -/
def execHardRepairRequest (ctl : Word) (s : State) : Host.Outcome State Fault Refusal :=
  if s.barTakes .endC then .next (s.repairCtl (ctl.toNat % 2 ^ 30 + 2 ^ 30 + 2 ^ 31)) else .next (s.barDropped 0x90060)

/-- SOFT_REPAIR_COMPLETE (R408): the row's copy and its entry done, the held requests released; a repair of the base die's own
that waited begins. -/
def execSoftRepairComplete (s : State) : Host.Outcome State Fault Refusal :=
  match s.hbm.repTarget with
  | none => .next s
  | some r =>
    let s := s.updHbm (fun h => { h with
      repBusy := false, repTarget := none, repResult := 0, remaps := h.remaps ++ [r], recOwed := true })
    match s.hbm.autoQ with
    | [] => .next s
    | q :: rest => .next ((s.updHbm (fun h => { h with autoQ := rest })).autoSoft q)

/-! ### Scrubbing -/

/-- A burst's bytes with an error pattern of its data symbols added. -/
def State.flipBurst (s : State) (b : Nat) (errs : List (Nat × Nat)) : State :=
  s.updHbm (fun h => { h with bytes := errs.foldl (fun m e =>
    if e.1 < 64 then Mem.write m (64 * b + e.1) (BitVec.ofNat 8 ((Mem.read m (64 * b + e.1)).toNat ^^^ e.2)) else m) h.bytes })

/-- A number that names a row over the device. -/
def RowRemap.number (r : RowRemap) : Nat := r.chan + 256 * r.pc + 512 * r.row

/-- A burst corrected by the scrub and written back (R406, R408, R414): its channel's count, its row's count in the pass, and a
soft repair where three symbols or eight bursts of the row were corrected. -/
def State.scrubFixed (s : State) (b symbols : Nat) : State :=
  let r := hbmRow s.hbm.out (64 * b)
  let n := Tab.at s.hbm.rowFixes r.number 0 + 1
  let s := s.setChan r.chan { s.chan r.chan with corr := satAdd (s.chan r.chan).corr 1 }
  let s := s.updHbm (fun h => { h with fixedNow := h.fixedNow + 1, rowFixes := Tab.put h.rowFixes r.number n })
  let s := s.bump (.die (dieOfChan r.chan)) 0x126 1
  if 3 ≤ symbols ∨ 8 ≤ n then s.autoSoft r else s

/-- A burst the scrub finds poisoned or detects as uncorrectable (R405, R414). -/
def State.scrubBad (s : State) (b : Nat) (poison : Bool) : State :=
  let s := s.updHbm (fun h => if poison then { h with poison := insNat b h.poison } else { h with bad := insNat b h.bad })
  s.hbmTouched (64 * b) 64

/-- The scrub's position moved on, a pass ended with the last burst (R406, R414). -/
def State.scrubNext (s : State) : State :=
  if s.hbmBytes / 64 ≤ s.hbm.scrubPos + 1 then
    s.updHbm (fun h => { h with scrubPos := 0, passes := h.passes + 1, fixed := BitVec.ofNat 16 (min h.fixedNow 65535), fixedNow := 0, rowFixes := [] })
  else s.updHbm (fun h => { h with scrubPos := h.scrubPos + 1 })

/-- SCRUB_STEP (R403, R405, R406): the next burst read with an error pattern; what the decoder corrects is written back, and a
pattern it takes for another word leaves that word. -/
def execScrubStep (errs : List (Fin 72 × Byte)) (s : State) : Host.Outcome State Fault Refusal :=
  if !s.hbm.trained || s.hbm.scrubHours == 0 then .next s
  else
    let b := s.hbm.scrubPos
    if s.burstPoisoned b then .next (s.hbmTouched (64 * b) 64).scrubNext
    else
      match burstDecode errs with
      | .clean => .next ((s.countBurst b false).flipBurst b (errs.map (fun e => (e.1.val, e.2.toNat)))).scrubNext
      | .poisoned => .next (s.scrubBad b true).scrubNext
      | .detected => .next (s.scrubBad b false).scrubNext
      | .corrected fix =>
        let left := errs.map (fun e => (e.1.val, e.2.toNat)) ++ fix.map (fun q => (71 - q.1, q.2))
        .next (((((s.countBurst b false).flipBurst b left)).countBurst b true).scrubFixed b fix.length).scrubNext

/-! ### Failed channels and the repair record -/

/-- CHANNEL_FAILED (R401, R620): 16 uncorrectable bursts within a second, or a loss of link training. -/
def execChannelFailed (c : ChannelIx) (trainLost : Bool) (s : State) : Host.Outcome State Fault Refusal :=
  let v := s.chan c.val
  let burst := v.recent.length == 16 && decide (s.nowUs ≤ v.recent.getLastD 0 + 1000000)
  if !s.hbm.trained || v.failed || s.hbm.out.contains c.val || !(trainLost || burst) then .next s
  else
    let s := (s.setChan c.val { v with failed := true }).updHbm (fun h => { h with recOwed := true })
    .next (s.report 0x16 (subjChan c.val) (subjChan c.val) 0xFFFFFFFF 0)

/-- REPAIR_RECORD_WRITE (R659, R660): the repair record written for the changes it does not yet hold. -/
def execRepairRecordWrite (s : State) : Host.Outcome State Fault Refusal :=
  if !s.hbm.recOwed then .next s
  else .next ((s.flashJob ⟨.repair, 0, s.hbm.repairBody⟩).updHbm (fun h => { h with recOwed := false }))

end Sys2Proof.Machine
end

