-- ==== Sys2Proof/Machine/RegWrite.lean ====
section
/-! DEFINITION. Host writes to BAR0 registers by the access codes of R18: where the registers of every block lie (R80, R360, R392,
R414, R447, R478, R479, R487, R520, R521, R550, R579, R598, R617, R638, R639), what a write of one dword does (log entry 53), and
what keeps a write from taking effect (R483, R518, R555). -/

namespace Sys2Proof.Machine

/-! ### Where registers lie -/

/-- Whether an offset is one of some registers of an array: `n` strides from a base. -/
def strip (o base stride n : Nat) (regs : List Nat) : Bool :=
  decide (base ≤ o) && decide (o < base + stride * n) && regs.contains ((o - base) % stride)

/-- Whether an offset lies in a run of dwords. -/
def inRun (o lo hi : Nat) : Bool := decide (lo ≤ o) && decide (o < hi)

/-- The bases of the BAR0 blocks, by the block numbers of `blockIx` (R487). -/
def blockBase (b : Nat) : Nat :=
  nth [0, 0x10000, 0x20000, 0x30000, 0x40000, 0x50000, 0x60000, 0x70000, 0x80000, 0x90000, 0xA0000, 0x100000, 0x200000, 0x400000, 0x800000, 0x1000000] b 0

/-- Whether a dword offset of a block holds a register. -/
def regExists (b o : Nat) : Bool :=
  match b with
  | 0 => [0, 4, 0x10, 0x14, 0x18, 0x20, 0x24, 0x9000, 0x9004].contains o || strip o 0x1000 0x20 64 [0, 4, 8, 0xC, 0x10, 0x14] ||
         inRun o 0x4000 0x5000 || inRun o 0x8000 0x8400
  | 1 => inRun o 0 0x10
  | 2 => [0, 4, 0x10, 0x14, 0x18, 0x1C, 0x20, 0x30, 0x34, 0x38, 0x40, 0x44, 0x50, 0x54].contains o || inRun o 0x8000 0x10000
  | 3 => [0, 4, 8, 0x10, 0x14, 0x200, 0x204, 0x208].contains o || inRun o 0x20 0x40 || inRun o 0x100 0x180 || inRun o 0x8000 0xA000
  | 4 => inRun o 0 0x18 || [0x20, 0x24, 0x30, 0x34].contains o || inRun o 0x1000 (0x1000 + 8 * 1126)
  | 5 => [0, 4, 8].contains o || strip o 0x10 0x10 6 [0, 4]
  | 6 => [0, 4, 8].contains o || inRun o 0x10 0x20 || inRun o 0x100 0x180 || inRun o 0x4000 0x6000
  | 7 => [0, 4, 0x10, 0x14, 0x18, 0x20, 0x24, 0x28, 0x2C].contains o
  | 8 => [0, 4, 0x10, 0x14, 0x20, 0x24, 0x28, 0x2C, 0x30, 0x34, 0x40, 0x44, 0x48, 0x50, 0x60, 0x64, 0x68, 0x6C, 0x70, 0x74].contains o ||
         inRun o 0x100 0x200
  | 9 => [0, 0x40, 0x44, 0x50, 0x54, 0x60, 0x64].contains o || inRun o 0x10 0x30 || inRun o 0x1000 0x1800
  | 10 => strip o 0 0x10 16 [0, 4] || inRun o 0x4000 0x6000 || inRun o 0x8000 0xA000
  | 11 => [0, 4, 8, 0x10, 0x14, 0x18, 0x20, 0x24].contains o || inRun o 0x100 0x200 || inRun o 0x80000 0x100000
  | 12 => [0, 4].contains o || inRun o 0x10 0x64 || strip o 0x1000 0x20 20 [0, 4, 8, 0xC, 0x10] || inRun o 0x4000 0x8000 || inRun o 0x80000 0x84000
  | 13 => [0, 4, 8, 0x10, 0x14, 0x18, 0x1C, 0x20, 0x24, 0x28, 0x30, 0x38, 0x3C].contains o ||
          (inRun o 0x10000 0x54000 && decide ((o - 0x10000) % 0x200 < 0x180)) ||
          (inRun o 0x100000 0x120000 && decide ((o - 0x100000) % 0x1000 < 0x300)) ||
          (inRun o 0x200000 0x20A000 && decide ((o - 0x200000) % 0x2000 < 0x600))
  | 14 => (decide (o < 0x240000) && ([0, 4, 0x10, 0x14, 0x18, 0x1C, 0x20, 0x24].contains (o % 0x10000) || inRun (o % 0x10000) 0x100 0x200)) ||
          strip o 0x400000 0x20 128 [0, 4, 8, 0xC, 0x10]
  | 15 => decide (o % 0x10000 < 0x10)
  | _ => false

/-- From when a register of a block serves (R555). -/
def regServe (b o : Nat) : Serve :=
  match b with
  | 0 => if o < 8 then .fromA else .fromB
  | 2 | 3 | 4 | 6 => .fromA
  | 13 => .fromB
  | 8 | 9 | 11 | 15 => .endC
  | 12 => .fromD
  | _ => .fromE

/-- A 64-bit register with one of its dwords written. -/
def put32 (old o v : Nat) : Nat := if o % 8 = 4 then old % 2 ^ 32 + v * 2 ^ 32 else old / 2 ^ 32 * 2 ^ 32 + v

/-- The dword of a 64-bit register at an offset. -/
def get32 (old o : Nat) : Nat := if o % 8 = 4 then old / 2 ^ 32 % 2 ^ 32 else old % 2 ^ 32

/-! ### Writes by block -/

/-- The state with the host interface changed. -/
def State.updHost (s : State) (f : HostIf → HostIf) : State := { s with host := f s.host }

/-- A register of a completion queue written (R516, R520). -/
def State.cqWrite (s : State) (q r v : Nat) : State :=
  let c := s.queue q
  match r with
  | 8 => s.ctlWrite q v
  | 0x10 => s.consWrite q (BitVec.ofNat 16 v)
  | 0x14 => s.setQueue q { c with badCons := c.badCons && !v.testBit 1, wfail := c.wfail && !v.testBit 2 }
  | 0xC => s
  | _ =>
    if c.enable then s.violation 14 q (0x1000 + 0x20 * q + r)
    else s.setQueue q { c with base := BitVec.ofNat 64 (put32 c.base.toNat r v % 2 ^ 57) }

/-- A dword of the MSI-X table written (R517). -/
def State.msixWrite (s : State) (n r v : Nat) : State :=
  let e := Tab.at s.host.msix n {}
  match r with
  | 0xC => s.vectorCtl n (BitVec.ofNat 32 v)
  | 8 => s.updHost (fun h => { h with msix := Tab.put h.msix n { e with data := BitVec.ofNat 32 v } })
  | _ => s.updHost (fun h => { h with msix := Tab.put h.msix n { e with addr := BitVec.ofNat 64 (put32 e.addr.toNat r v) } })

/-- HIF_ written (R520). -/
def State.hifWrite (s : State) (o v : Nat) : State :=
  if o = 0x10 ∨ o = 0x14 then s.updHost (fun h => { h with xresBase := BitVec.ofNat 64 (put32 h.xresBase.toNat o v % 2 ^ 57) })
  else if o = 0x18 then s.updHost (fun h => { h with partialUs := BitVec.ofNat 16 v })
  else if inRun o 0x1000 0x1800 then s.cqWrite ((o - 0x1000) / 0x20) (o % 0x20) v
  else if inRun o 0x8000 0x8400 then s.msixWrite ((o - 0x8000) / 0x10) (o % 0x10) v
  else s

/-- BOOT_CTL written: nothing without its key; COLD before WARM (R579). -/
def State.bootCtl (s : State) (v : Nat) : State :=
  if v / 65536 ≠ 0xB007 then s else if v.testBit 1 then s.cold else if v.testBit 0 then s.warm else s

/-- BOOT_ written (R579). -/
def State.bootWrite (s : State) (o v : Nat) : State :=
  if o = 0x40 then s.bootCtl v
  else if o = 0x44 then s.updBoot (fun b => { b with resets := BitVec.ofNat 16 v })
  else if o = 0x50 then s.updCtl v
  else if 0x8000 ≤ o then s.updBoot (fun b => { b with win := b.win.writeN (o - 0x8000) (leBytes 4 v) })
  else s

/-- SEC_ written (R579); SEC_PROG_ stands still after the fuse lock (R18). -/
def State.secWrite (s : State) (o v : Nat) : State :=
  if o = 8 then s.rollbackCtl v
  else if o = 0x14 then
    let t := if v.testBit 0 then s.submit else s
    if v.testBit 1 then t.dropGrants else t
  else if o = 0x200 then (if s.boot.fuses.fuseLock then s else s.updBoot (fun b => { b with progAddr := BitVec.ofNat 10 v }))
  else if o = 0x204 then (if s.boot.fuses.fuseLock then s else s.updBoot (fun b => { b with progData := BitVec.ofNat 32 v }))
  else if o = 0x208 then s.progCtl v
  else if 0x8000 ≤ o then s.updBoot (fun b => { b with tokenWin := b.tokenWin.writeN (o - 0x8000) (leBytes 4 v) })
  else s

/-- GAF_ written (R617): NOW leaves a re-plan to be made; TRIPPED takes what is written, which ends no trip (R608, log entry 54). -/
def State.gafWrite (s : State) (o v : Nat) : State :=
  if o = 0 then s.updGaf (fun g => { g with tripReg := v.testBit 14 })
  else if o = 4 then s.capWrite v
  else if o = 0x30 ∧ v.testBit 0 then s.updGaf (fun g => { g with planOwed := true })
  else s

/-- TST_ written (R639); TST_SEED too stands still under the TST_LOCK fuse (R578). -/
def State.tstRegWrite (s : State) (o v : Nat) : State :=
  if o = 4 then if s.boot.fuses.tstLock && !s.granted 2 then s else { s with flt := { s.flt with tstSeed := BitVec.ofNat 32 v } }
  else if 0x10 ≤ o ∧ o % 0x10 = 0 then s.tstWrite ((o - 0x10) / 0x10) v
  else s

/-- FLT_ written (R638). -/
def State.fltWrite (s : State) (o v : Nat) : State :=
  if o = 4 then { s with flt := { s.flt with irq := v.testBit 0, vector := BitVec.ofNat 6 (v / 2) } } else s

/-- RUSH_ written (R479): FLUSH before INVAL. -/
def State.rushWrite (s : State) (o v : Nat) : State :=
  if o = 0x20 then (if v.testBit 0 then s.rushCtl true else if v.testBit 1 then s.rushCtl false else s)
  else if o = 0x28 ∨ o = 0x2C then
    let r := s.video.rush
    { s with video := { s.video with rush := { r with keyReg := BitVec.ofNat 64 (put32 r.keyReg.toNat o v) } } }
  else s

/-- MEM_RET_CTL written: FORCE_WAKE wakes every bank (R386, R392). -/
def State.retCtl (s : State) (v : Nat) : State :=
  let s := s.mapRegs (fun m => { m with idleUs := BitVec.ofNat 16 v, forceWake := v.testBit 16 })
  if v.testBit 16 then s.mem.retained.foldl (fun s b => s.wakeBank b) s else s

/-- MEM_ written (R392): the operands of a map operation stand while it is in progress (log entry 54). -/
def State.memWrite (s : State) (o v : Nat) : State :=
  if o = 0x20 ∨ o = 0x24 then s.mapRegs (fun m => { m with mapVa := BitVec.ofNat 64 (put32 m.mapVa.toNat o v % 2 ^ 57) })
  else if o = 0x28 ∨ o = 0x2C then s.mapRegs (fun m => { m with mapEntry := BitVec.ofNat 64 (put32 m.mapEntry.toNat o v) })
  else if o = 0x30 then s.mapCtl v
  else if o = 0x34 then (if v.testBit 8 then s.mapRegs (fun m => { m with overrun := false }) else s)
  else if o = 0x50 then s.retCtl v
  else if o = 0x60 then s.marchCtl v
  else if o = 0x70 then s.mapRegs (fun m => { m with bgEnable := v.testBit 0, bgPeriod := BitVec.ofNat 16 (v / 65536) })
  else if o = 0x74 then (if v.testBit 31 then s.mapRegs (fun m => { m with bgFail := false }) else s)
  else s

/-- HBM_ written (R414). -/
def State.hbmRegWrite (s : State) (o v : Nat) : State :=
  if o = 0 then s.updHbm (fun h => { h with auto := v.testBit 6 })
  else if o = 0x40 then s.updHbm (fun h => { h with scrubHours := BitVec.ofNat 8 v })
  else if o = 0x54 then (if v.testBit 17 then s.updHbm (fun h => { h with errLast := BitVec.ofNat 64 (h.errLast.toNat % 2 ^ 49) }) else s)
  else if o = 0x60 then s.repairCtl v
  else if 0x1000 ≤ o ∧ o % 8 = 0 then
    let c := (o - 0x1000) / 8
    s.setChan c { s.chan c with corr := BitVec.ofNat 16 (v / 256), uncorr := BitVec.ofNat 8 (v / 2 ^ 24) }
  else s

/-- VDEC_ written (R80): the gating registers. -/
def State.vdecWrite (s : State) (o v : Nat) : State :=
  if o < 0x8000 then s
  else
    let n := (o - 0x8000) / 0x10
    let x := s.ctx n
    match o % 0x10 with
    | 0 => s.setCtx n { x with gateThr := BitVec.ofNat 32 v &&& 0xFF3FFFFF }
    | 4 => s.setCtx n { x with gateCtl := BitVec.ofNat 32 (v % 4) }
    | _ => s

/-- SLT_ written (R360). -/
def State.sltWrite (s : State) (o v : Nat) : State :=
  if o = 0 then { s with sched := { s.sched with regs := { s.sched.regs with waitLimit := BitVec.ofNat 24 v } } }
  else if o = 0x18 then { s with sched := { s.sched with regs := { s.sched.regs with saveMax := BitVec.ofNat 16 v } } }
  else s

/-- FAB_PORT_CTL_p written: DISABLE, then RELEASE, then RETRAIN (R550). -/
def State.portCtl (s : State) (p v : Nat) : State :=
  let s := if (s.port p).disable != v.testBit 0 then s.portDisable p (v.testBit 0) else s
  let s := if v.testBit 1 then s.portRelease p else s
  if v.testBit 2 then s.portRetrain p else s

/-- FAB_ written (R550). -/
def State.fabWrite (s : State) (o v : Nat) : State :=
  if o = 0x3C then s.updFab (fun f => { f with timeout := BitVec.ofNat 16 v })
  else if inRun o 0x1000 0x1280 then
    let p := (o - 0x1000) / 0x20
    match o % 0x20 with
    | 4 => s.portCtl p v
    | 0xC => s.updPort p (fun x => { x with corrected := BitVec.ofNat 16 v, replays := BitVec.ofNat 16 (v / 65536) })
    | _ => s
  else s

/-- Whether the host may not read live counters nor write their selects (R595). -/
def State.countersShut (s : State) : Bool := s.boot.fuses.ctrNoHost && !s.granted 3

/-- The counter, by number, whose value or select a PERF_ dword belongs to, and whether it is the select (R598). -/
def perfCounter (o : Nat) : Option (Nat × Bool) :=
  if inRun o 0x10000 0x54000 then
    let r := (o - 0x10000) % 0x200
    let g := cntCore ((o - 0x10000) / 0x200)
    if r < 0x100 then some (g + r / 8, false) else some (g + (r - 0x100) / 4, true)
  else if inRun o 0x100000 0x120000 then
    let r := (o - 0x100000) % 0x1000
    let g := cntCluster ((o - 0x100000) / 0x1000)
    if r < 0x200 then some (g + r / 8, false) else some (g + (r - 0x200) / 4, true)
  else if inRun o 0x200000 0x20A000 then
    let r := (o - 0x200000) % 0x2000
    let g := cntDie ((o - 0x200000) / 0x2000)
    if r < 0x400 then some (g + r / 8, false) else some (g + (r - 0x400) / 4, true)
  else none

/-- A select register written (R582, R595, R598): a fixed counter's stands; the new event waits for a token. -/
def State.selectWrite (s : State) (g v : Nat) : State :=
  if s.countersShut || (fixedEvent g).isSome then s
  else s.updPerf (fun p => { p with
    sel := Tab.put p.sel g (BitVec.ofNat 10 v), selNew := if p.selNew.contains g then p.selNew else p.selNew ++ [g] })

/-- PERF_ written (R598). -/
def State.perfWrite (s : State) (o v : Nat) : State :=
  match perfCounter o with
  | some (g, true) => s.selectWrite g v
  | some (_, false) => s
  | none =>
    if o = 0 then (if v.testBit 0 then s.issueToken true else s)
    else if o = 4 then s.updPerf (fun p => { p with period := BitVec.ofNat 24 (let u := v % 2 ^ 24; if 1 ≤ u ∧ u ≤ 9 then 10 else u) })
    else if o = 0x10 ∨ o = 0x14 then
      s.updPerf (fun p => if p.ringEn then p else { p with ringBase := BitVec.ofNat 64 (put32 p.ringBase.toNat o v % 2 ^ 57) })
    else if o = 0x18 then s.updPerf (fun p => { p with ringLog2 := BitVec.ofNat 4 v, ringEn := v.testBit 4 })
    else if o = 0x20 then s.updPerf (fun p => { p with cons := BitVec.ofNat 16 v })
    else if o = 0x38 ∨ o = 0x3C then
      s.updPerf (fun p => if p.ringEn then p else { p with userVa := BitVec.ofNat 64 (put32 p.userVa.toNat o v % 2 ^ 57) })
    else s

/-- A mail slot's register written (R447). -/
def State.mailRegWrite (s : State) (m r v : Nat) : State :=
  let x := s.mailSlot m
  match r with
  | 0 =>
    let s := s.setMail m { x with idleUs := BitVec.ofNat 16 v }
    if v.testBit 16 then s.flushMail m else s
  | 4 => s.setMail m { x with idle := x.idle && !v.testBit 9, overflow := x.overflow && !v.testBit 10 }
  | _ => s

/-- DMA_ written (R447). -/
def State.dmaWrite (s : State) (o v : Nat) : State :=
  if 0x400000 ≤ o then s.mailRegWrite ((o - 0x400000) / 0x20) (o % 0x20) v
  else
    let e := o / 0x10000
    let g := s.eng e
    match o % 0x10000 with
    | 0 => s.setEng e { g with age := BitVec.ofNat 8 v }
    | 0x10 => s.setEng e { g with base := BitVec.ofNat 57 (put32 g.base.toNat 0 v) }
    | 0x14 => s.setEng e { g with base := BitVec.ofNat 57 (put32 g.base.toNat 4 v) }
    | 0x18 => s.setEng e { g with log2 := BitVec.ofNat 5 v }
    | 0x20 => s.dmaCons e (BitVec.ofNat 16 v)
    | _ => s

/-- CORE_ written (R521): CORE_ECC. -/
def State.coreWrite (s : State) (o v : Nat) : State :=
  if o % 0x10000 = 0xC then { s with flt := { s.flt with ecc := Tab.put s.flt.ecc (o / 0x10000) (BitVec.ofNat 16 v) } } else s

/-- A dword of a block in service written. -/
def State.regWrite (s : State) (b o v : Nat) : State :=
  match b with
  | 0 => s.hifWrite o v
  | 2 => s.bootWrite o v
  | 3 => s.secWrite o v
  | 4 => s.gafWrite o v
  | 5 => s.tstRegWrite o v
  | 6 => s.fltWrite o v
  | 7 => s.rushWrite o v
  | 8 => s.memWrite o v
  | 9 => s.hbmRegWrite o v
  | 10 => s.vdecWrite o v
  | 11 => s.sltWrite o v
  | 12 => s.fabWrite o v
  | 13 => s.perfWrite o v
  | 14 => s.dmaWrite o v
  | 15 => s.coreWrite o v
  | _ => s

/-- A dword of BAR0 written (R18, R483, R518, R555). -/
def State.barWrite (s : State) (off v : Nat) : State :=
  let b := blockIx off
  let o := off - blockBase b
  if !s.mod.good then s
  else if s.ideHolds then s.violation 15 b off
  else if !regExists b o then s.violation 5 b off
  else if s.serves (regServe b o) then s.regWrite b o v
  else s

/-- REGISTER_WRITE (R18, R518): a host write of an aligned dword; a poisoned one is dropped and reported through AER. -/
def execRegisterWrite (dword : BitVec 24) (value : Word) (poisoned : Bool) (s : State) : Host.Outcome State Fault Refusal :=
  let off := 4 * dword.toNat
  if !s.mod.good then .next s
  else if poisoned then .next ((s.updHost (fun h => { h with aer := { h.aer with poisoned := true } })).violation 3 (blockIx off) off)
  else .next (s.barWrite off value.toNat)

end Sys2Proof.Machine
end

