-- ==== Sys2Proof/Machine/RegRead.lean ====
section
/-! DEFINITION. Reads of BAR0 registers (R18, R80, R360, R392, R414, R447, R478, R479, R520, R521, R550, R579, R598, R617, R638,
R639): zero from a block not yet in service (R555), from a reserved offset (R518) and from write-only bits. -/

namespace Sys2Proof.Machine

/-- A dword of a register group laid out in bytes. -/
def dwordAt (bs : List Byte) (o : Nat) : Nat := recField bs o 4

/-- HIF_STATUS (R520). -/
def State.hifStatus (s : State) : Nat :=
  let h := s.host
  b2n h.intake + 2 * b2n s.boot.fuses.ideMand + 4 * b2n h.ideUp + 8 * h.width.toNat + 32 * h.rate.toNat + 65536 * h.gen.toNat

/-- A register of a completion queue (R520). -/
def State.cqRead (s : State) (q r : Nat) : Nat :=
  let c := s.queue q
  match r with
  | 8 => c.log2.toNat + 16 * b2n c.enable + 32 * c.vector.toNat + 2048 * b2n c.irqAll + 65536 * c.holdoff.toNat
  | 0xC => c.prod.toNat
  | 0x10 => c.cons.toNat
  | 0x14 => b2n (decide (c.size ≤ (c.prod - c.cons).toNat)) + 2 * b2n c.badCons + 4 * b2n c.wfail +
            65536 * (s.host.cpls.filter (fun r => r.queue == q && r.place == .held)).length
  | _ => get32 c.base.toNat r

/-- An entry of the violation log (R519). -/
def Viol.bytes (v : Viol) : List Byte := [v.kind, 0] ++ leBytes 2 v.where_.toNat ++ leBytes 4 v.epoch.toNat ++ leBytes 8 v.addr.toNat

/-- An entry of the MSI-X table (R517). -/
def MsixEnt.bytes (e : MsixEnt) : List Byte := leBytes 8 e.addr.toNat ++ leBytes 4 e.data.toNat ++ leBytes 4 e.ctl.toNat

/-- HIF_ read (R519, R520). -/
def State.hifRead (s : State) (o : Nat) : Nat :=
  let h := s.host
  if o = 0 then 0x8576 + 65536 * Config.stepping.toNat
  else if o = 4 then s.hifStatus
  else if o = 0x10 ∨ o = 0x14 then get32 h.xresBase.toNat o
  else if o = 0x18 then h.partialUs.toNat
  else if o = 0x20 then h.violCnt.toNat
  else if o = 0x24 then h.violHead.toNat
  else if inRun o 0x1000 0x1800 then s.cqRead ((o - 0x1000) / 0x20) (o % 0x20)
  else if inRun o 0x4000 0x5000 then dwordAt (Tab.at h.violLog ((o - 0x4000) / 16) {}).bytes (o % 16)
  else if inRun o 0x8000 0x8400 then dwordAt (Tab.at h.msix ((o - 0x8000) / 16) {}).bytes (o % 16)
  else get32 h.pba.toNat o

/-- CMD_ read (R520). -/
def State.cmdRead (s : State) (o : Nat) : Nat :=
  match o with
  | 0 => s.host.nextSeq.toNat | 4 => s.cmds.length | 8 => s.host.accepted.toNat | _ => s.host.rejected.toNat

/-- BOOT_SVN (R579). -/
def Boot.svnWord (b : Boot) : Nat :=
  let svn := fun (l : Option Loaded) => (l.map Loaded.svn).getD 0 % 256
  svn b.fw1 + 256 * svn b.fw2 + 65536 * svn b.sheetImg + 2 ^ 24 * b2n b.slot1 + 2 ^ 25 * b2n b.slot2

/-- BOOT_ read (R579). -/
def State.bootRead (s : State) (o : Nat) : Nat :=
  let b := s.boot
  if o = 0 then s.stageWord
  else if o = 4 then b.detail.toNat
  else if inRun o 0x10 0x24 then nth b.times ((o - 0x10) / 4) 0
  else if o = 0x30 ∨ o = 0x34 then get32 b.sheetId.toNat o
  else if o = 0x38 then b.svnWord
  else if o = 0x44 then b.resets.toNat
  else if o = 0x50 then b.updOp.toNat + 4 * b.updLen.toNat
  else if o = 0x54 then b2n b.updBusy + 2 * b.updResult.toNat + 16 * b.updCheck.toNat + 256 * b.staged.length
  else if 0x8000 ≤ o then leNat (b.win.readN (o - 0x8000) 4)
  else 0

/-- SEC_ read (R579). -/
def State.secRead (s : State) (o : Nat) : Nat :=
  let b := s.boot
  if o = 0 then b.fuses.word
  else if o = 4 then b.fuses.count
  else if o = 8 then b.rbTarget.toNat + 128 * b.rbResult.toNat
  else if o = 0x10 then s.grantBits + 256 * b.dbgResult.toNat
  else if inRun o 0x20 0x30 then dwordAt (leBytes 16 b.nonce.toNat) (o - 0x20)
  else if inRun o 0x30 0x40 then dwordAt (leBytes 16 b.fuses.uid.toNat) (o - 0x30)
  else if inRun o 0x100 0x180 then dwordAt (leBytes 32 (b.fuses.root ((o - 0x100) / 0x20)).toNat) (o % 0x20)
  else if o = 0x200 then b.progAddr.toNat
  else if o = 0x204 then b.progData.toNat
  else if o = 0x208 then b2n b.progGo
  else if 0x8000 ≤ o then leNat (b.tokenWin.readN (o - 0x8000) 4)
  else 0

/-- GAF_STATUS (R617). -/
def Gaffer.status (g : Gaffer) : Nat :=
  g.la.toNat + 16 * g.lv.toNat + 256 * g.lh.toNat + 2048 * g.limiter.toNat + 16384 * b2n g.tripReg

/-- GAF_ read (R617). -/
def State.gafRead (s : State) (o : Nat) : Nat :=
  let g := s.gaf
  if o = 0 then g.status
  else if o = 4 then g.cap.toNat
  else if o = 8 then g.p100.toNat + 65536 * g.p10ms.toNat
  else if o = 0xC then g.junction.toNat + 256 * g.hbm.toNat + 65536 * g.inlet.toNat + 2 ^ 24 * g.outlet.toNat
  else if o = 0x10 then g.hotIsl.toNat
  else if o = 0x14 then g.cntOver.toNat + 256 * g.cntHot.toNat + 65536 * g.cntEmerg.toNat + 2 ^ 24 * g.cntRetired.toNat
  else if o = 0x20 then g.life.toNat
  else if o = 0x24 then g.stress.toNat
  else if o = 0x34 then (g.planAt + planPeriod - s.nowUs) / 60000000 % 65536 + 65536 * g.raised.toNat
  else if 0x1000 ≤ o then get32 (s.islandWord ((o - 0x1000) / 8)) o
  else 0

/-- TST_ read (R636, R639): a locked kind's registers read zero. -/
def State.tstRead (s : State) (o : Nat) : Nat :=
  if o = 0 then
    flagsNat ((List.range 6).map (fun k => (Tab.at s.flt.tst k {}).enable)) + 256 * flagsNat ((List.range 6).map (fun k => s.tstLocked k))
  else if o = 4 then s.flt.tstSeed.toNat
  else if o = 8 then s.flt.tstLocked.toNat
  else
    let k := (o - 0x10) / 0x10
    let t := Tab.at s.flt.tst k {}
    if s.tstLocked k then 0
    else if o % 0x10 = 0 then b2n t.enable + 2 * t.rate.toNat + 512 * t.target.toNat + 2 ^ 20 * t.amount.toNat
    else t.count.toNat

/-- An entry of the fault log (R622). -/
def FltEntry.bytes (e : FltEntry) : List Byte :=
  let r := e.report
  [r.cls, BitVec.ofNat 8 (b2n e.fenced + 2 * b2n e.forwarded + 4 * b2n e.fatal + 8 * b2n e.perturbed)] ++
  leBytes 2 r.subject.toNat ++ leBytes 2 r.cause.toNat ++ [0, 0] ++ leBytes 4 e.epoch.toNat ++ leBytes 4 e.fepoch.toNat ++
  leBytes 4 r.seq.toNat ++ leBytes 4 e.dups.toNat ++ leBytes 8 r.detail.toNat

/-- FLT_FENCE_n (R638). -/
def State.fenceWord (s : State) (n : Nat) : Nat :=
  flagsNat ((List.range 17).map (fun k => s.isFenced (17 * n + k))) + 2 ^ 17 * (if s.coreState (17 * n + 16) = 1 then 16 else 31)

/-- FLT_ read (R638). -/
def State.fltRead (s : State) (o : Nat) : Nat :=
  let f := s.flt
  if o = 0 then b2n f.fatal + 256 * f.lastClass.toNat + 65536 * f.fenced.length
  else if o = 4 then b2n f.irq + 2 * f.vector.toNat
  else if o = 8 then f.head.toNat
  else if o = 0x10 then f.cnt.toNat
  else if o = 0x14 then f.dup.toNat
  else if o = 0x18 then f.supp.toNat
  else if o = 0x1C then f.ovr.toNat
  else if inRun o 0x100 0x180 then s.fenceWord ((o - 0x100) / 4)
  else dwordAt (Tab.at f.log ((o - 0x4000) / 0x20) {}).bytes (o % 0x20)

/-- RUSH_ read (R479). -/
def State.rushRead (s : State) (o : Nat) : Nat :=
  let r := s.video.rush
  match o with
  | 0 => s.sheet 28 4
  | 4 => ceilDiv r.used 16
  | 0x10 => r.hit.toNat
  | 0x14 => r.miss.toNat
  | 0x18 => r.evict.toNat
  | 0x24 => b2n r.busy.isSome + 65536 * r.disc.toNat
  | 0x28 => get32 r.keyReg.toNat 0
  | 0x2C => get32 r.keyReg.toNat 4
  | _ => 0

/-- MEM_ read (R392). -/
def State.memRead (s : State) (o : Nat) : Nat :=
  let m := s.mem.regs
  match o with
  | 0 => m.cap.toNat
  | 4 => s.freeBytes / 1048576
  | 0x10 => get32 m.tableBase.toNat 0
  | 0x14 => get32 m.tableBase.toNat 4
  | 0x20 => get32 m.mapVa.toNat 0
  | 0x24 => get32 m.mapVa.toNat 4
  | 0x28 => get32 m.mapEntry.toNat 0
  | 0x2C => get32 m.mapEntry.toNat 4
  | 0x30 => m.mapOp.toNat + 16 * m.mapCount.toNat
  | 0x34 => b2n m.mapBusy + 2 * m.mapResult.toNat + 256 * b2n m.overrun
  | 0x40 => m.waterLow.toNat + 65536 * m.waterHigh.toNat
  | 0x44 => m.migCnt.toNat
  | 0x48 => m.pfProxy.toNat + 65536 * m.pfLate.toNat
  | 0x50 => m.idleUs.toNat + 65536 * b2n m.forceWake
  | 0x60 => m.marScope.toNat + 4 * b2n m.marPreserve + 256 * m.marDie.toNat + 1024 * m.marCluster.toNat + 8192 * m.marCore.toNat
  | 0x64 => b2n m.marBusy + 2 * m.marResult.toNat + 65536 * m.marFails.toNat
  | 0x68 => get32 m.marFail.toNat 0
  | 0x6C => get32 m.marFail.toNat 4
  | 0x70 => b2n m.bgEnable + 65536 * m.bgPeriod.toNat
  | 0x74 => m.bgRegions.toNat + 2 ^ 31 * b2n m.bgFail
  | _ => if inRun o 0x100 0x200 then get32 (Tab.at s.mem.cmOut ((o - 0x100) / 8) 0#64).toNat o else 0

/-- HBM_CH_n (R414): SOFT_FREE has six bits, so 64 free entries read as 63 (log entry 56). -/
def State.chanWord (s : State) (c : Nat) : Nat :=
  let v := s.chan c
  let h := s.hbm
  let st := if h.out.contains c then 2 else if v.failed then 3 else if 0 < h.softUsed c 0 + h.softUsed c 1 then 1 else 0
  st + 2 ^ 8 * v.corr.toNat + 2 ^ 24 * v.uncorr.toNat + 2 ^ 32 * min 63 (64 - h.softUsed c 0 - h.softUsed c 1) +
  2 ^ 38 * (192 - (h.blown.filter (fun r => r.chan == c)).length)

/-- HBM_ read (R414). -/
def State.hbmRegRead (s : State) (o : Nat) : Nat :=
  let h := s.hbm
  match o with
  | 0 => h.out.length + 16 * b2n h.trained + 32 * b2n (decide (85 ≤ s.gaf.hbm.toNat)) + 64 * b2n h.auto
  | 0x40 => h.scrubHours.toNat
  | 0x44 => h.passes.toNat + 65536 * h.fixed.toNat
  | 0x50 => get32 h.errLast.toNat 0
  | 0x54 => get32 h.errLast.toNat 4
  | 0x60 => h.repChan.toNat + 256 * b2n h.repPc + 512 * h.repRow.toNat + 2 ^ 30 * b2n h.repHard
  | 0x64 => b2n h.repBusy + 2 * h.repResult.toNat + 65536 * h.remaps.length
  | _ =>
    if 0x1000 ≤ o then get32 (s.chanWord ((o - 0x1000) / 8)) o
    else get32 (flagsNat ((List.range 64).map (fun b => h.out.contains (64 * ((o - 0x10) / 8) + b)))) o

/-- VDEC_ read (R80, R478): an engine is idle or decoding. -/
def State.vdecRead (s : State) (o : Nat) : Nat :=
  if o < 0x100 then
    let e := s.dec (o / 0x10)
    if o % 0x10 = 0 then
      b2n e.busy + 4 * e.ctx + 65536 * (s.video.ctxs.filter (fun p => p.2.state != 0 && p.2.engine == o / 0x10)).length
    else e.frames.toNat
  else
    let x := s.ctx (o % 0x2000 / 0x10)
    match o / 0x4000 * 0x10 + o % 0x10 with
    | 0x10 => x.state + (if x.state = 0 then 0 else
        4 * (recField x.desc 32 1 % 4) + 16 * x.engine + 256 * fld (recField x.desc 32 1) 2 2 + 1024 * fld (recField x.desc 32 1) 4 2) + 4096 * x.gen.toNat
    | 0x14 => x.frames.toNat
    | 0x18 => min x.damaged 4095 + 4096 * min x.late 255 + 2 ^ 20 * min x.idle 63 + 2 ^ 26 * min x.dropped 63
    | 0x1C => x.avg.getD 0 % 2 ^ 20
    | 0x20 => x.gateThr.toNat
    | 0x24 => x.gateCtl.toNat
    | 0x28 => x.gateCnt.toNat
    | 0x2C => x.mapDrop.toNat
    | _ => 0

/-- SLT_OCC_n (R360). -/
def State.occWord (s : State) (n : Nat) : Nat :=
  (List.range 17).foldl (fun a i =>
    match s.kernOn (17 * n + i) with
    | some k => let r := (s.core (17 * n + i)).rank % 16
                a + 2 ^ r + (if k.cls = 1 then 2 ^ (16 + r) else 0)
    | none => a) 0

/-- SLT_ read (R360). -/
def State.sltRead (s : State) (o : Nat) : Nat :=
  let r := s.sched.regs
  if o = 0 then r.waitLimit.toNat
  else if o = 4 then r.quantum.toNat
  else if o = 8 then r.holdLimit.toNat
  else if o = 0x10 then r.collideCnt.toNat
  else if o = 0x14 then r.preemptCnt.toNat
  else if o = 0x18 then r.saveMax.toNat
  else if o = 0x20 ∨ o = 0x24 then get32 r.collideLast.toNat o
  else if o < 0x180 then s.occWord ((o - 0x100) / 4)
  else if o < 0x200 then
    let n := (o - 0x180) / 4
    s.sched.lcBanks % 128 + 256 * (s.freeBanks n 0).length + 65536 * (s.freeBanks n 1).length
  else (Tab.at s.sched.slates ((o - 0x80000) / 4) 0#32).toNat

/-- STATE of FAB_STATUS (R550). -/
def FabState.code : FabState → Nat
  | .off => 0 | .training => 1 | .electing => 2 | .mapping => 3 | .committed => 4 | .isolated => 5 | .failed => 6

/-- A register of a port (R550). -/
def State.portRead (s : State) (p r : Nat) : Nat :=
  let v := s.port p
  match r with
  | 0 => v.state.code + 8 * v.width.toNat + 32 * v.ppart.toNat + 1024 * v.pid.toNat + 2 ^ 22 * b2n v.pvalid
  | 4 => b2n v.disable
  | 8 => v.window.toNat + 65536 * v.last.toNat
  | 0xC => v.corrected.toNat + 65536 * v.replays.toNat
  | 0x10 => v.vtot.toNat
  | _ => 0

/-- A tally entry (R547, R550). -/
def Tally.bytes (t : Tally) : List Byte :=
  leBytes 2 t.key.subject.toNat ++ [t.key.cls, 0] ++ leBytes 4 t.key.epoch.toNat ++ leBytes 2 t.first.toNat ++ leBytes 2 t.reports.toNat ++
  leBytes 4 t.dups.toNat

/-- A routing entry (R550). -/
def Route.word (r : Route) : Nat := r.ports.toNat + 2 ^ 20 * r.dist + 2 ^ 24 * b2n r.valid

/-- FAB_ read (R550). -/
def State.fabRead (s : State) (o : Nat) : Nat :=
  let f := s.fab
  if o = 0 then f.id.toNat + 4096 * b2n f.assigned + 8192 * b2n f.coord + 16384 * f.state.code + 2 ^ 17 * s.role
  else if o = 4 then f.epoch.toNat
  else if inRun o 0x10 0x20 then dwordAt (leBytes 16 s.uid.toNat) (o - 0x10)
  else if inRun o 0x20 0x30 then dwordAt (leBytes 16 f.coordUid.toNat) (o - 0x20)
  else if o = 0x30 ∨ o = 0x34 then get32 (s.sheet 152 8) o
  else if o = 0x38 then f.devices + 65536 * f.coordId.toNat
  else if o = 0x3C then f.timeout.toNat
  else if o = 0x40 ∨ o = 0x44 then get32 (s.sheet 160 8) o
  else if o = 0x48 ∨ o = 0x4C then get32 (s.sheet 168 8) o
  else if o = 0x50 then f.frFwd.toNat
  else if o = 0x54 then f.frDup.toNat
  else if o = 0x58 then f.frOver.toNat
  else if o = 0x5C then f.unroute.toNat
  else if o = 0x60 then f.tallyHead.toNat
  else if o < 0x4000 then s.portRead ((o - 0x1000) / 0x20) (o % 0x20)
  else if o < 0x8000 then
    match Tab.find f.tally ((o - 0x4000) / 16) with | some t => dwordAt t.bytes (o % 16) | none => 0
  else (f.cur.route f.id.toNat ((o - 0x80000) / 4)).word

/-- PERF_ read but for its counters (R598). -/
def State.perfRead (s : State) (o : Nat) : Nat :=
  let p := s.perf
  match o with
  | 4 => p.period.toNat
  | 8 => p.epoch.toNat
  | 0x10 => get32 p.ringBase.toNat 0
  | 0x14 => get32 p.ringBase.toNat 4
  | 0x18 => p.ringLog2.toNat + 16 * b2n p.ringEn
  | 0x1C => p.prod.toNat
  | 0x20 => p.cons.toNat
  | 0x24 => p.drop.toNat
  | 0x28 => p.skip.toNat
  | 0x30 => b2n (!s.countersShut) + 2 * b2n s.userCounters + 4 * b2n s.userRing
  | 0x38 => get32 p.userVa.toNat 0
  | 0x3C => get32 p.userVa.toNat 4
  | _ => 0

/-- A counter's value or select read (R582, R595, R598). -/
def State.counterRead (s : State) (o g : Nat) (select : Bool) : Nat × State :=
  if s.countersShut then (0, s)
  else if select then ((fixedEvent g).getD (Tab.at s.perf.sel g 0#10).toNat, s)
  else match s.counterNow g with | (v, s) => (get32 v o, s)

/-- STATE of a channel (R447): idle, moving, waiting for a request, paused. -/
def State.chanState (s : State) (h : DmaChan) : Nat :=
  match h.walking with
  | none => if h.queue.isEmpty then 0 else 1
  | some (_, d) => if s.paused d then 3 else if d.reqline ≠ 0 ∧ h.reqs = 0 then 2 else 1

/-- Whether a channel of an engine carries a migration: engine 34's channels that stage nothing carry them in order (R417; DESIGN CHOICE,
log entry 128). -/
def State.migrates (s : State) (e c : Nat) : Bool :=
  e == 34 && (((List.range 32).filter (fun c => (Tab.at (s.eng 34).chans c {}).queue.isEmpty)).take s.mem.migs.length).contains c

/-- A register of a mail slot (R447). -/
def MailSlot.reg (v : MailSlot) (r : Nat) : Nat :=
  match r with
  | 0 => v.idleUs.toNat
  | 4 => v.words.length + 512 * b2n v.idle + 1024 * b2n v.overflow + 65536 * v.packets
  | 8 => get32 v.tag.toNat 0
  | 0xC => get32 v.tag.toNat 4
  | 0x10 => v.dropped.toNat
  | _ => 0

/-- DMA_ read (R447). -/
def State.dmaRead (s : State) (o : Nat) : Nat :=
  if 0x400000 ≤ o then (s.mailSlot ((o - 0x400000) / 0x20)).reg (o % 0x20)
  else
    let g := s.eng (o / 0x10000)
    let r := o % 0x10000
    let ch := fun (c : Nat) => Tab.at g.chans c {}
    match r with
    | 0 => g.age.toNat
    | 4 => flagsNat ((List.range 32).map (fun c => !(ch c).queue.isEmpty || s.migrates (o / 0x10000) c))
    | 0x10 => get32 g.base.toNat 0
    | 0x14 => get32 g.base.toNat 4
    | 0x18 => g.log2.toNat
    | 0x1C => g.prod.toNat
    | 0x20 => g.cons.toNat
    | 0x24 => g.drop.toNat
    | _ =>
      let h := ch ((r - 0x100) / 8)
      if r % 8 = 4 then ((h.walking.map (fun q => q.2.bytes)).getD 0) % 2 ^ 32
      else if s.migrates (o / 0x10000) ((r - 0x100) / 8) then 9
      else s.chanState h + 8 * min h.queue.length 4 + 256 * h.reqs.toNat

/-- CORE_STATUS (R521). -/
def State.coreStatus (s : State) (w : Nat) : Nat :=
  let st := s.coreState w
  let placed := s.kernOn w
  let shelf := (List.range 8).filter (fun k => s.reels.reels.any (fun r => match r.2.place with | some p => p.core == w && p.shelf && p.slot == k | none => false))
  st + (if st = 0 then 4 * (s.rankOf w % 16) else 0) + 64 * b2n placed.isSome + 128 * ((placed.map Kern.cls).getD 0 % 2) +
  256 * b2n (s.reels.chunks.any (fun c => c.running && placed.any (fun k => k.seq == c.seq))) +
  65536 * (shelf.foldl (fun a k => a + 2 ^ k) 0)

/-- CORE_ read (R521). -/
def State.coreRead (s : State) (o : Nat) : Nat :=
  let w := o / 0x10000
  match o % 0x10000 with
  | 0 => s.coreStatus w
  | 4 => ((s.kernOn w).map (fun k => k.seq.toNat)).getD 0
  | 8 => (Tab.at s.flt.fenced w 0#8).toNat
  | _ => (Tab.at s.flt.ecc w 0#16).toNat

/-- A dword of a block in service read; live counters of timing take free values. -/
def State.regRead (s : State) (b o : Nat) : Nat × State :=
  match b with
  | 0 => (s.hifRead o, s)
  | 1 => (s.cmdRead o, s)
  | 2 => (s.bootRead o, s)
  | 3 => (s.secRead o, s)
  | 4 => (s.gafRead o, s)
  | 5 => let t := if o % 16 = 4 then s.settleTst else s; (t.tstRead o, t)
  | 6 => (s.fltRead o, s)
  | 7 => (s.rushRead o, s)
  | 8 => (s.memRead o, s)
  | 9 => (s.hbmRegRead o, s)
  | 10 => (s.vdecRead o, s)
  | 11 => (s.sltRead o, s)
  | 12 => (s.fabRead o, s)
  | 13 => match perfCounter o with | some (g, sel) => s.counterRead o g sel | none => (s.perfRead o, s)
  | 14 => (s.dmaRead o, s)
  | 15 => (s.coreRead o, s)
  | _ => (0, s)

/-- A dword of BAR0 read (R518, R555). -/
def State.barRead (s : State) (off : Nat) : Nat × State :=
  let b := blockIx off
  let o := off - blockBase b
  if regExists b o && s.serves (regServe b o) then s.regRead b o else (0, s)

end Sys2Proof.Machine
end

