-- ==== Sys2Proof/Machine/HostEdge.lean ====
section
/-! DEFINITION. What the host sends outside the intake: CXL.mem lines (R480, R484, R518), configuration requests (R556), malformed and
unsupported requests (R518); and the I3C sideband (R574). -/

namespace Sys2Proof.Machine

/-! ### The stores as CXL.mem reads them -/

/-- Words drawn one after another: `n` free words. -/
def State.drawWords (s : State) : Nat → List Word × State
  | 0 => ([], s)
  | n + 1 => match s.draw with | (w, s) => match State.drawWords s n with | (ws, s) => (w :: ws, s)

/-- A line of free bytes. -/
def State.drawLine (s : State) : List Byte × State := match s.drawWords 16 with | (ws, s) => (ws.flatMap (fun w => leBytes 4 w.toNat), s)

/-- log2 of the bytes one entry of a page-table level spans (R367). -/
def levelSpan (lv : Nat) : Nat := 12 + 9 * lv

/-- Device physical address of the table of a level that serves an address (R367). -/
def State.tableAt (s : State) (lv va : Nat) : Nat :=
  s.mem.regs.tableBase.toNat + (if lv = 4 then 0 else 4096 * Config.tablePage lv (va / 2 ^ levelSpan (lv + 1)))

/-- The level at which a page of a size is a leaf (R369). -/
def leafLevel (lg : Nat) : Nat := if lg = 30 then 2 else if 21 ≤ lg then 1 else 0

/-- A leaf entry (R368). -/
def Leaf.entry (l : Leaf) : Nat :=
  3 + 4 * (l.lg - 12) + 128 * l.loc + 512 * b2n l.wr + 1024 * b2n l.pin + 2048 * b2n l.mig + l.addr % 2 ^ 52 / 4096 * 4096 +
  2 ^ 52 * (if l.loc = 2 then l.fabric else 0)

/-- The entry of a level that serves an address (R368, R369): a leaf, a pointer to the next table, or nothing. -/
def State.tableEntry (s : State) (lv va : Nat) : Nat :=
  match s.mem.leaves.find? (fun l => leafLevel l.lg == lv && decide (l.va ≤ va) && decide (va < l.va + 2 ^ l.lg)) with
  | some l => l.entry
  | none =>
    if s.mem.leaves.any (fun l => decide (leafLevel l.lg < lv) && l.va / 2 ^ levelSpan lv == va / 2 ^ levelSpan lv) then 1 + s.tableAt (lv - 1) va else 0

/-- The level and the first address of the table at a page of the table store, where the model knows one. -/
def State.tableOf (s : State) (page : Nat) : Option (Nat × Nat) :=
  if page = s.mem.regs.tableBase.toNat then some (4, 0)
  else
    ((List.range 4).flatMap (fun lv => s.mem.leaves.map (fun l => (lv, l.va)))).findSome? (fun q =>
      if leafLevel (((s.leafAt q.2).map Leaf.lg).getD 12) ≤ q.1 && s.tableAt q.1 q.2 == page
      then some (q.1, q.2 / 2 ^ levelSpan (q.1 + 1) * 2 ^ levelSpan (q.1 + 1)) else none)

/-- A line of the table store, where it belongs to a table in use. -/
def State.tableLine (s : State) (pa : Nat) : Option (List Byte) :=
  (s.tableOf (pa / 4096 * 4096)).map (fun q =>
    (List.range 8).flatMap (fun i => leBytes 8 (s.tableEntry q.1 (q.2 + (pa % 4096 / 8 + i) * 2 ^ levelSpan q.1))))

/-- A page entry of a list (R36); a page in host memory by its host-direct address (log entry 55). -/
def PageEnt.bytes (e : PageEnt) : List Byte :=
  leBytes 8 (e.offset % 2 ^ 36 + 2 ^ 36 * (e.lg - 12)) ++ leBytes 8 (if e.swapped then 0x10 * 2 ^ 52 + e.page else e.page)

/-- A take's list (R36). -/
def Take.listOf (t : Take) : List Byte := t.reels.flatMap (fun r => leBytes 8 r.toNat) ++ t.pages.flatMap PageEnt.bytes

/-- The byte of the list store at an address, where a list holds it. -/
def State.listByte (s : State) (pa : Nat) : Option Byte :=
  let l : List (Nat × List Byte) := s.takes.takes.map (fun (p : Nat × Take) => (p.2.listAt, p.2.listOf)) ++
    s.kv.seqs.map (fun (p : Nat × SeqEnt) => (p.2.listAt, p.2.pages.flatMap PageEnt.bytes))
  l.findSome? (fun q => if q.1 ≤ pa then q.2[pa - q.1]? else none)

/-- A line of the stores: what the page table and the lists hold, free bytes where the layout is not stated (log entry 55). -/
def State.storeLine (s : State) (pa : Nat) : List Byte × State :=
  match s.drawLine with
  | (free, s) =>
    if pa < s.listBase then ((s.tableLine pa).getD free, s)
    else if pa < s.reelBase then (tabulate 64 (fun i => (s.listByte (pa + i)).getD (nth free i 0)), s)
    else (free, s)

/-! ### CXL.mem -/

/-- Whether a device physical address lies in a region that CXL.mem writes may not change (R518). -/
def State.guarded (s : State) (pa : Nat) : Bool :=
  decide (pa < s.storeEnd) ||
  s.mem.leaves.any (fun l => l.loc == 0 && decide (programWindow 0 ≤ l.va) && decide (l.va < programWindow 256) &&
    decide (l.addr ≤ pa) && decide (pa < l.addr + 2 ^ l.lg))

/-- CXL_MEM_WRITE (R483, R484, R518): a 64-byte line, dropped in a protected region; poisoned data writes a poisoned burst. -/
def execCxlMemWrite (line : BitVec 34) (data : BitVec 512) (poisoned : Bool) (s : State) : Host.Outcome State Fault Refusal :=
  let pa := 64 * line.toNat
  if !s.mod.good then .next s
  else if s.hbmBytes ≤ pa then .fault .noSuchAddress
  else if s.ideHolds then .next ((s.violation 15 0xFF pa).send (.complete false))
  else if !s.hbm.trained then .next (s.send (.complete false))
  else if s.guarded pa then .next ((s.violation 11 0xFF pa).send (.complete false))
  else
    let s := if poisoned then s.violation 10 0xFF pa else s
    .next ((s.writePlace (.hbm pa) (leBytes 64 data.toNat) poisoned 0xFFFFFFFF 0x24).send (.complete false))

/-- CXL_MEM_READ (R405, R483, R484). -/
def execCxlMemRead (line : BitVec 34) (s : State) : Host.Outcome State Fault Refusal :=
  let pa := 64 * line.toNat
  if !s.mod.good then .next s
  else if s.hbmBytes ≤ pa then .fault .noSuchAddress
  else if s.ideHolds then .next ((s.drawLine.2.violation 15 0xFF pa).send (.read s.drawLine.1 true))
  else if !s.hbm.trained then .next (s.drawLine.2.send (.read s.drawLine.1 false))
  else if pa < s.storeEnd then .next ((s.storeLine pa).2.send (.read (s.storeLine pa).1 (s.hbmRead pa 64).2.isSome))
  else .next ((s.hbmTouched pa 64).send (.read (s.hbmRead pa 64).1 (s.hbmRead pa 64).2.isSome))

/-- CONFIG_REQUEST (R486, R556): retry status until configuration space is ready; then register 0 holds the Device ID and the
Vendor ID, and what the other registers hold is PCIe's and CXL's (free). -/
def execConfigRequest (reg : BitVec 10) (write : Bool) (s : State) : Host.Outcome State Fault Refusal :=
  if !s.mod.good then .next s
  else if !s.host.cfgReady then .next (s.send .cfgRetry)
  else if write then .next (s.send (.complete false))
  else if reg = 0 then .next (s.send (.read (leBytes 2 Config.vendorId.toNat ++ leBytes 2 0x8576) false))
  else match s.draw with | (w, s) => .next (s.send (.read (leBytes 4 w.toNat) false))

/-- MALFORMED_TLP (R518): dropped, reported through AER. -/
def execMalformedTlp (s : State) : Host.Outcome State Fault Refusal :=
  if !s.mod.good then .next s
  else .next ((s.updHost (fun h => { h with aer := { h.aer with malformed := true } })).violation 1 0xFF 0)

/-- UNSUPPORTED_REQUEST (R518): a request to an unimplemented BAR or function, answered with an Unsupported Request completion. -/
def execUnsupportedRequest (addr : Dword) (s : State) : Host.Outcome State Fault Refusal :=
  if !s.mod.good then .next s else .next ((s.violation 2 0xFF addr.toNat).send (.complete true))

/-! ### The I3C sideband -/

/-- I3C_TRANSACTION (R574): a dynamic address assigned (op 0), or a dword of BAR0 read (1) or written (2) at the target's address; a
closed sideband answers nothing. -/
def execI3cTransaction (op : BitVec 2) (addr : Byte) (dword : BitVec 24) (value : Word) (s : State) : Host.Outcome State Fault Refusal :=
  if !s.mod.good || !s.granted 1 then .next s
  else if op = 0 then .next ({ s with mod := { s.mod with i3cAddr := some addr } }.send (.i3c true 0))
  else if s.mod.i3cAddr ≠ some addr then .next s
  else if op = 1 then match s.barRead (4 * dword.toNat) with | (v, s) => .next (s.send (.i3c true (BitVec.ofNat 32 v)))
  else if op = 2 then .next ((s.barWrite (4 * dword.toNat) value.toNat).send (.i3c true 0))
  else .next s

end Sys2Proof.Machine
end

