-- ==== Sys2Proof/Machine/Vector.lean ====
section
/-! DEFINITION. The vector engine's instructions (08_vector_engine): register instructions, memory instructions, index
registers and loops, reductions, random words, scores, and element programs. -/

namespace Sys2Proof.Machine

/-- A vector instruction counted as issued, with the lanes outside its lengths in its issue cycles (R294). -/
def State.countVec (s : State) (w cycles : Nat) : State :=
  (s.bump (.core w) 0x0E0 1).bump (.core w) 0x0E1 (cycles * outLanes (s.core w).lens)

/-- A vector instruction of some issue cycles (R290). -/
def vecIssue (w : CoreIx) (word : Dword) (op cycles : Nat) (f : Kern → State → State) (s : State) : Host.Outcome State Fault Refusal :=
  issue w word (fun n => opcodeOf n == op) (fun k s => some (f k (s.countVec w.val cycles))) s

/-- Lanes of a register rewritten where the word's predicate lets them through (R267), with what was counted. -/
def State.writeLanes (s : State) (w n dst : Nat) (v : List (Word × NumCnt)) : State :=
  let c := s.core w
  let old := c.tile dst
  let on := (List.range 256).map (fun i => c.laneOn n i)
  let out := (List.range 256).map (fun i => if nth on i false then (nth v i (0#32, {})).1 else nth old i 0)
  let cnt := NumCnt.sum ((v.zip on).filterMap (fun p => if p.2 then some p.1.2 else none))
  (s.setCore w (c.setTile dst out)).countNum w cnt

/-- The second source of a word: SB, or its immediate (R265). -/
def Core.srcB (c : Core) (n : Nat) (int : Bool) : List Word :=
  if bitOf n 47 then List.replicate 256 (immLane int (fld n 48 16)) else c.tile (fld n 18 5)

/-- The lane moves of VOP: TRANS, BROW, BCOL, IOTA (R266). -/
def moveLane (f imm : Nat) (a : List Word) (i : Nat) : Word :=
  match f with
  | 0x40 => nth a (transLane i) 0
  | 0x41 => nth a (imm % 16 * 16 + i % 16) 0
  | 0x42 => nth a (i / 16 * 16 + imm % 16) 0
  | _ => BitVec.ofNat 32 i

/-- VOP on the lanes. -/
def State.vop (s : State) (w n : Nat) : State :=
  let c := s.core w
  let f := fld n 32 8
  let a := c.tile (fld n 13 5)
  let b := c.srcB n (immInt f)
  let e := c.tile (fld n 23 5)
  s.writeLanes w n (fld n 8 5) ((List.range 256).map (fun i =>
    if 0x40 ≤ f then (moveLane f (fld n 48 16) a i, {}) else elemEval f (nth a i 0) (nth b i 0) (nth e i 0)))

/-- VOP (R265 to R267). -/
def execVop (w : CoreIx) (word : Dword) (s : State) : Host.Outcome State Fault Refusal :=
  vecIssue w word 0x10 (funcCycles (fld word.toNat 32 8)) (fun _ s => s.vop w.val word.toNat) s

/-- VCVT on the lanes (R270). -/
def State.vcvt (s : State) (w n : Nat) (k : Kern) : State :=
  match numFmtOfCode (fld n 40 5) with
  | none => s.endCmd k.seq .rejectedFormat
  | some f =>
    if f.isMx || fld n 45 2 == 3 then s.endCmd k.seq .rejectedFormat
    else
      let c := s.core w
      let a := c.tile (fld n 13 5)
      let r := c.tile (fld n 23 5)
      s.writeLanes w n (fld n 8 5) ((List.range 256).map (fun i => f.vcvt (rmodeOf (fld n 45 2) (nth r i 0#32).toNat) (nth a i 0)))

/-- VCVT (R270). -/
def execVcvt (w : CoreIx) (word : Dword) (s : State) : Host.Outcome State Fault Refusal :=
  vecIssue w word 0x11 1 (fun k s => s.vcvt w.val word.toNat k) s

/-- The results of a reduction by lane (R279, R280). -/
def vredOut (mode f : Nat) (l : List Word) : List Word :=
  match mode with
  | 0 => List.replicate 256 ((tree (vredFn f) 8 l).headD 0)
  | 1 => let t := tree (vredFn f) 4 l
         (List.range 256).map (fun i => nth t (i / 16) 0)
  | _ => let t := tree (vredFn f) 4 ((List.range 256).map (fun i => nth l (transLane i) 0))
         (List.range 256).map (fun i => nth t (i % 16) 0)

/-- VRED on the lanes. -/
def State.vred (s : State) (w n : Nat) : State :=
  let c := s.core w
  let f := fld n 32 8
  let a := c.tile (fld n 13 5)
  let old := c.tile (fld n 8 5)
  let inp := (List.range 256).map (fun i => if c.laneOn n i && inside c.lens i then nth a i 0 else vredId f)
  let out := vredOut (fld n 48 2) f inp
  let nans := inp.map isNanF32
  let nan := fun (i : Nat) => match fld n 48 2 with
    | 0 => nans.any id
    | 1 => (List.range 16).any (fun j => nth nans (i / 16 * 16 + j) false)
    | _ => (List.range 16).any (fun j => nth nans (16 * j + i % 16) false)
  let s := s.bump (.core w) 0x0E3 1
  s.writeLanes w n (fld n 8 5) ((List.range 256).map (fun i =>
    let r := nth out i 0
    let d := nth old i 0
    let v := if bitOf n 50 then vredFn f d r else r
    (v, if f < 3 then nanCnt (nan i || (bitOf n 50 && isNanF32 d)) v else {})))

/-- VRED (R279, R280). -/
def execVred (w : CoreIx) (word : Dword) (s : State) : Host.Outcome State Fault Refusal :=
  vecIssue w word 0x12 1 (fun _ s => s.vred w.val word.toNat) s

/-- VCMP (R269). -/
def execVcmp (w : CoreIx) (word : Dword) (s : State) : Host.Outcome State Fault Refusal :=
  vecIssue w word 0x15 1 (fun _ s =>
    let n := word.toNat
    let c := s.core w.val
    let f := fld n 32 8
    let a := c.tile (fld n 13 5)
    let b := c.srcB n (decide (6 ≤ f))
    let old := (c.pred (fld n 8 3)).toNat
    let bits := (List.range 256).map (fun i => if c.laneOn n i then vcmpFn f (nth a i 0) (nth b i 0) else old.testBit i)
    s.setCore w.val { c with preds := Tab.put c.preds (fld n 8 3) (BitVec.ofNat 256 (flagsNat bits)) }) s

/-! ### Memory -/

/-- A tile access: its word's fields resolved (R271 to R273). -/
structure TileAcc where
  fmt    : NumFmt
  space  : Nat
  off    : Nat
  stride : Nat
  cols   : Nat      -- columns of a row: 16, or 32 for an MX pair of registers
  scales : Nat      -- offset of the scale bytes
  lr     : Nat
  lc     : Nat
  deriving DecidableEq, Repr

/-- The access a word makes from a core. -/
def Core.tileAcc (c : Core) (n : Nat) (f : NumFmt) : TileAcc :=
  let x := c.x (fld n 27 3)
  let d := wordOfInt (sgn 14 (fld n 50 14) * 16)
  let cols := if f.isMx && !bitOf n 22 then 32 else 16
  { fmt := f, space := fld n 13 2, off := if bitOf n 23 then x.toNat else (x + d).toNat
    stride := if fld n 38 12 = 0 then f.rowBytes cols else 16 * fld n 38 12
    cols := cols, scales := (c.x (fld n 30 3)).toNat, lr := c.lens.1, lc := c.lens.2 }

/-- Whether column `j` of an access row is inside the lengths; the second register of a pair has its own columns. -/
def TileAcc.colIn (t : TileAcc) (j : Nat) : Bool := decide (j % 16 < t.lc)

/-- Bytes of a row the access touches: up to its last inside element, or the whole row of an MX store. -/
def TileAcc.rowLen (t : TileAcc) (store : Bool) : Nat :=
  if t.fmt.isMx && store then t.fmt.rowBytes t.cols else t.fmt.rowBytes (t.cols - 16 + t.lc)

/-- The runs an access touches: offset and bytes (R272, R273, R277). -/
def TileAcc.runs (t : TileAcc) (store : Bool) : List (Nat × Nat) :=
  (List.range t.lr).map (fun r => (t.off + r * t.stride, t.rowLen store)) ++ (if t.fmt.isMx then [(t.scales, t.lr)] else [])

/-- The first address of an access out of reach (R272). -/
def State.tileBad (s : State) (k : Kern) (w : Nat) (t : TileAcc) (store : Bool) : Option Nat :=
  (t.runs store).findSome? (fun p =>
    let lim := k.spaceSize w t.space
    if lim < p.1 + p.2 then some (spaceVa t.space (max p.1 lim)) else s.selfBad k w (spaceVa t.space p.1) p.2)

/-- The vector issue cycles of a tile access (R290): its bytes over the port's width, or the most words of 64 bytes it touches in one
bank; in cluster memory a word a cycle (DESIGN CHOICE, log entry 121). -/
def TileAcc.cycles (t : TileAcc) (store : Bool) : Nat :=
  let runs := (t.runs store).filter (fun p => p.2 != 0)
  let words := (runs.flatMap (fun p => (List.range ((p.1 + p.2 - 1) / 64 + 1 - p.1 / 64)).map (fun i => p.1 / 64 + i))).eraseDups
  let bytes := runs.foldl (fun a p => a + p.2) 0
  if t.space = 1 then words.length
  else max 1 (max (ceilDiv bytes (if t.space = 0 then 512 else 1024))
    (((List.range 16).map (fun b => words.countP (fun x => x % 16 == b))).foldl max 0))

/-- The address register after a word (R271, POST). -/
def Core.stepX (c : Core) (n : Nat) : Core :=
  if bitOf n 23 then c.setX (fld n 27 3) (c.x (fld n 27 3) + wordOfInt (sgn 14 (fld n 50 14) * 16)) else c

/-- A row's scale byte. -/
def TileAcc.scale (t : TileAcc) (sc : List Byte) (r : Nat) : Nat := if t.fmt.isMx then recField sc r 1 else 127

/-- The lane an element of a row loads. -/
def TileAcc.lane (t : TileAcc) (row : List Byte) (scale j : Nat) : Word :=
  if t.fmt.isMx then toF32 (mxValue t.fmt scale (t.fmt.elemAt row j)) else t.fmt.widen (t.fmt.elemAt row j)

/-- The rows of a load read, with its scale bytes. -/
def State.tileRows (s : State) (k : Kern) (w : Nat) (t : TileAcc) : List (List Byte) × List Byte :=
  ((List.range t.lr).map (fun r => s.selfRead k w (spaceVa t.space (t.off + r * t.stride)) (t.rowLen false)),
   if t.fmt.isMx then s.selfRead k w (spaceVa t.space t.scales) t.lr else [])

/-- A load into one register, or a pair (R272, R273). -/
def State.loadTile (s : State) (k : Kern) (w n reg : Nat) (t : TileAcc) : State :=
  match s.tileRows k w t with
  | (rows, sc) =>
    let reg1 := fun (h : Nat) => (List.range 256).map (fun i =>
      if i / 16 < t.lr ∧ i % 16 < t.lc then t.lane (nth rows (i / 16) []) (t.scale sc (i / 16)) (16 * h + i % 16) else 0#32)
    let c := (s.core w).setTile reg (reg1 0)
    let c := if t.cols = 32 then c.setTile (reg + 1) (reg1 1) else c
    (s.setCore w (c.stepX n)).countNum w { mxNan := if t.fmt.isMx then ((List.range t.lr).filter (fun r => t.scale sc r == 0xFF)).length else 0 }

/-- The checks of a tile access in order: its format, its register, its address (R198, R216, R272, R273). A store of integers ignores
RMODE. -/
def State.tileCheck (s : State) (k : Kern) (w n : Nat) (store : Bool) (go : NumFmt → TileAcc → State) : State :=
  match numFmtOfCode (fld n 15 5) with
  | none => s.endCmd k.seq .rejectedFormat
  | some f =>
    let t := (s.core w).tileAcc n f
    if store && !f.isInt && fld n 20 2 == 3 then s.endCmd k.seq .rejectedFormat
    else if t.cols = 32 ∧ fld n 8 5 % 2 = 1 then s.endCmd k.seq .shapeOver
    else if t.off % 16 ≠ 0 then s.coreFault w k (spaceVa t.space t.off)
    else
      match s.tileBad k w t store with
      | some va => s.coreFault w k va
      | none => (go f t).bump (.core w) 0x0E1 (t.cycles store * outLanes (s.core w).lens)

/-- VLD (R271 to R273, R277). -/
def execVld (w : CoreIx) (word : Dword) (s : State) : Host.Outcome State Fault Refusal :=
  vecIssue w word 0x20 0 (fun k s => s.tileCheck k w.val word.toNat false (fun _ t => s.loadTile k w.val word.toNat (fld word.toNat 8 5) t)) s

/-- A row of a plain store: the bytes with every written lane's element put in, and what it counts. -/
def plainRow (f : NumFmt) (old : List Byte) (els : List (Nat × RMode × Word)) : List Byte × NumCnt :=
  els.foldl (fun acc e =>
    let c := f.narrow e.2.1 e.2.2
    (f.putElem acc.1 e.1 c.bits, acc.2.add (f.storeCnt e.2.2 c))) (old, {})

/-- A row of an MX store: its bytes, its scale byte, what it counts (R207, R273). -/
def mxRow (f : NumFmt) (old : List Byte) (out : List Nat) (els : List (Nat × RMode × Word)) : List Byte × Nat × NumCnt :=
  match mxQuantise f (els.map (fun e => e.2.1)) (els.map (fun e => f32 e.2.2)) with
  | (x, bits, sat) =>
    let row := ((els.map Prod.fst).zip bits).foldl (fun b p => f.putElem b p.1 p.2) old
    (out.foldl (fun b j => f.putElem b j 0) row, x,
     { sat := sat, mxNan := b2n (x == 0xFF), nanMade := if x = 0xFF then els.countP (fun e => !isNanF32 e.2.2) else 0 })

/-- A store from one register, or a pair (R272, R273, R277): row after row onto memory as it stands. -/
def State.storeTile (s : State) (k : Kern) (w n reg : Nat) (t : TileAcc) : State :=
  let c := s.core w
  let mask := (c.pred (fld n 24 3)).toNat
  let rnd := c.tile (fld n 33 5)
  let row := fun (r : Nat) => spaceVa t.space (t.off + r * t.stride)
  let rowEls := fun (r : Nat) => ((List.range t.cols).filter (fun j => t.colIn j && mask.testBit (16 * r + j % 16))).map (fun j =>
    (j, rmodeOf (fld n 20 2) (nth rnd (16 * r + j % 16) 0#32).toNat, nth (c.tile (reg + j / 16)) (16 * r + j % 16) 0#32))
  let outCols := (List.range t.cols).filter (fun j => !t.colIn j)
  let s := (List.range t.lr).foldl (fun s r =>
    let old := s.selfRead k w (row r) (t.rowLen true)
    if t.fmt.isMx then
      match mxRow t.fmt old outCols (rowEls r) with
      | (bs, x, cnt) => ((s.selfWrite k w (row r) bs).selfWrite k w (spaceVa t.space (t.scales + r)) (leBytes 1 x)).countNum w cnt
    else
      match plainRow t.fmt old (rowEls r) with
      | (bs, cnt) => (s.selfWrite k w (row r) bs).countNum w cnt) s
  s.setCore w ((s.core w).stepX n)

/-- VST (R271 to R273, R277). -/
def execVst (w : CoreIx) (word : Dword) (s : State) : Host.Outcome State Fault Refusal :=
  vecIssue w word 0x21 0 (fun k s => s.tileCheck k w.val word.toNat true (fun _ t => s.storeTile k w.val word.toNat (fld word.toNat 8 5) t)) s

/-! ### Index registers and loops -/

/-- VSETX (R274). -/
def execVsetx (w : CoreIx) (word : Dword) (s : State) : Host.Outcome State Fault Refusal :=
  issue w word (fun n => opcodeOf n == 0x28) (fun _ s =>
    let n := word.toNat
    let c := s.core w.val
    let v := BitVec.ofNat 32 (fld n 32 32)
    some (s.setCore w.val (c.setX (fld n 8 3) (if bitOf n 11 then c.x (fld n 8 3) + v else v)))) s

/-- Whether a VLOOP at a core's position is refused (R278): a fifth loop, a body of 0 or one that reaches too far. -/
def Core.loopBad (c : Core) (words body : Nat) : Bool :=
  body == 0 || decide (4 ≤ c.loops.length) ||
  (match c.loops with
   | [] => decide (words < c.pos + 1 + body)
   | f :: _ => decide (f.start + f.len < c.pos + 1 + body))

/-- VLOOP (R275 to R278). -/
def execVloop (w : CoreIx) (word : Dword) (s : State) : Host.Outcome State Fault Refusal :=
  issue w word (fun n => opcodeOf n == 0x30) (fun k s =>
    let n := word.toNat
    let c := s.core w.val
    let body := fld n 10 12
    some (
      if c.loopBad (((s.entOf k).map KernelEnt.words).getD 0) body then s.endCmd k.seq .deviceFault
      else if fld n 22 16 = 0 then s.setCore w.val { c with pos := c.pos + body }
      else s.setCore w.val { c with loops :=
        { start := c.pos + 1, len := body, trip := fld n 22 16, iter := 0, tailR := fld n 38 4, tailC := fld n 42 4 } :: c.loops })) s

/-! ### Random words and scores -/

/-- A generator word as VRAND writes it (R281). -/
def randLane (unif : Bool) (v : Nat) : Word := if unif then toF32 (.fin false (v / 256) (-24)) else BitVec.ofNat 32 v

/-- VRAND (R281). -/
def execVrand (w : CoreIx) (word : Dword) (s : State) : Host.Outcome State Fault Refusal :=
  vecIssue w word 0x13 4 (fun k s =>
    let n := word.toNat
    let c := s.core w.val
    let row := (c.x (fld n 13 3)).toNat
    let base := (c.x (fld n 16 3)).toNat
    let none_ := decide ((c.x 1).toNat ≤ row)
    let v := (List.range 256).map (fun i =>
      if none_ then 0#32 else randLane (bitOf n 21) (s.drawRow w.val k row (fld n 32 16) ((base + i) % 2 ^ 32) (fld n 19 2)))
    (s.setCore w.val (c.setTile (fld n 8 5) v)).bump (.core w.val) 0x0E4 1) s

/-- VSCORE (R61, R283): the updates of the core's take rows, a later one in place of an earlier one of the same take. -/
def execVscore (w : CoreIx) (word : Dword) (s : State) : Host.Outcome State Fault Refusal :=
  vecIssue w word 0x14 1 (fun k s =>
    let n := word.toNat
    let c := s.core w.val
    if ((s.cmd? k.seq).map Cmd.isAdvance).getD false then
      let a := c.tile (fld n 13 5)
      let rows := ((List.range 256).zip c.rows).filter (fun p => decide (p.1 < (c.x 1).toNat) && c.laneOn n p.1)
      let new := rows.map (fun p => (k.seq, p.2, fld n 32 8 == 1, nth a p.1 0#32))
      let old := s.takes.scores.filter (fun q => !(q.1 == k.seq && rows.any (fun p => p.2 == q.2.1)))
      ({ s with takes := { s.takes with scores := old ++ new } }).bump (.core w.val) 0x0E6 new.length
    else s) s

/-! ### Element programs -/

/-- EPRUN (R284 to R287): its groups are done by the next instruction of its core, or by the end of its kernel (log entry 122). -/
def execEprun (w : CoreIx) (word : Dword) (s : State) : Host.Outcome State Fault Refusal :=
  vecIssue w word 0x31 0 (fun k s =>
    match s.descOf k w.val word.toNat 128 with
    | .error va => s.coreFault w.val k va
    | .ok b => s.eprun k w.val word.toNat b) s

end Sys2Proof.Machine
end

