-- ==== Sys2Proof/Machine/Dispatch.lean ====
section
/-! DEFINITION. One arm per command: each calls its meaning. -/

namespace Sys2Proof.Machine

/-- The effect of a command on everything but the queue. -/
def exec (i : Instr) (s : State) : Host.Outcome State Fault Refusal :=
  match i with
  | .loadProgram seq => Sys2Proof.Machine.execLoadProgram seq s
  | .unload seq => Sys2Proof.Machine.execUnload seq s
  | .runKernel seq => Sys2Proof.Machine.execRunKernel seq s
  | .runGraph seq => Sys2Proof.Machine.execRunGraph seq s
  | .forkTake seq => Sys2Proof.Machine.execForkTake seq s
  | .advanceTakes seq => Sys2Proof.Machine.execAdvanceTakes seq s
  | .cutTakes seq => Sys2Proof.Machine.execCutTakes seq s
  | .pruneTake seq => Sys2Proof.Machine.execPruneTake seq s
  | .exportReel seq => Sys2Proof.Machine.execExportReel seq s
  | .importReel seq => Sys2Proof.Machine.execImportReel seq s
  | .resetReels seq => Sys2Proof.Machine.execResetReels seq s
  | .resetReelsCreate seq => Sys2Proof.Machine.execResetReelsCreate seq s
  | .resetReelsRelease seq => Sys2Proof.Machine.execResetReelsRelease seq s
  | .openStream seq => Sys2Proof.Machine.execOpenStream seq s
  | .closeStream seq => Sys2Proof.Machine.execCloseStream seq s
  | .dmaCopy seq => Sys2Proof.Machine.execDmaCopy seq s
  | .dmaCopyDesc seq => Sys2Proof.Machine.execDmaCopyDesc seq s
  | .slateOpWait seq => Sys2Proof.Machine.execSlateOpWait seq s
  | .slateOpWaiteq seq => Sys2Proof.Machine.execSlateOpWaiteq seq s
  | .slateOpSignal seq => Sys2Proof.Machine.execSlateOpSignal seq s
  | .slateOpAdd seq => Sys2Proof.Machine.execSlateOpAdd seq s
  | .slateOpFadd seq => Sys2Proof.Machine.execSlateOpFadd seq s
  | .slateOpCas seq => Sys2Proof.Machine.execSlateOpCas seq s
  | .slateOpRead seq => Sys2Proof.Machine.execSlateOpRead seq s
  | .slateOpSet seq => Sys2Proof.Machine.execSlateOpSet seq s
  | .migrateHint seq => Sys2Proof.Machine.execMigrateHint seq s
  | .fenceCore seq => Sys2Proof.Machine.execFenceCore seq s
  | .fenceCoreDrain seq => Sys2Proof.Machine.execFenceCoreDrain seq s
  | .queryDevice seq => Sys2Proof.Machine.execQueryDevice seq s
  | .queryTake seq => Sys2Proof.Machine.execQueryTake seq s
  | .queryReel seq => Sys2Proof.Machine.execQueryReel seq s
  | .querySequence seq => Sys2Proof.Machine.execQuerySequence seq s
  | .intakeWrite off data poisoned => Sys2Proof.Machine.execIntakeWrite off data poisoned s
  | .receiptRead off len => Sys2Proof.Machine.execReceiptRead off len s
  | .partialTimeout slot => Sys2Proof.Machine.execPartialTimeout slot s
  | .schedulingPass => Sys2Proof.Machine.execSchedulingPass s
  | .pieceDispatch seq => Sys2Proof.Machine.execPieceDispatch seq s
  | .sliceStart seq => Sys2Proof.Machine.execSliceStart seq s
  | .stageDispatch seq stage => Sys2Proof.Machine.execStageDispatch seq stage s
  | .holdLimitExpiry seq => Sys2Proof.Machine.execHoldLimitExpiry seq s
  | .quantumExpiry seq => Sys2Proof.Machine.execQuantumExpiry seq s
  | .saveComplete seq layer => Sys2Proof.Machine.execSaveComplete seq layer s
  | .restoreComplete seq layer => Sys2Proof.Machine.execRestoreComplete seq layer s
  | .kernelComplete seq layer => Sys2Proof.Machine.execKernelComplete seq layer s
  | .completionRecordVisible q accepted => Sys2Proof.Machine.execCompletionRecordVisible q accepted s
  | .msixHoldoffExpiry q => Sys2Proof.Machine.execMsixHoldoffExpiry q s
  | .hifCqConsWrite q value => Sys2Proof.Machine.execHifCqConsWrite q value s
  | .hifCqCtlWrite q value => Sys2Proof.Machine.execHifCqCtlWrite q value s
  | .msixVectorUnmask v ctl => Sys2Proof.Machine.execMsixVectorUnmask v ctl s
  | .cxlMemWrite line data poisoned => Sys2Proof.Machine.execCxlMemWrite line data poisoned s
  | .cxlMemRead line => Sys2Proof.Machine.execCxlMemRead line s
  | .configRequest reg write => Sys2Proof.Machine.execConfigRequest reg write s
  | .malformedTlp => Sys2Proof.Machine.execMalformedTlp s
  | .unsupportedRequest addr => Sys2Proof.Machine.execUnsupportedRequest addr s
  | .registerWrite dword value poisoned => Sys2Proof.Machine.execRegisterWrite dword value poisoned s
  | .getVersion => Sys2Proof.Machine.execGetVersion s
  | .getCapabilities => Sys2Proof.Machine.execGetCapabilities s
  | .negotiateAlgorithms meets => Sys2Proof.Machine.execNegotiateAlgorithms meets s
  | .getDigests => Sys2Proof.Machine.execGetDigests s
  | .getCertificate slot1 offset length => Sys2Proof.Machine.execGetCertificate slot1 offset length s
  | .challenge nonce => Sys2Proof.Machine.execChallenge nonce s
  | .getMeasurements index signed nonce => Sys2Proof.Machine.execGetMeasurements index signed nonce s
  | .keyExchange share => Sys2Proof.Machine.execKeyExchange share s
  | .finish verified => Sys2Proof.Machine.execFinish verified s
  | .endSession => Sys2Proof.Machine.execEndSession s
  | .ideKm op mem => Sys2Proof.Machine.execIdeKm op mem s
  | .matmul w word => Sys2Proof.Machine.execMatmul w word s
  | .attend w word => Sys2Proof.Machine.execAttend w word s
  | .await w word => Sys2Proof.Machine.execAwait w word s
  | .arrayLastOutput w => Sys2Proof.Machine.execArrayLastOutput w s
  | .conv w word => Sys2Proof.Machine.execConv w word s
  | .pool w word => Sys2Proof.Machine.execPool w word s
  | .halo w word => Sys2Proof.Machine.execHalo w word s
  | .haloDone w => Sys2Proof.Machine.execHaloDone w s
  | .edgePrep w word => Sys2Proof.Machine.execEdgePrep w word s
  | .edgeConv w word => Sys2Proof.Machine.execEdgeConv w word s
  | .edgeJobDone n pred => Sys2Proof.Machine.execEdgeJobDone n pred s
  | .eprun w word => Sys2Proof.Machine.execEprun w word s
  | .vop w word => Sys2Proof.Machine.execVop w word s
  | .vcvt w word => Sys2Proof.Machine.execVcvt w word s
  | .vred w word => Sys2Proof.Machine.execVred w word s
  | .vscore w word => Sys2Proof.Machine.execVscore w word s
  | .vcmp w word => Sys2Proof.Machine.execVcmp w word s
  | .vld w word => Sys2Proof.Machine.execVld w word s
  | .vst w word => Sys2Proof.Machine.execVst w word s
  | .vsetx w word => Sys2Proof.Machine.execVsetx w word s
  | .vloop w word => Sys2Proof.Machine.execVloop w word s
  | .vrand w word => Sys2Proof.Machine.execVrand w word s
  | .slateWait w word => Sys2Proof.Machine.execSlateWait w word s
  | .slateWaiteq w word => Sys2Proof.Machine.execSlateWaiteq w word s
  | .slateSignal w word => Sys2Proof.Machine.execSlateSignal w word s
  | .slateAdd w word => Sys2Proof.Machine.execSlateAdd w word s
  | .slateFadd w word => Sys2Proof.Machine.execSlateFadd w word s
  | .slateCas w word => Sys2Proof.Machine.execSlateCas w word s
  | .slateRead w word => Sys2Proof.Machine.execSlateRead w word s
  | .slateSet w word => Sys2Proof.Machine.execSlateSet w word s
  | .slateWake w => Sys2Proof.Machine.execSlateWake w s
  | .slateWaitLimit w => Sys2Proof.Machine.execSlateWaitLimit w s
  | .slateOpLimit seq => Sys2Proof.Machine.execSlateOpLimit seq s
  | .dmaq w word => Sys2Proof.Machine.execDmaq w word s
  | .perfrd w word => Sys2Proof.Machine.execPerfrd w word s
  | .reservedInstruction w word => Sys2Proof.Machine.execReservedInstruction w word s
  | .rampGrant w => Sys2Proof.Machine.execRampGrant w s
  | .rootTakeRegister seq set cls seed pages tokens reels => Sys2Proof.Machine.execRootTakeRegister seq set cls seed pages tokens reels s
  | .cowFault n => Sys2Proof.Machine.execCowFault n s
  | .pageCopyComplete n => Sys2Proof.Machine.execPageCopyComplete n s
  | .countUpdate unit => Sys2Proof.Machine.execCountUpdate unit s
  | .stepBoundary seq => Sys2Proof.Machine.execStepBoundary seq s
  | .chunkDispatch seq => Sys2Proof.Machine.execChunkDispatch seq s
  | .chunkFold seq => Sys2Proof.Machine.execChunkFold seq s
  | .reelSwapInDone reel => Sys2Proof.Machine.execReelSwapInDone reel s
  | .reelSwapOutDone reel => Sys2Proof.Machine.execReelSwapOutDone reel s
  | .shelfMoveDone reel => Sys2Proof.Machine.execShelfMoveDone reel s
  | .batchStepBoundary seq n => Sys2Proof.Machine.execBatchStepBoundary seq n s
  | .swapOutPageDone n => Sys2Proof.Machine.execSwapOutPageDone n s
  | .migrationCopyDone n => Sys2Proof.Machine.execMigrationCopyDone n s
  | .demotion => Sys2Proof.Machine.execDemotion s
  | .alloc count => Sys2Proof.Machine.execAlloc count s
  | .map count => Sys2Proof.Machine.execMap count s
  | .unmap count => Sys2Proof.Machine.execUnmap count s
  | .protect count => Sys2Proof.Machine.execProtect count s
  | .pin count => Sys2Proof.Machine.execPin count s
  | .mapDrainDone => Sys2Proof.Machine.execMapDrainDone s
  | .prefetchEntryComplete seq ix => Sys2Proof.Machine.execPrefetchEntryComplete seq ix s
  | .prefetchDecisionPoint seq ix landed => Sys2Proof.Machine.execPrefetchDecisionPoint seq ix landed s
  | .retentionEntry kind unit bank => Sys2Proof.Machine.execRetentionEntry kind unit bank s
  | .bankWake kind unit bank => Sys2Proof.Machine.execBankWake kind unit bank s
  | .marchTestStart ctl => Sys2Proof.Machine.execMarchTestStart ctl s
  | .marchTestDone fails => Sys2Proof.Machine.execMarchTestDone fails s
  | .bgTestRegion failed word => Sys2Proof.Machine.execBgTestRegion failed word s
  | .hbmRefresh c pc => Sys2Proof.Machine.execHbmRefresh c pc s
  | .scrubStep errs => Sys2Proof.Machine.execScrubStep errs s
  | .writeBatchDrain c pc => Sys2Proof.Machine.execWriteBatchDrain c pc s
  | .softRepair ctl => Sys2Proof.Machine.execSoftRepair ctl s
  | .hardRepairRequest ctl => Sys2Proof.Machine.execHardRepairRequest ctl s
  | .channelFailed c trainLost => Sys2Proof.Machine.execChannelFailed c trainLost s
  | .repairRecordWrite => Sys2Proof.Machine.execRepairRecordWrite s
  | .dmaBurstGrant e => Sys2Proof.Machine.execDmaBurstGrant e s
  | .requestLineAssert e line => Sys2Proof.Machine.execRequestLineAssert e line s
  | .dmaDescriptorComplete e c => Sys2Proof.Machine.execDmaDescriptorComplete e c s
  | .dmaCqConsWrite e value => Sys2Proof.Machine.execDmaCqConsWrite e value s
  | .mailSlotWrite m data fin => Sys2Proof.Machine.execMailSlotWrite m data fin s
  | .mailSlotRead m => Sys2Proof.Machine.execMailSlotRead m s
  | .mailSlotIdle m => Sys2Proof.Machine.execMailSlotIdle m s
  | .mailSlotFlush m => Sys2Proof.Machine.execMailSlotFlush m s
  | .frameDecoded e f => Sys2Proof.Machine.execFrameDecoded e f s
  | .bitstreamProducerAdvance c => Sys2Proof.Machine.execBitstreamProducerAdvance c s
  | .decodeAbandon e blocks => Sys2Proof.Machine.execDecodeAbandon e blocks s
  | .decodeHang e blocks => Sys2Proof.Machine.execDecodeHang e blocks s
  | .sampleDeadline seq n slot => Sys2Proof.Machine.execSampleDeadline seq n slot s
  | .slotSettle seq n => Sys2Proof.Machine.execSlotSettle seq n s
  | .rushInsertDone n => Sys2Proof.Machine.execRushInsertDone n s
  | .rushFlush => Sys2Proof.Machine.execRushFlush s
  | .rushInval => Sys2Proof.Machine.execRushInval s
  | .portTrained p lanes => Sys2Proof.Machine.execPortTrained p lanes s
  | .portTrainRetry p => Sys2Proof.Machine.execPortTrainRetry p s
  | .portDown p => Sys2Proof.Machine.execPortDown p s
  | .flitReceived p seq ack replay idle errs strays => Sys2Proof.Machine.execFlitReceived p seq ack replay idle errs strays s
  | .rdReq p h => Sys2Proof.Machine.execRdReq p h s
  | .wrReq p h data => Sys2Proof.Machine.execWrReq p h data s
  | .rdRsp p h data => Sys2Proof.Machine.execRdRsp p h data s
  | .wrRsp p h => Sys2Proof.Machine.execWrRsp p h s
  | .slateReq p h op v cmp => Sys2Proof.Machine.execSlateReq p h op v cmp s
  | .slateRsp p h result stored => Sys2Proof.Machine.execSlateRsp p h result stored s
  | .slateCancel p h => Sys2Proof.Machine.execSlateCancel p h s
  | .credit p h n0 n1 n2 => Sys2Proof.Machine.execCredit p h n0 n1 n2 s
  | .reject p h reason tag type => Sys2Proof.Machine.execReject p h reason tag type s
  | .hello p h d => Sys2Proof.Machine.execHello p h d s
  | .helloTimer => Sys2Proof.Machine.execHelloTimer s
  | .electionSettle => Sys2Proof.Machine.execElectionSettle s
  | .linkReport p h l => Sys2Proof.Machine.execLinkReport p h l s
  | .routeRecompute => Sys2Proof.Machine.execRouteRecompute s
  | .assign p h id epoch => Sys2Proof.Machine.execAssign p h id epoch s
  | .table p h entries => Sys2Proof.Machine.execTable p h entries s
  | .commit p h epoch => Sys2Proof.Machine.execCommit p h epoch s
  | .discoveryTimeout => Sys2Proof.Machine.execDiscoveryTimeout s
  | .tableRetire => Sys2Proof.Machine.execTableRetire s
  | .remoteTimeout tag => Sys2Proof.Machine.execRemoteTimeout tag s
  | .fault p h key => Sys2Proof.Machine.execFault p h key s
  | .tally p h key count => Sys2Proof.Machine.execTally p h key count s
  | .faultCoalesceClose key => Sys2Proof.Machine.execFaultCoalesceClose key s
  | .violationWindowClose p => Sys2Proof.Machine.execViolationWindowClose p s
  | .portDisable p on => Sys2Proof.Machine.execPortDisable p on s
  | .portRelease p => Sys2Proof.Machine.execPortRelease p s
  | .portRetrain p => Sys2Proof.Machine.execPortRetrain p s
  | .faultReport cls subject cause seq detail => Sys2Proof.Machine.execFaultReport cls subject cause seq detail s
  | .faultWindowClose subject cls epoch => Sys2Proof.Machine.execFaultWindowClose subject cls epoch s
  | .fenceDrainEffect w => Sys2Proof.Machine.execFenceDrainEffect w s
  | .coreHang w => Sys2Proof.Machine.execCoreHang w s
  | .netNoack subject cause seq detail => Sys2Proof.Machine.execNetNoack subject cause seq detail s
  | .bankCollision w atCluster memory bank a b seq => Sys2Proof.Machine.execBankCollision w atCluster memory bank a b seq s
  | .powerSample watts => Sys2Proof.Machine.execPowerSample watts s
  | .gafferLoopTick junction hbm inlet outlet hot => Sys2Proof.Machine.execGafferLoopTick junction hbm inlet outlet hot s
  | .junctionTripLimit junction hot => Sys2Proof.Machine.execJunctionTripLimit junction hot s
  | .thermalTrip => Sys2Proof.Machine.execThermalTrip s
  | .gafCapWrite value => Sys2Proof.Machine.execGafCapWrite value s
  | .replan trials => Sys2Proof.Machine.execReplan trials s
  | .replanNow trials => Sys2Proof.Machine.execReplanNow trials s
  | .slackEmergency isl slack => Sys2Proof.Machine.execSlackEmergency isl slack s
  | .islandRetire isl => Sys2Proof.Machine.execIslandRetire isl s
  | .modEnRise => Sys2Proof.Machine.execModEnRise s
  | .modEnFall => Sys2Proof.Machine.execModEnFall s
  | .vinUndervoltage => Sys2Proof.Machine.execVinUndervoltage s
  | .vinOvervoltage => Sys2Proof.Machine.execVinOvervoltage s
  | .railFault => Sys2Proof.Machine.execRailFault s
  | .powerGoodRise => Sys2Proof.Machine.execPowerGoodRise s
  | .stageA width rate err => Sys2Proof.Machine.execStageA width rate err s
  | .stageB err => Sys2Proof.Machine.execStageB err s
  | .stageC err failed trials fails => Sys2Proof.Machine.execStageC err failed trials fails s
  | .stageD => Sys2Proof.Machine.execStageD s
  | .stageE => Sys2Proof.Machine.execStageE s
  | .perstAssert => Sys2Proof.Machine.execPerstAssert s
  | .hotReset => Sys2Proof.Machine.execHotReset s
  | .bootWarm => Sys2Proof.Machine.execBootWarm s
  | .bootCold => Sys2Proof.Machine.execBootCold s
  | .coldIntervalEnd => Sys2Proof.Machine.execColdIntervalEnd s
  | .updClear => Sys2Proof.Machine.execUpdClear s
  | .updAppend len => Sys2Proof.Machine.execUpdAppend len s
  | .updCommit => Sys2Proof.Machine.execUpdCommit s
  | .flashWriteDone err => Sys2Proof.Machine.execFlashWriteDone err s
  | .rollbackGo target => Sys2Proof.Machine.execRollbackGo target s
  | .rollbackBitBlow => Sys2Proof.Machine.execRollbackBitBlow s
  | .tokenSubmit => Sys2Proof.Machine.execTokenSubmit s
  | .debugDrop => Sys2Proof.Machine.execDebugDrop s
  | .fuseBlow => Sys2Proof.Machine.execFuseBlow s
  | .perfPeriodTick => Sys2Proof.Machine.execPerfPeriodTick s
  | .snap => Sys2Proof.Machine.execSnap s
  | .snapshotToken u => Sys2Proof.Machine.execSnapshotToken u s
  | .dumpRecordWrite time sweep => Sys2Proof.Machine.execDumpRecordWrite time sweep s
  | .tstCtlWrite k value => Sys2Proof.Machine.execTstCtlWrite k value s
  | .vinRise => Sys2Proof.Machine.execVinRise s
  | .railOffInterval => Sys2Proof.Machine.execRailOffInterval s
  | .softRepairComplete => Sys2Proof.Machine.execSoftRepairComplete s
  | .d2dLink d => Sys2Proof.Machine.execD2dLink d s
  | .tapInstruction instr => Sys2Proof.Machine.execTapInstruction instr s
  | .i3cTransaction op addr dword value => Sys2Proof.Machine.execI3cTransaction op addr dword value s
  | .cablePresence p present => Sys2Proof.Machine.execCablePresence p present s

end Sys2Proof.Machine
end

