-- ==== Sys2Proof/Safety.lean ====
section
/-! DEFINITION. The terms in which statements about the machine are put: what a well-kept state is, when a core's instruction
issues, what a completion record says. -/

namespace Sys2Proof.Machine

/-- Every byte memory of the state stands in its canonical form: host memory, SRAM and HBM. -/
def State.memOk (s : State) : Bool := s.mem.host.wf && s.mem.sram.wf && s.hbm.bytes.wf

/-- A core issues an instruction word of an opcode now, the word carrying no reserved content (R181, R268). -/
def State.issues (s : State) (w : CoreIx) (word : Dword) (op : Nat) (k : Kern) : Prop :=
  s.issuing w.val word.toNat = some k ∧ opcodeOf word.toNat = op ∧ wordBad word.toNat = false

/-- What a completion record says of a command that ends with a status and a result (R14, R15, R493, R510). -/
def CplRec.answers (r : CplRec) (seq : Word) (c : Cmd) (st : Status) (res : List Byte) : Prop :=
  r.seq = seq ∧ r.handle = c.handle seq ∧ r.queue = c.queue ∧ r.status = st.withFlags c.flags ∧ r.flags = c.flags ∧
  r.result = slice res 0 22

/-- A command has ended: one completion record more, which says so, and the command's entry gone, or kept for its record alone
(R15, R510, R515). -/
def State.ended (s t : State) (seq : Word) (c : Cmd) (st : Status) (res : List Byte) : Prop :=
  (∃ r, t.host.cpls = s.host.cpls ++ [r] ∧ r.answers seq c st res) ∧
  (t.cmd? seq = none ∨ (t.cmd? seq).map Cmd.phase = some .recorded)

/-- The fault unit without the perturbation block, whose generators every perturbed event moves (R635). -/
abbrev FaultUnit.base (f : FaultUnit) : FaultUnit := { f with tst := [] }

/-- The units no command of the host's records reaches: start and protection, the gaffer, the module and the faults. -/
def State.sameBase (s t : State) : Prop := t.boot = s.boot ∧ t.gaf = s.gaf ∧ t.mod = s.mod ∧ t.flt.base = s.flt.base

/-- Everything but the cores and the counters is the same, and every core but one. -/
def State.coreOnly (s t : State) (w : Nat) : Prop := t = { s with cores := t.cores, perf := t.perf } ∧ ∀ v, v ≠ w → t.core v = s.core v

/-- The state a vector instruction of some issue cycles meets: it is counted as issued, with its lanes outside (R290, R294). -/
def State.atVector (s : State) (w cycles : Nat) : State := (s.atIssue w).countVec w cycles

/-- One tile register of a core written lane by lane: the other registers of the core, and everything but the cores and the counters,
stay. -/
def State.tileWritten (s t : State) (w d : Nat) (v : Nat → Word) : Prop :=
  (∀ i, i < 256 → nth ((t.core w).tile d) i 0 = v i) ∧ (∀ e, e ≠ d → (t.core w).tile e = (s.core w).tile e) ∧
  (t.core w).preds = (s.core w).preds ∧ (t.core w).xs = (s.core w).xs ∧ s.coreOnly t w

/-- An instruction of a kernel ends its command, no array instruction being queued before it: one completion record more, with that
status, these reports told and no other, and the command's entry gone, or kept for its record alone (R268, R510, R515). -/
def State.endsBy (s : State) (i : Instr) (w : CoreIx) (k : Kern) (st : Status) (told : List Report) : Prop :=
  (s.core w.val).queue = [] → ∃ t r, exec i s = .next t ∧ t.host.cpls = s.host.cpls ++ [r] ∧ r.seq = k.seq ∧ r.status = st ∧
    t.flt.inFlight = s.flt.inFlight ++ told ∧ (t.cmd? k.seq = none ∨ (t.cmd? k.seq).map Cmd.phase = some .recorded)

/-- A command has nothing under way that its end would give up: no chunk, no take it steps, no descriptor, no write to a peer. -/
def State.atRest (s : State) (seq : Word) (c : Cmd) : Prop :=
  (∀ h, h ∈ s.reels.chunks → h.seq ≠ seq) ∧ c.takes = [] ∧ s.writesOut seq = false ∧
  ∀ p, p ∈ s.dma.engs → ∀ q, q ∈ p.2.chans → ∀ d, d ∈ q.2.queue → d.seq ≠ seq

/-- A range lies in the window of host memory. -/
def inHost (va n : Nat) : Prop := va / 2 ^ 52 = 0x10 ∧ va % 2 ^ 52 + n ≤ 2 ^ 52

/-- Nothing holds a stage of a command: no prefetch entry, no frame gated, no boundary it waits at, every bank awake (R380, R387). -/
def State.stageFree (s : State) (seq : Word) (c : Cmd) : Prop :=
  s.prefetchOf c = [] ∧ c.prefs = [] ∧ c.gated = [] ∧ s.atBoundary seq = false ∧ s.mem.retained = []

/-- The piece record of a command's i-th piece, where its entry has a shape table, lies in host memory (R316). -/
def State.recordHost (s : State) (c : Cmd) (i : Nat) : Prop :=
  ∀ tb, s.shapeOf c = some tb → inHost (c.params + tb.pieceAt + 64 * (i % 2)) 64

/-- A call that waits for nothing but a placement: its stages free, no list in its parameter block, one slice of layer 0 alone, no kernel
of its command placed, no boundary waiting, no chunk held. -/
def State.plainCall (s : State) (seq : Word) (c : Cmd) : Prop :=
  s.stageFree seq c ∧ s.recordHost c 0 ∧ s.sliceLayers c = [0] ∧ s.kv.waits = [] ∧ s.reels.chunks = [] ∧
  (∀ e, e ∈ s.kernelsOf c → e.pSample = noOff ∧ e.pBatch = noOff ∧ e.pChunk = noOff) ∧ (∀ k, k ∈ s.sched.kerns → k.seq ≠ seq)

/-- A command begun: it runs with its pieces, its first kernel running on the cores of a placement, each core given to it and no other
core changed; memory and the completion records stay (R331, R333). -/
def State.begins (s t : State) (seq : Word) (c : Cmd) (pieces : List Piece) (p : Spot) : Prop :=
  (t.cmd? seq).map (fun d => (d.phase, d.pieces, d.started)) = some (.running, pieces, some s.nowUs) ∧
  (t.kern? seq 0).map (fun k => (k.phase, k.cls, k.cores)) = some (.running, c.cls, (s.spotPairs p).map Prod.snd) ∧
  (∀ q, q ∈ s.spotPairs p → (t.core q.2).owner = some (seq, 0)) ∧ (∀ w, w ∉ (s.spotPairs p).map Prod.snd → t.core w = s.core w) ∧
  t.mem.sram = s.mem.sram ∧ t.hbm = s.hbm ∧ t.host = s.host ∧ t.progs = s.progs

/-- The newest violation logged: its kind, where, its address (R519). -/
def State.logged (s : State) (kind where_ addr : Nat) (t : State) : Prop :=
  t.host.violCnt = s.host.violCnt + 1 ∧ t.host.violHead = s.host.violHead + 1 ∧
  Tab.at t.host.violLog s.host.violHead.toNat {} =
    { kind := BitVec.ofNat 8 kind, where_ := BitVec.ofNat 16 where_, epoch := s.perf.epoch, addr := BitVec.ofNat 64 addr }

/-- A write that completes a record: the whole of an empty slot's record, or the bytes a filling one still lacks (R489). -/
def State.completesRecord (s : State) (slot lo : Nat) (data rec : List Byte) : Prop :=
  ((s.slot slot = .empty ∨ ∃ w, s.slot slot = .receipt w) ∧ lo = 0 ∧ data.length = 64 ∧ rec = data) ∨
  (∃ mask old p, s.slot slot = .filling mask old p ∧ mask ||| runMask lo data.length = BitVec.allOnes 64 ∧ rec = overlay old lo data)

/-- A frame of a type received on a port is taken by the device: the port is UP, none of the reasons of R548 holds, and the frame is
for this device or names none (R526, R548). -/
def State.hears (s : State) (p type : Nat) (h : FrameHdr) : Prop :=
  (s.port p).state = .up ∧ s.frameFault p type h = none ∧ (byId type = false ∨ s.fab.assigned = false ∨ h.dst = s.fab.id)

/-- A frame is on its way out of a port: it has left, or waits in the queue of its VC (R528). -/
def State.onWay (t : State) (q : Nat) (f : Frame) : Prop := f.out q ∈ t.out ∨ f ∈ nth (t.port q).txq f.vc []

/-- A frame of this device and the present epoch to a device of the fabric leaves by a port (R536). -/
def State.leads (s : State) (dst flow q : Nat) : Prop :=
  ((s.fab.tableFor s.fab.parity).route s.fab.id.toNat dst).pick s.fab.id.toNat dst flow = some q ∧ (s.port q).txq.length = 3

end Sys2Proof.Machine
end

