-- ==== Sys2Proof/Certificates/Slice0/Obligations.lean ====
section
/-! DEFINITION. What is claimed of the machine. -/

open Sys2Proof Sys2Proof.Machine

/-! ### The machine -/

/-- The command at the front of the queue runs on the state with the queue's rest. -/
def Obligations.StepTakesFront : Prop :=
  ∀ (c : Instr) (rest : List Instr) (s : State), s.pending = c :: rest → step s = exec c (s.withPending rest)

/-- With no command waiting a step lets one µs of the model's clock pass and changes nothing else: the model's own choice (log
entries 1 and 2). -/
def Obligations.EmptyQueueIdles : Prop :=
  ∀ s : State, s.pending = [] → step s = .next { s with nowUs := s.nowUs + 1 }

/-- Right after power-on: nothing waits, no command is accepted, no program loaded; no stage has begun; the registers whose
value the register tables give read it (R360, R392, R414, R520, R550, R579, R598, R617, R639). -/
def Obligations.ResetValues : Prop :=
  State.reset.pending = [] ∧ State.reset.cmds = [] ∧ (∀ i, State.reset.progOf i = none) ∧ State.reset.boot.stage = 0 ∧
  (∀ i, State.reset.slate i = 0) ∧ (∀ q, (State.reset.queue q).enable = false ∧ (State.reset.queue q).prod = 0) ∧
  State.reset.sched.regs.waitLimit = 0x0186A0 ∧ State.reset.sched.regs.quantum = 0x02710 ∧ State.reset.sched.regs.holdLimit = 0x000C8 ∧
  State.reset.gaf.la = 8 ∧ State.reset.gaf.lv = 8 ∧ State.reset.gaf.lh = 4 ∧ State.reset.gaf.cap = 0x708

/-- Every byte memory is in canonical form at power-on. -/
def Obligations.ResetMemOk : Prop :=
  State.reset.memOk = true

/-- Every step keeps every byte memory in canonical form, in every state. -/
def Obligations.StepKeepsMemOk : Prop :=
  ∀ s t : State, s.memOk = true → step s = .next t → t.memOk = true

/-- No command changes the queue of waiting commands. -/
def Obligations.ExecKeepsQueue : Prop :=
  ∀ (c : Instr) (s t : State), exec c s = .next t → t.pending = s.pending

/-- Only an access of CXL.mem at or beyond the capacity faults, and only an instruction of an open debug port other than those
the manual describes is refused; every other command of every state ends in a next state. -/
def Obligations.OnlyTheseStop : Prop :=
  ∀ (c : Instr) (s : State),
    (∀ f, exec c s = .fault f → ∃ line : BitVec 34, s.hbmBytes ≤ 64 * line.toNat ∧
      (c = .cxlMemRead line ∨ ∃ d p, c = .cxlMemWrite line d p)) ∧
    (∀ r, exec c s = .refused r → r = .debugPort ∧ s.granted 0 = true ∧ ∃ op, op ≠ 0 ∧ op ≠ 1 ∧ c = .tapInstruction op)

/-! ### Queries and programs (R508, R509, R35, R92, R136, R500 to R507) -/

/-- A QUERY whose turn has come, whose identifier is live, whose destination takes the write and whose length suffices writes
the report and completes with OK and the report's bytes (R508); nothing of the base units, programs and slates changes. A QUERY
of a stale take, reel or sequence identifier completes with ZERO_EXTENT (R508). -/
def Obligations.QueriesAnswer : Prop :=
  (∀ (seq : Word) (s s' : State) (c : Cmd) (i : Nat) (r : List Byte), s.turnOf seq 0x51 = some c →
      s.firstOwnBad seq [⟨c.fieldN 32 8, r.length, true, 64⟩] = none → r.length ≤ c.fieldN 40 4 →
      s.writeVA (accOf seq) (c.fieldN 32 8) r false = some s' → s'.writesOut seq = false →
      let done := fun (i : Instr) => ∃ t, exec i s = .next t ∧
        t = (s'.noteUse (c.fieldN 32 8) r.length).finish seq .ok (resultOf [(4, r.length)]) ∧
        s.ended t seq c .ok (resultOf [(4, r.length)]) ∧ s.sameBase t ∧ t.progs = s.progs ∧ t.sched.slates = s.sched.slates
      (c.fieldN 24 1 = 0 → r = s.deviceReport → done (.queryDevice seq)) ∧
      (c.fieldN 24 1 = 1 → s.takeOf (c.fieldN 28 4) = some i → r = (s.take i).report → done (.queryTake seq)) ∧
      (c.fieldN 24 1 = 2 → s.reelOf (c.fieldN 28 4) = some i → r = (s.reel i).report → done (.queryReel seq)) ∧
      (c.fieldN 24 1 = 3 → s.seqOf (c.fieldN 28 4) = some i → r = (s.seqEnt i).report → done (.querySequence seq))) ∧
  (∀ (seq : Word) (s : State) (c : Cmd), s.turnOf seq 0x51 = some c →
      let done := fun (i : Instr) => ∃ t, exec i s = .next t ∧ s.ended t seq c .zeroExtent [] ∧ s.sameBase t
      (c.fieldN 24 1 = 1 → s.takeOf (c.fieldN 28 4) = none → done (.queryTake seq)) ∧
      (c.fieldN 24 1 = 2 → s.reelOf (c.fieldN 28 4) = none → done (.queryReel seq)) ∧
      (c.fieldN 24 1 = 3 → s.seqOf (c.fieldN 28 4) = none → done (.querySequence seq)))

/-- LOAD_PROGRAM of a readable container that passes every check, with a free program entry and pages for its windows, enters
the program in the lowest free entry and completes with OK, its identifier, its HBM bytes and its slate count (R501, R506). -/
def Obligations.LoadProgramEnters : Prop :=
  ∀ (seq : Word) (s s1 : State) (c : Cmd) (bs : List Byte) (k : Container) (i : Nat), s.turnOf seq 0x01 = some c → c.isUnload = false →
    let src := c.fieldN 24 8
    let len := c.fieldN 32 8
    len ≠ 0 → s.firstOwnBad seq [⟨src, len, false, 64⟩] = none → s.peerReady (accOf seq) src len = true →
    s.readVA (accOf seq) src len = .ok bs → parseContainer bs = some k → k.shapesOk = true → k.proxiesOk = true →
    let s0 := (s.touchVA (accOf seq) src len).usePeers (accOf seq) src len
    s.freeProg = some i → s0.placeRuns c.cls (programWindow i) k.windowRuns = some s1 →
    let n := (k.windowRuns.map (fun r => runPages r.2 * 65536)).foldl (fun a b => a + b) 0
    let p : ProgSlot := { s.prog i with prog := some (k.program (programWindow i) n) }
    ∃ t, exec (.loadProgram seq) s = .next t ∧
      t = ({ s1 with progs := Tab.put s1.progs i p } : State).finish seq .ok
        (resultOf [(4, progId i p.gen), (8, n), (4, recField k.attrs.body 0 4)]) ∧
      t.progs = Tab.put s1.progs i p

/-- UNLOAD frees the entry, raises its generation and completes with OK, the identifier and the bytes released (R501, R507).
LOAD_PROGRAM with a length of 0 completes with ZERO_EXTENT (R506); so does UNLOAD of an identifier that names no program (R507).
-/
def Obligations.UnloadReleases : Prop :=
  (∀ (seq : Word) (s : State) (c : Cmd) (p : Program), s.turnOf seq 0x01 = some c → c.isUnload = true → s.progOf c.programRef = some p →
      let i := c.programRef % 256
      ∃ t, exec (.unload seq) s = .next t ∧ s.ended t seq c .ok (resultOf [(4, c.programRef), (8, p.bytes)]) ∧
        (t.prog i).prog = none ∧ (t.prog i).gen = (s.prog i).gen + 1 ∧ (∀ j, j ≠ i → t.prog j = s.prog j) ∧ t.progOf c.programRef = none) ∧
  (∀ (seq : Word) (s : State) (c : Cmd), s.turnOf seq 0x01 = some c →
      (c.isUnload = false → c.fieldN 32 8 = 0 → ∃ t, exec (.loadProgram seq) s = .next t ∧ s.ended t seq c .zeroExtent [] ∧ t.progs = s.progs) ∧
      (c.isUnload = true → s.progOf c.programRef = none →
        ∃ t, exec (.unload seq) s = .next t ∧ s.ended t seq c .zeroExtent [] ∧ t.progs = s.progs))

/-! ### Intake, completion and the host's edge (R482 to R520) -/

/-- A write that completes a record which nothing rejects: the record is accepted with the next sequence number and the slot
holds its handle (R489, R491, R493); no other slot, command or count changes. -/
def Obligations.IntakeAccepts : Prop :=
  ∀ (off : BitVec 20) (data rec : List Byte) (s : State),
    let slot := off.toNat / 256
    let lo := off.toNat % 256
    data ≠ [] → lo + data.length ≤ 64 → s.completesRecord slot lo data rec → s.rejectReason rec false = none →
    let seq := s.host.nextSeq
    let c : Cmd := { gen := s.host.gen, slot := slot, record := rec }
    let c' : Cmd := { c with readyAt := if s.readyNow c then some s.nowUs else none }
    ∃ t, exec (.intakeWrite off data false) s = .next t ∧ t.cmd? seq = some c' ∧ t.slot slot = .receipt (c.handle seq) ∧
      t.host.nextSeq = seq + 1 ∧ t.host.accepted = s.host.accepted + 1 ∧ t.host.rejected = s.host.rejected ∧
      (∀ q, q ≠ seq → t.cmd? q = s.cmd? q) ∧ (∀ j, j ≠ slot → t.slot j = s.slot j) ∧ t = { s with host := t.host, cmds := t.cmds }

/-- A write that completes a record which R494 rejects leaves the rejection's receipt, counts it and logs the violation; nothing
is accepted and no sequence number is used. A write that leaves the record bytes of its slot is dropped whole: across slots it
is violation 7, past the record violation 5 (R488, R518). -/
def Obligations.IntakeRejects : Prop :=
  (∀ (off : BitVec 20) (data rec : List Byte) (s : State) (reason : Nat) (st : Status),
      let slot := off.toNat / 256
      let lo := off.toNat % 256
      data ≠ [] → lo + data.length ≤ 64 → s.completesRecord slot lo data rec → s.rejectReason rec false = some (reason, st) →
      ∃ t, exec (.intakeWrite off data false) s = .next t ∧ t.slot slot = .receipt (rejectWord slot reason st) ∧
        t.host.rejected = s.host.rejected + 1 ∧ t.host.nextSeq = s.host.nextSeq ∧ s.logged (0x80 + reason) slot (slot * 256) t ∧
        (∀ j, j ≠ slot → t.slot j = s.slot j) ∧ t = { s with host := t.host }) ∧
  (∀ (off : BitVec 20) (data : List Byte) (poisoned : Bool) (s : State), data ≠ [] →
      let slot := off.toNat / 256
      let last := off.toNat + data.length - 1
      (last / 256 ≠ slot → exec (.intakeWrite off data poisoned) s = .next (s.violation 7 slot off.toNat)) ∧
      (last / 256 = slot → 64 < off.toNat % 256 + data.length → exec (.intakeWrite off data poisoned) s = .next (s.violation 5 slot off.toNat)))

/-- An aligned read of a slot's receipt word returns its receipt, or all ones while it has none; of a filling slot it discards
the record as PARTIAL and returns that rejection, as PARTIAL_TIMEOUT does without a read (R489, R490, R495). -/
def Obligations.ReceiptsRead : Prop :=
  ∀ (n : IntakeIx) (s : State),
    let off := BitVec.ofNat 20 (256 * n.val + 64)
    (∀ w, s.slot n.val = .receipt w → exec (.receiptRead off 8) s = .next (s.send (.read (leBytes 8 w.toNat) false))) ∧
    (s.slot n.val = .empty → exec (.receiptRead off 8) s = .next (s.send (.read (List.replicate 8 0xFF) false))) ∧
    (∀ m d p, s.slot n.val = .filling m d p →
      exec (.receiptRead off 8) s =
        .next ((s.reject n.val 0x01 .shapeOver).send (.read (leBytes 8 (rejectWord n.val 0x01 .shapeOver).toNat) false)) ∧
      ∃ t, exec (.partialTimeout n) s = .next t ∧ t = s.reject n.val 0x01 .shapeOver ∧
        t.slot n.val = .receipt (rejectWord n.val 0x01 .shapeOver) ∧ t.host.rejected = s.host.rejected + 1)

/-- A completion record becomes visible: its 32 bytes are stored at its place in the ring, PROD moves on, the phase turns over
with the ring, and its signal slate counts (R21, R513). A record whose write fails disables its queue, sets WFAIL and logs
violation 17; the queue's records are held (R514, R518). -/
def Obligations.RecordBecomesVisible : Prop :=
  (∀ (q : QueueIx) (s s' : State) (r : CplRec) (rest : List CplRec),
      let v := s.queue q.val
      pullFirst (fun r => r.queue == q.val && r.place == .writing) s.host.cpls = some (r, rest) → v.enable = true →
      s.writeVA {} (v.base.toNat + 32 * (v.prod.toNat % v.size)) (r.bytes v.phase) false = some s' →
      ∃ t, exec (.completionRecordVisible q true) s = .next t ∧ t.host.cpls = rest ∧ (t.queue q.val).prod = v.prod + 1 ∧
        (t.queue q.val).phase = (if (v.prod + 1).toNat % v.size = 0 then !v.phase else v.phase) ∧
        t.hbm = s'.hbm ∧ t.mem.host = s'.mem.host ∧
        (∀ j, t.slate j = if r.signal = some j then s.slate j + 1 else s.slate j)) ∧
  (∀ (q : QueueIx) (s : State) (p : CplRec × List CplRec),
      let v := s.queue q.val
      pullFirst (fun r => r.queue == q.val && r.place == .writing) s.host.cpls = some p → v.enable = true →
      ∃ t, exec (.completionRecordVisible q false) s = .next t ∧ (t.queue q.val).enable = false ∧ (t.queue q.val).wfail = true ∧
        (t.queue q.val).prod = v.prod ∧ s.logged 17 q.val (v.base.toNat + 32 * (v.prod.toNat % v.size)) t ∧
        recsIn t.host.cpls q.val .writing = [] ∧ t = { s with host := t.host })

/-- HIF_CQ_CONS (R514, R516): a consumer index that passes PROD or lies more than a ring behind it is ignored with BAD_CONS and
violation 14; another one stands. HIF_CQ_CTL: ENABLE, VECTOR, IRQ_ALL and HOLDOFF_US as written, LOG2 only while ENABLE is 0.
Interrupts (R517): the end of a holdoff sends the one interrupt owed and begins the next holdoff, or leaves the queue quiet no
more; unmasking a vector sends the interrupt its pending bit holds. -/
def Obligations.QueueRegistersWrite : Prop :=
  (∀ (q : QueueIx) (value : Word) (s : State), s.barTakes .fromB = true →
      let v := s.queue q.val
      let n := value.setWidth 16
      (v.size < (v.prod - n).toNat → ∃ t, exec (.hifCqConsWrite q value) s = .next t ∧ (t.queue q.val).badCons = true ∧
        (t.queue q.val).cons = v.cons ∧ s.logged 14 q.val (0x1010 + 0x20 * q.val) t) ∧
      ((v.prod - n).toNat ≤ v.size → ∃ t, exec (.hifCqConsWrite q value) s = .next t ∧ (t.queue q.val).cons = n ∧
        (t.queue q.val).prod = v.prod ∧ t.host.violCnt = s.host.violCnt) ∧
      (∃ t, exec (.hifCqCtlWrite q value) s = .next t ∧ (t.queue q.val).enable = value.toNat.testBit 4 ∧
        (t.queue q.val).vector.toNat = fld value.toNat 5 6 ∧ (t.queue q.val).irqAll = value.toNat.testBit 11 ∧
        (t.queue q.val).holdoff.toNat = fld value.toNat 16 16 ∧
        (t.queue q.val).log2.toNat = if v.enable then v.log2.toNat else fld value.toNat 0 4)) ∧
  ((∀ (q : QueueIx) (s : State),
      let v := s.queue q.val
      let e := Tab.at s.host.msix v.vector.toNat {}
      v.quiet = true →
      (v.owed = true → ∃ t, exec (.msixHoldoffExpiry q) s = .next t ∧ (t.queue q.val).owed = false ∧ (t.queue q.val).quiet = (v.holdoff != 0) ∧
        (e.ctl.toNat.testBit 0 = false → t.out = s.out ++ [.msix e.addr e.data]) ∧
        (e.ctl.toNat.testBit 0 = true → t.out = s.out ∧ t.host.pba.toNat.testBit v.vector.toNat = true)) ∧
      (v.owed = false → ∃ t, exec (.msixHoldoffExpiry q) s = .next t ∧ (t.queue q.val).quiet = false ∧ t.out = s.out)) ∧
    (∀ (v : QueueIx) (ctl : Word) (s : State), s.barTakes .fromB = true →
      let e := Tab.at s.host.msix v.val {}
      ∃ t, exec (.msixVectorUnmask v ctl) s = .next t ∧ (Tab.at t.host.msix v.val {}).ctl = ctl &&& 1 ∧
        (ctl.toNat.testBit 0 = false ∧ s.host.pba.toNat.testBit v.val = true →
          t.out = s.out ++ [.msix e.addr e.data] ∧ t.host.pba.toNat.testBit v.val = false)))

/-- CXL.mem below the capacity, outside the stores and the program windows, with HBM trained: a line written stands in HBM and
reads back, and no other byte changes (R484); a line read is what HBM holds. A CXL.mem write into a protected region is dropped
and logged as violation 11; either access is refused with violation 15 while the fuses ask for IDE and its streams do not stand
(R483, R518); a line at or beyond the capacity stops the model, as no decoder maps it. Configuration requests get retry status
until configuration space is ready, and then register 0 reads the Device ID 0x8576 over the Vendor ID (R486, R556); a malformed
request is reported through AER and logged, an unsupported one gets an Unsupported Request completion and is logged (R518). -/
def Obligations.CxlMemReachesHbm : Prop :=
  (∀ (line : BitVec 34) (data : BitVec 512) (s : State),
      let pa := 64 * line.toNat
      s.memOk = true → s.mod.good = true → pa < s.hbmBytes → s.ideHolds = false → s.hbm.trained = true →
      (s.guarded pa = false → migOf s.mem.migs 0 pa = none → (s.chan (hbmChannel s.hbm.out pa).1).failed = false →
        ∃ t, exec (.cxlMemWrite line data false) s = .next t ∧ t.hbm.bytes.readN pa 64 = leBytes 64 data.toNat ∧
          (∀ a, a < pa ∨ pa + 64 ≤ a → t.hbm.bytes.read a = s.hbm.bytes.read a) ∧ t.out = s.out ++ [.complete false]) ∧
      (s.storeEnd ≤ pa → ∃ t, exec (.cxlMemRead line) s = .next t ∧
        t.out = s.out ++ [.read (s.hbm.bytes.readN pa 64) (s.hbmRead pa 64).2.isSome] ∧ t.hbm.bytes = s.hbm.bytes)) ∧
  (∀ (line : BitVec 34) (data : BitVec 512) (poisoned : Bool) (s : State),
      let pa := 64 * line.toNat
      s.mod.good = true →
      (s.hbmBytes ≤ pa → exec (.cxlMemWrite line data poisoned) s = .fault .noSuchAddress ∧ exec (.cxlMemRead line) s = .fault .noSuchAddress) ∧
      (pa < s.hbmBytes → s.ideHolds = true →
        (∃ t, exec (.cxlMemWrite line data poisoned) s = .next t ∧ s.logged 15 0xFF pa t ∧ t.hbm = s.hbm) ∧
        ∃ t, exec (.cxlMemRead line) s = .next t ∧ s.logged 15 0xFF pa t ∧ t.hbm = s.hbm) ∧
      (pa < s.hbmBytes → s.ideHolds = false → s.hbm.trained = true → s.guarded pa = true →
        ∃ t, exec (.cxlMemWrite line data poisoned) s = .next t ∧ s.logged 11 0xFF pa t ∧ t.hbm = s.hbm)) ∧
  (∀ (reg : BitVec 10) (write : Bool) (addr : Dword) (s : State), s.mod.good = true →
      (s.host.cfgReady = false → exec (.configRequest reg write) s = .next (s.send .cfgRetry)) ∧
      (s.host.cfgReady = true →
        exec (.configRequest 0 false) s = .next (s.send (.read (leBytes 2 Config.vendorId.toNat ++ [0x76, 0x85]) false)) ∧
        exec (.configRequest reg true) s = .next (s.send (.complete false)) ∧
        ∃ t, exec (.configRequest reg write) s = .next t ∧ t.out.length = s.out.length + 1) ∧
      (∃ t, exec .malformedTlp s = .next t ∧ t.host.aer.malformed = true ∧ s.logged 1 0xFF 0 t) ∧
      (∃ t, exec (.unsupportedRequest addr) s = .next t ∧ t.out = s.out ++ [.complete true] ∧ s.logged 2 0xFF addr.toNat t))

/-- A host write of a register takes effect as its access code says when its block serves (R18, R555): here the slate wait
limit, the scrub hours, the fabric timeout, the extended result base's low dword, the fault interrupt, a fenced core's error
count and the retention time; a write of no register is violation 5, one that IDE holds back violation 15, a poisoned one
violation 3 (R518). -/
def Obligations.RegistersWrite : Prop :=
  ∀ (dword : BitVec 24) (v : Word) (s : State), s.mod.good = true →
    let off := 4 * dword.toNat
    let w := exec (.registerWrite dword v false) s
    (s.ideHolds = false →
      (off = 0x100000 → s.serves .endC = true → ∃ t, w = .next t ∧ t.sched.regs.waitLimit.toNat = v.toNat % 2 ^ 24 ∧
        t = { s with sched := { s.sched with regs := t.sched.regs } }) ∧
      (off = 0x90040 → s.serves .endC = true → ∃ t, w = .next t ∧ t.hbm.scrubHours.toNat = v.toNat % 2 ^ 8 ∧
        t = { s with hbm := { s.hbm with scrubHours := t.hbm.scrubHours } }) ∧
      (off = 0x20003C → s.serves .fromD = true → ∃ t, w = .next t ∧ t.fab.timeout.toNat = v.toNat % 2 ^ 16 ∧
        t = { s with fab := { s.fab with timeout := t.fab.timeout } }) ∧
      (off = 0x10 → s.serves .fromB = true → ∃ t, w = .next t ∧
        t.host.xresBase.toNat = s.host.xresBase.toNat / 2 ^ 32 * 2 ^ 32 % 2 ^ 57 + v.toNat ∧
        t = { s with host := { s.host with xresBase := t.host.xresBase } }) ∧
      (off = 0x60004 → s.serves .fromA = true → ∃ t, w = .next t ∧ t.flt.irq = v.toNat.testBit 0 ∧ t.flt.vector.toNat = v.toNat / 2 % 64 ∧
        t = { s with flt := { s.flt with irq := t.flt.irq, vector := t.flt.vector } }) ∧
      (∀ n, n < 544 → off = 0x1000000 + 0x10000 * n + 0xC → s.serves .endC = true →
        ∃ t, w = .next t ∧ (Tab.at t.flt.ecc n 0).toNat = v.toNat % 2 ^ 16 ∧ t = { s with flt := { s.flt with ecc := t.flt.ecc } }) ∧
      (off = 0x80050 → s.serves .endC = true → v.toNat.testBit 16 = false → ∃ t, w = .next t ∧ t.mem.regs.idleUs.toNat = v.toNat % 2 ^ 16 ∧
        t.mem.regs.forceWake = false ∧ t = { s with mem := { s.mem with regs := t.mem.regs } }) ∧
      (regExists (blockIx off) (off - blockBase (blockIx off)) = false → ∃ t, w = .next t ∧ s.logged 5 (blockIx off) off t ∧
        t = { s with host := t.host })) ∧
    (s.ideHolds = true → ∃ t, w = .next t ∧ s.logged 15 (blockIx off) off t ∧ t = { s with host := t.host }) ∧
    (∃ t, exec (.registerWrite dword v true) s = .next t ∧ t.host.aer.poisoned = true ∧ s.logged 3 (blockIx off) off t ∧
      t = { s with host := t.host })

/-! ### Start, protection and the module (R552 to R579, R643 to R660) -/

/-- SPDM (R572): once FW1 is loaded the responder answers each request the requester has come far enough to make, and only the
protocol's own state and the response sent change (the order of the requests is the family's, log entry 52). IDE_KM in an open
session (R483, R577): keys are programmed for a stream, a stream whose keys are programmed comes up, and IDE_UP reads 1 exactly
when both streams are up. -/
def Obligations.SpdmAnswers : Prop :=
  (∀ (s : State), s.mod.good = true → s.boot.fw1.isSome = true →
      let p := s.boot.spdm
      let answers := fun (i : Instr) (code : String) (body : List Byte) (q : Spdm) =>
        exec i s = .next { s with boot := { s.boot with spdm := q }, out := s.out ++ [.spdm ⟨code, body⟩] }
      answers .getVersion "VERSION" [0x14] { p with version := true, caps := false, algs := false, keyEx := false } ∧
      (p.version = true → answers .getCapabilities "CAPABILITIES" [] { p with caps := true }) ∧
      (p.caps = true → answers (.negotiateAlgorithms true) "ALGORITHMS" [] { p with algs := true }) ∧
      (p.algs = true →
        answers .getDigests "DIGESTS" (sha3_256 (s.chain false) ++ sha3_256 (s.chain true)) p ∧
        (∀ slot1 off len, answers (.getCertificate slot1 off len) "CERTIFICATE" (((s.chain slot1).drop off.toNat).take len.toNat) p) ∧
        (∀ nonce, answers (.challenge nonce) "CHALLENGE_AUTH" (signature s.aliasSeed (leBytes 32 nonce.toNat)) p) ∧
        (∀ (index : Byte) nonce,
          let b := (if index = 0xFF then (List.range 8).filterMap s.measurement else (s.measurement index.toNat).toList).flatten
          answers (.getMeasurements index true nonce) "MEASUREMENTS" (b ++ signature s.aliasSeed (leBytes 32 nonce.toNat ++ b)) p ∧
          answers (.getMeasurements index false nonce) "MEASUREMENTS" b p) ∧
        (∀ share, ∃ t, exec (.keyExchange share) s = .next t ∧ t.boot.spdm = { p with keyEx := true } ∧
          t.boot.entropyCtr = s.boot.entropyCtr + 1 ∧ t.out.length = s.out.length + 1)) ∧
      (p.keyEx = true → answers (.finish true) "FINISH_RSP" [] { p with keyEx := false, session := true }) ∧
      (p.session = true → answers .endSession "END_SESSION_ACK" [] { p with session := false })) ∧
  (∀ (mem : Bool) (s : State), s.mod.good = true → s.boot.fw1.isSome = true → s.boot.spdm.session = true →
      let m : BitVec 2 := if mem then 2 else 1
      let p := s.boot.spdm
      (∃ t, exec (.ideKm 0 mem) s = .next t ∧ t.boot.spdm = { p with ideKeys := p.ideKeys ||| m } ∧ t.host.ideUp = (p.ideGo == 3)) ∧
      (∃ t, exec (.ideKm 1 mem) s = .next t ∧ t.boot.spdm = { p with ideGo := p.ideGo ||| (m &&& p.ideKeys) } ∧
        (t.host.ideUp = true ↔ p.ideGo ||| (m &&& p.ideKeys) = 3)) ∧
      (∃ t, exec (.ideKm 2 mem) s = .next t ∧ t.host.ideUp = false ∧ t.boot.spdm.ideKeys = p.ideKeys &&& ~~~m))

/-- A debug token (R576, R577, R579): SUBMIT answers in RESULT; a token that passes adds its grants, and grants of JTAG or
Pronath end every session and erase the IDE keys; one that fails grants nothing. DROP takes every grant away. The debug port and
the sideband (R574, R575): the TAP answers IDCODE always and holds BYPASS while no grant opens it; an instruction that the
manual does not describe stops the model when it is open. An open sideband takes its dynamic address and reads and writes
registers; a closed one answers nothing. -/
def Obligations.DebugTokens : Prop :=
  (∀ (s : State), s.barTakes .fromA = true →
      let img := s.boot.tokenWin.readN 0 5440
      let r := s.tokenResult img
      let g := BitVec.ofNat 5 (recField (imagePayload img) 32 1)
      (r = 0 → ∃ t, exec .tokenSubmit s = .next t ∧ t.boot.dbgResult = 0 ∧ t.boot.grants = s.boot.grants ||| g ∧
        (g.toNat.testBit 0 ∨ g.toNat.testBit 4 → t.boot.spdm.session = false ∧ t.boot.spdm.ideKeys = 0 ∧ t.host.ideUp = false)) ∧
      (r ≠ 0 → ∃ t, exec .tokenSubmit s = .next t ∧ t.boot.dbgResult.toNat = r % 16 ∧ t.boot.grants = s.boot.grants ∧
        t.boot.spdm = s.boot.spdm) ∧
      (∃ t, exec .debugDrop s = .next t ∧ t.boot.grants = 0 ∧ t.host = s.host)) ∧
  (∀ (instr : BitVec 2) (op : BitVec 2) (addr : Byte) (dword : BitVec 24) (v : Word) (s : State), s.mod.good = true →
      exec (.tapInstruction 1) s = .next (s.send (.tap Config.idcode)) ∧
      exec (.tapInstruction 0) s = .next (s.send (.tap 0)) ∧
      (s.granted 0 = false → instr ≠ 1 → exec (.tapInstruction instr) s = .next (s.send (.tap 0))) ∧
      (s.granted 0 = true → instr ≠ 0 → instr ≠ 1 → exec (.tapInstruction instr) s = .refused .debugPort) ∧
      (s.granted 1 = false → exec (.i3cTransaction op addr dword v) s = .next s) ∧
      (s.granted 1 = true → ∃ t, exec (.i3cTransaction 0 addr dword v) s = .next t ∧ t.mod.i3cAddr = some addr) ∧
      (s.granted 1 = true → s.mod.i3cAddr = some addr →
        (∃ t, exec (.i3cTransaction 1 addr dword v) s = .next t ∧
          t.out = (s.barRead (4 * dword.toNat)).2.out ++ [.i3c true (BitVec.ofNat 32 (s.barRead (4 * dword.toNat)).1)]) ∧
        exec (.i3cTransaction 2 addr dword v) s = .next ((s.barWrite (4 * dword.toNat) v.toNat).send (.i3c true 0))))

/-- Updates (R569, R570): CLEAR empties the staging area, APPEND adds LEN bytes of the window to it or answers 2 where it is
full, COMMIT queues a call sheet that passes every check as a flash write and is BUSY until that ends; while BUSY nothing
begins. The flash write at the head ends (R570, R657): written or, after an error, lost; for a call sheet BUSY falls and RESULT
reads 0 or 4; a warm reset that waited for it runs. -/
def Obligations.UpdatesStage : Prop :=
  (∀ (len : Half) (s : State), s.barTakes .fromA = true →
      (s.boot.updBusy = false →
        (∃ t, exec .updClear s = .next t ∧ t.boot.staged = [] ∧ t.boot.updResult = 0 ∧ t.boot.flash = s.boot.flash) ∧
        (len.toNat ≤ 32768 → s.boot.staged.length + len.toNat ≤ 16777216 → ∃ t, exec (.updAppend len) s = .next t ∧
          t.boot.staged = s.boot.staged ++ s.boot.win.readN 0 len.toNat ∧ t.boot.updResult = 0) ∧
        (len.toNat ≤ 32768 → 16777216 < s.boot.staged.length + len.toNat → ∃ t, exec (.updAppend len) s = .next t ∧
          t.boot.staged = s.boot.staged ∧ t.boot.updResult = 2) ∧
        (let img := s.boot.staged
         imageKind img = 3 → s.boot.fuses.checkImage 3 img = 0 → img.length = imageHead + imageLength img → s.boot.recovery = false →
           ∃ t, exec .updCommit s = .next t ∧ t.boot.updBusy = true ∧ t.boot.jobs = s.boot.jobs ++ [⟨.sheet, sheetAt, img⟩] ∧
             t.boot.flash = s.boot.flash)) ∧
      (s.boot.updBusy = true → ∃ t, exec .updCommit s = .next t ∧ t.boot.staged = s.boot.staged ∧ t.boot.jobs = s.boot.jobs ∧
        t.boot.updResult = s.boot.updResult)) ∧
  (∀ (j : FlashJob) (rest : List FlashJob) (err : Bool) (s : State), s.boot.jobs = j :: rest → s.boot.warmWaits = false →
      ∃ t, exec (.flashWriteDone err) s = .next t ∧ t.boot.jobs = rest ∧
        t.boot.flash = (if err then j.lost s.boot.flash else j.run s.boot.flash) ∧
        (j.kind = .sheet → t.boot.updBusy = false ∧ t.boot.updResult = if err then 4 else 0) ∧ t = { s with boot := t.boot })

/-- Anti-rollback and fuse words (R567, R568): a raise is accepted in stage E above the count, up to 64 and up to the SVN of
every image in force, and refused otherwise, and while one is under way a GO changes TARGET alone (log entry 134); each blow sets the next bit of the thermometer code and the last ends the raise; a
fuse word keeps its old bits and gains DATA's at the next power-on, and nothing is blown after FUSE_LOCK. -/
def Obligations.FusesBlow : Prop :=
  ∀ (target : BitVec 7) (s : State),
    (s.barTakes .fromA = true → s.boot.rbResult ≠ 1 → ∃ t, exec (.rollbackGo target) s = .next t ∧ t.boot.rbTarget = target ∧
      t.boot.rbGoal = target ∧ t.boot.rbResult = (if s.rollbackOk target.toNat then 1 else 2) ∧ t.boot.fuses = s.boot.fuses) ∧
    (s.barTakes .fromA = true → s.boot.rbResult = 1 → ∃ t, exec (.rollbackGo target) s = .next t ∧
      t = { s with boot := { s.boot with rbTarget := target } }) ∧
    (s.boot.rbResult = 1 → ∃ t, exec .rollbackBitBlow s = .next t ∧
      t.boot.fuses = { s.boot.fuses with rollback := s.boot.fuses.rollback ||| BitVec.ofNat 64 (2 ^ s.boot.fuses.count) } ∧
      t.boot.rbResult = if s.boot.rbGoal.toNat ≤ s.boot.fuses.count + 1 then 0 else 1) ∧
    (s.barTakes .fromA = true → s.boot.fuses.fuseLock = false → ∃ t, exec .fuseBlow s = .next t ∧ t.boot.fuses = s.boot.fuses ∧
      ∀ a, Tab.at t.boot.array a 0#32 = if a = s.boot.progAddr.toNat then Tab.at s.boot.array a 0#32 ||| s.boot.progData
        else Tab.at s.boot.array a 0#32) ∧
    (s.barTakes .fromA = true → s.boot.fuses.fuseLock = true → exec .fuseBlow s = .next s)

/-- The stages complete (R552, R557, R558, R562): A with an FW1 that passes the checks in the slot committed last, B with the
images kept over a warm reset, D for any device that is not single, E by resetting slates, queues and slots and opening the
intake with the next generation. Stage C with at most eight channels out and stores that fit trains HBM, sets the capacity less
2.25 GiB for each channel out and completes; a single device goes on to stage D's end (R389, R398, R552, R565). -/
def Obligations.StagesComplete : Prop :=
  (∀ (s : State),
      (∀ width rate, s.mod.good = true → s.boot.stage = 0 → s.gaf.tripped = false →
        s.boot.fuses.checkImage 1 (flashImage s.boot.flash (fw1At s.boot.last1) 1) = 0 → s.boot.halted = false →
        ∃ t, exec (.stageA width rate none) s = .next t ∧ t.boot.stage = 1 ∧ t.boot.halted = false ∧ t.boot.slot1 = s.boot.last1 ∧
          t.boot.fw1 = some (loadedOf (flashImage s.boot.flash (fw1At s.boot.last1) 1)) ∧ t.host.cfgReady = true) ∧
      (∀ f img p, s.boot.stage = 1 → s.boot.halted = false → s.boot.keptFw2 = some f → s.boot.keptSheet = some (img, p) →
        ∃ t, exec (.stageB none) s = .next t ∧ t.boot.stage = 2 ∧ t.boot.fw2 = some f ∧ t.boot.sheet = p ∧
          t.gaf.cap = BitVec.ofNat 11 (recField p 140 2) ∧ t.sched.regs.quantum = BitVec.ofNat 20 (recField p 64 4)) ∧
      (s.boot.stage = 3 → s.boot.halted = false → ∃ t, exec .stageD s = .next t ∧ t.boot.stage = 4) ∧
      (s.boot.stage = 4 → s.boot.halted = false → s.boot.atD = none → s.stopped = false →
        ∃ t, exec .stageE s = .next t ∧ t.boot.stage = 5 ∧ t.host.intake = true ∧ t.host.gen = nextGen s.host.gen ∧
          t.host.queues = [] ∧ t.host.slots = [] ∧ (∀ i, t.slate i = 0) ∧ t.host.nextSeq = s.host.nextSeq)) ∧
  (∀ (s : State) (failed : List ChannelIx) (trials : List IslandTrials) (fails : List SramFail),
      let s1 := (s.applyRepairs.readAge.planAll trials).marchFails fails
      let s' := ({ s1 with mem := { s1.mem with sram := [] } } : State).takeReports
      let out := (List.range 256).filter (fun c => (s'.chan c).failed || failed.any (fun f => f.val == c))
      s.boot.stage = 2 → s.boot.halted = false → out.length ≤ 8 → s'.storesMib ≤ 589824 - 2304 * out.length - 1024 → s'.role ≠ 2 →
      ∃ t, exec (.stageC none failed trials fails) s = .next t ∧ t.boot.stage = 3 ∧ t.hbm.trained = true ∧
        t.hbm.out = out ∧ t.hbm.bytes = [] ∧ t.mem.regs.cap.toNat = 589824 - 2304 * out.length)

/-- A stage that cannot be completed holds the device in it with its reason (R554): a failed check of a start step, more than
eight channels out, an FW1 that fails in both slots. -/
def Obligations.StagesHold : Prop :=
  ∀ (s : State) (a : Word) (failed : List ChannelIx) (trials : List IslandTrials) (fails : List SramFail),
    let held := fun (i : Instr) (stage reason : Nat) => ∃ t, exec i s = .next t ∧ t.boot.halted = true ∧ t.boot.stage = stage ∧
      t.boot.reason = BitVec.ofNat 8 reason
    (∀ width rate, s.mod.good = true → s.boot.stage = 0 → held (.stageA width rate (some a)) 1 0x22) ∧
    (∀ width rate, s.mod.good = true → s.boot.stage = 0 →
      s.boot.fuses.checkImage 1 (flashImage s.boot.flash (fw1At false) 1) ≠ 0 →
      s.boot.fuses.checkImage 1 (flashImage s.boot.flash (fw1At true) 1) ≠ 0 → held (.stageA width rate none) 1 0x01) ∧
    (s.boot.stage = 1 → s.boot.halted = false → s.boot.keptFw2 = none → held (.stageB (some a)) 1 0x22) ∧
    (s.boot.stage = 2 → s.boot.halted = false → held (.stageC (some a) failed trials fails) 3 0x22) ∧
    (s.boot.stage = 2 → s.boot.halted = false → 8 < ((List.range 256).filter (fun c => failed.any (fun f => f.val == c))).length → held (.stageC none failed trials fails) 3 0x20)

/-- A warm reset (R558, R560), asked for by PERST#, by a hot reset of the link or by BOOT_CTL: the stages run again; the fuses,
the flash, the images verified, the trip, the hours and the error counts stay, and everything it counts, holds or was told is
gone. While a flash write is in progress a warm reset waits for it, and runs when it ends (R558, R657). -/
def Obligations.WarmResets : Prop :=
  (∀ (s : State), s.mod.good = true → s.boot.jobs = [] →
      let again := fun (i : Instr) => ∃ t, exec i s = .next t ∧ t.boot.stage = 0 ∧ t.boot.halted = false ∧ t.cmds = [] ∧ t.progs = [] ∧
        t.host.intake = false ∧ t.host.gen = s.host.gen ∧ t.boot.fuses = s.boot.fuses ∧ t.boot.flash = s.boot.flash ∧
        t.boot.keptFw2 = s.boot.keptFw2 ∧ t.boot.keptSheet = s.boot.keptSheet ∧ t.gaf.tripped = s.gaf.tripped ∧ t.gaf.life = s.gaf.life ∧
        t.gaf.stress = s.gaf.stress ∧ t.flt.ecc = s.flt.ecc ∧ t.boot.resets = satAdd s.boot.resets 1 ∧ t.mod = { s.mod with i3cAddr := none } ∧
        t.pending = s.pending ∧ t.hbm.bytes = [] ∧ t.boot.grants = 0
      again .perstAssert ∧ again .hotReset ∧ (s.barTakes .fromA = true → again .bootWarm)) ∧
  (∀ (s : State) (j : FlashJob) (rest : List FlashJob), s.mod.good = true → s.boot.jobs = j :: rest →
      (∃ t, exec .perstAssert s = .next t ∧ t = { s with boot := { s.boot with warmWaits := true } }) ∧
      (s.boot.warmWaits = true → ∀ err, ∃ t, exec (.flashWriteDone err) s = .next t ∧ t.boot.stage = 0 ∧ t.boot.warmWaits = false ∧
        t.boot.jobs = [] ∧ t.cmds = [] ∧ t.boot.flash = if err then j.lost s.boot.flash else j.run s.boot.flash))

/-- The module's inputs (R643, R646) and power good's rise (R644): it rises when MOD_EN, VIN, the cold interval and the rails
allow it and starts the device from power-on; MOD_ALERT# is let go. The module's power (R643, R645, R651): each cause takes
power good away and with it all that power holds; undervoltage, overvoltage and a rail hold MOD_ALERT# low, MOD_EN and
BOOT_CTL.COLD do not. -/
def Obligations.PowerRises : Prop :=
  (∀ (s : State),
      exec .modEnRise s = .next { s with mod := { s.mod with modEn := true } } ∧
      exec .vinRise s = .next { s with mod := { s.mod with vinOk := true } } ∧
      exec .coldIntervalEnd s = .next { s with mod := { s.mod with cold := false } } ∧
      (s.mod.good = false → exec .railOffInterval s = .next { s with mod := { s.mod with railsOff := true } }) ∧
      (s.mod.good = false → s.mod.modEn = true → s.mod.vinOk = true → s.mod.cold = false → s.mod.railsOff = true →
        ∃ t, exec .powerGoodRise s = .next t ∧ t.mod.good = true ∧ t.mod.alert = false ∧ t.boot.stage = 0 ∧ t.cmds = [] ∧
          t.boot.fuses = s.boot.fuses.readArray s.boot.array) ∧
      (s.mod.good = false → s.mod.modEn = false ∨ s.mod.vinOk = false ∨ s.mod.cold = true ∨ s.mod.railsOff = false →
        exec .powerGoodRise s = .next s)) ∧
  (∀ (s : State), s.mod.good = true →
      let off := fun (i : Instr) (alert : Bool) => ∃ t, exec i s = .next t ∧ t.mod.good = false ∧ t.mod.railsOff = false ∧ t.mod.alert = alert ∧
        t.cmds = [] ∧ t.progs = [] ∧ t.boot.stage = 0 ∧ t.gaf.tripped = false ∧ t.hbm.bytes = [] ∧ t.boot.fuses = s.boot.fuses
      off .modEnFall false ∧ off .vinUndervoltage true ∧ off .vinOvervoltage true ∧ off .railFault true ∧
      (s.barTakes .fromA = true → off .bootCold false ∧ ∃ t, exec .bootCold s = .next t ∧ t.mod.cold = true))

/-! ### Instructions of the cores (R165 to R194, R225 to R294) -/

/-- VOP, VCVT and VRED (R265 to R267, R270, R279, R280): each lane the predicate lets through takes the function of its sources,
every other lane of the destination keeps its value; no other register, no other core and nothing but the counters changes. The
state an instruction meets (`s0`) is the core's with its AWAIT over and its element program done; with no element program under
way nothing but the hold has changed. -/
def Obligations.VectorLanes : Prop :=
  ∀ (w : CoreIx) (word : Dword) (s : State) (k : Kern),
    let n := word.toNat
    let s0 := s.atIssue w.val
    let c := s0.core w.val
    let d := fld n 8 5
    let f := fld n 32 8
    let a := c.tile (fld n 13 5)
    let does := fun (i : Instr) (v : Nat → Word) => ∃ t, exec i s = .next t ∧
      s0.tileWritten t w.val d (fun i => if c.laneOn n i then v i else nth (c.tile d) i 0)
    ((s.core w.val).elem = none → s0 = s.setCore w.val (s.core w.val).unheld) ∧
    (s.issues w word 0x10 k → does (.vop w word) (fun i =>
      if 0x40 ≤ f then moveLane f (fld n 48 16) a i
      else (elemEval f (nth a i 0) (nth (c.srcB n (immInt f)) i 0) (nth (c.tile (fld n 23 5)) i 0)).1)) ∧
    (∀ g, s.issues w word 0x11 k → numFmtOfCode (fld n 40 5) = some g → g.isMx = false → fld n 45 2 ≠ 3 →
      does (.vcvt w word) (fun i => (g.vcvt (rmodeOf (fld n 45 2) (nth (c.tile (fld n 23 5)) i 0).toNat) (nth a i 0)).1)) ∧
    (s.issues w word 0x12 k →
      let inp := (List.range 256).map (fun i => if c.laneOn n i && inside c.lens i then nth a i 0 else vredId f)
      let r := vredOut (fld n 48 2) f inp
      does (.vred w word) (fun i => if bitOf n 50 then vredFn f (nth (c.tile d) i 0) (nth r i 0) else nth r i 0))

/-- VCMP (R269): each lane let through sets or clears its bit of the predicate register, every other bit keeps its value; P0 is
never written, and a DST of 0 or a function code of 12 or more ends the command with DEVICE_FAULT (R268). -/
def Obligations.VcmpWrites : Prop :=
  (∀ (w : CoreIx) (word : Dword) (s : State) (k : Kern), s.issues w word 0x15 k →
    let n := word.toNat
    let s0 := s.atIssue w.val
    let c := s0.core w.val
    let f := fld n 32 8
    let b := c.srcB n (decide (6 ≤ f))
    let p := fld n 8 3
    p ≠ 0 ∧ ∃ t, exec (.vcmp w word) s = .next t ∧
      (∀ i, i < 256 → ((t.core w.val).pred p).toNat.testBit i =
        if c.laneOn n i then vcmpFn f (nth (c.tile (fld n 13 5)) i 0) (nth b i 0) else (c.pred p).toNat.testBit i) ∧
      (∀ q, q ≠ p → (t.core w.val).pred q = c.pred q) ∧ (t.core w.val).tiles = c.tiles ∧ (t.core w.val).xs = c.xs ∧ s0.coreOnly t w.val) ∧
  (∀ (w : CoreIx) (word : Dword) (s : State) (k : Kern), s.issuing w.val word.toNat = some k → opcodeOf word.toNat = 0x15 →
    (12 ≤ fld word.toNat 32 8 ∨ fld word.toNat 8 3 = 0) → s.endsBy (.reservedInstruction w word) w k .deviceFault
      [⟨0x20, BitVec.ofNat 16 w.val, BitVec.ofNat 16 w.val, k.seq, word⟩])

/-- VSETX (R260, R274) sets an index register to its immediate or adds it; X0 reads zero and ignores the write; nothing else
changes. -/
def Obligations.VsetxWrites : Prop :=
  ∀ (w : CoreIx) (word : Dword) (s : State) (k : Kern), s.issues w word 0x28 k →
    let n := word.toNat
    let s0 := s.atIssue w.val
    let x := fld n 8 3
    let imm := BitVec.ofNat 32 (fld n 32 32)
    ∃ t, exec (.vsetx w word) s = .next t ∧
      (t.core w.val).x x = (if x = 0 then 0 else if bitOf n 11 then (s.core w.val).x x + imm else imm) ∧
      (∀ j, j ≠ x → (t.core w.val).x j = (s.core w.val).x j) ∧
      (t.core w.val).tiles = (s.core w.val).tiles ∧ (t.core w.val).preds = (s.core w.val).preds ∧ s0.coreOnly t w.val

/-- VLOOP (R275, R276, R278): with TRIP 0 the body is passed over, else the loop opens around it; a fifth open loop, an empty
body or one that reaches past its kernel or the loop around it ends the command with DEVICE_FAULT. -/
def Obligations.VloopOpens : Prop :=
  ∀ (w : CoreIx) (word : Dword) (s : State) (k : Kern), s.issues w word 0x30 k →
    let n := word.toNat
    let s0 := s.atIssue w.val
    let c := s0.core w.val
    let body := fld n 10 12
    let trip := fld n 22 16
    let words := ((s.entOf k).map KernelEnt.words).getD 0
    let fr : LoopFrame := { start := c.pos + 1, len := body, trip := trip, iter := 0, tailR := fld n 38 4, tailC := fld n 42 4 }
    (c.loopBad words body = false → trip = 0 → ∃ t, exec (.vloop w word) s = .next t ∧ s0.coreOnly t w.val ∧
      t.core w.val = { c with pos := c.pos + body }.next) ∧
    (c.loopBad words body = false → trip ≠ 0 → ∃ t, exec (.vloop w word) s = .next t ∧ s0.coreOnly t w.val ∧
      t.core w.val = { c with loops := fr :: c.loops }.next) ∧
    (c.loopBad words body = true → s.endsBy (.vloop w word) w k .deviceFault [])

/-- VRAND (R281) writes every lane with the word its row's generator gives for its own place, or zeros for a row at or beyond
X1; VSCORE (R61, R283) in a step program replaces the updates of the take rows it selects, and outside one does nothing to them.
-/
def Obligations.RandomAndScores : Prop :=
  ∀ (w : CoreIx) (word : Dword) (s : State) (k : Kern),
    let n := word.toNat
    let s0 := s.atIssue w.val
    let c := s0.core w.val
    (s.issues w word 0x13 k →
      let row := (c.x (fld n 13 3)).toNat
      let base := (c.x (fld n 16 3)).toNat
      ∃ t, exec (.vrand w word) s = .next t ∧ s0.tileWritten t w.val (fld n 8 5) (fun i =>
        if (c.x 1).toNat ≤ row then 0
        else randLane (bitOf n 21) (s0.drawRow w.val k row (fld n 32 16) ((base + i) % 2 ^ 32) (fld n 19 2)))) ∧
    (s.issues w word 0x14 k →
      let rows := ((List.range 256).zip c.rows).filter (fun p => decide (p.1 < (c.x 1).toNat) && c.laneOn n p.1)
      let adv := ((s.cmd? k.seq).map Cmd.isAdvance).getD false
      ∃ t, exec (.vscore w word) s = .next t ∧
        (adv = true → t.takes.scores = s0.takes.scores.filter (fun q => !(q.1 == k.seq && rows.any (fun p => p.2 == q.2.1))) ++
          rows.map (fun p => (k.seq, p.2, fld n 32 8 == 1, nth (c.tile (fld n 13 5)) p.1 0#32))) ∧
        (adv = false → t.takes = s0.takes) ∧ (t.core w.val).tiles = c.tiles ∧ (t.core w.val).xs = c.xs ∧
        t = { s0 with cores := t.cores, perf := t.perf, takes := { s0.takes with scores := t.takes.scores } })

/-- VLD (R271 to R273, R277): with its format, register and address in order, the lanes inside the lengths take the widened
elements of their rows, the others zero; the address register steps when POST asks for it; nothing else but the counters
changes. -/
def Obligations.VldLoads : Prop :=
  ∀ (w : CoreIx) (word : Dword) (s : State) (k : Kern) (f : NumFmt), s.issues w word 0x20 k →
    let n := word.toNat
    let s0 := s.atVector w.val 0
    let c := s0.core w.val
    let a := c.tileAcc n f
    let d := fld n 8 5
    numFmtOfCode (fld n 15 5) = some f → (a.cols = 32 → d % 2 = 0) → a.off % 16 = 0 → s0.tileBad k w.val a false = none →
    let rows := (s0.tileRows k w.val a).1
    let sc := (s0.tileRows k w.val a).2
    let lane := fun (h i : Nat) => if i / 16 < a.lr ∧ i % 16 < a.lc then
      a.lane (nth rows (i / 16) []) (a.scale sc (i / 16)) (16 * h + i % 16) else 0
    ∃ t, exec (.vld w word) s = .next t ∧
      t = ((s0.loadTile k w.val n d a).bump (.core w.val) 0x0E1 (a.cycles false * outLanes c.lens)).retire w.val ∧
      (∀ i, i < 256 → nth ((t.core w.val).tile d) i 0 = lane 0 i) ∧
      (a.cols = 32 → ∀ i, i < 256 → nth ((t.core w.val).tile (d + 1)) i 0 = lane 1 i) ∧
      (∀ e, e ≠ d → (a.cols = 32 → e ≠ d + 1) → (t.core w.val).tile e = c.tile e) ∧
      (∀ j, (t.core w.val).x j = (c.stepX n).x j) ∧ (t.core w.val).preds = c.preds ∧ (s.atIssue w.val).coreOnly t w.val

/-- VST (R271 to R273, R277) stores row by row at the address of each row, and its scale bytes; no register but the address
register that POST steps, no other core, no byte outside its runs, and nothing but SRAM and the counters changes. A store
through the address range (R362, R366) writes only the bytes of the runs its range is cut into: every other byte of SRAM, host
memory and HBM reads as before; one that lies in a single run of SRAM reads back as written. -/
def Obligations.VstStores : Prop :=
  (∀ (w : CoreIx) (word : Dword) (s : State) (k : Kern) (f : NumFmt), s.issues w word 0x21 k →
      let n := word.toNat
      let s0 := s.atVector w.val 0
      let c := s0.core w.val
      let a := c.tileAcc n f
      numFmtOfCode (fld n 15 5) = some f → (f.isInt = false → fld n 20 2 ≠ 3) → (a.cols = 32 → fld n 8 5 % 2 = 0) → a.off % 16 = 0 →
      s0.tileBad k w.val a true = none →
      ∃ t, exec (.vst w word) s = .next t ∧
        t = ((s0.storeTile k w.val n (fld n 8 5) a).bump (.core w.val) 0x0E1 (a.cycles true * outLanes c.lens)).retire w.val ∧
        (∀ j, (t.core w.val).x j = (c.stepX n).x j) ∧ (t.core w.val).tiles = c.tiles ∧ (t.core w.val).preds = c.preds ∧
        (∀ v, v ≠ w.val → t.core v = s.core v) ∧ t.host = s.host ∧ t.cmds = s.cmds ∧ t.sched = s.sched ∧ t.reels = s.reels ∧ t.kv = s.kv ∧
        t.progs = s.progs ∧ s.sameBase t ∧
        t = { s0 with cores := t.cores, perf := t.perf, mem := { s0.mem with sram := t.mem.sram } } ∧
        (s.memOk = true → ∀ x, (∀ q ∈ a.runs true, ∀ i, i < q.2 → (s0.xlate (k.accAt w.val) (spaceVa a.space (q.1 + i)) true).1 ≠ .sram x) →
          Mem.read t.mem.sram x = Mem.read s0.mem.sram x)) ∧
  (∀ (a : Acc) (va : Nat) (bs : List Byte) (poisoned : Bool) (s t : State), s.memOk = true → s.writeVA a va bs poisoned = some t →
      let runs := s.spans a true (bs.length + 1) va bs.length
      (∀ x, (∀ q ∈ runs, ∀ o, q.1 = .sram o → x < o ∨ o + q.2.2 ≤ x) → Mem.read t.mem.sram x = Mem.read s.mem.sram x) ∧
      (∀ x, (∀ q ∈ runs, ∀ o, q.1 = .host o → x < o ∨ o + q.2.2 ≤ x) → Mem.read t.mem.host x = Mem.read s.mem.host x) ∧
      (∀ x, (∀ q ∈ runs, ∀ o, q.1 = .hbm o → x < o ∨ o + q.2.2 ≤ x) → Mem.read t.hbm.bytes x = Mem.read s.hbm.bytes x) ∧
      (∀ o, runs = [(.sram o, va, bs.length)] → t.mem.sram.readN o bs.length = bs))

/-- A memory instruction that is out of order (R198, R216, R272): a reserved format, or rounding mode 3 in a store of floats, ends
the command with REJECTED_FORMAT, an odd register of a pair with SHAPE_OVER, a misaligned or unreachable address with
DEVICE_FAULT and a PROGRAM report of the core that carries the address. VCVT to an MX format, to a reserved format or with
rounding mode 3 ends the command with REJECTED_FORMAT (R198, R216, R270). A word that carries a reserved opcode, a reserved value
or a non-zero reserved bit ends its command with DEVICE_FAULT, and a PROGRAM report of the core carries the word (R225, R268).
Array instructions queued before it end first. -/
def Obligations.TileAccessFaults : Prop :=
  (∀ (w : CoreIx) (word : Dword) (s : State) (k : Kern) (store : Bool), s.issues w word (if store then 0x21 else 0x20) k →
      let n := word.toNat
      let i : Instr := if store then .vst w word else .vld w word
      let s0 := s.atVector w.val 0
      let report := fun (va : Nat) => [(⟨0x20, BitVec.ofNat 16 w.val, BitVec.ofNat 16 w.val, k.seq, BitVec.ofNat 64 va⟩ : Report)]
      (numFmtOfCode (fld n 15 5) = none → s.endsBy i w k .rejectedFormat []) ∧
      (∀ f, numFmtOfCode (fld n 15 5) = some f →
        let a := (s0.core w.val).tileAcc n f
        let odd := a.cols = 32 ∧ fld n 8 5 % 2 = 1
        let mode := store = true ∧ f.isInt = false ∧ fld n 20 2 = 3
        (mode → s.endsBy i w k .rejectedFormat []) ∧
        (¬ mode → odd → s.endsBy i w k .shapeOver []) ∧
        (¬ mode → ¬ odd → a.off % 16 ≠ 0 → s.endsBy i w k .deviceFault (report (spaceVa a.space a.off))) ∧
        (∀ va, ¬ mode → ¬ odd → a.off % 16 = 0 → s0.tileBad k w.val a store = some va → s.endsBy i w k .deviceFault (report va)))) ∧
  (∀ (w : CoreIx) (word : Dword) (s : State) (k : Kern), s.issues w word 0x11 k →
      ((∃ g, numFmtOfCode (fld word.toNat 40 5) = some g ∧ (g.isMx = true ∨ fld word.toNat 45 2 = 3)) ∨ numFmtOfCode (fld word.toNat 40 5) = none) →
      s.endsBy (.vcvt w word) w k .rejectedFormat []) ∧
  (∀ (w : CoreIx) (word : Dword) (s : State) (k : Kern), s.issuing w.val word.toNat = some k → wordBad word.toNat = true →
      s.endsBy (.reservedInstruction w word) w k .deviceFault [⟨0x20, BitVec.ofNat 16 w.val, BitVec.ofNat 16 w.val, k.seq, word⟩] ∧
      ∃ t, exec (.reservedInstruction w word) s = .next t ∧ t = (((s.atIssue w.val).settleArray k w.val).coreFault w.val k word.toNat))

/-- EPRUN (R284 to R287) with a descriptor, a program and operands in order stands at its core with its program and its constants,
no group done, the take row whose generator rounds being open (log entry 37); nothing else but the counters changes. By the
core's next instruction every group of its extent is done and nothing but memory and the counters has changed (R262, R263,
R286; when they are done is the model's choice, log entry 122). -/
def Obligations.EprunRuns : Prop :=
  (∀ (w : CoreIx) (word : Dword) (s : State) (k : Kern) (b : List Byte), s.issues w word 0x31 k →
    let s0 := s.atVector w.val 0
    let d := parseElem b
    let prog := tabulate d.plen (fun i => recField (s0.selfRead k w.val d.prog (4 * d.plen)) (4 * i) 4)
    let consts := tabulate 16 (fun i => BitVec.ofNat 32 (recField (s0.selfRead k w.val d.consts 64) (4 * i) 4))
    s0.descOf k w.val word.toNat 128 = .ok b → d.bad = none → s0.selfBads k w.val [(d.prog, 4 * d.plen), (d.consts, 64)] = none →
    prog.any elemBad = false → s0.elemReach k w.val d = none →
    ∃ t row, exec (.eprun w word) s = .next t ∧ row < max 1 ((s.core w.val).x 1).toNat ∧
      (t.core w.val).elem = some { desc := b, prog := prog, consts := consts, row := row, next := 0 } ∧
      (t.core w.val).tiles = (s.core w.val).tiles ∧ (t.core w.val).xs = (s.core w.val).xs ∧ (∀ v, v ≠ w.val → t.core v = s.core v) ∧
      t = { s0 with cores := t.cores, freeCtr := s0.freeCtr + 1 }) ∧
  (∀ (w : CoreIx) (s : State) (k : Kern) (r : ElemRun), (s.core w.val).elem = some r → s.kernOn w.val = some k →
    let t := s.atIssue w.val
    let done := s.elemGroups k w.val r ((parseElem r.desc).groups - r.next)
    t.mem = done.mem ∧ t.hbm = done.hbm ∧ (t.core w.val).elem = none ∧ (t.core w.val).tiles = (s.core w.val).tiles ∧
    (t.core w.val).xs = (s.core w.val).xs ∧ (∀ v, v ≠ w.val → t.core v = s.core v) ∧ t.host = s.host ∧ t.cmds = s.cmds ∧
    t.sched = s.sched ∧ t.reels = s.reels ∧ s.sameBase t)

/-- The array's order (R174, R182, R226): AWAIT lets a core go on when every earlier array instruction has written its last
output and holds it until then; a ramp-up asked for is granted; a last output does what the oldest started instruction has left
and takes it off the queue, and waits for the ramp-up's grant first. EDGE_JOB_DONE (R247, R248): the job that ran is done as
its kind says, an edge convolution's or a preparation's outputs stand in memory, and the engine takes its next. -/
def Obligations.ArrayOrders : Prop :=
  (∀ (w : CoreIx) (word : Dword) (s : State) (k : Kern),
      (s.issues w word 0x4F k → ∃ t, exec (.await w word) s = .next t ∧ (s.atIssue w.val).coreOnly t w.val ∧
        (t.core w.val).hold = if s.arrayIdle w.val then .none else .array) ∧
      ((s.core w.val).ramp = 1 → exec (.rampGrant w) s = .next (s.setCore w.val { s.core w.val with ramp := 2 })) ∧
      (∀ r rest, (s.core w.val).queue = r :: rest → r.started = true → r.onArray = true ∨ r.op = 0x49 → s.kernOn w.val = some k →
        let u := (s.runOut k w.val r).1
        (r.onArray = true → (s.core w.val).ramp = 1 → exec (.arrayLastOutput w) s = .next s) ∧
        (¬ (r.onArray = true ∧ (s.core w.val).ramp = 1) → (u.core w.val).owner.isSome = true → s.runHeld k r = false → rest = [] →
          ∃ t, exec (.arrayLastOutput w) s = .next t ∧ (t.core w.val).queue = [] ∧ t.mem = u.mem ∧ t.hbm = u.hbm ∧ t.host = u.host ∧
            (r.onArray = true → (t.core w.val).ramp = 0 ∧ (t.core w.val).rowUs = some u.nowUs) ∧
            (t.core w.val).tiles = (u.core w.val).tiles ∧ (∀ v, v ≠ w.val → t.core v = u.core v)) ∧
        (¬ (r.onArray = true ∧ (s.core w.val).ramp = 1) → (u.core w.val).owner.isSome = false → exec (.arrayLastOutput w) s = .next u))) ∧
  (∀ (n : ClusterIx) (pred : Option (List Half)) (s : State) (job : EdgeJob), (s.edge n.val).running = some job →
      let s0 := s.setEdge n.val { s.edge n.val with running := none }
      let s1 := match job with
        | .stream m j => s0.streamJob n.val m j (pred.map (fun (l : List Half) => l.map BitVec.toNat))
        | .core w seq k b => s0.coreJob n.val w seq k b
      (∀ i, i < 17 → (s1.core (17 * n.val + i)).queue = []) →
      ∃ t, exec (.edgeJobDone n pred) s = .next t ∧ t.edge n.val = (s1.edge n.val).take ∧ t.host = s1.host ∧ t.mem = s1.mem ∧ t.cmds = s1.cmds ∧
        (∀ m j, job = .stream m j → s.run? j.seq j.list = none → j.pic.isSome = true →
          (t.mailSlot m).feeds = (s.mailSlot m).feeds.drop 1 ∧ (t.mailSlot m).sent = 0 ∧ t.mem = s.mem ∧ t.hbm = s.hbm) ∧
        (∀ w seq k b ys uvs u, job = .core w seq k b → recField b 63 1 % 4 = 0 →
          let a : Acc := { core := some w, kern := k, seq := some seq }
          let p := parsePrep b
          let s2 := s0.bump (.cluster n.val) 0x0D6 1
          s2.edgeRows n.val a p.srcY p.sstr (p.srcW * (p.depth + 1)) p.srcH = .ok ys →
          s2.edgeRows n.val a p.srcUV p.sstr (p.srcW * (p.depth + 1)) (p.srcH / 2) = .ok uvs →
          s2.edgeStore n.val a p.dst p.dstr (p.sample s.freeCtr (planeSource p ys uvs)) = .ok u →
          t.mem = u.mem ∧ t.hbm = u.hbm ∧ t.host = s.host ∧ t.freeCtr = s.freeCtr + 1))

/-- The array instructions (R181 to R194, R225 to R241): a descriptor in reach is read; where every check passes the instruction
takes a place of the queue of four behind those there, and starts at once where the queue was empty and its unit is free; where
a check fails the command ends with the check's status; with no place in the queue the instruction stalls. HALO_DONE (R243): the
oldest HALO's slate add lands and it leaves the queue. EDGE (R226, R247) goes on into the cluster's core queue while that has
room, and stays in the array queue while it has none. -/
def Obligations.ArrayInstructionsRun : Prop :=
  ∀ (w : CoreIx) (word : Dword) (s : State) (k : Kern) (b : List Byte),
    let n := word.toNat
    let s0 := s.atIssue w.val
    let q := (s.core w.val).queue
    let run : ArrayRun := s0.newRun k w.val n b
    let goes := fun (i : Instr) (op size : Nat) (check : Except (Status ⊕ Nat) Unit) (t0 : State) => s.issues w word op k →
      (4 ≤ q.length → exec i s = .next s) ∧
      (q.length < 4 → s0.descOf k w.val n size = .ok b →
        (∀ st, check = .error (.inl st) → st ≠ .ok → st ≠ .okDegraded → s.endsBy i w k st []) ∧
        (∀ va, check = .error (.inr va) → s.endsBy i w k .deviceFault
          [⟨0x20, BitVec.ofNat 16 w.val, BitVec.ofNat 16 w.val, k.seq, BitVec.ofNat 64 va⟩]) ∧
        (check = .ok () →
          (q.any (fun r => r.op == 0x4B) = false → ∃ t, exec i s = .next t ∧
            (t.core w.val).queue.map (fun r => (r.op, r.desc)) = q.map (fun r => (r.op, r.desc)) ++ [(op, b)] ∧ t.host = s.host ∧
            t.cmds = s.cmds ∧ (∀ v, v ≠ w.val → t.core v = s.core v)) ∧
          (q = [] → bitOf n 10 = false ∨ s.edgeIdle w.val k.seq = true → ∃ t, exec i s = .next t ∧ (t.core w.val).queue = [{ run with started := true }] ∧ t.mem = t0.mem ∧ t.hbm = t0.hbm ∧
            t.freeCtr = s0.freeCtr + run.draws ∧ (t.core w.val).tiles = (s.core w.val).tiles ∧ (t.core w.val).xs = (s.core w.val).xs ∧
            (run.onArray = true → (s.core w.val).rowUs ≠ some s.nowUs → (t.core w.val).ramp = 1))))
    goes (.matmul w word) 0x40 128 (s0.matmulCheck k w.val b (s0.substAt k w.val (parseGemm b).b)) s0 ∧
    goes (.attend w word) 0x41 64 (s0.attCheck k w.val b) s0 ∧
    goes (.conv w word) 0x48 128 (s0.convCheck k w.val b) s0 ∧
    goes (.pool w word) 0x49 64 (s0.poolCheck k w.val b) s0 ∧
    goes (.halo w word) 0x4A 64 (s0.haloCheck k w.val b) (s0.haloStart k w.val b) ∧
    (∀ dw, k.haloCore b = some dw → recField b 12 4 = 1 → (s0.haloStart k w.val b).mem.sram =
      s0.mem.sram.writeN (sramCore dw (recField b 8 4 % 2 ^ 21)) (s0.selfRead k w.val (recField b 0 8) (recField b 16 4))) ∧
    (∀ h i, q = [h] → h.op = 0x4A → h.started = true → s.kernOn w.val = some k → s.progSlate k.seq (recField h.desc 36 4 % 131072) = some i →
      ∃ t, exec (.haloDone w) s = .next t ∧ (t.core w.val).queue = [] ∧ (∀ v, v ≠ w.val → t.core v = s.core v) ∧ t.mem = s.mem ∧ t.host = s.host ∧
        ∀ j, t.slate j = if j = i then s.slate j + BitVec.ofNat 32 (recField h.desc 40 4) else s.slate j) ∧
    (∀ prep : Bool, s.issues w word 0x4B k → s0.descOf k w.val n 64 = .ok b → (prep = (recField b 63 1 % 4 == 0)) → q = [] →
      let i : Instr := if prep then .edgePrep w word else .edgeConv w word
      let g := s.edge (clusterOf w.val)
      (∀ st, edgeBad b = some st → st ≠ .ok → st ≠ .okDegraded → s.endsBy i w k st []) ∧
      (edgeBad b = none → bitOf n 10 = false ∨ s.edgeIdle w.val k.seq = true → g.coreQ.length < 8 →
        ∃ t, exec i s = .next t ∧ t.edge (clusterOf w.val) = g.addCore (.core w.val k.seq (some k) b) ∧ (t.core w.val).queue = [] ∧
          t.host = s.host ∧ t.cmds = s.cmds ∧ t.mem = s0.mem ∧ (∀ v, v ≠ w.val → t.core v = s.core v)) ∧
      (edgeBad b = none → 8 ≤ g.coreQ.length → ∃ t, exec i s = .next t ∧ t.edge (clusterOf w.val) = g ∧
        (t.core w.val).queue.map (fun r => (r.op, r.desc)) = [(0x4B, b)] ∧ t.host = s.host ∧ t.cmds = s.cmds))

/-- PERFRD (R596): with CTR in force for code, half of a live counter of the issuing core goes to the index register, the low
half leaving the high one latched; a counter whose event the core does not count reads zero, one of timing reads a free value;
without CTR the command ends with DEVICE_FAULT. DMAQ (R422) queues its descriptor on a channel of its kernel, stalls while that
channel's four places are taken, and on a channel its kernel has not ends the command with DEVICE_FAULT. -/
def Obligations.CountersAndQueues : Prop :=
  ∀ (w : CoreIx) (word : Dword) (s : State) (k : Kern),
    let n := word.toNat
    let c := s.core w.val
    let s0 := s.atIssue w.val
    let g := cntCore w.val + fld n 8 5
    (s.issues w word 0x3A k → s.userCounters = true → ∃ t v, exec (.perfrd w word) s = .next t ∧
      (eventFits g (s0.perf.event g) = false → v = 0) ∧
      (eventFits g (s0.perf.event g) = true → eventTimed (s0.perf.event g) = false → v = (Tab.at s0.perf.cnt g 0#48).toNat ∧ s0.coreOnly t w.val) ∧
      (∀ j, j ≠ fld n 14 3 → (t.core w.val).x j = c.x j) ∧
      (fld n 14 3 ≠ 0 → (t.core w.val).x (fld n 14 3) = if bitOf n 13 then c.latch.setWidth 32 else BitVec.ofNat 32 v) ∧
      ((t.core w.val).latch = if bitOf n 13 then c.latch else BitVec.ofNat 16 (v / 2 ^ 32)) ∧
      (∀ u, u ≠ w.val → t.core u = s.core u) ∧ t.host = s.host ∧ t.cmds = s.cmds ∧ t.mem = s0.mem ∧ t.hbm = s0.hbm) ∧
    (s.issues w word 0x3A k → s.userCounters = false → s.endsBy (.perfrd w word) w k .deviceFault
      [⟨0x20, BitVec.ofNat 16 w.val, BitVec.ofNat 16 w.val, k.seq, word⟩]) ∧
    (let chan := (((k.chans.find? (fun p => p.1 == clusterOf w.val)).map Prod.snd).getD [])[fld n 10 4]?
     (s.issues w word 0x39 k → chan = none → s.endsBy (.dmaq w word) w k .deviceFault []) ∧
     (∀ ch b, s.issues w word 0x39 k → chan = some ch →
      let q := (Tab.at (s.eng (clusterOf w.val)).chans ch {}).queue
      (4 ≤ q.length → exec (.dmaq w word) s = .next s) ∧
      (q.length < 4 → s0.descOf k w.val n 128 = .ok b → ∃ t, exec (.dmaq w word) s = .next t ∧
        (Tab.at (t.eng (clusterOf w.val)).chans ch {}).queue = q ++ [{ parseDesc k.seq b with core := some w.val, layer := k.layer }] ∧
        t = { s0 with cores := t.cores, dma := t.dma })))

/-! ### Slates (R350 to R358) -/

/-- SLATE_OP on a slate of the device (R354, R358): the six operations that do not hold write the count as R354 says, no other,
and the command completes with OK and what R358 reports. -/
def Obligations.SlateOpsAct : Prop :=
  ∀ (seq : Word) (s : State) (c : Cmd), s.turnOf seq 0x41 = some c → bitOf (c.fieldN 28 1) 4 = false ∨ c.fieldN 30 2 % 4096 = s.fab.id.toNat →
    let x := c.fieldN 24 4 % 131072
    let v := BitVec.ofNat 32 (c.fieldN 32 4)
    let cmp := BitVec.ofNat 32 (c.fieldN 36 4)
    let does := fun (i : Instr) (op : Nat) (new result : Word) (stored : Bool) => c.fieldN 28 1 % 16 = op →
      ∃ t, exec i s = .next t ∧ (∀ j, t.slate j = if j = x then new else s.slate j) ∧
        s.ended t seq c .ok (resultOf [(4, result.toNat), (1, b2n stored)]) ∧ s.sameBase t ∧ t.progs = s.progs
    let n := s.slate x
    does (.slateOpSignal seq) 2 (n + 1) 0 false ∧ does (.slateOpAdd seq) 3 (n + v) 0 false ∧ does (.slateOpFadd seq) 4 (n + v) n false ∧
    does (.slateOpCas seq) 5 (if n = cmp then v else n) n (n == cmp) ∧ does (.slateOpRead seq) 6 n n false ∧
    does (.slateOpSet seq) 7 v 0 false

/-- SLATE_OP waits (R355, R358): one whose count is met completes with OK and the count; one that is not holds at the bank, and
completes with the count of its wake, or with DEADLINE_MISS and the present count when its limit passes first; the counts stay.
-/
def Obligations.SlateOpsWait : Prop :=
  ∀ (seq : Word) (s : State) (c : Cmd),
    let x := c.fieldN 24 4 % 131072
    let v := BitVec.ofNat 32 (c.fieldN 32 4)
    let waits := fun (i : Instr) (eq : Bool) => s.turnOf seq 0x41 = some c →
      bitOf (c.fieldN 28 1) 4 = false ∨ c.fieldN 30 2 % 4096 = s.fab.id.toNat → c.fieldN 28 1 % 16 = b2n eq →
      let w : SlateWait := { slate := x, who := .cmd seq, eq := eq, value := v }
      (w.met (s.slate x) = true → ∃ t, exec i s = .next t ∧ s.ended t seq c .ok (resultOf [(4, (s.slate x).toNat), (1, 0)]) ∧
        t.sched.slates = s.sched.slates) ∧
      (w.met (s.slate x) = false → ∃ t, exec i s = .next t ∧ t.sched.waits = s.sched.waits ++ [w] ∧
        t.cmd? seq = some { c with phase := .running, started := some s.nowUs } ∧ t.sched.slates = s.sched.slates ∧ t.host = s.host)
    let wakes := fun (i : Instr) (op : Nat) => ∀ n, s.turnOf seq 0x41 = none → s.cmd? seq = some c → s.cmdWake seq = some n → c.opcode = 0x41 →
      c.phase = .running → c.fieldN 28 1 % 16 = op →
      ∃ t, exec i s = .next t ∧ s.ended t seq c .ok (resultOf [(4, n.toNat), (1, 0)]) ∧ t.sched.slates = s.sched.slates
    waits (.slateOpWait seq) false ∧ waits (.slateOpWaiteq seq) true ∧ wakes (.slateOpWait seq) 0 ∧ wakes (.slateOpWaiteq seq) 1 ∧
    (s.cmd? seq = some c → c.opcode = 0x41 → c.phase = .running → c.fieldN 28 1 % 16 ≤ 1 → s.opLimit c ≠ 0 →
      c.started.getD 0 + s.opLimit c ≤ s.nowUs → s.sched.waits.any (fun q => q.who == Waiter.cmd seq) = true →
      ∃ t, exec (.slateOpLimit seq) s = .next t ∧ s.ended t seq c .deadlineMiss (resultOf [(4, (s.slate x).toNat), (1, 0)]) ∧
        t.sched.slates = s.sched.slates)

/-- A core's slate instruction on a slate of its device that no tile counter takes (R352 to R354): the count becomes what R354
says and no other changes; FADD, CAS and READ write the count before it to XR, the others write no register. FADD by 1 on a
counter of the core's own program (R301, R303, R304): a requeued index is given before the count moves; else the count is given
and goes up by one, and an index within the work is noted as held by the core. -/
def Obligations.CoreSlatesAct : Prop :=
  (∀ (w : CoreIx) (word : Dword) (s : State) (k : Kern) (x : Nat), s.issues w word 0x38 k →
      let m := word.toNat
      let c := s.core w.val
      (s.atIssue w.val).slateAt k w.val m = .own x → Tab.find s.sched.tiles x = none →
      let v := c.slateV m
      let cmp := c.x (fld m 20 3)
      let xr := fld m 14 3
      let n := s.slate x
      let does := fun (i : Instr) (op : Nat) (new : Word) (reads : Bool) => fld m 8 4 = op →
        ∃ t, exec i s = .next t ∧ (∀ j, t.slate j = if j = x then new else s.slate j) ∧
          (∀ j, (t.core w.val).x j = if reads = true ∧ j = xr ∧ j ≠ 0 then n else c.x j) ∧
          (t.core w.val).tiles = c.tiles ∧ (∀ u, u ≠ w.val → t.core u = s.core u) ∧ t.host = s.host ∧ t.mem = (s.atIssue w.val).mem ∧
          t.hbm = (s.atIssue w.val).hbm
      does (.slateSignal w word) 2 (n + 1) false ∧ does (.slateAdd w word) 3 (n + v) false ∧ does (.slateFadd w word) 4 (n + v) true ∧
      does (.slateCas w word) 5 (if n = cmp then v else n) true ∧ does (.slateRead w word) 6 n true ∧ does (.slateSet w word) 7 v false) ∧
  (∀ (w : CoreIx) (word : Dword) (s : State) (k : Kern) (x : Nat) (tc : TileCtr), s.issues w word 0x38 k →
      let m := word.toNat
      (s.atIssue w.val).slateAt k w.val m = .own x → Tab.find s.sched.tiles x = some tc → tc.seq = k.seq → fld m 8 4 = 4 →
      (s.core w.val).slateV m = 1 → fld m 14 3 ≠ 0 →
      (∀ j rest, tc.retake = j :: rest → ∃ t, exec (.slateFadd w word) s = .next t ∧ (t.core w.val).x (fld m 14 3) = BitVec.ofNat 32 j ∧
        t.slate x = s.slate x ∧ (Tab.find t.sched.tiles x).map TileCtr.retake = some rest) ∧
      (tc.retake = [] → ∃ t, exec (.slateFadd w word) s = .next t ∧ (t.core w.val).x (fld m 14 3) = s.slate x ∧ t.slate x = s.slate x + 1 ∧
        ((s.slate x).toNat < tc.total → Tab.find t.sched.tiles x = some (tc.hold w.val (s.slate x).toNat))))

/-- A core's waits (R354, R355): one that is met goes on at once with the count in XR; another holds the core and stands at the
bank; its wake takes it away, writes the count and lets the core go; past the wait limit without a wake the command ends with
DEADLINE_MISS. -/
def Obligations.CoreSlatesWait : Prop :=
  ∀ (w : CoreIx) (word : Dword) (s : State) (k : Kern) (x : Nat),
    let m := word.toNat
    let c := s.core w.val
    let v := c.slateV m
    let xr := fld m 14 3
    let waits := fun (i : Instr) (eq : Bool) => s.issues w word 0x38 k → (s.atIssue w.val).slateAt k w.val m = .own x → fld m 8 4 = b2n eq →
      let q : SlateWait := { slate := x, who := .core w.val xr, eq := eq, value := v }
      (q.met (s.slate x) = true → ∃ t, exec i s = .next t ∧ (∀ u, u ≠ w.val → t.core u = s.core u) ∧ t.sched = s.sched ∧ t.host = s.host ∧
        (∀ j, (t.core w.val).x j = if j = xr ∧ j ≠ 0 then s.slate x else c.x j) ∧ (t.core w.val).tiles = c.tiles ∧
        (t.core w.val).hold = .none) ∧
      (q.met (s.slate x) = false → ∃ t, exec i s = .next t ∧ t.sched.waits = s.sched.waits ++ [q] ∧
        (t.core w.val).hold = .slate x eq v xr s.nowUs ∧ (t.core w.val).xs = c.xs ∧ t.sched.slates = s.sched.slates)
    waits (.slateWait w word) false ∧ waits (.slateWaiteq w word) true ∧
    (∀ q r n, s.coreWake w.val = some (q, r, n) → ∃ t, exec (.slateWake w) s = .next t ∧ (t.core w.val).hold = .none ∧
      (t.core w.val).x r = (if r = 0 then 0 else n) ∧ t.sched.waits = s.sched.waits.filter (fun y => y != q) ∧ t.sched.slates = s.sched.slates) ∧
    (∀ seq layer cmd t0, c.hold = .slate x false v xr t0 → c.owner = some (seq, layer) → s.cmd? seq = some cmd →
      cmd.phase = .running → s.sched.regs.waitLimit ≠ 0 →
      t0 + s.sched.regs.waitLimit.toNat ≤ s.nowUs →
      ∃ t r, exec (.slateWaitLimit w) s = .next t ∧ t.host.cpls = s.host.cpls ++ [r] ∧ r.seq = seq ∧ r.status = .deadlineMiss)

/-! ### Commands that run kernels, and their events (R31 to R164, R310 to R345) -/

/-- RUN_KERNEL, RUN_GRAPH and ADVANCE_TAKES whose turn has come (R58, R316, R331, R499): each ends with the status of the first check
that fails; with every check passed, counters free and a placement found, the command runs with its pieces or takes and its first
work begins. RUN_KERNEL, RUN_GRAPH and ADVANCE_TAKES complete there: the first kernel runs on the cores of the placement, the takes
stepped are ADVANCING; SCHEDULING_PASS begins such a command too (R331). -/
def Obligations.RunsBegin : Prop :=
  ∀ (seq : Word) (s s' : State) (c : Cmd),
    let room := fun (pieces : List Piece) => s.counterRoom seq (s.pieceCounters seq c (nth pieces 0 ⟨[], [], 0xFF⟩)) = true
    let spot := fun (ix : Nat) (e : KernelEnt) (p : Spot) => s.layerKernel c 0 = some (ix, e) ∧ s.freeSpot e c.cls = some p
    let run := fun (i : Instr) (op : Nat) => s.turnOf seq op = some c → s.heldBack seq c = false →
      (∀ r, s.runCheck seq c = .error r → exec i s = .next (s.refuse seq r)) ∧
      (∀ st, s.runCheck seq c = .error (.status st) → ∃ t, exec i s = .next t ∧ s.ended t seq c st c.runResult) ∧
      (∀ va, s.runCheck seq c = .error (.own va) → ∃ t, exec i s = .next t ∧ s.ended t seq c .deviceFault (resultOf [(8, va)])) ∧
      (∀ pieces, s.runCheck seq c = .ok pieces → room pieces →
        s.placeLayer seq c 0 = (s', true) → ∃ u : State, exec i s = .next (u.beginWork seq) ∧ (u.cmd? seq).map Cmd.phase = some .running ∧
          (u.cmd? seq).map Cmd.pieces = some pieces ∧ u.sched.kerns = s'.sched.kerns ∧ u.cores = s'.cores) ∧
      (∀ pieces ix e p, s.runCheck seq c = .ok pieces → room pieces → spot ix e p → s.plainCall seq c →
        (∃ t, exec i s = .next t ∧ s.begins t seq c pieces p) ∧
        (∀ tm, s.reels.wanted = [] → s.passItems = [⟨seq, none, tm⟩] → ∃ t, exec .schedulingPass s = .next t ∧ s.begins t seq c pieces p))
    run (.runKernel seq) 0x02 ∧ run (.runGraph seq) 0x03 ∧
    (s.turnOf seq 0x11 = some c → s.heldBack seq c = false →
      (∀ r, s.advanceCheck seq c = .error r → exec (.advanceTakes seq) s = .next (s.refuse seq r)) ∧
      (∀ st, s.advanceCheck seq c = .error (.status st) → ∃ t res, exec (.advanceTakes seq) s = .next t ∧ s.ended t seq c st res) ∧
      (∀ takes, s.advanceCheck seq c = .ok takes → room [] →
        s.placeLayer seq c 0 = (s', true) → ∃ u : State, exec (.advanceTakes seq) s = .next (u.beginWork seq) ∧
          (u.cmd? seq).map Cmd.phase = some .running ∧ (u.cmd? seq).map Cmd.takes = some takes ∧ u.sched.kerns = s'.sched.kerns) ∧
      (∀ takes ix e p, s.advanceCheck seq c = .ok takes → room [] → spot ix e p → s.plainCall seq c →
        s.growOf c = 0 → s.mem.migs = [] → (∀ n, n ∈ takes → (s.take n).state = .idle) →
        ∃ t, exec (.advanceTakes seq) s = .next t ∧ (t.cmd? seq).map (fun d => (d.phase, d.takes, d.steps)) = some (.running, takes, c.steps) ∧
          (t.kern? seq 0).map (fun k => (k.phase, k.cls, k.cores)) = some (.running, c.cls, (s.spotPairs p).map Prod.snd) ∧
          (∀ n, n ∈ takes → (t.take n).state = .advancing ∧ (t.take n).steps = (s.take n).steps ∧ (t.take n).pages = (s.take n).pages) ∧
          t.host = s.host ∧ t.hbm = s.hbm))

/-- The scheduler's events (R317, R331, R332, R338 to R343, R380): each, where its conditions hold, does what its rule says. A pass looks
at every item in order and places a saved kernel again; a hold limit protects; a quantum pre-empts the kernel that has run longest; a
kernel saved gives its cores back and waits to resume, one saved only for a victim waits for its restore (R338, R339); a kernel
restored holds its registers again and runs (R340); one let run at its stage runs (R380); a layer's end frees its kernel, the last
layer's ends the piece, the last piece's the command with OK (R324, R317); the next piece and the next slice begin (R317, R343).
SCHEDULING_PASS, QUANTUM_EXPIRY, SAVE_COMPLETE, RESTORE_COMPLETE, STAGE_DISPATCH, KERNEL_COMPLETE, PIECE_DISPATCH and SLICE_START complete
there. -/
def Obligations.SchedulerEvents : Prop :=
  (∀ (seq : Word) (layer stage : Half) (s : State) (c : Cmd) (k : Kern), s.cmd? seq = some c →
      (s.reels.wanted = [] → exec .schedulingPass s = .next (s.passItems.foldl (fun s x => match x.kern with
        | some l => s.tryResume x.seq l
        | none => s.tryCommand x.seq) s)) ∧
      (∀ t, c.readyAt = some t → c.phase = .waiting → t + s.sched.regs.holdLimit.toNat ≤ s.nowUs →
        exec (.holdLimitExpiry seq) s = .next (s.setCmd seq { c with holding := true })) ∧
      (∀ ix e h, s.turn seq = some c → c.isRun = true ∨ c.isAdvance = true → s.layerKernel c 0 = some (ix, e) → c.cls = 1 →
        c.readyAt.getD s.nowUs + s.sched.regs.quantum.toNat ≤ s.nowUs → s.freeSpot e 1 = none →
        firstBy (fun (a b : Kern) => decide (a.placedUs ≤ b.placedUs))
          (s.sched.kerns.filter (fun (h : Kern) => h.cls == 1 && (h.phase == KernPhase.running || h.phase == KernPhase.staging) &&
            s.wouldFree e 1 h)) = some h →
        h.placedUs + s.sched.regs.quantum.toNat ≤ s.nowUs →
        exec (.quantumExpiry seq) s = .next ((s.preempt h .quantum).bump (.die (dieOf (h.cores.headD 0))) 0x103 1) ∧
        (s.chunkAt h = none → ∃ t, exec (.quantumExpiry seq) s = .next t ∧ t.cores = s.cores ∧
          (t.kern? h.seq h.layer).map (fun j => (j.phase, j.cause, j.preAt, j.cores)) = some (.saving, .quantum, s.nowUs, h.cores))) ∧
      (let u := s.stopEngines k
       s.kern? seq layer.toNat = some k → k.phase = .saving → k.cores.any (fun w => !(s.core w).await.isEmpty) = false →
        (u.kern? seq layer.toNat).isSome = true →
        exec (.saveComplete seq layer) s = .next ((if k.cause = .victim then (u.saveReels k).dropRows k else u).saveKernel k)) ∧
      (∀ k1, s.kern? seq layer.toNat = some k → k.phase = .restoring → s.asleep k = false → s.rowsFree k = true →
        let s' := (s.restoreKernel k).restoreReels k
        s'.kern? seq layer.toNat = some k1 →
        let k' := { k1 with phase := .staging, reachUs := s'.nowUs, forCmd := none }
        exec (.restoreComplete seq layer) s = .next (k'.cores.foldl (fun s w => s.startQueue w) ((s'.setKern k').dispatchStage k'))) ∧
      (s.kern? seq (if c.opcode = 0x03 then stage.toNat else 0) = some k → k.phase = .staging → k.stage = stage.toNat →
        exec (.stageDispatch seq stage) s = .next (s.dispatchStage k)) ∧
      (s.kern? seq layer.toNat = some k → c.opcode = 0x02 → c.sealed = false → c.phase = .running → k.phase = .running →
        s.atBoundary seq = false → s.kernelOver k = true →
        exec (.kernelComplete seq layer) s =
          .next ((((s.finishElems k).countTiles k).setKern { k with phase := .staging }).pieceOver seq c)) ∧
      (c.sealed = true → c.piece + 1 < c.pieces.length → s.writesOut seq = false → s.restsPlaced seq = true →
        s.counterRoom seq (s.pieceCounters seq c (nth c.pieces (c.piece + 1) ⟨[], [], 0xFF⟩)) = true →
        exec (.pieceDispatch seq) s = .next (s.nextPiece seq (c.piece + 1))) ∧
      (let c' := { c with curSlice := c.curSlice + 1 }
       c.sealed = true → c.pieces.length ≤ c.piece + 1 → c.curSlice + 1 < s.sliceCount c → s.writesOut seq = false → s.restsPlaced seq = true →
        c.prefs.all (fun r => r.need != (s.sliceLayers c').headD 0 || r.settled) = true →
        exec (.sliceStart seq) s = .next ((s.setCmd seq c').nextPiece seq 0))) ∧
  (∀ (seq : Word) (s : State) (l tm : Nat) (k : Kern) (p : Spot) (idle : List PassItem), s.reels.wanted = [] →
      s.passItems = idle ++ [⟨seq, some l, tm⟩] → (∀ x, x ∈ idle → x.kern = none ∧ s.tryCommand x.seq = s) → s.kern? seq l = some k →
      k.phase = .saved → s.stopped = false → (spotsOf k.size).find? (fun p => s.spotResumes k p) = some p →
      let pairs := (s.spotPairs p).filter (fun q => k.ranks.contains q.1)
      ∃ t, exec .schedulingPass s = .next t ∧ (∀ q, q ∈ pairs → (t.core q.2).owner = some (k.seq, k.layer)) ∧
        (t.kern? seq l).map (fun j => (j.phase, j.cores, j.ranks)) = some (.restoring, pairs.map Prod.snd, pairs.map Prod.fst)) ∧
  (∀ (seq : Word) (layer stage : Half) (s : State) (c : Cmd) (k : Kern), s.cmd? seq = some c → s.kern? seq layer.toNat = some k →
      (k.phase = .saving → k.cores.any (fun w => !(s.core w).await.isEmpty) = false →
        (∀ w, w ∈ k.cores → (s.core w).queue = [] ∧ (s.core w).elem = none) → s.chunkAt k = none →
        ∃ t, exec (.saveComplete seq layer) s = .next t ∧
          t.sched.regs.preemptCnt = s.sched.regs.preemptCnt + BitVec.ofNat 32 k.cores.length ∧
          (k.cause ≠ .victim → (t.kern? seq layer.toNat).map (fun j => (j.phase, j.cores)) = some (.saved, []) ∧
            ∀ w, w ∈ k.cores → (t.core w).owner = none) ∧
          (k.cause = .victim → (t.kern? seq layer.toNat).map (fun j => (j.phase, j.cores)) = some (.restoring, k.cores))) ∧
      (∀ w r m c0, k.phase = .restoring → k.cores = [w] → k.ranks = [r] → k.saved = [(c0, m)] → c0.hold = .none → c0.queue = [] →
        s.chunkAt k = none → s.stageFree seq c → c.sealed = false →
        ∃ t, exec (.restoreComplete seq layer) s = .next t ∧ t.core w = { c0 with owner := some (seq, k.layer), rank := r } ∧
          (t.kern? seq layer.toNat).map (fun j => (j.phase, j.cores)) = some (.running, [w]) ∧ t.host = s.host) ∧
      (layer.toNat = (if c.opcode = 0x03 then stage.toNat else 0) → k.phase = .staging → k.stage = stage.toNat → c.sealed = false →
        s.atBoundary seq = false → s.asleep k = false → c.gated = [] → c.prefs.any (fun r => r.need == k.stage && !r.settled) = false →
        ∃ t, exec (.stageDispatch seq stage) s = .next t ∧ (t.kern? seq layer.toNat).map Kern.phase = some .running ∧ t.cores = s.cores ∧
          t.mem = s.mem ∧ t.host = s.host) ∧
      (c.isRun = true → c.sealed = false → c.phase = .running → k.phase = .running → s.atBoundary seq = false → s.kernelOver k = true →
        (∀ w, w ∈ k.cores → (s.core w).elem = none) →
        (c.opcode = 0x02 → c.pieces.length ≤ c.piece + 1 → s.sliceCount c ≤ c.curSlice + 1 →
          ∃ t, exec (.kernelComplete seq layer) s = .next t ∧ s.ended t seq c .ok c.runResult) ∧
        (c.opcode = 0x02 → c.piece + 1 < c.pieces.length → ∃ t, exec (.kernelComplete seq layer) s = .next t ∧
          (t.cmd? seq).map (fun d => (d.phase, d.sealed, d.piece)) = some (.running, true, c.piece) ∧
          (t.kern? seq layer.toNat).map Kern.phase = some .staging ∧ t.host = s.host ∧ t.cores = s.cores) ∧
        (c.opcode = 0x03 → (s.sliceLayers c).all (fun l => (c.layersDone ++ [k.layer]).contains l) = false →
          ∃ t, exec (.kernelComplete seq layer) s = .next t ∧ t.kern? seq layer.toNat = none ∧ t.host = s.host ∧
            (t.cmd? seq).map (fun d => (d.layersDone, d.sealed)) = some (c.layersDone ++ [k.layer], false))) ∧
      (c.opcode = 0x02 → layer = 0 → c.sealed = true → c.piece + 1 < c.pieces.length → s.writesOut seq = false → s.restsPlaced seq = true →
        s.counterRoom seq (s.pieceCounters seq c (nth c.pieces (c.piece + 1) ⟨[], [], 0xFF⟩)) = true → s.stageFree seq c →
        s.recordHost c (c.piece + 1) →
        ∃ t, exec (.pieceDispatch seq) s = .next t ∧ (t.cmd? seq).map (fun d => (d.piece, d.sealed, d.replays)) = some (c.piece + 1, false, 0) ∧
          (t.kern? seq 0).map (fun j => (j.phase, j.cores)) = some (.running, k.cores) ∧ (∀ w, w ∈ k.cores → (t.core w).pos = 0) ∧
          (∀ w, w ∉ k.cores → t.core w = s.core w) ∧ t.host = s.host)) ∧
  (∀ (seq : Word) (s : State) (c : Cmd) (l ix : Nat) (e : KernelEnt) (p : Spot), s.cmd? seq = some c → c.opcode = 0x03 → c.phase = .running →
      let c' := { c with curSlice := c.curSlice + 1 }
      c.sealed = true → c.pieces.length ≤ c.piece + 1 → c.curSlice + 1 < s.sliceCount c → s.writesOut seq = false →
      s.sliceLayers c' = [l] → s.layerKernel c' l = some (ix, e) → s.freeSpot e c.cls = some p → (∀ k, k ∈ s.sched.kerns → k.seq ≠ seq) →
      s.stageFree seq c → s.recordHost c 0 →
      ∃ t, exec (.sliceStart seq) s = .next t ∧ (t.cmd? seq).map (fun d => (d.curSlice, d.piece, d.sealed)) = some (c.curSlice + 1, 0, false) ∧
        (t.kern? seq l).map (fun j => (j.phase, j.cores)) = some (.running, (s.spotPairs p).map Prod.snd) ∧
        (∀ q, q ∈ s.spotPairs p → (t.core q.2).owner = some (seq, l)) ∧ t.host = s.host)

/-- Takes (R31, R39, R50 to R57, R62 to R68): FORK_TAKE of a live take, CUT_TAKES of a set that has takes, PRUNE_TAKE of a take
no advance steps, and a root take's registration run as their rules say; so does a count unit's oldest update. FORK_TAKE completes
with OK, each child IDLE with its parent's lists; CUT_TAKES and PRUNE_TAKE free the takes they release, keep the others, and complete
with OK once no count update is left to them; COUNT_UPDATE leaves the page's count as the update says and ends the command whose last
it was (R26). A root take registered (R31): idle, a root, of its set and class, with its seed and pages as its layer names them, in the
lowest free entry; the command counts it and keeps its reference. -/
def Obligations.TakeCommandsRun : Prop :=
  (∀ (seq : Word) (s : State) (c : Cmd) (n : Nat),
      (s.turnOf seq 0x10 = some c → s.takeOf (c.fieldN 24 4) = some n → c.fieldN 28 2 ≠ 0 →
        s.firstOwnBad seq (if c.fieldN 44 8 = 0 then [] else [⟨c.fieldN 44 8, 4 * c.fieldN 28 2, true, 1⟩]) = none →
        exec (.forkTake seq) s = .next (s.forkTake seq c n) ∧
        (65536 < s.liveTakes + c.fieldN 28 2 → ∃ t, exec (.forkTake seq) s = .next t ∧
          s.ended t seq c .pageExhausted (resultOf [(6, 0), (1, 1)]) ∧ s.sameBase t) ∧
        (∀ rsv u kids u', s.liveTakes + c.fieldN 28 2 ≤ 65536 → c.fieldN 44 8 = 0 → s.writesOut seq = false →
          s.listUsed + c.fieldN 28 2 * (s.take n).listBytes ≤ s.sheet 20 4 * 1048576 →
          s.drawPages (c.fieldN 34 1 % 32 + 12) (forkClass (s.take n) c) (c.fieldN 28 2 * c.fieldN 32 2) = some (rsv, u) →
          u.placeChildren (s.take n) (u.takeRef n) c seq (c.fieldN 28 2) 0 rsv = (kids, u') →
          ∃ t, exec (.forkTake seq) s = .next t ∧
            s.ended t seq c .ok (resultOf [(2, kids.headD 0), (2, kids.getLastD 0), (2, c.fieldN 28 2), (2, 0), (4, (s.take n).pages.length)]) ∧
            (∀ k, k ∈ kids → (s.take k).live = false ∧ (t.take k).state = .idle ∧ (t.take k).pages = (s.take n).pages ∧
              (t.take k).reels = (s.take n).reels ∧ (t.take k).parent = BitVec.ofNat 32 (s.takeRef n) ∧ (t.take k).steps = (s.take n).steps) ∧
            (t.take n).live = !bitOf (c.fieldN 35 1) 0)) ∧
      (s.turnOf seq 0x10 = some c → s.takeOf (c.fieldN 24 4) = none ∨ c.fieldN 28 2 = 0 →
        ∃ t, exec (.forkTake seq) s = .next t ∧ s.ended t seq c .zeroExtent []) ∧
      (∀ m, s.turnOf seq 0x12 = some c → c.phase ≠ .running → m ≠ [] → s.setTakes (c.fieldN 24 2 % 4096) = m →
        exec (.cutTakes seq) s = .next (s.cutTakes seq c m) ∧
        (let kept := (ranking (fun t => (s.take t).score) (bitOf (c.fieldN 28 1) 0) m).take (c.fieldN 26 2)
         let gone := m.filter (fun t => !kept.contains t)
         let none_ := gone.all (fun t => (s.take t).pages.isEmpty)
         m.Nodup → c.fieldN 32 8 = 0 ∨ kept = [] → s.writesOut seq = false → ∃ t, exec (.cutTakes seq) s = .next t ∧
           (∀ k, k ∈ gone → (t.take k).live = false) ∧
           (∀ k, k ∈ kept → (t.take k).pages = (s.take k).pages ∧ (t.take k).score = (s.take k).score ∧ (t.take k).live = (s.take k).live) ∧
           (none_ = true → (∃ res, s.ended t seq c .ok res) ∧ t.takes.updQ = s.takes.updQ) ∧
           (none_ = false → (t.cmd? seq).map Cmd.phase = some .running ∧ t.host = s.host ∧
             t.takes.updQ.length = s.takes.updQ.length + (gone.map (fun t => (s.take t).pages.length)).foldl (fun a b => a + b) 0))) ∧
      (s.turnOf seq 0x12 = some c → c.phase ≠ .running → s.setTakes (c.fieldN 24 2 % 4096) = [] →
        ∃ t, exec (.cutTakes seq) s = .next t ∧ s.ended t seq c .zeroExtent []) ∧
      (s.cmd? seq = some c → s.takes.prunes.find? (fun p => p.seq == seq) = none → c.opcode = 0x13 → s.mayDispatch c = true →
        s.pruneBlocked seq c = false → s.takeOf (c.fieldN 24 4) = some n → s.advanceOf n = none →
        exec (.pruneTake seq) s = .next (s.pruneTake seq n false) ∧
        ((s.take n).pages = [] → s.writesOut seq = false → ∃ t, exec (.pruneTake seq) s = .next t ∧ (t.take n).live = false ∧
          s.ended t seq c .ok (resultOf [(4, (s.take n).reserve.length), (1, 0)])) ∧
        ((s.take n).pages ≠ [] → ∃ t, exec (.pruneTake seq) s = .next t ∧ (t.take n).live = false ∧
          (∀ k, k ≠ n → t.take k = s.take k) ∧ (t.cmd? seq).map Cmd.phase = some .running ∧ t.host = s.host ∧
          t.takes.updQ = s.takes.updQ ++ (s.take n).pages.map (fun e => { page := e.key, lg := e.lg, raise := 0, lower := 1, owner := some seq }))) ∧
      (∀ set cls seed pages tokens reels, s.cmd? seq = some c → c.isRun = true → c.phase = .running →
        exec (.rootTakeRegister seq set cls seed pages tokens reels) s = .next (s.registerRoot seq c set cls seed pages tokens reels)) ∧
      (∀ unit, exec (.countUpdate unit) s = .next (s.countUpdate unit.val))) ∧
  (∀ (unit : Fin 8) (s : State) (p : CountUpd) (q : List CountUpd), nextUpdate unit.val s.takes.updQ = some (p, q) →
      (p.owner = none → ∃ t, exec (.countUpdate unit) s = .next t ∧ t.takes.updQ = q ∧ t.takes.takes = s.takes.takes ∧ t.host = s.host ∧
        ∀ k, t.pageCount k = if k = p.page then s.pageCount k + p.raise - p.lower else s.pageCount k) ∧
      (∀ seq c r, p.owner = some seq → s.takes.cuts.find? (fun r => r.seq == seq) = some r → r.left = 1 → s.cmd? seq = some c →
        c.phase ≠ .recorded → s.writesOut seq = false → ∃ t res, exec (.countUpdate unit) s = .next t ∧ s.ended t seq c .ok res)) ∧
  (∀ (seq : Word) (s : State) (c : Cmd) (set : BitVec 12) (cls : Bool) (seed : BitVec 128) (p : RootPage) (pages : List RootPage)
      (tokens : Word) (n : Nat), s.cmd? seq = some c → c.isRun = true → c.phase = .running → s.freeTake = some n →
      pages.find? RootPage.kv = some p → s.tokenOf c ≤ 2 ^ (p.size.toNat + 12) →
      ∃ t, exec (.rootTakeRegister seq set cls seed pages tokens []) s = .next t ∧ (t.take n).state = .idle ∧ (t.take n).root = true ∧
        (t.take n).set = set ∧ (t.take n).cls = b2n cls ∧ (t.take n).seed = leBytes 16 seed.toNat ∧ (t.take n).pages = pages.map rootEnt ∧
        (t.take n).parent = 0xFFFFFFFF ∧ (t.take n).steps = 0 ∧ (t.take n).gen = (s.take n).gen ∧
        (t.cmd? seq).map (fun c => c.areas.roots) = some (c.areas.roots + 1) ∧ t.host = s.host ∧ t.reels = s.reels)

/-- Copy on write (R41 to R46) and page copies: a fault of a page no other take holds is written in place; one of a page whose copy for
the take is under way is held with it; one of a shared page that can have a copy orders it and waits; a copy's end stores what was held
and gives the take its own page, whose count is 1, the shared page's count one less. COW_FAULT and PAGE_COPY_COMPLETE complete there. -/
def Obligations.CopiesOnWrite : Prop :=
  ∀ (n : Half) (s : State),
    (∀ f e, s.takes.faults[n.toNat]? = some f → (s.take f.take).pages.find? (fun e => e.key == f.src) = some e →
      let copied := s.takes.copies.any (fun c => c.take == f.take && c.src == f.src) ||
        s.mem.migs.any (fun m => m.cause == .cow f.take && m.src + 2 ^ 60 == f.src)
      (copied = true → exec (.cowFault n) s = .next ((s.dropFault n.toNat).cowStore f.take e f.offset f.bytes)) ∧
      (copied = false → s.takes.locks.contains f.src = true ∨ s.migrating f.src = true → exec (.cowFault n) s = .next s) ∧
      (copied = false → s.takes.locks.contains f.src = false → s.migrating f.src = false →
        (s.pageCount f.src ≤ 1 → exec (.cowFault n) s =
          .next ((s.dropFault n.toNat).writePlace (e.at_ f.offset) f.bytes false ((s.advanceOf f.take).getD 0xFFFFFFFF#32) 0x26)) ∧
        (s.pageCount f.src ≤ 1 → e.swapped = false → migOf s.mem.migs 0 (e.page + f.offset) = none → (∀ c, (s.chan c).failed = false) →
          ∃ t, exec (.cowFault n) s = .next t ∧ t.hbm.bytes = s.hbm.bytes.writeN (e.page + f.offset) f.bytes ∧
            t.takes = { s.takes with faults := s.takes.faults.eraseIdx n.toNat } ∧ t.host = s.host) ∧
        (∀ b s', 1 < s.pageCount f.src → s.copyDest f = some (b, s') →
          exec (.cowFault n) s = .next ((s'.dropFault n.toNat).orderCopy f b) ∧
          (f.src < 2 ^ 60 → ∃ t, exec (.cowFault n) s = .next t ∧ t.takes.faults = s.takes.faults.eraseIdx n.toNat ∧
            t.takes.locks = s.takes.locks ++ [f.src] ∧ t.hbm.bytes = s.hbm.bytes ∧
            t.takes.copies = s.takes.copies ++ [{ take := f.take, src := f.src, lg := f.lg, dst := b, held := [(f.offset, f.bytes)] }])))) ∧
    (∀ k, s.takes.copies[n.toNat]? = some k →
      let s' := { s with takes := { s.takes with copies := s.takes.copies.eraseIdx n.toNat } }
      exec (.pageCopyComplete n) s = .next ((s'.copyPage k.src k.dst k.lg).settleCopy k.take k.src k.lg k.dst k.held) ∧
      (s.hbm.bytes.wf = true → k.src ≠ k.dst → k.held = [] → (∀ f, f ∈ s.takes.faults → f.take ≠ k.take) →
        (s.take k.take).pages.any (fun e => e.key == k.src) = true →
        ∃ t, exec (.pageCopyComplete n) s = .next t ∧ t.takes.copies = s.takes.copies.eraseIdx n.toNat ∧
          t.takes.locks = s.takes.locks.erase k.src ∧ t.pageCount k.dst = 1 ∧ t.pageCount k.src = s.pageCount k.src - 1 ∧
          (t.take k.take).pages = (s.take k.take).pages.map (fun p => if p.key == k.src then { p with page := k.dst, swapped := false } else p) ∧
          ∀ o, o < 2 ^ k.lg → t.hbm.bytes.read (k.dst + o) = s.hbm.bytes.read (k.src + o)))

/-- Steps and chunks (R48, R60, R98 to R117, R153): the boundary of an advance's step ends the step, its last one the advance with OK,
each take's step counted; a step of a kernel's chunk rounds its deltas and the next one begins; a held chunk whose reels stand in their
rows is dispatched and pins them, one that has none is read from its descriptor; a chunk past its last step folds, its reels RESIDENT
with what the fold makes of them; a batch boundary is asked for and served. STEP_BOUNDARY, CHUNK_DISPATCH, CHUNK_FOLD and
BATCH_STEP_BOUNDARY complete there. -/
def Obligations.StepsAndChunks : Prop :=
  ∀ (seq : Word) (n : Half) (s : State) (c : Cmd) (k : Kern), s.cmd? seq = some c →
    (s.stepKern seq = some k → c.phase = .running → c.sealed = false → s.atBoundary seq = false → s.quiet k = true →
      ((s.chunkAt k).map (fun h => decide (h.steps ≤ h.step))).getD false = false → s.copying c.takes = false →
      (c.isAdvance && s.morePasses c k) = false →
      exec (.stepBoundary seq) s = .next ((s.finishElems k).stepOf seq c k) ∧
      (∀ h, (∀ w, w ∈ k.cores → (s.core w).elem = none) → c.isAdvance = false → k.phase = .running → s.chunkAt k = some h → h.redo = 0 →
        h.masked = false → h.step + 1 < h.steps →
        ∃ t, exec (.stepBoundary seq) s = .next t ∧ (t.chunkAt k).map (fun h => (h.step, h.deltas)) = some (h.step + 1, h.endStep.deltas) ∧
          t.host = s.host ∧ t.cores = s.cores) ∧
      ((∀ w, w ∈ k.cores → (s.core w).elem = none) → c.isAdvance = true → k.phase = .running → s.reels.chunks = [] → s.kv.waits = [] →
        s.takes.scores = [] → s.takes.prunes = [] → s.takes.updQ = [] → s.mem.migs = [] → c.deadlineAt = none → c.fieldN 26 2 ≤ c.steps + 1 →
        c.stepNow = c.takes → c.takes.Nodup → (∀ m, m ∈ c.takes → (s.take m).state = .advancing) →
        ∃ t res, exec (.stepBoundary seq) s = .next t ∧ s.ended t seq c .ok res ∧
          ∀ m, m ∈ c.takes → (t.take m).state = .idle ∧ (t.take m).steps = (s.take m).steps + 1)) ∧
    (c.phase = .running → s.chunkTurn seq c = some k →
      (∀ h, s.reels.chunks.find? (fun h => h.seq == seq && h.layer == k.layer) = some h →
        exec (.chunkDispatch seq) s = .next (s.tryChunk h k.cores) ∧
        (h.copies = [] → s.liveReels ≤ 65536 → h.masked = false → h.again = false → (h.rows k.cores).all (fun q => s.reelReady false q.1 q.2) = true →
          ∃ t, exec (.chunkDispatch seq) s = .next t ∧ (t.chunkAt k).map (fun h => (h.steps, h.reels)) = some (h.steps, h.reels) ∧
            (∀ q, q ∈ h.rows k.cores → (t.reel q.1).state = .pinned ∧ (t.reel q.1).place = some q.2 ∧ (t.reel q.1).v = (s.reel q.1).v) ∧
            t.host = s.host)) ∧
      (∀ a, s.reels.chunks.find? (fun h => h.seq == seq && h.layer == k.layer) = none → s.chunkDesc c k = some a →
        exec (.chunkDispatch seq) s = .next (s.readFor (accOf seq) seq 0 a 32 (fun b s =>
          s.readFor (accOf seq) seq 0 (parseChunk b).list (4 * (parseChunk b).count) (fun lb s =>
            s.newChunk seq c k (parseChunk b) (tabulate (parseChunk b).count (fun i => recField lb (4 * i) 4))))))) ∧
    (∀ h, s.reels.chunks.find? (fun h => h.seq == seq && h.running && decide (h.steps ≤ h.step)) = some h →
      exec (.chunkFold seq) s = .next ((s.foldChunk h false).updCmd seq (fun d => { d with chunkFrom := Tab.del d.chunkFrom h.layer })) ∧
      (h.reels.Nodup → s.reels.owed = [] → (∀ i, i ∈ h.reels → (s.reel i).count ≠ 0) →
        ∃ t, exec (.chunkFold seq) s = .next t ∧ (∀ m, m < h.reels.length →
            t.reel (nth h.reels m 0) = ((s.reel (nth h.reels m 0)).folded h m s.reels.tick c.cls seq h.step).1) ∧
          (∀ j, j ∉ h.reels → t.reel j = s.reel j) ∧ (∀ h', h' ∈ t.reels.chunks → h'.seq ≠ seq ∨ h'.layer ≠ h.layer) ∧ t.host = s.host)) ∧
    (c.phase = .running → c.isAdvance = false → s.kv.waits.find? (fun b => b.seq == seq) = none →
      (s.batchLists c ≠ [] → exec (.batchStepBoundary seq n) s = .next ((s.updCmd seq (fun c => { c with listLen := n.toNat })).askBoundary
        { seq := seq, since := s.nowUs, first := false, list := n.toNat }).serveBoundaries) ∧
      (∀ a l, s.batchLists c = a :: l → inHost a (16 * n.toNat) → s.kv.waits = [] → s.mem.migs = [] → c.gated = [] →
        (∀ p, p ∈ s.kv.seqs → p.2.owner = seq → p.2.state ≠ .preempted) →
        let ents := (entriesOf (s.mem.host.readN (a % 2 ^ 52) (16 * n.toNat)) 16 n.toNat).map parseBatch
        (∀ e, e ∈ ents → e.action = 0 ∧ e.grow = 0 ∧ ∃ i, s.batchSeq seq e = some i ∧ (s.seqEnt i).state = .active) →
        ∃ t, exec (.batchStepBoundary seq n) s = .next t ∧ t.atBoundary seq = false ∧ t.host = s.host ∧ t.cores = s.cores ∧
          ∀ e i, e ∈ ents → s.batchSeq seq e = some i →
            t.seqEnt i = { s.seqEnt i with owner := seq, grown := false }))

/-- Reels between their store, their rows and the shelves (R97, R114): a swap in leaves the reel resident with the image's
values, a swap out leaves it stored with its values in the image, a shelf move leaves it at its new place. Reel commands (R91,
R119 to R127): with live reels in order, EXPORT_REEL writes its record and IMPORT_REEL makes the reel its record names; RESET_REELS
sets every listed reel, its release drops them and its creation makes new ones; each completes with OK and its count. -/
def Obligations.ReelsMove : Prop :=
  (∀ (n : Half) (s : State),
      let r := s.reel n.toNat
      let others := fun (t : State) => ∀ j, j ≠ n.toNat → t.reel j = s.reel j
      (r.state = .swapIn → r.count ≠ 0 → ∃ t, exec (.reelSwapInDone n) s = .next t ∧ (t.reel n.toNat).state = .resident ∧
        (t.reel n.toNat).v = r.imgV ∧ (t.reel n.toNat).c = r.imgC ∧ (t.reel n.toNat).place = r.place ∧ others t) ∧
      (r.state = .swapOut → r.count ≠ 0 → ∃ t, exec (.reelSwapOutDone n) s = .next t ∧ (t.reel n.toNat).state = .stored ∧
        (t.reel n.toNat).place = none ∧ (t.reel n.toNat).imgV = r.v ∧ (t.reel n.toNat).imgC = r.c ∧ others t) ∧
      (∀ p, s.reels.moves.find? (fun m => m.1 == n.toNat) = some (n.toNat, p) → ∃ t, exec (.shelfMoveDone n) s = .next t ∧
        (t.reel n.toNat).place = some p ∧ (t.reel n.toNat).state = r.state ∧ others t)) ∧
  (∀ (seq : Word) (s : State) (c : Cmd) (i : Nat),
      (s.turnOf seq 0x20 = some c → s.reelOf (c.fieldN 24 4) = some i → (s.reel i).state ≠ .pinned → (s.reel i).state ≠ .saved →
        exec (.exportReel seq) s = .next (s.exportReel seq c i) ∧
        ((s.reel i).state = .lost → ∃ t, exec (.exportReel seq) s = .next t ∧ s.ended t seq c .coreFenced []) ∧
        (let r := s.reel i
         let live := r.state == .resident || r.state == .swapOut
         let rec_ := r.record (c.fieldN 24 4) s.fab.id.toNat (bitOf (c.fieldN 28 1) 0) (if live then r.v else r.imgV) (if live then r.c else r.imgC)
         let dest := c.fieldN 32 8
         r.state ≠ .lost → inHost dest rec_.length → dest % 64 = 0 → rec_.length ≤ c.fieldN 40 4 → s.atRest seq c → bitOf (c.fieldN 28 1) 1 = false →
         migOf s.mem.migs 1 (dest % 2 ^ 52) = none →
         ∃ t, exec (.exportReel seq) s = .next t ∧
           s.ended t seq c .ok (resultOf [(4, rec_.length), (4, leNat (rec_.drop (rec_.length - 4))), (8, r.steps.toNat)]) ∧
           t.mem.host = s.mem.host.writeN (dest % 2 ^ 52) rec_ ∧ ∀ j, t.reel j = s.reel j)) ∧
      (∀ b, s.turnOf seq 0x21 = some c → c.fieldN 24 4 = 0xFFFFFFFF → s.reelOf (c.fieldN 24 4) = none →
        let src := c.fieldN 32 8
        let len := c.fieldN 40 4
        s.firstOwnBad seq [⟨src, len, false, 1⟩] = none → s.peerReady (accOf seq) src len = true → s.readVA (accOf seq) src len = .ok b →
        exec (.importReel seq) s = .next (((s.touchVA (accOf seq) src len).usePeers (accOf seq) src len).importReel seq c b) ∧
        (∀ st, recordCheck b len = some st → ∃ t, exec (.importReel seq) s = .next t ∧ s.ended t seq c st []) ∧
        (∀ j at_, recordCheck b len = none → firstFrom (fun j => (s.reel j).state == .free) 65536 0 = some j →
          s.imagePlace (6 * recField b 8 4) = some at_ → s.atRest seq c →
          let r := { importEntry { gen := (s.reel j).gen } b seq at_ with count := 1, soft := true }
          ∃ t, exec (.importReel seq) s = .next t ∧
            s.ended t seq c .ok (resultOf [(4, j + 65536 * r.gen.toNat), (4, r.elements), (8, r.steps.toNat)]) ∧
            (bitOf (c.fieldN 28 1) 0 = false → t.reel j = r ∧ ∀ i, i ≠ j → t.reel i = s.reel i))) ∧
      (let m := c.fieldN 24 2
       let list := c.fieldN 40 8
       ∀ bs l, m ≠ 0 → m ≤ 4096 → s.firstOwnBad seq [⟨list, 4 * m, false, 1⟩] = none → s.peerReady (accOf seq) list (4 * m) = true →
        s.readVA (accOf seq) list (4 * m) = .ok bs → s.listedReels (tabulate m (fun i => recField bs (4 * i) 4)) = some l →
        l.any (fun i => let st := (s.reel i).state; st == .pinned || st == .saved || st == .swapIn || st == .swapOut) = false →
        let u := (s.touchVA (accOf seq) list (4 * m)).usePeers (accOf seq) list (4 * m)
        (s.resetTurn seq false false = some c → c.fieldN 48 8 = 0 →
          let longest := l.foldl (fun m i => max m (u.reel i).elements) 0
          exec (.resetReels seq) s = .next ((l.foldl (fun s i => s.setReel i
            ((s.reel i).resetTo ((List.replicate longest 0).take (s.reel i).elements) (BitVec.ofNat 32 (c.fieldN 36 4)) seq)) u).finish seq .ok
              (resultOf [(2, l.length)])) ∧
          (s.atRest seq c → l.Nodup → ∃ t, exec (.resetReels seq) s = .next t ∧ s.ended t seq c .ok (resultOf [(2, l.length)]) ∧
            (∀ i, i ∈ l → t.reel i =
              (s.reel i).resetTo (List.replicate (s.reel i).elements 0) (BitVec.ofNat 32 (c.fieldN 36 4)) seq) ∧
            ∀ i, i ∉ l → t.reel i = s.reel i)) ∧
        (s.resetTurn seq false true = some c →
          exec (.resetReelsRelease seq) s = .next ((l.foldl (fun s i => s.dropSoft i) u).finish seq .ok (resultOf [(2, l.length)])) ∧
          (s.atRest seq c → ∃ t, exec (.resetReelsRelease seq) s = .next t ∧ s.ended t seq c .ok (resultOf [(2, l.length)]) ∧
            (∀ i, i ∈ l → (t.reel i).soft = false) ∧ ∀ i, i ∉ l → t.reel i = s.reel i))) ∧
      (∀ ids s' v, s.resetTurn seq true false = some c →
        let m := c.fieldN 24 2
        let e := c.fieldN 28 4
        let list := c.fieldN 40 8
        m ≠ 0 → m ≤ 4096 → bitOf (c.fieldN 26 1) 1 = false → e ≠ 0 → e ≤ 16384 → reelFormat (c.fieldN 32 1 % 32) ≠ none → c.fieldN 48 8 = 0 →
        s.firstOwnBad seq [⟨list, 4 * m, true, 1⟩] = none → list ≠ 0 →
        s.createReels seq e (c.fieldN 32 1 % 32) (BitVec.ofNat 32 (c.fieldN 36 4)) (List.replicate e 0) m = some (ids, s') →
        s'.writeVA (accOf seq) list (ids.flatMap (leBytes 4)) false = some v → v.writesOut seq = false →
        exec (.resetReelsCreate seq) s = .next ((v.noteUse list (ids.flatMap (leBytes 4)).length).finish seq .ok (resultOf [(2, m)])) ∧
        (s.atRest seq c → ∃ t, exec (.resetReelsCreate seq) s = .next t ∧ s.ended t seq c .ok (resultOf [(2, m)]) ∧
          ids.length = m ∧ ∀ id, id ∈ ids → (t.reel (id % 65536)).state = .stored ∧ (t.reel (id % 65536)).elements = e ∧
            (t.reel (id % 65536)).count = 1 ∧ (t.reel (id % 65536)).soft = true ∧ (t.reel (id % 65536)).imgV = List.replicate e 0)))

/-! ### The memory manager and HBM (R365 to R415) -/

/-- Migrations (R374 to R378): MIGRATE_HINT refuses a range of zero bytes and one whose pages the pool cannot supply, ends at
once where nothing moves and else runs with its moves under way; below the low mark demotion sets HBM pages moving to host
memory; a copy's end moves the page's bytes, and a swap-out's and every other migration's end then settles it: SWAP_OUT_PAGE_DONE and
MIGRATION_COPY_DONE complete with the page's bytes at their new place, in every list and leaf that named it. The map port
(R371, R372): an operation started while one is under way gives its fields and sets OVERRUN; else its operands are taken, it ends at once with
the first check it fails, waits while a page of its range migrates, or writes its leaves: ALLOC maps the pages drawn, MAP the
given run, UNMAP takes the leaves of the range away, PROTECT and PIN set their bit in them; BUSY then stands until the drain,
which returns the pages an UNMAP took. Nothing but the memory manager changes. -/
def Obligations.PagesMove : Prop :=
  (∀ (seq : Word) (n : Half) (s : State) (c : Cmd) (m : Migration),
      (s.turnOf seq 0x42 = some c →
        (c.fieldN 32 8 = 0 → ∃ t, exec (.migrateHint seq) s = .next t ∧ s.ended t seq c .zeroExtent []) ∧
        (c.fieldN 32 8 ≠ 0 → s.firstOwnBad seq [⟨c.fieldN 24 8, 0, false, 4096⟩] = none →
          let ovr := s.mem.leaves.filter (fun l => decide (l.va < c.fieldN 24 8 + c.fieldN 32 8) && decide (c.fieldN 24 8 < l.va + 2 ^ l.lg))
          let go := ovr.filter (fun l => s.leafMoves l && l.loc != c.fieldN 40 1 % 4)
          let pin := (c.fieldN 40 1).testBit 2
          (s.hintMoves seq c.cls (c.fieldN 40 1 % 4) pin go = none →
            ∃ t, exec (.migrateHint seq) s = .next t ∧ s.ended t seq c .pageExhausted []) ∧
          (go = [] → s.mem.migs.filter (fun m => m.cause == .hint seq) = [] →
            ∃ t skipped, exec (.migrateHint seq) s = .next t ∧ s.ended t seq c .ok (resultOf [(4, 0), (4, skipped)])) ∧
          (∀ u, s.hintMoves seq c.cls (c.fieldN 40 1 % 4) pin go = some u → (u.mem.migs.filter (fun m => m.cause == .hint seq)) ≠ [] →
            ∃ t skipped, exec (.migrateHint seq) s = .next t ∧ t.mem.migs = u.mem.migs ∧
              t.mem.hints = u.mem.hints ++ [⟨seq, (u.mem.migs.filter (fun m => m.cause == .hint seq)).length, 0, skipped⟩] ∧
              (t.cmd? seq).map Cmd.phase = some .running))) ∧
      (s.freeBytes < s.mem.regs.waterLow.toNat * 67108864 → ∃ t l, exec .demotion s = .next t ∧ t.mem.migs = s.mem.migs ++ l ∧
        (∀ k ∈ l, k.cause = .demote ∧ k.srcLoc = 0 ∧ k.dstLoc = 1) ∧ t.mem.leaves.map Leaf.va = s.mem.leaves.map Leaf.va ∧
        t = { s with mem := t.mem }) ∧
      (s.mem.regs.waterLow.toNat * 67108864 ≤ s.freeBytes → exec .demotion s = .next s) ∧
      (s.memOk = true → (∀ i, i < 2 ^ m.lg → m.srcLoc = 0 → Mem.read (s.moveBytes m).mem.host (m.dst + i) = Mem.read s.hbm.bytes (m.src + i)) ∧
        (∀ i, i < 2 ^ m.lg → m.srcLoc ≠ 0 → Mem.read (s.moveBytes m).hbm.bytes (m.dst + i) = Mem.read s.mem.host (m.src + i)) ∧
        (∀ a, (a < m.dst ∨ m.dst + 2 ^ m.lg ≤ a) → Mem.read (s.moveBytes m).mem.host a = Mem.read s.mem.host a ∧
          Mem.read (s.moveBytes m).hbm.bytes a = Mem.read s.hbm.bytes a)) ∧
      (∀ q, s.mem.migs[n.toNat]? = some m → m.cause = .swapOut q → exec (.swapOutPageDone n) s = .next (s.migrated m).serveBoundaries) ∧
      (s.mem.migs[n.toNat]? = some m → (∀ q, m.cause ≠ .swapOut q) → s.mem.regs.mapHeld = false → (s.migrated m).mem.regs.mapHeld = false →
        exec (.migrationCopyDone n) s = .next (s.migrated m).serveBoundaries) ∧
      (let out := fun (i : Instr) => s.mem.migs[n.toNat]? = some m → s.memOk = true → s.mem.regs.mapHeld = false → s.kv.waits = [] →
         m.srcLoc = 0 → m.dstLoc = 1 → m.held = [] → m.owed = [] → Tab.find s.takes.counts m.src ≠ some 0 →
         Tab.find s.takes.counts (m.dst + 2 ^ 60) = none →
         ∃ t, exec i s = .next t ∧ t.mem.migs = s.mem.migs.erase m ∧ t.mem.regs.migCnt = s.mem.regs.migCnt + 1 ∧ t.host = s.host ∧
           (∀ o, o < 2 ^ m.lg → t.mem.host.read (m.dst + o) = s.hbm.bytes.read (m.src + o)) ∧
           (∀ j, (t.take j).pages = (s.take j).pages.map (fun e => if e.key == m.src then { e with page := m.dst, swapped := true } else e)) ∧
           t.mem.leaves.map (fun l => (l.va, l.loc, l.addr)) =
             s.mem.leaves.map (fun l => if l.addr == m.src && l.loc == 0 then (l.va, 1, m.dst) else (l.va, l.loc, l.addr))
       (∀ q, m.cause = .swapOut q → out (.swapOutPageDone n)) ∧ (m.cause = .demote → out (.migrationCopyDone n))) ∧
      (∀ q d h, s.mem.migs[n.toNat]? = some m → m.cause = .hint q → s.mem.regs.mapHeld = false → s.kv.waits = [] →
        s.mem.hints.find? (fun h => h.seq == q) = some h → h.left = 1 → s.cmd? q = some d → d.phase ≠ .recorded →
        ∃ t, exec (.migrationCopyDone n) s = .next t ∧ s.ended t q d .ok (resultOf [(4, h.moved + 1), (4, h.skipped)]))) ∧
  (∀ (count : BitVec 24) (s : State),
      let port := fun (i : Instr) (op : Nat) (does : MapOp → State → State → Prop) => s.barTakes .endC = true →
        let u : State := s.mapRegs (fun m => { m with mapOp := BitVec.ofNat 3 op, mapCount := count })
        let o := u.mapOp
        (s.mem.regs.mapBusy = true → exec i s = .next (u.mapRegs (fun m => { m with overrun := true }))) ∧
        (s.mem.regs.mapBusy = false → ∃ t, exec i s = .next t ∧ t = { s with mem := t.mem } ∧ o.op = op ∧ o.count = count.toNat ∧
          t.mem.regs.mapOp = BitVec.ofNat 3 op ∧ t.mem.regs.mapCount = count ∧
          (∀ r, u.mapCheck o = some r → t.mem.regs.mapBusy = false ∧ t.mem.regs.mapResult = BitVec.ofNat 3 r.code ∧ t.mem.leaves = s.mem.leaves) ∧
          (u.mapCheck o = none → (u.mapMeets o).any Leaf.mig = true →
            t.mem.regs.mapBusy = true ∧ t.mem.regs.mapHeld = true ∧ t.mem.leaves = s.mem.leaves) ∧
          (u.mapCheck o = none → (u.mapMeets o).any Leaf.mig = false → t.mem.regs.mapHeld = false ∧ does o u t))
      let written := fun (t : State) => t.mem.regs.mapBusy = true ∧ t.mem.regs.mapResult = 0
      let inRange := fun (o : MapOp) (l : Leaf) => (s.mapMeets o).any (fun k => k.va == l.va)
      let added := fun (o : MapOp) (t : State) (loc fabric : Nat) (bs : List Nat) (drawn : Option Nat) =>
        ∀ l : Leaf, l ∈ t.mem.leaves ↔ (l ∈ s.mem.leaves ∨ ∃ i b, bs[i]? = some b ∧
          l = { va := o.va + i * 2 ^ o.lg, lg := o.lg, loc := loc, wr := o.entry.testBit 9, pin := o.entry.testBit 10, addr := b
                fabric := fabric, drawn := drawn })
      port (.alloc count) 0 (fun o u t => let cls := fld o.entry 62 2
        (u.drawPages o.lg cls o.count = none → t.mem.regs.mapBusy = false ∧ t.mem.regs.mapResult = 1 ∧ t.mem.leaves = s.mem.leaves) ∧
        (∀ bs u', u.drawPages o.lg cls o.count = some (bs, u') → written t ∧ added o t 0 0 bs (some cls))) ∧
      port (.map count) 1 (fun o _ t => written t ∧
        added o t (fld o.entry 7 2) (fld o.entry 52 12) (tabulate o.count (fun i => o.addr + i * 2 ^ o.lg)) none) ∧
      port (.unmap count) 2 (fun o _ t => written t ∧ t.mem.leaves = s.mem.leaves.filter (fun l => !inRange o l)) ∧
      port (.protect count) 3 (fun o _ t => written t ∧
        t.mem.leaves = s.mem.leaves.map (fun l => if inRange o l then { l with wr := o.entry.testBit 9 } else l)) ∧
      port (.pin count) 4 (fun o _ t => written t ∧
        t.mem.leaves = s.mem.leaves.map (fun l => if inRange o l then { l with pin := o.entry.testBit 10 } else l)) ∧
      (s.mem.regs.mapBusy = true → s.mem.regs.mapHeld = false → ∃ t, exec .mapDrainDone s = .next t ∧ t = { s with mem := t.mem } ∧
        t.mem.regs.mapBusy = false ∧ t.mem.drainTo = [] ∧ (∀ p ∈ s.mem.drainTo, p.1 < 2 ^ 60 → (p.1, 2 ^ p.2) ∉ t.mem.used)) ∧
      (s.mem.regs.mapBusy = false → exec .mapDrainDone s = .next s))

/-- Banks (R386 to R391): a bank no kernel and no shelf slot holds enters retention when idle for its time, and leaves it when
woken; a march test is refused over a held bank, else takes its banks out of retention; its end clears BUSY and says how many
banks failed; the background test's region moves on. Prefetch entries (R380, R381): a REEL entry completes; another completes
with its data staged, unless its kernel is off its cores; a deadline met changes nothing more, one missed takes the entry's alternate
path: its decision is counted, a TAKE entry's take PREEMPTED, a BULK entry with a proxy reads the proxy. BANK_WAKE,
PREFETCH_ENTRY_COMPLETE and PREFETCH_DECISION_POINT complete there. -/
def Obligations.BanksTested : Prop :=
  (∀ (kind : BitVec 2) (unit : Half) (bank : Byte) (ctl : Word) (fails : List SramFail) (failed : Bool) (word : Half) (s : State),
      let b := (kind.toNat, unit.toNat, bank.toNat)
      let m := s.mem.regs
      (m.idleUs ≠ 0 → m.forceWake = false → bankExists b = true → s.bankHeld b = false → s.mem.retained.contains b = false →
        s.mem.marBanks.contains b = false →
        exec (.retentionEntry kind unit bank) s = .next { s with mem := { s.mem with retained := s.mem.retained ++ [b] } }) ∧
      (s.bankHeld b = true → exec (.retentionEntry kind unit bank) s = .next s) ∧
      (exec (.bankWake kind unit bank) s = .next (s.wakeBank b).dispatchStages ∧ (s.wakeBank b).mem.retained.contains b = false ∧
        (s.wakeBank b).mem.leaves = s.mem.leaves) ∧
      ((∀ k, k ∈ s.sched.kerns → k.phase ≠ .staging) → ∃ t, exec (.bankWake kind unit bank) s = .next t ∧
        t.mem = { s.mem with retained := s.mem.retained.filter (fun k => k != b) } ∧ t = { s with mem := t.mem, perf := t.perf }) ∧
      (s.barTakes .endC = true → m.marBusy = false →
        let target := s.marchTarget (fld ctl.toNat 0 2) (fld ctl.toNat 8 2) (fld ctl.toNat 10 3) (fld ctl.toNat 13 5)
        (target = none → ∃ t, exec (.marchTestStart ctl) s = .next t ∧ t.mem.regs.marResult = 2 ∧ t.mem.regs.marBusy = false ∧
          t.mem.marBanks = s.mem.marBanks) ∧
        (∀ l, target = some l → ∃ t, exec (.marchTestStart ctl) s = .next t ∧ t.mem.regs.marBusy = true ∧ t.mem.marBanks = l ∧
          ∀ k ∈ l, t.mem.retained.contains k = false)) ∧
      (s.barTakes .endC = true → m.marBusy = true → ∃ t, exec (.marchTestStart ctl) s = .next t ∧ t.mem.marBanks = s.mem.marBanks ∧
        t.mem.regs.marBusy = true ∧ t.mem.regs.marResult = m.marResult ∧ t.mem.regs.marScope.toNat = fld ctl.toNat 0 2 ∧
        t.mem.regs.marCore.toNat = fld ctl.toNat 13 5 ∧ t = { s with mem := t.mem }) ∧
      (m.marBusy = true → ∃ t, exec (.marchTestDone fails) s = .next t ∧ t.mem.marBanks = [] ∧ t.mem.regs.marBusy = false ∧
        let n := (fails.filter (fun f => s.mem.marBanks.contains (f.kind.toNat, f.unit.toNat, f.bank.toNat))).length
        t.mem.regs.marFails = BitVec.ofNat 16 n ∧ t.mem.regs.marResult = (if n = 0 then 0 else 1)) ∧
      (m.bgEnable = true → ∀ p, s.nextRegion s.mem.bgPos = some p → ∃ t, exec (.bgTestRegion failed word) s = .next t ∧
        t.mem.bgPos = (p + 1) % (19456 * 96) ∧ t.mem.regs.bgRegions = m.bgRegions + 1 ∧ t.mem.regs.bgFail = (m.bgFail || failed))) ∧
  (∀ (seq : Word) (ix : Half) (landed : Word) (s : State) (c : Cmd) (r : PfRun), s.cmd? seq = some c → c.prefs[ix.toNat]? = some r →
      (∀ k, r.done = false → s.kern? seq r.layer = some k →
        (r.kind = 2 → ∃ t, exec (.prefetchEntryComplete seq ix) s = .next t ∧
          ((t.cmd? seq).bind (fun c => c.prefs[ix.toNat]?)) = some { r with done := true } ∧ t = { s with cmds := t.cmds }) ∧
        (r.kind ≠ 2 → k.phase = .saving ∨ k.phase = .saved ∨ k.phase = .restoring → exec (.prefetchEntryComplete seq ix) s = .next s) ∧
        (r.kind ≠ 2 → k.phase ≠ .saving → k.phase ≠ .saved → k.phase ≠ .restoring →
          (s.peerReady (prefAcc r k) r.src r.bytes = true → exec (.prefetchEntryComplete seq ix) s =
            .next ((s.setPref seq ix.toNat (fun r => { r with done := true })).landEntry ix.toNat r k)) ∧
          (∀ w o run, r.kind = 0 → inHost r.src r.bytes → s.staging seq ix.toNat = [] → k.stageCores r = [w] →
            s.xlate (k.accAt w) r.dst true = (.sram o, run) → r.bytes ≤ run →
            ∃ t, exec (.prefetchEntryComplete seq ix) s = .next t ∧ t.host = s.host ∧ t.hbm = s.hbm ∧
              ((t.cmd? seq).bind (fun c => c.prefs[ix.toNat]?)) = some { r with done := true } ∧
              t.mem.sram = s.mem.sram.writeN o (s.mem.host.readN (r.src % 2 ^ 52) r.bytes)))) ∧
      (r.done = true → exec (.prefetchEntryComplete seq ix) s = .next s) ∧
      (r.decided = false → r.deadline ≠ 0 →
        (r.done = true → (s.perturb 5 (clusterOf r.core)).2 = false → exec (.prefetchDecisionPoint seq ix landed) s = .next (s.perturb 5 (clusterOf r.core)).1) ∧
        ((r.done = false ∨ (s.perturb 5 (clusterOf r.core)).2 = true) → exec (.prefetchDecisionPoint seq ix landed) s =
          .next ((s.perturb 5 (clusterOf r.core)).1.takePath seq ix.toNat landed.toNat { r with done := false }) ∧
          ∃ t, exec (.prefetchDecisionPoint seq ix landed) s = .next t ∧
            ((t.cmd? seq).bind (fun c => c.prefs[ix.toNat]?)).map PfRun.decided = some true ∧
            t.mem.regs.pfLate = satAdd s.mem.regs.pfLate 1 ∧ (∀ n, r.kind = 1 → r.take = some n → (t.take n).state = .preempted) ∧
            (∀ q, r.kind = 0 → r.proxy ≠ 0xFFFF → ((s.cmdProg seq).bind (fun p => p.proxies[r.proxy]?)) = some q →
              ((t.cmd? seq).bind (fun c => c.prefs[ix.toNat]?)).map (fun p => (p.src, p.bytes)) = some (q.va, q.bytes)))))

/-- The base dies (R401, R403 to R411, R659): a refresh is only counted, a drained queue is empty with the stored bytes as they
were; a repair request is refused for a row that cannot be repaired or where no spare is left, else a soft repair runs and ends
with its entry, a hard one is noted; the scrub's step marks what it cannot correct and moves on; a failed channel is marked and
reported; a repair record is written for what changed. -/
def Obligations.HbmMaintained : Prop :=
  ∀ (c : ChannelIx) (pc lost : Bool) (ctl : Word) (errs : List (Fin 72 × Byte)) (s : State),
    (s.hbm.trained = true → s.hbm.out.contains c.val = false →
      exec (.hbmRefresh c pc) s = .next (s.bump (.die (dieOfChan c.val)) 0x125 1)) ∧
    (∃ t, exec (.writeBatchDrain c pc) s = .next t ∧ Tab.find t.hbm.writeQ (2 * c.val + b2n pc) = none ∧
      (∀ k, k ≠ 2 * c.val + b2n pc → Tab.find t.hbm.writeQ k = Tab.find s.hbm.writeQ k) ∧
      t = { s with hbm := { s.hbm with writeQ := t.hbm.writeQ } }) ∧
    (let r : RowRemap := ⟨fld ctl.toNat 0 8, fld ctl.toNat 8 1, fld ctl.toNat 9 21⟩
     s.barTakes .endC = true → s.hbm.repBusy = false →
      (s.hbm.rowValid r = false → ∃ t, exec (.softRepair ctl) s = .next t ∧ t.hbm.repResult = 3 ∧ t.hbm.repBusy = false ∧ t = { s with hbm := t.hbm }) ∧
      (s.hbm.rowValid r = false → ∃ t, exec (.hardRepairRequest ctl) s = .next t ∧ t.hbm.repResult = 3 ∧ t.hbm.hardReq = s.hbm.hardReq ∧
        t = { s with hbm := t.hbm }) ∧
      (s.hbm.rowValid r = true → ∃ t, exec (.softRepair ctl) s = .next t ∧ t = { s with hbm := t.hbm } ∧
        (32 ≤ s.hbm.softUsed r.chan r.pc → t.hbm.repResult = 2 ∧ t.hbm.repBusy = false) ∧
        (s.hbm.softUsed r.chan r.pc < 32 → t.hbm.repBusy = true ∧ t.hbm.repTarget = some r)) ∧
      (s.hbm.rowValid r = true → ∃ t, exec (.hardRepairRequest ctl) s = .next t ∧ t = { s with hbm := t.hbm } ∧
        let full := 32 ≤ (s.hbm.hardReq.filter (fun q => q.chan == r.chan)).length ∨
          2 ≤ ((s.hbm.blown ++ s.hbm.hardReq).filter (fun q => q.bank == r.bank)).length
        (full → t.hbm.repResult = 2 ∧ t.hbm.hardReq = s.hbm.hardReq) ∧
        (¬ full → t.hbm.repResult = 1 ∧ t.hbm.hardReq = s.hbm.hardReq ++ [r] ∧ t.hbm.recOwed = true))) ∧
    (∀ r, s.hbm.repTarget = some r → ∃ t, exec .softRepairComplete s = .next t ∧ t.hbm.remaps = s.hbm.remaps ++ [r] ∧ t.hbm.recOwed = true ∧
      (s.hbm.autoQ = [] → t.hbm.repBusy = false ∧ t.hbm.repTarget = none ∧ t.hbm.repResult = 0) ∧ t = { s with hbm := t.hbm }) ∧
    (s.hbm.trained = true → s.hbm.scrubHours ≠ 0 →
      let b := s.hbm.scrubPos
      ∃ t, exec (.scrubStep errs) s = .next t ∧ t.hbm.scrubPos = (if s.hbmBytes / 64 ≤ b + 1 then 0 else b + 1) ∧
        (s.burstPoisoned b = false → burstDecode errs = .poisoned → b ∈ t.hbm.poison) ∧
        (s.burstPoisoned b = false → burstDecode errs = .detected → b ∈ t.hbm.bad) ∧
        (burstDecode errs = .clean → errs = [] → t.hbm.bytes = s.hbm.bytes)) ∧
    (let v := s.chan c.val
     s.hbm.trained = true → v.failed = false → s.hbm.out.contains c.val = false →
      (lost = true ∨ v.recent.length = 16 ∧ s.nowUs ≤ v.recent.getLastD 0 + 1000000) →
      ∃ t, exec (.channelFailed c lost) s = .next t ∧ t.chan c.val = { v with failed := true } ∧ t.hbm.recOwed = true ∧
        (∀ k, k ≠ c.val → t.chan k = s.chan k) ∧ t.flt.inFlight = s.flt.inFlight ++
          [⟨0x16, BitVec.ofNat 16 (subjChan c.val), BitVec.ofNat 16 (subjChan c.val), 0xFFFFFFFF, 0⟩]) ∧
    (s.hbm.recOwed = true → ∃ t, exec .repairRecordWrite s = .next t ∧ t.hbm.recOwed = false ∧
      t.boot.jobs = s.boot.jobs ++ [⟨.repair, 0, s.hbm.repairBody⟩]) ∧
    (s.hbm.recOwed = false → exec .repairRecordWrite s = .next s)

/-! ### DMA engines, mail slots, video ingest (R416 to R479) -/

/-- DMA (R421 to R437): a copy of nothing, of overlapping ranges or with a bad descriptor ends by name, another runs on the
lowest idle channel; a granted channel's descriptor is checked before its first access, waits for a peer's bytes, or moves one
burst: DMA_BURST_GRANT of a run between host addresses copies the burst's bytes and the descriptor goes on by as many; a request line counts one request at each channel it paces; a descriptor whose bursts are all issued leaves its queue
with its slate, its record's place or its command's end; a consumer index beyond the records written is ignored. -/
def Obligations.DmaRuns : Prop :=
  ∀ (seq : Word) (e : EngineIx) (ch : Fin 32) (line : Byte) (value : Word) (s : State) (c : Cmd),
    let runs := fun (i : Instr) (u : State) (n : Nat) (d : DmaDesc) =>
      (∀ st, u.descBad 32 d = some st → ∃ t, exec i s = .next t ∧ s.ended t seq c st []) ∧
      (u.descBad 32 d = none → ∃ t, exec i s = .next t ∧ (t.cmd? seq).map Cmd.phase = some .running ∧
        (Tab.at (t.eng 32).chans n {}).queue = [{ d with checked := true }] ∧ t.host = s.host)
    (∀ n, s.turnOf seq 0x40 = some c → s.idleCopyChan = some n → c.copyDesc = false →
      let src := c.fieldN 24 8
      let dst := c.fieldN 32 8
      let len := c.fieldN 40 8
      (len = 0 → ∃ t, exec (.dmaCopy seq) s = .next t ∧ s.ended t seq c .zeroExtent []) ∧
      (len ≠ 0 → s.firstOwnBad seq [⟨src, len, false, 1⟩, ⟨dst, len, true, 1⟩] = none →
        (src < dst + len → dst < src + len → ∃ t, exec (.dmaCopy seq) s = .next t ∧ s.ended t seq c .shapeOver []) ∧
        (dst + len ≤ src ∨ src + len ≤ dst →
          runs (.dmaCopy seq) s n { seq := seq, src := src, dst := dst, run := len, swap := fld (c.fieldN 48 1) 0 3
                                    crc := fld (c.fieldN 48 1) 3 2, prio := fld (c.fieldN 48 1) 5 2 }))) ∧
    (∀ n bs, s.turnOf seq 0x40 = some c → s.idleCopyChan = some n → c.copyDesc = true →
      let src := c.fieldN 24 8
      s.firstOwnBad seq [⟨src, 128, false, 1⟩] = none → s.peerReady (accOf seq) src 128 = true → s.readVA (accOf seq) src 128 = .ok bs →
      let d := parseDesc seq bs
      let odd := d.sig || d.cq || d.slotted || d.skind || d.dkind || d.reqline != 0
      (odd = true → ∃ t, exec (.dmaCopyDesc seq) s = .next t ∧ s.ended t seq c .shapeOver []) ∧
      (odd = false → runs (.dmaCopyDesc seq) ((s.touchVA (accOf seq) src 128).usePeers (accOf seq) src 128) n d)) ∧
    (∀ aged k h j d, (s.eng e.val).choose (s.readyChans e.val) = some (aged, k, h, j, d) →
      let u := s.setEng e.val ((s.eng e.val).granted ((s.readyChans e.val).map Prod.fst) k d)
      (∀ st, d.checked = false → s.descBad e.val d = some st → exec (.dmaBurstGrant e) s = .next (s.dmaEnd d st)) ∧
      ((d.checked = true ∨ s.descBad e.val d = none) →
        (s.waitsPeer d = true → exec (.dmaBurstGrant e) s = .next (s.askPeers (s.srcAcc d) d.burstSpan.1 d.burstSpan.2)) ∧
        (s.waitsPeer d = false → (aged = false ∨ 32 ≤ e.val) →
          exec (.dmaBurstGrant e) s = .next ((u.perturb 3 e.val).1.burst e.val k j { d with checked := true }))) ∧
      (let n := min (256 - (d.dst + d.off) % 256) (d.run - d.off)
       let bs := s.mem.host.readN (d.src % 2 ^ 52 + d.off) n
       d.checked = true → Tab.at (s.eng e.val).chans k {} = h → d.dims = [] → d.pos = 0 → d.off < d.run → d.swap = 0 → d.core = none →
        d.pref = none → d.skind = false → d.dkind = false → d.relayed = false → d.relay = none → inHost d.src d.run → inHost d.dst d.run →
        migOf s.mem.migs 1 (d.dst % 2 ^ 52 + d.off) = none →
        ∃ t, exec (.dmaBurstGrant e) s = .next t ∧ t.mem.host = s.mem.host.writeN (d.dst % 2 ^ 52 + d.off) bs ∧ t.hbm = s.hbm ∧ t.host = s.host ∧
          (Tab.at (t.eng e.val).chans k {}).queue = h.queue.set j { d.advance n n with acc := crcRun d.acc bs })) ∧
    ((s.eng e.val).choose (s.readyChans e.val) = none → exec (.dmaBurstGrant e) s = .next s) ∧
    (s.lineTrue e.val line.toNat = true → ∃ t, exec (.requestLineAssert e line) s = .next t ∧ t = { s with dma := t.dma } ∧
      ∀ k, let g := Tab.at (s.eng e.val).chans k {}
        (Tab.at (t.eng e.val).chans k {}).queue = g.queue ∧ (Tab.at (t.eng e.val).chans k {}).reqs =
          if g.walking.any (fun (p : Nat × DmaDesc) => decide (p.2.reqline = line.toNat)) then satAdd g.reqs 1 else g.reqs) ∧
    (s.lineTrue e.val line.toNat = false → exec (.requestLineAssert e line) s = .next s) ∧
    (∀ d rest, (Tab.at (s.eng e.val).chans ch.val {}).queue = d :: rest → d.ovr = true → d.pref = none → s.paused d = false →
      s.fab.reqs.any (fun r => r.seq == d.seq && (match r.kind with | .write _ => true | _ => false)) = false →
      (¬ (d.crc = 2 ∧ d.dkind = false) → ¬ (d.crc = 3 ∧ d.skind = false) →
        (∀ q, d.core = none → s.cmd? d.seq = some q → q.phase ≠ .recorded → ∃ t, exec (.dmaDescriptorComplete e ch) s = .next t ∧ s.ended t d.seq q .ok d.copyResult) ∧
        (∀ w, d.core = some w → d.cq = false → d.sig = false → ∃ t, exec (.dmaDescriptorComplete e ch) s = .next t ∧
          (Tab.at (t.eng e.val).chans ch.val {}).queue = rest ∧ t = { s with dma := t.dma }) ∧
        (∀ w i, d.core = some w → d.cq = false → d.sig = true → s.progSlate d.seq d.slate = some i →
          ∃ t, exec (.dmaDescriptorComplete e ch) s = .next t ∧ (∀ j, t.slate j = if j = i then s.slate i + d.add else s.slate j))) ∧
      (∀ bs q, d.core = none → s.cmd? d.seq = some q → q.phase ≠ .recorded → d.crc = 3 → d.skind = false → s.readVA (s.dmaAcc d) (d.src + d.run) 4 = .ok bs →
        leNat bs ≠ d.crcOut → ∃ t, exec (.dmaDescriptorComplete e ch) s = .next t ∧ s.ended t d.seq q .corruptInput d.copyResult)) ∧
    (s.barTakes .fromE = true →
      let g := s.eng e.val
      let v : Half := value.setWidth 16
      ((g.prod - v).toNat ≤ 2 ^ g.log2.toNat → ∃ t, exec (.dmaCqConsWrite e value) s = .next t ∧ t.eng e.val = { g with cons := v } ∧
        (∀ k, k ≠ e.val → t.eng k = s.eng k) ∧ t = { s with dma := t.dma }) ∧
      (2 ^ g.log2.toNat < (g.prod - v).toNat → exec (.dmaCqConsWrite e value) s = .next s))

/-- Mail slots (R438 to R446): a write word that finds room goes behind the bytes already there, END makes them readable as a
packet's last word, one that finds none is dropped whole and counted; a read takes the oldest read word with its tag, or finds
the slot empty; a slot left unread sends one idle event; a flush empties it. -/
def Obligations.MailSlotsPack : Prop :=
  ∀ (m : MailIx) (data : List Byte) (fin : Bool) (s : State),
    let v := s.mailSlot m.val
    let only := fun (t : State) => (∀ k, k ≠ m.val → t.mailSlot k = s.mailSlot k) ∧ t = { s with dma := t.dma, perf := t.perf, out := t.out, video := t.video }
    let held := fun (v : MailSlot) => v.words.flatMap (fun w => w.data.take w.bytes) ++ v.part
    (v.feeds = [] → data ≠ [] → data.length ≤ 16 → ∃ t, exec (.mailSlotWrite m data fin) s = .next t ∧ only t ∧
      (v.needs data.length ≤ v.free →
        (fin = false → held (t.mailSlot m.val) = held v ++ data) ∧
        (fin = true → (t.mailSlot m.val).part = [] ∧ (t.mailSlot m.val).words.getLast?.map MailWord.fin = some true ∧
          (v.part.length < 64 → held (t.mailSlot m.val) = held v ++ data)) ∧
        (v.part.length < 64 → (t.mailSlot m.val).part.length < 64)) ∧
      (v.free < v.needs data.length → held (t.mailSlot m.val) = held v ∧ (t.mailSlot m.val).words = v.words ∧
        (t.mailSlot m.val).overflow = true ∧ (t.mailSlot m.val).loss = true ∧ (t.mailSlot m.val).dropped = satAdd v.dropped data.length)) ∧
    (∀ j rest, v.feeds = j :: rest → exec (.mailSlotWrite m data fin) s = .next (s.feedWord m.val j)) ∧
    (∀ w rest, v.words = w :: rest → ∃ t, exec (.mailSlotRead m) s = .next t ∧ only t ∧ t.out = s.out ++ [.mail (w.data ++ leBytes 8 w.tag.toNat)] ∧
      t.mailSlot m.val = { v with words := rest, tag := w.tag, fired := false }) ∧
    (v.words = [] → ∃ t, exec (.mailSlotRead m) s = .next t ∧ only t ∧
      t.out = s.out ++ [.mail (leBytes 8 v.emptyTag.toNat ++ List.replicate 56 0)] ∧ t.mailSlot m.val = v) ∧
    (v.words ≠ [] → v.idleUs ≠ 0 → v.fired = false → ∃ t, exec (.mailSlotIdle m) s = .next t ∧ only t ∧
      t.mailSlot m.val = { v with idle := true, fired := true }) ∧
    (v.fired = true → exec (.mailSlotIdle m) s = .next s) ∧
    (s.barTakes .fromE = true → ∃ t, exec (.mailSlotFlush m) s = .next t ∧ only t ∧ (t.mailSlot m.val).words = [] ∧
      (t.mailSlot m.val).part = [] ∧ (t.mailSlot m.val).packet = 0 ∧ (t.mailSlot m.val).feeds = v.feeds)

/-- Streams (R454 to R462): OPEN_STREAM refuses a bad descriptor and want of room by name and else opens a context with OK, its
ID and its engine; CLOSE_STREAM closes a live one and reports its counts. A decoded frame is counted, concealed where it is
damaged and delivered or kept; new bitstream bytes and a frame abandoned or hung are dealt with. -/
def Obligations.StreamsDecode : Prop :=
  ∀ (seq blocks : Word) (e : DecIx) (x : StreamIx) (f : DecodedFrame) (s : State) (c : Cmd) (d : List Byte),
    (s.turnOf seq 0x30 = some c →
      let a := c.fieldN 24 8
      s.firstOwnBad seq [⟨a, 256, false, 1⟩] = none → s.peerReady (accOf seq) a 256 = true → s.readVA (accOf seq) a 256 = .ok d →
      let u := (s.touchVA (accOf seq) a 256).usePeers (accOf seq) a 256
      let n := ceilDiv (storeBytes d) (2 ^ picLg)
      let fromRes := min n (u.sheet 148 4 / 2 - u.reserveUsed)
      (streamBad d = true → ∃ t, exec (.openStream seq) s = .next t ∧ s.ended t seq c .shapeOver []) ∧
      (streamBad d = false → (parsePrep (slice d 64 64)).fmt = none →
        ∃ t, exec (.openStream seq) s = .next t ∧ s.ended t seq c .rejectedFormat []) ∧
      (streamBad d = false → (parsePrep (slice d 64 64)).fmt ≠ none →
        ((firstFrom (fun i => (u.ctx i).state == 0) 512 0 = none ∨ u.freeEngine = none) →
          ∃ t, exec (.openStream seq) s = .next t ∧ s.ended t seq c .pageExhausted []) ∧
        (∀ k g, firstFrom (fun i => (u.ctx i).state == 0) 512 0 = some k → u.freeEngine = some g →
          (u.drawPages picLg c.cls (n - fromRes) = none → ∃ t, exec (.openStream seq) s = .next t ∧ s.ended t seq c .pageExhausted []) ∧
          (∀ p, u.drawPages picLg c.cls (n - fromRes) = some p →
            ∃ t r, exec (.openStream seq) s = .next t ∧ t = u.enterStream seq c.cls d k g fromRes (some p) ∧
              (t.ctx k).state = 1 ∧ (t.ctx k).engine = g ∧ (t.ctx k).desc = d ∧ (t.ctx k).gen = (u.ctx k).gen ∧ (t.ctx k).reserve = fromRes ∧
              t.host.cpls = s.host.cpls ++ [r] ∧ r.answers seq c .ok (resultOf [(2, k + 512 * (u.ctx k).gen.toNat), (1, g)]))))) ∧
    (s.turnOf seq 0x31 = some c →
      (s.ctxOf (c.fieldN 24 2) = none → ∃ t, exec (.closeStream seq) s = .next t ∧ s.ended t seq c .zeroExtent []) ∧
      (∀ k, s.ctxOf (c.fieldN 24 2) = some k → ∃ t, exec (.closeStream seq) s = .next t ∧
        s.ended t seq c .ok (resultOf [(4, (s.ctx k).frames.toNat), (4, (s.ctx k).damaged), (8, (s.ctx k).consumed)]) ∧
        t.ctx k = { gen := (s.ctx k).gen + 1 })) ∧
    (let v := s.dec e.val
     let k := v.ctx
     let y := s.ctx k
     let n := f.consumed.toNat
     let u := ((s.countBits n).perturb 4 e.val).1
     (v.busy = false → exec (.frameDecoded e f) s = .next s) ∧
     (v.busy = true → y.state = 1 → y.pos + n ≤ (s.bitstream y).1 →
       (s.bitReady y y.pos n = false → exec (.frameDecoded e f) s = .next (s.askBits y y.pos n)) ∧
       (s.bitReady y y.pos n = true → s.parses y f = false → exec (.frameDecoded e f) s = .next s) ∧
       (s.bitReady y y.pos n = true → s.parses y f = true →
         (∀ pic, y.outcome f = some pic → f.damage = none → f.lost = false →
           (f.shown = true → exec (.frameDecoded e f) s =
             .next ((((u.afterFrame k e.val true f.rap false n).deliverPicture k pic).pastEnd k).enginesNext)) ∧
           (f.shown = false → exec (.frameDecoded e f) s =
             .next ((((u.afterFrame k e.val false f.rap false n).bump .io 0x141 1).pastEnd k).enginesNext))) ∧
         (∀ pic dm, y.outcome f = some pic → pic.damage = some dm → f.shown = true → (f.lost = true ∨ f.damage ≠ none) →
           exec (.frameDecoded e f) s =
             .next (((((u.errorEntry k y.next dm).afterFrame k e.val true f.rap true n).deliverPicture k pic).pastEnd k).enginesNext)) ∧
         (s.video.runs = [] → ∃ t, exec (.frameDecoded e f) s = .next t ∧ (t.dec e.val).frames = v.frames + 1 ∧
           let z := t.ctx k
           z.state = 1 ∧ z.frames = y.frames + 1 ∧ z.damaged = y.damaged + b2n (f.lost || f.damage.isSome || (y.outcome f).isNone) ∧
           z.next = y.next + b2n f.shown ∧ z.pos = y.pos + n ∧ z.consumed = max y.consumed (y.pos + n) ∧
           z.times = (s.nowUs - v.startUs) :: y.times.take 63 ∧
           (∀ pic, y.outcome f = some pic → f.shown = true → z.last = some pic) ∧
           (f.rap = true → y.raps.any (fun r => r.1 == y.next) = false → z.raps = y.raps ++ [(y.next, y.pos)]))))) ∧
    (let y := s.ctx x.val
     let b := s.bitstream y
     let y' := { y with total := if b.2 && decide (b.1 ≤ y.pos) then some y.next else y.total }
     y.state = 1 →
       exec (.bitstreamProducerAdvance x) s = .next (((s.setCtx x.val y').pastEnd x.val).enginesNext) ∧
       (s.video.runs = [] → ∃ t, exec (.bitstreamProducerAdvance x) s = .next t ∧ t.ctx x.val = y' ∧ t.hbm = s.hbm ∧ t.mem = s.mem ∧
         t.host = s.host ∧ t.cmds = s.cmds)) ∧
    (let v := s.dec e.val
     let k := v.ctx
     let y := s.ctx k
     let gaveUp := fun (i : Instr) (told : List Report) => s.video.runs = [] → ∃ t, exec i s = .next t ∧
       (t.dec e.val).frames = v.frames + 1 ∧ t.flt.inFlight = s.flt.inFlight ++ told ∧
       let z := t.ctx k
       z.frames = y.frames + 1 ∧ z.damaged = y.damaged + 1 ∧ z.next = y.next + 1 ∧ z.pos = y.pos ∧
       (∀ p, y.last = some p → z.last = some (p.copyWhole y.next { kind := 7, byte := y.pos, bx := 0, by_ := 0, blocks := blocks.toNat }))
     (v.busy = false → exec (.decodeAbandon e blocks) s = .next s ∧ exec (.decodeHang e blocks) s = .next s) ∧
     (v.busy = true →
       (100000 ≤ s.nowUs - v.startUs → exec (.decodeAbandon e blocks) s = .next (s.abandon e.val blocks.toNat) ∧ gaveUp (.decodeAbandon e blocks) []) ∧
       exec (.decodeHang e blocks) s =
         .next ((s.report 0x19 (subjDec e.val) (subjDec e.val) 0xFFFFFFFF#32 0).abandon e.val blocks.toNat) ∧
       gaveUp (.decodeHang e blocks)
         [⟨0x19, BitVec.ofNat 16 (subjDec e.val), BitVec.ofNat 16 (subjDec e.val), 0xFFFFFFFF#32, 0⟩]))

/-- Samples and the rushes cache (R464 to R469, R473 to R476): a late request is counted and disposed of by its list's policy,
one that is not late stays; a prepared slot settles in order; an insertion of a sample already held is dropped, one with room
enters; a flush and an invalidation discard at once where nothing is being read, else they wait. -/
def Obligations.SamplesSettle : Prop :=
  ∀ (seq : Word) (n : Byte) (slot ix : Half) (s : State) (r : SampleRun),
    ((s.video.runs.filter (fun r => r.seq == seq))[n.toNat]? = some r →
      (∀ q x, r.reqs[slot.toNat]? = some q → r.slots[slot.toNat]? = some x →
        (s.isLate q = false → exec (.sampleDeadline seq n slot) s = .next s) ∧
        (s.isLate q = true → x.prepared = false → q.gone = false → q.late = false → q.ready = false →
          let u := s.countLate seq r.addr slot.toNat q
          ∀ r', u.run? seq r.addr = some r' →
            (r'.policy = 2 → exec (.sampleDeadline seq n slot) s = .next (u.fillRun seq r.addr)) ∧
            (r'.policy ≠ 2 → x.how ≠ .pending → exec (.sampleDeadline seq n slot) s = .next u) ∧
            (r'.policy ≠ 2 → x.how = .pending → exec (.sampleDeadline seq n slot) s = .next ((u.disposeLate r' slot.toNat q).enginesNext))) ∧
        (s.isLate q = true → x.prepared = false → q.gone = false → q.late = false → q.ready = false → s.run? seq r.addr = some r →
          let said := fun (t : State) => exec (.sampleDeadline seq n slot) s = .next t ∧
            t.cmd? seq = (s.cmd? seq).map (fun d => { d.countIngest 14 1 with flags := if r.policy = 1 ∧ x.how = .pending then d.flags ||| 4 else d.flags }) ∧
            (t.ctx (q.stream % 512)).late = min 255 ((s.ctx (q.stream % 512)).late + 1)
          let counted : SampleRun := { r with reqs := r.reqs.set slot.toNat { q with late := true } }
          (r.policy ≠ 2 → x.how ≠ .pending → ∃ t, said t ∧ t.run? seq r.addr = some counted) ∧
          (r.policy = 1 → x.how = .pending → s.ctxOf q.stream = none → ∃ t, said t ∧
            t.run? seq r.addr = some { counted with slots := r.slots.set slot.toNat { x with how := .padded, mask := false, prepared := true } }))) ∧
      (∀ q x, r.reqs[r.settled]? = some q → r.slots[r.settled]? = some x →
        (x.prepared = true → exec (.slotSettle seq n) s = .next (s.settleSlot r x q)) ∧
        (x.prepared = false → exec (.slotSettle seq n) s = .next s) ∧
        (let i := r.settled
         let a := accOf seq
         let at_ := r.addr + 32 + 32 * i
         let m := r.mask + i / 8
         x.prepared = true → r.policy ≠ 2 → inHost r.addr (64 + 32 * i) → inHost m 1 → s.mem.migs = [] → s.memOk = true → (m < r.addr ∨ at_ + 32 ≤ m) →
           ∀ j old bits, s.progSlate seq r.slate = some j → s.readVA a at_ 32 = .ok old → s.readVA a m 1 = .ok bits →
             ∃ t, exec (.slotSettle seq n) s = .next t ∧ t.readVA a at_ 32 = .ok (settledEntry old x q) ∧
               t.readVA a (r.addr + 2) 2 = .ok (leBytes 2 (i + 1)) ∧
               (∃ v, t.readVA a m 1 = .ok [v] ∧ bitOf v.toNat (i % 8) = x.mask ∧ ∀ b, b ≠ i % 8 → bitOf v.toNat b = bitOf (leNat bits) b) ∧
               (∀ y, t.slate y = if y = j then s.slate y + 1 else s.slate y) ∧ (t.run? seq r.addr).map SampleRun.settled = some (i + 1)))) ∧
    (∀ i, s.video.rush.inserts[ix.toNat]? = some i → ∃ t, exec (.rushInsertDone ix) s = .next t ∧ t = { s with video := t.video, perf := t.perf } ∧
      t.video.rush.inserts = s.video.rush.inserts.eraseIdx ix.toNat ∧
      let v := s.video.rush
      let held := v.ents.any (fun k => k.has i.key i.frame i.prep)
      (held = true → t.video.rush.ents = v.ents) ∧
      (held = false → v.used + rushBlocks i.body ≤ s.rushCap →
        t.video.rush.ents = v.ents ++ [⟨i.key, i.frame, i.prep, rushBlocks i.body, i.body, v.tick + 1, 0⟩])) ∧
    (s.barTakes .fromE = true → s.video.rush.busy = none →
      let v := s.video.rush
      let drop := fun (i : Instr) (hit : Nat → Bool) => ∃ t, exec i s = .next t ∧ t = { s with video := t.video } ∧
        t.video.rush.inserts = v.inserts.filter (fun k => !hit k.key) ∧
        (v.ents.any (fun k => k.reading != 0) = false → t.video.rush.busy = none ∧ t.video.rush.ents = v.ents.filter (fun k => !hit k.key) ∧
          t.video.rush.disc = BitVec.ofNat 16 (min (v.ents.filter (fun k => hit k.key)).length 0xFFFF)) ∧
        (v.ents.any (fun k => k.reading != 0) = true → t.video.rush.busy.isSome = true ∧ t.video.rush.ents = v.ents)
      drop .rushFlush (fun _ => true) ∧ drop .rushInval (fun k => k == v.keyReg.toNat))

/-! ### The fabric (R521 to R551) -/

/-- Ports (R522 to R525, R538, R549, R550, R652): training that finds enough lanes brings a port UP at their width, and one that
finds too few leaves it DOWN; a port gone DOWN, disabled, released, retrained or without its cable has the state its rule gives;
a flit in order is taken and acknowledges what it names, one with too many errors or out of order asks for a replay; a HELLO
leaves every trained port; credit lets waiting frames go; windows of violations close after a second. -/
def Obligations.PortsTrain : Prop :=
  ∀ (p : PortIx) (lanes : Byte) (seq ack : BitVec 12) (replay idle : Bool) (errs : Byte) (on : Bool) (s : State),
    let v := s.port p.val
    let st := fun (t : State) => (t.port p.val).state
    (v.state = .training →
      (∀ w, trainWidth lanes.toNat = some w → ∃ t, exec (.portTrained p lanes) s = .next t ∧ st t = .up ∧ (t.port p.val).width = w ∧
        (t.port p.val).txSeq = 0 ∧ (t.port p.val).rxSeq = 0xFFF ∧ (t.port p.val).sent = []) ∧
      (trainWidth lanes.toNat = none → ∃ t, exec (.portTrained p lanes) s = .next t ∧ st t = .down)) ∧
    (v.state ≠ .training → exec (.portTrained p lanes) s = .next s) ∧
    (v.state = .down → v.disable = false → v.present = true → s.role ≠ 2 → 4 ≤ s.boot.stage →
      exec (.portTrainRetry p) s = .next (s.setPort p.val { v with state := .training })) ∧
    (v.state.takes = true → (∃ t, exec (.portDown p) s = .next t ∧ st t = .down ∧ (t.port p.val).sent = [] ∧
        t.fab.cur = s.fab.cur.without p.val ∧ t = s.portDown p.val) ∧
      (∃ t, exec (.cablePresence p false) s = .next t ∧ st t = .down ∧ (t.port p.val).present = false)) ∧
    (∃ t, exec (.cablePresence p true) s = .next t ∧ t.port p.val = { v with present := true }) ∧
    (s.barTakes .fromD = true →
      (v.state ≠ .disabled → ∃ t, exec (.portDisable p true) s = .next t ∧ st t = .disabled ∧ (t.port p.val).disable = true) ∧
      (v.state = .disabled → ∃ t, exec (.portDisable p false) s = .next t ∧ t.port p.val = { v with disable := false, state := .down }) ∧
      (v.state = .quarantined → ∃ t, exec (.portRelease p) s = .next t ∧ st t = .up ∧ (t.port p.val).window = 0) ∧
      (v.state ≠ .quarantined → exec (.portRelease p) s = .next s) ∧
      (v.state.takes = true → ∃ t, exec (.portRetrain p) s = .next t ∧ st t = .training)) ∧
    (s.barTakes .fromD = false → ∃ t, exec (.portDisable p on) s = .next t ∧ t.fab = s.fab) ∧
    (v.state.takes = true →
      (4 < errs.toNat → exec (.flitReceived p seq ack replay idle errs []) s = .next (s.askReplay p.val)) ∧
      (errs = 0 → seq ≠ v.rxSeq + 1 → exec (.flitReceived p seq ack replay idle errs []) s = .next (s.askReplay p.val)) ∧
      (errs.toNat ≤ 4 → seq = v.rxSeq + 1 → ∃ t, exec (.flitReceived p seq ack false idle errs []) s = .next t ∧ (t.port p.val).rxSeq = seq ∧
        (t.port p.val).askAgain = false ∧ t = { s with fab := t.fab, out := t.out, perf := t.perf } ∧
        (v.txq = [[], [], []] → (t.port p.val).sent = ackFlits v.sent ack ∧
          (t.port p.val).corrected = if errs = 0 then v.corrected else satAdd v.corrected 1))) ∧
    (∃ t, exec .helloTimer s = .next t ∧ (∀ q, (s.port q).state.takes = false → t.port q = s.port q) ∧
      t = { s with fab := t.fab, out := t.out, perf := t.perf } ∧ t.fab.state = s.fab.state ∧
      ∀ q, q < 20 → (s.port q).state.takes = true → (s.port q).txq.length = 3 → ∃ fr, t.onWay q fr ∧ fr.type = 0x10 ∧ fr.vc = 2 ∧
        slice fr.payload 0 17 = leBytes 16 s.uid.toNat ++ leBytes 1 q) ∧
    (∀ (h : FrameHdr) (n0 n1 n2 : Half), s.hears p.val 8 h → exec (.credit p h n0 n1 n2) s =
      .next (((s.returnCredit p.val 8 h).updPort p.val (fun v => { v with
        credits := [nth v.credits 0 0 + n0.toNat, nth v.credits 1 0 + n1.toNat, nth v.credits 2 0 + n2.toNat] })).drainPort p.val) ∧
      (v.txq = [[], [], []] → ∃ t, exec (.credit p h n0 n1 n2) s = .next t ∧
        (t.port p.val).credits = [nth v.credits 0 0 + n0.toNat, nth v.credits 1 0 + n1.toNat, nth v.credits 2 0 + n2.toNat] ∧
        (t.port p.val).txq = v.txq ∧ ∀ q, q ≠ p.val → t.port q = s.port q)) ∧
    (∀ t0, v.opened = some t0 →
      (t0 + 1000000 ≤ s.nowUs → exec (.violationWindowClose p) s = .next (s.setPort p.val { v with opened := none, window := 0 })) ∧
      (s.nowUs < t0 + 1000000 → exec (.violationWindowClose p) s = .next s))

/-- Frames taken by the device (R375, R526 to R528, R539 to R543, R548): a read inside the exposed range is answered with its
bytes, a store is written and answered (one to a page that migrates, once it is performed), each outside it is refused with status
3; a response gives its bytes to the waiting request, frees it, or ends its command; a remote slate operation writes the count R354
gives and no other and is answered, a remote wait is answered or held; a cancelled wait is gone; a rejected request and one without
a response in time end their command. -/
def Obligations.FramesServed : Prop :=
  ∀ (p : PortIx) (h : FrameHdr) (data : List Byte) (op : BitVec 4) (v cmp : Word) (stored : Bool) (reason type : Byte) (tag : Half) (s : State),
    let got := fun (ty : Nat) => s.returnCredit p.val ty h
    let a := h.addr.toNat
    let n := 16 * h.len.toNat
    let resp := fun (t : State) (ty flow st : Nat) (pay : List Byte) => ∀ q, s.leads h.src.toNat flow q →
      t.onWay q { type := ty, vc := 1, epar := s.fab.parity, dst := h.src.toNat, src := s.fab.id.toNat, tag := h.tag.toNat, hops := 15
                  flow := flow, status := st, addr := a, payload := pay }
    (s.hears p.val 1 h →
      (s.exposed a n = false → exec (.rdReq p h) s = .next ((got 1).respond 3 0x23 3 h []) ∧
        ∃ t, exec (.rdReq p h) s = .next t ∧ resp t 3 0x23 3 []) ∧
      (∀ bs, s.exposed a n = true → (s.xPaged a false true).1 ≠ .bad → s.readPlace (s.xPaged a false true).1 n = (bs, none) →
        exec (.rdReq p h) s = .next (((got 1).bump .io 0x130 1).respond 3 0x23 0 h bs) ∧
        ∃ t, exec (.rdReq p h) s = .next t ∧ resp t 3 0x23 0 bs ∧ t = { s with fab := t.fab, out := t.out, perf := t.perf }) ∧
      (s.exposed a n = true → (s.xPaged a false true).1 = .bad → exec (.rdReq p h) s = .next ((got 1).respond 3 0x23 2 h []))) ∧
    (s.hears p.val 2 h →
      let bs := frameData h data
      (s.exposed a bs.length = false → exec (.wrReq p h data) s = .next ((got 2).respond 4 0x23 3 h [])) ∧
      (∀ l, s.exposed a bs.length = true → s.leafAt a = some l →
        (l.wr = false → exec (.wrReq p h data) s = .next ((got 2).respond 4 0x23 4 h [])) ∧
        (l.wr = true → (s.xPaged a true true).1 ≠ .bad → s.movingAt (s.xPaged a true true).1 = none →
          exec (.wrReq p h data) s =
            .next ((((got 2).writePlace (s.xPaged a true true).1 bs false 0xFFFFFFFF 0x23).bump .io 0x130 1).respond 4 0x23 0 h []) ∧
          (s.memOk = true → (∀ c, (s.chan c).failed = false) → ∃ t, exec (.wrReq p h data) s = .next t ∧ resp t 4 0x23 0 [] ∧
            (∀ pa, (s.xPaged a true true).1 = .hbm pa → t.hbm.bytes = s.hbm.bytes.writeN pa bs ∧ t.mem = s.mem) ∧
            (∀ b, (s.xPaged a true true).1 = .host b → t.mem.host = s.mem.host.writeN b bs ∧ t.hbm = s.hbm))))) ∧
    (∀ r, s.reqOf h = some r →
      let gone := fun (t : State) => t.fab.reqs = s.fab.reqs.filter (fun q => q.tag != r.tag)
      (∀ b k, s.hears p.val 3 h → r.kind = .read b k →
        (h.status = 0 → ∃ t, exec (.rdRsp p h data) s = .next t ∧
          (∀ i, i < k → Tab.find t.fab.got (r.dst * 2 ^ 40 + b + i) = some (nth (frameData h data) i 0)) ∧ gone t) ∧
        (h.status ≠ 0 → h.status ≠ 1 → exec (.rdRsp p h data) s = .next ((got 3).reqFailed r))) ∧
      (∀ b, s.hears p.val 4 h → r.kind = .write b →
        (h.status = 0 → exec (.wrRsp p h) s = .next (((got 4).reqDone r.tag).writeAnswered r.seq) ∧
          ((s.cmd? r.seq).bind Cmd.ending = none → ∃ t, exec (.wrRsp p h) s = .next t ∧ gone t ∧ t.cmd? r.seq = s.cmd? r.seq ∧ t.mem = s.mem) ∧
          (∀ c st res, s.cmd? r.seq = some c → c.phase ≠ .recorded → c.ending = some (st, res) → ((got 4).reqDone r.tag).writesOut r.seq = false →
            ∃ t, exec (.wrRsp p h) s = .next t ∧ s.ended t r.seq c st res)) ∧
        (h.status ≠ 0 → exec (.wrRsp p h) s = .next ((got 4).reqFailed r) ∧
          (∀ c, s.cmd? r.seq = some c → c.phase ≠ .recorded → ∃ t res, exec (.wrRsp p h) s = .next t ∧ s.ended t r.seq c .deviceFault res))) ∧
      (∀ o who, s.hears p.val 6 h → r.kind = .slate o who →
        (h.status = 0 → exec (.slateRsp p h v stored) s = .next ((got 6).slateAnswer r o who v stored) ∧
          (∀ w xr, who = .core w xr → o ≤ 1 → ∃ t, exec (.slateRsp p h v stored) s = .next t ∧
            t.core w = { (s.core w).setX xr v with hold := .none } ∧ gone t) ∧
          (∀ w xr, who = .core w xr → 2 ≤ o → slateReads o = true → ∃ t, exec (.slateRsp p h v stored) s = .next t ∧
            t.core w = { (s.core w).setX xr v with await := (s.core w).await.erase xr } ∧ gone t) ∧
          (∀ seq c, who = .cmd seq → s.cmd? seq = some c → c.phase ≠ .recorded → ∃ t, exec (.slateRsp p h v stored) s = .next t ∧
            s.ended t seq c .ok (resultOf [(4, (if o ≤ 1 ∨ slateReads o then v else 0).toNat), (1, b2n stored)]))) ∧
        (h.status ≠ 0 → exec (.slateRsp p h v stored) s = .next ((got 6).reqFailed r)))) ∧
    (s.hears p.val 5 h →
      let i := a % 131072
      let w : SlateWait := { slate := i, who := .remote h.src.toNat h.tag.toNat, eq := op.toNat == 1, value := v }
      let back := fun (t : State) (st : Nat) (val : Word) (b : Bool) => ∀ q, s.leads h.src.toNat 0x25 q → ∃ fr, t.onWay q fr ∧ fr.type = 6 ∧
        fr.dst = h.src.toNat ∧ fr.tag = h.tag.toNat ∧ fr.status = st ∧
        (st = 0 → fr.payload = slice (leBytes 4 val.toNat ++ leBytes 1 (b2n b)) 0 16)
      (2 ≤ op.toNat → op.toNat ≤ 7 → ∃ t, exec (.slateReq p h op v cmp) s = .next t ∧
        (∀ j, t.slate j = if j = i then (slateOpOf op.toNat).apply (s.slate j) v cmp else s.slate j) ∧
        back t 0 (if slateReads op.toNat then s.slate i else 0) (op == 5 && s.slate i == cmp)) ∧
      (op.toNat ≤ 1 →
        (w.met (s.slate i) = true → ∃ t, exec (.slateReq p h op v cmp) s = .next t ∧ t.sched = s.sched ∧ back t 0 (s.slate i) false) ∧
        (w.met (s.slate i) = false → s.remoteWaits (slateBank i) < 256 → ∃ t, exec (.slateReq p h op v cmp) s = .next t ∧
          t.sched = { s.sched with waits := s.sched.waits ++ [w] }) ∧
        (w.met (s.slate i) = false → 256 ≤ s.remoteWaits (slateBank i) → ∃ t, exec (.slateReq p h op v cmp) s = .next t ∧ t.sched = s.sched ∧
          back t 5 0 false))) ∧
    (s.hears p.val 7 h → ∃ t, exec (.slateCancel p h) s = .next t ∧
      t.sched.waits = s.sched.waits.filter (fun w => w.who != Waiter.remote h.src.toNat h.tag.toNat) ∧ t.sched.slates = s.sched.slates) ∧
    (∀ r, s.fab.reqs.find? (fun r => r.tag == tag.toNat) = some r →
      let fails := fun (i : Instr) => ∀ c, s.cmd? r.seq = some c → c.phase ≠ .recorded → ∃ t res, exec i s = .next t ∧ s.ended t r.seq c .deviceFault res
      (s.hears p.val 9 h → type = 1 ∨ type = 2 ∨ type = 5 → exec (.reject p h reason tag type) s = .next ((got 9).reqFailed r) ∧
        fails (.reject p h reason tag type)) ∧
      (r.waits = false → r.since + max 1 s.fab.timeout.toNat ≤ s.nowUs → exec (.remoteTimeout tag) s = .next ((s.reqFailed r).sendFault r.dst 0x05) ∧
        fails (.remoteTimeout tag)) ∧
      ((r.waits = true ∨ s.nowUs < r.since + max 1 s.fab.timeout.toNat) → exec (.remoteTimeout tag) s = .next s)) ∧
    (s.hears p.val 9 h → type ≠ 1 → type ≠ 2 → type ≠ 5 → exec (.reject p h reason tag type) s = .next (got 9))

/-- Discovery and tables (R529 to R537, R545 to R547): a HELLO of another domain makes its port FOREIGN, one of the same is
learnt from; the settled election makes the lowest UID coordinator; the coordinator computes new tables, the others stage theirs
and put them in force at COMMIT; discovery that takes too long fails; an old table is retired; reports of faults are tallied at
the coordinator, those of a closed window told to it. -/
def Obligations.FabricDiscovers : Prop :=
  ∀ (p : PortIx) (h : FrameHdr) (d : HelloData) (l : LinkData) (id : BitVec 12) (epoch count : Word) (entries : List RouteData)
    (key : FaultKey) (s : State),
    let got := fun (ty : Nat) => s.returnCredit p.val ty h
    let f := s.fab
    (s.hears p.val 0x10 h → ∃ t, exec (.hello p h d) s = .next t ∧ (t.port p.val).puid = some d.uid ∧ (t.port p.val).pid = d.id ∧
      (d.domain.toNat ≠ s.sheet 152 8 → (t.port p.val).state = .foreign)) ∧
    (f.state = .electing → f.lowestAt + 50000 ≤ s.nowUs →
      (f.lowest = none → exec .electionSettle s = .next s.fabricOfOne ∧ ∃ t, exec .electionSettle s = .next t ∧ t.fab.id = 0 ∧
        t.fab.assigned = true ∧ t.fab.devices = 1 ∧ t.boot.atD = none) ∧
      (∀ u, f.lowest = some u → ∃ t, exec .electionSettle s = .next t ∧ t.fab.state = .mapping ∧ t.fab.coordUid = u ∧
        t.fab.coord = (u == s.uid && s.role == 0))) ∧
    (s.hears p.val 0x11 h →
      (f.coord = true → exec (.linkReport p h l) s = .next ((got 0x11).noteLink l) ∧
        ((∀ i, l.id = some i → ∀ d, d ∈ f.devs → d.id = some i.toNat → d.uid = l.uid) → ∃ t, exec (.linkReport p h l) s = .next t ∧
          (⟨l.uid, l.port.toNat, l.usable, l.partner⟩ : LinkInfo) ∈ t.fab.links ∧ (∃ d, d ∈ t.fab.devs ∧ d.uid = l.uid) ∧
          (t.fab.links ≠ f.links → t.fab.topoDirty = true ∧ t.fab.topoAt = s.nowUs))) ∧
      (f.coord = false → exec (.linkReport p h l) s = .next ((got 0x11).passReport l h.src.toNat) ∧
        (∀ q, f.state ≠ .committed → f.parent = some q → (s.port q).txq.length = 3 → ∃ t fr, exec (.linkReport p h l) s = .next t ∧
          t.onWay q fr ∧ fr.type = 0x11 ∧ fr.src = h.src.toNat ∧ fr.payload = slice (linkBytes l) 0 48))) ∧
    (f.coord = true → f.topoDirty = true → f.topoAt + 1000 ≤ s.nowUs → f.state = .mapping ∨ f.state = .committed →
      ∃ t, exec .routeRecompute s = .next t ∧ t.fab.topoDirty = false ∧ t.fab.assigned = true ∧ t.fab.state = .committed ∧ t.fab.epoch = f.epoch + 1) ∧
    (f.coord = false →
      (s.hears p.val 0x12 h → ∃ t, exec (.assign p h id epoch) s = .next t ∧ t.fab.stagedId = some id ∧ t.fab.staged = ⟨epoch, []⟩ ∧ t.fab.id = f.id) ∧
      (s.hears p.val 0x13 h → ∃ t, exec (.table p h entries) s = .next t ∧ t.fab.staged.epoch = f.staged.epoch ∧ t.fab.cur = f.cur ∧
        t.fab.staged.routes = entries.foldl (fun t e => Tab.put t e.dst.toNat ⟨e.ports, e.dist.toNat, e.valid⟩) f.staged.routes) ∧
      (∀ j, s.hears p.val 0x14 h → h.len ≠ 0 → f.staged.epoch = epoch → f.stagedId = some j → ∃ t, exec (.commit p h epoch) s = .next t ∧
        t.fab.id = j ∧ t.fab.assigned = true ∧ t.fab.coordId = h.src ∧ t.fab.state = .committed ∧ t.fab.epoch = epoch ∧ t.boot.atD = none)) ∧
    (∀ t0, s.boot.atD = some t0 →
      (t0 + 1500000 ≤ s.nowUs → ∃ t, exec .discoveryTimeout s = .next t ∧ t.fab = { f with state := .failed } ∧ t.boot.atD = none) ∧
      (s.nowUs < t0 + 1500000 → exec .discoveryTimeout s = .next s)) ∧
    (f.commitAt + max 1 f.timeout.toNat ≤ s.nowUs → exec .tableRetire s = .next { s with fab := { f with prev := none } }) ∧
    (f.assigned = false ∨ h.dst = f.id → f.coord = true →
      (s.hears p.val 0x15 h → exec (.fault p h key) s = .next ((got 0x15).tallyFault key h.src.toNat) ∧
        (∀ i q, f.tally.find? (fun p => p.2.key == key) = some (i, q) → ∃ t, exec (.fault p h key) s = .next t ∧
          Tab.find t.fab.tally i = some { q with reports := satAdd q.reports 1 } ∧ t.flt = s.flt) ∧
        (f.tally.find? (fun p => p.2.key == key) = none → ∃ t, exec (.fault p h key) s = .next t ∧
          Tab.find t.fab.tally f.tallyHead.toNat = some { key := key, first := h.src, reports := 1, dups := 0 } ∧ t.flt.cnt = s.flt.cnt + 1 ∧
          (Tab.find t.flt.log s.flt.head.toNat).map FltEntry.report =
            some ⟨key.cls, key.subject.setWidth 16, key.subject.setWidth 16, 0xFFFFFFFF, 0⟩)) ∧
      (s.hears p.val 0x16 h → ∃ t, exec (.tally p h key count) s = .next t ∧ t.fab.tally = f.tally.map (fun (q : Nat × Tally) =>
        if q.2.key == key then (q.1, { q.2 with dups := satAdd q.2.dups count.toNat }) else q))) ∧
    (f.assigned = true → h.dst ≠ f.id → h.hops ≠ 0 → s.hears p.val 0x15 { h with dst := f.id } →
      (f.windows.any (fun w => w.key == key) = true → ∃ t, exec (.fault p h key) s = .next t ∧ t.fab.frDup = f.frDup + 1 ∧
        t.fab.windows = f.windows.map (fun w => if w.key == key then { w with count := w.count + 1 } else w)) ∧
      (f.windows.any (fun w => w.key == key) = false → f.windows.length < 256 → ∃ t, exec (.fault p h key) s = .next t ∧
        t.fab.frFwd = f.frFwd + 1 ∧ t.fab.windows = f.windows ++ [⟨key, 0, s.nowUs⟩])) ∧
    (∀ w, f.windows.find? (fun w => w.key == key) = some w → w.since + 100000 ≤ s.nowUs →
      ∃ t, exec (.faultCoalesceClose key) s = .next t ∧ t.fab.windows = f.windows.filter (fun v => v.key != key))

/-! ### Faults, the gaffer, the dailies (R580 to R639) -/

/-- Reports and fences (R304, R347, R619 to R636): the first report of a key is logged, a repeated one counted, one of a unit
out of service suppressed; a fatal one halts issue; a fenced core is recorded and a free standby takes its rank; FENCE_CORE on a
fenced core ends with ZERO_EXTENT, else it fences, or drains first; hangs, lost acknowledgements, links and collisions are
reported; TST_CTL writes take effect on a kind that is not locked. -/
def Obligations.FaultsFence : Prop :=
  ∀ (cls : Byte) (subject cause : Half) (seq epoch : Word) (detail : Dword) (w : CoreIx) (d : DieIx) (k : Fin 6) (value : Word) (s : State),
    let r : Report := ⟨cls, subject, cause, seq, detail⟩
    let run := exec (.faultReport cls subject cause seq detail) s
    let known := s.flt.windows.any (fun w => w.subject == subject && w.cls == cls && w.fepoch == s.fab.epoch)
    let alone := cls ≠ 0x15 ∧ cls ≠ 0x17
    (known = true → alone → ∃ t, run = .next t ∧ t.flt.dup = s.flt.dup + 1 ∧ t.flt.head = s.flt.head ∧ t.flt.cnt = s.flt.cnt ∧ t.host = s.host) ∧
    (known = false → alone → s.unitOut subject = true ∨ s.unitOut cause = true →
      ∃ t, run = .next t ∧ t.flt.supp = s.flt.supp + 1 ∧ t.flt.head = s.flt.head ∧ t.host = s.host) ∧
    (known = false → alone → s.unitOut subject = false → s.unitOut cause = false → s.fab.devices ≤ 1 → r.fences = none → cls ≠ 0x11 → s.flt.irq = false →
      ∃ t, run = .next t ∧ t.flt.head = s.flt.head + 1 ∧ t.flt.cnt = s.flt.cnt + 1 ∧ t.flt.lastClass = cls ∧
        (Tab.find t.flt.log s.flt.head.toNat).map FltEntry.report = some r ∧
        (r.fatal = true → t.flt.fatal = true ∧ t.host.intake = false) ∧ (r.fatal = false → t.host = s.host)) ∧
    (s.kernOn w.val = none → ∀ c : Byte, Tab.find (s.fenceCore w.val c).1.flt.fenced w.val = some c ∧
      (w.val % 17 ≠ 16 → s.isFenced (17 * clusterOf w.val + 16) = false → Tab.has s.flt.standby (clusterOf w.val) = false →
        Tab.find (s.fenceCore w.val c).1.flt.standby (clusterOf w.val) = some (w.val % 17))) ∧
    (∀ v, s.flt.windows.find? (fun w => w.subject == subject && w.cls == cls && w.fepoch == epoch) = some v →
      (s.nowUs < v.since + 100000 → exec (.faultWindowClose subject cls epoch) s = .next s) ∧
      (v.since + 100000 ≤ s.nowUs → v.dups = 0 ∨ s.fab.devices ≤ 1 → exec (.faultWindowClose subject cls epoch) s =
        .next { s with flt := { s.flt with windows := s.flt.windows.filter (fun x => x != v) } })) ∧
    let fenceDone := fun (i : Instr) (q : Word) (c : Cmd) (v : Nat) => v < 544 → s.kernOn v = none →
      s.flt.windows.any (fun x => x.subject == BitVec.ofNat 16 v && x.cls == 0x1B && x.fepoch == s.fab.epoch) = false →
      let n := clusterOf v
      let took := v != 17 * n + 16 && !s.isFenced (17 * n + 16) && !Tab.has s.flt.standby n
      ∃ t, exec i s = .next t ∧ s.ended t q c .ok (resultOf [(1, b2n took), (1, 0), (2, 0)]) ∧ Tab.find t.flt.fenced v = some 0x1B ∧
        (took = true → Tab.find t.flt.standby n = some (v % 17)) ∧ t.flt.cnt = s.flt.cnt + 1
    (∀ c, s.turnOf seq 0x50 = some c →
      let drain := (c.fieldN 26 1).testBit 0
      let i : Instr := if drain then .fenceCoreDrain seq else .fenceCore seq
      (s.isFenced c.fenceTarget = true → ∃ t, exec i s = .next t ∧ s.ended t seq c .zeroExtent []) ∧
      (s.isFenced c.fenceTarget = false → drain = false → exec (.fenceCore seq) s = .next (s.fenceNow seq c.fenceTarget).settleBanks ∧
        fenceDone (.fenceCore seq) seq c c.fenceTarget) ∧
      (s.isFenced c.fenceTarget = false → drain = true → ∃ t, exec (.fenceCoreDrain seq) s = .next t ∧
        t.flt.drains = s.flt.drains ++ [(c.fenceTarget, seq)] ∧ (t.cmd? seq).map Cmd.phase = some .running ∧ t.cores = s.cores)) ∧
    (∀ q c, s.flt.drains.find? (fun d => d.1 == w.val) = some q →
      (s.isFenced w.val = true → s.cmd? q.2 = some c → c.phase ≠ .recorded → ∃ t, exec (.fenceDrainEffect w) s = .next t ∧
        s.ended t q.2 c .zeroExtent []) ∧
      (s.isFenced w.val = false → (s.core w.val).owner.isSome = true → exec (.fenceDrainEffect w) s = .next s) ∧
      (s.isFenced w.val = false → (s.core w.val).owner = none → exec (.fenceDrainEffect w) s =
        .next (({ s with flt := { s.flt with drains := s.flt.drains.filter (fun e => e != q) } } : State).fenceNow q.2 w.val).settleBanks ∧
        (s.cmd? q.2 = some c → c.phase ≠ .recorded → fenceDone (.fenceDrainEffect w) q.2 c w.val))) ∧
    (let raised := fun (t : State) (r : Report) => t.flt.inFlight = s.flt.inFlight ++ [r]
     let core : Half := BitVec.ofNat 16 (subjCore w.val)
     (∃ t, exec (.coreHang w) s = .next t ∧ raised t ⟨0x13, core, core, s.seqOn w.val, 0⟩ ∧ t = { s with flt := t.flt }) ∧
     (∃ t, exec (.d2dLink d) s = .next t ∧ raised t ⟨0x18, BitVec.ofNat 16 (subjSpine d.val), BitVec.ofNat 16 (subjSpine d.val), 0xFFFFFFFF, 0⟩ ∧
       t = { s with flt := t.flt }) ∧
     (∀ c, s.cmd? seq = some c → c.phase ≠ .recorded →
       (∃ t x, exec (.netNoack subject cause seq detail) s = .next t ∧ raised t ⟨0x17, subject, cause, seq, detail⟩ ∧
         t.host.cpls = s.host.cpls ++ [x] ∧ x.seq = seq ∧ x.status = .deviceFault) ∧
       (∀ (atCluster : Bool) (memory : BitVec 3) (bank a b : Byte), c.phase = .running →
         ∃ t x, exec (.bankCollision w atCluster memory bank a b seq) s = .next t ∧ raised t ⟨0x1A, core, core, seq, 0⟩ ∧
           t.host.cpls = s.host.cpls ++ [x] ∧ x.seq = seq ∧ x.status = .schedCollide))) ∧
    (s.barTakes .fromE = true →
      (s.tstLocked k.val = true → ∃ t, exec (.tstCtlWrite k value) s = .next t ∧ t.flt.tst = s.flt.tst ∧
        t.flt.tstLocked = satAdd s.flt.tstLocked 1 ∧ t = { s with flt := t.flt }) ∧
      (s.tstLocked k.val = false → ∃ t, exec (.tstCtlWrite k value) s = .next t ∧
        t = { s with flt := t.flt, perf := t.perf, freeCtr := t.freeCtr } ∧
        let x := Tab.at t.flt.tst k.val {}
        let old := Tab.at s.settleTst.flt.tst k.val {}
        x.enable = bitOf value.toNat 0 ∧ x.rate = BitVec.ofNat 8 (fld value.toNat 1 8) ∧ x.target = BitVec.ofNat 11 (fld value.toNat 9 11) ∧
        x.amount = BitVec.ofNat 12 (fld value.toNat 20 12) ∧ x.count = old.count ∧
        x.gen = (if bitOf value.toNat 0 then (if s.flt.tstSeed = 0 then 1 else s.flt.tstSeed) else old.gen)))

/-- The gaffer (R600 to R613): the levers keep their ranges at every tick, a power above the cap lowers LA first, a third sample
above 2,100 W and a junction at 105 °C set every lever to its minimum, ten milliseconds of it trip; the cap is clamped; plans
are made when due and put off under a trip; an emergency raises its island by two steps, an island at CEIL still short is
retired and reported. -/
def Obligations.GafferMoves : Prop :=
  ∀ (j hbm inlet outlet : Byte) (hot i : IslandIx) (watts slack : Half) (value : Word) (trials : List IslandTrials) (s : State),
    let g := s.gaf
    let least := fun (t : State) => t.gaf.la = 1 ∧ t.gaf.lv = 1 ∧ t.gaf.lh = 1
    let island := fun (x : Half) => [⟨0x14, x, x, 0xFFFFFFFF, 0⟩]
    (∃ t, exec (.gafferLoopTick j hbm inlet outlet hot) s = .next t ∧ t = { s with gaf := t.gaf, perf := t.perf } ∧
      (1 ≤ g.la.toNat → g.la.toNat ≤ 8 → 1 ≤ g.lv.toNat → g.lv.toNat ≤ 8 → 1 ≤ g.lh.toNat → g.lh.toNat ≤ 4 →
        1 ≤ t.gaf.la.toNat ∧ t.gaf.la.toNat ≤ 8 ∧ 1 ≤ t.gaf.lv.toNat ∧ t.gaf.lv.toNat ≤ 8 ∧ 1 ≤ t.gaf.lh.toNat ∧ t.gaf.lh.toNat ≤ 4) ∧
      (j.toNat < 105 → 1 < g.la.toNat → s.capInForce.toNat < min (meanOf (g.samples.take 10)) 4095 → t.gaf.la = g.la - 1 ∧ t.gaf.lv = g.lv) ∧
      (105 ≤ j.toNat → least t)) ∧
    (∃ t, exec (.powerSample watts) s = .next t ∧ t = { s with gaf := t.gaf, flt := t.flt } ∧
      t.gaf.samples = (watts.toNat :: g.samples).take 1000 ∧ t.gaf.cap = g.cap ∧
      (watts.toNat ≤ 2100 → t.gaf.ovr = 0 ∧ t.gaf.la = g.la ∧ t.gaf.lv = g.lv ∧ t.gaf.lh = g.lh) ∧
      (2100 < watts.toNat → g.ovr = 2 → least t ∧ t.gaf.limiter = 4 ∧ t.gaf.cntOver = satAdd g.cntOver 1)) ∧
    (105 ≤ j.toNat → ∃ t, exec (.junctionTripLimit j hot) s = .next t ∧ least t ∧ t.gaf.limiter = 5 ∧
      t.gaf.trip105 = some (g.trip105.getD s.nowUs) ∧ t = { s with gaf := t.gaf }) ∧
    (∀ t0, g.trip105 = some t0 → g.tripped = false → t0 + 10000 ≤ s.nowUs → ∃ t, exec .thermalTrip s = .next t ∧ t.gaf.tripped = true ∧
      t.gaf.tripTemp = g.junction ∧ t.host.intake = false ∧ t.flt.inFlight = s.flt.inFlight ++
        [⟨0x1D, BitVec.ofNat 16 (subjIsland g.hotIsl.toNat), BitVec.ofNat 16 (subjIsland g.hotIsl.toNat), 0xFFFFFFFF, 0⟩]) ∧
    (s.barTakes .fromA = true → ∃ t, exec (.gafCapWrite value) s = .next t ∧
      t.gaf = { g with cap := BitVec.ofNat 11 (min (max (value.toNat % 2048) 900) 1800) } ∧ t = { s with gaf := t.gaf }) ∧
    let planned := fun (x : Instr) => ∃ t, exec x s = .next t ∧ t = s.replan trials ∧ t.gaf.planAt = s.nowUs ∧ t.gaf.planOwed = false ∧
      (∀ n, n < 1125 → (t.island n).step = if (s.island n).retired then (s.island n).step else
        BitVec.ofNat 8 (replanFrom (planTarget n) (trialsOf trials n) (s.island n).step.toNat (s.island n).slack).1) ∧
      (∀ n, (t.island n).retired = (s.island n).retired) ∧ t.host = s.host ∧ t.flt = s.flt
    (s.mod.good = true → 4 ≤ s.boot.stage → g.planAt + planPeriod ≤ s.nowUs ∨ g.planOwed = true →
      (s.tripOn = true → ∃ t, exec (.replan trials) s = .next t ∧ t.gaf = { g with planOwed := true }) ∧
      (s.tripOn = false → planned (.replan trials))) ∧
    (s.barTakes .fromA = true →
      (s.tripOn = true → ∃ t, exec (.replanNow trials) s = .next t ∧ t.gaf = { g with planOwed := true, planAt := s.nowUs }) ∧
      (s.tripOn = false → planned (.replanNow trials))) ∧
    (slack.toInt < slackFloor i.val → ∃ t, exec (.slackEmergency i slack) s = .next t ∧ t = { s with gaf := t.gaf, perf := t.perf } ∧
      (t.island i.val).slack = slack ∧ (∀ n, n ≠ i.val → t.island n = s.island n) ∧
      (i.val ≠ 1125 → (t.island i.val).step = BitVec.ofNat 8 (min ((s.island i.val).step.toNat + 2) ceilStep) ∧
        (t.island i.val).emerg = satAdd (s.island i.val).emerg 1 ∧ t.gaf.cntEmerg = satAdd g.cntEmerg 1) ∧
      (i.val = 1125 → (t.island i.val).step = (s.island i.val).step)) ∧
    (slackFloor i.val ≤ slack.toInt → exec (.slackEmergency i slack) s = .next s) ∧
    (i.val ≠ 1125 → (s.island i.val).retired = false → ceilStep ≤ (s.island i.val).step.toNat → ∃ t, exec (.islandRetire i) s = .next t ∧
      (t.island i.val).retired = true ∧ (t.island i.val).step = 40 ∧ (∀ n, n ≠ i.val → t.island n = s.island n) ∧
      t.gaf.cntRetired = satAdd g.cntRetired 1 ∧ t.flt.inFlight = s.flt.inFlight ++ island (BitVec.ofNat 16 (subjIsland i.val)))

/-- The dailies (R582, R588 to R594): a tick or SNAP issues a token where no record is under way, else it is skipped and
counted; a token first reaches the I/O die; one that first reaches a unit latches every counter of it, and its epoch begins at the I/O
die with the token's number; a record goes to the ring and moves PROD on, or is dropped and counted where the ring is off or full. -/
def Obligations.DailiesRecord : Prop :=
  ∀ (u : Fin 581) (time : Dword) (sweep : Word) (s : State),
    let p := s.perf
    let issues := fun (i : Instr) (snap : Bool) =>
      (p.token = none → exec i s = .next { s with perf := { p with token := some (snap, p.epoch + 1), reached := [], latched := [] } }) ∧
      (p.token.isSome = true → exec i s = .next { s with perf := { p with skip := satAdd p.skip 1, skipped := p.skipped || !snap } })
    (p.period ≠ 0 → 2 ≤ s.boot.stage → issues .perfPeriodTick false) ∧ (p.period = 0 → exec .perfPeriodTick s = .next s) ∧
    (s.barTakes .fromB = true → issues .snap true) ∧
    (∀ x k, p.token = some (x, k) →
      (p.reached.contains u.val = false → u.val = 580 ∨ p.reached.contains 580 = true → ∃ t, exec (.snapshotToken u) s = .next t ∧
        t.perf.reached = p.reached ++ [u.val] ∧ (∀ n ∈ unitCounters u.val, (Tab.find t.perf.latched n).isSome = true) ∧
        (∀ n ∈ unitCounters u.val, eventFits n (p.event n) = true → eventTimed (p.event n) = false → p.event n ≠ 0x175 →
          Tab.find t.perf.latched n =
            some (BitVec.ofNat 64 ((Tab.at p.cnt n 0#48).toNat + 2 ^ 48 * p.event n + 2 ^ 63 * b2n (s.entryValid n)))) ∧
        (u.val = 580 → t.perf.epoch = k) ∧ (u.val ≠ 580 → t.perf.epoch = p.epoch) ∧
        t = { s with perf := t.perf, freeCtr := t.freeCtr, flt := { s.flt with tst := t.flt.tst } }) ∧
      (p.reached.contains u.val = true → exec (.snapshotToken u) s = .next s) ∧
      (u.val ≠ 580 → p.reached.contains 580 = false → exec (.snapshotToken u) s = .next s) ∧
      (581 ≤ p.reached.length → ∃ t, exec (.dumpRecordWrite time sweep) s = .next t ∧ t.perf.token = none ∧ t.perf.reached = [] ∧
        (p.ringEn = false ∨ p.ringSize ≤ (p.prod - p.cons).toNat → t.perf.drop = satAdd p.drop 1 ∧ t.perf.prod = p.prod ∧ t.mem = s.mem) ∧
        (∀ v, p.ringEn = true → (p.prod - p.cons).toNat < p.ringSize →
          s.writeVA {} (p.ringBase.toNat + dumpBytes * (p.prod.toNat % p.ringSize)) (s.dumpRecord x k time sweep) false = some v →
          t.perf.prod = v.perf.prod + 1 ∧ t.mem = v.mem ∧ t.hbm = v.hbm)) ∧
      (p.reached.length < 581 → exec (.dumpRecordWrite time sweep) s = .next s))
end

