-- ==== Sys2Proof/Laws/Access.lean ====
section
/-! SUPPORT. What an access to memory leaves alone: `Access s t` says that `t` has every unit of `s` but the memories, the counters,
the take manager's held stores, the fabric's queues and what was sent. -/

namespace Sys2Proof.Machine

/-- The units an access to memory leaves alone are the same, but for the perturbation block. -/
structure Access (s t : State) : Prop where
  pending : t.pending = s.pending
  host : t.host = s.host
  cmds : t.cmds = s.cmds
  progs : t.progs = s.progs
  sched : t.sched = s.sched
  reels : t.reels = s.reels
  kv : t.kv = s.kv
  cores : t.cores = s.cores
  dma : t.dma = s.dma
  video : t.video = s.video
  boot : t.boot = s.boot
  gaf : t.gaf = s.gaf
  mod : t.mod = s.mod
  nowUs : t.nowUs = s.nowUs
  freeCtr : t.freeCtr = s.freeCtr
  flt_base : t.flt.base = s.flt.base

theorem Access.refl (s : State) : Access s s := ⟨rfl, rfl, rfl, rfl, rfl, rfl, rfl, rfl, rfl, rfl, rfl, rfl, rfl, rfl, rfl, rfl⟩

theorem Access.trans {s t u : State} (h : Access s t) (g : Access t u) : Access s u :=
  ⟨g.pending.trans h.pending, g.host.trans h.host, g.cmds.trans h.cmds, g.progs.trans h.progs, g.sched.trans h.sched, g.reels.trans h.reels, g.kv.trans h.kv, g.cores.trans h.cores, g.dma.trans h.dma, g.video.trans h.video, g.boot.trans h.boot, g.gaf.trans h.gaf, g.mod.trans h.mod, g.nowUs.trans h.nowUs, g.freeCtr.trans h.freeCtr, g.flt_base.trans h.flt_base⟩

/-- The same, of a state given by its fields. -/
def AccessMk (s : State) (pending_ : List Instr) (host_ : HostIf) (cmds_ : Tab Cmd) (progs_ : Tab ProgSlot) (sched_ : Sched) (reels_ : ReelMgr) (kv_ : KvMgr) (cores_ : Tab Core) (dma_ : Dma) (video_ : Video) (boot_ : Boot) (gaf_ : Gaffer) (mod_ : Module) (nowUs_ : Nat) (freeCtr_ : Nat) (flt_ : FaultUnit) : Prop :=
  pending_ = s.pending ∧ host_ = s.host ∧ cmds_ = s.cmds ∧ progs_ = s.progs ∧ sched_ = s.sched ∧ reels_ = s.reels ∧ kv_ = s.kv ∧ cores_ = s.cores ∧ dma_ = s.dma ∧ video_ = s.video ∧ boot_ = s.boot ∧ gaf_ = s.gaf ∧ mod_ = s.mod ∧ nowUs_ = s.nowUs ∧ freeCtr_ = s.freeCtr ∧ flt_.base = s.flt.base

theorem access_mk (s0 : State) {pending_} {host_} {cmds_} {progs_} {sched_} {flt_} {perf_} {mem_} {hbm_} {takes_} {reels_} {kv_} {cores_} {dma_} {video_} {boot_} {fab_} {gaf_} {mod_} {out_} {nowUs_} {freeCtr_} :
    Access s0 (State.mk pending_ host_ cmds_ progs_ sched_ flt_ perf_ mem_ hbm_ takes_ reels_ kv_ cores_ dma_ video_ boot_ fab_ gaf_ mod_ out_ nowUs_ freeCtr_) = AccessMk s0 pending_ host_ cmds_ progs_ sched_ reels_ kv_ cores_ dma_ video_ boot_ gaf_ mod_ nowUs_ freeCtr_ flt_ := by
  refine propext ⟨fun h => ⟨h.pending, h.host, h.cmds, h.progs, h.sched, h.reels, h.kv, h.cores, h.dma, h.video, h.boot, h.gaf, h.mod, h.nowUs, h.freeCtr, h.flt_base⟩, fun h => ?_⟩
  obtain ⟨a0, a1, a2, a3, a4, a5, a6, a7, a8, a9, a10, a11, a12, a13, a14, a15⟩ := h
  exact ⟨a0, a1, a2, a3, a4, a5, a6, a7, a8, a9, a10, a11, a12, a13, a14, a15⟩

theorem accessMk_of {s t : State} {flt_ : FaultUnit} (g : Access s t) (hflt_base : flt_.base = t.flt.base) : AccessMk s t.pending t.host t.cmds t.progs t.sched t.reels t.kv t.cores t.dma t.video t.boot t.gaf t.mod t.nowUs t.freeCtr flt_ :=
  ⟨g.pending, g.host, g.cmds, g.progs, g.sched, g.reels, g.kv, g.cores, g.dma, g.video, g.boot, g.gaf, g.mod, g.nowUs, g.freeCtr, hflt_base.trans g.flt_base⟩

/-- The same, of an optional state that is there. -/
def AccessOpt (s : State) : Option State → Prop
  | some t => Access s t
  | none => True

theorem accessOpt_some {s t : State} (h : Access s t) : AccessOpt s (some t) := h

theorem accessOpt_none (s : State) : AccessOpt s none := trivial

theorem AccessOpt.get {s t : State} {o : Option State} (h : AccessOpt s o) (e : o = some t) : Access s t := by
  subst e
  exact h

theorem AccessOpt.getD {s t : State} {o : Option State} (h : AccessOpt s o) (g : Access s t) : Access s (o.getD t) := by
  cases o with
  | none => exact g
  | some u => exact h

theorem accessOpt_map {α : Type} {s : State} {f : α → State} (h : ∀ a, Access s (f a)) (o : Option α) : AccessOpt s (o.map f) := by
  cases o with
  | none => trivial
  | some a => exact h a

theorem access_ite {s a b : State} {c : Prop} [Decidable c] (h : Access s a) (g : Access s b) : Access s (if c then a else b) := by
  split <;> assumption

theorem accessOpt_ite {s : State} {a b : Option State} {c : Prop} [Decidable c] (h : AccessOpt s a) (g : AccessOpt s b) :
    AccessOpt s (if c then a else b) := by
  split <;> assumption

theorem foldl_access {α : Type} {s t : State} {f : State → α → State} (hf : ∀ u x, Access s u → Access s (f u x)) (l : List α)
    (h : Access s t) : Access s (l.foldl f t) := by
  induction l generalizing t with
  | nil => exact h
  | cons x r ih => exact ih (hf t x h)

theorem State.bump_access {i0 : State} (s : State) (a : At) (ev n : Nat) (hs : Access i0 s) :
    Access i0 (State.bump s a ev n) := by
  unfold State.bump
  with_reducible repeat' (first
    | assumption | dsimp only | simp only [access_mk] | refine accessMk_of ?_ rfl | refine access_ite ?_ ?_ | split)

theorem State.perturb_access {i0 : State} (s : State) (k unit : Nat) (hs : Access i0 s) :
    Access i0 (State.perturb s k unit).1 := by
  rw [State.perturb]
  with_reducible repeat' (first
    | assumption | dsimp only | apply State.bump_access | simp only [access_mk] | refine accessMk_of ?_ rfl | split | intro _)

theorem State.send_access {i0 : State} (s : State) (o : Out) (hs : Access i0 s) :
    Access i0 (State.send s o) := by
  rw [State.send]
  with_reducible repeat' (first
    | assumption | dsimp only | simp only [access_mk] | refine accessMk_of ?_ rfl)

theorem State.setChan_access {i0 : State} (s : State) (c : Nat) (v : HbmChan) (hs : Access i0 s) :
    Access i0 (State.setChan s c v) := by
  rw [State.setChan]
  with_reducible repeat' (first
    | assumption | dsimp only | simp only [access_mk] | refine accessMk_of ?_ rfl)

theorem State.countBurst_access {i0 : State} (s : State) (b : Nat) (wr : Bool) (hs : Access i0 s) :
    Access i0 (State.countBurst s b wr) := by
  rw [State.countBurst]
  with_reducible repeat' (first
    | assumption | dsimp only | apply State.bump_access | apply State.perturb_access | refine kept_snd ?_ (by assumption)
    | refine kept_fst ?_ (by assumption) | simp only [access_mk] | refine accessMk_of ?_ rfl | refine access_ite ?_ ?_ | split)

theorem State.hbmTouched_access {i0 : State} (s : State) (pa n : Nat) (hs : Access i0 s) :
    Access i0 (State.hbmTouched s pa n) := by
  rw [State.hbmTouched]
  with_reducible repeat' (first
    | assumption | dsimp only | apply State.countBurst_access | apply State.setChan_access | apply State.bump_access | simp only [access_mk]
    | refine accessMk_of ?_ rfl | refine foldl_access ?_ _ ?_ | refine access_ite ?_ ?_ | split | intro _)

theorem State.burstWrite_access {i0 : State} (s : State) (b off : Nat) (bs : List Byte) (poisoned : Bool) (hs : Access i0 s) :
    Access i0 (State.burstWrite s b off bs poisoned) := by
  rw [State.burstWrite]
  with_reducible repeat' (first
    | assumption | dsimp only | apply State.countBurst_access | simp only [access_mk] | refine accessMk_of ?_ rfl
   
    | refine access_ite ?_ ?_ | split | intro _)

theorem State.hbmWriteGo_access {i0 : State} (s : State) (y0 : Nat) (y1 : Nat) (y2 : List Byte) (y3 : Bool) (hs : Access i0 s) :
    Access i0 (State.hbmWriteGo s y0 y1 y2 y3) := by
  induction y0 generalizing s y1 y2 with
  | zero => exact hs
  | succ n ih =>
    unfold State.hbmWriteGo
    split
    · exact hs
    · exact ih _ _ _ (State.burstWrite_access _ _ _ _ _ hs)

theorem State.hbmWrite_access {i0 : State} (s : State) (pa : Nat) (bs : List Byte) (poisoned : Bool) (hs : Access i0 s) :
    Access i0 (State.hbmWrite s pa bs poisoned) := by
  rw [State.hbmWrite]
  with_reducible repeat' (first
    | assumption | dsimp only | apply State.hbmWriteGo_access)

theorem State.setPort_access {i0 : State} (s : State) (p : Nat) (v : FabPort) (hs : Access i0 s) :
    Access i0 (State.setPort s p v) := by
  rw [State.setPort]
  with_reducible repeat' (first
    | assumption | dsimp only | simp only [access_mk] | refine accessMk_of ?_ rfl)

theorem State.drainPort_access {i0 : State} (s : State) (p : Nat) (hs : Access i0 s) :
    Access i0 (State.drainPort s p) := by
  rw [State.drainPort]
  with_reducible repeat' (first
    | assumption | dsimp only | apply State.setPort_access | apply State.send_access | apply State.bump_access | simp only [access_mk]
    | refine accessMk_of ?_ rfl | refine foldl_access ?_ _ ?_ | split | intro _)

theorem State.sendOn_access {i0 : State} (s : State) (p : Nat) (f : Frame) (hs : Access i0 s) :
    Access i0 (State.sendOn s p f) := by
  rw [State.sendOn]
  with_reducible repeat' (first
    | assumption | dsimp only | apply State.setPort_access | apply State.drainPort_access | simp only [access_mk]
    | refine accessMk_of ?_ rfl)

theorem State.route?_access {i0 : State} (s : State) (f : Frame) (hs : Access i0 s) :
    AccessOpt i0 (State.route? s f) := by
  rw [State.route?]
  with_reducible repeat' (first
    | assumption | dsimp only | apply State.sendOn_access | refine accessOpt_map ?_ _ | apply accessOpt_some | exact accessOpt_none _
    | simp only [id_eq] | intro _)

theorem State.sendFrame_access {i0 : State} (s : State) (f : Frame) (hs : Access i0 s) :
    Access i0 (State.sendFrame s f) := by
  rw [State.sendFrame]
  with_reducible repeat' (first
    | assumption | dsimp only | apply State.route?_access | apply AccessOpt.getD)

theorem State.request_access {i0 : State} (s : State) (seq : Word) (dst flow type addr : Nat) (payload : List Byte) (kind : ReqKind) (hs : Access i0 s) :
    Access i0 (State.request s seq dst flow type addr payload kind) := by
  unfold State.request
  with_reducible repeat' (first
    | assumption | dsimp only | apply State.bump_access | apply State.sendFrame_access | simp only [access_mk] | refine accessMk_of ?_ rfl
    | simp only [id_eq] | split)

theorem State.peerWrite_access {i0 : State} (s : State) (seq : Word) (flow id ad : Nat) (bs : List Byte) (hs : Access i0 s) :
    Access i0 (State.peerWrite s seq flow id ad bs) := by
  rw [State.peerWrite]
  with_reducible repeat' (first
    | assumption | dsimp only | apply State.request_access | simp only [id_eq] | refine foldl_access ?_ _ ?_ | intro _)

theorem State.peerAsk_access {i0 : State} (s : State) (seq : Word) (flow id ad n : Nat) (hs : Access i0 s) :
    Access i0 (State.peerAsk s seq flow id ad n) := by
  rw [State.peerAsk]
  with_reducible repeat' (first
    | assumption | dsimp only | apply State.request_access | simp only [id_eq] | refine foldl_access ?_ _ ?_ | refine access_ite ?_ ?_ | split
    | intro _)

theorem State.peerUsed_access {i0 : State} (s : State) (id ad n : Nat) (hs : Access i0 s) :
    Access i0 (State.peerUsed s id ad n) := by
  rw [State.peerUsed]
  with_reducible repeat' (first
    | assumption | dsimp only | simp only [access_mk] | refine accessMk_of ?_ rfl | simp only [id_eq] | intro _)

theorem State.holdWrite_access {i0 : State} (s : State) (m : Migration) (off : Nat) (bs : List Byte) (hs : Access i0 s) :
    Access i0 (State.holdWrite s m off bs) := by
  rw [State.holdWrite]
  with_reducible repeat' (first
    | assumption | dsimp only | simp only [access_mk] | refine accessMk_of ?_ rfl | refine access_ite ?_ ?_ | split | intro _)

theorem State.cowStore_access {i0 : State} (s : State) (t : Nat) (e : PageEnt) (o : Nat) (bs : List Byte) (hs : Access i0 s) :
    Access i0 (State.cowStore s t e o bs) := by
  rw [State.cowStore]
  with_reducible repeat' (first
    | assumption | dsimp only | simp only [access_mk] | refine accessMk_of ?_ rfl | refine access_ite ?_ ?_ | split | intro _)

theorem State.writePlace_access {i0 : State} (s : State) (p : Place) (bs : List Byte) (poisoned : Bool) (seq : Word) (flow : Nat) (hs : Access i0 s) :
    Access i0 (State.writePlace s p bs poisoned seq flow) := by
  unfold State.writePlace
  with_reducible repeat' (first
    | assumption | dsimp only | apply State.holdWrite_access | apply State.bump_access | apply State.hbmWrite_access | apply State.send_access
    | apply State.peerWrite_access | apply State.cowStore_access | simp only [access_mk] | refine accessMk_of ?_ rfl
   
    | simp only [id_eq] | refine access_ite ?_ ?_ | split | intro _)

theorem State.writeSpans_access {i0 : State} (s : State) (seq : Word) (flow : Nat) (poisoned : Bool) (y0 : List (Place × Nat × Nat)) (y1 : List Byte) (hs : Access i0 s) :
    Access i0 (State.writeSpans s seq flow poisoned y0 y1) := by
  induction y0 generalizing s seq flow poisoned y1 with
  | nil =>
    simp only [State.writeSpans]
    first | exact hs | exact accessOpt_some hs | exact accessP_some hs | exact keptE_ok hs | trivial
  | cons x r ih =>
    rw [State.writeSpans]
    with_reducible repeat' (first
      | assumption | apply ih | dsimp only | apply State.writePlace_access | split)

theorem State.writeVA_access {i0 : State} (s : State) (a : Acc) (va : Nat) (bs : List Byte) (poisoned : Bool) (hs : Access i0 s) :
    AccessOpt i0 (State.writeVA s a va bs poisoned) := by
  rw [State.writeVA]
  with_reducible repeat' (first
    | assumption | dsimp only | apply State.writeSpans_access | apply accessOpt_some | exact accessOpt_none _ | refine accessOpt_ite ?_ ?_ | split
    | intro _)

theorem State.storeVA_access {i0 : State} (s : State) (a : Acc) (va : Nat) (bs : List Byte) (hs : Access i0 s) :
    Access i0 (State.storeVA s a va bs) := by
  rw [State.storeVA]
  with_reducible repeat' (first
    | assumption | dsimp only | apply State.writeVA_access | apply AccessOpt.getD)

theorem State.askPeers_access {i0 : State} (s : State) (a : Acc) (va n : Nat) (hs : Access i0 s) :
    Access i0 (State.askPeers s a va n) := by
  rw [State.askPeers]
  with_reducible repeat' (first
    | assumption | dsimp only | apply State.peerAsk_access | refine foldl_access ?_ _ ?_ | intro _)

theorem State.usePeers_access {i0 : State} (s : State) (a : Acc) (va n : Nat) (hs : Access i0 s) :
    Access i0 (State.usePeers s a va n) := by
  rw [State.usePeers]
  with_reducible repeat' (first
    | assumption | dsimp only | apply State.peerUsed_access | refine foldl_access ?_ _ ?_ | intro _)

theorem State.noteUse_access {i0 : State} (s : State) (va n : Nat) (hs : Access i0 s) :
    Access i0 (State.noteUse s va n) := by
  rw [State.noteUse]
  with_reducible repeat' (first
    | assumption | dsimp only | simp only [access_mk] | refine accessMk_of ?_ rfl | refine access_ite ?_ ?_ | split | intro _)

theorem State.touchVA_access {i0 : State} (s : State) (a : Acc) (va n : Nat) (hs : Access i0 s) :
    Access i0 (State.touchVA s a va n) := by
  rw [State.touchVA]
  with_reducible repeat' (first
    | assumption | dsimp only | apply State.hbmTouched_access | apply State.noteUse_access | simp only [access_mk]
    | refine accessMk_of ?_ rfl | refine foldl_access ?_ _ ?_ | split | intro _)

end Sys2Proof.Machine
end

