-- ==== Sys2Proof/Laws/State.lean ====
section
/-! SUPPORT. What each update of the state leaves as it was, field by field, and what a read after a write gives. -/

namespace Sys2Proof.Machine

/-! ### setCmd -/

@[simp] theorem State.setCmd_pending (s : State) (q : Word) (c : Cmd) : (s.setCmd q c).pending = s.pending := rfl
@[simp] theorem State.setCmd_host (s : State) (q : Word) (c : Cmd) : (s.setCmd q c).host = s.host := rfl
@[simp] theorem State.setCmd_progs (s : State) (q : Word) (c : Cmd) : (s.setCmd q c).progs = s.progs := rfl
@[simp] theorem State.setCmd_sched (s : State) (q : Word) (c : Cmd) : (s.setCmd q c).sched = s.sched := rfl
@[simp] theorem State.setCmd_flt (s : State) (q : Word) (c : Cmd) : (s.setCmd q c).flt = s.flt := rfl
@[simp] theorem State.setCmd_perf (s : State) (q : Word) (c : Cmd) : (s.setCmd q c).perf = s.perf := rfl
@[simp] theorem State.setCmd_mem (s : State) (q : Word) (c : Cmd) : (s.setCmd q c).mem = s.mem := rfl
@[simp] theorem State.setCmd_hbm (s : State) (q : Word) (c : Cmd) : (s.setCmd q c).hbm = s.hbm := rfl
@[simp] theorem State.setCmd_takes (s : State) (q : Word) (c : Cmd) : (s.setCmd q c).takes = s.takes := rfl
@[simp] theorem State.setCmd_reels (s : State) (q : Word) (c : Cmd) : (s.setCmd q c).reels = s.reels := rfl
@[simp] theorem State.setCmd_kv (s : State) (q : Word) (c : Cmd) : (s.setCmd q c).kv = s.kv := rfl
@[simp] theorem State.setCmd_cores (s : State) (q : Word) (c : Cmd) : (s.setCmd q c).cores = s.cores := rfl
@[simp] theorem State.setCmd_dma (s : State) (q : Word) (c : Cmd) : (s.setCmd q c).dma = s.dma := rfl
@[simp] theorem State.setCmd_video (s : State) (q : Word) (c : Cmd) : (s.setCmd q c).video = s.video := rfl
@[simp] theorem State.setCmd_boot (s : State) (q : Word) (c : Cmd) : (s.setCmd q c).boot = s.boot := rfl
@[simp] theorem State.setCmd_fab (s : State) (q : Word) (c : Cmd) : (s.setCmd q c).fab = s.fab := rfl
@[simp] theorem State.setCmd_gaf (s : State) (q : Word) (c : Cmd) : (s.setCmd q c).gaf = s.gaf := rfl
@[simp] theorem State.setCmd_mod (s : State) (q : Word) (c : Cmd) : (s.setCmd q c).mod = s.mod := rfl
@[simp] theorem State.setCmd_out (s : State) (q : Word) (c : Cmd) : (s.setCmd q c).out = s.out := rfl
@[simp] theorem State.setCmd_nowUs (s : State) (q : Word) (c : Cmd) : (s.setCmd q c).nowUs = s.nowUs := rfl
@[simp] theorem State.setCmd_freeCtr (s : State) (q : Word) (c : Cmd) : (s.setCmd q c).freeCtr = s.freeCtr := rfl

/-! ### setCore -/

@[simp] theorem State.setCore_pending (s : State) (w : Nat) (c : Core) : (s.setCore w c).pending = s.pending := rfl
@[simp] theorem State.setCore_host (s : State) (w : Nat) (c : Core) : (s.setCore w c).host = s.host := rfl
@[simp] theorem State.setCore_cmds (s : State) (w : Nat) (c : Core) : (s.setCore w c).cmds = s.cmds := rfl
@[simp] theorem State.setCore_progs (s : State) (w : Nat) (c : Core) : (s.setCore w c).progs = s.progs := rfl
@[simp] theorem State.setCore_sched (s : State) (w : Nat) (c : Core) : (s.setCore w c).sched = s.sched := rfl
@[simp] theorem State.setCore_flt (s : State) (w : Nat) (c : Core) : (s.setCore w c).flt = s.flt := rfl
@[simp] theorem State.setCore_perf (s : State) (w : Nat) (c : Core) : (s.setCore w c).perf = s.perf := rfl
@[simp] theorem State.setCore_mem (s : State) (w : Nat) (c : Core) : (s.setCore w c).mem = s.mem := rfl
@[simp] theorem State.setCore_hbm (s : State) (w : Nat) (c : Core) : (s.setCore w c).hbm = s.hbm := rfl
@[simp] theorem State.setCore_takes (s : State) (w : Nat) (c : Core) : (s.setCore w c).takes = s.takes := rfl
@[simp] theorem State.setCore_reels (s : State) (w : Nat) (c : Core) : (s.setCore w c).reels = s.reels := rfl
@[simp] theorem State.setCore_kv (s : State) (w : Nat) (c : Core) : (s.setCore w c).kv = s.kv := rfl
@[simp] theorem State.setCore_dma (s : State) (w : Nat) (c : Core) : (s.setCore w c).dma = s.dma := rfl
@[simp] theorem State.setCore_video (s : State) (w : Nat) (c : Core) : (s.setCore w c).video = s.video := rfl
@[simp] theorem State.setCore_boot (s : State) (w : Nat) (c : Core) : (s.setCore w c).boot = s.boot := rfl
@[simp] theorem State.setCore_fab (s : State) (w : Nat) (c : Core) : (s.setCore w c).fab = s.fab := rfl
@[simp] theorem State.setCore_gaf (s : State) (w : Nat) (c : Core) : (s.setCore w c).gaf = s.gaf := rfl
@[simp] theorem State.setCore_mod (s : State) (w : Nat) (c : Core) : (s.setCore w c).mod = s.mod := rfl
@[simp] theorem State.setCore_out (s : State) (w : Nat) (c : Core) : (s.setCore w c).out = s.out := rfl
@[simp] theorem State.setCore_nowUs (s : State) (w : Nat) (c : Core) : (s.setCore w c).nowUs = s.nowUs := rfl
@[simp] theorem State.setCore_freeCtr (s : State) (w : Nat) (c : Core) : (s.setCore w c).freeCtr = s.freeCtr := rfl

/-! ### updCore -/

@[simp] theorem State.updCore_pending (s : State) (w : Nat) (f : Core → Core) : (s.updCore w f).pending = s.pending := rfl
@[simp] theorem State.updCore_host (s : State) (w : Nat) (f : Core → Core) : (s.updCore w f).host = s.host := rfl
@[simp] theorem State.updCore_cmds (s : State) (w : Nat) (f : Core → Core) : (s.updCore w f).cmds = s.cmds := rfl
@[simp] theorem State.updCore_progs (s : State) (w : Nat) (f : Core → Core) : (s.updCore w f).progs = s.progs := rfl
@[simp] theorem State.updCore_sched (s : State) (w : Nat) (f : Core → Core) : (s.updCore w f).sched = s.sched := rfl
@[simp] theorem State.updCore_flt (s : State) (w : Nat) (f : Core → Core) : (s.updCore w f).flt = s.flt := rfl
@[simp] theorem State.updCore_perf (s : State) (w : Nat) (f : Core → Core) : (s.updCore w f).perf = s.perf := rfl
@[simp] theorem State.updCore_mem (s : State) (w : Nat) (f : Core → Core) : (s.updCore w f).mem = s.mem := rfl
@[simp] theorem State.updCore_hbm (s : State) (w : Nat) (f : Core → Core) : (s.updCore w f).hbm = s.hbm := rfl
@[simp] theorem State.updCore_takes (s : State) (w : Nat) (f : Core → Core) : (s.updCore w f).takes = s.takes := rfl
@[simp] theorem State.updCore_reels (s : State) (w : Nat) (f : Core → Core) : (s.updCore w f).reels = s.reels := rfl
@[simp] theorem State.updCore_kv (s : State) (w : Nat) (f : Core → Core) : (s.updCore w f).kv = s.kv := rfl
@[simp] theorem State.updCore_dma (s : State) (w : Nat) (f : Core → Core) : (s.updCore w f).dma = s.dma := rfl
@[simp] theorem State.updCore_video (s : State) (w : Nat) (f : Core → Core) : (s.updCore w f).video = s.video := rfl
@[simp] theorem State.updCore_boot (s : State) (w : Nat) (f : Core → Core) : (s.updCore w f).boot = s.boot := rfl
@[simp] theorem State.updCore_fab (s : State) (w : Nat) (f : Core → Core) : (s.updCore w f).fab = s.fab := rfl
@[simp] theorem State.updCore_gaf (s : State) (w : Nat) (f : Core → Core) : (s.updCore w f).gaf = s.gaf := rfl
@[simp] theorem State.updCore_mod (s : State) (w : Nat) (f : Core → Core) : (s.updCore w f).mod = s.mod := rfl
@[simp] theorem State.updCore_out (s : State) (w : Nat) (f : Core → Core) : (s.updCore w f).out = s.out := rfl
@[simp] theorem State.updCore_nowUs (s : State) (w : Nat) (f : Core → Core) : (s.updCore w f).nowUs = s.nowUs := rfl
@[simp] theorem State.updCore_freeCtr (s : State) (w : Nat) (f : Core → Core) : (s.updCore w f).freeCtr = s.freeCtr := rfl

/-! ### setKern -/

@[simp] theorem State.setKern_pending (s : State) (k : Kern) : (s.setKern k).pending = s.pending := rfl
@[simp] theorem State.setKern_host (s : State) (k : Kern) : (s.setKern k).host = s.host := rfl
@[simp] theorem State.setKern_cmds (s : State) (k : Kern) : (s.setKern k).cmds = s.cmds := rfl
@[simp] theorem State.setKern_progs (s : State) (k : Kern) : (s.setKern k).progs = s.progs := rfl
@[simp] theorem State.setKern_flt (s : State) (k : Kern) : (s.setKern k).flt = s.flt := rfl
@[simp] theorem State.setKern_perf (s : State) (k : Kern) : (s.setKern k).perf = s.perf := rfl
@[simp] theorem State.setKern_mem (s : State) (k : Kern) : (s.setKern k).mem = s.mem := rfl
@[simp] theorem State.setKern_hbm (s : State) (k : Kern) : (s.setKern k).hbm = s.hbm := rfl
@[simp] theorem State.setKern_takes (s : State) (k : Kern) : (s.setKern k).takes = s.takes := rfl
@[simp] theorem State.setKern_reels (s : State) (k : Kern) : (s.setKern k).reels = s.reels := rfl
@[simp] theorem State.setKern_kv (s : State) (k : Kern) : (s.setKern k).kv = s.kv := rfl
@[simp] theorem State.setKern_cores (s : State) (k : Kern) : (s.setKern k).cores = s.cores := rfl
@[simp] theorem State.setKern_dma (s : State) (k : Kern) : (s.setKern k).dma = s.dma := rfl
@[simp] theorem State.setKern_video (s : State) (k : Kern) : (s.setKern k).video = s.video := rfl
@[simp] theorem State.setKern_boot (s : State) (k : Kern) : (s.setKern k).boot = s.boot := rfl
@[simp] theorem State.setKern_fab (s : State) (k : Kern) : (s.setKern k).fab = s.fab := rfl
@[simp] theorem State.setKern_gaf (s : State) (k : Kern) : (s.setKern k).gaf = s.gaf := rfl
@[simp] theorem State.setKern_mod (s : State) (k : Kern) : (s.setKern k).mod = s.mod := rfl
@[simp] theorem State.setKern_out (s : State) (k : Kern) : (s.setKern k).out = s.out := rfl
@[simp] theorem State.setKern_nowUs (s : State) (k : Kern) : (s.setKern k).nowUs = s.nowUs := rfl
@[simp] theorem State.setKern_freeCtr (s : State) (k : Kern) : (s.setKern k).freeCtr = s.freeCtr := rfl

/-! ### report -/

@[simp] theorem State.report_pending (s : State) (cls subject cause : Nat) (q : Word) (d : Nat) : (s.report cls subject cause q d).pending = s.pending := rfl
@[simp] theorem State.report_host (s : State) (cls subject cause : Nat) (q : Word) (d : Nat) : (s.report cls subject cause q d).host = s.host := rfl
@[simp] theorem State.report_cmds (s : State) (cls subject cause : Nat) (q : Word) (d : Nat) : (s.report cls subject cause q d).cmds = s.cmds := rfl
@[simp] theorem State.report_progs (s : State) (cls subject cause : Nat) (q : Word) (d : Nat) : (s.report cls subject cause q d).progs = s.progs := rfl
@[simp] theorem State.report_sched (s : State) (cls subject cause : Nat) (q : Word) (d : Nat) : (s.report cls subject cause q d).sched = s.sched := rfl
@[simp] theorem State.report_perf (s : State) (cls subject cause : Nat) (q : Word) (d : Nat) : (s.report cls subject cause q d).perf = s.perf := rfl
@[simp] theorem State.report_mem (s : State) (cls subject cause : Nat) (q : Word) (d : Nat) : (s.report cls subject cause q d).mem = s.mem := rfl
@[simp] theorem State.report_hbm (s : State) (cls subject cause : Nat) (q : Word) (d : Nat) : (s.report cls subject cause q d).hbm = s.hbm := rfl
@[simp] theorem State.report_takes (s : State) (cls subject cause : Nat) (q : Word) (d : Nat) : (s.report cls subject cause q d).takes = s.takes := rfl
@[simp] theorem State.report_reels (s : State) (cls subject cause : Nat) (q : Word) (d : Nat) : (s.report cls subject cause q d).reels = s.reels := rfl
@[simp] theorem State.report_kv (s : State) (cls subject cause : Nat) (q : Word) (d : Nat) : (s.report cls subject cause q d).kv = s.kv := rfl
@[simp] theorem State.report_cores (s : State) (cls subject cause : Nat) (q : Word) (d : Nat) : (s.report cls subject cause q d).cores = s.cores := rfl
@[simp] theorem State.report_dma (s : State) (cls subject cause : Nat) (q : Word) (d : Nat) : (s.report cls subject cause q d).dma = s.dma := rfl
@[simp] theorem State.report_video (s : State) (cls subject cause : Nat) (q : Word) (d : Nat) : (s.report cls subject cause q d).video = s.video := rfl
@[simp] theorem State.report_boot (s : State) (cls subject cause : Nat) (q : Word) (d : Nat) : (s.report cls subject cause q d).boot = s.boot := rfl
@[simp] theorem State.report_fab (s : State) (cls subject cause : Nat) (q : Word) (d : Nat) : (s.report cls subject cause q d).fab = s.fab := rfl
@[simp] theorem State.report_gaf (s : State) (cls subject cause : Nat) (q : Word) (d : Nat) : (s.report cls subject cause q d).gaf = s.gaf := rfl
@[simp] theorem State.report_mod (s : State) (cls subject cause : Nat) (q : Word) (d : Nat) : (s.report cls subject cause q d).mod = s.mod := rfl
@[simp] theorem State.report_out (s : State) (cls subject cause : Nat) (q : Word) (d : Nat) : (s.report cls subject cause q d).out = s.out := rfl
@[simp] theorem State.report_nowUs (s : State) (cls subject cause : Nat) (q : Word) (d : Nat) : (s.report cls subject cause q d).nowUs = s.nowUs := rfl
@[simp] theorem State.report_freeCtr (s : State) (cls subject cause : Nat) (q : Word) (d : Nat) : (s.report cls subject cause q d).freeCtr = s.freeCtr := rfl

/-! ### violation -/

@[simp] theorem State.violation_pending (s : State) (k w a : Nat) : (s.violation k w a).pending = s.pending := rfl
@[simp] theorem State.violation_cmds (s : State) (k w a : Nat) : (s.violation k w a).cmds = s.cmds := rfl
@[simp] theorem State.violation_progs (s : State) (k w a : Nat) : (s.violation k w a).progs = s.progs := rfl
@[simp] theorem State.violation_sched (s : State) (k w a : Nat) : (s.violation k w a).sched = s.sched := rfl
@[simp] theorem State.violation_flt (s : State) (k w a : Nat) : (s.violation k w a).flt = s.flt := rfl
@[simp] theorem State.violation_perf (s : State) (k w a : Nat) : (s.violation k w a).perf = s.perf := rfl
@[simp] theorem State.violation_mem (s : State) (k w a : Nat) : (s.violation k w a).mem = s.mem := rfl
@[simp] theorem State.violation_hbm (s : State) (k w a : Nat) : (s.violation k w a).hbm = s.hbm := rfl
@[simp] theorem State.violation_takes (s : State) (k w a : Nat) : (s.violation k w a).takes = s.takes := rfl
@[simp] theorem State.violation_reels (s : State) (k w a : Nat) : (s.violation k w a).reels = s.reels := rfl
@[simp] theorem State.violation_kv (s : State) (k w a : Nat) : (s.violation k w a).kv = s.kv := rfl
@[simp] theorem State.violation_cores (s : State) (k w a : Nat) : (s.violation k w a).cores = s.cores := rfl
@[simp] theorem State.violation_dma (s : State) (k w a : Nat) : (s.violation k w a).dma = s.dma := rfl
@[simp] theorem State.violation_video (s : State) (k w a : Nat) : (s.violation k w a).video = s.video := rfl
@[simp] theorem State.violation_boot (s : State) (k w a : Nat) : (s.violation k w a).boot = s.boot := rfl
@[simp] theorem State.violation_fab (s : State) (k w a : Nat) : (s.violation k w a).fab = s.fab := rfl
@[simp] theorem State.violation_gaf (s : State) (k w a : Nat) : (s.violation k w a).gaf = s.gaf := rfl
@[simp] theorem State.violation_mod (s : State) (k w a : Nat) : (s.violation k w a).mod = s.mod := rfl
@[simp] theorem State.violation_out (s : State) (k w a : Nat) : (s.violation k w a).out = s.out := rfl
@[simp] theorem State.violation_nowUs (s : State) (k w a : Nat) : (s.violation k w a).nowUs = s.nowUs := rfl
@[simp] theorem State.violation_freeCtr (s : State) (k w a : Nat) : (s.violation k w a).freeCtr = s.freeCtr := rfl

/-! ### send -/

@[simp] theorem State.send_pending (s : State) (o : Out) : (s.send o).pending = s.pending := rfl
@[simp] theorem State.send_host (s : State) (o : Out) : (s.send o).host = s.host := rfl
@[simp] theorem State.send_cmds (s : State) (o : Out) : (s.send o).cmds = s.cmds := rfl
@[simp] theorem State.send_progs (s : State) (o : Out) : (s.send o).progs = s.progs := rfl
@[simp] theorem State.send_sched (s : State) (o : Out) : (s.send o).sched = s.sched := rfl
@[simp] theorem State.send_flt (s : State) (o : Out) : (s.send o).flt = s.flt := rfl
@[simp] theorem State.send_perf (s : State) (o : Out) : (s.send o).perf = s.perf := rfl
@[simp] theorem State.send_mem (s : State) (o : Out) : (s.send o).mem = s.mem := rfl
@[simp] theorem State.send_hbm (s : State) (o : Out) : (s.send o).hbm = s.hbm := rfl
@[simp] theorem State.send_takes (s : State) (o : Out) : (s.send o).takes = s.takes := rfl
@[simp] theorem State.send_reels (s : State) (o : Out) : (s.send o).reels = s.reels := rfl
@[simp] theorem State.send_kv (s : State) (o : Out) : (s.send o).kv = s.kv := rfl
@[simp] theorem State.send_cores (s : State) (o : Out) : (s.send o).cores = s.cores := rfl
@[simp] theorem State.send_dma (s : State) (o : Out) : (s.send o).dma = s.dma := rfl
@[simp] theorem State.send_video (s : State) (o : Out) : (s.send o).video = s.video := rfl
@[simp] theorem State.send_boot (s : State) (o : Out) : (s.send o).boot = s.boot := rfl
@[simp] theorem State.send_fab (s : State) (o : Out) : (s.send o).fab = s.fab := rfl
@[simp] theorem State.send_gaf (s : State) (o : Out) : (s.send o).gaf = s.gaf := rfl
@[simp] theorem State.send_mod (s : State) (o : Out) : (s.send o).mod = s.mod := rfl
@[simp] theorem State.send_nowUs (s : State) (o : Out) : (s.send o).nowUs = s.nowUs := rfl
@[simp] theorem State.send_freeCtr (s : State) (o : Out) : (s.send o).freeCtr = s.freeCtr := rfl

/-! ### setQueue -/

@[simp] theorem State.setQueue_pending (s : State) (q : Nat) (v : CplQueue) : (s.setQueue q v).pending = s.pending := rfl
@[simp] theorem State.setQueue_cmds (s : State) (q : Nat) (v : CplQueue) : (s.setQueue q v).cmds = s.cmds := rfl
@[simp] theorem State.setQueue_progs (s : State) (q : Nat) (v : CplQueue) : (s.setQueue q v).progs = s.progs := rfl
@[simp] theorem State.setQueue_sched (s : State) (q : Nat) (v : CplQueue) : (s.setQueue q v).sched = s.sched := rfl
@[simp] theorem State.setQueue_flt (s : State) (q : Nat) (v : CplQueue) : (s.setQueue q v).flt = s.flt := rfl
@[simp] theorem State.setQueue_perf (s : State) (q : Nat) (v : CplQueue) : (s.setQueue q v).perf = s.perf := rfl
@[simp] theorem State.setQueue_mem (s : State) (q : Nat) (v : CplQueue) : (s.setQueue q v).mem = s.mem := rfl
@[simp] theorem State.setQueue_hbm (s : State) (q : Nat) (v : CplQueue) : (s.setQueue q v).hbm = s.hbm := rfl
@[simp] theorem State.setQueue_takes (s : State) (q : Nat) (v : CplQueue) : (s.setQueue q v).takes = s.takes := rfl
@[simp] theorem State.setQueue_reels (s : State) (q : Nat) (v : CplQueue) : (s.setQueue q v).reels = s.reels := rfl
@[simp] theorem State.setQueue_kv (s : State) (q : Nat) (v : CplQueue) : (s.setQueue q v).kv = s.kv := rfl
@[simp] theorem State.setQueue_cores (s : State) (q : Nat) (v : CplQueue) : (s.setQueue q v).cores = s.cores := rfl
@[simp] theorem State.setQueue_dma (s : State) (q : Nat) (v : CplQueue) : (s.setQueue q v).dma = s.dma := rfl
@[simp] theorem State.setQueue_video (s : State) (q : Nat) (v : CplQueue) : (s.setQueue q v).video = s.video := rfl
@[simp] theorem State.setQueue_boot (s : State) (q : Nat) (v : CplQueue) : (s.setQueue q v).boot = s.boot := rfl
@[simp] theorem State.setQueue_fab (s : State) (q : Nat) (v : CplQueue) : (s.setQueue q v).fab = s.fab := rfl
@[simp] theorem State.setQueue_gaf (s : State) (q : Nat) (v : CplQueue) : (s.setQueue q v).gaf = s.gaf := rfl
@[simp] theorem State.setQueue_mod (s : State) (q : Nat) (v : CplQueue) : (s.setQueue q v).mod = s.mod := rfl
@[simp] theorem State.setQueue_out (s : State) (q : Nat) (v : CplQueue) : (s.setQueue q v).out = s.out := rfl
@[simp] theorem State.setQueue_nowUs (s : State) (q : Nat) (v : CplQueue) : (s.setQueue q v).nowUs = s.nowUs := rfl
@[simp] theorem State.setQueue_freeCtr (s : State) (q : Nat) (v : CplQueue) : (s.setQueue q v).freeCtr = s.freeCtr := rfl

/-! ### setSlot -/

@[simp] theorem State.setSlot_pending (s : State) (i : Nat) (v : Slot) : (s.setSlot i v).pending = s.pending := rfl
@[simp] theorem State.setSlot_cmds (s : State) (i : Nat) (v : Slot) : (s.setSlot i v).cmds = s.cmds := rfl
@[simp] theorem State.setSlot_progs (s : State) (i : Nat) (v : Slot) : (s.setSlot i v).progs = s.progs := rfl
@[simp] theorem State.setSlot_sched (s : State) (i : Nat) (v : Slot) : (s.setSlot i v).sched = s.sched := rfl
@[simp] theorem State.setSlot_flt (s : State) (i : Nat) (v : Slot) : (s.setSlot i v).flt = s.flt := rfl
@[simp] theorem State.setSlot_perf (s : State) (i : Nat) (v : Slot) : (s.setSlot i v).perf = s.perf := rfl
@[simp] theorem State.setSlot_mem (s : State) (i : Nat) (v : Slot) : (s.setSlot i v).mem = s.mem := rfl
@[simp] theorem State.setSlot_hbm (s : State) (i : Nat) (v : Slot) : (s.setSlot i v).hbm = s.hbm := rfl
@[simp] theorem State.setSlot_takes (s : State) (i : Nat) (v : Slot) : (s.setSlot i v).takes = s.takes := rfl
@[simp] theorem State.setSlot_reels (s : State) (i : Nat) (v : Slot) : (s.setSlot i v).reels = s.reels := rfl
@[simp] theorem State.setSlot_kv (s : State) (i : Nat) (v : Slot) : (s.setSlot i v).kv = s.kv := rfl
@[simp] theorem State.setSlot_cores (s : State) (i : Nat) (v : Slot) : (s.setSlot i v).cores = s.cores := rfl
@[simp] theorem State.setSlot_dma (s : State) (i : Nat) (v : Slot) : (s.setSlot i v).dma = s.dma := rfl
@[simp] theorem State.setSlot_video (s : State) (i : Nat) (v : Slot) : (s.setSlot i v).video = s.video := rfl
@[simp] theorem State.setSlot_boot (s : State) (i : Nat) (v : Slot) : (s.setSlot i v).boot = s.boot := rfl
@[simp] theorem State.setSlot_fab (s : State) (i : Nat) (v : Slot) : (s.setSlot i v).fab = s.fab := rfl
@[simp] theorem State.setSlot_gaf (s : State) (i : Nat) (v : Slot) : (s.setSlot i v).gaf = s.gaf := rfl
@[simp] theorem State.setSlot_mod (s : State) (i : Nat) (v : Slot) : (s.setSlot i v).mod = s.mod := rfl
@[simp] theorem State.setSlot_out (s : State) (i : Nat) (v : Slot) : (s.setSlot i v).out = s.out := rfl
@[simp] theorem State.setSlot_nowUs (s : State) (i : Nat) (v : Slot) : (s.setSlot i v).nowUs = s.nowUs := rfl
@[simp] theorem State.setSlot_freeCtr (s : State) (i : Nat) (v : Slot) : (s.setSlot i v).freeCtr = s.freeCtr := rfl

/-! ### updHost -/

@[simp] theorem State.updHost_pending (s : State) (f : HostIf → HostIf) : (s.updHost f).pending = s.pending := rfl
@[simp] theorem State.updHost_cmds (s : State) (f : HostIf → HostIf) : (s.updHost f).cmds = s.cmds := rfl
@[simp] theorem State.updHost_progs (s : State) (f : HostIf → HostIf) : (s.updHost f).progs = s.progs := rfl
@[simp] theorem State.updHost_sched (s : State) (f : HostIf → HostIf) : (s.updHost f).sched = s.sched := rfl
@[simp] theorem State.updHost_flt (s : State) (f : HostIf → HostIf) : (s.updHost f).flt = s.flt := rfl
@[simp] theorem State.updHost_perf (s : State) (f : HostIf → HostIf) : (s.updHost f).perf = s.perf := rfl
@[simp] theorem State.updHost_mem (s : State) (f : HostIf → HostIf) : (s.updHost f).mem = s.mem := rfl
@[simp] theorem State.updHost_hbm (s : State) (f : HostIf → HostIf) : (s.updHost f).hbm = s.hbm := rfl
@[simp] theorem State.updHost_takes (s : State) (f : HostIf → HostIf) : (s.updHost f).takes = s.takes := rfl
@[simp] theorem State.updHost_reels (s : State) (f : HostIf → HostIf) : (s.updHost f).reels = s.reels := rfl
@[simp] theorem State.updHost_kv (s : State) (f : HostIf → HostIf) : (s.updHost f).kv = s.kv := rfl
@[simp] theorem State.updHost_cores (s : State) (f : HostIf → HostIf) : (s.updHost f).cores = s.cores := rfl
@[simp] theorem State.updHost_dma (s : State) (f : HostIf → HostIf) : (s.updHost f).dma = s.dma := rfl
@[simp] theorem State.updHost_video (s : State) (f : HostIf → HostIf) : (s.updHost f).video = s.video := rfl
@[simp] theorem State.updHost_boot (s : State) (f : HostIf → HostIf) : (s.updHost f).boot = s.boot := rfl
@[simp] theorem State.updHost_fab (s : State) (f : HostIf → HostIf) : (s.updHost f).fab = s.fab := rfl
@[simp] theorem State.updHost_gaf (s : State) (f : HostIf → HostIf) : (s.updHost f).gaf = s.gaf := rfl
@[simp] theorem State.updHost_mod (s : State) (f : HostIf → HostIf) : (s.updHost f).mod = s.mod := rfl
@[simp] theorem State.updHost_out (s : State) (f : HostIf → HostIf) : (s.updHost f).out = s.out := rfl
@[simp] theorem State.updHost_nowUs (s : State) (f : HostIf → HostIf) : (s.updHost f).nowUs = s.nowUs := rfl
@[simp] theorem State.updHost_freeCtr (s : State) (f : HostIf → HostIf) : (s.updHost f).freeCtr = s.freeCtr := rfl

/-! ### updPerf -/

@[simp] theorem State.updPerf_pending (s : State) (f : Perf → Perf) : (s.updPerf f).pending = s.pending := rfl
@[simp] theorem State.updPerf_host (s : State) (f : Perf → Perf) : (s.updPerf f).host = s.host := rfl
@[simp] theorem State.updPerf_cmds (s : State) (f : Perf → Perf) : (s.updPerf f).cmds = s.cmds := rfl
@[simp] theorem State.updPerf_progs (s : State) (f : Perf → Perf) : (s.updPerf f).progs = s.progs := rfl
@[simp] theorem State.updPerf_sched (s : State) (f : Perf → Perf) : (s.updPerf f).sched = s.sched := rfl
@[simp] theorem State.updPerf_flt (s : State) (f : Perf → Perf) : (s.updPerf f).flt = s.flt := rfl
@[simp] theorem State.updPerf_mem (s : State) (f : Perf → Perf) : (s.updPerf f).mem = s.mem := rfl
@[simp] theorem State.updPerf_hbm (s : State) (f : Perf → Perf) : (s.updPerf f).hbm = s.hbm := rfl
@[simp] theorem State.updPerf_takes (s : State) (f : Perf → Perf) : (s.updPerf f).takes = s.takes := rfl
@[simp] theorem State.updPerf_reels (s : State) (f : Perf → Perf) : (s.updPerf f).reels = s.reels := rfl
@[simp] theorem State.updPerf_kv (s : State) (f : Perf → Perf) : (s.updPerf f).kv = s.kv := rfl
@[simp] theorem State.updPerf_cores (s : State) (f : Perf → Perf) : (s.updPerf f).cores = s.cores := rfl
@[simp] theorem State.updPerf_dma (s : State) (f : Perf → Perf) : (s.updPerf f).dma = s.dma := rfl
@[simp] theorem State.updPerf_video (s : State) (f : Perf → Perf) : (s.updPerf f).video = s.video := rfl
@[simp] theorem State.updPerf_boot (s : State) (f : Perf → Perf) : (s.updPerf f).boot = s.boot := rfl
@[simp] theorem State.updPerf_fab (s : State) (f : Perf → Perf) : (s.updPerf f).fab = s.fab := rfl
@[simp] theorem State.updPerf_gaf (s : State) (f : Perf → Perf) : (s.updPerf f).gaf = s.gaf := rfl
@[simp] theorem State.updPerf_mod (s : State) (f : Perf → Perf) : (s.updPerf f).mod = s.mod := rfl
@[simp] theorem State.updPerf_out (s : State) (f : Perf → Perf) : (s.updPerf f).out = s.out := rfl
@[simp] theorem State.updPerf_nowUs (s : State) (f : Perf → Perf) : (s.updPerf f).nowUs = s.nowUs := rfl
@[simp] theorem State.updPerf_freeCtr (s : State) (f : Perf → Perf) : (s.updPerf f).freeCtr = s.freeCtr := rfl

/-! ### updBoot -/

@[simp] theorem State.updBoot_pending (s : State) (f : Boot → Boot) : (s.updBoot f).pending = s.pending := rfl
@[simp] theorem State.updBoot_host (s : State) (f : Boot → Boot) : (s.updBoot f).host = s.host := rfl
@[simp] theorem State.updBoot_cmds (s : State) (f : Boot → Boot) : (s.updBoot f).cmds = s.cmds := rfl
@[simp] theorem State.updBoot_progs (s : State) (f : Boot → Boot) : (s.updBoot f).progs = s.progs := rfl
@[simp] theorem State.updBoot_sched (s : State) (f : Boot → Boot) : (s.updBoot f).sched = s.sched := rfl
@[simp] theorem State.updBoot_flt (s : State) (f : Boot → Boot) : (s.updBoot f).flt = s.flt := rfl
@[simp] theorem State.updBoot_perf (s : State) (f : Boot → Boot) : (s.updBoot f).perf = s.perf := rfl
@[simp] theorem State.updBoot_mem (s : State) (f : Boot → Boot) : (s.updBoot f).mem = s.mem := rfl
@[simp] theorem State.updBoot_hbm (s : State) (f : Boot → Boot) : (s.updBoot f).hbm = s.hbm := rfl
@[simp] theorem State.updBoot_takes (s : State) (f : Boot → Boot) : (s.updBoot f).takes = s.takes := rfl
@[simp] theorem State.updBoot_reels (s : State) (f : Boot → Boot) : (s.updBoot f).reels = s.reels := rfl
@[simp] theorem State.updBoot_kv (s : State) (f : Boot → Boot) : (s.updBoot f).kv = s.kv := rfl
@[simp] theorem State.updBoot_cores (s : State) (f : Boot → Boot) : (s.updBoot f).cores = s.cores := rfl
@[simp] theorem State.updBoot_dma (s : State) (f : Boot → Boot) : (s.updBoot f).dma = s.dma := rfl
@[simp] theorem State.updBoot_video (s : State) (f : Boot → Boot) : (s.updBoot f).video = s.video := rfl
@[simp] theorem State.updBoot_fab (s : State) (f : Boot → Boot) : (s.updBoot f).fab = s.fab := rfl
@[simp] theorem State.updBoot_gaf (s : State) (f : Boot → Boot) : (s.updBoot f).gaf = s.gaf := rfl
@[simp] theorem State.updBoot_mod (s : State) (f : Boot → Boot) : (s.updBoot f).mod = s.mod := rfl
@[simp] theorem State.updBoot_out (s : State) (f : Boot → Boot) : (s.updBoot f).out = s.out := rfl
@[simp] theorem State.updBoot_nowUs (s : State) (f : Boot → Boot) : (s.updBoot f).nowUs = s.nowUs := rfl
@[simp] theorem State.updBoot_freeCtr (s : State) (f : Boot → Boot) : (s.updBoot f).freeCtr = s.freeCtr := rfl

/-! ### updSpdm -/

@[simp] theorem State.updSpdm_pending (s : State) (f : Spdm → Spdm) : (s.updSpdm f).pending = s.pending := rfl
@[simp] theorem State.updSpdm_host (s : State) (f : Spdm → Spdm) : (s.updSpdm f).host = s.host := rfl
@[simp] theorem State.updSpdm_cmds (s : State) (f : Spdm → Spdm) : (s.updSpdm f).cmds = s.cmds := rfl
@[simp] theorem State.updSpdm_progs (s : State) (f : Spdm → Spdm) : (s.updSpdm f).progs = s.progs := rfl
@[simp] theorem State.updSpdm_sched (s : State) (f : Spdm → Spdm) : (s.updSpdm f).sched = s.sched := rfl
@[simp] theorem State.updSpdm_flt (s : State) (f : Spdm → Spdm) : (s.updSpdm f).flt = s.flt := rfl
@[simp] theorem State.updSpdm_perf (s : State) (f : Spdm → Spdm) : (s.updSpdm f).perf = s.perf := rfl
@[simp] theorem State.updSpdm_mem (s : State) (f : Spdm → Spdm) : (s.updSpdm f).mem = s.mem := rfl
@[simp] theorem State.updSpdm_hbm (s : State) (f : Spdm → Spdm) : (s.updSpdm f).hbm = s.hbm := rfl
@[simp] theorem State.updSpdm_takes (s : State) (f : Spdm → Spdm) : (s.updSpdm f).takes = s.takes := rfl
@[simp] theorem State.updSpdm_reels (s : State) (f : Spdm → Spdm) : (s.updSpdm f).reels = s.reels := rfl
@[simp] theorem State.updSpdm_kv (s : State) (f : Spdm → Spdm) : (s.updSpdm f).kv = s.kv := rfl
@[simp] theorem State.updSpdm_cores (s : State) (f : Spdm → Spdm) : (s.updSpdm f).cores = s.cores := rfl
@[simp] theorem State.updSpdm_dma (s : State) (f : Spdm → Spdm) : (s.updSpdm f).dma = s.dma := rfl
@[simp] theorem State.updSpdm_video (s : State) (f : Spdm → Spdm) : (s.updSpdm f).video = s.video := rfl
@[simp] theorem State.updSpdm_fab (s : State) (f : Spdm → Spdm) : (s.updSpdm f).fab = s.fab := rfl
@[simp] theorem State.updSpdm_gaf (s : State) (f : Spdm → Spdm) : (s.updSpdm f).gaf = s.gaf := rfl
@[simp] theorem State.updSpdm_mod (s : State) (f : Spdm → Spdm) : (s.updSpdm f).mod = s.mod := rfl
@[simp] theorem State.updSpdm_out (s : State) (f : Spdm → Spdm) : (s.updSpdm f).out = s.out := rfl
@[simp] theorem State.updSpdm_nowUs (s : State) (f : Spdm → Spdm) : (s.updSpdm f).nowUs = s.nowUs := rfl
@[simp] theorem State.updSpdm_freeCtr (s : State) (f : Spdm → Spdm) : (s.updSpdm f).freeCtr = s.freeCtr := rfl

/-! ### updGaf -/

@[simp] theorem State.updGaf_pending (s : State) (f : Gaffer → Gaffer) : (s.updGaf f).pending = s.pending := rfl
@[simp] theorem State.updGaf_host (s : State) (f : Gaffer → Gaffer) : (s.updGaf f).host = s.host := rfl
@[simp] theorem State.updGaf_cmds (s : State) (f : Gaffer → Gaffer) : (s.updGaf f).cmds = s.cmds := rfl
@[simp] theorem State.updGaf_progs (s : State) (f : Gaffer → Gaffer) : (s.updGaf f).progs = s.progs := rfl
@[simp] theorem State.updGaf_sched (s : State) (f : Gaffer → Gaffer) : (s.updGaf f).sched = s.sched := rfl
@[simp] theorem State.updGaf_flt (s : State) (f : Gaffer → Gaffer) : (s.updGaf f).flt = s.flt := rfl
@[simp] theorem State.updGaf_perf (s : State) (f : Gaffer → Gaffer) : (s.updGaf f).perf = s.perf := rfl
@[simp] theorem State.updGaf_mem (s : State) (f : Gaffer → Gaffer) : (s.updGaf f).mem = s.mem := rfl
@[simp] theorem State.updGaf_hbm (s : State) (f : Gaffer → Gaffer) : (s.updGaf f).hbm = s.hbm := rfl
@[simp] theorem State.updGaf_takes (s : State) (f : Gaffer → Gaffer) : (s.updGaf f).takes = s.takes := rfl
@[simp] theorem State.updGaf_reels (s : State) (f : Gaffer → Gaffer) : (s.updGaf f).reels = s.reels := rfl
@[simp] theorem State.updGaf_kv (s : State) (f : Gaffer → Gaffer) : (s.updGaf f).kv = s.kv := rfl
@[simp] theorem State.updGaf_cores (s : State) (f : Gaffer → Gaffer) : (s.updGaf f).cores = s.cores := rfl
@[simp] theorem State.updGaf_dma (s : State) (f : Gaffer → Gaffer) : (s.updGaf f).dma = s.dma := rfl
@[simp] theorem State.updGaf_video (s : State) (f : Gaffer → Gaffer) : (s.updGaf f).video = s.video := rfl
@[simp] theorem State.updGaf_boot (s : State) (f : Gaffer → Gaffer) : (s.updGaf f).boot = s.boot := rfl
@[simp] theorem State.updGaf_fab (s : State) (f : Gaffer → Gaffer) : (s.updGaf f).fab = s.fab := rfl
@[simp] theorem State.updGaf_mod (s : State) (f : Gaffer → Gaffer) : (s.updGaf f).mod = s.mod := rfl
@[simp] theorem State.updGaf_out (s : State) (f : Gaffer → Gaffer) : (s.updGaf f).out = s.out := rfl
@[simp] theorem State.updGaf_nowUs (s : State) (f : Gaffer → Gaffer) : (s.updGaf f).nowUs = s.nowUs := rfl
@[simp] theorem State.updGaf_freeCtr (s : State) (f : Gaffer → Gaffer) : (s.updGaf f).freeCtr = s.freeCtr := rfl

/-! ### updIsland -/

@[simp] theorem State.updIsland_pending (s : State) (i : Nat) (f : Island → Island) : (s.updIsland i f).pending = s.pending := rfl
@[simp] theorem State.updIsland_host (s : State) (i : Nat) (f : Island → Island) : (s.updIsland i f).host = s.host := rfl
@[simp] theorem State.updIsland_cmds (s : State) (i : Nat) (f : Island → Island) : (s.updIsland i f).cmds = s.cmds := rfl
@[simp] theorem State.updIsland_progs (s : State) (i : Nat) (f : Island → Island) : (s.updIsland i f).progs = s.progs := rfl
@[simp] theorem State.updIsland_sched (s : State) (i : Nat) (f : Island → Island) : (s.updIsland i f).sched = s.sched := rfl
@[simp] theorem State.updIsland_flt (s : State) (i : Nat) (f : Island → Island) : (s.updIsland i f).flt = s.flt := rfl
@[simp] theorem State.updIsland_perf (s : State) (i : Nat) (f : Island → Island) : (s.updIsland i f).perf = s.perf := rfl
@[simp] theorem State.updIsland_mem (s : State) (i : Nat) (f : Island → Island) : (s.updIsland i f).mem = s.mem := rfl
@[simp] theorem State.updIsland_hbm (s : State) (i : Nat) (f : Island → Island) : (s.updIsland i f).hbm = s.hbm := rfl
@[simp] theorem State.updIsland_takes (s : State) (i : Nat) (f : Island → Island) : (s.updIsland i f).takes = s.takes := rfl
@[simp] theorem State.updIsland_reels (s : State) (i : Nat) (f : Island → Island) : (s.updIsland i f).reels = s.reels := rfl
@[simp] theorem State.updIsland_kv (s : State) (i : Nat) (f : Island → Island) : (s.updIsland i f).kv = s.kv := rfl
@[simp] theorem State.updIsland_cores (s : State) (i : Nat) (f : Island → Island) : (s.updIsland i f).cores = s.cores := rfl
@[simp] theorem State.updIsland_dma (s : State) (i : Nat) (f : Island → Island) : (s.updIsland i f).dma = s.dma := rfl
@[simp] theorem State.updIsland_video (s : State) (i : Nat) (f : Island → Island) : (s.updIsland i f).video = s.video := rfl
@[simp] theorem State.updIsland_boot (s : State) (i : Nat) (f : Island → Island) : (s.updIsland i f).boot = s.boot := rfl
@[simp] theorem State.updIsland_fab (s : State) (i : Nat) (f : Island → Island) : (s.updIsland i f).fab = s.fab := rfl
@[simp] theorem State.updIsland_mod (s : State) (i : Nat) (f : Island → Island) : (s.updIsland i f).mod = s.mod := rfl
@[simp] theorem State.updIsland_out (s : State) (i : Nat) (f : Island → Island) : (s.updIsland i f).out = s.out := rfl
@[simp] theorem State.updIsland_nowUs (s : State) (i : Nat) (f : Island → Island) : (s.updIsland i f).nowUs = s.nowUs := rfl
@[simp] theorem State.updIsland_freeCtr (s : State) (i : Nat) (f : Island → Island) : (s.updIsland i f).freeCtr = s.freeCtr := rfl

/-! ### updFab -/

@[simp] theorem State.updFab_pending (s : State) (f : Fabric → Fabric) : (s.updFab f).pending = s.pending := rfl
@[simp] theorem State.updFab_host (s : State) (f : Fabric → Fabric) : (s.updFab f).host = s.host := rfl
@[simp] theorem State.updFab_cmds (s : State) (f : Fabric → Fabric) : (s.updFab f).cmds = s.cmds := rfl
@[simp] theorem State.updFab_progs (s : State) (f : Fabric → Fabric) : (s.updFab f).progs = s.progs := rfl
@[simp] theorem State.updFab_sched (s : State) (f : Fabric → Fabric) : (s.updFab f).sched = s.sched := rfl
@[simp] theorem State.updFab_flt (s : State) (f : Fabric → Fabric) : (s.updFab f).flt = s.flt := rfl
@[simp] theorem State.updFab_perf (s : State) (f : Fabric → Fabric) : (s.updFab f).perf = s.perf := rfl
@[simp] theorem State.updFab_mem (s : State) (f : Fabric → Fabric) : (s.updFab f).mem = s.mem := rfl
@[simp] theorem State.updFab_hbm (s : State) (f : Fabric → Fabric) : (s.updFab f).hbm = s.hbm := rfl
@[simp] theorem State.updFab_takes (s : State) (f : Fabric → Fabric) : (s.updFab f).takes = s.takes := rfl
@[simp] theorem State.updFab_reels (s : State) (f : Fabric → Fabric) : (s.updFab f).reels = s.reels := rfl
@[simp] theorem State.updFab_kv (s : State) (f : Fabric → Fabric) : (s.updFab f).kv = s.kv := rfl
@[simp] theorem State.updFab_cores (s : State) (f : Fabric → Fabric) : (s.updFab f).cores = s.cores := rfl
@[simp] theorem State.updFab_dma (s : State) (f : Fabric → Fabric) : (s.updFab f).dma = s.dma := rfl
@[simp] theorem State.updFab_video (s : State) (f : Fabric → Fabric) : (s.updFab f).video = s.video := rfl
@[simp] theorem State.updFab_boot (s : State) (f : Fabric → Fabric) : (s.updFab f).boot = s.boot := rfl
@[simp] theorem State.updFab_gaf (s : State) (f : Fabric → Fabric) : (s.updFab f).gaf = s.gaf := rfl
@[simp] theorem State.updFab_mod (s : State) (f : Fabric → Fabric) : (s.updFab f).mod = s.mod := rfl
@[simp] theorem State.updFab_out (s : State) (f : Fabric → Fabric) : (s.updFab f).out = s.out := rfl
@[simp] theorem State.updFab_nowUs (s : State) (f : Fabric → Fabric) : (s.updFab f).nowUs = s.nowUs := rfl
@[simp] theorem State.updFab_freeCtr (s : State) (f : Fabric → Fabric) : (s.updFab f).freeCtr = s.freeCtr := rfl

/-! ### setPort -/

@[simp] theorem State.setPort_pending (s : State) (p : Nat) (v : FabPort) : (s.setPort p v).pending = s.pending := rfl
@[simp] theorem State.setPort_host (s : State) (p : Nat) (v : FabPort) : (s.setPort p v).host = s.host := rfl
@[simp] theorem State.setPort_cmds (s : State) (p : Nat) (v : FabPort) : (s.setPort p v).cmds = s.cmds := rfl
@[simp] theorem State.setPort_progs (s : State) (p : Nat) (v : FabPort) : (s.setPort p v).progs = s.progs := rfl
@[simp] theorem State.setPort_sched (s : State) (p : Nat) (v : FabPort) : (s.setPort p v).sched = s.sched := rfl
@[simp] theorem State.setPort_flt (s : State) (p : Nat) (v : FabPort) : (s.setPort p v).flt = s.flt := rfl
@[simp] theorem State.setPort_perf (s : State) (p : Nat) (v : FabPort) : (s.setPort p v).perf = s.perf := rfl
@[simp] theorem State.setPort_mem (s : State) (p : Nat) (v : FabPort) : (s.setPort p v).mem = s.mem := rfl
@[simp] theorem State.setPort_hbm (s : State) (p : Nat) (v : FabPort) : (s.setPort p v).hbm = s.hbm := rfl
@[simp] theorem State.setPort_takes (s : State) (p : Nat) (v : FabPort) : (s.setPort p v).takes = s.takes := rfl
@[simp] theorem State.setPort_reels (s : State) (p : Nat) (v : FabPort) : (s.setPort p v).reels = s.reels := rfl
@[simp] theorem State.setPort_kv (s : State) (p : Nat) (v : FabPort) : (s.setPort p v).kv = s.kv := rfl
@[simp] theorem State.setPort_cores (s : State) (p : Nat) (v : FabPort) : (s.setPort p v).cores = s.cores := rfl
@[simp] theorem State.setPort_dma (s : State) (p : Nat) (v : FabPort) : (s.setPort p v).dma = s.dma := rfl
@[simp] theorem State.setPort_video (s : State) (p : Nat) (v : FabPort) : (s.setPort p v).video = s.video := rfl
@[simp] theorem State.setPort_boot (s : State) (p : Nat) (v : FabPort) : (s.setPort p v).boot = s.boot := rfl
@[simp] theorem State.setPort_gaf (s : State) (p : Nat) (v : FabPort) : (s.setPort p v).gaf = s.gaf := rfl
@[simp] theorem State.setPort_mod (s : State) (p : Nat) (v : FabPort) : (s.setPort p v).mod = s.mod := rfl
@[simp] theorem State.setPort_out (s : State) (p : Nat) (v : FabPort) : (s.setPort p v).out = s.out := rfl
@[simp] theorem State.setPort_nowUs (s : State) (p : Nat) (v : FabPort) : (s.setPort p v).nowUs = s.nowUs := rfl
@[simp] theorem State.setPort_freeCtr (s : State) (p : Nat) (v : FabPort) : (s.setPort p v).freeCtr = s.freeCtr := rfl

/-! ### updPort -/

@[simp] theorem State.updPort_pending (s : State) (p : Nat) (f : FabPort → FabPort) : (s.updPort p f).pending = s.pending := rfl
@[simp] theorem State.updPort_host (s : State) (p : Nat) (f : FabPort → FabPort) : (s.updPort p f).host = s.host := rfl
@[simp] theorem State.updPort_cmds (s : State) (p : Nat) (f : FabPort → FabPort) : (s.updPort p f).cmds = s.cmds := rfl
@[simp] theorem State.updPort_progs (s : State) (p : Nat) (f : FabPort → FabPort) : (s.updPort p f).progs = s.progs := rfl
@[simp] theorem State.updPort_sched (s : State) (p : Nat) (f : FabPort → FabPort) : (s.updPort p f).sched = s.sched := rfl
@[simp] theorem State.updPort_flt (s : State) (p : Nat) (f : FabPort → FabPort) : (s.updPort p f).flt = s.flt := rfl
@[simp] theorem State.updPort_perf (s : State) (p : Nat) (f : FabPort → FabPort) : (s.updPort p f).perf = s.perf := rfl
@[simp] theorem State.updPort_mem (s : State) (p : Nat) (f : FabPort → FabPort) : (s.updPort p f).mem = s.mem := rfl
@[simp] theorem State.updPort_hbm (s : State) (p : Nat) (f : FabPort → FabPort) : (s.updPort p f).hbm = s.hbm := rfl
@[simp] theorem State.updPort_takes (s : State) (p : Nat) (f : FabPort → FabPort) : (s.updPort p f).takes = s.takes := rfl
@[simp] theorem State.updPort_reels (s : State) (p : Nat) (f : FabPort → FabPort) : (s.updPort p f).reels = s.reels := rfl
@[simp] theorem State.updPort_kv (s : State) (p : Nat) (f : FabPort → FabPort) : (s.updPort p f).kv = s.kv := rfl
@[simp] theorem State.updPort_cores (s : State) (p : Nat) (f : FabPort → FabPort) : (s.updPort p f).cores = s.cores := rfl
@[simp] theorem State.updPort_dma (s : State) (p : Nat) (f : FabPort → FabPort) : (s.updPort p f).dma = s.dma := rfl
@[simp] theorem State.updPort_video (s : State) (p : Nat) (f : FabPort → FabPort) : (s.updPort p f).video = s.video := rfl
@[simp] theorem State.updPort_boot (s : State) (p : Nat) (f : FabPort → FabPort) : (s.updPort p f).boot = s.boot := rfl
@[simp] theorem State.updPort_gaf (s : State) (p : Nat) (f : FabPort → FabPort) : (s.updPort p f).gaf = s.gaf := rfl
@[simp] theorem State.updPort_mod (s : State) (p : Nat) (f : FabPort → FabPort) : (s.updPort p f).mod = s.mod := rfl
@[simp] theorem State.updPort_out (s : State) (p : Nat) (f : FabPort → FabPort) : (s.updPort p f).out = s.out := rfl
@[simp] theorem State.updPort_nowUs (s : State) (p : Nat) (f : FabPort → FabPort) : (s.updPort p f).nowUs = s.nowUs := rfl
@[simp] theorem State.updPort_freeCtr (s : State) (p : Nat) (f : FabPort → FabPort) : (s.updPort p f).freeCtr = s.freeCtr := rfl

/-! ### updHbm -/

@[simp] theorem State.updHbm_pending (s : State) (f : HbmMem → HbmMem) : (s.updHbm f).pending = s.pending := rfl
@[simp] theorem State.updHbm_host (s : State) (f : HbmMem → HbmMem) : (s.updHbm f).host = s.host := rfl
@[simp] theorem State.updHbm_cmds (s : State) (f : HbmMem → HbmMem) : (s.updHbm f).cmds = s.cmds := rfl
@[simp] theorem State.updHbm_progs (s : State) (f : HbmMem → HbmMem) : (s.updHbm f).progs = s.progs := rfl
@[simp] theorem State.updHbm_sched (s : State) (f : HbmMem → HbmMem) : (s.updHbm f).sched = s.sched := rfl
@[simp] theorem State.updHbm_flt (s : State) (f : HbmMem → HbmMem) : (s.updHbm f).flt = s.flt := rfl
@[simp] theorem State.updHbm_perf (s : State) (f : HbmMem → HbmMem) : (s.updHbm f).perf = s.perf := rfl
@[simp] theorem State.updHbm_mem (s : State) (f : HbmMem → HbmMem) : (s.updHbm f).mem = s.mem := rfl
@[simp] theorem State.updHbm_takes (s : State) (f : HbmMem → HbmMem) : (s.updHbm f).takes = s.takes := rfl
@[simp] theorem State.updHbm_reels (s : State) (f : HbmMem → HbmMem) : (s.updHbm f).reels = s.reels := rfl
@[simp] theorem State.updHbm_kv (s : State) (f : HbmMem → HbmMem) : (s.updHbm f).kv = s.kv := rfl
@[simp] theorem State.updHbm_cores (s : State) (f : HbmMem → HbmMem) : (s.updHbm f).cores = s.cores := rfl
@[simp] theorem State.updHbm_dma (s : State) (f : HbmMem → HbmMem) : (s.updHbm f).dma = s.dma := rfl
@[simp] theorem State.updHbm_video (s : State) (f : HbmMem → HbmMem) : (s.updHbm f).video = s.video := rfl
@[simp] theorem State.updHbm_boot (s : State) (f : HbmMem → HbmMem) : (s.updHbm f).boot = s.boot := rfl
@[simp] theorem State.updHbm_fab (s : State) (f : HbmMem → HbmMem) : (s.updHbm f).fab = s.fab := rfl
@[simp] theorem State.updHbm_gaf (s : State) (f : HbmMem → HbmMem) : (s.updHbm f).gaf = s.gaf := rfl
@[simp] theorem State.updHbm_mod (s : State) (f : HbmMem → HbmMem) : (s.updHbm f).mod = s.mod := rfl
@[simp] theorem State.updHbm_out (s : State) (f : HbmMem → HbmMem) : (s.updHbm f).out = s.out := rfl
@[simp] theorem State.updHbm_nowUs (s : State) (f : HbmMem → HbmMem) : (s.updHbm f).nowUs = s.nowUs := rfl
@[simp] theorem State.updHbm_freeCtr (s : State) (f : HbmMem → HbmMem) : (s.updHbm f).freeCtr = s.freeCtr := rfl

/-! ### setChan -/

@[simp] theorem State.setChan_pending (s : State) (c : Nat) (v : HbmChan) : (s.setChan c v).pending = s.pending := rfl
@[simp] theorem State.setChan_host (s : State) (c : Nat) (v : HbmChan) : (s.setChan c v).host = s.host := rfl
@[simp] theorem State.setChan_cmds (s : State) (c : Nat) (v : HbmChan) : (s.setChan c v).cmds = s.cmds := rfl
@[simp] theorem State.setChan_progs (s : State) (c : Nat) (v : HbmChan) : (s.setChan c v).progs = s.progs := rfl
@[simp] theorem State.setChan_sched (s : State) (c : Nat) (v : HbmChan) : (s.setChan c v).sched = s.sched := rfl
@[simp] theorem State.setChan_flt (s : State) (c : Nat) (v : HbmChan) : (s.setChan c v).flt = s.flt := rfl
@[simp] theorem State.setChan_perf (s : State) (c : Nat) (v : HbmChan) : (s.setChan c v).perf = s.perf := rfl
@[simp] theorem State.setChan_mem (s : State) (c : Nat) (v : HbmChan) : (s.setChan c v).mem = s.mem := rfl
@[simp] theorem State.setChan_takes (s : State) (c : Nat) (v : HbmChan) : (s.setChan c v).takes = s.takes := rfl
@[simp] theorem State.setChan_reels (s : State) (c : Nat) (v : HbmChan) : (s.setChan c v).reels = s.reels := rfl
@[simp] theorem State.setChan_kv (s : State) (c : Nat) (v : HbmChan) : (s.setChan c v).kv = s.kv := rfl
@[simp] theorem State.setChan_cores (s : State) (c : Nat) (v : HbmChan) : (s.setChan c v).cores = s.cores := rfl
@[simp] theorem State.setChan_dma (s : State) (c : Nat) (v : HbmChan) : (s.setChan c v).dma = s.dma := rfl
@[simp] theorem State.setChan_video (s : State) (c : Nat) (v : HbmChan) : (s.setChan c v).video = s.video := rfl
@[simp] theorem State.setChan_boot (s : State) (c : Nat) (v : HbmChan) : (s.setChan c v).boot = s.boot := rfl
@[simp] theorem State.setChan_fab (s : State) (c : Nat) (v : HbmChan) : (s.setChan c v).fab = s.fab := rfl
@[simp] theorem State.setChan_gaf (s : State) (c : Nat) (v : HbmChan) : (s.setChan c v).gaf = s.gaf := rfl
@[simp] theorem State.setChan_mod (s : State) (c : Nat) (v : HbmChan) : (s.setChan c v).mod = s.mod := rfl
@[simp] theorem State.setChan_out (s : State) (c : Nat) (v : HbmChan) : (s.setChan c v).out = s.out := rfl
@[simp] theorem State.setChan_nowUs (s : State) (c : Nat) (v : HbmChan) : (s.setChan c v).nowUs = s.nowUs := rfl
@[simp] theorem State.setChan_freeCtr (s : State) (c : Nat) (v : HbmChan) : (s.setChan c v).freeCtr = s.freeCtr := rfl

/-! ### mapRegs -/

@[simp] theorem State.mapRegs_pending (s : State) (f : MemRegs → MemRegs) : (s.mapRegs f).pending = s.pending := rfl
@[simp] theorem State.mapRegs_host (s : State) (f : MemRegs → MemRegs) : (s.mapRegs f).host = s.host := rfl
@[simp] theorem State.mapRegs_cmds (s : State) (f : MemRegs → MemRegs) : (s.mapRegs f).cmds = s.cmds := rfl
@[simp] theorem State.mapRegs_progs (s : State) (f : MemRegs → MemRegs) : (s.mapRegs f).progs = s.progs := rfl
@[simp] theorem State.mapRegs_sched (s : State) (f : MemRegs → MemRegs) : (s.mapRegs f).sched = s.sched := rfl
@[simp] theorem State.mapRegs_flt (s : State) (f : MemRegs → MemRegs) : (s.mapRegs f).flt = s.flt := rfl
@[simp] theorem State.mapRegs_perf (s : State) (f : MemRegs → MemRegs) : (s.mapRegs f).perf = s.perf := rfl
@[simp] theorem State.mapRegs_hbm (s : State) (f : MemRegs → MemRegs) : (s.mapRegs f).hbm = s.hbm := rfl
@[simp] theorem State.mapRegs_takes (s : State) (f : MemRegs → MemRegs) : (s.mapRegs f).takes = s.takes := rfl
@[simp] theorem State.mapRegs_reels (s : State) (f : MemRegs → MemRegs) : (s.mapRegs f).reels = s.reels := rfl
@[simp] theorem State.mapRegs_kv (s : State) (f : MemRegs → MemRegs) : (s.mapRegs f).kv = s.kv := rfl
@[simp] theorem State.mapRegs_cores (s : State) (f : MemRegs → MemRegs) : (s.mapRegs f).cores = s.cores := rfl
@[simp] theorem State.mapRegs_dma (s : State) (f : MemRegs → MemRegs) : (s.mapRegs f).dma = s.dma := rfl
@[simp] theorem State.mapRegs_video (s : State) (f : MemRegs → MemRegs) : (s.mapRegs f).video = s.video := rfl
@[simp] theorem State.mapRegs_boot (s : State) (f : MemRegs → MemRegs) : (s.mapRegs f).boot = s.boot := rfl
@[simp] theorem State.mapRegs_fab (s : State) (f : MemRegs → MemRegs) : (s.mapRegs f).fab = s.fab := rfl
@[simp] theorem State.mapRegs_gaf (s : State) (f : MemRegs → MemRegs) : (s.mapRegs f).gaf = s.gaf := rfl
@[simp] theorem State.mapRegs_mod (s : State) (f : MemRegs → MemRegs) : (s.mapRegs f).mod = s.mod := rfl
@[simp] theorem State.mapRegs_out (s : State) (f : MemRegs → MemRegs) : (s.mapRegs f).out = s.out := rfl
@[simp] theorem State.mapRegs_nowUs (s : State) (f : MemRegs → MemRegs) : (s.mapRegs f).nowUs = s.nowUs := rfl
@[simp] theorem State.mapRegs_freeCtr (s : State) (f : MemRegs → MemRegs) : (s.mapRegs f).freeCtr = s.freeCtr := rfl

/-! ### setTake -/

@[simp] theorem State.setTake_pending (s : State) (t : Nat) (v : Take) : (s.setTake t v).pending = s.pending := rfl
@[simp] theorem State.setTake_host (s : State) (t : Nat) (v : Take) : (s.setTake t v).host = s.host := rfl
@[simp] theorem State.setTake_cmds (s : State) (t : Nat) (v : Take) : (s.setTake t v).cmds = s.cmds := rfl
@[simp] theorem State.setTake_progs (s : State) (t : Nat) (v : Take) : (s.setTake t v).progs = s.progs := rfl
@[simp] theorem State.setTake_sched (s : State) (t : Nat) (v : Take) : (s.setTake t v).sched = s.sched := rfl
@[simp] theorem State.setTake_flt (s : State) (t : Nat) (v : Take) : (s.setTake t v).flt = s.flt := rfl
@[simp] theorem State.setTake_perf (s : State) (t : Nat) (v : Take) : (s.setTake t v).perf = s.perf := rfl
@[simp] theorem State.setTake_mem (s : State) (t : Nat) (v : Take) : (s.setTake t v).mem = s.mem := rfl
@[simp] theorem State.setTake_hbm (s : State) (t : Nat) (v : Take) : (s.setTake t v).hbm = s.hbm := rfl
@[simp] theorem State.setTake_reels (s : State) (t : Nat) (v : Take) : (s.setTake t v).reels = s.reels := rfl
@[simp] theorem State.setTake_kv (s : State) (t : Nat) (v : Take) : (s.setTake t v).kv = s.kv := rfl
@[simp] theorem State.setTake_cores (s : State) (t : Nat) (v : Take) : (s.setTake t v).cores = s.cores := rfl
@[simp] theorem State.setTake_dma (s : State) (t : Nat) (v : Take) : (s.setTake t v).dma = s.dma := rfl
@[simp] theorem State.setTake_video (s : State) (t : Nat) (v : Take) : (s.setTake t v).video = s.video := rfl
@[simp] theorem State.setTake_boot (s : State) (t : Nat) (v : Take) : (s.setTake t v).boot = s.boot := rfl
@[simp] theorem State.setTake_fab (s : State) (t : Nat) (v : Take) : (s.setTake t v).fab = s.fab := rfl
@[simp] theorem State.setTake_gaf (s : State) (t : Nat) (v : Take) : (s.setTake t v).gaf = s.gaf := rfl
@[simp] theorem State.setTake_mod (s : State) (t : Nat) (v : Take) : (s.setTake t v).mod = s.mod := rfl
@[simp] theorem State.setTake_out (s : State) (t : Nat) (v : Take) : (s.setTake t v).out = s.out := rfl
@[simp] theorem State.setTake_nowUs (s : State) (t : Nat) (v : Take) : (s.setTake t v).nowUs = s.nowUs := rfl
@[simp] theorem State.setTake_freeCtr (s : State) (t : Nat) (v : Take) : (s.setTake t v).freeCtr = s.freeCtr := rfl

/-! ### setReel -/

@[simp] theorem State.setReel_pending (s : State) (i : Nat) (v : Reel) : (s.setReel i v).pending = s.pending := rfl
@[simp] theorem State.setReel_host (s : State) (i : Nat) (v : Reel) : (s.setReel i v).host = s.host := rfl
@[simp] theorem State.setReel_cmds (s : State) (i : Nat) (v : Reel) : (s.setReel i v).cmds = s.cmds := rfl
@[simp] theorem State.setReel_progs (s : State) (i : Nat) (v : Reel) : (s.setReel i v).progs = s.progs := rfl
@[simp] theorem State.setReel_sched (s : State) (i : Nat) (v : Reel) : (s.setReel i v).sched = s.sched := rfl
@[simp] theorem State.setReel_flt (s : State) (i : Nat) (v : Reel) : (s.setReel i v).flt = s.flt := rfl
@[simp] theorem State.setReel_perf (s : State) (i : Nat) (v : Reel) : (s.setReel i v).perf = s.perf := rfl
@[simp] theorem State.setReel_mem (s : State) (i : Nat) (v : Reel) : (s.setReel i v).mem = s.mem := rfl
@[simp] theorem State.setReel_hbm (s : State) (i : Nat) (v : Reel) : (s.setReel i v).hbm = s.hbm := rfl
@[simp] theorem State.setReel_takes (s : State) (i : Nat) (v : Reel) : (s.setReel i v).takes = s.takes := rfl
@[simp] theorem State.setReel_kv (s : State) (i : Nat) (v : Reel) : (s.setReel i v).kv = s.kv := rfl
@[simp] theorem State.setReel_cores (s : State) (i : Nat) (v : Reel) : (s.setReel i v).cores = s.cores := rfl
@[simp] theorem State.setReel_dma (s : State) (i : Nat) (v : Reel) : (s.setReel i v).dma = s.dma := rfl
@[simp] theorem State.setReel_video (s : State) (i : Nat) (v : Reel) : (s.setReel i v).video = s.video := rfl
@[simp] theorem State.setReel_boot (s : State) (i : Nat) (v : Reel) : (s.setReel i v).boot = s.boot := rfl
@[simp] theorem State.setReel_fab (s : State) (i : Nat) (v : Reel) : (s.setReel i v).fab = s.fab := rfl
@[simp] theorem State.setReel_gaf (s : State) (i : Nat) (v : Reel) : (s.setReel i v).gaf = s.gaf := rfl
@[simp] theorem State.setReel_mod (s : State) (i : Nat) (v : Reel) : (s.setReel i v).mod = s.mod := rfl
@[simp] theorem State.setReel_out (s : State) (i : Nat) (v : Reel) : (s.setReel i v).out = s.out := rfl
@[simp] theorem State.setReel_nowUs (s : State) (i : Nat) (v : Reel) : (s.setReel i v).nowUs = s.nowUs := rfl
@[simp] theorem State.setReel_freeCtr (s : State) (i : Nat) (v : Reel) : (s.setReel i v).freeCtr = s.freeCtr := rfl

/-! ### setChunk -/

@[simp] theorem State.setChunk_pending (s : State) (c : Chunk) : (s.setChunk c).pending = s.pending := rfl
@[simp] theorem State.setChunk_host (s : State) (c : Chunk) : (s.setChunk c).host = s.host := rfl
@[simp] theorem State.setChunk_cmds (s : State) (c : Chunk) : (s.setChunk c).cmds = s.cmds := rfl
@[simp] theorem State.setChunk_progs (s : State) (c : Chunk) : (s.setChunk c).progs = s.progs := rfl
@[simp] theorem State.setChunk_sched (s : State) (c : Chunk) : (s.setChunk c).sched = s.sched := rfl
@[simp] theorem State.setChunk_flt (s : State) (c : Chunk) : (s.setChunk c).flt = s.flt := rfl
@[simp] theorem State.setChunk_perf (s : State) (c : Chunk) : (s.setChunk c).perf = s.perf := rfl
@[simp] theorem State.setChunk_mem (s : State) (c : Chunk) : (s.setChunk c).mem = s.mem := rfl
@[simp] theorem State.setChunk_hbm (s : State) (c : Chunk) : (s.setChunk c).hbm = s.hbm := rfl
@[simp] theorem State.setChunk_takes (s : State) (c : Chunk) : (s.setChunk c).takes = s.takes := rfl
@[simp] theorem State.setChunk_kv (s : State) (c : Chunk) : (s.setChunk c).kv = s.kv := rfl
@[simp] theorem State.setChunk_cores (s : State) (c : Chunk) : (s.setChunk c).cores = s.cores := rfl
@[simp] theorem State.setChunk_dma (s : State) (c : Chunk) : (s.setChunk c).dma = s.dma := rfl
@[simp] theorem State.setChunk_video (s : State) (c : Chunk) : (s.setChunk c).video = s.video := rfl
@[simp] theorem State.setChunk_boot (s : State) (c : Chunk) : (s.setChunk c).boot = s.boot := rfl
@[simp] theorem State.setChunk_fab (s : State) (c : Chunk) : (s.setChunk c).fab = s.fab := rfl
@[simp] theorem State.setChunk_gaf (s : State) (c : Chunk) : (s.setChunk c).gaf = s.gaf := rfl
@[simp] theorem State.setChunk_mod (s : State) (c : Chunk) : (s.setChunk c).mod = s.mod := rfl
@[simp] theorem State.setChunk_out (s : State) (c : Chunk) : (s.setChunk c).out = s.out := rfl
@[simp] theorem State.setChunk_nowUs (s : State) (c : Chunk) : (s.setChunk c).nowUs = s.nowUs := rfl
@[simp] theorem State.setChunk_freeCtr (s : State) (c : Chunk) : (s.setChunk c).freeCtr = s.freeCtr := rfl

/-! ### setSeq -/

@[simp] theorem State.setSeq_pending (s : State) (i : Nat) (q : SeqEnt) : (s.setSeq i q).pending = s.pending := rfl
@[simp] theorem State.setSeq_host (s : State) (i : Nat) (q : SeqEnt) : (s.setSeq i q).host = s.host := rfl
@[simp] theorem State.setSeq_cmds (s : State) (i : Nat) (q : SeqEnt) : (s.setSeq i q).cmds = s.cmds := rfl
@[simp] theorem State.setSeq_progs (s : State) (i : Nat) (q : SeqEnt) : (s.setSeq i q).progs = s.progs := rfl
@[simp] theorem State.setSeq_sched (s : State) (i : Nat) (q : SeqEnt) : (s.setSeq i q).sched = s.sched := rfl
@[simp] theorem State.setSeq_flt (s : State) (i : Nat) (q : SeqEnt) : (s.setSeq i q).flt = s.flt := rfl
@[simp] theorem State.setSeq_perf (s : State) (i : Nat) (q : SeqEnt) : (s.setSeq i q).perf = s.perf := rfl
@[simp] theorem State.setSeq_mem (s : State) (i : Nat) (q : SeqEnt) : (s.setSeq i q).mem = s.mem := rfl
@[simp] theorem State.setSeq_hbm (s : State) (i : Nat) (q : SeqEnt) : (s.setSeq i q).hbm = s.hbm := rfl
@[simp] theorem State.setSeq_takes (s : State) (i : Nat) (q : SeqEnt) : (s.setSeq i q).takes = s.takes := rfl
@[simp] theorem State.setSeq_reels (s : State) (i : Nat) (q : SeqEnt) : (s.setSeq i q).reels = s.reels := rfl
@[simp] theorem State.setSeq_cores (s : State) (i : Nat) (q : SeqEnt) : (s.setSeq i q).cores = s.cores := rfl
@[simp] theorem State.setSeq_dma (s : State) (i : Nat) (q : SeqEnt) : (s.setSeq i q).dma = s.dma := rfl
@[simp] theorem State.setSeq_video (s : State) (i : Nat) (q : SeqEnt) : (s.setSeq i q).video = s.video := rfl
@[simp] theorem State.setSeq_boot (s : State) (i : Nat) (q : SeqEnt) : (s.setSeq i q).boot = s.boot := rfl
@[simp] theorem State.setSeq_fab (s : State) (i : Nat) (q : SeqEnt) : (s.setSeq i q).fab = s.fab := rfl
@[simp] theorem State.setSeq_gaf (s : State) (i : Nat) (q : SeqEnt) : (s.setSeq i q).gaf = s.gaf := rfl
@[simp] theorem State.setSeq_mod (s : State) (i : Nat) (q : SeqEnt) : (s.setSeq i q).mod = s.mod := rfl
@[simp] theorem State.setSeq_out (s : State) (i : Nat) (q : SeqEnt) : (s.setSeq i q).out = s.out := rfl
@[simp] theorem State.setSeq_nowUs (s : State) (i : Nat) (q : SeqEnt) : (s.setSeq i q).nowUs = s.nowUs := rfl
@[simp] theorem State.setSeq_freeCtr (s : State) (i : Nat) (q : SeqEnt) : (s.setSeq i q).freeCtr = s.freeCtr := rfl

/-! ### setMail -/

@[simp] theorem State.setMail_pending (s : State) (m : Nat) (v : MailSlot) : (s.setMail m v).pending = s.pending := rfl
@[simp] theorem State.setMail_host (s : State) (m : Nat) (v : MailSlot) : (s.setMail m v).host = s.host := rfl
@[simp] theorem State.setMail_cmds (s : State) (m : Nat) (v : MailSlot) : (s.setMail m v).cmds = s.cmds := rfl
@[simp] theorem State.setMail_progs (s : State) (m : Nat) (v : MailSlot) : (s.setMail m v).progs = s.progs := rfl
@[simp] theorem State.setMail_sched (s : State) (m : Nat) (v : MailSlot) : (s.setMail m v).sched = s.sched := rfl
@[simp] theorem State.setMail_flt (s : State) (m : Nat) (v : MailSlot) : (s.setMail m v).flt = s.flt := rfl
@[simp] theorem State.setMail_perf (s : State) (m : Nat) (v : MailSlot) : (s.setMail m v).perf = s.perf := rfl
@[simp] theorem State.setMail_mem (s : State) (m : Nat) (v : MailSlot) : (s.setMail m v).mem = s.mem := rfl
@[simp] theorem State.setMail_hbm (s : State) (m : Nat) (v : MailSlot) : (s.setMail m v).hbm = s.hbm := rfl
@[simp] theorem State.setMail_takes (s : State) (m : Nat) (v : MailSlot) : (s.setMail m v).takes = s.takes := rfl
@[simp] theorem State.setMail_reels (s : State) (m : Nat) (v : MailSlot) : (s.setMail m v).reels = s.reels := rfl
@[simp] theorem State.setMail_kv (s : State) (m : Nat) (v : MailSlot) : (s.setMail m v).kv = s.kv := rfl
@[simp] theorem State.setMail_cores (s : State) (m : Nat) (v : MailSlot) : (s.setMail m v).cores = s.cores := rfl
@[simp] theorem State.setMail_video (s : State) (m : Nat) (v : MailSlot) : (s.setMail m v).video = s.video := rfl
@[simp] theorem State.setMail_boot (s : State) (m : Nat) (v : MailSlot) : (s.setMail m v).boot = s.boot := rfl
@[simp] theorem State.setMail_fab (s : State) (m : Nat) (v : MailSlot) : (s.setMail m v).fab = s.fab := rfl
@[simp] theorem State.setMail_gaf (s : State) (m : Nat) (v : MailSlot) : (s.setMail m v).gaf = s.gaf := rfl
@[simp] theorem State.setMail_mod (s : State) (m : Nat) (v : MailSlot) : (s.setMail m v).mod = s.mod := rfl
@[simp] theorem State.setMail_out (s : State) (m : Nat) (v : MailSlot) : (s.setMail m v).out = s.out := rfl
@[simp] theorem State.setMail_nowUs (s : State) (m : Nat) (v : MailSlot) : (s.setMail m v).nowUs = s.nowUs := rfl
@[simp] theorem State.setMail_freeCtr (s : State) (m : Nat) (v : MailSlot) : (s.setMail m v).freeCtr = s.freeCtr := rfl

/-! ### setEdge -/

@[simp] theorem State.setEdge_pending (s : State) (n : Nat) (v : Edge) : (s.setEdge n v).pending = s.pending := rfl
@[simp] theorem State.setEdge_host (s : State) (n : Nat) (v : Edge) : (s.setEdge n v).host = s.host := rfl
@[simp] theorem State.setEdge_cmds (s : State) (n : Nat) (v : Edge) : (s.setEdge n v).cmds = s.cmds := rfl
@[simp] theorem State.setEdge_progs (s : State) (n : Nat) (v : Edge) : (s.setEdge n v).progs = s.progs := rfl
@[simp] theorem State.setEdge_sched (s : State) (n : Nat) (v : Edge) : (s.setEdge n v).sched = s.sched := rfl
@[simp] theorem State.setEdge_flt (s : State) (n : Nat) (v : Edge) : (s.setEdge n v).flt = s.flt := rfl
@[simp] theorem State.setEdge_perf (s : State) (n : Nat) (v : Edge) : (s.setEdge n v).perf = s.perf := rfl
@[simp] theorem State.setEdge_mem (s : State) (n : Nat) (v : Edge) : (s.setEdge n v).mem = s.mem := rfl
@[simp] theorem State.setEdge_hbm (s : State) (n : Nat) (v : Edge) : (s.setEdge n v).hbm = s.hbm := rfl
@[simp] theorem State.setEdge_takes (s : State) (n : Nat) (v : Edge) : (s.setEdge n v).takes = s.takes := rfl
@[simp] theorem State.setEdge_reels (s : State) (n : Nat) (v : Edge) : (s.setEdge n v).reels = s.reels := rfl
@[simp] theorem State.setEdge_kv (s : State) (n : Nat) (v : Edge) : (s.setEdge n v).kv = s.kv := rfl
@[simp] theorem State.setEdge_cores (s : State) (n : Nat) (v : Edge) : (s.setEdge n v).cores = s.cores := rfl
@[simp] theorem State.setEdge_video (s : State) (n : Nat) (v : Edge) : (s.setEdge n v).video = s.video := rfl
@[simp] theorem State.setEdge_boot (s : State) (n : Nat) (v : Edge) : (s.setEdge n v).boot = s.boot := rfl
@[simp] theorem State.setEdge_fab (s : State) (n : Nat) (v : Edge) : (s.setEdge n v).fab = s.fab := rfl
@[simp] theorem State.setEdge_gaf (s : State) (n : Nat) (v : Edge) : (s.setEdge n v).gaf = s.gaf := rfl
@[simp] theorem State.setEdge_mod (s : State) (n : Nat) (v : Edge) : (s.setEdge n v).mod = s.mod := rfl
@[simp] theorem State.setEdge_out (s : State) (n : Nat) (v : Edge) : (s.setEdge n v).out = s.out := rfl
@[simp] theorem State.setEdge_nowUs (s : State) (n : Nat) (v : Edge) : (s.setEdge n v).nowUs = s.nowUs := rfl
@[simp] theorem State.setEdge_freeCtr (s : State) (n : Nat) (v : Edge) : (s.setEdge n v).freeCtr = s.freeCtr := rfl

/-! ### setEng -/

@[simp] theorem State.setEng_pending (s : State) (e : Nat) (v : DmaEng) : (s.setEng e v).pending = s.pending := rfl
@[simp] theorem State.setEng_host (s : State) (e : Nat) (v : DmaEng) : (s.setEng e v).host = s.host := rfl
@[simp] theorem State.setEng_cmds (s : State) (e : Nat) (v : DmaEng) : (s.setEng e v).cmds = s.cmds := rfl
@[simp] theorem State.setEng_progs (s : State) (e : Nat) (v : DmaEng) : (s.setEng e v).progs = s.progs := rfl
@[simp] theorem State.setEng_sched (s : State) (e : Nat) (v : DmaEng) : (s.setEng e v).sched = s.sched := rfl
@[simp] theorem State.setEng_flt (s : State) (e : Nat) (v : DmaEng) : (s.setEng e v).flt = s.flt := rfl
@[simp] theorem State.setEng_perf (s : State) (e : Nat) (v : DmaEng) : (s.setEng e v).perf = s.perf := rfl
@[simp] theorem State.setEng_mem (s : State) (e : Nat) (v : DmaEng) : (s.setEng e v).mem = s.mem := rfl
@[simp] theorem State.setEng_hbm (s : State) (e : Nat) (v : DmaEng) : (s.setEng e v).hbm = s.hbm := rfl
@[simp] theorem State.setEng_takes (s : State) (e : Nat) (v : DmaEng) : (s.setEng e v).takes = s.takes := rfl
@[simp] theorem State.setEng_reels (s : State) (e : Nat) (v : DmaEng) : (s.setEng e v).reels = s.reels := rfl
@[simp] theorem State.setEng_kv (s : State) (e : Nat) (v : DmaEng) : (s.setEng e v).kv = s.kv := rfl
@[simp] theorem State.setEng_cores (s : State) (e : Nat) (v : DmaEng) : (s.setEng e v).cores = s.cores := rfl
@[simp] theorem State.setEng_video (s : State) (e : Nat) (v : DmaEng) : (s.setEng e v).video = s.video := rfl
@[simp] theorem State.setEng_boot (s : State) (e : Nat) (v : DmaEng) : (s.setEng e v).boot = s.boot := rfl
@[simp] theorem State.setEng_fab (s : State) (e : Nat) (v : DmaEng) : (s.setEng e v).fab = s.fab := rfl
@[simp] theorem State.setEng_gaf (s : State) (e : Nat) (v : DmaEng) : (s.setEng e v).gaf = s.gaf := rfl
@[simp] theorem State.setEng_mod (s : State) (e : Nat) (v : DmaEng) : (s.setEng e v).mod = s.mod := rfl
@[simp] theorem State.setEng_out (s : State) (e : Nat) (v : DmaEng) : (s.setEng e v).out = s.out := rfl
@[simp] theorem State.setEng_nowUs (s : State) (e : Nat) (v : DmaEng) : (s.setEng e v).nowUs = s.nowUs := rfl
@[simp] theorem State.setEng_freeCtr (s : State) (e : Nat) (v : DmaEng) : (s.setEng e v).freeCtr = s.freeCtr := rfl

/-! ### setCtx -/

@[simp] theorem State.setCtx_pending (s : State) (c : Nat) (x : StreamCtx) : (s.setCtx c x).pending = s.pending := rfl
@[simp] theorem State.setCtx_host (s : State) (c : Nat) (x : StreamCtx) : (s.setCtx c x).host = s.host := rfl
@[simp] theorem State.setCtx_cmds (s : State) (c : Nat) (x : StreamCtx) : (s.setCtx c x).cmds = s.cmds := rfl
@[simp] theorem State.setCtx_progs (s : State) (c : Nat) (x : StreamCtx) : (s.setCtx c x).progs = s.progs := rfl
@[simp] theorem State.setCtx_sched (s : State) (c : Nat) (x : StreamCtx) : (s.setCtx c x).sched = s.sched := rfl
@[simp] theorem State.setCtx_flt (s : State) (c : Nat) (x : StreamCtx) : (s.setCtx c x).flt = s.flt := rfl
@[simp] theorem State.setCtx_perf (s : State) (c : Nat) (x : StreamCtx) : (s.setCtx c x).perf = s.perf := rfl
@[simp] theorem State.setCtx_mem (s : State) (c : Nat) (x : StreamCtx) : (s.setCtx c x).mem = s.mem := rfl
@[simp] theorem State.setCtx_hbm (s : State) (c : Nat) (x : StreamCtx) : (s.setCtx c x).hbm = s.hbm := rfl
@[simp] theorem State.setCtx_takes (s : State) (c : Nat) (x : StreamCtx) : (s.setCtx c x).takes = s.takes := rfl
@[simp] theorem State.setCtx_reels (s : State) (c : Nat) (x : StreamCtx) : (s.setCtx c x).reels = s.reels := rfl
@[simp] theorem State.setCtx_kv (s : State) (c : Nat) (x : StreamCtx) : (s.setCtx c x).kv = s.kv := rfl
@[simp] theorem State.setCtx_cores (s : State) (c : Nat) (x : StreamCtx) : (s.setCtx c x).cores = s.cores := rfl
@[simp] theorem State.setCtx_dma (s : State) (c : Nat) (x : StreamCtx) : (s.setCtx c x).dma = s.dma := rfl
@[simp] theorem State.setCtx_boot (s : State) (c : Nat) (x : StreamCtx) : (s.setCtx c x).boot = s.boot := rfl
@[simp] theorem State.setCtx_fab (s : State) (c : Nat) (x : StreamCtx) : (s.setCtx c x).fab = s.fab := rfl
@[simp] theorem State.setCtx_gaf (s : State) (c : Nat) (x : StreamCtx) : (s.setCtx c x).gaf = s.gaf := rfl
@[simp] theorem State.setCtx_mod (s : State) (c : Nat) (x : StreamCtx) : (s.setCtx c x).mod = s.mod := rfl
@[simp] theorem State.setCtx_out (s : State) (c : Nat) (x : StreamCtx) : (s.setCtx c x).out = s.out := rfl
@[simp] theorem State.setCtx_nowUs (s : State) (c : Nat) (x : StreamCtx) : (s.setCtx c x).nowUs = s.nowUs := rfl
@[simp] theorem State.setCtx_freeCtr (s : State) (c : Nat) (x : StreamCtx) : (s.setCtx c x).freeCtr = s.freeCtr := rfl

/-! ### setRun -/

@[simp] theorem State.setRun_pending (s : State) (r : SampleRun) : (s.setRun r).pending = s.pending := rfl
@[simp] theorem State.setRun_host (s : State) (r : SampleRun) : (s.setRun r).host = s.host := rfl
@[simp] theorem State.setRun_cmds (s : State) (r : SampleRun) : (s.setRun r).cmds = s.cmds := rfl
@[simp] theorem State.setRun_progs (s : State) (r : SampleRun) : (s.setRun r).progs = s.progs := rfl
@[simp] theorem State.setRun_sched (s : State) (r : SampleRun) : (s.setRun r).sched = s.sched := rfl
@[simp] theorem State.setRun_flt (s : State) (r : SampleRun) : (s.setRun r).flt = s.flt := rfl
@[simp] theorem State.setRun_perf (s : State) (r : SampleRun) : (s.setRun r).perf = s.perf := rfl
@[simp] theorem State.setRun_mem (s : State) (r : SampleRun) : (s.setRun r).mem = s.mem := rfl
@[simp] theorem State.setRun_hbm (s : State) (r : SampleRun) : (s.setRun r).hbm = s.hbm := rfl
@[simp] theorem State.setRun_takes (s : State) (r : SampleRun) : (s.setRun r).takes = s.takes := rfl
@[simp] theorem State.setRun_reels (s : State) (r : SampleRun) : (s.setRun r).reels = s.reels := rfl
@[simp] theorem State.setRun_kv (s : State) (r : SampleRun) : (s.setRun r).kv = s.kv := rfl
@[simp] theorem State.setRun_cores (s : State) (r : SampleRun) : (s.setRun r).cores = s.cores := rfl
@[simp] theorem State.setRun_dma (s : State) (r : SampleRun) : (s.setRun r).dma = s.dma := rfl
@[simp] theorem State.setRun_boot (s : State) (r : SampleRun) : (s.setRun r).boot = s.boot := rfl
@[simp] theorem State.setRun_fab (s : State) (r : SampleRun) : (s.setRun r).fab = s.fab := rfl
@[simp] theorem State.setRun_gaf (s : State) (r : SampleRun) : (s.setRun r).gaf = s.gaf := rfl
@[simp] theorem State.setRun_mod (s : State) (r : SampleRun) : (s.setRun r).mod = s.mod := rfl
@[simp] theorem State.setRun_out (s : State) (r : SampleRun) : (s.setRun r).out = s.out := rfl
@[simp] theorem State.setRun_nowUs (s : State) (r : SampleRun) : (s.setRun r).nowUs = s.nowUs := rfl
@[simp] theorem State.setRun_freeCtr (s : State) (r : SampleRun) : (s.setRun r).freeCtr = s.freeCtr := rfl

/-! ### setDec -/

@[simp] theorem State.setDec_pending (s : State) (e : Nat) (v : Engine) : (s.setDec e v).pending = s.pending := rfl
@[simp] theorem State.setDec_host (s : State) (e : Nat) (v : Engine) : (s.setDec e v).host = s.host := rfl
@[simp] theorem State.setDec_cmds (s : State) (e : Nat) (v : Engine) : (s.setDec e v).cmds = s.cmds := rfl
@[simp] theorem State.setDec_progs (s : State) (e : Nat) (v : Engine) : (s.setDec e v).progs = s.progs := rfl
@[simp] theorem State.setDec_sched (s : State) (e : Nat) (v : Engine) : (s.setDec e v).sched = s.sched := rfl
@[simp] theorem State.setDec_flt (s : State) (e : Nat) (v : Engine) : (s.setDec e v).flt = s.flt := rfl
@[simp] theorem State.setDec_perf (s : State) (e : Nat) (v : Engine) : (s.setDec e v).perf = s.perf := rfl
@[simp] theorem State.setDec_mem (s : State) (e : Nat) (v : Engine) : (s.setDec e v).mem = s.mem := rfl
@[simp] theorem State.setDec_hbm (s : State) (e : Nat) (v : Engine) : (s.setDec e v).hbm = s.hbm := rfl
@[simp] theorem State.setDec_takes (s : State) (e : Nat) (v : Engine) : (s.setDec e v).takes = s.takes := rfl
@[simp] theorem State.setDec_reels (s : State) (e : Nat) (v : Engine) : (s.setDec e v).reels = s.reels := rfl
@[simp] theorem State.setDec_kv (s : State) (e : Nat) (v : Engine) : (s.setDec e v).kv = s.kv := rfl
@[simp] theorem State.setDec_cores (s : State) (e : Nat) (v : Engine) : (s.setDec e v).cores = s.cores := rfl
@[simp] theorem State.setDec_dma (s : State) (e : Nat) (v : Engine) : (s.setDec e v).dma = s.dma := rfl
@[simp] theorem State.setDec_boot (s : State) (e : Nat) (v : Engine) : (s.setDec e v).boot = s.boot := rfl
@[simp] theorem State.setDec_fab (s : State) (e : Nat) (v : Engine) : (s.setDec e v).fab = s.fab := rfl
@[simp] theorem State.setDec_gaf (s : State) (e : Nat) (v : Engine) : (s.setDec e v).gaf = s.gaf := rfl
@[simp] theorem State.setDec_mod (s : State) (e : Nat) (v : Engine) : (s.setDec e v).mod = s.mod := rfl
@[simp] theorem State.setDec_out (s : State) (e : Nat) (v : Engine) : (s.setDec e v).out = s.out := rfl
@[simp] theorem State.setDec_nowUs (s : State) (e : Nat) (v : Engine) : (s.setDec e v).nowUs = s.nowUs := rfl
@[simp] theorem State.setDec_freeCtr (s : State) (e : Nat) (v : Engine) : (s.setDec e v).freeCtr = s.freeCtr := rfl

/-! ### withPending -/

@[simp] theorem State.withPending_host (s : State) (l : List Instr) : (s.withPending l).host = s.host := rfl
@[simp] theorem State.withPending_cmds (s : State) (l : List Instr) : (s.withPending l).cmds = s.cmds := rfl
@[simp] theorem State.withPending_progs (s : State) (l : List Instr) : (s.withPending l).progs = s.progs := rfl
@[simp] theorem State.withPending_sched (s : State) (l : List Instr) : (s.withPending l).sched = s.sched := rfl
@[simp] theorem State.withPending_flt (s : State) (l : List Instr) : (s.withPending l).flt = s.flt := rfl
@[simp] theorem State.withPending_perf (s : State) (l : List Instr) : (s.withPending l).perf = s.perf := rfl
@[simp] theorem State.withPending_mem (s : State) (l : List Instr) : (s.withPending l).mem = s.mem := rfl
@[simp] theorem State.withPending_hbm (s : State) (l : List Instr) : (s.withPending l).hbm = s.hbm := rfl
@[simp] theorem State.withPending_takes (s : State) (l : List Instr) : (s.withPending l).takes = s.takes := rfl
@[simp] theorem State.withPending_reels (s : State) (l : List Instr) : (s.withPending l).reels = s.reels := rfl
@[simp] theorem State.withPending_kv (s : State) (l : List Instr) : (s.withPending l).kv = s.kv := rfl
@[simp] theorem State.withPending_cores (s : State) (l : List Instr) : (s.withPending l).cores = s.cores := rfl
@[simp] theorem State.withPending_dma (s : State) (l : List Instr) : (s.withPending l).dma = s.dma := rfl
@[simp] theorem State.withPending_video (s : State) (l : List Instr) : (s.withPending l).video = s.video := rfl
@[simp] theorem State.withPending_boot (s : State) (l : List Instr) : (s.withPending l).boot = s.boot := rfl
@[simp] theorem State.withPending_fab (s : State) (l : List Instr) : (s.withPending l).fab = s.fab := rfl
@[simp] theorem State.withPending_gaf (s : State) (l : List Instr) : (s.withPending l).gaf = s.gaf := rfl
@[simp] theorem State.withPending_mod (s : State) (l : List Instr) : (s.withPending l).mod = s.mod := rfl
@[simp] theorem State.withPending_out (s : State) (l : List Instr) : (s.withPending l).out = s.out := rfl
@[simp] theorem State.withPending_nowUs (s : State) (l : List Instr) : (s.withPending l).nowUs = s.nowUs := rfl
@[simp] theorem State.withPending_freeCtr (s : State) (l : List Instr) : (s.withPending l).freeCtr = s.freeCtr := rfl

/-! ### idle -/

@[simp] theorem State.idle_pending (s : State) : (s.idle).pending = s.pending := rfl
@[simp] theorem State.idle_host (s : State) : (s.idle).host = s.host := rfl
@[simp] theorem State.idle_cmds (s : State) : (s.idle).cmds = s.cmds := rfl
@[simp] theorem State.idle_progs (s : State) : (s.idle).progs = s.progs := rfl
@[simp] theorem State.idle_sched (s : State) : (s.idle).sched = s.sched := rfl
@[simp] theorem State.idle_flt (s : State) : (s.idle).flt = s.flt := rfl
@[simp] theorem State.idle_perf (s : State) : (s.idle).perf = s.perf := rfl
@[simp] theorem State.idle_mem (s : State) : (s.idle).mem = s.mem := rfl
@[simp] theorem State.idle_hbm (s : State) : (s.idle).hbm = s.hbm := rfl
@[simp] theorem State.idle_takes (s : State) : (s.idle).takes = s.takes := rfl
@[simp] theorem State.idle_reels (s : State) : (s.idle).reels = s.reels := rfl
@[simp] theorem State.idle_kv (s : State) : (s.idle).kv = s.kv := rfl
@[simp] theorem State.idle_cores (s : State) : (s.idle).cores = s.cores := rfl
@[simp] theorem State.idle_dma (s : State) : (s.idle).dma = s.dma := rfl
@[simp] theorem State.idle_video (s : State) : (s.idle).video = s.video := rfl
@[simp] theorem State.idle_boot (s : State) : (s.idle).boot = s.boot := rfl
@[simp] theorem State.idle_fab (s : State) : (s.idle).fab = s.fab := rfl
@[simp] theorem State.idle_gaf (s : State) : (s.idle).gaf = s.gaf := rfl
@[simp] theorem State.idle_mod (s : State) : (s.idle).mod = s.mod := rfl
@[simp] theorem State.idle_out (s : State) : (s.idle).out = s.out := rfl
@[simp] theorem State.idle_freeCtr (s : State) : (s.idle).freeCtr = s.freeCtr := rfl

/-! ### draw -/

@[simp] theorem State.draw_pending (s : State) : s.draw.2.pending = s.pending := rfl
@[simp] theorem State.draw_host (s : State) : s.draw.2.host = s.host := rfl
@[simp] theorem State.draw_cmds (s : State) : s.draw.2.cmds = s.cmds := rfl
@[simp] theorem State.draw_progs (s : State) : s.draw.2.progs = s.progs := rfl
@[simp] theorem State.draw_sched (s : State) : s.draw.2.sched = s.sched := rfl
@[simp] theorem State.draw_flt (s : State) : s.draw.2.flt = s.flt := rfl
@[simp] theorem State.draw_perf (s : State) : s.draw.2.perf = s.perf := rfl
@[simp] theorem State.draw_mem (s : State) : s.draw.2.mem = s.mem := rfl
@[simp] theorem State.draw_hbm (s : State) : s.draw.2.hbm = s.hbm := rfl
@[simp] theorem State.draw_takes (s : State) : s.draw.2.takes = s.takes := rfl
@[simp] theorem State.draw_reels (s : State) : s.draw.2.reels = s.reels := rfl
@[simp] theorem State.draw_kv (s : State) : s.draw.2.kv = s.kv := rfl
@[simp] theorem State.draw_cores (s : State) : s.draw.2.cores = s.cores := rfl
@[simp] theorem State.draw_dma (s : State) : s.draw.2.dma = s.dma := rfl
@[simp] theorem State.draw_video (s : State) : s.draw.2.video = s.video := rfl
@[simp] theorem State.draw_boot (s : State) : s.draw.2.boot = s.boot := rfl
@[simp] theorem State.draw_fab (s : State) : s.draw.2.fab = s.fab := rfl
@[simp] theorem State.draw_gaf (s : State) : s.draw.2.gaf = s.gaf := rfl
@[simp] theorem State.draw_mod (s : State) : s.draw.2.mod = s.mod := rfl
@[simp] theorem State.draw_out (s : State) : s.draw.2.out = s.out := rfl
@[simp] theorem State.draw_nowUs (s : State) : s.draw.2.nowUs = s.nowUs := rfl

/-! ### bump: events counted -/

/-- Counting events changes the dailies only. -/
theorem State.bump_eq (s : State) (a : At) (ev n : Nat) : s.bump a ev n = { s with perf := (s.bump a ev n).perf } := by
  cases a <;> simp only [State.bump]
  split <;> rfl

@[simp] theorem State.bump_pending (s : State) (a : At) (ev n : Nat) : (s.bump a ev n).pending = s.pending := by rw [State.bump_eq]
@[simp] theorem State.bump_host (s : State) (a : At) (ev n : Nat) : (s.bump a ev n).host = s.host := by rw [State.bump_eq]
@[simp] theorem State.bump_cmds (s : State) (a : At) (ev n : Nat) : (s.bump a ev n).cmds = s.cmds := by rw [State.bump_eq]
@[simp] theorem State.bump_progs (s : State) (a : At) (ev n : Nat) : (s.bump a ev n).progs = s.progs := by rw [State.bump_eq]
@[simp] theorem State.bump_sched (s : State) (a : At) (ev n : Nat) : (s.bump a ev n).sched = s.sched := by rw [State.bump_eq]
@[simp] theorem State.bump_flt (s : State) (a : At) (ev n : Nat) : (s.bump a ev n).flt = s.flt := by rw [State.bump_eq]
@[simp] theorem State.bump_mem (s : State) (a : At) (ev n : Nat) : (s.bump a ev n).mem = s.mem := by rw [State.bump_eq]
@[simp] theorem State.bump_hbm (s : State) (a : At) (ev n : Nat) : (s.bump a ev n).hbm = s.hbm := by rw [State.bump_eq]
@[simp] theorem State.bump_takes (s : State) (a : At) (ev n : Nat) : (s.bump a ev n).takes = s.takes := by rw [State.bump_eq]
@[simp] theorem State.bump_reels (s : State) (a : At) (ev n : Nat) : (s.bump a ev n).reels = s.reels := by rw [State.bump_eq]
@[simp] theorem State.bump_kv (s : State) (a : At) (ev n : Nat) : (s.bump a ev n).kv = s.kv := by rw [State.bump_eq]
@[simp] theorem State.bump_cores (s : State) (a : At) (ev n : Nat) : (s.bump a ev n).cores = s.cores := by rw [State.bump_eq]
@[simp] theorem State.bump_dma (s : State) (a : At) (ev n : Nat) : (s.bump a ev n).dma = s.dma := by rw [State.bump_eq]
@[simp] theorem State.bump_video (s : State) (a : At) (ev n : Nat) : (s.bump a ev n).video = s.video := by rw [State.bump_eq]
@[simp] theorem State.bump_boot (s : State) (a : At) (ev n : Nat) : (s.bump a ev n).boot = s.boot := by rw [State.bump_eq]
@[simp] theorem State.bump_fab (s : State) (a : At) (ev n : Nat) : (s.bump a ev n).fab = s.fab := by rw [State.bump_eq]
@[simp] theorem State.bump_gaf (s : State) (a : At) (ev n : Nat) : (s.bump a ev n).gaf = s.gaf := by rw [State.bump_eq]
@[simp] theorem State.bump_mod (s : State) (a : At) (ev n : Nat) : (s.bump a ev n).mod = s.mod := by rw [State.bump_eq]
@[simp] theorem State.bump_out (s : State) (a : At) (ev n : Nat) : (s.bump a ev n).out = s.out := by rw [State.bump_eq]
@[simp] theorem State.bump_nowUs (s : State) (a : At) (ev n : Nat) : (s.bump a ev n).nowUs = s.nowUs := by rw [State.bump_eq]
@[simp] theorem State.bump_freeCtr (s : State) (a : At) (ev n : Nat) : (s.bump a ev n).freeCtr = s.freeCtr := by rw [State.bump_eq]

/-! ### updCmd: an accepted command changed -/

/-- Changing a command changes the table of commands only. -/
theorem State.updCmd_eq (s : State) (q : Word) (f : Cmd → Cmd) : s.updCmd q f = { s with cmds := (s.updCmd q f).cmds } := by
  simp only [State.updCmd]
  split <;> rfl

@[simp] theorem State.updCmd_pending (s : State) (q : Word) (f : Cmd → Cmd) : (s.updCmd q f).pending = s.pending := by rw [State.updCmd_eq]
@[simp] theorem State.updCmd_host (s : State) (q : Word) (f : Cmd → Cmd) : (s.updCmd q f).host = s.host := by rw [State.updCmd_eq]
@[simp] theorem State.updCmd_progs (s : State) (q : Word) (f : Cmd → Cmd) : (s.updCmd q f).progs = s.progs := by rw [State.updCmd_eq]
@[simp] theorem State.updCmd_sched (s : State) (q : Word) (f : Cmd → Cmd) : (s.updCmd q f).sched = s.sched := by rw [State.updCmd_eq]
@[simp] theorem State.updCmd_flt (s : State) (q : Word) (f : Cmd → Cmd) : (s.updCmd q f).flt = s.flt := by rw [State.updCmd_eq]
@[simp] theorem State.updCmd_perf (s : State) (q : Word) (f : Cmd → Cmd) : (s.updCmd q f).perf = s.perf := by rw [State.updCmd_eq]
@[simp] theorem State.updCmd_mem (s : State) (q : Word) (f : Cmd → Cmd) : (s.updCmd q f).mem = s.mem := by rw [State.updCmd_eq]
@[simp] theorem State.updCmd_hbm (s : State) (q : Word) (f : Cmd → Cmd) : (s.updCmd q f).hbm = s.hbm := by rw [State.updCmd_eq]
@[simp] theorem State.updCmd_takes (s : State) (q : Word) (f : Cmd → Cmd) : (s.updCmd q f).takes = s.takes := by rw [State.updCmd_eq]
@[simp] theorem State.updCmd_reels (s : State) (q : Word) (f : Cmd → Cmd) : (s.updCmd q f).reels = s.reels := by rw [State.updCmd_eq]
@[simp] theorem State.updCmd_kv (s : State) (q : Word) (f : Cmd → Cmd) : (s.updCmd q f).kv = s.kv := by rw [State.updCmd_eq]
@[simp] theorem State.updCmd_cores (s : State) (q : Word) (f : Cmd → Cmd) : (s.updCmd q f).cores = s.cores := by rw [State.updCmd_eq]
@[simp] theorem State.updCmd_dma (s : State) (q : Word) (f : Cmd → Cmd) : (s.updCmd q f).dma = s.dma := by rw [State.updCmd_eq]
@[simp] theorem State.updCmd_video (s : State) (q : Word) (f : Cmd → Cmd) : (s.updCmd q f).video = s.video := by rw [State.updCmd_eq]
@[simp] theorem State.updCmd_boot (s : State) (q : Word) (f : Cmd → Cmd) : (s.updCmd q f).boot = s.boot := by rw [State.updCmd_eq]
@[simp] theorem State.updCmd_fab (s : State) (q : Word) (f : Cmd → Cmd) : (s.updCmd q f).fab = s.fab := by rw [State.updCmd_eq]
@[simp] theorem State.updCmd_gaf (s : State) (q : Word) (f : Cmd → Cmd) : (s.updCmd q f).gaf = s.gaf := by rw [State.updCmd_eq]
@[simp] theorem State.updCmd_mod (s : State) (q : Word) (f : Cmd → Cmd) : (s.updCmd q f).mod = s.mod := by rw [State.updCmd_eq]
@[simp] theorem State.updCmd_out (s : State) (q : Word) (f : Cmd → Cmd) : (s.updCmd q f).out = s.out := by rw [State.updCmd_eq]
@[simp] theorem State.updCmd_nowUs (s : State) (q : Word) (f : Cmd → Cmd) : (s.updCmd q f).nowUs = s.nowUs := by rw [State.updCmd_eq]
@[simp] theorem State.updCmd_freeCtr (s : State) (q : Word) (f : Cmd → Cmd) : (s.updCmd q f).freeCtr = s.freeCtr := by rw [State.updCmd_eq]

/-! ### setFlag: a flag of a command -/

@[simp] theorem State.setFlag_pending (s : State) (seq : Word) (bit : Nat) : (s.setFlag seq bit).pending = s.pending := by rw [State.setFlag, State.updCmd_pending]
@[simp] theorem State.setFlag_host (s : State) (seq : Word) (bit : Nat) : (s.setFlag seq bit).host = s.host := by rw [State.setFlag, State.updCmd_host]
@[simp] theorem State.setFlag_progs (s : State) (seq : Word) (bit : Nat) : (s.setFlag seq bit).progs = s.progs := by rw [State.setFlag, State.updCmd_progs]
@[simp] theorem State.setFlag_sched (s : State) (seq : Word) (bit : Nat) : (s.setFlag seq bit).sched = s.sched := by rw [State.setFlag, State.updCmd_sched]
@[simp] theorem State.setFlag_flt (s : State) (seq : Word) (bit : Nat) : (s.setFlag seq bit).flt = s.flt := by rw [State.setFlag, State.updCmd_flt]
@[simp] theorem State.setFlag_perf (s : State) (seq : Word) (bit : Nat) : (s.setFlag seq bit).perf = s.perf := by rw [State.setFlag, State.updCmd_perf]
@[simp] theorem State.setFlag_mem (s : State) (seq : Word) (bit : Nat) : (s.setFlag seq bit).mem = s.mem := by rw [State.setFlag, State.updCmd_mem]
@[simp] theorem State.setFlag_hbm (s : State) (seq : Word) (bit : Nat) : (s.setFlag seq bit).hbm = s.hbm := by rw [State.setFlag, State.updCmd_hbm]
@[simp] theorem State.setFlag_takes (s : State) (seq : Word) (bit : Nat) : (s.setFlag seq bit).takes = s.takes := by rw [State.setFlag, State.updCmd_takes]
@[simp] theorem State.setFlag_reels (s : State) (seq : Word) (bit : Nat) : (s.setFlag seq bit).reels = s.reels := by rw [State.setFlag, State.updCmd_reels]
@[simp] theorem State.setFlag_kv (s : State) (seq : Word) (bit : Nat) : (s.setFlag seq bit).kv = s.kv := by rw [State.setFlag, State.updCmd_kv]
@[simp] theorem State.setFlag_cores (s : State) (seq : Word) (bit : Nat) : (s.setFlag seq bit).cores = s.cores := by rw [State.setFlag, State.updCmd_cores]
@[simp] theorem State.setFlag_dma (s : State) (seq : Word) (bit : Nat) : (s.setFlag seq bit).dma = s.dma := by rw [State.setFlag, State.updCmd_dma]
@[simp] theorem State.setFlag_video (s : State) (seq : Word) (bit : Nat) : (s.setFlag seq bit).video = s.video := by rw [State.setFlag, State.updCmd_video]
@[simp] theorem State.setFlag_boot (s : State) (seq : Word) (bit : Nat) : (s.setFlag seq bit).boot = s.boot := by rw [State.setFlag, State.updCmd_boot]
@[simp] theorem State.setFlag_fab (s : State) (seq : Word) (bit : Nat) : (s.setFlag seq bit).fab = s.fab := by rw [State.setFlag, State.updCmd_fab]
@[simp] theorem State.setFlag_gaf (s : State) (seq : Word) (bit : Nat) : (s.setFlag seq bit).gaf = s.gaf := by rw [State.setFlag, State.updCmd_gaf]
@[simp] theorem State.setFlag_mod (s : State) (seq : Word) (bit : Nat) : (s.setFlag seq bit).mod = s.mod := by rw [State.setFlag, State.updCmd_mod]
@[simp] theorem State.setFlag_out (s : State) (seq : Word) (bit : Nat) : (s.setFlag seq bit).out = s.out := by rw [State.setFlag, State.updCmd_out]
@[simp] theorem State.setFlag_nowUs (s : State) (seq : Word) (bit : Nat) : (s.setFlag seq bit).nowUs = s.nowUs := by rw [State.setFlag, State.updCmd_nowUs]
@[simp] theorem State.setFlag_freeCtr (s : State) (seq : Word) (bit : Nat) : (s.setFlag seq bit).freeCtr = s.freeCtr := by rw [State.setFlag, State.updCmd_freeCtr]

/-! ### updData: a command's data areas -/

@[simp] theorem State.updData_pending (s : State) (seq : Word) (g : DataAreas → DataAreas) : (s.updData seq g).pending = s.pending := by rw [State.updData, State.updCmd_pending]
@[simp] theorem State.updData_host (s : State) (seq : Word) (g : DataAreas → DataAreas) : (s.updData seq g).host = s.host := by rw [State.updData, State.updCmd_host]
@[simp] theorem State.updData_progs (s : State) (seq : Word) (g : DataAreas → DataAreas) : (s.updData seq g).progs = s.progs := by rw [State.updData, State.updCmd_progs]
@[simp] theorem State.updData_sched (s : State) (seq : Word) (g : DataAreas → DataAreas) : (s.updData seq g).sched = s.sched := by rw [State.updData, State.updCmd_sched]
@[simp] theorem State.updData_flt (s : State) (seq : Word) (g : DataAreas → DataAreas) : (s.updData seq g).flt = s.flt := by rw [State.updData, State.updCmd_flt]
@[simp] theorem State.updData_perf (s : State) (seq : Word) (g : DataAreas → DataAreas) : (s.updData seq g).perf = s.perf := by rw [State.updData, State.updCmd_perf]
@[simp] theorem State.updData_mem (s : State) (seq : Word) (g : DataAreas → DataAreas) : (s.updData seq g).mem = s.mem := by rw [State.updData, State.updCmd_mem]
@[simp] theorem State.updData_hbm (s : State) (seq : Word) (g : DataAreas → DataAreas) : (s.updData seq g).hbm = s.hbm := by rw [State.updData, State.updCmd_hbm]
@[simp] theorem State.updData_takes (s : State) (seq : Word) (g : DataAreas → DataAreas) : (s.updData seq g).takes = s.takes := by rw [State.updData, State.updCmd_takes]
@[simp] theorem State.updData_reels (s : State) (seq : Word) (g : DataAreas → DataAreas) : (s.updData seq g).reels = s.reels := by rw [State.updData, State.updCmd_reels]
@[simp] theorem State.updData_kv (s : State) (seq : Word) (g : DataAreas → DataAreas) : (s.updData seq g).kv = s.kv := by rw [State.updData, State.updCmd_kv]
@[simp] theorem State.updData_cores (s : State) (seq : Word) (g : DataAreas → DataAreas) : (s.updData seq g).cores = s.cores := by rw [State.updData, State.updCmd_cores]
@[simp] theorem State.updData_dma (s : State) (seq : Word) (g : DataAreas → DataAreas) : (s.updData seq g).dma = s.dma := by rw [State.updData, State.updCmd_dma]
@[simp] theorem State.updData_video (s : State) (seq : Word) (g : DataAreas → DataAreas) : (s.updData seq g).video = s.video := by rw [State.updData, State.updCmd_video]
@[simp] theorem State.updData_boot (s : State) (seq : Word) (g : DataAreas → DataAreas) : (s.updData seq g).boot = s.boot := by rw [State.updData, State.updCmd_boot]
@[simp] theorem State.updData_fab (s : State) (seq : Word) (g : DataAreas → DataAreas) : (s.updData seq g).fab = s.fab := by rw [State.updData, State.updCmd_fab]
@[simp] theorem State.updData_gaf (s : State) (seq : Word) (g : DataAreas → DataAreas) : (s.updData seq g).gaf = s.gaf := by rw [State.updData, State.updCmd_gaf]
@[simp] theorem State.updData_mod (s : State) (seq : Word) (g : DataAreas → DataAreas) : (s.updData seq g).mod = s.mod := by rw [State.updData, State.updCmd_mod]
@[simp] theorem State.updData_out (s : State) (seq : Word) (g : DataAreas → DataAreas) : (s.updData seq g).out = s.out := by rw [State.updData, State.updCmd_out]
@[simp] theorem State.updData_nowUs (s : State) (seq : Word) (g : DataAreas → DataAreas) : (s.updData seq g).nowUs = s.nowUs := by rw [State.updData, State.updCmd_nowUs]
@[simp] theorem State.updData_freeCtr (s : State) (seq : Word) (g : DataAreas → DataAreas) : (s.updData seq g).freeCtr = s.freeCtr := by rw [State.updData, State.updCmd_freeCtr]

/-! ### setPref: a prefetch run -/

@[simp] theorem State.setPref_pending (s : State) (seq : Word) (ix : Nat) (g : PfRun → PfRun) : (s.setPref seq ix g).pending = s.pending := by rw [State.setPref, State.updCmd_pending]
@[simp] theorem State.setPref_host (s : State) (seq : Word) (ix : Nat) (g : PfRun → PfRun) : (s.setPref seq ix g).host = s.host := by rw [State.setPref, State.updCmd_host]
@[simp] theorem State.setPref_progs (s : State) (seq : Word) (ix : Nat) (g : PfRun → PfRun) : (s.setPref seq ix g).progs = s.progs := by rw [State.setPref, State.updCmd_progs]
@[simp] theorem State.setPref_sched (s : State) (seq : Word) (ix : Nat) (g : PfRun → PfRun) : (s.setPref seq ix g).sched = s.sched := by rw [State.setPref, State.updCmd_sched]
@[simp] theorem State.setPref_flt (s : State) (seq : Word) (ix : Nat) (g : PfRun → PfRun) : (s.setPref seq ix g).flt = s.flt := by rw [State.setPref, State.updCmd_flt]
@[simp] theorem State.setPref_perf (s : State) (seq : Word) (ix : Nat) (g : PfRun → PfRun) : (s.setPref seq ix g).perf = s.perf := by rw [State.setPref, State.updCmd_perf]
@[simp] theorem State.setPref_mem (s : State) (seq : Word) (ix : Nat) (g : PfRun → PfRun) : (s.setPref seq ix g).mem = s.mem := by rw [State.setPref, State.updCmd_mem]
@[simp] theorem State.setPref_hbm (s : State) (seq : Word) (ix : Nat) (g : PfRun → PfRun) : (s.setPref seq ix g).hbm = s.hbm := by rw [State.setPref, State.updCmd_hbm]
@[simp] theorem State.setPref_takes (s : State) (seq : Word) (ix : Nat) (g : PfRun → PfRun) : (s.setPref seq ix g).takes = s.takes := by rw [State.setPref, State.updCmd_takes]
@[simp] theorem State.setPref_reels (s : State) (seq : Word) (ix : Nat) (g : PfRun → PfRun) : (s.setPref seq ix g).reels = s.reels := by rw [State.setPref, State.updCmd_reels]
@[simp] theorem State.setPref_kv (s : State) (seq : Word) (ix : Nat) (g : PfRun → PfRun) : (s.setPref seq ix g).kv = s.kv := by rw [State.setPref, State.updCmd_kv]
@[simp] theorem State.setPref_cores (s : State) (seq : Word) (ix : Nat) (g : PfRun → PfRun) : (s.setPref seq ix g).cores = s.cores := by rw [State.setPref, State.updCmd_cores]
@[simp] theorem State.setPref_dma (s : State) (seq : Word) (ix : Nat) (g : PfRun → PfRun) : (s.setPref seq ix g).dma = s.dma := by rw [State.setPref, State.updCmd_dma]
@[simp] theorem State.setPref_video (s : State) (seq : Word) (ix : Nat) (g : PfRun → PfRun) : (s.setPref seq ix g).video = s.video := by rw [State.setPref, State.updCmd_video]
@[simp] theorem State.setPref_boot (s : State) (seq : Word) (ix : Nat) (g : PfRun → PfRun) : (s.setPref seq ix g).boot = s.boot := by rw [State.setPref, State.updCmd_boot]
@[simp] theorem State.setPref_fab (s : State) (seq : Word) (ix : Nat) (g : PfRun → PfRun) : (s.setPref seq ix g).fab = s.fab := by rw [State.setPref, State.updCmd_fab]
@[simp] theorem State.setPref_gaf (s : State) (seq : Word) (ix : Nat) (g : PfRun → PfRun) : (s.setPref seq ix g).gaf = s.gaf := by rw [State.setPref, State.updCmd_gaf]
@[simp] theorem State.setPref_mod (s : State) (seq : Word) (ix : Nat) (g : PfRun → PfRun) : (s.setPref seq ix g).mod = s.mod := by rw [State.setPref, State.updCmd_mod]
@[simp] theorem State.setPref_out (s : State) (seq : Word) (ix : Nat) (g : PfRun → PfRun) : (s.setPref seq ix g).out = s.out := by rw [State.setPref, State.updCmd_out]
@[simp] theorem State.setPref_nowUs (s : State) (seq : Word) (ix : Nat) (g : PfRun → PfRun) : (s.setPref seq ix g).nowUs = s.nowUs := by rw [State.setPref, State.updCmd_nowUs]
@[simp] theorem State.setPref_freeCtr (s : State) (seq : Word) (ix : Nat) (g : PfRun → PfRun) : (s.setPref seq ix g).freeCtr = s.freeCtr := by rw [State.setPref, State.updCmd_freeCtr]

/-! ### setRuns: a core's array queue -/

@[simp] theorem State.setRuns_pending (s : State) (w : Nat) (q : List ArrayRun) : (s.setRuns w q).pending = s.pending := rfl
@[simp] theorem State.setRuns_host (s : State) (w : Nat) (q : List ArrayRun) : (s.setRuns w q).host = s.host := rfl
@[simp] theorem State.setRuns_cmds (s : State) (w : Nat) (q : List ArrayRun) : (s.setRuns w q).cmds = s.cmds := rfl
@[simp] theorem State.setRuns_progs (s : State) (w : Nat) (q : List ArrayRun) : (s.setRuns w q).progs = s.progs := rfl
@[simp] theorem State.setRuns_sched (s : State) (w : Nat) (q : List ArrayRun) : (s.setRuns w q).sched = s.sched := rfl
@[simp] theorem State.setRuns_flt (s : State) (w : Nat) (q : List ArrayRun) : (s.setRuns w q).flt = s.flt := rfl
@[simp] theorem State.setRuns_perf (s : State) (w : Nat) (q : List ArrayRun) : (s.setRuns w q).perf = s.perf := rfl
@[simp] theorem State.setRuns_mem (s : State) (w : Nat) (q : List ArrayRun) : (s.setRuns w q).mem = s.mem := rfl
@[simp] theorem State.setRuns_hbm (s : State) (w : Nat) (q : List ArrayRun) : (s.setRuns w q).hbm = s.hbm := rfl
@[simp] theorem State.setRuns_takes (s : State) (w : Nat) (q : List ArrayRun) : (s.setRuns w q).takes = s.takes := rfl
@[simp] theorem State.setRuns_reels (s : State) (w : Nat) (q : List ArrayRun) : (s.setRuns w q).reels = s.reels := rfl
@[simp] theorem State.setRuns_kv (s : State) (w : Nat) (q : List ArrayRun) : (s.setRuns w q).kv = s.kv := rfl
@[simp] theorem State.setRuns_dma (s : State) (w : Nat) (q : List ArrayRun) : (s.setRuns w q).dma = s.dma := rfl
@[simp] theorem State.setRuns_video (s : State) (w : Nat) (q : List ArrayRun) : (s.setRuns w q).video = s.video := rfl
@[simp] theorem State.setRuns_boot (s : State) (w : Nat) (q : List ArrayRun) : (s.setRuns w q).boot = s.boot := rfl
@[simp] theorem State.setRuns_fab (s : State) (w : Nat) (q : List ArrayRun) : (s.setRuns w q).fab = s.fab := rfl
@[simp] theorem State.setRuns_gaf (s : State) (w : Nat) (q : List ArrayRun) : (s.setRuns w q).gaf = s.gaf := rfl
@[simp] theorem State.setRuns_mod (s : State) (w : Nat) (q : List ArrayRun) : (s.setRuns w q).mod = s.mod := rfl
@[simp] theorem State.setRuns_out (s : State) (w : Nat) (q : List ArrayRun) : (s.setRuns w q).out = s.out := rfl
@[simp] theorem State.setRuns_nowUs (s : State) (w : Nat) (q : List ArrayRun) : (s.setRuns w q).nowUs = s.nowUs := rfl
@[simp] theorem State.setRuns_freeCtr (s : State) (w : Nat) (q : List ArrayRun) : (s.setRuns w q).freeCtr = s.freeCtr := rfl

/-! ### setDesc: a channel's descriptor -/

@[simp] theorem State.setDesc_pending (s : State) (e c j : Nat) (d : DmaDesc) : (s.setDesc e c j d).pending = s.pending := rfl
@[simp] theorem State.setDesc_host (s : State) (e c j : Nat) (d : DmaDesc) : (s.setDesc e c j d).host = s.host := rfl
@[simp] theorem State.setDesc_cmds (s : State) (e c j : Nat) (d : DmaDesc) : (s.setDesc e c j d).cmds = s.cmds := rfl
@[simp] theorem State.setDesc_progs (s : State) (e c j : Nat) (d : DmaDesc) : (s.setDesc e c j d).progs = s.progs := rfl
@[simp] theorem State.setDesc_sched (s : State) (e c j : Nat) (d : DmaDesc) : (s.setDesc e c j d).sched = s.sched := rfl
@[simp] theorem State.setDesc_flt (s : State) (e c j : Nat) (d : DmaDesc) : (s.setDesc e c j d).flt = s.flt := rfl
@[simp] theorem State.setDesc_perf (s : State) (e c j : Nat) (d : DmaDesc) : (s.setDesc e c j d).perf = s.perf := rfl
@[simp] theorem State.setDesc_mem (s : State) (e c j : Nat) (d : DmaDesc) : (s.setDesc e c j d).mem = s.mem := rfl
@[simp] theorem State.setDesc_hbm (s : State) (e c j : Nat) (d : DmaDesc) : (s.setDesc e c j d).hbm = s.hbm := rfl
@[simp] theorem State.setDesc_takes (s : State) (e c j : Nat) (d : DmaDesc) : (s.setDesc e c j d).takes = s.takes := rfl
@[simp] theorem State.setDesc_reels (s : State) (e c j : Nat) (d : DmaDesc) : (s.setDesc e c j d).reels = s.reels := rfl
@[simp] theorem State.setDesc_kv (s : State) (e c j : Nat) (d : DmaDesc) : (s.setDesc e c j d).kv = s.kv := rfl
@[simp] theorem State.setDesc_cores (s : State) (e c j : Nat) (d : DmaDesc) : (s.setDesc e c j d).cores = s.cores := rfl
@[simp] theorem State.setDesc_video (s : State) (e c j : Nat) (d : DmaDesc) : (s.setDesc e c j d).video = s.video := rfl
@[simp] theorem State.setDesc_boot (s : State) (e c j : Nat) (d : DmaDesc) : (s.setDesc e c j d).boot = s.boot := rfl
@[simp] theorem State.setDesc_fab (s : State) (e c j : Nat) (d : DmaDesc) : (s.setDesc e c j d).fab = s.fab := rfl
@[simp] theorem State.setDesc_gaf (s : State) (e c j : Nat) (d : DmaDesc) : (s.setDesc e c j d).gaf = s.gaf := rfl
@[simp] theorem State.setDesc_mod (s : State) (e c j : Nat) (d : DmaDesc) : (s.setDesc e c j d).mod = s.mod := rfl
@[simp] theorem State.setDesc_out (s : State) (e c j : Nat) (d : DmaDesc) : (s.setDesc e c j d).out = s.out := rfl
@[simp] theorem State.setDesc_nowUs (s : State) (e c j : Nat) (d : DmaDesc) : (s.setDesc e c j d).nowUs = s.nowUs := rfl
@[simp] theorem State.setDesc_freeCtr (s : State) (e c j : Nat) (d : DmaDesc) : (s.setDesc e c j d).freeCtr = s.freeCtr := rfl

/-! ### updBoundary: a boundary -/

@[simp] theorem State.updBoundary_pending (s : State) (seq : Word) (g : Boundary → Boundary) : (s.updBoundary seq g).pending = s.pending := rfl
@[simp] theorem State.updBoundary_host (s : State) (seq : Word) (g : Boundary → Boundary) : (s.updBoundary seq g).host = s.host := rfl
@[simp] theorem State.updBoundary_cmds (s : State) (seq : Word) (g : Boundary → Boundary) : (s.updBoundary seq g).cmds = s.cmds := rfl
@[simp] theorem State.updBoundary_progs (s : State) (seq : Word) (g : Boundary → Boundary) : (s.updBoundary seq g).progs = s.progs := rfl
@[simp] theorem State.updBoundary_sched (s : State) (seq : Word) (g : Boundary → Boundary) : (s.updBoundary seq g).sched = s.sched := rfl
@[simp] theorem State.updBoundary_flt (s : State) (seq : Word) (g : Boundary → Boundary) : (s.updBoundary seq g).flt = s.flt := rfl
@[simp] theorem State.updBoundary_perf (s : State) (seq : Word) (g : Boundary → Boundary) : (s.updBoundary seq g).perf = s.perf := rfl
@[simp] theorem State.updBoundary_mem (s : State) (seq : Word) (g : Boundary → Boundary) : (s.updBoundary seq g).mem = s.mem := rfl
@[simp] theorem State.updBoundary_hbm (s : State) (seq : Word) (g : Boundary → Boundary) : (s.updBoundary seq g).hbm = s.hbm := rfl
@[simp] theorem State.updBoundary_takes (s : State) (seq : Word) (g : Boundary → Boundary) : (s.updBoundary seq g).takes = s.takes := rfl
@[simp] theorem State.updBoundary_reels (s : State) (seq : Word) (g : Boundary → Boundary) : (s.updBoundary seq g).reels = s.reels := rfl
@[simp] theorem State.updBoundary_cores (s : State) (seq : Word) (g : Boundary → Boundary) : (s.updBoundary seq g).cores = s.cores := rfl
@[simp] theorem State.updBoundary_dma (s : State) (seq : Word) (g : Boundary → Boundary) : (s.updBoundary seq g).dma = s.dma := rfl
@[simp] theorem State.updBoundary_video (s : State) (seq : Word) (g : Boundary → Boundary) : (s.updBoundary seq g).video = s.video := rfl
@[simp] theorem State.updBoundary_boot (s : State) (seq : Word) (g : Boundary → Boundary) : (s.updBoundary seq g).boot = s.boot := rfl
@[simp] theorem State.updBoundary_fab (s : State) (seq : Word) (g : Boundary → Boundary) : (s.updBoundary seq g).fab = s.fab := rfl
@[simp] theorem State.updBoundary_gaf (s : State) (seq : Word) (g : Boundary → Boundary) : (s.updBoundary seq g).gaf = s.gaf := rfl
@[simp] theorem State.updBoundary_mod (s : State) (seq : Word) (g : Boundary → Boundary) : (s.updBoundary seq g).mod = s.mod := rfl
@[simp] theorem State.updBoundary_out (s : State) (seq : Word) (g : Boundary → Boundary) : (s.updBoundary seq g).out = s.out := rfl
@[simp] theorem State.updBoundary_nowUs (s : State) (seq : Word) (g : Boundary → Boundary) : (s.updBoundary seq g).nowUs = s.nowUs := rfl
@[simp] theorem State.updBoundary_freeCtr (s : State) (seq : Word) (g : Boundary → Boundary) : (s.updBoundary seq g).freeCtr = s.freeCtr := rfl

end Sys2Proof.Machine
end

