-- ==== Sys2Proof/Laws/Tab.lean ====
section
/-! SUPPORT. Sparse tables: a read after a write gives the value written, every other index reads as before. -/

namespace Sys2Proof

variable {α : Type}

@[simp] theorem Tab.at_nil (k : Nat) (d : α) : Tab.at ([] : Tab α) k d = d := rfl

@[simp] theorem Tab.find_nil (k : Nat) : Tab.find ([] : Tab α) k = none := rfl

/-- Reading an index is finding it, or the default. -/
theorem Tab.at_eq_find (t : Tab α) (k : Nat) (d : α) : Tab.at t k d = (Tab.find t k).getD d := by
  induction t with
  | nil => rfl
  | cons p r ih =>
    obtain ⟨k', v⟩ := p
    by_cases h : k = k' <;> simp [Tab.at, Tab.find, h]
    exact ih

@[simp] theorem Tab.find_put_same (t : Tab α) (k : Nat) (v : α) : Tab.find (Tab.put t k v) k = some v := by
  induction t with
  | nil => simp [Tab.put, Tab.find]
  | cons p r ih =>
    obtain ⟨k', w⟩ := p
    unfold Tab.put
    split
    · simp [Tab.find]
    · split
      · simp [Tab.find]
      · rename_i h _
        simp [Tab.find, h, ih]

theorem Tab.find_put_ne (t : Tab α) {k j : Nat} (v : α) (h : j ≠ k) : Tab.find (Tab.put t k v) j = Tab.find t j := by
  induction t with
  | nil => simp [Tab.put, Tab.find, h]
  | cons p r ih =>
    obtain ⟨k', w⟩ := p
    unfold Tab.put
    split
    · rename_i e
      subst e
      simp [Tab.find, h]
    · split
      · simp [Tab.find, h]
      · simp [Tab.find, ih]

@[simp] theorem Tab.at_put_same (t : Tab α) (k : Nat) (v d : α) : Tab.at (Tab.put t k v) k d = v := by
  simp [Tab.at_eq_find]

theorem Tab.at_put_ne (t : Tab α) {k j : Nat} (v d : α) (h : j ≠ k) : Tab.at (Tab.put t k v) j d = Tab.at t j d := by
  simp [Tab.at_eq_find, Tab.find_put_ne t v h]

theorem Tab.at_put (t : Tab α) (k j : Nat) (v d : α) : Tab.at (Tab.put t k v) j d = if j = k then v else Tab.at t j d := by
  by_cases h : j = k
  · simp [h]
  · simp [h, Tab.at_put_ne t v d h]

@[simp] theorem Tab.at_upd_same (t : Tab α) (k : Nat) (d : α) (f : α → α) : Tab.at (Tab.upd t k d f) k d = f (Tab.at t k d) := by
  simp [Tab.upd]

theorem Tab.at_upd_ne (t : Tab α) {k j : Nat} (d : α) (f : α → α) (h : j ≠ k) : Tab.at (Tab.upd t k d f) j d = Tab.at t j d := by
  simp [Tab.upd, Tab.at_put_ne _ _ _ h]

@[simp] theorem Tab.find_del_same (t : Tab α) (k : Nat) : Tab.find (Tab.del t k) k = none := by
  induction t with
  | nil => rfl
  | cons p r ih =>
    obtain ⟨k', w⟩ := p
    by_cases h : k' = k
    · simpa [Tab.del, h] using ih
    · have h' : ¬ k = k' := fun e => h e.symm
      have : Tab.del ((k', w) :: r) k = (k', w) :: Tab.del r k := by simp [Tab.del, h]
      rw [this]
      simpa [Tab.find, h'] using ih

theorem Tab.find_del_ne (t : Tab α) {k j : Nat} (h : j ≠ k) : Tab.find (Tab.del t k) j = Tab.find t j := by
  induction t with
  | nil => rfl
  | cons p r ih =>
    obtain ⟨k', w⟩ := p
    by_cases e : k' = k
    · have h' : ¬ j = k' := fun x => h (x.trans e)
      have : Tab.del ((k', w) :: r) k = Tab.del r k := by simp [Tab.del, e]
      rw [this, ih]
      simp [Tab.find, h']
    · have : Tab.del ((k', w) :: r) k = (k', w) :: Tab.del r k := by simp [Tab.del, e]
      rw [this]
      simp [Tab.find, ih]

end Sys2Proof
end

