-- ==== Sys2Proof/Laws/Core.lean ====
section
/-! SUPPORT. Cores: reading a core after a write, index registers, the issue of an instruction and what it leaves alone. -/

namespace Sys2Proof.Machine

@[simp] theorem State.core_setCore_same (s : State) (w : Nat) (c : Core) : (s.setCore w c).core w = c := by
  simp [State.core, State.setCore]

theorem State.core_setCore_ne (s : State) {w v : Nat} (c : Core) (h : v ≠ w) : (s.setCore w c).core v = s.core v := by
  simp [State.core, State.setCore, Tab.at_put_ne _ _ _ h]

@[simp] theorem State.core_updCore_same (s : State) (w : Nat) (f : Core → Core) : (s.updCore w f).core w = f (s.core w) := by
  simp [State.updCore]

theorem State.core_updCore_ne (s : State) {w v : Nat} (f : Core → Core) (h : v ≠ w) : (s.updCore w f).core v = s.core v := by
  simp [State.updCore, State.core_setCore_ne _ _ h]

@[simp] theorem State.core_bump (s : State) (a : At) (ev n w : Nat) : (s.bump a ev n).core w = s.core w := by simp [State.core]

/-! ### Index registers (R259): X0 reads zero and ignores writes -/

@[simp] theorem Core.x_zero (c : Core) : c.x 0 = 0 := rfl

theorem Core.x_setX (c : Core) (i j : Nat) (v : Word) : (c.setX i v).x j = if j = i then (if i = 0 then 0 else v) else c.x j := by
  unfold Core.setX Core.x
  by_cases hi : i = 0
  · subst hi
    by_cases hj : j = 0 <;> simp [hj]
  · by_cases hj : j = 0
    · have : ¬ 0 = i := fun e => hi e.symm
      simp [hj, this]
    · simp [hi, hj, Tab.at_put]

@[simp] theorem Core.setX_tiles (c : Core) (i : Nat) (v : Word) : (c.setX i v).tiles = c.tiles := by
  unfold Core.setX
  split <;> rfl

@[simp] theorem Core.setX_preds (c : Core) (i : Nat) (v : Word) : (c.setX i v).preds = c.preds := by
  unfold Core.setX
  split <;> rfl

@[simp] theorem Core.setX_owner (c : Core) (i : Nat) (v : Word) : (c.setX i v).owner = c.owner := by
  unfold Core.setX
  split <;> rfl

/-! ### Past an instruction -/

/-- A core past an instruction differs in its position and its open loops only. -/
theorem Core.next_eq (c : Core) : c.next = { c with pos := c.next.pos, loops := c.next.loops } := by
  unfold Core.next
  split
  rfl

@[simp] theorem Core.next_xs (c : Core) : c.next.xs = c.xs := by rw [Core.next_eq]

@[simp] theorem Core.next_tiles (c : Core) : c.next.tiles = c.tiles := by rw [Core.next_eq]

@[simp] theorem Core.next_preds (c : Core) : c.next.preds = c.preds := by rw [Core.next_eq]

@[simp] theorem Core.next_hold (c : Core) : c.next.hold = c.hold := by rw [Core.next_eq]

@[simp] theorem Core.next_owner (c : Core) : c.next.owner = c.owner := by rw [Core.next_eq]

@[simp] theorem Core.next_queue (c : Core) : c.next.queue = c.queue := by rw [Core.next_eq]

@[simp] theorem Core.next_await (c : Core) : c.next.await = c.await := by rw [Core.next_eq]

@[simp] theorem Core.next_ramp (c : Core) : c.next.ramp = c.ramp := by rw [Core.next_eq]

@[simp] theorem Core.next_x (c : Core) (i : Nat) : c.next.x i = c.x i := by simp [Core.x]

/-- Retiring an instruction changes the cores only. -/
theorem State.retire_eq (s : State) (w : Nat) : s.retire w = { s with cores := (s.retire w).cores } := by
  simp only [State.retire]
  split <;> rfl

theorem State.core_retire_ne (s : State) {w v : Nat} (h : v ≠ w) : (s.retire w).core v = s.core v := by
  simp only [State.retire]
  split
  · rfl
  · exact State.core_setCore_ne _ _ h

/-- Retiring moves a core on when it still has an owner. -/
theorem State.core_retire_same (s : State) (w : Nat) :
    (s.retire w).core w = if (s.core w).owner.isNone then s.core w else (s.core w).next := by
  simp only [State.retire]
  split <;> simp

@[simp] theorem State.x_retire (s : State) (w v i : Nat) : ((s.retire w).core v).x i = (s.core v).x i := by
  by_cases h : v = w
  · subst h
    rw [State.core_retire_same]
    split <;> simp
  · rw [State.core_retire_ne _ h]

@[simp] theorem State.tiles_retire (s : State) (w v : Nat) : ((s.retire w).core v).tiles = (s.core v).tiles := by
  by_cases h : v = w
  · subst h
    rw [State.core_retire_same]
    split <;> simp
  · rw [State.core_retire_ne _ h]

@[simp] theorem State.preds_retire (s : State) (w v : Nat) : ((s.retire w).core v).preds = (s.core v).preds := by
  by_cases h : v = w
  · subst h
    rw [State.core_retire_same]
    split <;> simp
  · rw [State.core_retire_ne _ h]

@[simp] theorem State.hold_retire (s : State) (w v : Nat) : ((s.retire w).core v).hold = (s.core v).hold := by
  by_cases h : v = w
  · subst h
    rw [State.core_retire_same]
    split <;> simp
  · rw [State.core_retire_ne _ h]

@[simp] theorem State.queue_retire (s : State) (w v : Nat) : ((s.retire w).core v).queue = (s.core v).queue := by
  by_cases h : v = w
  · subst h
    rw [State.core_retire_same]
    split <;> simp
  · rw [State.core_retire_ne _ h]

/-! ### Issue -/

@[simp] theorem Core.unheld_xs (c : Core) : c.unheld.xs = c.xs := rfl

@[simp] theorem Core.unheld_x (c : Core) (i : Nat) : c.unheld.x i = c.x i := rfl

@[simp] theorem Core.unheld_tiles (c : Core) : c.unheld.tiles = c.tiles := rfl

@[simp] theorem Core.unheld_preds (c : Core) : c.unheld.preds = c.preds := rfl

/-- An instruction that issues, does not stall and leaves its command running: its effect, and the core past it. -/
theorem issue_next {w : CoreIx} {word : Dword} {want : Nat → Bool} {f : Kern → State → Option State} {s s' : State} {k : Kern}
    (hi : s.issuing w.val word.toNat = some k) (hw : want word.toNat = true) (hb : wordBad word.toNat = false)
    (hf : f k (s.atIssue w.val) = some s') (ho : (s'.core w.val).owner.isSome = true) :
    issue w word want f s = .next (s'.retire w.val) := by
  simp [issue, hi, hw, hb, hf, ho]

/-- An instruction that issues and ends its command does so behind the array instructions before it (R182, R226). -/
theorem issue_ends {w : CoreIx} {word : Dword} {want : Nat → Bool} {f : Kern → State → Option State} {s s' t : State} {k : Kern}
    (hi : s.issuing w.val word.toNat = some k) (hw : want word.toNat = true) (hb : wordBad word.toNat = false)
    (hf : f k (s.atIssue w.val) = some s') (ho : (s'.core w.val).owner.isSome = false)
    (ht : f k ((s.atIssue w.val).settleArray k w.val) = some t) : issue w word want f s = .next t := by
  simp [issue, hi, hw, hb, hf, ho, ht]

/-- An instruction that stalls changes nothing. -/
theorem issue_stalls {w : CoreIx} {word : Dword} {want : Nat → Bool} {f : Kern → State → Option State} {s : State} {k : Kern}
    (hi : s.issuing w.val word.toNat = some k) (hw : want word.toNat = true) (hb : wordBad word.toNat = false)
    (hf : f k (s.atIssue w.val) = none) : issue w word want f s = .next s := by
  simp [issue, hi, hw, hb, hf]

/-- A core with no element program under way meets an instruction as it stands, free of an AWAIT that is over. -/
theorem State.atIssue_idle {s : State} {w : Nat} (h : (s.core w).elem = none) : s.atIssue w = s.updCore w Core.unheld := by
  rw [State.atIssue, State.finishElem, h]

/-- Every word of a core's stream ends in a next state. -/
theorem issue_total (w : CoreIx) (word : Dword) (want : Nat → Bool) (f : Kern → State → Option State) (s : State) :
    ∃ t, issue w word want f s = .next t := by
  unfold issue
  repeat' (first | exact ⟨_, rfl⟩ | split | dsimp only)

end Sys2Proof.Machine
end

