-- ==== Sys2Proof/Laws/Work.lean ====
section
/-! SUPPORT. What a command's work and its end leave alone, beside the records and the accepted commands: `Work s t`. -/

namespace Sys2Proof.Machine

/-- The units that the end of a command's work leaves alone are the same, but for the perturbation block. -/
structure Work (s t : State) : Prop where
  pending : t.pending = s.pending
  host : t.host = s.host
  cmds : t.cmds = s.cmds
  progs : t.progs = s.progs
  boot : t.boot = s.boot
  gaf : t.gaf = s.gaf
  mod : t.mod = s.mod
  nowUs : t.nowUs = s.nowUs
  freeCtr : t.freeCtr = s.freeCtr
  flt_base : t.flt.base = s.flt.base
  sched_slates : t.sched.slates = s.sched.slates

theorem Work.refl (s : State) : Work s s := ⟨rfl, rfl, rfl, rfl, rfl, rfl, rfl, rfl, rfl, rfl, rfl⟩

theorem Work.trans {s t u : State} (h : Work s t) (g : Work t u) : Work s u :=
  ⟨g.pending.trans h.pending, g.host.trans h.host, g.cmds.trans h.cmds, g.progs.trans h.progs, g.boot.trans h.boot, g.gaf.trans h.gaf, g.mod.trans h.mod, g.nowUs.trans h.nowUs, g.freeCtr.trans h.freeCtr, g.flt_base.trans h.flt_base, g.sched_slates.trans h.sched_slates⟩

/-- The same, of a state given by its fields. -/
def WorkMk (s : State) (pending_ : List Instr) (host_ : HostIf) (cmds_ : Tab Cmd) (progs_ : Tab ProgSlot) (boot_ : Boot) (gaf_ : Gaffer) (mod_ : Module) (nowUs_ : Nat) (freeCtr_ : Nat) (flt_ : FaultUnit) (sched_ : Sched) : Prop :=
  pending_ = s.pending ∧ host_ = s.host ∧ cmds_ = s.cmds ∧ progs_ = s.progs ∧ boot_ = s.boot ∧ gaf_ = s.gaf ∧ mod_ = s.mod ∧ nowUs_ = s.nowUs ∧ freeCtr_ = s.freeCtr ∧ flt_.base = s.flt.base ∧ sched_.slates = s.sched.slates

theorem work_mk (s0 : State) {pending_} {host_} {cmds_} {progs_} {sched_} {flt_} {perf_} {mem_} {hbm_} {takes_} {reels_} {kv_} {cores_} {dma_} {video_} {boot_} {fab_} {gaf_} {mod_} {out_} {nowUs_} {freeCtr_} :
    Work s0 (State.mk pending_ host_ cmds_ progs_ sched_ flt_ perf_ mem_ hbm_ takes_ reels_ kv_ cores_ dma_ video_ boot_ fab_ gaf_ mod_ out_ nowUs_ freeCtr_) = WorkMk s0 pending_ host_ cmds_ progs_ boot_ gaf_ mod_ nowUs_ freeCtr_ flt_ sched_ := by
  refine propext ⟨fun h => ⟨h.pending, h.host, h.cmds, h.progs, h.boot, h.gaf, h.mod, h.nowUs, h.freeCtr, h.flt_base, h.sched_slates⟩, fun h => ?_⟩
  obtain ⟨a0, a1, a2, a3, a4, a5, a6, a7, a8, a9, a10⟩ := h
  exact ⟨a0, a1, a2, a3, a4, a5, a6, a7, a8, a9, a10⟩

theorem workMk_of {s t : State} {flt_ : FaultUnit} {sched_ : Sched} (g : Work s t) (hflt_base : flt_.base = t.flt.base) (hsched_slates : sched_.slates = t.sched.slates) : WorkMk s t.pending t.host t.cmds t.progs t.boot t.gaf t.mod t.nowUs t.freeCtr flt_ sched_ :=
  ⟨g.pending, g.host, g.cmds, g.progs, g.boot, g.gaf, g.mod, g.nowUs, g.freeCtr, hflt_base.trans g.flt_base, hsched_slates.trans g.sched_slates⟩

/-- The same, of an optional state that is there. -/
def WorkOpt (s : State) : Option State → Prop
  | some t => Work s t
  | none => True

theorem workOpt_some {s t : State} (h : Work s t) : WorkOpt s (some t) := h

theorem workOpt_none (s : State) : WorkOpt s none := trivial

theorem WorkOpt.get {s t : State} {o : Option State} (h : WorkOpt s o) (e : o = some t) : Work s t := by
  subst e
  exact h

theorem WorkOpt.getD {s t : State} {o : Option State} (h : WorkOpt s o) (g : Work s t) : Work s (o.getD t) := by
  cases o with
  | none => exact g
  | some u => exact h

theorem workOpt_map {α : Type} {s : State} {f : α → State} (h : ∀ a, Work s (f a)) (o : Option α) : WorkOpt s (o.map f) := by
  cases o with
  | none => trivial
  | some a => exact h a

theorem work_ite {s a b : State} {c : Prop} [Decidable c] (h : Work s a) (g : Work s b) : Work s (if c then a else b) := by
  split <;> assumption

theorem workOpt_ite {s : State} {a b : Option State} {c : Prop} [Decidable c] (h : WorkOpt s a) (g : WorkOpt s b) :
    WorkOpt s (if c then a else b) := by
  split <;> assumption

theorem foldl_work {α : Type} {s t : State} {f : State → α → State} (hf : ∀ u x, Work s u → Work s (f u x)) (l : List α)
    (h : Work s t) : Work s (l.foldl f t) := by
  induction l generalizing t with
  | nil => exact h
  | cons x r ih => exact ih (hf t x h)

theorem State.bump_work {i0 : State} (s : State) (a : At) (ev n : Nat) (hs : Work i0 s) :
    Work i0 (State.bump s a ev n) := by
  unfold State.bump
  with_reducible repeat' (first
    | assumption | dsimp only | simp only [work_mk] | refine workMk_of ?_ rfl rfl | refine work_ite ?_ ?_ | split)

theorem State.perturb_work {i0 : State} (s : State) (k unit : Nat) (hs : Work i0 s) :
    Work i0 (State.perturb s k unit).1 := by
  rw [State.perturb]
  with_reducible repeat' (first
    | assumption | dsimp only | apply State.bump_work | simp only [work_mk] | refine workMk_of ?_ rfl rfl | split | intro _)

theorem State.send_work {i0 : State} (s : State) (o : Out) (hs : Work i0 s) :
    Work i0 (State.send s o) := by
  rw [State.send]
  with_reducible repeat' (first
    | assumption | dsimp only | simp only [work_mk] | refine workMk_of ?_ rfl rfl)

theorem State.setCore_work {i0 : State} (s : State) (w : Nat) (c : Core) (hs : Work i0 s) :
    Work i0 (State.setCore s w c) := by
  rw [State.setCore]
  with_reducible repeat' (first
    | assumption | dsimp only | simp only [work_mk] | refine workMk_of ?_ rfl rfl)

theorem State.updCore_work {i0 : State} (s : State) (w : Nat) (f : Core → Core) (hs : Work i0 s) :
    Work i0 (State.updCore s w f) := by
  rw [State.updCore]
  with_reducible repeat' (first
    | assumption | dsimp only | apply State.setCore_work | apply hf)

theorem State.setKern_work {i0 : State} (s : State) (k : Kern) (hs : Work i0 s) :
    Work i0 (State.setKern s k) := by
  rw [State.setKern]
  with_reducible repeat' (first
    | assumption | dsimp only | simp only [work_mk] | refine workMk_of ?_ rfl rfl | refine work_ite ?_ ?_ | split | intro _)

theorem State.setChan_work {i0 : State} (s : State) (c : Nat) (v : HbmChan) (hs : Work i0 s) :
    Work i0 (State.setChan s c v) := by
  rw [State.setChan]
  with_reducible repeat' (first
    | assumption | dsimp only | simp only [work_mk] | refine workMk_of ?_ rfl rfl)

theorem State.countBurst_work {i0 : State} (s : State) (b : Nat) (wr : Bool) (hs : Work i0 s) :
    Work i0 (State.countBurst s b wr) := by
  rw [State.countBurst]
  with_reducible repeat' (first
    | assumption | dsimp only | apply State.bump_work | apply State.perturb_work | refine kept_snd ?_ (by assumption)
    | refine kept_fst ?_ (by assumption) | simp only [work_mk] | refine workMk_of ?_ rfl rfl | refine work_ite ?_ ?_ | split)

theorem State.hbmTouched_work {i0 : State} (s : State) (pa n : Nat) (hs : Work i0 s) :
    Work i0 (State.hbmTouched s pa n) := by
  rw [State.hbmTouched]
  with_reducible repeat' (first
    | assumption | dsimp only | apply State.countBurst_work | apply State.setChan_work | apply State.bump_work | simp only [work_mk]
    | refine workMk_of ?_ rfl rfl | refine foldl_work ?_ _ ?_ | refine work_ite ?_ ?_ | split | intro _)

theorem State.burstWrite_work {i0 : State} (s : State) (b off : Nat) (bs : List Byte) (poisoned : Bool) (hs : Work i0 s) :
    Work i0 (State.burstWrite s b off bs poisoned) := by
  rw [State.burstWrite]
  with_reducible repeat' (first
    | assumption | dsimp only | apply State.countBurst_work | simp only [work_mk] | refine workMk_of ?_ rfl rfl
   
    | refine work_ite ?_ ?_ | split | intro _)

theorem State.hbmWriteGo_work {i0 : State} (s : State) (y0 : Nat) (y1 : Nat) (y2 : List Byte) (y3 : Bool) (hs : Work i0 s) :
    Work i0 (State.hbmWriteGo s y0 y1 y2 y3) := by
  induction y0 generalizing s y1 y2 with
  | zero => exact hs
  | succ n ih =>
    unfold State.hbmWriteGo
    split
    · exact hs
    · exact ih _ _ _ (State.burstWrite_work _ _ _ _ _ hs)

theorem State.hbmWrite_work {i0 : State} (s : State) (pa : Nat) (bs : List Byte) (poisoned : Bool) (hs : Work i0 s) :
    Work i0 (State.hbmWrite s pa bs poisoned) := by
  rw [State.hbmWrite]
  with_reducible repeat' (first
    | assumption | dsimp only | apply State.hbmWriteGo_work)

theorem State.setPort_work {i0 : State} (s : State) (p : Nat) (v : FabPort) (hs : Work i0 s) :
    Work i0 (State.setPort s p v) := by
  rw [State.setPort]
  with_reducible repeat' (first
    | assumption | dsimp only | simp only [work_mk] | refine workMk_of ?_ rfl rfl)

theorem State.drainPort_work {i0 : State} (s : State) (p : Nat) (hs : Work i0 s) :
    Work i0 (State.drainPort s p) := by
  rw [State.drainPort]
  with_reducible repeat' (first
    | assumption | dsimp only | apply State.setPort_work | apply State.send_work | apply State.bump_work | simp only [work_mk]
    | refine workMk_of ?_ rfl rfl | refine foldl_work ?_ _ ?_ | split | intro _)

theorem State.sendOn_work {i0 : State} (s : State) (p : Nat) (f : Frame) (hs : Work i0 s) :
    Work i0 (State.sendOn s p f) := by
  rw [State.sendOn]
  with_reducible repeat' (first
    | assumption | dsimp only | apply State.setPort_work | apply State.drainPort_work | simp only [work_mk]
    | refine workMk_of ?_ rfl rfl)

theorem State.route?_work {i0 : State} (s : State) (f : Frame) (hs : Work i0 s) :
    WorkOpt i0 (State.route? s f) := by
  rw [State.route?]
  with_reducible repeat' (first
    | assumption | dsimp only | apply State.sendOn_work | refine workOpt_map ?_ _ | apply workOpt_some | exact workOpt_none _
    | simp only [id_eq] | intro _)

theorem State.sendFrame_work {i0 : State} (s : State) (f : Frame) (hs : Work i0 s) :
    Work i0 (State.sendFrame s f) := by
  rw [State.sendFrame]
  with_reducible repeat' (first
    | assumption | dsimp only | apply State.route?_work | apply WorkOpt.getD)

theorem State.respond_work {i0 : State} (s : State) (type flow status : Nat) (h : FrameHdr) (payload : List Byte) (hs : Work i0 s) :
    Work i0 (State.respond s type flow status h payload) := by
  rw [State.respond]
  with_reducible repeat' (first
    | assumption | dsimp only | apply State.sendFrame_work | simp only [id_eq])

theorem State.request_work {i0 : State} (s : State) (seq : Word) (dst flow type addr : Nat) (payload : List Byte) (kind : ReqKind) (hs : Work i0 s) :
    Work i0 (State.request s seq dst flow type addr payload kind) := by
  unfold State.request
  with_reducible repeat' (first
    | assumption | dsimp only | apply State.bump_work | apply State.sendFrame_work | simp only [work_mk] | refine workMk_of ?_ rfl rfl
    | simp only [id_eq] | split)

theorem State.cancelWaits_work {i0 : State} (s : State) (f : FabReq → Bool) (hs : Work i0 s) :
    Work i0 (State.cancelWaits s f) := by
  rw [State.cancelWaits]
  with_reducible repeat' (first
    | assumption | dsimp only | apply State.sendFrame_work | apply hf | simp only [work_mk] | refine workMk_of ?_ rfl rfl
    | simp only [id_eq] | refine foldl_work ?_ _ ?_ | intro _)

theorem State.dropReqs_work {i0 : State} (s : State) (seq : Word) (hs : Work i0 s) :
    Work i0 (State.dropReqs s seq) := by
  rw [State.dropReqs]
  with_reducible repeat' (first
    | assumption | dsimp only | apply State.cancelWaits_work | simp only [work_mk] | refine workMk_of ?_ rfl rfl | intro _)

theorem State.peerWrite_work {i0 : State} (s : State) (seq : Word) (flow id ad : Nat) (bs : List Byte) (hs : Work i0 s) :
    Work i0 (State.peerWrite s seq flow id ad bs) := by
  rw [State.peerWrite]
  with_reducible repeat' (first
    | assumption | dsimp only | apply State.request_work | simp only [id_eq] | refine foldl_work ?_ _ ?_ | intro _)

theorem State.peerAsk_work {i0 : State} (s : State) (seq : Word) (flow id ad n : Nat) (hs : Work i0 s) :
    Work i0 (State.peerAsk s seq flow id ad n) := by
  rw [State.peerAsk]
  with_reducible repeat' (first
    | assumption | dsimp only | apply State.request_work | simp only [id_eq] | refine foldl_work ?_ _ ?_ | refine work_ite ?_ ?_ | split
    | intro _)

theorem State.peerUsed_work {i0 : State} (s : State) (id ad n : Nat) (hs : Work i0 s) :
    Work i0 (State.peerUsed s id ad n) := by
  rw [State.peerUsed]
  with_reducible repeat' (first
    | assumption | dsimp only | simp only [work_mk] | refine workMk_of ?_ rfl rfl | simp only [id_eq] | intro _)

theorem State.holdWrite_work {i0 : State} (s : State) (m : Migration) (off : Nat) (bs : List Byte) (hs : Work i0 s) :
    Work i0 (State.holdWrite s m off bs) := by
  rw [State.holdWrite]
  with_reducible repeat' (first
    | assumption | dsimp only | simp only [work_mk] | refine workMk_of ?_ rfl rfl | refine work_ite ?_ ?_ | split | intro _)

theorem State.cowStore_work {i0 : State} (s : State) (t : Nat) (e : PageEnt) (o : Nat) (bs : List Byte) (hs : Work i0 s) :
    Work i0 (State.cowStore s t e o bs) := by
  rw [State.cowStore]
  with_reducible repeat' (first
    | assumption | dsimp only | simp only [work_mk] | refine workMk_of ?_ rfl rfl | refine work_ite ?_ ?_ | split | intro _)

theorem State.writePlace_work {i0 : State} (s : State) (p : Place) (bs : List Byte) (poisoned : Bool) (seq : Word) (flow : Nat) (hs : Work i0 s) :
    Work i0 (State.writePlace s p bs poisoned seq flow) := by
  unfold State.writePlace
  with_reducible repeat' (first
    | assumption | dsimp only | apply State.holdWrite_work | apply State.bump_work | apply State.hbmWrite_work | apply State.send_work
    | apply State.peerWrite_work | apply State.cowStore_work | simp only [work_mk] | refine workMk_of ?_ rfl rfl
   
    | simp only [id_eq] | refine work_ite ?_ ?_ | split | intro _)

theorem State.writeSpans_work {i0 : State} (s : State) (seq : Word) (flow : Nat) (poisoned : Bool) (y0 : List (Place × Nat × Nat)) (y1 : List Byte) (hs : Work i0 s) :
    Work i0 (State.writeSpans s seq flow poisoned y0 y1) := by
  induction y0 generalizing s seq flow poisoned y1 with
  | nil =>
    simp only [State.writeSpans]
    first | exact hs | exact workOpt_some hs | exact workP_some hs | exact keptE_ok hs | trivial
  | cons x r ih =>
    rw [State.writeSpans]
    with_reducible repeat' (first
      | assumption | apply ih | dsimp only | apply State.writePlace_work | split)

theorem State.writeVA_work {i0 : State} (s : State) (a : Acc) (va : Nat) (bs : List Byte) (poisoned : Bool) (hs : Work i0 s) :
    WorkOpt i0 (State.writeVA s a va bs poisoned) := by
  rw [State.writeVA]
  with_reducible repeat' (first
    | assumption | dsimp only | apply State.writeSpans_work | apply workOpt_some | exact workOpt_none _ | refine workOpt_ite ?_ ?_ | split
    | intro _)

theorem State.storeVA_work {i0 : State} (s : State) (a : Acc) (va : Nat) (bs : List Byte) (hs : Work i0 s) :
    Work i0 (State.storeVA s a va bs) := by
  rw [State.storeVA]
  with_reducible repeat' (first
    | assumption | dsimp only | apply State.writeVA_work | apply WorkOpt.getD)

theorem State.askPeers_work {i0 : State} (s : State) (a : Acc) (va n : Nat) (hs : Work i0 s) :
    Work i0 (State.askPeers s a va n) := by
  rw [State.askPeers]
  with_reducible repeat' (first
    | assumption | dsimp only | apply State.peerAsk_work | refine foldl_work ?_ _ ?_ | intro _)

theorem State.usePeers_work {i0 : State} (s : State) (a : Acc) (va n : Nat) (hs : Work i0 s) :
    Work i0 (State.usePeers s a va n) := by
  rw [State.usePeers]
  with_reducible repeat' (first
    | assumption | dsimp only | apply State.peerUsed_work | refine foldl_work ?_ _ ?_ | intro _)

theorem State.dropKernels_work {i0 : State} (s : State) (seq : Word) (hs : Work i0 s) :
    Work i0 (State.dropKernels s seq) := by
  rw [State.dropKernels]
  with_reducible repeat' (first
    | assumption | dsimp only | simp only [work_mk] | refine workMk_of ?_ rfl rfl | refine work_ite ?_ ?_ | split | intro _)

theorem State.setTake_work {i0 : State} (s : State) (t : Nat) (v : Take) (hs : Work i0 s) :
    Work i0 (State.setTake s t v) := by
  rw [State.setTake]
  with_reducible repeat' (first
    | assumption | dsimp only | simp only [work_mk] | refine workMk_of ?_ rfl rfl)

theorem State.setReel_work {i0 : State} (s : State) (i : Nat) (v : Reel) (hs : Work i0 s) :
    Work i0 (State.setReel s i v) := by
  rw [State.setReel]
  with_reducible repeat' (first
    | assumption | dsimp only | simp only [work_mk] | refine workMk_of ?_ rfl rfl)

theorem State.reapReel_work {i0 : State} (s : State) (i : Nat) (hs : Work i0 s) :
    Work i0 (State.reapReel s i) := by
  rw [State.reapReel]
  with_reducible repeat' (first
    | assumption | dsimp only | apply State.setReel_work | simp only [work_mk] | refine workMk_of ?_ rfl rfl | refine work_ite ?_ ?_
    | split | intro _)

theorem State.dropReel_work {i0 : State} (s : State) (i : Nat) (hs : Work i0 s) :
    Work i0 (State.dropReel s i) := by
  rw [State.dropReel]
  with_reducible repeat' (first
    | assumption | dsimp only | apply State.setReel_work | apply State.reapReel_work | simp only [work_mk] | refine workMk_of ?_ rfl rfl
    | refine work_ite ?_ ?_ | split)

theorem State.dropChunks_work {i0 : State} (s : State) (seq : Word) (hs : Work i0 s) :
    Work i0 (State.dropChunks s seq) := by
  rw [State.dropChunks]
  with_reducible repeat' (first
    | assumption | dsimp only | apply State.setReel_work | apply State.dropReel_work | simp only [work_mk] | refine workMk_of ?_ rfl rfl
    | refine foldl_work ?_ _ ?_ | refine work_ite ?_ ?_ | split | intro _)

theorem State.dropTakes_work {i0 : State} (s : State) (l : List Nat) (hs : Work i0 s) :
    Work i0 (State.dropTakes s l) := by
  rw [State.dropTakes]
  with_reducible repeat' (first
    | assumption | dsimp only | apply State.setTake_work | simp only [work_mk] | refine workMk_of ?_ rfl rfl | refine foldl_work ?_ _ ?_
    | refine work_ite ?_ ?_ | split | intro _)

theorem State.stopWork_work {i0 : State} (s : State) (seq : Word) (c : Cmd) (hs : Work i0 s) :
    Work i0 (State.stopWork s seq c) := by
  rw [State.stopWork]
  with_reducible repeat' (first
    | assumption | dsimp only | apply State.dropKernels_work | apply State.dropReqs_work | apply State.dropChunks_work
    | apply State.dropTakes_work | simp only [work_mk] | refine workMk_of ?_ rfl rfl | refine work_ite ?_ ?_ | split | intro _)

theorem State.setEng_work {i0 : State} (s : State) (e : Nat) (v : DmaEng) (hs : Work i0 s) :
    Work i0 (State.setEng s e v) := by
  rw [State.setEng]
  with_reducible repeat' (first
    | assumption | dsimp only | simp only [work_mk] | refine workMk_of ?_ rfl rfl)

theorem State.dmaRecord_work {i0 : State} (s : State) (e c : Nat) (d : DmaDesc) (st : Status) (cancelled : Bool) (hs : Work i0 s) :
    Work i0 (State.dmaRecord s e c d st cancelled) := by
  rw [State.dmaRecord]
  with_reducible repeat' (first
    | assumption | dsimp only | apply State.setEng_work | apply State.writeVA_work | refine WorkOpt.get ?_ (by assumption)
    | exact workOpt_none _ | simp only [work_mk] | refine workMk_of ?_ rfl rfl | refine work_ite ?_ ?_ | split)

theorem State.cancelDma_work {i0 : State} (s : State) (mine : DmaDesc → Bool) (st : Status) (hs : Work i0 s) :
    Work i0 (State.cancelDma s mine st) := by
  rw [State.cancelDma]
  with_reducible repeat' (first
    | assumption | dsimp only | apply State.dmaRecord_work | apply hmine | simp only [work_mk] | refine workMk_of ?_ rfl rfl
    | refine foldl_work ?_ _ ?_ | refine work_ite ?_ ?_ | split | intro _)

end Sys2Proof.Machine
end

