-- ==== Sys2Proof/Laws/Finish.lean ====
section
/-! SUPPORT. The end of a command: its completion record, what becomes of its entry and what it leaves alone. -/

namespace Sys2Proof.Machine

/-- Writing the extended result leaves the records and everything else of `Work` alone, but for the violation log. -/
theorem State.writeExt_cpls (s : State) (seq : Word) (c : Cmd) :
    (s.writeExt seq c).1.host.cpls = s.host.cpls ∧ (s.writeExt seq c).1.cmds = s.cmds ∧ (s.writeExt seq c).1.boot = s.boot ∧
    (s.writeExt seq c).1.gaf = s.gaf ∧ (s.writeExt seq c).1.mod = s.mod ∧ (s.writeExt seq c).1.flt.base = s.flt.base ∧
    (s.writeExt seq c).1.progs = s.progs ∧ (s.writeExt seq c).1.pending = s.pending ∧ (s.writeExt seq c).1.nowUs = s.nowUs ∧
    (s.writeExt seq c).1.sched.slates = s.sched.slates := by
  rw [State.writeExt]
  split
  · simp
  · have h := State.writeVA_work s {} (s.host.xresBase.toNat + 128 * c.slot) (c.extended seq) false (Work.refl s)
    dsimp only
    revert h
    generalize s.writeVA {} (s.host.xresBase.toNat + 128 * c.slot) (c.extended seq) false = o
    intro h
    cases o with
    | none => simp [State.violation]
    | some t =>
      have h : Work s t := h
      exact ⟨by rw [h.host], h.cmds, h.boot, h.gaf, h.mod, h.flt_base, h.progs, h.pending, h.nowUs, h.sched_slates⟩

/-- What the end of a command leaves alone. -/
theorem State.finish_keeps (s : State) (seq : Word) (st : Status) (res : List Byte) :
    s.sameBase (s.finish seq st res) ∧ (s.finish seq st res).progs = s.progs ∧ (s.finish seq st res).pending = s.pending ∧
    (s.finish seq st res).nowUs = s.nowUs ∧ (s.finish seq st res).sched.slates = s.sched.slates := by
  rw [State.finish]
  split
  · simp [State.sameBase]
  · rename_i c _
    have w := State.cancelDma_work _ (fun d => d.seq == seq) st (State.stopWork_work s seq c (Work.refl s))
    have x := State.writeExt_cpls ((s.stopWork seq c).cancelDma (fun d => d.seq == seq) st) seq c
    revert x
    generalize ((s.stopWork seq c).cancelDma (fun d => d.seq == seq) st).writeExt seq c = p
    intro ⟨_, _, b, g, m, f, pr, pe, nu, sl⟩
    split
    · simp [State.sameBase]
    dsimp only
    refine ⟨?_, ?_⟩
    · split <;> exact ⟨b.trans w.boot, g.trans w.gaf, m.trans w.mod, f.trans w.flt_base⟩
    · split <;> exact ⟨pr.trans w.progs, pe.trans w.pending, nu.trans w.nowUs, sl.trans w.sched_slates⟩

/-- A command's end makes its record (R510) and takes its entry away, or keeps it for the record (R515). -/
theorem State.finish_ended {s : State} {seq : Word} {c : Cmd} (h : s.cmd? seq = some c) (hp : c.phase ≠ .recorded) (st : Status)
    (res : List Byte) : s.ended (s.finish seq st res) seq c st res := by
  rw [State.finish, h]
  have w := State.cancelDma_work _ (fun d => d.seq == seq) st (State.stopWork_work s seq c (Work.refl s))
  have x := State.writeExt_cpls ((s.stopWork seq c).cancelDma (fun d => d.seq == seq) st) seq c
  revert x
  dsimp only
  generalize ((s.stopWork seq c).cancelDma (fun d => d.seq == seq) st).writeExt seq c = p
  intro ⟨cp, cm, _⟩
  rw [if_neg hp]
  refine ⟨⟨{ seq := seq, handle := c.handle seq, queue := c.queue, status := st.withFlags c.flags, flags := c.flags, ext := p.2
             result := slice res 0 22
             signal := if (c.fieldN 1 1).testBit 3 then some (c.fieldN 12 4 % 131072) else none
             irq := (c.fieldN 1 1).testBit 1, place := p.1.cplPlace c.queue }, ?_, rfl, rfl, rfl, rfl, rfl, rfl⟩, ?_⟩
  · split <;> simp [cp, w.host, State.setCmd]
  · split
    · right
      simp [State.cmd?, State.setCmd]
    · left
      simp [State.cmd?]

end Sys2Proof.Machine
end

