-- ==== Sys2Proof/Laws/Mem.lean ====
section
/-! SUPPORT. Byte memories: every operation keeps the canonical form; a read after a write gives the byte written, and every
other address reads as before. -/

namespace Sys2Proof.Machine

/-- A memory canonical from a bound is so from a lower one. -/
theorem Mem.wfFrom_mono {lo lo' : Nat} (h : lo' ≤ lo) : ∀ {m : Mem}, Mem.wfFrom lo m = true → Mem.wfFrom lo' m = true
  | [], _ => rfl
  | (k, v) :: r, hm => by
    simp only [Mem.wfFrom, Bool.and_eq_true, decide_eq_true_eq] at hm ⊢
    exact ⟨⟨by omega, hm.1.2⟩, hm.2⟩

theorem Mem.wfFrom_write (m : Mem) : ∀ (lo a : Nat) (b : Byte), lo ≤ a → Mem.wfFrom lo m = true → Mem.wfFrom lo (Mem.write m a b) = true := by
  induction m with
  | nil =>
    intro lo a b ha _
    unfold Mem.write
    split
    · rfl
    · rename_i hb
      simp [Mem.wfFrom, ha, hb]
  | cons p r ih =>
    intro lo a b ha hm
    obtain ⟨k, v⟩ := p
    simp only [Mem.wfFrom, Bool.and_eq_true, decide_eq_true_eq] at hm
    obtain ⟨⟨hk, hv⟩, hr⟩ := hm
    unfold Mem.write
    split
    · rename_i e
      subst e
      split
      · exact Mem.wfFrom_mono (by omega) hr
      · rename_i hb
        simp [Mem.wfFrom, ha, hb, hr]
    · split
      · rename_i hlt
        split
        · simp [Mem.wfFrom, hk, hv, hr]
        · rename_i hb
          have : Mem.wfFrom (a + 1) ((k, v) :: r) = true := by
            simp only [Mem.wfFrom, Bool.and_eq_true, decide_eq_true_eq]
            exact ⟨⟨by omega, hv⟩, hr⟩
          simp [Mem.wfFrom, ha, hb] at this ⊢
          exact this
      · rename_i h1 h2
        simp only [Mem.wfFrom, Bool.and_eq_true, decide_eq_true_eq]
        exact ⟨⟨hk, hv⟩, ih _ _ _ (by omega) hr⟩

/-- Writing a byte keeps the canonical form. -/
theorem Mem.write_wf {m : Mem} (a : Nat) (b : Byte) (h : m.wf = true) : (m.write a b).wf = true :=
  Mem.wfFrom_write m 0 a b (Nat.zero_le _) h

/-- Writing a run keeps the canonical form. -/
theorem Mem.writeN_wf : ∀ (bs : List Byte) {m : Mem} (a : Nat), m.wf = true → (m.writeN a bs).wf = true
  | [], _, _, h => h
  | b :: r, _, a, h => Mem.writeN_wf r (a + 1) (Mem.write_wf a b h)

theorem Mem.wfFrom_filter (p : Host.Cell → Bool) : ∀ (m : Mem) (lo : Nat), Mem.wfFrom lo m = true → Mem.wfFrom lo (m.filter p) = true
  | [], _, _ => rfl
  | (k, v) :: r, lo, h => by
    simp only [Mem.wfFrom, Bool.and_eq_true, decide_eq_true_eq] at h
    by_cases hp : p (k, v) = true
    · rw [List.filter_cons_of_pos hp]
      simp only [Mem.wfFrom, Bool.and_eq_true, decide_eq_true_eq]
      exact ⟨h.1, Mem.wfFrom_filter p r _ h.2⟩
    · rw [List.filter_cons_of_neg hp]
      exact Mem.wfFrom_mono (by omega) (Mem.wfFrom_filter p r _ h.2)

/-- Keeping some of the cells keeps the canonical form. -/
theorem Mem.filter_wf {m : Mem} (p : Host.Cell → Bool) (h : m.wf = true) : Mem.wf (m.filter p) = true := Mem.wfFrom_filter p m 0 h

/-- Clearing a run keeps the canonical form. -/
theorem Mem.clearN_wf {m : Mem} (a n : Nat) (h : m.wf = true) : (m.clearN a n).wf = true := Mem.filter_wf _ h

theorem Mem.read_below : ∀ (m : Mem) (lo a : Nat), Mem.wfFrom lo m = true → a < lo → m.read a = Mem.blank
  | [], _, _, _, _ => rfl
  | (k, v) :: r, lo, a, h, ha => by
    simp only [Mem.wfFrom, Bool.and_eq_true, decide_eq_true_eq] at h
    have h1 : ¬ a = k := by omega
    have h2 : a < k := by omega
    simp [Mem.read, h1, h2]

/-- In a canonical memory the byte written is the byte read there, and every other address reads as before. -/
theorem Mem.read_write : ∀ (m : Mem) (lo a b : Nat) (v : Byte), Mem.wfFrom lo m = true →
    (m.write a v).read b = if b = a then v else m.read b
  | [], _, a, b, v, _ => by
    by_cases hv : v = Mem.blank <;> by_cases hb : b = a <;> simp [Mem.write, Mem.read, hv, hb]
  | (k, w) :: r, lo, a, b, v, h => by
    simp only [Mem.wfFrom, Bool.and_eq_true, decide_eq_true_eq] at h
    have ih := Mem.read_write r (k + 1) a b v h.2
    unfold Mem.write
    by_cases e : a = k
    · subst e
      by_cases hv : v = Mem.blank
      · by_cases hb : b = a
        · subst hb; simp [hv, Mem.read_below r _ _ h.2]
        · by_cases hl : b < a
          · simp [hv, hb, Mem.read, hl, Mem.read_below r _ b h.2 (by omega)]
          · simp [hv, hb, Mem.read, hl]
      · by_cases hb : b = a <;> simp [hv, hb, Mem.read]
    · by_cases hl : a < k
      · by_cases hv : v = Mem.blank
        · by_cases hb : b = a
          · subst hb; simp [e, hl, hv, Mem.read]
          · simp [e, hl, hv, hb]
        · by_cases hb : b = a
          · subst hb; simp [e, hl, hv, Mem.read]
          · by_cases hba : b < a
            · have hbk : b < k := by omega
              have hbk' : ¬ b = k := by omega
              simp [e, hl, hv, hb, Mem.read, hba, hbk, hbk']
            · simp [e, hl, hv, hb, Mem.read, hba]
      · simp only [e, hl, if_false, Mem.read, ih]
        by_cases hb : b = a
        · subst hb; simp [e, hl]
        · simp [hb]

/-- Reading after writing a byte of a canonical memory. -/
theorem Mem.read_write_of_wf {m : Mem} (h : m.wf = true) (a b : Nat) (v : Byte) : (m.write a v).read b = if b = a then v else m.read b :=
  Mem.read_write m 0 a b v h

/-- Bytes outside a run written read as before. -/
theorem Mem.read_writeN_of_wf : ∀ (bs : List Byte) {m : Mem} (a b : Nat), m.wf = true → (b < a ∨ a + bs.length ≤ b) →
    (m.writeN a bs).read b = m.read b
  | [], _, _, _, _, _ => rfl
  | v :: r, m, a, b, h, hb => by
    have h1 : ¬ b = a := by
      simp only [List.length_cons] at hb
      omega
    simp only [List.length_cons] at hb
    rw [Mem.writeN, Mem.read_writeN_of_wf r (a + 1) b (Mem.write_wf a v h) (by omega), Mem.read_write_of_wf h]
    simp [h1]

/-- A byte of a run written reads as the run's byte. -/
theorem Mem.read_writeN_at : ∀ (bs : List Byte) {m : Mem} (a i : Nat) (hi : i < bs.length), m.wf = true →
    (m.writeN a bs).read (a + i) = bs[i]
  | v :: r, m, a, 0, _, h => by
    show Mem.read (Mem.writeN (Mem.write m a v) (a + 1) r) a = v
    rw [Mem.read_writeN_of_wf r (a + 1) a (Mem.write_wf a v h) (by omega), Mem.read_write_of_wf h]
    simp only [if_true]
  | v :: r, m, a, i + 1, hi, h => by
    simp only [List.length_cons] at hi
    have := Mem.read_writeN_at r (a + 1) i (by omega) (Mem.write_wf a v h)
    rw [Mem.writeN, show a + (i + 1) = a + 1 + i by omega, this]
    simp

end Sys2Proof.Machine
end

