-- ==== Sys2Proof/Laws/Kept.lean ====
section
/-! SUPPORT. What every command keeps: the queue of the commands behind it, and the canonical form of the byte memories. `Kept s t`
says it of two states; one lemma for each operation says that the operation keeps it. -/

namespace Sys2Proof.Machine

/-- The queue of `t` is that of `s`, and `t`'s memories are canonical if those of `s` are. -/
structure Kept (s t : State) : Prop where
  queue : t.pending = s.pending
  mem   : s.memOk = true → t.memOk = true

/-- An outcome keeps it when its next state does. -/
def KeptO (s : State) : Host.Outcome State Fault Refusal → Prop
  | .next t => Kept s t
  | _ => True

/-- An optional state keeps it when it is there. -/
def KeptOpt (s : State) : Option State → Prop
  | some t => Kept s t
  | none => True

theorem Kept.refl (s : State) : Kept s s := ⟨rfl, id⟩

theorem Kept.trans {s t u : State} (h : Kept s t) (g : Kept t u) : Kept s u := ⟨g.1.trans h.1, fun x => g.2 (h.2 x)⟩

/-- A state given by its fields, seen by its queue and its memories. -/
def KeptMk (s : State) (p : List Instr) (m : MemMgr) (h : HbmMem) : Prop :=
  p = s.pending ∧ (s.memOk = true → m.host.wf = true ∧ m.sram.wf = true ∧ h.bytes.wf = true)

theorem kept_mk (s0 : State) (pending_ : List Instr) (host_ : HostIf) (cmds_ : Tab Cmd) (progs_ : Tab ProgSlot) (sched_ : Sched) (flt_ : FaultUnit) (perf_ : Perf) (mem_ : MemMgr) (hbm_ : HbmMem) (takes_ : TakeMgr) (reels_ : ReelMgr) (kv_ : KvMgr) (cores_ : Tab Core) (dma_ : Dma) (video_ : Video) (boot_ : Boot) (fab_ : Fabric) (gaf_ : Gaffer) (mod_ : Module) (out_ : List Out) (nowUs_ : Nat) (freeCtr_ : Nat) :
    Kept s0 (State.mk pending_ host_ cmds_ progs_ sched_ flt_ perf_ mem_ hbm_ takes_ reels_ kv_ cores_ dma_ video_ boot_ fab_ gaf_ mod_ out_ nowUs_ freeCtr_) = KeptMk s0 pending_ mem_ hbm_ := by
  refine propext ⟨fun h => ⟨h.1, fun x => ?_⟩, fun h => ⟨h.1, fun x => ?_⟩⟩
  · have := h.2 x
    simpa [State.memOk, and_assoc] using this
  · have := h.2 x
    simpa [State.memOk, and_assoc] using this

/-- A change that touches neither the queue nor a byte memory. -/
theorem keptMk_of {s t : State} {m : MemMgr} {h : HbmMem} (g : Kept s t) (hh : m.host = t.mem.host) (hs : m.sram = t.mem.sram)
    (hb : h.bytes = t.hbm.bytes) : KeptMk s t.pending m h := by
  refine ⟨g.1, fun x => ?_⟩
  have := g.2 x
  simp only [State.memOk, Bool.and_eq_true] at this
  rw [hh, hs, hb]
  exact ⟨this.1.1, this.1.2, this.2⟩

/-- A change of the byte memories that keeps their form. -/
theorem keptMk_wf {s t : State} {m : MemMgr} {h : HbmMem} (g : Kept s t) (hh : t.mem.host.wf = true → m.host.wf = true)
    (hs : t.mem.sram.wf = true → m.sram.wf = true) (hb : t.hbm.bytes.wf = true → h.bytes.wf = true) : KeptMk s t.pending m h := by
  refine ⟨g.1, fun x => ?_⟩
  have := g.2 x
  simp only [State.memOk, Bool.and_eq_true] at this
  exact ⟨hh this.1.1, hs this.1.2, hb this.2⟩

theorem keptO_next {s t : State} (h : Kept s t) : KeptO s (.next t) := h

theorem keptO_fault (s : State) (f : Fault) : KeptO s (.fault f) := trivial

theorem keptO_refused (s : State) (r : Refusal) : KeptO s (.refused r) := trivial

theorem keptOpt_some {s t : State} (h : Kept s t) : KeptOpt s (some t) := h

theorem keptOpt_none (s : State) : KeptOpt s none := trivial

theorem KeptOpt.get {s t : State} {o : Option State} (h : KeptOpt s o) (e : o = some t) : Kept s t := by
  subst e
  exact h

theorem KeptOpt.getD {s t : State} {o : Option State} (h : KeptOpt s o) (g : Kept s t) : Kept s (o.getD t) := by
  cases o with
  | none => exact g
  | some u => exact h

theorem kept_ite {s a b : State} {c : Prop} [Decidable c] (h : Kept s a) (g : Kept s b) : Kept s (if c then a else b) := by
  split <;> assumption

theorem keptO_ite {s : State} {a b : Host.Outcome State Fault Refusal} {c : Prop} [Decidable c] (h : KeptO s a) (g : KeptO s b) :
    KeptO s (if c then a else b) := by
  split <;> assumption

theorem keptOpt_ite {s : State} {a b : Option State} {c : Prop} [Decidable c] (h : KeptOpt s a) (g : KeptOpt s b) :
    KeptOpt s (if c then a else b) := by
  split <;> assumption

theorem keptOpt_map {α : Type} {s : State} {f : α → State} (h : ∀ a, Kept s (f a)) (o : Option α) : KeptOpt s (o.map f) := by
  cases o with
  | none => trivial
  | some a => exact h a

theorem keptOpt_bind {α : Type} {s : State} {f : α → Option State} (h : ∀ a, KeptOpt s (f a)) (o : Option α) :
    KeptOpt s (o.bind f) := by
  cases o with
  | none => trivial
  | some a => exact h a

theorem keptOpt_mapOf {s : State} {f : State → State} {o : Option State} (h : KeptOpt s o) (hf : ∀ t, Kept s t → Kept s (f t)) :
    KeptOpt s (o.map f) := by
  cases o with
  | none => trivial
  | some t => exact hf t h

theorem keptOpt_bindOf {s : State} {f : State → Option State} {o : Option State} (h : KeptOpt s o)
    (hf : ∀ t, Kept s t → KeptOpt s (f t)) : KeptOpt s (o.bind f) := by
  cases o with
  | none => trivial
  | some t => exact hf t h

/-- A state beside an optional result keeps it when it is there. -/
def KeptP {α : Type} (s : State) : Option (α × State) → Prop
  | some x => Kept s x.2
  | none => True

theorem keptP_some {α : Type} {s t : State} {a : α} (h : Kept s t) : KeptP s (some (a, t)) := h

theorem keptP_none {α : Type} (s : State) : KeptP s (none : Option (α × State)) := trivial

theorem KeptP.get {α : Type} {s t : State} {a : α} {o : Option (α × State)} (h : KeptP s o) (e : o = some (a, t)) : Kept s t := by
  subst e
  exact h

theorem keptOpt_ofP {α : Type} {s : State} {f : α × State → State} {o : Option (α × State)} (h : KeptP s o)
    (hf : ∀ a t, Kept s t → Kept s (f (a, t))) : KeptOpt s (o.map f) := by
  cases o with
  | none => trivial
  | some p => exact hf p.1 p.2 h

theorem foldl_keptOpt {α : Type} {s : State} {f : Option State → α → Option State}
    (hf : ∀ o x, KeptOpt s o → KeptOpt s (f o x)) (l : List α) {o : Option State} (h : KeptOpt s o) : KeptOpt s (l.foldl f o) := by
  induction l generalizing o with
  | nil => exact h
  | cons x r ih => exact ih (hf o x h)

/-- A state that a store answers keeps it. -/
def KeptE {ε : Type} (s : State) : Except ε State → Prop
  | .ok t => Kept s t
  | .error _ => True

theorem keptE_ok {ε : Type} {s t : State} (h : Kept s t) : KeptE (ε := ε) s (.ok t) := h

theorem keptE_error {ε : Type} (s : State) (e : ε) : KeptE s (.error e) := trivial

theorem KeptE.get {ε : Type} {s t : State} {o : Except ε State} (h : KeptE s o) (e : o = .ok t) : Kept s t := by
  subst e
  exact h

theorem keptO_get {s t : State} {o : Host.Outcome State Fault Refusal} (h : KeptO s o) (e : o = .next t) : Kept s t := by
  subst e
  exact h

theorem foldl_kept {α : Type} {s t : State} {f : State → α → State} (hf : ∀ u x, Kept s u → Kept s (f u x)) (l : List α)
    (h : Kept s t) : Kept s (l.foldl f t) := by
  induction l generalizing t with
  | nil => exact h
  | cons x r ih => exact ih (hf t x h)

theorem kept_fst {α : Type} {s t : State} {a : α} {x : State × α} (h : Kept s x.1) (e : x = (t, a)) : Kept s t := by
  subst e
  exact h

theorem kept_snd {α : Type} {s t : State} {a : α} {x : α × State} (h : Kept s x.2) (e : x = (a, t)) : Kept s t := by
  subst e
  exact h

theorem foldl_kept_fst {α β : Type} {s : State} {f : State × β → α → State × β} (hf : ∀ p x, Kept s p.1 → Kept s (f p x).1) (l : List α)
    {p : State × β} (h : Kept s p.1) : Kept s (l.foldl f p).1 := by
  induction l generalizing p with
  | nil => exact h
  | cons x r ih => exact ih (hf p x h)

theorem foldl_kept_snd {α β : Type} {s : State} {f : β × State → α → β × State} (hf : ∀ p x, Kept s p.2 → Kept s (f p x).2) (l : List α)
    {p : β × State} (h : Kept s p.2) : Kept s (l.foldl f p).2 := by
  induction l generalizing p with
  | nil => exact h
  | cons x r ih => exact ih (hf p x h)

theorem keptP_map {α β : Type} {s : State} {f : α → β × State} (h : ∀ a, Kept s (f a).2) (o : Option α) : KeptP s (o.map f) := by
  cases o with
  | none => trivial
  | some a => exact h a

theorem keptP_mapSnd {α β : Type} {s : State} {f : α × State → β} {o : Option (α × State)} (h : KeptP s o) :
    KeptP s (o.map (fun p => (f p, p.2))) := by
  cases o with
  | none => trivial
  | some a => exact h

theorem Mem.nil_wf : Mem.wf [] = true := rfl

theorem foldl_write_wf {f : Host.Cell → Nat} (l : List Host.Cell) {m : Mem} (h : m.wf = true) :
    Mem.wf (l.foldl (fun a c => Mem.write a (f c) c.2) m) = true := by
  induction l generalizing m with
  | nil => exact h
  | cons c r ih => exact ih (Mem.write_wf _ _ h)

end Sys2Proof.Machine
end

