-- ==== Sys2Proof/Laws/KeptMemory.lean ====
section
/-! SUPPORT. Kept by memory, the fabric's frames, slates and pages: the queue and the form of the memories. -/

namespace Sys2Proof.Machine

theorem State.draw_kept {i0 : State} (s : State) (hs : Kept i0 s) :
    Kept i0 (State.draw s).2 := by
  rw [State.draw]
  with_reducible repeat' (first
    | assumption | dsimp only | simp only [kept_mk] | refine keptMk_of ?_ rfl rfl rfl | intro _)

theorem State.bump_kept {i0 : State} (s : State) (a : At) (ev n : Nat) (hs : Kept i0 s) :
    Kept i0 (State.bump s a ev n) := by
  unfold State.bump
  with_reducible repeat' (first
    | assumption | dsimp only | simp only [kept_mk] | refine keptMk_of ?_ rfl rfl rfl | refine kept_ite ?_ ?_ | split)

theorem State.perturb_kept {i0 : State} (s : State) (k unit : Nat) (hs : Kept i0 s) :
    Kept i0 (State.perturb s k unit).1 := by
  rw [State.perturb]
  with_reducible repeat' (first
    | assumption | dsimp only | apply State.bump_kept | simp only [kept_mk] | refine keptMk_of ?_ rfl rfl rfl | split | intro _)

theorem State.settleTst_kept {i0 : State} (s : State) (hs : Kept i0 s) :
    Kept i0 (State.settleTst s) := by
  rw [State.settleTst]
  with_reducible repeat' (first
    | assumption | dsimp only | apply State.draw_kept | apply State.bump_kept | refine kept_snd ?_ (by assumption)
    | refine kept_fst ?_ (by assumption) | simp only [kept_mk] | refine keptMk_of ?_ rfl rfl rfl | refine foldl_kept ?_ _ ?_
    | refine foldl_kept_snd ?_ _ ?_ | refine foldl_kept_fst ?_ _ ?_ | refine kept_ite ?_ ?_ | split | intro _)

theorem State.counterNow_kept {i0 : State} (s : State) (g : Nat) (hs : Kept i0 s) :
    Kept i0 (State.counterNow s g).2 := by
  rw [State.counterNow]
  with_reducible repeat' (first
    | assumption | dsimp only | apply State.settleTst_kept | apply State.draw_kept | refine kept_snd ?_ (by assumption)
    | refine kept_fst ?_ (by assumption) | simp only [kept_mk] | refine keptMk_of ?_ rfl rfl rfl | split | intro _)

theorem State.report_kept {i0 : State} (s : State) (cls subject cause : Nat) (seq : Word) (detail : Nat) (hs : Kept i0 s) :
    Kept i0 (State.report s cls subject cause seq detail) := by
  rw [State.report]
  with_reducible repeat' (first
    | assumption | dsimp only | simp only [kept_mk] | refine keptMk_of ?_ rfl rfl rfl)

theorem State.violation_kept {i0 : State} (s : State) (kind where_ addr : Nat) (hs : Kept i0 s) :
    Kept i0 (State.violation s kind where_ addr) := by
  rw [State.violation]
  with_reducible repeat' (first
    | assumption | dsimp only | simp only [kept_mk] | refine keptMk_of ?_ rfl rfl rfl | refine keptMk_wf ?_ ?_ ?_ ?_ | apply Mem.writeN_wf
    | apply Mem.clearN_wf | apply Mem.filter_wf | apply foldl_write_wf | intro _)

theorem State.send_kept {i0 : State} (s : State) (o : Out) (hs : Kept i0 s) :
    Kept i0 (State.send s o) := by
  rw [State.send]
  with_reducible repeat' (first
    | assumption | dsimp only | simp only [kept_mk] | refine keptMk_of ?_ rfl rfl rfl)

theorem State.setCmd_kept {i0 : State} (s : State) (seq : Word) (c : Cmd) (hs : Kept i0 s) :
    Kept i0 (State.setCmd s seq c) := by
  rw [State.setCmd]
  with_reducible repeat' (first
    | assumption | dsimp only | simp only [kept_mk] | refine keptMk_of ?_ rfl rfl rfl)

theorem State.updCmd_kept {i0 : State} (s : State) (seq : Word) (f : Cmd → Cmd) (hs : Kept i0 s) :
    Kept i0 (State.updCmd s seq f) := by
  rw [State.updCmd]
  with_reducible repeat' (first
    | assumption | dsimp only | apply State.setCmd_kept | apply hf | simp only [kept_mk] | refine keptMk_of ?_ rfl rfl rfl | split)

theorem State.setFlag_kept {i0 : State} (s : State) (seq : Word) (bit : Nat) (hs : Kept i0 s) :
    Kept i0 (State.setFlag s seq bit) := by
  rw [State.setFlag]
  with_reducible repeat' (first
    | assumption | dsimp only | apply State.updCmd_kept | simp only [kept_mk] | refine keptMk_of ?_ rfl rfl rfl | intro _)

theorem State.setCore_kept {i0 : State} (s : State) (w : Nat) (c : Core) (hs : Kept i0 s) :
    Kept i0 (State.setCore s w c) := by
  rw [State.setCore]
  with_reducible repeat' (first
    | assumption | dsimp only | simp only [kept_mk] | refine keptMk_of ?_ rfl rfl rfl)

theorem State.updCore_kept {i0 : State} (s : State) (w : Nat) (f : Core → Core) (hs : Kept i0 s) :
    Kept i0 (State.updCore s w f) := by
  rw [State.updCore]
  with_reducible repeat' (first
    | assumption | dsimp only | apply State.setCore_kept | apply hf)

theorem State.setKern_kept {i0 : State} (s : State) (k : Kern) (hs : Kept i0 s) :
    Kept i0 (State.setKern s k) := by
  rw [State.setKern]
  with_reducible repeat' (first
    | assumption | dsimp only | simp only [kept_mk] | refine keptMk_of ?_ rfl rfl rfl | refine kept_ite ?_ ?_ | split | intro _)

theorem State.updPerf_kept {i0 : State} (s : State) (f : Perf → Perf) (hs : Kept i0 s) :
    Kept i0 (State.updPerf s f) := by
  rw [State.updPerf]
  with_reducible repeat' (first
    | assumption | dsimp only | apply hf | simp only [kept_mk] | refine keptMk_of ?_ rfl rfl rfl)

theorem State.latchCounter_kept {i0 : State} (s : State) (g : Nat) (hs : Kept i0 s) :
    Kept i0 (State.latchCounter s g) := by
  rw [State.latchCounter]
  with_reducible repeat' (first
    | assumption | dsimp only | apply State.counterNow_kept | apply State.updPerf_kept | refine kept_snd ?_ (by assumption)
    | refine kept_fst ?_ (by assumption) | simp only [kept_mk] | refine keptMk_of ?_ rfl rfl rfl | split | intro _)

theorem State.reach_kept {i0 : State} (s : State) (k : Word) (u : Nat) (hs : Kept i0 s) :
    Kept i0 (State.reach s k u) := by
  rw [State.reach]
  with_reducible repeat' (first
    | assumption | dsimp only | apply State.latchCounter_kept | apply State.updPerf_kept | apply State.bump_kept | simp only [kept_mk]
    | refine keptMk_of ?_ rfl rfl rfl | refine foldl_kept ?_ _ ?_ | refine kept_ite ?_ ?_ | split | intro _)

theorem State.carry_kept {i0 : State} (s : State) (a b : At) (hs : Kept i0 s) :
    Kept i0 (State.carry s a b) := by
  rw [State.carry]
  with_reducible repeat' (first
    | assumption | dsimp only | apply State.reach_kept | simp only [kept_mk] | refine keptMk_of ?_ rfl rfl rfl | refine kept_ite ?_ ?_
    | split)

theorem State.stopCounters_kept {i0 : State} (s : State) (w : Nat) (hs : Kept i0 s) :
    Kept i0 (State.stopCounters s w) := by
  rw [State.stopCounters]
  with_reducible repeat' (first
    | assumption | dsimp only | apply State.counterNow_kept | apply State.updPerf_kept | refine kept_snd ?_ (by assumption)
    | refine kept_fst ?_ (by assumption) | simp only [kept_mk] | refine keptMk_of ?_ rfl rfl rfl | refine foldl_kept ?_ _ ?_
    | refine foldl_kept_snd ?_ _ ?_ | refine foldl_kept_fst ?_ _ ?_ | split | intro _)

theorem State.setChan_kept {i0 : State} (s : State) (c : Nat) (v : HbmChan) (hs : Kept i0 s) :
    Kept i0 (State.setChan s c v) := by
  rw [State.setChan]
  with_reducible repeat' (first
    | assumption | dsimp only | simp only [kept_mk] | refine keptMk_of ?_ rfl rfl rfl)

theorem State.countBurst_kept {i0 : State} (s : State) (b : Nat) (wr : Bool) (hs : Kept i0 s) :
    Kept i0 (State.countBurst s b wr) := by
  rw [State.countBurst]
  with_reducible repeat' (first
    | assumption | dsimp only | apply State.bump_kept | apply State.perturb_kept | refine kept_snd ?_ (by assumption)
    | refine kept_fst ?_ (by assumption) | simp only [kept_mk] | refine keptMk_of ?_ rfl rfl rfl | refine kept_ite ?_ ?_ | split)

theorem State.hbmTouched_kept {i0 : State} (s : State) (pa n : Nat) (hs : Kept i0 s) :
    Kept i0 (State.hbmTouched s pa n) := by
  rw [State.hbmTouched]
  with_reducible repeat' (first
    | assumption | dsimp only | apply State.countBurst_kept | apply State.setChan_kept | apply State.bump_kept | simp only [kept_mk]
    | refine keptMk_of ?_ rfl rfl rfl | refine foldl_kept ?_ _ ?_ | refine kept_ite ?_ ?_ | split | intro _)

theorem State.burstWrite_kept {i0 : State} (s : State) (b off : Nat) (bs : List Byte) (poisoned : Bool) (hs : Kept i0 s) :
    Kept i0 (State.burstWrite s b off bs poisoned) := by
  rw [State.burstWrite]
  with_reducible repeat' (first
    | assumption | dsimp only | apply State.countBurst_kept | simp only [kept_mk] | refine keptMk_of ?_ rfl rfl rfl
    | refine keptMk_wf ?_ ?_ ?_ ?_ | apply Mem.writeN_wf | apply Mem.clearN_wf | apply Mem.filter_wf | apply foldl_write_wf
    | refine kept_ite ?_ ?_ | split | intro _)

theorem State.hbmWriteGo_kept {i0 : State} (s : State) (y0 : Nat) (y1 : Nat) (y2 : List Byte) (y3 : Bool) (hs : Kept i0 s) :
    Kept i0 (State.hbmWriteGo s y0 y1 y2 y3) := by
  induction y0 generalizing s y1 y2 with
  | zero => exact hs
  | succ n ih =>
    unfold State.hbmWriteGo
    split
    · exact hs
    · exact ih _ _ _ (State.burstWrite_kept _ _ _ _ _ hs)

theorem State.hbmWrite_kept {i0 : State} (s : State) (pa : Nat) (bs : List Byte) (poisoned : Bool) (hs : Kept i0 s) :
    Kept i0 (State.hbmWrite s pa bs poisoned) := by
  rw [State.hbmWrite]
  with_reducible repeat' (first
    | assumption | dsimp only | apply State.hbmWriteGo_kept)

theorem State.setPort_kept {i0 : State} (s : State) (p : Nat) (v : FabPort) (hs : Kept i0 s) :
    Kept i0 (State.setPort s p v) := by
  rw [State.setPort]
  with_reducible repeat' (first
    | assumption | dsimp only | simp only [kept_mk] | refine keptMk_of ?_ rfl rfl rfl)

theorem State.drainPort_kept {i0 : State} (s : State) (p : Nat) (hs : Kept i0 s) :
    Kept i0 (State.drainPort s p) := by
  rw [State.drainPort]
  with_reducible repeat' (first
    | assumption | dsimp only | apply State.setPort_kept | apply State.send_kept | apply State.bump_kept | simp only [kept_mk]
    | refine keptMk_of ?_ rfl rfl rfl | refine foldl_kept ?_ _ ?_ | split | intro _)

theorem State.sendOn_kept {i0 : State} (s : State) (p : Nat) (f : Frame) (hs : Kept i0 s) :
    Kept i0 (State.sendOn s p f) := by
  rw [State.sendOn]
  with_reducible repeat' (first
    | assumption | dsimp only | apply State.setPort_kept | apply State.drainPort_kept | simp only [kept_mk]
    | refine keptMk_of ?_ rfl rfl rfl)

theorem State.route?_kept {i0 : State} (s : State) (f : Frame) (hs : Kept i0 s) :
    KeptOpt i0 (State.route? s f) := by
  rw [State.route?]
  with_reducible repeat' (first
    | assumption | dsimp only | apply State.sendOn_kept | refine keptOpt_map ?_ _ | apply keptOpt_some | exact keptOpt_none _
    | simp only [id_eq] | intro _)

theorem State.sendFrame_kept {i0 : State} (s : State) (f : Frame) (hs : Kept i0 s) :
    Kept i0 (State.sendFrame s f) := by
  rw [State.sendFrame]
  with_reducible repeat' (first
    | assumption | dsimp only | apply State.route?_kept | apply KeptOpt.getD)

theorem State.respond_kept {i0 : State} (s : State) (type flow status : Nat) (h : FrameHdr) (payload : List Byte) (hs : Kept i0 s) :
    Kept i0 (State.respond s type flow status h payload) := by
  rw [State.respond]
  with_reducible repeat' (first
    | assumption | dsimp only | apply State.sendFrame_kept | simp only [id_eq])

theorem State.request_kept {i0 : State} (s : State) (seq : Word) (dst flow type addr : Nat) (payload : List Byte) (kind : ReqKind) (hs : Kept i0 s) :
    Kept i0 (State.request s seq dst flow type addr payload kind) := by
  unfold State.request
  with_reducible repeat' (first
    | assumption | dsimp only | apply State.bump_kept | apply State.sendFrame_kept | simp only [kept_mk] | refine keptMk_of ?_ rfl rfl rfl
    | simp only [id_eq] | split)

theorem State.cancelWaits_kept {i0 : State} (s : State) (f : FabReq → Bool) (hs : Kept i0 s) :
    Kept i0 (State.cancelWaits s f) := by
  rw [State.cancelWaits]
  with_reducible repeat' (first
    | assumption | dsimp only | apply State.sendFrame_kept | apply hf | simp only [kept_mk] | refine keptMk_of ?_ rfl rfl rfl
    | simp only [id_eq] | refine foldl_kept ?_ _ ?_ | intro _)

theorem State.dropReqs_kept {i0 : State} (s : State) (seq : Word) (hs : Kept i0 s) :
    Kept i0 (State.dropReqs s seq) := by
  rw [State.dropReqs]
  with_reducible repeat' (first
    | assumption | dsimp only | apply State.cancelWaits_kept | simp only [kept_mk] | refine keptMk_of ?_ rfl rfl rfl | intro _)

theorem State.peerWrite_kept {i0 : State} (s : State) (seq : Word) (flow id ad : Nat) (bs : List Byte) (hs : Kept i0 s) :
    Kept i0 (State.peerWrite s seq flow id ad bs) := by
  rw [State.peerWrite]
  with_reducible repeat' (first
    | assumption | dsimp only | apply State.request_kept | simp only [id_eq] | refine foldl_kept ?_ _ ?_ | intro _)

theorem State.peerAsk_kept {i0 : State} (s : State) (seq : Word) (flow id ad n : Nat) (hs : Kept i0 s) :
    Kept i0 (State.peerAsk s seq flow id ad n) := by
  rw [State.peerAsk]
  with_reducible repeat' (first
    | assumption | dsimp only | apply State.request_kept | simp only [id_eq] | refine foldl_kept ?_ _ ?_ | refine kept_ite ?_ ?_ | split
    | intro _)

theorem State.peerUsed_kept {i0 : State} (s : State) (id ad n : Nat) (hs : Kept i0 s) :
    Kept i0 (State.peerUsed s id ad n) := by
  rw [State.peerUsed]
  with_reducible repeat' (first
    | assumption | dsimp only | simp only [kept_mk] | refine keptMk_of ?_ rfl rfl rfl | simp only [id_eq] | intro _)

theorem State.carryVA_kept {i0 : State} (s : State) (from_ : At) (a : Acc) (wr : Bool) (va n : Nat) (hs : Kept i0 s) :
    Kept i0 (State.carryVA s from_ a wr va n) := by
  rw [State.carryVA]
  with_reducible repeat' (first
    | assumption | dsimp only | apply State.carry_kept | simp only [kept_mk] | refine keptMk_of ?_ rfl rfl rfl | refine foldl_kept ?_ _ ?_
    | split | intro _)

theorem State.holdWrite_kept {i0 : State} (s : State) (m : Migration) (off : Nat) (bs : List Byte) (hs : Kept i0 s) :
    Kept i0 (State.holdWrite s m off bs) := by
  rw [State.holdWrite]
  with_reducible repeat' (first
    | assumption | dsimp only | simp only [kept_mk] | refine keptMk_of ?_ rfl rfl rfl | refine kept_ite ?_ ?_ | split | intro _)

theorem State.cowStore_kept {i0 : State} (s : State) (t : Nat) (e : PageEnt) (o : Nat) (bs : List Byte) (hs : Kept i0 s) :
    Kept i0 (State.cowStore s t e o bs) := by
  rw [State.cowStore]
  with_reducible repeat' (first
    | assumption | dsimp only | simp only [kept_mk] | refine keptMk_of ?_ rfl rfl rfl | refine kept_ite ?_ ?_ | split | intro _)

theorem State.writePlace_kept {i0 : State} (s : State) (p : Place) (bs : List Byte) (poisoned : Bool) (seq : Word) (flow : Nat) (hs : Kept i0 s) :
    Kept i0 (State.writePlace s p bs poisoned seq flow) := by
  unfold State.writePlace
  with_reducible repeat' (first
    | assumption | dsimp only | apply State.holdWrite_kept | apply State.bump_kept | apply State.hbmWrite_kept | apply State.send_kept
    | apply State.peerWrite_kept | apply State.cowStore_kept | simp only [kept_mk] | refine keptMk_of ?_ rfl rfl rfl
    | refine keptMk_wf ?_ ?_ ?_ ?_ | apply Mem.writeN_wf | apply Mem.clearN_wf | apply Mem.filter_wf | apply foldl_write_wf
    | simp only [id_eq] | refine kept_ite ?_ ?_ | split | intro _)

theorem State.writeSpans_kept {i0 : State} (s : State) (seq : Word) (flow : Nat) (poisoned : Bool) (y0 : List (Place × Nat × Nat)) (y1 : List Byte) (hs : Kept i0 s) :
    Kept i0 (State.writeSpans s seq flow poisoned y0 y1) := by
  induction y0 generalizing s seq flow poisoned y1 with
  | nil =>
    simp only [State.writeSpans]
    first | exact hs | exact keptOpt_some hs | exact keptP_some hs | exact keptE_ok hs | trivial
  | cons x r ih =>
    rw [State.writeSpans]
    with_reducible repeat' (first
      | assumption | apply ih | dsimp only | apply State.writePlace_kept | split)

theorem State.writeVA_kept {i0 : State} (s : State) (a : Acc) (va : Nat) (bs : List Byte) (poisoned : Bool) (hs : Kept i0 s) :
    KeptOpt i0 (State.writeVA s a va bs poisoned) := by
  rw [State.writeVA]
  with_reducible repeat' (first
    | assumption | dsimp only | apply State.writeSpans_kept | apply keptOpt_some | exact keptOpt_none _ | refine keptOpt_ite ?_ ?_ | split
    | intro _)

theorem State.storeVA_kept {i0 : State} (s : State) (a : Acc) (va : Nat) (bs : List Byte) (hs : Kept i0 s) :
    Kept i0 (State.storeVA s a va bs) := by
  rw [State.storeVA]
  with_reducible repeat' (first
    | assumption | dsimp only | apply State.writeVA_kept | apply KeptOpt.getD)

theorem State.askPeers_kept {i0 : State} (s : State) (a : Acc) (va n : Nat) (hs : Kept i0 s) :
    Kept i0 (State.askPeers s a va n) := by
  rw [State.askPeers]
  with_reducible repeat' (first
    | assumption | dsimp only | apply State.peerAsk_kept | refine foldl_kept ?_ _ ?_ | intro _)

theorem State.usePeers_kept {i0 : State} (s : State) (a : Acc) (va n : Nat) (hs : Kept i0 s) :
    Kept i0 (State.usePeers s a va n) := by
  rw [State.usePeers]
  with_reducible repeat' (first
    | assumption | dsimp only | apply State.peerUsed_kept | refine foldl_kept ?_ _ ?_ | intro _)

theorem State.slateRsp_kept {i0 : State} (s : State) (dst tag status : Nat) (result : Word) (stored : Bool) (hs : Kept i0 s) :
    Kept i0 (State.slateRsp s dst tag status result stored) := by
  rw [State.slateRsp]
  with_reducible repeat' (first
    | assumption | dsimp only | apply State.sendFrame_kept | simp only [id_eq])

theorem State.wakeRemote_kept {i0 : State} (s : State) (hs : Kept i0 s) :
    Kept i0 (State.wakeRemote s) := by
  rw [State.wakeRemote]
  with_reducible repeat' (first
    | assumption | dsimp only | apply State.slateRsp_kept | simp only [kept_mk] | refine keptMk_of ?_ rfl rfl rfl
    | refine foldl_kept ?_ _ ?_ | split | intro _)

theorem State.putSlate_kept {i0 : State} (s : State) (i : Nat) (n : Word) (hs : Kept i0 s) :
    Kept i0 (State.putSlate s i n) := by
  rw [State.putSlate]
  with_reducible repeat' (first
    | assumption | dsimp only | apply State.wakeRemote_kept | simp only [kept_mk] | refine keptMk_of ?_ rfl rfl rfl | intro _)

theorem State.setSlate_kept {i0 : State} (s : State) (i : Nat) (n : Word) (hs : Kept i0 s) :
    Kept i0 (State.setSlate s i n) := by
  rw [State.setSlate]
  with_reducible repeat' (first
    | assumption | dsimp only | apply State.putSlate_kept | apply State.bump_kept)

theorem State.slateApply_kept {i0 : State} (s : State) (i : Nat) (o : SlateOp) (v cmp : Word) (hs : Kept i0 s) :
    Kept i0 (State.slateApply s i o v cmp).1 := by
  rw [State.slateApply]
  with_reducible repeat' (first
    | assumption | dsimp only | apply State.setSlate_kept | apply State.bump_kept | split | intro _)

theorem State.slateAsk_kept {i0 : State} (s : State) (a : At) (i : Nat) (o : SlateOp) (v cmp : Word) (hs : Kept i0 s) :
    Kept i0 (State.slateAsk s a i o v cmp).1 := by
  rw [State.slateAsk]
  with_reducible repeat' (first
    | assumption | dsimp only | apply State.carry_kept | apply State.slateApply_kept | intro _)

theorem State.slateSeen_kept {i0 : State} (s : State) (a : At) (i : Nat) (hs : Kept i0 s) :
    Kept i0 (State.slateSeen s a i) := by
  rw [State.slateSeen]
  with_reducible repeat' (first
    | assumption | dsimp only | apply State.carry_kept | apply State.bump_kept)

theorem State.drawPage_kept {i0 : State} (s : State) (lg cls : Nat) (test : Nat → Bool) (hs : Kept i0 s) :
    KeptP i0 (State.drawPage s lg cls test) := by
  rw [State.drawPage]
  with_reducible repeat' (first
    | assumption | dsimp only | apply keptP_some | exact keptP_none _ | apply htest | simp only [kept_mk] | refine keptMk_of ?_ rfl rfl rfl
    | split | intro _)

theorem State.drawPages_kept {i0 : State} (s : State) (lg cls : Nat) (y0 : Nat) (hs : Kept i0 s) :
    KeptP i0 (State.drawPages s lg cls y0) := by
  induction y0 generalizing s lg cls with
  | zero =>
    simp only [State.drawPages]
    first | exact hs | exact keptOpt_some hs | exact keptP_some hs | exact keptE_ok hs | trivial
  | succ n ih =>
    rw [State.drawPages]
    with_reducible repeat' (first
      | assumption | apply ih | dsimp only | apply State.drawPage_kept | refine KeptP.get ?_ (by assumption) | apply keptP_some | exact keptP_none _
      | simp only [kept_mk] | refine keptMk_of ?_ rfl rfl rfl | split | intro _)

theorem State.returnPage_kept {i0 : State} (s : State) (b lg : Nat) (hs : Kept i0 s) :
    Kept i0 (State.returnPage s b lg) := by
  rw [State.returnPage]
  with_reducible repeat' (first
    | assumption | dsimp only | simp only [kept_mk] | refine keptMk_of ?_ rfl rfl rfl | intro _)

theorem State.takeSwap_kept {i0 : State} (s : State) (b lg : Nat) (hs : Kept i0 s) :
    Kept i0 (State.takeSwap s b lg) := by
  rw [State.takeSwap]
  with_reducible repeat' (first
    | assumption | dsimp only | simp only [kept_mk] | refine keptMk_of ?_ rfl rfl rfl)

theorem State.freeSwap_kept {i0 : State} (s : State) (b lg : Nat) (hs : Kept i0 s) :
    Kept i0 (State.freeSwap s b lg) := by
  rw [State.freeSwap]
  with_reducible repeat' (first
    | assumption | dsimp only | simp only [kept_mk] | refine keptMk_of ?_ rfl rfl rfl | intro _)

theorem State.raiseCount_kept {i0 : State} (s : State) (key n : Nat) (hs : Kept i0 s) :
    Kept i0 (State.raiseCount s key n) := by
  rw [State.raiseCount]
  with_reducible repeat' (first
    | assumption | dsimp only | simp only [kept_mk] | refine keptMk_of ?_ rfl rfl rfl)

theorem State.freePage_kept {i0 : State} (s : State) (key lg : Nat) (hs : Kept i0 s) :
    Kept i0 (State.freePage s key lg) := by
  rw [State.freePage]
  with_reducible repeat' (first
    | assumption | dsimp only | apply State.freeSwap_kept | apply State.returnPage_kept | simp only [kept_mk]
    | refine keptMk_of ?_ rfl rfl rfl | refine kept_ite ?_ ?_ | split | intro _)

theorem State.freeIfZero_kept {i0 : State} (s : State) (key lg : Nat) (hs : Kept i0 s) :
    Kept i0 (State.freeIfZero s key lg).1 := by
  rw [State.freeIfZero]
  with_reducible repeat' (first
    | assumption | dsimp only | apply State.freePage_kept | simp only [kept_mk] | refine keptMk_of ?_ rfl rfl rfl | split | intro _)

theorem State.lowerCount_kept {i0 : State} (s : State) (key lg n : Nat) (hs : Kept i0 s) :
    Kept i0 (State.lowerCount s key lg n).1 := by
  rw [State.lowerCount]
  with_reducible repeat' (first
    | assumption | dsimp only | apply State.freeIfZero_kept | simp only [kept_mk] | refine keptMk_of ?_ rfl rfl rfl | intro _)

theorem State.dropKernels_kept {i0 : State} (s : State) (seq : Word) (hs : Kept i0 s) :
    Kept i0 (State.dropKernels s seq) := by
  rw [State.dropKernels]
  with_reducible repeat' (first
    | assumption | dsimp only | simp only [kept_mk] | refine keptMk_of ?_ rfl rfl rfl | refine kept_ite ?_ ?_ | split | intro _)

theorem State.setTake_kept {i0 : State} (s : State) (t : Nat) (v : Take) (hs : Kept i0 s) :
    Kept i0 (State.setTake s t v) := by
  rw [State.setTake]
  with_reducible repeat' (first
    | assumption | dsimp only | simp only [kept_mk] | refine keptMk_of ?_ rfl rfl rfl)

theorem State.setReel_kept {i0 : State} (s : State) (i : Nat) (v : Reel) (hs : Kept i0 s) :
    Kept i0 (State.setReel s i v) := by
  rw [State.setReel]
  with_reducible repeat' (first
    | assumption | dsimp only | simp only [kept_mk] | refine keptMk_of ?_ rfl rfl rfl)

theorem State.reapReel_kept {i0 : State} (s : State) (i : Nat) (hs : Kept i0 s) :
    Kept i0 (State.reapReel s i) := by
  rw [State.reapReel]
  with_reducible repeat' (first
    | assumption | dsimp only | apply State.setReel_kept | simp only [kept_mk] | refine keptMk_of ?_ rfl rfl rfl | refine kept_ite ?_ ?_
    | split | intro _)

theorem State.dropReel_kept {i0 : State} (s : State) (i : Nat) (hs : Kept i0 s) :
    Kept i0 (State.dropReel s i) := by
  rw [State.dropReel]
  with_reducible repeat' (first
    | assumption | dsimp only | apply State.setReel_kept | apply State.reapReel_kept | simp only [kept_mk] | refine keptMk_of ?_ rfl rfl rfl
    | refine kept_ite ?_ ?_ | split)

theorem State.dropChunks_kept {i0 : State} (s : State) (seq : Word) (hs : Kept i0 s) :
    Kept i0 (State.dropChunks s seq) := by
  rw [State.dropChunks]
  with_reducible repeat' (first
    | assumption | dsimp only | apply State.setReel_kept | apply State.dropReel_kept | simp only [kept_mk] | refine keptMk_of ?_ rfl rfl rfl
    | refine foldl_kept ?_ _ ?_ | refine kept_ite ?_ ?_ | split | intro _)

theorem State.dropTakes_kept {i0 : State} (s : State) (l : List Nat) (hs : Kept i0 s) :
    Kept i0 (State.dropTakes s l) := by
  rw [State.dropTakes]
  with_reducible repeat' (first
    | assumption | dsimp only | apply State.setTake_kept | simp only [kept_mk] | refine keptMk_of ?_ rfl rfl rfl | refine foldl_kept ?_ _ ?_
    | refine kept_ite ?_ ?_ | split | intro _)

theorem State.stopWork_kept {i0 : State} (s : State) (seq : Word) (c : Cmd) (hs : Kept i0 s) :
    Kept i0 (State.stopWork s seq c) := by
  rw [State.stopWork]
  with_reducible repeat' (first
    | assumption | dsimp only | apply State.dropKernels_kept | apply State.dropReqs_kept | apply State.dropChunks_kept
    | apply State.dropTakes_kept | simp only [kept_mk] | refine keptMk_of ?_ rfl rfl rfl | refine kept_ite ?_ ?_ | split | intro _)

end Sys2Proof.Machine
end

