-- ==== Sys2Proof/Laws/KeptHost.lean ====
section
/-! SUPPORT. Kept by ends of commands, the intake, programs and queries: the queue and the form of the memories. -/

namespace Sys2Proof.Machine

theorem State.setQueue_kept {i0 : State} (s : State) (q : Nat) (v : CplQueue) (hs : Kept i0 s) :
    Kept i0 (State.setQueue s q v) := by
  rw [State.setQueue]
  with_reducible repeat' (first
    | assumption | dsimp only | simp only [kept_mk] | refine keptMk_of ?_ rfl rfl rfl | refine keptMk_wf ?_ ?_ ?_ ?_ | apply Mem.writeN_wf
    | apply Mem.clearN_wf | apply Mem.filter_wf | apply foldl_write_wf | intro _)

theorem State.promote_kept {i0 : State} (s : State) (q : Nat) (y0 : Nat) (hs : Kept i0 s) :
    Kept i0 (State.promote s q y0) := by
  induction y0 generalizing s q with
  | zero =>
    simp only [State.promote]
    first | exact hs | exact keptOpt_some hs | exact keptP_some hs | exact keptE_ok hs | trivial
  | succ n ih =>
    rw [State.promote]
    with_reducible repeat' (first
      | assumption | apply ih | dsimp only | simp only [kept_mk] | refine keptMk_of ?_ rfl rfl rfl | refine keptMk_wf ?_ ?_ ?_ ?_ | apply Mem.writeN_wf
      | apply Mem.clearN_wf | apply Mem.filter_wf | apply foldl_write_wf | refine kept_ite ?_ ?_ | split | intro _)

theorem State.promoteAll_kept {i0 : State} (s : State) (q : Nat) (hs : Kept i0 s) :
    Kept i0 (State.promoteAll s q) := by
  rw [State.promoteAll]
  with_reducible repeat' (first
    | assumption | dsimp only | apply State.promote_kept)

theorem State.writeExt_kept {i0 : State} (s : State) (seq : Word) (c : Cmd) (hs : Kept i0 s) :
    Kept i0 (State.writeExt s seq c).1 := by
  rw [State.writeExt]
  with_reducible repeat' (first
    | assumption | dsimp only | apply State.writeVA_kept | apply State.violation_kept | refine KeptOpt.get ?_ (by assumption)
    | exact keptOpt_none _ | simp only [kept_mk] | refine keptMk_of ?_ rfl rfl rfl | split | intro _)

theorem State.setEng_kept {i0 : State} (s : State) (e : Nat) (v : DmaEng) (hs : Kept i0 s) :
    Kept i0 (State.setEng s e v) := by
  rw [State.setEng]
  with_reducible repeat' (first
    | assumption | dsimp only | simp only [kept_mk] | refine keptMk_of ?_ rfl rfl rfl)

theorem State.dmaRecord_kept {i0 : State} (s : State) (e c : Nat) (d : DmaDesc) (st : Status) (cancelled : Bool) (hs : Kept i0 s) :
    Kept i0 (State.dmaRecord s e c d st cancelled) := by
  rw [State.dmaRecord]
  with_reducible repeat' (first
    | assumption | dsimp only | apply State.setEng_kept | apply State.writeVA_kept | refine KeptOpt.get ?_ (by assumption)
    | exact keptOpt_none _ | simp only [kept_mk] | refine keptMk_of ?_ rfl rfl rfl | refine kept_ite ?_ ?_ | split)

theorem State.cancelDma_kept {i0 : State} (s : State) (mine : DmaDesc → Bool) (st : Status) (hs : Kept i0 s) :
    Kept i0 (State.cancelDma s mine st) := by
  rw [State.cancelDma]
  with_reducible repeat' (first
    | assumption | dsimp only | apply State.dmaRecord_kept | apply hmine | simp only [kept_mk] | refine keptMk_of ?_ rfl rfl rfl
    | refine foldl_kept ?_ _ ?_ | refine kept_ite ?_ ?_ | split | intro _)

theorem State.finish_kept {i0 : State} (s : State) (seq : Word) (st : Status) (result : List Byte) (hs : Kept i0 s) :
    Kept i0 (State.finish s seq st result) := by
  rw [State.finish]
  with_reducible repeat' (first
    | assumption | dsimp only | apply State.stopWork_kept | apply State.cancelDma_kept | apply State.writeExt_kept | apply State.setCmd_kept
    | refine kept_snd ?_ (by assumption) | refine kept_fst ?_ (by assumption) | simp only [kept_mk] | refine keptMk_of ?_ rfl rfl rfl
    | refine keptMk_wf ?_ ?_ ?_ ?_ | apply Mem.writeN_wf | apply Mem.clearN_wf | apply Mem.filter_wf | apply foldl_write_wf
    | refine kept_ite ?_ ?_ | split | intro _)

theorem State.finishWritten_kept {i0 : State} (s : State) (seq : Word) (st : Status) (result : List Byte) (hs : Kept i0 s) :
    Kept i0 (State.finishWritten s seq st result) := by
  rw [State.finishWritten]
  with_reducible repeat' (first
    | assumption | dsimp only | apply State.updCmd_kept | apply State.finish_kept | simp only [kept_mk] | refine keptMk_of ?_ rfl rfl rfl
    | refine kept_ite ?_ ?_ | split | intro _)

theorem State.writeAnswered_kept {i0 : State} (s : State) (seq : Word) (hs : Kept i0 s) :
    Kept i0 (State.writeAnswered s seq) := by
  rw [State.writeAnswered]
  with_reducible repeat' (first
    | assumption | dsimp only | apply State.finish_kept | refine keptOpt_bind ?_ _ | simp only [kept_mk] | refine keptMk_of ?_ rfl rfl rfl
    | refine kept_ite ?_ ?_ | split)

theorem State.finishBare_kept {i0 : State} (s : State) (seq : Word) (st : Status) (hs : Kept i0 s) :
    Kept i0 (State.finishBare s seq st) := by
  rw [State.finishBare]
  with_reducible repeat' (first
    | assumption | dsimp only | apply State.finish_kept)

theorem State.finishRun_kept {i0 : State} (s : State) (seq : Word) (st : Status) (hs : Kept i0 s) :
    Kept i0 (State.finishRun s seq st) := by
  rw [State.finishRun]
  with_reducible repeat' (first
    | assumption | dsimp only | apply State.finish_kept | simp only [kept_mk] | refine keptMk_of ?_ rfl rfl rfl | refine kept_ite ?_ ?_
    | split)

theorem State.sendVector_kept {i0 : State} (s : State) (v : Nat) (hs : Kept i0 s) :
    Kept i0 (State.sendVector s v) := by
  rw [State.sendVector]
  with_reducible repeat' (first
    | assumption | dsimp only | apply State.send_kept | simp only [kept_mk] | refine keptMk_of ?_ rfl rfl rfl | refine keptMk_wf ?_ ?_ ?_ ?_
    | apply Mem.writeN_wf | apply Mem.clearN_wf | apply Mem.filter_wf | apply foldl_write_wf | refine kept_ite ?_ ?_ | split | intro _)

theorem State.queueIrq_kept {i0 : State} (s : State) (q : Nat) (hs : Kept i0 s) :
    Kept i0 (State.queueIrq s q) := by
  rw [State.queueIrq]
  with_reducible repeat' (first
    | assumption | dsimp only | apply State.sendVector_kept | apply State.setQueue_kept | simp only [kept_mk]
    | refine keptMk_of ?_ rfl rfl rfl)

theorem State.recordIrq_kept {i0 : State} (s : State) (q : Nat) (irq : Bool) (hs : Kept i0 s) :
    Kept i0 (State.recordIrq s q irq) := by
  rw [State.recordIrq]
  with_reducible repeat' (first
    | assumption | dsimp only | apply State.setQueue_kept | apply State.queueIrq_kept | simp only [kept_mk]
    | refine keptMk_of ?_ rfl rfl rfl | refine kept_ite ?_ ?_ | split)

theorem State.queueFail_kept {i0 : State} (s : State) (q : Nat) (va : Nat) (hs : Kept i0 s) :
    Kept i0 (State.queueFail s q va) := by
  rw [State.queueFail]
  with_reducible repeat' (first
    | assumption | dsimp only | apply State.setQueue_kept | apply State.violation_kept | simp only [kept_mk]
    | refine keptMk_of ?_ rfl rfl rfl | refine keptMk_wf ?_ ?_ ?_ ?_ | apply Mem.writeN_wf | apply Mem.clearN_wf | apply Mem.filter_wf
    | apply foldl_write_wf | intro _)

theorem State.recordVisible_kept {i0 : State} (s : State) (q : Nat) (accepted : Bool) (hs : Kept i0 s) :
    Kept i0 (State.recordVisible s q accepted) := by
  rw [State.recordVisible]
  with_reducible repeat' (first
    | assumption | dsimp only | apply State.writeVA_kept | apply State.queueFail_kept | apply State.setQueue_kept | apply State.bump_kept
    | apply State.slateAsk_kept | apply State.recordIrq_kept | refine kept_snd ?_ (by assumption) | refine kept_fst ?_ (by assumption)
    | refine KeptOpt.get ?_ (by assumption) | exact keptOpt_none _ | simp only [kept_mk] | refine keptMk_of ?_ rfl rfl rfl
    | refine keptMk_wf ?_ ?_ ?_ ?_ | apply Mem.writeN_wf | apply Mem.clearN_wf | apply Mem.filter_wf | apply foldl_write_wf
    | refine kept_ite ?_ ?_ | split | intro _)

theorem State.programFault_kept {i0 : State} (s : State) (seq : Word) (subject detail : Nat) (hs : Kept i0 s) :
    Kept i0 (State.programFault s seq subject detail) := by
  rw [State.programFault]
  with_reducible repeat' (first
    | assumption | dsimp only | apply State.report_kept | apply State.finishRun_kept)

theorem State.setSlot_kept {i0 : State} (s : State) (i : Nat) (v : Slot) (hs : Kept i0 s) :
    Kept i0 (State.setSlot s i v) := by
  rw [State.setSlot]
  with_reducible repeat' (first
    | assumption | dsimp only | simp only [kept_mk] | refine keptMk_of ?_ rfl rfl rfl | refine keptMk_wf ?_ ?_ ?_ ?_ | apply Mem.writeN_wf
    | apply Mem.clearN_wf | apply Mem.filter_wf | apply foldl_write_wf | intro _)

theorem State.reject_kept {i0 : State} (s : State) (slot reason : Nat) (st : Status) (hs : Kept i0 s) :
    Kept i0 (State.reject s slot reason st) := by
  rw [State.reject]
  with_reducible repeat' (first
    | assumption | dsimp only | apply State.setSlot_kept | apply State.violation_kept | simp only [kept_mk]
    | refine keptMk_of ?_ rfl rfl rfl | refine keptMk_wf ?_ ?_ ?_ ?_ | apply Mem.writeN_wf | apply Mem.clearN_wf | apply Mem.filter_wf
    | apply foldl_write_wf | intro _)

theorem State.accept_kept {i0 : State} (s : State) (slot : Nat) (rec : List Byte) (hs : Kept i0 s) :
    Kept i0 (State.accept s slot rec) := by
  rw [State.accept]
  with_reducible repeat' (first
    | assumption | dsimp only | apply State.setSlot_kept | apply State.setCmd_kept | simp only [kept_mk] | refine keptMk_of ?_ rfl rfl rfl
    | refine keptMk_wf ?_ ?_ ?_ ?_ | apply Mem.writeN_wf | apply Mem.clearN_wf | apply Mem.filter_wf | apply foldl_write_wf
    | refine kept_ite ?_ ?_ | split | intro _)

theorem State.checkRecord_kept {i0 : State} (s : State) (slot : Nat) (rec : List Byte) (hs : Kept i0 s) :
    Kept i0 (State.checkRecord s slot rec) := by
  rw [State.checkRecord]
  with_reducible repeat' (first
    | assumption | dsimp only | apply State.reject_kept | apply State.accept_kept | simp only [kept_mk] | refine keptMk_of ?_ rfl rfl rfl
    | split)

theorem State.recordWrite_kept {i0 : State} (s : State) (slot lo : Nat) (bs : List Byte) (hs : Kept i0 s) :
    Kept i0 (State.recordWrite s slot lo bs) := by
  rw [State.recordWrite]
  with_reducible repeat' (first
    | assumption | dsimp only | apply State.checkRecord_kept | apply State.setSlot_kept | simp only [kept_mk]
    | refine keptMk_of ?_ rfl rfl rfl | refine kept_ite ?_ ?_ | split)

theorem execIntakeWrite_kept {i0 : State} (off : BitVec 20) (data : List Byte) (poisoned : Bool) (s : State) (hs : Kept i0 s) :
    KeptO i0 (execIntakeWrite off data poisoned s) := by
  rw [execIntakeWrite]
  with_reducible repeat' (first
    | assumption | dsimp only | apply State.violation_kept | apply State.reject_kept | apply State.recordWrite_kept | apply keptO_next
    | simp only [kept_mk] | refine keptMk_of ?_ rfl rfl rfl | refine keptO_ite ?_ ?_ | split | intro _)

theorem State.discardPartial_kept {i0 : State} (s : State) (slot : Nat) (hs : Kept i0 s) :
    Kept i0 (State.discardPartial s slot) := by
  rw [State.discardPartial]
  with_reducible repeat' (first
    | assumption | dsimp only | apply State.reject_kept | simp only [kept_mk] | refine keptMk_of ?_ rfl rfl rfl | split)

theorem State.slotRead_kept {i0 : State} (s : State) (slot lo n : Nat) (hs : Kept i0 s) :
    Kept i0 (State.slotRead s slot lo n).2 := by
  rw [State.slotRead]
  with_reducible repeat' (first
    | assumption | dsimp only | apply State.violation_kept | apply State.discardPartial_kept | split | intro _)

theorem State.intakeRead_kept {i0 : State} (s : State) (off n : Nat) (hs : Kept i0 s) :
    Kept i0 (State.intakeRead s off n).2 := by
  rw [State.intakeRead]
  with_reducible repeat' (first
    | assumption | dsimp only | apply State.slotRead_kept | refine kept_snd ?_ (by assumption) | refine kept_fst ?_ (by assumption)
    | simp only [kept_mk] | refine keptMk_of ?_ rfl rfl rfl | refine foldl_kept ?_ _ ?_ | refine foldl_kept_snd ?_ _ ?_
    | refine foldl_kept_fst ?_ _ ?_ | split | intro _)

theorem execReceiptRead_kept {i0 : State} (off : BitVec 20) (len : Nat) (s : State) (hs : Kept i0 s) :
    KeptO i0 (execReceiptRead off len s) := by
  rw [execReceiptRead]
  with_reducible repeat' (first
    | assumption | dsimp only | apply State.intakeRead_kept | apply State.send_kept | refine kept_snd ?_ (by assumption)
    | refine kept_fst ?_ (by assumption) | apply keptO_next | simp only [kept_mk] | refine keptMk_of ?_ rfl rfl rfl | split | intro _)

theorem execPartialTimeout_kept {i0 : State} (slot : IntakeIx) (s : State) (hs : Kept i0 s) :
    KeptO i0 (execPartialTimeout slot s) := by
  rw [execPartialTimeout]
  with_reducible repeat' (first
    | assumption | dsimp only | apply State.discardPartial_kept | apply keptO_next | intro _)

theorem execCompletionRecordVisible_kept {i0 : State} (q : QueueIx) (accepted : Bool) (s : State) (hs : Kept i0 s) :
    KeptO i0 (execCompletionRecordVisible q accepted s) := by
  rw [execCompletionRecordVisible]
  with_reducible repeat' (first
    | assumption | dsimp only | apply State.recordVisible_kept | apply keptO_next | intro _)

theorem execMsixHoldoffExpiry_kept {i0 : State} (q : QueueIx) (s : State) (hs : Kept i0 s) :
    KeptO i0 (execMsixHoldoffExpiry q s) := by
  rw [execMsixHoldoffExpiry]
  with_reducible repeat' (first
    | assumption | dsimp only | apply State.queueIrq_kept | apply State.setQueue_kept | apply keptO_next | simp only [kept_mk]
    | refine keptMk_of ?_ rfl rfl rfl | refine keptO_ite ?_ ?_ | split | intro _)

theorem State.barDropped_kept {i0 : State} (s : State) (off : Nat) (hs : Kept i0 s) :
    Kept i0 (State.barDropped s off) := by
  rw [State.barDropped]
  with_reducible repeat' (first
    | assumption | dsimp only | apply State.violation_kept | refine kept_ite ?_ ?_ | split)

theorem State.consWrite_kept {i0 : State} (s : State) (q : Nat) (v : Half) (hs : Kept i0 s) :
    Kept i0 (State.consWrite s q v) := by
  rw [State.consWrite]
  with_reducible repeat' (first
    | assumption | dsimp only | apply State.setQueue_kept | apply State.violation_kept | apply State.promoteAll_kept | simp only [kept_mk]
    | refine keptMk_of ?_ rfl rfl rfl | refine kept_ite ?_ ?_ | split)

theorem execHifCqConsWrite_kept {i0 : State} (q : QueueIx) (value : Word) (s : State) (hs : Kept i0 s) :
    KeptO i0 (execHifCqConsWrite q value s) := by
  rw [execHifCqConsWrite]
  with_reducible repeat' (first
    | assumption | dsimp only | apply State.consWrite_kept | apply State.barDropped_kept | apply keptO_next | refine keptO_ite ?_ ?_ | split
    | intro _)

theorem State.ctlWrite_kept {i0 : State} (s : State) (q : Nat) (v : Nat) (hs : Kept i0 s) :
    Kept i0 (State.ctlWrite s q v) := by
  rw [State.ctlWrite]
  with_reducible repeat' (first
    | assumption | dsimp only | apply State.setQueue_kept | apply State.violation_kept | apply State.promoteAll_kept | simp only [kept_mk]
    | refine keptMk_of ?_ rfl rfl rfl | refine kept_ite ?_ ?_ | split)

theorem execHifCqCtlWrite_kept {i0 : State} (q : QueueIx) (value : Word) (s : State) (hs : Kept i0 s) :
    KeptO i0 (execHifCqCtlWrite q value s) := by
  rw [execHifCqCtlWrite]
  with_reducible repeat' (first
    | assumption | dsimp only | apply State.ctlWrite_kept | apply State.barDropped_kept | apply keptO_next | refine keptO_ite ?_ ?_ | split
    | intro _)

theorem State.vectorCtl_kept {i0 : State} (s : State) (v : Nat) (ctl : Word) (hs : Kept i0 s) :
    Kept i0 (State.vectorCtl s v ctl) := by
  rw [State.vectorCtl]
  with_reducible repeat' (first
    | assumption | dsimp only | apply State.send_kept | simp only [kept_mk] | refine keptMk_of ?_ rfl rfl rfl | refine keptMk_wf ?_ ?_ ?_ ?_
    | apply Mem.writeN_wf | apply Mem.clearN_wf | apply Mem.filter_wf | apply foldl_write_wf | refine kept_ite ?_ ?_ | split | intro _)

theorem execMsixVectorUnmask_kept {i0 : State} (v : QueueIx) (ctl : Word) (s : State) (hs : Kept i0 s) :
    KeptO i0 (execMsixVectorUnmask v ctl s) := by
  rw [execMsixVectorUnmask]
  with_reducible repeat' (first
    | assumption | dsimp only | apply State.vectorCtl_kept | apply State.barDropped_kept | apply keptO_next | refine keptO_ite ?_ ?_ | split
    | intro _)

theorem storeRun_kept {i0 : State} (cls window : Nat) (run : Nat × List Byte) (y0 : Option (List Nat × State)) (hy0 : KeptP i0 y0) :
    KeptOpt i0 (storeRun cls window run y0) := by
  cases y0 with
  | none => exact trivial
  | some p =>
    refine keptOpt_some (foldl_kept (fun u x h => State.hbmWrite_kept _ _ _ _ h) _ ?_)
    rw [kept_mk]
    exact keptMk_of hy0 rfl rfl rfl

theorem State.placeRun_kept {i0 : State} (s : State) (cls window : Nat) (run : Nat × List Byte) (hs : Kept i0 s) :
    KeptOpt i0 (State.placeRun s cls window run) := by
  exact storeRun_kept _ _ _ _ (State.drawPages_kept _ _ _ _ hs)

theorem State.placeRuns_kept {i0 : State} (s : State) (cls window : Nat) (y0 : List (Nat × List Byte)) (hs : Kept i0 s) :
    KeptOpt i0 (State.placeRuns s cls window y0) := by
  induction y0 generalizing s with
  | nil => exact hs
  | cons x r ih =>
    rw [State.placeRuns]
    exact keptOpt_bindOf (State.placeRun_kept _ _ _ _ hs) ih

theorem State.enterProgram_kept {i0 : State} (s : State) (seq : Word) (c : Container) (i : Nat) (y0 : Option State) (hs : Kept i0 s) (hy0 : KeptOpt i0 y0) :
    Kept i0 (State.enterProgram s seq c i y0) := by
  cases y0 with
  | none => exact State.finishBare_kept _ _ _ hs
  | some t =>
    refine State.finish_kept _ _ _ _ ?_
    rw [kept_mk]
    exact keptMk_of hy0 rfl rfl rfl

theorem State.loadContainer_kept {i0 : State} (s : State) (seq : Word) (c : Container) (cls : Nat) (hs : Kept i0 s) :
    Kept i0 (State.loadContainer s seq c cls) := by
  rw [State.loadContainer]
  with_reducible repeat' (first
    | assumption | dsimp only | apply State.finishBare_kept | apply State.enterProgram_kept | apply State.placeRuns_kept
    | refine KeptOpt.get ?_ (by assumption) | exact keptOpt_none _ | simp only [kept_mk] | refine keptMk_of ?_ rfl rfl rfl
    | refine kept_ite ?_ ?_ | split)

theorem State.releaseWindow_kept {i0 : State} (s : State) (i : Nat) (hs : Kept i0 s) :
    Kept i0 (State.releaseWindow s i) := by
  rw [State.releaseWindow]
  with_reducible repeat' (first
    | assumption | dsimp only | apply State.returnPage_kept | simp only [kept_mk] | refine keptMk_of ?_ rfl rfl rfl
    | refine foldl_kept ?_ _ ?_ | intro _)

theorem State.refuseOwn_kept {i0 : State} (s : State) (seq : Word) (va : Nat) (hs : Kept i0 s) :
    Kept i0 (State.refuseOwn s seq va) := by
  rw [State.refuseOwn]
  with_reducible repeat' (first
    | assumption | dsimp only | apply State.violation_kept | apply State.finish_kept)

theorem State.endCmd_kept {i0 : State} (s : State) (seq : Word) (st : Status) (hs : Kept i0 s) :
    Kept i0 (State.endCmd s seq st) := by
  rw [State.endCmd]
  with_reducible repeat' (first
    | assumption | dsimp only | apply State.finishRun_kept | apply State.finishBare_kept | simp only [kept_mk]
    | refine keptMk_of ?_ rfl rfl rfl | refine kept_ite ?_ ?_ | split)

theorem State.useFault_kept {i0 : State} (s : State) (seq : Word) (unit va : Nat) (hs : Kept i0 s) :
    Kept i0 (State.useFault s seq unit va) := by
  rw [State.useFault]
  with_reducible repeat' (first
    | assumption | dsimp only | apply State.report_kept | apply State.endCmd_kept)

theorem State.poisonFault_kept {i0 : State} (s : State) (seq : Word) (pa : Nat) (hs : Kept i0 s) :
    Kept i0 (State.poisonFault s seq pa) := by
  rw [State.poisonFault]
  with_reducible repeat' (first
    | assumption | dsimp only | apply State.report_kept | apply State.endCmd_kept)

theorem State.noteUse_kept {i0 : State} (s : State) (va n : Nat) (hs : Kept i0 s) :
    Kept i0 (State.noteUse s va n) := by
  rw [State.noteUse]
  with_reducible repeat' (first
    | assumption | dsimp only | simp only [kept_mk] | refine keptMk_of ?_ rfl rfl rfl | refine kept_ite ?_ ?_ | split | intro _)

theorem State.touchVA_kept {i0 : State} (s : State) (a : Acc) (va n : Nat) (hs : Kept i0 s) :
    Kept i0 (State.touchVA s a va n) := by
  rw [State.touchVA]
  with_reducible repeat' (first
    | assumption | dsimp only | apply State.hbmTouched_kept | apply State.noteUse_kept | simp only [kept_mk]
    | refine keptMk_of ?_ rfl rfl rfl | refine foldl_kept ?_ _ ?_ | split | intro _)

theorem State.readFor_kept {i0 : State} (s : State) (a : Acc) (seq : Word) (unit va n : Nat) (k : List Byte → State → State) (hs : Kept i0 s) (hk : ∀ z0 z1, Kept i0 z1 → Kept i0 (k z0 z1)) :
    Kept i0 (State.readFor s a seq unit va n k) := by
  rw [State.readFor]
  with_reducible repeat' (first
    | assumption | dsimp only | apply State.askPeers_kept | apply State.touchVA_kept | apply State.usePeers_kept | apply State.useFault_kept
    | apply State.poisonFault_kept | apply hk | simp only [kept_mk] | refine keptMk_of ?_ rfl rfl rfl | refine kept_ite ?_ ?_ | split)

theorem State.writeFor_kept {i0 : State} (s : State) (a : Acc) (seq : Word) (unit va : Nat) (bs : List Byte) (k : State → State) (hs : Kept i0 s) (hk : ∀ z0, Kept i0 z0 → Kept i0 (k z0)) :
    Kept i0 (State.writeFor s a seq unit va bs k) := by
  rw [State.writeFor]
  with_reducible repeat' (first
    | assumption | dsimp only | apply State.writeVA_kept | apply State.noteUse_kept | apply State.useFault_kept | apply hk
    | refine KeptOpt.get ?_ (by assumption) | exact keptOpt_none _ | apply KeptOpt.getD | simp only [kept_mk]
    | refine keptMk_of ?_ rfl rfl rfl | split)

theorem State.loadProgram_kept {i0 : State} (s : State) (seq : Word) (c : Cmd) (hs : Kept i0 s) :
    Kept i0 (State.loadProgram s seq c) := by
  rw [State.loadProgram]
  with_reducible repeat' (first
    | assumption | dsimp only | apply State.finishBare_kept | apply State.refuseOwn_kept | apply State.readFor_kept
    | apply State.loadContainer_kept | simp only [kept_mk] | refine keptMk_of ?_ rfl rfl rfl | refine kept_ite ?_ ?_ | split | intro _)

theorem execLoadProgram_kept {i0 : State} (seq : Word) (s : State) (hs : Kept i0 s) :
    KeptO i0 (execLoadProgram seq s) := by
  rw [execLoadProgram]
  with_reducible repeat' (first
    | assumption | dsimp only | apply State.loadProgram_kept | apply keptO_next | simp only [kept_mk] | refine keptMk_of ?_ rfl rfl rfl
    | refine keptO_ite ?_ ?_ | split | intro _)

theorem State.unload_kept {i0 : State} (s : State) (seq : Word) (c : Cmd) (hs : Kept i0 s) :
    Kept i0 (State.unload s seq c) := by
  rw [State.unload]
  with_reducible repeat' (first
    | assumption | dsimp only | apply State.finishBare_kept | apply State.releaseWindow_kept | apply State.finish_kept | simp only [kept_mk]
    | refine keptMk_of ?_ rfl rfl rfl | split)

theorem execUnload_kept {i0 : State} (seq : Word) (s : State) (hs : Kept i0 s) :
    KeptO i0 (execUnload seq s) := by
  rw [execUnload]
  with_reducible repeat' (first
    | assumption | dsimp only | apply State.unload_kept | apply keptO_next | simp only [kept_mk] | refine keptMk_of ?_ rfl rfl rfl
    | refine keptO_ite ?_ ?_ | split | intro _)

theorem State.query_kept {i0 : State} (s : State) (seq : Word) (c : Cmd) (bytes : Nat) (report : Option (List Byte)) (hs : Kept i0 s) :
    Kept i0 (State.query s seq c bytes report) := by
  unfold State.query
  with_reducible repeat' (first
    | assumption | dsimp only | apply State.report_kept | apply State.finishBare_kept | apply State.refuseOwn_kept
    | apply State.writeFor_kept | apply State.finishWritten_kept | simp only [kept_mk] | refine keptMk_of ?_ rfl rfl rfl
    | refine kept_ite ?_ ?_ | split | intro _)

theorem State.queryTurn_kept {i0 : State} (s : State) (seq : Word) (kind bytes : Nat) (f : Nat → Option (List Byte)) (hs : Kept i0 s) :
    Kept i0 (State.queryTurn s seq kind bytes f) := by
  rw [State.queryTurn]
  with_reducible repeat' (first
    | assumption | dsimp only | apply State.query_kept | apply hf | simp only [kept_mk] | refine keptMk_of ?_ rfl rfl rfl
    | refine kept_ite ?_ ?_ | split)

theorem execQueryDevice_kept {i0 : State} (seq : Word) (s : State) (hs : Kept i0 s) :
    KeptO i0 (execQueryDevice seq s) := by
  rw [execQueryDevice]
  with_reducible repeat' (first
    | assumption | dsimp only | apply State.queryTurn_kept | apply keptO_next | intro _)

theorem execQueryTake_kept {i0 : State} (seq : Word) (s : State) (hs : Kept i0 s) :
    KeptO i0 (execQueryTake seq s) := by
  rw [execQueryTake]
  with_reducible repeat' (first
    | assumption | dsimp only | apply State.queryTurn_kept | apply State.report_kept | apply keptO_next | simp only [id_eq] | intro _)

theorem execQueryReel_kept {i0 : State} (seq : Word) (s : State) (hs : Kept i0 s) :
    KeptO i0 (execQueryReel seq s) := by
  rw [execQueryReel]
  with_reducible repeat' (first
    | assumption | dsimp only | apply State.queryTurn_kept | apply State.report_kept | apply keptO_next | simp only [id_eq] | intro _)

theorem execQuerySequence_kept {i0 : State} (seq : Word) (s : State) (hs : Kept i0 s) :
    KeptO i0 (execQuerySequence seq s) := by
  rw [execQuerySequence]
  with_reducible repeat' (first
    | assumption | dsimp only | apply State.queryTurn_kept | apply State.report_kept | apply keptO_next | simp only [id_eq] | intro _)

end Sys2Proof.Machine
end

