-- ==== Sys2Proof/Laws/KeptTakes.lean ====
section
/-! SUPPORT. Kept by takes, reels and batch sequences: the queue and the form of the memories. -/

namespace Sys2Proof.Machine

theorem State.setPages_kept {i0 : State} (s : State) (t : Nat) (ps : List PageEnt) (hs : Kept i0 s) :
    Kept i0 (State.setPages s t ps) := by
  rw [State.setPages]
  with_reducible repeat' (first
    | assumption | dsimp only | apply State.setTake_kept | simp only [kept_mk] | refine keptMk_of ?_ rfl rfl rfl | refine kept_ite ?_ ?_
    | split)

theorem State.placeChildren_kept {i0 : State} (s : State) (p : Take) (pref : Nat) (c : Cmd) (seq : Word) (y0 : Nat) (y1 : Nat) (y2 : List Nat) (hs : Kept i0 s) :
    Kept i0 (State.placeChildren s p pref c seq y0 y1 y2).2 := by
  induction y0 generalizing s p pref c seq y1 y2 with
  | zero =>
    simp only [State.placeChildren]
    first | exact hs | exact keptOpt_some hs | exact keptP_some hs | exact keptE_ok hs | trivial
  | succ n ih =>
    rw [State.placeChildren]
    with_reducible repeat' (first
      | assumption | apply ih | dsimp only | apply State.setTake_kept | simp only [kept_mk] | refine keptMk_of ?_ rfl rfl rfl | split | intro _)

theorem State.returnReserve_kept {i0 : State} (s : State) (t : Take) (hs : Kept i0 s) :
    Kept i0 (State.returnReserve s t) := by
  rw [State.returnReserve]
  with_reducible repeat' (first
    | assumption | dsimp only | apply State.returnPage_kept | refine foldl_kept ?_ _ ?_ | intro _)

theorem State.freeEntry_kept {i0 : State} (s : State) (t : Nat) (hs : Kept i0 s) :
    Kept i0 (State.freeEntry s t) := by
  rw [State.freeEntry]
  with_reducible repeat' (first
    | assumption | dsimp only | apply State.setTake_kept)

theorem State.ownList_kept {i0 : State} (s : State) (seq : Word) (va : Nat) (bs : List Byte) (k : State → State) (hs : Kept i0 s) (hk : ∀ z0, Kept i0 z0 → Kept i0 (k z0)) :
    Kept i0 (State.ownList s seq va bs k) := by
  rw [State.ownList]
  with_reducible repeat' (first
    | assumption | dsimp only | apply State.writeFor_kept | apply hk | refine kept_ite ?_ ?_ | split)

theorem State.forkTake_kept {i0 : State} (s : State) (seq : Word) (c : Cmd) (t : Nat) (hs : Kept i0 s) :
    Kept i0 (State.forkTake s seq c t) := by
  rw [State.forkTake]
  with_reducible repeat' (first
    | assumption | dsimp only | apply State.finish_kept | apply State.drawPages_kept | apply State.placeChildren_kept
    | apply State.raiseCount_kept | apply State.setReel_kept | apply State.returnReserve_kept | apply State.freeEntry_kept
    | apply State.bump_kept | apply State.ownList_kept | apply State.finishWritten_kept | refine KeptP.get ?_ (by assumption)
    | refine kept_snd ?_ (by assumption) | refine kept_fst ?_ (by assumption) | simp only [kept_mk] | refine keptMk_of ?_ rfl rfl rfl
    | refine foldl_kept ?_ _ ?_ | refine foldl_kept_snd ?_ _ ?_ | refine foldl_kept_fst ?_ _ ?_ | refine kept_ite ?_ ?_ | split | intro _)

theorem execForkTake_kept {i0 : State} (seq : Word) (s : State) (hs : Kept i0 s) :
    KeptO i0 (execForkTake seq s) := by
  rw [execForkTake]
  with_reducible repeat' (first
    | assumption | dsimp only | apply State.finishBare_kept | apply State.refuseOwn_kept | apply State.forkTake_kept | apply keptO_next
    | simp only [kept_mk] | refine keptMk_of ?_ rfl rfl rfl | refine keptO_ite ?_ ?_ | split | intro _)

theorem State.releaseTake_kept {i0 : State} (s : State) (owner : Option Word) (t : Nat) (hs : Kept i0 s) :
    Kept i0 (State.releaseTake s owner t) := by
  rw [State.releaseTake]
  with_reducible repeat' (first
    | assumption | dsimp only | apply State.returnReserve_kept | apply State.dropReel_kept | apply State.freeEntry_kept
    | simp only [kept_mk] | refine keptMk_of ?_ rfl rfl rfl | refine foldl_kept ?_ _ ?_ | intro _)

theorem State.closeCut_kept {i0 : State} (s : State) (r : CutRun) (hs : Kept i0 s) :
    Kept i0 (State.closeCut s r) := by
  rw [State.closeCut]
  with_reducible repeat' (first
    | assumption | dsimp only | apply State.finishWritten_kept | simp only [kept_mk] | refine keptMk_of ?_ rfl rfl rfl | intro _)

theorem State.openCut_kept {i0 : State} (s : State) (r : CutRun) (hs : Kept i0 s) :
    Kept i0 (State.openCut s r) := by
  rw [State.openCut]
  with_reducible repeat' (first
    | assumption | dsimp only | apply State.closeCut_kept | apply State.updCmd_kept | simp only [kept_mk] | refine keptMk_of ?_ rfl rfl rfl
    | refine kept_ite ?_ ?_ | split | intro _)

theorem State.cutTakes_kept {i0 : State} (s : State) (seq : Word) (c : Cmd) (m : List Nat) (hs : Kept i0 s) :
    Kept i0 (State.cutTakes s seq c m) := by
  rw [State.cutTakes]
  with_reducible repeat' (first
    | assumption | dsimp only | apply State.refuseOwn_kept | apply State.releaseTake_kept | apply State.bump_kept | apply State.ownList_kept
    | apply State.openCut_kept | simp only [kept_mk] | refine keptMk_of ?_ rfl rfl rfl | refine foldl_kept ?_ _ ?_ | refine kept_ite ?_ ?_
    | split | intro _)

theorem execCutTakes_kept {i0 : State} (seq : Word) (s : State) (hs : Kept i0 s) :
    KeptO i0 (execCutTakes seq s) := by
  rw [execCutTakes]
  with_reducible repeat' (first
    | assumption | dsimp only | apply State.finishBare_kept | apply State.cutTakes_kept | apply keptO_next | simp only [kept_mk]
    | refine keptMk_of ?_ rfl rfl rfl | refine keptO_ite ?_ ?_ | split | intro _)

theorem State.pruneTake_kept {i0 : State} (s : State) (seq : Word) (t : Nat) (held : Bool) (hs : Kept i0 s) :
    Kept i0 (State.pruneTake s seq t held) := by
  rw [State.pruneTake]
  with_reducible repeat' (first
    | assumption | dsimp only | apply State.releaseTake_kept | apply State.bump_kept | apply State.openCut_kept)

theorem execPruneTake_kept {i0 : State} (seq : Word) (s : State) (hs : Kept i0 s) :
    KeptO i0 (execPruneTake seq s) := by
  rw [execPruneTake]
  with_reducible repeat' (first
    | assumption | dsimp only | apply State.pruneTake_kept | apply State.finishBare_kept | apply State.updCmd_kept | apply keptO_next
    | simp only [kept_mk] | refine keptMk_of ?_ rfl rfl rfl | refine keptO_ite ?_ ?_ | split | intro _)

theorem State.countUpdate_kept {i0 : State} (s : State) (u : Nat) (hs : Kept i0 s) :
    Kept i0 (State.countUpdate s u) := by
  rw [State.countUpdate]
  with_reducible repeat' (first
    | assumption | dsimp only | apply State.raiseCount_kept | apply State.lowerCount_kept | apply State.closeCut_kept
    | refine kept_snd ?_ (by assumption) | refine kept_fst ?_ (by assumption) | simp only [kept_mk] | refine keptMk_of ?_ rfl rfl rfl
    | refine kept_ite ?_ ?_ | split | intro _)

theorem execCountUpdate_kept {i0 : State} (unit : Fin 8) (s : State) (hs : Kept i0 s) :
    KeptO i0 (execCountUpdate unit s) := by
  rw [execCountUpdate]
  with_reducible repeat' (first
    | assumption | dsimp only | apply State.countUpdate_kept | apply keptO_next | intro _)

theorem State.registerRoot_kept {i0 : State} (s : State) (seq : Word) (c : Cmd) (set : BitVec 12) (cls : Bool) (seed : BitVec 128) (pages : List RootPage) (tokens : Word) (reels : List Word) (hs : Kept i0 s) :
    Kept i0 (State.registerRoot s seq c set cls seed pages tokens reels) := by
  rw [State.registerRoot]
  with_reducible repeat' (first
    | assumption | dsimp only | apply State.endCmd_kept | apply State.setTake_kept | apply State.setReel_kept | apply State.updCmd_kept
    | simp only [kept_mk] | refine keptMk_of ?_ rfl rfl rfl | refine foldl_kept ?_ _ ?_ | refine kept_ite ?_ ?_ | split | intro _)

theorem execRootTakeRegister_kept {i0 : State} (seq : Word) (set : BitVec 12) (cls : Bool) (seed : BitVec 128) (pages : List RootPage) (tokens : Word) (reels : List Word) (s : State) (hs : Kept i0 s) :
    KeptO i0 (execRootTakeRegister seq set cls seed pages tokens reels s) := by
  rw [execRootTakeRegister]
  with_reducible repeat' (first
    | assumption | dsimp only | apply State.registerRoot_kept | apply keptO_next | simp only [kept_mk] | refine keptMk_of ?_ rfl rfl rfl
    | refine keptO_ite ?_ ?_ | split | intro _)

theorem State.movePage_kept {i0 : State} (s : State) (t key : Nat) (e : PageEnt) (hs : Kept i0 s) :
    Kept i0 (State.movePage s t key e) := by
  rw [State.movePage]
  with_reducible repeat' (first
    | assumption | dsimp only | apply State.setTake_kept | simp only [kept_mk] | refine keptMk_of ?_ rfl rfl rfl | refine kept_ite ?_ ?_
    | split | intro _)

theorem State.releaseHeld_kept {i0 : State} (s : State) (pa : Nat) (held : List (Nat × List Byte)) (hs : Kept i0 s) :
    Kept i0 (State.releaseHeld s pa held) := by
  rw [State.releaseHeld]
  with_reducible repeat' (first
    | assumption | dsimp only | apply State.hbmWrite_kept | refine foldl_kept ?_ _ ?_ | intro _)

theorem State.carryDies_kept {i0 : State} (s : State) (pa lg : Nat) (hs : Kept i0 s) :
    Kept i0 (State.carryDies s pa lg) := by
  rw [State.carryDies]
  with_reducible repeat' (first
    | assumption | dsimp only | apply State.carry_kept | simp only [kept_mk] | refine keptMk_of ?_ rfl rfl rfl | refine foldl_kept ?_ _ ?_
    | refine kept_ite ?_ ?_ | split | intro _)

theorem State.countBlocks_kept {i0 : State} (s : State) (src dst lg : Nat) (hs : Kept i0 s) :
    Kept i0 (State.countBlocks s src dst lg) := by
  rw [State.countBlocks]
  with_reducible repeat' (first
    | assumption | dsimp only | apply State.bump_kept | refine foldl_kept ?_ _ ?_ | intro _)

theorem State.copyPage_kept {i0 : State} (s : State) (src dst lg : Nat) (hs : Kept i0 s) :
    Kept i0 (State.copyPage s src dst lg) := by
  rw [State.copyPage]
  with_reducible repeat' (first
    | assumption | dsimp only | apply State.countBlocks_kept | simp only [kept_mk] | refine keptMk_of ?_ rfl rfl rfl
    | refine keptMk_wf ?_ ?_ ?_ ?_ | apply Mem.writeN_wf | apply Mem.clearN_wf | apply Mem.filter_wf | apply foldl_write_wf
    | refine foldl_kept ?_ _ ?_ | intro _)

theorem State.countCopy_kept {i0 : State} (s : State) (t : Nat) (hs : Kept i0 s) :
    Kept i0 (State.countCopy s t) := by
  rw [State.countCopy]
  with_reducible repeat' (first
    | assumption | dsimp only | simp only [kept_mk] | refine keptMk_of ?_ rfl rfl rfl | split | intro _)

theorem State.settleCopy_kept {i0 : State} (s : State) (t key lg dst : Nat) (held : List (Nat × List Byte)) (hs : Kept i0 s) :
    Kept i0 (State.settleCopy s t key lg dst held) := by
  rw [State.settleCopy]
  with_reducible repeat' (first
    | assumption | dsimp only | apply State.movePage_kept | apply State.lowerCount_kept | apply State.countCopy_kept
    | apply State.releaseHeld_kept | apply State.returnPage_kept | apply State.freeIfZero_kept | simp only [kept_mk]
    | refine keptMk_of ?_ rfl rfl rfl | refine kept_ite ?_ ?_ | split | intro _)

theorem execPageCopyComplete_kept {i0 : State} (n : Half) (s : State) (hs : Kept i0 s) :
    KeptO i0 (execPageCopyComplete n s) := by
  rw [execPageCopyComplete]
  with_reducible repeat' (first
    | assumption | dsimp only | apply State.copyPage_kept | apply State.settleCopy_kept | apply keptO_next | simp only [kept_mk]
    | refine keptMk_of ?_ rfl rfl rfl | split | intro _)

theorem State.wakeBank_kept {i0 : State} (s : State) (b : Nat × Nat × Nat) (hs : Kept i0 s) :
    Kept i0 (State.wakeBank s b) := by
  rw [State.wakeBank]
  with_reducible repeat' (first
    | assumption | dsimp only | apply State.bump_kept | simp only [kept_mk] | refine keptMk_of ?_ rfl rfl rfl | refine kept_ite ?_ ?_
    | split | intro _)

theorem State.giveCores_kept {i0 : State} (s : State) (seq : Word) (layer : Nat) (l : List (Nat × Nat)) (hs : Kept i0 s) :
    Kept i0 (State.giveCores s seq layer l) := by
  rw [State.giveCores]
  with_reducible repeat' (first
    | assumption | dsimp only | apply State.updCore_kept | refine foldl_kept ?_ _ ?_ | intro _)

theorem State.placeKernel_kept {i0 : State} (s : State) (seq : Word) (layer prog kix cls : Nat) (k : KernelEnt) (p : Spot) (hs : Kept i0 s) :
    Kept i0 (State.placeKernel s seq layer prog kix cls k p) := by
  rw [State.placeKernel]
  with_reducible repeat' (first
    | assumption | dsimp only | apply State.giveCores_kept | apply State.bump_kept | apply State.updCmd_kept | simp only [kept_mk]
    | refine keptMk_of ?_ rfl rfl rfl | refine kept_ite ?_ ?_ | split | intro _)

theorem State.beginSave_kept {i0 : State} (s : State) (k : Kern) (hs : Kept i0 s) :
    Kept i0 (State.beginSave s k) := by
  rw [State.beginSave]
  with_reducible repeat' (first
    | assumption | dsimp only | apply State.setKern_kept | apply State.cancelWaits_kept | simp only [kept_mk]
    | refine keptMk_of ?_ rfl rfl rfl | split | intro _)

theorem State.preempt_kept {i0 : State} (s : State) (k : Kern) (cause : PreCause) (hs : Kept i0 s) :
    Kept i0 (State.preempt s k cause) := by
  rw [State.preempt]
  with_reducible repeat' (first
    | assumption | dsimp only | apply State.setKern_kept | apply State.beginSave_kept | apply State.updCmd_kept | apply State.setFlag_kept
    | simp only [kept_mk] | refine keptMk_of ?_ rfl rfl rfl | refine kept_ite ?_ ?_ | split | intro _)

theorem State.putSram_kept {i0 : State} (s : State) (w foot : Nat) (m : Mem) (hs : Kept i0 s) :
    Kept i0 (State.putSram s w foot m) := by
  rw [State.putSram]
  with_reducible repeat' (first
    | assumption | dsimp only | simp only [kept_mk] | refine keptMk_of ?_ rfl rfl rfl | refine keptMk_wf ?_ ?_ ?_ ?_ | apply Mem.writeN_wf
    | apply Mem.clearN_wf | apply Mem.filter_wf | apply foldl_write_wf | refine foldl_kept ?_ _ ?_ | intro _)

theorem State.bumpAll_kept {i0 : State} (s : State) (l : List Nat) (ev n : Nat) (hs : Kept i0 s) :
    Kept i0 (State.bumpAll s l ev n) := by
  rw [State.bumpAll]
  with_reducible repeat' (first
    | assumption | dsimp only | apply State.bump_kept | refine foldl_kept ?_ _ ?_ | intro _)

theorem State.saveKernel_kept {i0 : State} (s : State) (k : Kern) (hs : Kept i0 s) :
    Kept i0 (State.saveKernel s k) := by
  rw [State.saveKernel]
  with_reducible repeat' (first
    | assumption | dsimp only | apply State.bumpAll_kept | apply State.setKern_kept | simp only [kept_mk] | refine keptMk_of ?_ rfl rfl rfl
    | refine kept_ite ?_ ?_ | split | intro _)

theorem State.moveCores_kept {i0 : State} (s : State) (k : Kern) (ws : List (Nat × Nat)) (hs : Kept i0 s) :
    Kept i0 (State.moveCores s k ws) := by
  rw [State.moveCores]
  with_reducible repeat' (first
    | assumption | dsimp only | simp only [kept_mk] | refine keptMk_of ?_ rfl rfl rfl | refine foldl_kept ?_ _ ?_ | refine kept_ite ?_ ?_
    | split | intro _)

theorem State.reissue_kept {i0 : State} (s : State) (seq : Word) (gone w : Nat) (hs : Kept i0 s) :
    Kept i0 (State.reissue s seq gone w) := by
  rw [State.reissue]
  with_reducible repeat' (first
    | assumption | dsimp only | apply State.updCore_kept | apply State.request_kept | simp only [kept_mk] | refine keptMk_of ?_ rfl rfl rfl
    | refine kept_ite ?_ ?_ | split | intro _)

theorem State.restoreKernel_kept {i0 : State} (s : State) (k : Kern) (hs : Kept i0 s) :
    Kept i0 (State.restoreKernel s k) := by
  rw [State.restoreKernel]
  with_reducible repeat' (first
    | assumption | dsimp only | apply State.setCore_kept | apply State.putSram_kept | apply State.moveCores_kept | apply State.reissue_kept
    | apply State.setKern_kept | apply State.updCmd_kept | apply keptOpt_some | exact keptOpt_none _ | simp only [kept_mk]
    | refine keptMk_of ?_ rfl rfl rfl | refine foldl_kept ?_ _ ?_ | intro _)

theorem State.resumeKernel_kept {i0 : State} (s : State) (k : Kern) (p : Spot) (hs : Kept i0 s) :
    Kept i0 (State.resumeKernel s k p) := by
  rw [State.resumeKernel]
  with_reducible repeat' (first
    | assumption | dsimp only | apply State.giveCores_kept | apply State.setKern_kept | apply State.bump_kept | apply State.updCmd_kept
    | simp only [kept_mk] | refine keptMk_of ?_ rfl rfl rfl | intro _)

theorem State.setSeq_kept {i0 : State} (s : State) (i : Nat) (q : SeqEnt) (hs : Kept i0 s) :
    Kept i0 (State.setSeq s i q) := by
  rw [State.setSeq]
  with_reducible repeat' (first
    | assumption | dsimp only | simp only [kept_mk] | refine keptMk_of ?_ rfl rfl rfl)

theorem State.setHolderPages_kept {i0 : State} (s : State) (ix : Nat) (ps : List PageEnt) (tokens window : Nat) (hs : Kept i0 s) :
    Kept i0 (State.setHolderPages s ix ps tokens window) := by
  rw [State.setHolderPages]
  with_reducible repeat' (first
    | assumption | dsimp only | apply State.setPages_kept | apply State.setTake_kept | apply State.setSeq_kept | simp only [kept_mk]
    | refine keptMk_of ?_ rfl rfl rfl | refine kept_ite ?_ ?_ | split)

theorem State.setHolderState_kept {i0 : State} (s : State) (ix : Nat) (t : TakeState) (q : SeqState) (hs : Kept i0 s) :
    Kept i0 (State.setHolderState s ix t q) := by
  rw [State.setHolderState]
  with_reducible repeat' (first
    | assumption | dsimp only | apply State.setTake_kept | apply State.setSeq_kept | simp only [kept_mk] | refine keptMk_of ?_ rfl rfl rfl
    | refine kept_ite ?_ ?_ | split)

theorem State.stepOver_kept {i0 : State} (s : State) (ix : Nat) (hs : Kept i0 s) :
    Kept i0 (State.stepOver s ix) := by
  rw [State.stepOver]
  with_reducible repeat' (first
    | assumption | dsimp only | apply State.setTake_kept | apply State.setSeq_kept | simp only [kept_mk] | refine keptMk_of ?_ rfl rfl rfl
    | refine kept_ite ?_ ?_ | split)

theorem State.growHolder_kept {i0 : State} (s : State) (ix grow tok : Nat) (hs : Kept i0 s) :
    KeptOpt i0 (State.growHolder s ix grow tok) := by
  rw [State.growHolder]
  with_reducible repeat' (first
    | assumption | dsimp only | apply State.drawPages_kept | apply State.setHolderPages_kept | refine KeptP.get ?_ (by assumption)
    | refine keptOpt_map ?_ _ | apply keptOpt_some | exact keptOpt_none _ | simp only [kept_mk] | refine keptMk_of ?_ rfl rfl rfl
    | refine foldl_kept ?_ _ ?_ | split | intro _)

theorem State.swapPlaces_kept {i0 : State} (s : State) (y0 : List PageEnt) (hs : Kept i0 s) :
    KeptP i0 (State.swapPlaces s y0) := by
  induction y0 generalizing s with
  | nil =>
    simp only [State.swapPlaces]
    first | exact hs | exact keptOpt_some hs | exact keptP_some hs | exact keptE_ok hs | trivial
  | cons x r ih =>
    rw [State.swapPlaces]
    with_reducible repeat' (first
      | assumption | apply ih | dsimp only | apply State.takeSwap_kept | refine KeptP.get ?_ (by assumption) | apply keptP_some | exact keptP_none _
      | simp only [kept_mk] | refine keptMk_of ?_ rfl rfl rfl | split | intro _)

theorem State.markPreempted_kept {i0 : State} (s : State) (q : Word) (i : Nat) (hs : Kept i0 s) :
    Kept i0 (State.markPreempted s q i) := by
  rw [State.markPreempted]
  with_reducible repeat' (first
    | assumption | dsimp only | apply State.storeVA_kept | simp only [kept_mk] | refine keptMk_of ?_ rfl rfl rfl | simp only [id_eq] | split
    | intro _)

theorem State.takeVictim_kept {i0 : State} (s : State) (ix : Nat) (taker : Word) (hs : Kept i0 s) :
    Kept i0 (State.takeVictim s ix taker) := by
  rw [State.takeVictim]
  with_reducible repeat' (first
    | assumption | dsimp only | apply State.swapPlaces_kept | apply State.preempt_kept | apply State.updCmd_kept
    | apply State.markPreempted_kept | apply State.setHolderState_kept | refine KeptP.get ?_ (by assumption) | simp only [kept_mk]
    | refine keptMk_of ?_ rfl rfl rfl | refine foldl_kept ?_ _ ?_ | refine kept_ite ?_ ?_ | split | intro _)

theorem State.meetGrowth_kept {i0 : State} (s : State) (seq : Word) (tok : Nat) (y0 : Nat) (y1 : List Ask) (hs : Kept i0 s) :
    Kept i0 (State.meetGrowth s seq tok y0 y1).1 := by
  induction y0 generalizing s seq tok y1 with
  | zero =>
    simp only [State.meetGrowth]
    first | exact hs | exact keptOpt_some hs | exact keptP_some hs | exact keptE_ok hs | trivial
  | succ n ih =>
    rw [State.meetGrowth]
    with_reducible repeat' (first
      | assumption | apply ih | dsimp only | apply State.takeVictim_kept | simp only [kept_mk] | refine keptMk_of ?_ rfl rfl rfl | split | intro _)

theorem State.growAll_kept {i0 : State} (s : State) (tok : Nat) (y0 : List Ask) (hs : Kept i0 s) :
    KeptOpt i0 (State.growAll s tok y0) := by
  induction y0 generalizing s tok with
  | nil =>
    simp only [State.growAll]
    first | exact hs | exact keptOpt_some hs | exact keptP_some hs | exact keptE_ok hs | trivial
  | cons x r ih =>
    rw [State.growAll]
    with_reducible repeat' (first
      | assumption | apply ih | dsimp only | apply State.growHolder_kept | refine KeptOpt.get ?_ (by assumption) | exact keptOpt_none _
      | apply keptOpt_some | exact keptOpt_none _ | simp only [kept_mk] | refine keptMk_of ?_ rfl rfl rfl | split | intro _)

theorem State.resumeHolder_kept {i0 : State} (s : State) (ix : Nat) (seq : Word) (hs : Kept i0 s) :
    KeptOpt i0 (State.resumeHolder s ix seq) := by
  unfold State.resumeHolder
  dsimp only
  refine keptOpt_mapOf (foldl_keptOpt ?_ _ (keptOpt_some hs)) ?_
  · intro o e ho
    refine keptOpt_bindOf ho (fun t ht => keptOpt_ofP (State.drawPage_kept _ _ _ _ ht) (fun a u hu => ?_))
    simp only [kept_mk]
    exact keptMk_of hu rfl rfl rfl
  · intro t ht
    exact State.updCmd_kept _ _ _ (State.setFlag_kept _ _ _ (State.setHolderState_kept _ _ _ _ ht))

theorem State.resumeAll_kept {i0 : State} (s : State) (seq : Word) (tok : Nat) (grow : Nat → Nat) (y0 : List Nat) (y1 : List Ask) (hs : Kept i0 s) :
    Kept i0 (State.resumeAll s seq tok grow y0 y1).1 := by
  induction y0 generalizing s seq tok grow y1 with
  | nil =>
    simp only [State.resumeAll]
    first | exact hs | exact keptOpt_some hs | exact keptP_some hs | exact keptE_ok hs | trivial
  | cons x r ih =>
    rw [State.resumeAll]
    with_reducible repeat' (first
      | assumption | apply ih | dsimp only | apply State.resumeHolder_kept | apply hgrow | refine KeptOpt.get ?_ (by assumption) | exact keptOpt_none _
      | simp only [kept_mk] | refine keptMk_of ?_ rfl rfl rfl | refine foldl_kept ?_ _ ?_ | refine foldl_kept_snd ?_ _ ?_
      | refine foldl_kept_fst ?_ _ ?_ | split | intro _)

theorem State.moveReel_kept {i0 : State} (s : State) (i : Nat) (q : ReelPlace) (hs : Kept i0 s) :
    Kept i0 (State.moveReel s i q) := by
  rw [State.moveReel]
  with_reducible repeat' (first
    | assumption | dsimp only | apply State.wakeBank_kept | simp only [kept_mk] | refine keptMk_of ?_ rfl rfl rfl
    | refine foldl_kept ?_ _ ?_ | intro _)

theorem State.evict_kept {i0 : State} (s : State) (i : Nat) (hs : Kept i0 s) :
    Kept i0 (State.evict s i) := by
  rw [State.evict]
  with_reducible repeat' (first
    | assumption | dsimp only | apply State.moveReel_kept | apply State.setReel_kept | simp only [kept_mk] | refine keptMk_of ?_ rfl rfl rfl
    | refine kept_ite ?_ ?_ | split)

theorem State.swapIn_kept {i0 : State} (s : State) (i : Nat) (p : ReelPlace) (who : Option Word) (hs : Kept i0 s) :
    Kept i0 (State.swapIn s i p who) := by
  rw [State.swapIn]
  with_reducible repeat' (first
    | assumption | dsimp only | apply State.setReel_kept | simp only [kept_mk] | refine keptMk_of ?_ rfl rfl rfl)

theorem State.bringIn_kept {i0 : State} (s : State) (i : Nat) (hs : Kept i0 s) :
    Kept i0 (State.bringIn s i) := by
  rw [State.bringIn]
  with_reducible repeat' (first
    | assumption | dsimp only | apply State.swapIn_kept | apply State.evict_kept | simp only [kept_mk] | refine keptMk_of ?_ rfl rfl rfl
    | split | intro _)

theorem State.bringWanted_kept {i0 : State} (s : State) (hs : Kept i0 s) :
    Kept i0 (State.bringWanted s) := by
  rw [State.bringWanted]
  with_reducible repeat' (first
    | assumption | dsimp only | apply State.bringIn_kept | simp only [kept_mk] | refine keptMk_of ?_ rfl rfl rfl | refine foldl_kept ?_ _ ?_
    | refine kept_ite ?_ ?_ | split | intro _)

theorem execReelSwapInDone_kept {i0 : State} (reel : Half) (s : State) (hs : Kept i0 s) :
    KeptO i0 (execReelSwapInDone reel s) := by
  rw [execReelSwapInDone]
  with_reducible repeat' (first
    | assumption | dsimp only | apply State.swapIn_kept | apply State.setReel_kept | apply State.reapReel_kept | apply keptO_next
    | simp only [kept_mk] | refine keptMk_of ?_ rfl rfl rfl | refine keptO_ite ?_ ?_ | split | intro _)

theorem execReelSwapOutDone_kept {i0 : State} (reel : Half) (s : State) (hs : Kept i0 s) :
    KeptO i0 (execReelSwapOutDone reel s) := by
  rw [execReelSwapOutDone]
  with_reducible repeat' (first
    | assumption | dsimp only | apply State.setReel_kept | apply State.reapReel_kept | apply keptO_next | simp only [kept_mk]
    | refine keptMk_of ?_ rfl rfl rfl | refine keptO_ite ?_ ?_ | split | intro _)

theorem execShelfMoveDone_kept {i0 : State} (reel : Half) (s : State) (hs : Kept i0 s) :
    KeptO i0 (execShelfMoveDone reel s) := by
  rw [execShelfMoveDone]
  with_reducible repeat' (first
    | assumption | dsimp only | apply State.setReel_kept | apply keptO_next | simp only [kept_mk] | refine keptMk_of ?_ rfl rfl rfl | split
    | intro _)

theorem State.clearRow_kept {i0 : State} (s : State) (i : Nat) (p : ReelPlace) (hs : Kept i0 s) :
    Kept i0 (State.clearRow s i p) := by
  rw [State.clearRow]
  with_reducible repeat' (first
    | assumption | dsimp only | apply State.evict_kept | refine foldl_kept ?_ _ ?_ | intro _)

theorem State.drawReel_kept {i0 : State} (s : State) (seq : Word) (p : ReelPlace) (i : Nat) (hs : Kept i0 s) :
    Kept i0 (State.drawReel s seq p i) := by
  rw [State.drawReel]
  with_reducible repeat' (first
    | assumption | dsimp only | apply State.clearRow_kept | apply State.swapIn_kept | apply State.setReel_kept | apply State.moveReel_kept
    | simp only [kept_mk] | refine keptMk_of ?_ rfl rfl rfl | refine kept_ite ?_ ?_ | split | intro _)

theorem State.maskStep_kept {i0 : State} (s : State) (c : Chunk) (k : State → Chunk → State) (hs : Kept i0 s) (hk : ∀ z0 z1, Kept i0 z0 → Kept i0 (k z0 z1)) :
    Kept i0 (State.maskStep s c k) := by
  rw [State.maskStep]
  with_reducible repeat' (first
    | assumption | dsimp only | apply State.readFor_kept | apply State.setReel_kept | apply hk | simp only [kept_mk]
    | refine keptMk_of ?_ rfl rfl rfl | refine foldl_kept ?_ _ ?_ | refine kept_ite ?_ ?_ | split | intro _)

theorem State.askMasks_kept {i0 : State} (s : State) (c : Chunk) (hs : Kept i0 s) :
    Kept i0 (State.askMasks s c) := by
  rw [State.askMasks]
  with_reducible repeat' (first
    | assumption | dsimp only | apply State.askPeers_kept)

theorem State.setChunk_kept {i0 : State} (s : State) (c : Chunk) (hs : Kept i0 s) :
    Kept i0 (State.setChunk s c) := by
  rw [State.setChunk]
  with_reducible repeat' (first
    | assumption | dsimp only | simp only [kept_mk] | refine keptMk_of ?_ rfl rfl rfl | refine kept_ite ?_ ?_ | split | intro _)

theorem State.slotCopy_kept {i0 : State} (s : State) (t i : Nat) (p : ReelPlace) (hs : Kept i0 s) :
    KeptP i0 (State.slotCopy s t i p) := by
  rw [State.slotCopy]
  with_reducible repeat' (first
    | assumption | dsimp only | apply State.setReel_kept | apply State.setTake_kept | apply keptP_some | exact keptP_none _
    | apply keptP_mapSnd | refine keptP_map ?_ _ | simp only [kept_mk] | refine keptMk_of ?_ rfl rfl rfl | simp only [id_eq] | split
    | intro _)

theorem State.copyShared_kept {i0 : State} (s : State) (c : Chunk) (cores : List Nat) (q : Nat × Nat) (hs : Kept i0 s) :
    Kept i0 (State.copyShared s c cores q).1 := by
  rw [State.copyShared]
  with_reducible repeat' (first
    | assumption | dsimp only | apply State.clearRow_kept | apply State.slotCopy_kept | refine KeptP.get ?_ (by assumption)
    | simp only [kept_mk] | refine keptMk_of ?_ rfl rfl rfl | split | intro _)

theorem State.tryChunk_kept {i0 : State} (s : State) (c : Chunk) (cores : List Nat) (hs : Kept i0 s) :
    Kept i0 (State.tryChunk s c cores) := by
  rw [State.tryChunk]
  with_reducible repeat' (first
    | assumption | dsimp only | apply State.endCmd_kept | apply State.copyShared_kept | apply State.setChunk_kept
    | apply State.askMasks_kept | apply State.setReel_kept | apply State.maskStep_kept | apply State.drawReel_kept
    | refine kept_snd ?_ (by assumption) | refine kept_fst ?_ (by assumption) | simp only [kept_mk] | refine keptMk_of ?_ rfl rfl rfl
    | refine foldl_kept ?_ _ ?_ | refine foldl_kept_snd ?_ _ ?_ | refine foldl_kept_fst ?_ _ ?_ | refine kept_ite ?_ ?_ | split | intro _)

theorem State.newChunk_kept {i0 : State} (s : State) (seq : Word) (c : Cmd) (k : Kern) (d : ChunkDesc) (ids : List Nat) (hs : Kept i0 s) :
    Kept i0 (State.newChunk s seq c k d ids) := by
  rw [State.newChunk]
  with_reducible repeat' (first
    | assumption | dsimp only | apply State.endCmd_kept | apply State.tryChunk_kept | apply State.updCmd_kept | simp only [kept_mk]
    | refine keptMk_of ?_ rfl rfl rfl | simp only [id_eq] | refine kept_ite ?_ ?_ | split | intro _)

theorem execChunkDispatch_kept {i0 : State} (seq : Word) (s : State) (hs : Kept i0 s) :
    KeptO i0 (execChunkDispatch seq s) := by
  rw [execChunkDispatch]
  with_reducible repeat' (first
    | assumption | dsimp only | apply State.tryChunk_kept | apply State.readFor_kept | apply State.newChunk_kept | apply keptO_next
    | simp only [kept_mk] | refine keptMk_of ?_ rfl rfl rfl | refine keptO_ite ?_ ?_ | split | intro _)

theorem State.foldReel_kept {i0 : State} (s : State) (c : Chunk) (n ran cls : Nat) (early : Bool) (hs : Kept i0 s) :
    Kept i0 (State.foldReel s c n ran cls early) := by
  rw [State.foldReel]
  with_reducible repeat' (first
    | assumption | dsimp only | apply State.setReel_kept | apply State.bump_kept | apply State.setFlag_kept | simp only [kept_mk]
    | refine keptMk_of ?_ rfl rfl rfl | refine kept_ite ?_ ?_ | split)

theorem State.foldChunk_kept {i0 : State} (s : State) (c : Chunk) (early : Bool) (hs : Kept i0 s) :
    Kept i0 (State.foldChunk s c early) := by
  rw [State.foldChunk]
  with_reducible repeat' (first
    | assumption | dsimp only | apply State.foldReel_kept | apply State.dropReel_kept | apply State.reapReel_kept | apply State.updCmd_kept
    | simp only [kept_mk] | refine keptMk_of ?_ rfl rfl rfl | refine foldl_kept ?_ _ ?_ | intro _)

theorem execChunkFold_kept {i0 : State} (seq : Word) (s : State) (hs : Kept i0 s) :
    KeptO i0 (execChunkFold seq s) := by
  rw [execChunkFold]
  with_reducible repeat' (first
    | assumption | dsimp only | apply State.foldChunk_kept | apply State.updCmd_kept | apply keptO_next | simp only [kept_mk]
    | refine keptMk_of ?_ rfl rfl rfl | split | intro _)

theorem State.saveReels_kept {i0 : State} (s : State) (k : Kern) (hs : Kept i0 s) :
    Kept i0 (State.saveReels s k) := by
  rw [State.saveReels]
  with_reducible repeat' (first
    | assumption | dsimp only | apply State.setReel_kept | simp only [kept_mk] | refine keptMk_of ?_ rfl rfl rfl | refine foldl_kept ?_ _ ?_
    | refine kept_ite ?_ ?_ | split | intro _)

theorem State.clearRows_kept {i0 : State} (s : State) (k : Kern) (hs : Kept i0 s) :
    Kept i0 (State.clearRows s k) := by
  rw [State.clearRows]
  with_reducible repeat' (first
    | assumption | dsimp only | apply State.clearRow_kept | simp only [kept_mk] | refine keptMk_of ?_ rfl rfl rfl
    | refine foldl_kept ?_ _ ?_ | split | intro _)

theorem State.restoreReels_kept {i0 : State} (s : State) (k : Kern) (hs : Kept i0 s) :
    Kept i0 (State.restoreReels s k) := by
  rw [State.restoreReels]
  with_reducible repeat' (first
    | assumption | dsimp only | apply State.setReel_kept | simp only [kept_mk] | refine keptMk_of ?_ rfl rfl rfl | refine foldl_kept ?_ _ ?_
    | refine kept_ite ?_ ?_ | split | intro _)

theorem State.dropSoft_kept {i0 : State} (s : State) (i : Nat) (hs : Kept i0 s) :
    Kept i0 (State.dropSoft s i) := by
  rw [State.dropSoft]
  with_reducible repeat' (first
    | assumption | dsimp only | apply State.setReel_kept | apply State.dropReel_kept | simp only [kept_mk] | refine keptMk_of ?_ rfl rfl rfl
    | refine kept_ite ?_ ?_ | split)

theorem State.exportReel_kept {i0 : State} (s : State) (seq : Word) (c : Cmd) (i : Nat) (hs : Kept i0 s) :
    Kept i0 (State.exportReel s seq c i) := by
  rw [State.exportReel]
  with_reducible repeat' (first
    | assumption | dsimp only | apply State.finishBare_kept | apply State.refuseOwn_kept | apply State.writeFor_kept
    | apply State.dropSoft_kept | apply State.bump_kept | apply State.finishWritten_kept | simp only [kept_mk]
    | refine keptMk_of ?_ rfl rfl rfl | simp only [id_eq] | refine kept_ite ?_ ?_ | split | intro _)

theorem execExportReel_kept {i0 : State} (seq : Word) (s : State) (hs : Kept i0 s) :
    KeptO i0 (execExportReel seq s) := by
  rw [execExportReel]
  with_reducible repeat' (first
    | assumption | dsimp only | apply State.finishBare_kept | apply State.exportReel_kept | apply keptO_next | simp only [kept_mk]
    | refine keptMk_of ?_ rfl rfl rfl | refine keptO_ite ?_ ?_ | split | intro _)

theorem State.importInto_kept {i0 : State} (s : State) (seq : Word) (c : Cmd) (i : Nat) (r : Reel) (hs : Kept i0 s) :
    Kept i0 (State.importInto s seq c i r) := by
  rw [State.importInto]
  with_reducible repeat' (first
    | assumption | dsimp only | apply State.setReel_kept | apply State.bringIn_kept | apply State.finish_kept | simp only [kept_mk]
    | refine keptMk_of ?_ rfl rfl rfl | refine kept_ite ?_ ?_ | split | intro _)

theorem State.importReel_kept {i0 : State} (s : State) (seq : Word) (c : Cmd) (b : List Byte) (hs : Kept i0 s) :
    Kept i0 (State.importReel s seq c b) := by
  rw [State.importReel]
  with_reducible repeat' (first
    | assumption | dsimp only | apply State.bump_kept | apply State.finishBare_kept | apply State.importInto_kept | apply State.setReel_kept
    | simp only [kept_mk] | refine keptMk_of ?_ rfl rfl rfl | refine kept_ite ?_ ?_ | split | intro _)

theorem execImportReel_kept {i0 : State} (seq : Word) (s : State) (hs : Kept i0 s) :
    KeptO i0 (execImportReel seq s) := by
  rw [execImportReel]
  with_reducible repeat' (first
    | assumption | dsimp only | apply State.swapIn_kept | apply State.refuseOwn_kept | apply State.readFor_kept
    | apply State.importReel_kept | apply keptO_next | simp only [kept_mk] | refine keptMk_of ?_ rfl rfl rfl | refine keptO_ite ?_ ?_
    | split | intro _)

theorem State.withVector_kept {i0 : State} (s : State) (seq : Word) (a n : Nat) (k : List Word → State → State) (hs : Kept i0 s) (hk : ∀ z0 z1, Kept i0 z1 → Kept i0 (k z0 z1)) :
    Kept i0 (State.withVector s seq a n k) := by
  rw [State.withVector]
  with_reducible repeat' (first
    | assumption | dsimp only | apply State.readFor_kept | apply hk | refine kept_ite ?_ ?_ | split | intro _)

theorem State.createReels_kept {i0 : State} (s : State) (seq : Word) (e fmt : Nat) (limit : Word) (v : List Word) (y0 : Nat) (hs : Kept i0 s) :
    KeptP i0 (State.createReels s seq e fmt limit v y0) := by
  induction y0 generalizing s seq e fmt limit v with
  | zero =>
    simp only [State.createReels]
    first | exact hs | exact keptOpt_some hs | exact keptP_some hs | exact keptE_ok hs | trivial
  | succ n ih =>
    rw [State.createReels]
    with_reducible repeat' (first
      | assumption | apply ih | dsimp only | apply State.setReel_kept | refine KeptP.get ?_ (by assumption) | apply keptP_some | exact keptP_none _
      | simp only [kept_mk] | refine keptMk_of ?_ rfl rfl rfl | split | intro _)

theorem execResetReelsCreate_kept {i0 : State} (seq : Word) (s : State) (hs : Kept i0 s) :
    KeptO i0 (execResetReelsCreate seq s) := by
  rw [execResetReelsCreate]
  with_reducible repeat' (first
    | assumption | dsimp only | apply State.finishBare_kept | apply State.refuseOwn_kept | apply State.withVector_kept
    | apply State.createReels_kept | apply State.ownList_kept | apply State.finishWritten_kept | refine KeptP.get ?_ (by assumption)
    | apply keptO_next | simp only [kept_mk] | refine keptMk_of ?_ rfl rfl rfl | refine keptO_ite ?_ ?_ | split | intro _)

theorem State.resetListed_kept {i0 : State} (s : State) (seq : Word) (c : Cmd) (f : State → List Nat → State) (hs : Kept i0 s) (hf : ∀ z0 z1, Kept i0 z0 → Kept i0 (f z0 z1)) :
    Kept i0 (State.resetListed s seq c f) := by
  rw [State.resetListed]
  with_reducible repeat' (first
    | assumption | dsimp only | apply State.finishBare_kept | apply State.refuseOwn_kept | apply State.readFor_kept
    | apply State.swapIn_kept | apply hf | simp only [kept_mk] | refine keptMk_of ?_ rfl rfl rfl | refine kept_ite ?_ ?_ | split | intro _)

theorem execResetReels_kept {i0 : State} (seq : Word) (s : State) (hs : Kept i0 s) :
    KeptO i0 (execResetReels seq s) := by
  rw [execResetReels]
  with_reducible repeat' (first
    | assumption | dsimp only | apply State.resetListed_kept | apply State.refuseOwn_kept | apply State.withVector_kept
    | apply State.setReel_kept | apply State.finish_kept | apply keptO_next | simp only [kept_mk] | refine keptMk_of ?_ rfl rfl rfl
    | refine foldl_kept ?_ _ ?_ | refine keptO_ite ?_ ?_ | split | intro _)

theorem execResetReelsRelease_kept {i0 : State} (seq : Word) (s : State) (hs : Kept i0 s) :
    KeptO i0 (execResetReelsRelease seq s) := by
  rw [execResetReelsRelease]
  with_reducible repeat' (first
    | assumption | dsimp only | apply State.resetListed_kept | apply State.dropSoft_kept | apply State.finish_kept | apply keptO_next
    | simp only [kept_mk] | refine keptMk_of ?_ rfl rfl rfl | refine foldl_kept ?_ _ ?_ | split | intro _)

end Sys2Proof.Machine
end

