-- ==== Sys2Proof/Laws/KeptRun.lean ====
section
/-! SUPPORT. Kept by DMA, staging, runs and the array's products: the queue and the form of the memories. -/

namespace Sys2Proof.Machine

theorem State.setMail_kept {i0 : State} (s : State) (m : Nat) (v : MailSlot) (hs : Kept i0 s) :
    Kept i0 (State.setMail s m v) := by
  rw [State.setMail]
  with_reducible repeat' (first
    | assumption | dsimp only | simp only [kept_mk] | refine keptMk_of ?_ rfl rfl rfl)

theorem State.mailRead_kept {i0 : State} (s : State) (m : Nat) (hs : Kept i0 s) :
    Kept i0 (State.mailRead s m).2 := by
  rw [State.mailRead]
  with_reducible repeat' (first
    | assumption | dsimp only | apply State.bump_kept | apply State.setMail_kept | simp only [kept_mk] | refine keptMk_of ?_ rfl rfl rfl
    | split | intro _)

theorem State.flushMail_kept {i0 : State} (s : State) (m : Nat) (hs : Kept i0 s) :
    Kept i0 (State.flushMail s m) := by
  rw [State.flushMail]
  with_reducible repeat' (first
    | assumption | dsimp only | apply State.setMail_kept)

theorem State.setEdge_kept {i0 : State} (s : State) (n : Nat) (v : Edge) (hs : Kept i0 s) :
    Kept i0 (State.setEdge s n v) := by
  rw [State.setEdge]
  with_reducible repeat' (first
    | assumption | dsimp only | simp only [kept_mk] | refine keptMk_of ?_ rfl rfl rfl)

theorem State.feedWord_kept {i0 : State} (s : State) (m : Nat) (j : StreamJob) (hs : Kept i0 s) :
    Kept i0 (State.feedWord s m j) := by
  rw [State.feedWord]
  with_reducible repeat' (first
    | assumption | dsimp only | apply State.bump_kept | apply State.setMail_kept | apply State.setEdge_kept | simp only [kept_mk]
    | refine keptMk_of ?_ rfl rfl rfl | refine kept_ite ?_ ?_ | split)

theorem execMailSlotWrite_kept {i0 : State} (m : MailIx) (data : List Byte) (fin : Bool) (s : State) (hs : Kept i0 s) :
    KeptO i0 (execMailSlotWrite m data fin s) := by
  rw [execMailSlotWrite]
  with_reducible repeat' (first
    | assumption | dsimp only | apply State.feedWord_kept | apply State.setMail_kept | apply keptO_next | simp only [kept_mk]
    | refine keptMk_of ?_ rfl rfl rfl | refine keptO_ite ?_ ?_ | split | intro _)

theorem execMailSlotRead_kept {i0 : State} (m : MailIx) (s : State) (hs : Kept i0 s) :
    KeptO i0 (execMailSlotRead m s) := by
  rw [execMailSlotRead]
  with_reducible repeat' (first
    | assumption | dsimp only | apply State.mailRead_kept | apply State.send_kept | refine kept_snd ?_ (by assumption)
    | refine kept_fst ?_ (by assumption) | apply keptO_next | simp only [kept_mk] | refine keptMk_of ?_ rfl rfl rfl | split | intro _)

theorem execMailSlotIdle_kept {i0 : State} (m : MailIx) (s : State) (hs : Kept i0 s) :
    KeptO i0 (execMailSlotIdle m s) := by
  rw [execMailSlotIdle]
  with_reducible repeat' (first
    | assumption | dsimp only | apply State.setMail_kept | apply State.bump_kept | apply keptO_next | simp only [kept_mk]
    | refine keptMk_of ?_ rfl rfl rfl | refine keptO_ite ?_ ?_ | split | intro _)

theorem execMailSlotFlush_kept {i0 : State} (m : MailIx) (s : State) (hs : Kept i0 s) :
    KeptO i0 (execMailSlotFlush m s) := by
  rw [execMailSlotFlush]
  with_reducible repeat' (first
    | assumption | dsimp only | apply State.flushMail_kept | apply State.barDropped_kept | apply keptO_next | refine keptO_ite ?_ ?_ | split
    | intro _)

theorem State.dmaEnd_kept {i0 : State} (s : State) (d : DmaDesc) (st : Status) (hs : Kept i0 s) :
    Kept i0 (State.dmaEnd s d st) := by
  rw [State.dmaEnd]
  with_reducible repeat' (first
    | assumption | dsimp only | apply State.finish_kept | apply State.endCmd_kept | simp only [kept_mk] | refine keptMk_of ?_ rfl rfl rfl
    | split)

theorem State.dmaFault_kept {i0 : State} (s : State) (e : Nat) (d : DmaDesc) (va : Nat) (hs : Kept i0 s) :
    Kept i0 (State.dmaFault s e d va) := by
  rw [State.dmaFault]
  with_reducible repeat' (first
    | assumption | dsimp only | apply State.useFault_kept | apply State.report_kept | apply State.dmaEnd_kept | refine kept_ite ?_ ?_
    | split)

theorem State.dmaToMail_kept {i0 : State} (s : State) (d d' : DmaDesc) (bs : List Byte) (hs : Kept i0 s) :
    Kept i0 (State.dmaToMail s d d' bs) := by
  rw [State.dmaToMail]
  with_reducible repeat' (first
    | assumption | dsimp only | apply State.setMail_kept | refine kept_ite ?_ ?_ | split)

theorem State.setDesc_kept {i0 : State} (s : State) (e c j : Nat) (d : DmaDesc) (hs : Kept i0 s) :
    Kept i0 (State.setDesc s e c j d) := by
  rw [State.setDesc]
  with_reducible repeat' (first
    | assumption | dsimp only | apply State.setEng_kept | simp only [kept_mk] | refine keptMk_of ?_ rfl rfl rfl | intro _)

theorem State.relayTo_kept {i0 : State} (s : State) (e c : Nat) (d : DmaDesc) (bs : List Byte) (hs : Kept i0 s) :
    Kept i0 (State.relayTo s e c d bs) := by
  rw [State.relayTo]
  with_reducible repeat' (first
    | assumption | dsimp only | apply State.setEng_kept | simp only [kept_mk] | refine keptMk_of ?_ rfl rfl rfl | refine kept_ite ?_ ?_
    | split | intro _)

theorem State.passOn_kept {i0 : State} (s : State) (d d' : DmaDesc) (bs : List Byte) (hs : Kept i0 s) :
    Kept i0 (State.passOn s d d' bs) := by
  rw [State.passOn]
  with_reducible repeat' (first
    | assumption | dsimp only | apply State.relayTo_kept | apply State.dmaToMail_kept | simp only [kept_mk]
    | refine keptMk_of ?_ rfl rfl rfl | split)

theorem State.deliver_kept {i0 : State} (s : State) (e c j : Nat) (d d' : DmaDesc) (bs : List Byte) (poison : Option Nat) (hs : Kept i0 s) :
    Kept i0 (State.deliver s e c j d d' bs poison) := by
  unfold State.deliver
  with_reducible repeat' (first
    | assumption | dsimp only | apply State.report_kept | apply State.dmaEnd_kept | apply State.passOn_kept | apply State.setDesc_kept
    | apply State.carryVA_kept | apply State.writeVA_kept | apply State.dmaFault_kept | apply State.noteUse_kept
    | refine KeptOpt.get ?_ (by assumption) | exact keptOpt_none _ | apply KeptOpt.getD | simp only [kept_mk]
    | refine keptMk_of ?_ rfl rfl rfl | refine kept_ite ?_ ?_ | split)

theorem State.burstCopy_kept {i0 : State} (s : State) (e c j : Nat) (d : DmaDesc) (hs : Kept i0 s) :
    Kept i0 (State.burstCopy s e c j d) := by
  rw [State.burstCopy]
  with_reducible repeat' (first
    | assumption | dsimp only | apply State.carryVA_kept | apply State.touchVA_kept | apply State.usePeers_kept | apply State.deliver_kept
    | apply State.dmaFault_kept | simp only [kept_mk] | refine keptMk_of ?_ rfl rfl rfl | refine kept_ite ?_ ?_ | split | intro _)

theorem State.burstRelayed_kept {i0 : State} (s : State) (e c j : Nat) (d : DmaDesc) (hs : Kept i0 s) :
    Kept i0 (State.burstRelayed s e c j d) := by
  rw [State.burstRelayed]
  with_reducible repeat' (first
    | assumption | dsimp only | apply State.deliver_kept | simp only [kept_mk] | refine keptMk_of ?_ rfl rfl rfl)

theorem State.burstMail_kept {i0 : State} (s : State) (e c j : Nat) (d : DmaDesc) (hs : Kept i0 s) :
    Kept i0 (State.burstMail s e c j d) := by
  rw [State.burstMail]
  with_reducible repeat' (first
    | assumption | dsimp only | apply State.mailRead_kept | apply State.deliver_kept | refine kept_snd ?_ (by assumption)
    | refine kept_fst ?_ (by assumption) | simp only [kept_mk] | refine keptMk_of ?_ rfl rfl rfl | refine kept_ite ?_ ?_ | split)

theorem State.burstZero_kept {i0 : State} (s : State) (e c j : Nat) (d : DmaDesc) (hs : Kept i0 s) :
    Kept i0 (State.burstZero s e c j d) := by
  rw [State.burstZero]
  with_reducible repeat' (first
    | assumption | dsimp only | apply State.bump_kept | apply State.deliver_kept | simp only [kept_mk] | refine keptMk_of ?_ rfl rfl rfl
    | refine kept_ite ?_ ?_ | split)

theorem State.burst_kept {i0 : State} (s : State) (e c j : Nat) (d : DmaDesc) (hs : Kept i0 s) :
    Kept i0 (State.burst s e c j d) := by
  rw [State.burst]
  with_reducible repeat' (first
    | assumption | dsimp only | apply State.bump_kept | apply State.burstRelayed_kept | apply State.burstMail_kept
    | apply State.burstCopy_kept | apply State.burstZero_kept | refine kept_ite ?_ ?_ | split)

theorem execDmaBurstGrant_kept {i0 : State} (e : EngineIx) (s : State) (hs : Kept i0 s) :
    KeptO i0 (execDmaBurstGrant e s) := by
  rw [execDmaBurstGrant]
  with_reducible repeat' (first
    | assumption | dsimp only | apply State.dmaEnd_kept | apply State.askPeers_kept | apply State.setEng_kept | apply State.bump_kept
    | apply State.perturb_kept | apply State.burst_kept | refine kept_snd ?_ (by assumption) | refine kept_fst ?_ (by assumption)
    | apply keptO_next | simp only [kept_mk] | refine keptMk_of ?_ rfl rfl rfl | refine keptO_ite ?_ ?_ | split | intro _)

theorem execRequestLineAssert_kept {i0 : State} (e : EngineIx) (line : Byte) (s : State) (hs : Kept i0 s) :
    KeptO i0 (execRequestLineAssert e line s) := by
  rw [execRequestLineAssert]
  with_reducible repeat' (first
    | assumption | dsimp only | apply State.setEng_kept | apply keptO_next | simp only [kept_mk] | refine keptMk_of ?_ rfl rfl rfl
    | refine keptO_ite ?_ ?_ | split | intro _)

theorem State.dmaDone_kept {i0 : State} (s : State) (e c : Nat) (d : DmaDesc) (hs : Kept i0 s) :
    Kept i0 (State.dmaDone s e c d) := by
  rw [State.dmaDone]
  with_reducible repeat' (first
    | assumption | dsimp only | apply State.setEng_kept | apply State.finish_kept | apply State.dmaRecord_kept | apply State.slateAsk_kept
    | apply State.endCmd_kept | refine kept_snd ?_ (by assumption) | refine kept_fst ?_ (by assumption) | simp only [kept_mk]
    | refine keptMk_of ?_ rfl rfl rfl | refine kept_ite ?_ ?_ | split | intro _)

theorem execDmaDescriptorComplete_kept {i0 : State} (e : EngineIx) (c : Fin 32) (s : State) (hs : Kept i0 s) :
    KeptO i0 (execDmaDescriptorComplete e c s) := by
  rw [execDmaDescriptorComplete]
  with_reducible repeat' (first
    | assumption | dsimp only | apply State.writeVA_kept | apply State.dmaFault_kept | apply State.dmaDone_kept | apply State.report_kept
    | apply State.dmaEnd_kept | apply State.bump_kept | refine KeptOpt.get ?_ (by assumption) | exact keptOpt_none _ | apply KeptOpt.getD
    | apply keptO_next | simp only [kept_mk] | refine keptMk_of ?_ rfl rfl rfl | refine keptO_ite ?_ ?_ | split | intro _)

theorem State.dmaCons_kept {i0 : State} (s : State) (e : Nat) (v : Half) (hs : Kept i0 s) :
    Kept i0 (State.dmaCons s e v) := by
  rw [State.dmaCons]
  with_reducible repeat' (first
    | assumption | dsimp only | apply State.setEng_kept | simp only [kept_mk] | refine keptMk_of ?_ rfl rfl rfl | refine kept_ite ?_ ?_
    | split)

theorem execDmaCqConsWrite_kept {i0 : State} (e : EngineIx) (value : Word) (s : State) (hs : Kept i0 s) :
    KeptO i0 (execDmaCqConsWrite e value s) := by
  rw [execDmaCqConsWrite]
  with_reducible repeat' (first
    | assumption | dsimp only | apply State.dmaCons_kept | apply State.barDropped_kept | apply keptO_next | refine keptO_ite ?_ ?_ | split
    | intro _)

theorem State.queueDesc_kept {i0 : State} (s : State) (e c : Nat) (d : DmaDesc) (hs : Kept i0 s) :
    Kept i0 (State.queueDesc s e c d) := by
  rw [State.queueDesc]
  with_reducible repeat' (first
    | assumption | dsimp only | apply State.setEng_kept | simp only [kept_mk] | refine keptMk_of ?_ rfl rfl rfl | intro _)

theorem State.startCopy_kept {i0 : State} (s : State) (seq : Word) (ch : Nat) (d : DmaDesc) (hs : Kept i0 s) :
    Kept i0 (State.startCopy s seq ch d) := by
  rw [State.startCopy]
  with_reducible repeat' (first
    | assumption | dsimp only | apply State.finishBare_kept | apply State.updCmd_kept | apply State.queueDesc_kept | simp only [kept_mk]
    | refine keptMk_of ?_ rfl rfl rfl | split | intro _)

theorem State.dmaCopy_kept {i0 : State} (s : State) (seq : Word) (c : Cmd) (ch : Nat) (hs : Kept i0 s) :
    Kept i0 (State.dmaCopy s seq c ch) := by
  rw [State.dmaCopy]
  with_reducible repeat' (first
    | assumption | dsimp only | apply State.finishBare_kept | apply State.refuseOwn_kept | apply State.startCopy_kept | simp only [kept_mk]
    | refine keptMk_of ?_ rfl rfl rfl | refine kept_ite ?_ ?_ | split)

theorem State.dmaCopyDesc_kept {i0 : State} (s : State) (seq : Word) (c : Cmd) (ch : Nat) (hs : Kept i0 s) :
    Kept i0 (State.dmaCopyDesc s seq c ch) := by
  rw [State.dmaCopyDesc]
  with_reducible repeat' (first
    | assumption | dsimp only | apply State.refuseOwn_kept | apply State.readFor_kept | apply State.finishBare_kept
    | apply State.startCopy_kept | simp only [kept_mk] | refine keptMk_of ?_ rfl rfl rfl | refine kept_ite ?_ ?_ | split | intro _)

theorem State.copyTurn_kept {i0 : State} (s : State) (seq : Word) (desc : Bool) (hs : Kept i0 s) :
    Kept i0 (State.copyTurn s seq desc) := by
  rw [State.copyTurn]
  with_reducible repeat' (first
    | assumption | dsimp only | apply State.dmaCopyDesc_kept | apply State.dmaCopy_kept | simp only [kept_mk]
    | refine keptMk_of ?_ rfl rfl rfl | refine kept_ite ?_ ?_ | split)

theorem execDmaCopy_kept {i0 : State} (seq : Word) (s : State) (hs : Kept i0 s) :
    KeptO i0 (execDmaCopy seq s) := by
  rw [execDmaCopy]
  with_reducible repeat' (first
    | assumption | dsimp only | apply State.copyTurn_kept | apply keptO_next | intro _)

theorem execDmaCopyDesc_kept {i0 : State} (seq : Word) (s : State) (hs : Kept i0 s) :
    KeptO i0 (execDmaCopyDesc seq s) := by
  rw [execDmaCopyDesc]
  with_reducible repeat' (first
    | assumption | dsimp only | apply State.copyTurn_kept | apply keptO_next | intro _)

theorem State.stageOn_kept {i0 : State} (s : State) (k : Kern) (ix : Nat) (r : PfRun) (w : Nat) (hs : Kept i0 s) :
    Kept i0 (State.stageOn s k ix r w) := by
  rw [State.stageOn]
  with_reducible repeat' (first
    | assumption | dsimp only | apply State.queueDesc_kept | simp only [kept_mk] | refine keptMk_of ?_ rfl rfl rfl | refine kept_ite ?_ ?_
    | split)

theorem State.stagePref_kept {i0 : State} (s : State) (k : Kern) (ix : Nat) (r : PfRun) (hs : Kept i0 s) :
    Kept i0 (State.stagePref s k ix r) := by
  rw [State.stagePref]
  with_reducible repeat' (first
    | assumption | dsimp only | apply State.stageOn_kept | refine foldl_kept ?_ _ ?_ | refine kept_ite ?_ ?_ | split | intro _)

theorem State.unstage_kept {i0 : State} (s : State) (seq : Word) (ix : Nat) (hs : Kept i0 s) :
    Kept i0 (State.unstage s seq ix) := by
  rw [State.unstage]
  with_reducible repeat' (first
    | assumption | dsimp only | simp only [kept_mk] | refine keptMk_of ?_ rfl rfl rfl | intro _)

theorem State.landEntry_kept {i0 : State} (s : State) (ix : Nat) (r : PfRun) (k : Kern) (hs : Kept i0 s) :
    Kept i0 (State.landEntry s ix r k) := by
  rw [State.landEntry]
  with_reducible repeat' (first
    | assumption | dsimp only | apply State.readFor_kept | apply State.carryVA_kept | apply State.bump_kept | apply State.storeVA_kept
    | apply State.unstage_kept | refine foldl_kept ?_ _ ?_ | refine kept_ite ?_ ?_ | split | intro _)

theorem State.refuse_kept {i0 : State} (s : State) (seq : Word) (y0 : Refused) (hs : Kept i0 s) :
    Kept i0 (State.refuse s seq y0) := by
  unfold State.refuse
  with_reducible repeat' (first
    | assumption | dsimp only | apply State.endCmd_kept | apply State.refuseOwn_kept | split)

theorem State.meetTiles_kept {i0 : State} (s : State) (seq : Word) (w : Nat) (g : TileGrid) (l : List Nat) (hs : Kept i0 s) :
    Kept i0 (State.meetTiles s seq w g l) := by
  rw [State.meetTiles]
  with_reducible repeat' (first
    | assumption | dsimp only | apply State.bump_kept | apply State.draw_kept | apply State.updCmd_kept | simp only [kept_mk]
    | refine keptMk_of ?_ rfl rfl rfl | refine kept_ite ?_ ?_ | split | intro _)

theorem State.countTiles_kept {i0 : State} (s : State) (k : Kern) (hs : Kept i0 s) :
    Kept i0 (State.countTiles s k) := by
  rw [State.countTiles]
  with_reducible repeat' (first
    | assumption | dsimp only | apply State.meetTiles_kept | refine keptOpt_bind ?_ _ | simp only [kept_mk]
    | refine keptMk_of ?_ rfl rfl rfl | refine foldl_kept ?_ _ ?_ | refine kept_ite ?_ ?_ | split | intro _)

theorem State.zeroRings_kept {i0 : State} (s : State) (c : Cmd) (hs : Kept i0 s) :
    Kept i0 (State.zeroRings s c) := by
  rw [State.zeroRings]
  with_reducible repeat' (first
    | assumption | dsimp only | apply State.putSlate_kept | simp only [kept_mk] | refine keptMk_of ?_ rfl rfl rfl
    | refine foldl_kept ?_ _ ?_ | split | intro _)

theorem State.bindTiles_kept {i0 : State} (s : State) (seq : Word) (l : List (Nat × TileCtr)) (hs : Kept i0 s) :
    Kept i0 (State.bindTiles s seq l) := by
  rw [State.bindTiles]
  with_reducible repeat' (first
    | assumption | dsimp only | apply State.putSlate_kept | simp only [kept_mk] | refine keptMk_of ?_ rfl rfl rfl
    | refine foldl_kept ?_ _ ?_ | intro _)

theorem State.beginPiece_kept {i0 : State} (s : State) (seq : Word) (i : Nat) (hs : Kept i0 s) :
    Kept i0 (State.beginPiece s seq i) := by
  rw [State.beginPiece]
  with_reducible repeat' (first
    | assumption | dsimp only | apply State.updCmd_kept | apply State.bindTiles_kept | apply State.zeroRings_kept
    | apply State.writeFor_kept | refine keptOpt_bind ?_ _ | simp only [kept_mk] | refine keptMk_of ?_ rfl rfl rfl | split | intro _)

theorem State.pfReels_kept {i0 : State} (s : State) (seq : Word) (k : Kern) (hs : Kept i0 s) :
    Kept i0 (State.pfReels s seq k) := by
  rw [State.pfReels]
  with_reducible repeat' (first
    | assumption | dsimp only | apply State.readFor_kept | apply State.drawReel_kept | refine keptOpt_bind ?_ _ | simp only [kept_mk]
    | refine keptMk_of ?_ rfl rfl rfl | simp only [id_eq] | refine foldl_kept ?_ _ ?_ | split | intro _)

theorem State.restage_kept {i0 : State} (s : State) (k : Kern) (c : Cmd) (hs : Kept i0 s) :
    Kept i0 (State.restage s k c) := by
  rw [State.restage]
  with_reducible repeat' (first
    | assumption | dsimp only | apply State.stagePref_kept | refine foldl_kept ?_ _ ?_ | refine kept_ite ?_ ?_ | split | intro _)

theorem State.issueStage_kept {i0 : State} (s : State) (seq : Word) (k : Kern) (stage : Nat) (hs : Kept i0 s) :
    Kept i0 (State.issueStage s seq k stage) := by
  rw [State.issueStage]
  with_reducible repeat' (first
    | assumption | dsimp only | apply State.restage_kept | apply State.useFault_kept | apply State.bump_kept | apply State.updCmd_kept
    | apply State.askPeers_kept | apply State.stagePref_kept | apply State.pfReels_kept | exact keptOpt_none _ | apply keptOpt_some
    | apply keptOpt_some | exact keptOpt_none _ | simp only [kept_mk] | refine keptMk_of ?_ rfl rfl rfl | refine foldl_kept ?_ _ ?_
    | refine kept_ite ?_ ?_ | split | intro _)

theorem State.giveRows_kept {i0 : State} (s : State) (c : Cmd) (k : Kern) (hs : Kept i0 s) :
    Kept i0 (State.giveRows s c k) := by
  rw [State.giveRows]
  with_reducible repeat' (first
    | assumption | dsimp only | apply State.updCore_kept | simp only [kept_mk] | refine keptMk_of ?_ rfl rfl rfl | refine foldl_kept ?_ _ ?_
    | intro _)

theorem State.compact_kept {i0 : State} (s : State) (seq : Word) (layer : Nat) (hs : Kept i0 s) :
    Kept i0 (State.compact s seq layer) := by
  rw [State.compact]
  with_reducible repeat' (first
    | assumption | dsimp only | apply State.updCmd_kept | apply State.writeFor_kept | refine keptOpt_bind ?_ _ | simp only [kept_mk]
    | refine keptMk_of ?_ rfl rfl rfl | refine foldl_kept ?_ _ ?_ | refine kept_ite ?_ ?_ | split | intro _)

theorem State.dispatchStage_kept {i0 : State} (s : State) (k : Kern) (hs : Kept i0 s) :
    Kept i0 (State.dispatchStage s k) := by
  rw [State.dispatchStage]
  with_reducible repeat' (first
    | assumption | dsimp only | apply State.updCmd_kept | apply State.setKern_kept | apply State.compact_kept | simp only [kept_mk]
    | refine keptMk_of ?_ rfl rfl rfl | refine kept_ite ?_ ?_ | split | intro _)

theorem State.reachStage_kept {i0 : State} (s : State) (seq : Word) (layer stage : Nat) (hs : Kept i0 s) :
    Kept i0 (State.reachStage s seq layer stage) := by
  rw [State.reachStage]
  with_reducible repeat' (first
    | assumption | dsimp only | apply State.setKern_kept | apply State.issueStage_kept | apply State.dispatchStage_kept
    | exact keptOpt_none _ | apply keptOpt_some | apply keptOpt_some | exact keptOpt_none _ | simp only [kept_mk]
    | refine keptMk_of ?_ rfl rfl rfl | split)

theorem execStageDispatch_kept {i0 : State} (seq : Word) (stage : Half) (s : State) (hs : Kept i0 s) :
    KeptO i0 (execStageDispatch seq stage s) := by
  rw [execStageDispatch]
  with_reducible repeat' (first
    | assumption | dsimp only | apply State.dispatchStage_kept | apply State.reachStage_kept | apply keptO_next | simp only [kept_mk]
    | refine keptMk_of ?_ rfl rfl rfl | refine keptO_ite ?_ ?_ | split | intro _)

theorem State.setPref_kept {i0 : State} (s : State) (seq : Word) (ix : Nat) (f : PfRun → PfRun) (hs : Kept i0 s) :
    Kept i0 (State.setPref s seq ix f) := by
  rw [State.setPref]
  with_reducible repeat' (first
    | assumption | dsimp only | apply State.updCmd_kept | apply hf | simp only [kept_mk] | refine keptMk_of ?_ rfl rfl rfl
    | refine kept_ite ?_ ?_ | split | intro _)

theorem execPrefetchEntryComplete_kept {i0 : State} (seq : Word) (ix : Half) (s : State) (hs : Kept i0 s) :
    KeptO i0 (execPrefetchEntryComplete seq ix s) := by
  rw [execPrefetchEntryComplete]
  with_reducible repeat' (first
    | assumption | dsimp only | apply State.askPeers_kept | apply State.setPref_kept | apply State.landEntry_kept | refine keptOpt_bind ?_ _
    | apply keptO_next | simp only [kept_mk] | refine keptMk_of ?_ rfl rfl rfl | refine keptO_ite ?_ ?_ | split | intro _)

theorem State.takePath_kept {i0 : State} (s : State) (seq : Word) (ix landed : Nat) (r : PfRun) (hs : Kept i0 s) :
    Kept i0 (State.takePath s seq ix landed r) := by
  rw [State.takePath]
  with_reducible repeat' (first
    | assumption | dsimp only | apply State.setPref_kept | apply State.bump_kept | apply State.updCmd_kept | apply State.unstage_kept
    | apply State.stagePref_kept | apply State.setFlag_kept | apply State.setTake_kept | apply State.preempt_kept | refine keptOpt_bind ?_ _
    | apply keptOpt_some | exact keptOpt_none _ | simp only [kept_mk] | refine keptMk_of ?_ rfl rfl rfl | refine keptMk_wf ?_ ?_ ?_ ?_
    | apply Mem.writeN_wf | apply Mem.clearN_wf | apply Mem.filter_wf | apply foldl_write_wf | refine kept_ite ?_ ?_ | split | intro _)

theorem execPrefetchDecisionPoint_kept {i0 : State} (seq : Word) (ix : Half) (landed : Word) (s : State) (hs : Kept i0 s) :
    KeptO i0 (execPrefetchDecisionPoint seq ix landed s) := by
  rw [execPrefetchDecisionPoint]
  with_reducible repeat' (first
    | assumption | dsimp only | apply State.perturb_kept | apply State.takePath_kept | refine kept_snd ?_ (by assumption)
    | refine kept_fst ?_ (by assumption) | refine keptOpt_bind ?_ _ | apply keptO_next | simp only [kept_mk]
    | refine keptMk_of ?_ rfl rfl rfl | refine keptO_ite ?_ ?_ | split | intro _)

theorem State.countNum_kept {i0 : State} (s : State) (w : Nat) (c : NumCnt) (hs : Kept i0 s) :
    Kept i0 (State.countNum s w c) := by
  rw [State.countNum]
  with_reducible repeat' (first
    | assumption | dsimp only | apply State.bump_kept)

theorem State.selfWrite_kept {i0 : State} (s : State) (k : Kern) (w va : Nat) (bs : List Byte) (hs : Kept i0 s) :
    Kept i0 (State.selfWrite s k w va bs) := by
  rw [State.selfWrite]
  with_reducible repeat' (first
    | assumption | dsimp only | apply State.storeVA_kept)

theorem State.coreFault_kept {i0 : State} (s : State) (w : Nat) (k : Kern) (detail : Nat) (hs : Kept i0 s) :
    Kept i0 (State.coreFault s w k detail) := by
  rw [State.coreFault]
  with_reducible repeat' (first
    | assumption | dsimp only | apply State.programFault_kept)

theorem State.fillTiles_kept {i0 : State} (s : State) (w : Nat) (j : Job) (q : ArrPass) (hs : Kept i0 s) :
    Kept i0 (State.fillTiles s w j q).2 := by
  rw [State.fillTiles]
  with_reducible repeat' (first
    | assumption | dsimp only | apply State.countNum_kept | refine foldl_kept ?_ _ ?_ | refine foldl_kept_snd ?_ _ ?_
    | refine foldl_kept_fst ?_ _ ?_ | split | intro _)

theorem State.loadLive_kept {i0 : State} (s : State) (w : Nat) (j : Job) (q : ArrPass) (rest : List ArrPass) (row : Nat) (hs : Kept i0 s) :
    Kept i0 (State.loadLive s w j q rest row) := by
  rw [State.loadLive]
  with_reducible repeat' (first
    | assumption | dsimp only | apply State.fillTiles_kept | apply State.updCore_kept | refine kept_snd ?_ (by assumption)
    | refine kept_fst ?_ (by assumption) | simp only [kept_mk] | refine keptMk_of ?_ rfl rfl rfl | refine kept_ite ?_ ?_ | split | intro _)

theorem State.drainRow_kept {i0 : State} (s : State) (k : Kern) (w : Nat) (j : Job) (q : ArrPass) (p row : Nat) (l : List ColSum) (hs : Kept i0 s) :
    Kept i0 (State.drainRow s k w j q p row l) := by
  rw [State.drainRow]
  with_reducible repeat' (first
    | assumption | dsimp only | apply State.selfWrite_kept | apply State.countNum_kept | intro _)

theorem State.addReel_kept {i0 : State} (s : State) (k : Kern) (int : Bool) (key first : Nat) (l : List ColSum) (hs : Kept i0 s) :
    Kept i0 (State.addReel s k int key first l) := by
  rw [State.addReel]
  with_reducible repeat' (first
    | assumption | dsimp only | apply State.setChunk_kept | apply keptOpt_some | exact keptOpt_none _ | simp only [kept_mk]
    | refine keptMk_of ?_ rfl rfl rfl | refine kept_ite ?_ ?_ | split | intro _)

theorem State.streamOne_kept {i0 : State} (s : State) (k : Kern) (w : Nat) (j : Job) (q : ArrPass) (row : Nat) (a : ArrayRun) (hp : Nat × Nat) (hs : Kept i0 s) :
    Kept i0 (State.streamOne s k w j q row a hp).1 := by
  rw [State.streamOne]
  with_reducible repeat' (first
    | assumption | dsimp only | apply State.countNum_kept | apply State.addReel_kept | apply State.drainRow_kept | apply State.updCore_kept
    | simp only [kept_mk] | refine keptMk_of ?_ rfl rfl rfl | refine foldl_kept ?_ _ ?_ | refine foldl_kept_snd ?_ _ ?_
    | refine foldl_kept_fst ?_ _ ?_ | split | intro _)

theorem State.streamRow_kept {i0 : State} (s : State) (k : Kern) (w : Nat) (j : Job) (q : ArrPass) (row : Nat) (a : ArrayRun) (hs : Kept i0 s) :
    Kept i0 (State.streamRow s k w j q row a).1 := by
  rw [State.streamRow]
  with_reducible repeat' (first
    | assumption | dsimp only | apply State.drainRow_kept | apply State.streamOne_kept | refine foldl_kept ?_ _ ?_
    | refine foldl_kept_snd ?_ _ ?_ | refine foldl_kept_fst ?_ _ ?_ | split | intro _)

theorem State.countRows_kept {i0 : State} (s : State) (w : Nat) (c : Nat × Nat) (hs : Kept i0 s) :
    Kept i0 (State.countRows s w c) := by
  rw [State.countRows]
  with_reducible repeat' (first
    | assumption | dsimp only | apply State.bump_kept)

theorem State.countPass_kept {i0 : State} (s : State) (w : Nat) (q : ArrPass) (conv : Bool) (hs : Kept i0 s) :
    Kept i0 (State.countPass s w q conv) := by
  rw [State.countPass]
  with_reducible repeat' (first
    | assumption | dsimp only | apply State.bump_kept | refine kept_ite ?_ ?_ | split)

theorem State.runRows_kept {i0 : State} (s : State) (k : Kern) (w : Nat) (j : Job) (conv : Bool) (y0 : List ArrPass) (y1 : Nat) (y2 : ArrayRun) (hs : Kept i0 s) :
    Kept i0 (State.runRows s k w j conv y0 y1 y2).1 := by
  induction y0 generalizing s k w j conv y1 y2 with
  | nil =>
    simp only [State.runRows]
    first | exact hs | exact keptOpt_some hs | exact keptP_some hs | exact keptE_ok hs | trivial
  | cons x r ih =>
    rw [State.runRows]
    with_reducible repeat' (first
      | assumption | apply ih | dsimp only | apply State.countPass_kept | apply State.loadLive_kept | apply State.streamRow_kept
      | apply State.countRows_kept | simp only [kept_mk] | refine keptMk_of ?_ rfl rfl rfl | refine foldl_kept ?_ _ ?_
      | refine foldl_kept_snd ?_ _ ?_ | refine foldl_kept_fst ?_ _ ?_ | split | intro _)

theorem State.ringWrite_kept {i0 : State} (s : State) (ring n slot prod : Nat) (bs : List Byte) (hs : Kept i0 s) :
    KeptOpt i0 (State.ringWrite s ring n slot prod bs) := by
  rw [State.ringWrite]
  with_reducible repeat' (first
    | assumption | dsimp only | apply State.writeVA_kept | refine KeptOpt.get ?_ (by assumption) | exact keptOpt_none _ | apply keptOpt_some
    | exact keptOpt_none _ | simp only [kept_mk] | refine keptMk_of ?_ rfl rfl rfl | split | intro _)

theorem State.setCtx_kept {i0 : State} (s : State) (c : Nat) (x : StreamCtx) (hs : Kept i0 s) :
    Kept i0 (State.setCtx s c x) := by
  rw [State.setCtx]
  with_reducible repeat' (first
    | assumption | dsimp only | simp only [kept_mk] | refine keptMk_of ?_ rfl rfl rfl)

theorem State.writeMap_kept {i0 : State} (s : State) (c : Nat) (bs : List Byte) (hs : Kept i0 s) :
    Kept i0 (State.writeMap s c bs) := by
  rw [State.writeMap]
  with_reducible repeat' (first
    | assumption | dsimp only | apply State.setCtx_kept | apply State.ringWrite_kept | refine KeptOpt.get ?_ (by assumption)
    | exact keptOpt_none _ | simp only [kept_mk] | refine keptMk_of ?_ rfl rfl rfl | refine kept_ite ?_ ?_ | split)

theorem State.gateFrame_kept {i0 : State} (s : State) (seq : Word) (c frame patch : Nat) (g : GateIn) (hs : Kept i0 s) :
    Kept i0 (State.gateFrame s seq c frame patch g) := by
  rw [State.gateFrame]
  with_reducible repeat' (first
    | assumption | dsimp only | apply State.bump_kept | apply State.updCmd_kept | apply State.setFlag_kept | apply State.setCtx_kept
    | apply State.writeMap_kept | simp only [kept_mk] | refine keptMk_of ?_ rfl rfl rfl | refine kept_ite ?_ ?_ | split | intro _)

theorem State.errorEntry_kept {i0 : State} (s : State) (c frame : Nat) (d : Damage) (hs : Kept i0 s) :
    Kept i0 (State.errorEntry s c frame d) := by
  rw [State.errorEntry]
  with_reducible repeat' (first
    | assumption | dsimp only | apply State.setCtx_kept | apply State.ringWrite_kept | refine KeptOpt.get ?_ (by assumption)
    | exact keptOpt_none _ | simp only [kept_mk] | refine keptMk_of ?_ rfl rfl rfl | refine kept_ite ?_ ?_ | split)

theorem State.askBits_kept {i0 : State} (s : State) (x : StreamCtx) (pos n : Nat) (hs : Kept i0 s) :
    Kept i0 (State.askBits s x pos n) := by
  rw [State.askBits]
  with_reducible repeat' (first
    | assumption | dsimp only | apply State.askPeers_kept | refine foldl_kept ?_ _ ?_ | intro _)

theorem State.countBits_kept {i0 : State} (s : State) (n : Nat) (hs : Kept i0 s) :
    Kept i0 (State.countBits s n) := by
  rw [State.countBits]
  with_reducible repeat' (first
    | assumption | dsimp only | apply State.bump_kept)

end Sys2Proof.Machine
end

