-- ==== Sys2Proof/Laws/KeptUnits.lean ====
section
/-! SUPPORT. Kept by video, the edge engines, the array queue and advances: the queue and the form of the memories. -/

namespace Sys2Proof.Machine

theorem State.setRun_kept {i0 : State} (s : State) (r : SampleRun) (hs : Kept i0 s) :
    Kept i0 (State.setRun s r) := by
  rw [State.setRun]
  with_reducible repeat' (first
    | assumption | dsimp only | simp only [kept_mk] | refine keptMk_of ?_ rfl rfl rfl | refine kept_ite ?_ ?_ | split | intro _)

theorem State.writeRows_kept {i0 : State} (s : State) (a : Acc) (dst stride : Nat) (y0 : List (List Byte)) (hs : Kept i0 s) :
    Kept i0 (State.writeRows s a dst stride y0).1 := by
  induction y0 generalizing s a dst stride with
  | nil =>
    simp only [State.writeRows]
    first | exact hs | exact keptOpt_some hs | exact keptP_some hs | exact keptE_ok hs | trivial
  | cons x r ih =>
    rw [State.writeRows]
    with_reducible repeat' (first
      | assumption | apply ih | dsimp only | apply State.writeVA_kept | refine KeptOpt.get ?_ (by assumption) | exact keptOpt_none _ | apply KeptOpt.getD
      | simp only [kept_mk] | refine keptMk_of ?_ rfl rfl rfl | split | intro _)

theorem State.writeSample_kept {i0 : State} (s : State) (r : SampleRun) (dst stride : Nat) (rows : List (List Byte)) (k : State → State) (hs : Kept i0 s) (hk : ∀ z0, Kept i0 z0 → Kept i0 (k z0)) :
    Kept i0 (State.writeSample s r dst stride rows k) := by
  rw [State.writeSample]
  with_reducible repeat' (first
    | assumption | dsimp only | apply State.writeRows_kept | apply State.useFault_kept | apply hk | refine kept_snd ?_ (by assumption)
    | refine kept_fst ?_ (by assumption) | simp only [kept_mk] | refine keptMk_of ?_ rfl rfl rfl | split)

theorem State.padSlot_kept {i0 : State} (s : State) (r : SampleRun) (i : Nat) (q : Option SampleReq) (hs : Kept i0 s) :
    Kept i0 (State.padSlot s r i q) := by
  rw [State.padSlot]
  with_reducible repeat' (first
    | assumption | dsimp only | apply State.writeSample_kept | apply State.setRun_kept | apply State.setSlot_kept | refine keptOpt_bind ?_ _
    | simp only [kept_mk] | refine keptMk_of ?_ rfl rfl rfl | refine kept_ite ?_ ?_ | split | intro _)

theorem State.prepare_kept {i0 : State} (s : State) (r : SampleRun) (i : Nat) (q : SampleReq) (how : How) (hs : Kept i0 s) :
    Kept i0 (State.prepare s r i q how) := by
  rw [State.prepare]
  with_reducible repeat' (first
    | assumption | dsimp only | apply State.setMail_kept | apply State.setRun_kept | apply State.setSlot_kept | simp only [kept_mk]
    | refine keptMk_of ?_ rfl rfl rfl | refine kept_ite ?_ ?_ | split | intro _)

theorem State.corruptReq_kept {i0 : State} (s : State) (r : SampleRun) (i : Nat) (q : SampleReq) (hs : Kept i0 s) :
    Kept i0 (State.corruptReq s r i q) := by
  rw [State.corruptReq]
  with_reducible repeat' (first
    | assumption | dsimp only | apply State.setFlag_kept | apply State.padSlot_kept | apply State.prepare_kept | apply State.endCmd_kept
    | simp only [kept_mk] | refine keptMk_of ?_ rfl rfl rfl | refine kept_ite ?_ ?_ | split)

theorem State.fillSlot_kept {i0 : State} (s : State) (r : SampleRun) (y0 : Nat) (hs : Kept i0 s) :
    Kept i0 (State.fillSlot s r y0) := by
  induction y0 generalizing s r with
  | zero =>
    simp only [State.fillSlot]
    first | exact hs | exact keptOpt_some hs | exact keptP_some hs | exact keptE_ok hs | trivial
  | succ n ih =>
    rw [State.fillSlot]
    with_reducible repeat' (first
      | assumption | apply ih | dsimp only | apply State.setSlot_kept | apply State.setRun_kept | apply State.prepare_kept | apply State.padSlot_kept
      | apply State.setFlag_kept | simp only [kept_mk] | refine keptMk_of ?_ rfl rfl rfl | refine kept_ite ?_ ?_ | split | intro _)

theorem State.fillRun_kept {i0 : State} (s : State) (seq : Word) (addr : Nat) (hs : Kept i0 s) :
    Kept i0 (State.fillRun s seq addr) := by
  rw [State.fillRun]
  with_reducible repeat' (first
    | assumption | dsimp only | apply State.fillSlot_kept | simp only [kept_mk] | refine keptMk_of ?_ rfl rfl rfl | refine kept_ite ?_ ?_
    | split)

theorem State.reqReady_kept {i0 : State} (s : State) (seq : Word) (addr i : Nat) (hs : Kept i0 s) :
    Kept i0 (State.reqReady s seq addr i) := by
  rw [State.reqReady]
  with_reducible repeat' (first
    | assumption | dsimp only | apply State.setRun_kept | apply State.setFlag_kept | apply State.fillRun_kept | apply State.corruptReq_kept
    | apply State.prepare_kept | refine keptOpt_bind ?_ _ | simp only [kept_mk] | refine keptMk_of ?_ rfl rfl rfl | refine kept_ite ?_ ?_
    | split | intro _)

theorem State.offer_kept {i0 : State} (s : State) (id frame : Nat) (pic : Picture) (hs : Kept i0 s) :
    Kept i0 (State.offer s id frame pic) := by
  rw [State.offer]
  with_reducible repeat' (first
    | assumption | dsimp only | apply State.setRun_kept | apply State.reqReady_kept | simp only [kept_mk] | refine keptMk_of ?_ rfl rfl rfl
    | simp only [id_eq] | refine foldl_kept ?_ _ ?_ | refine kept_ite ?_ ?_ | split | intro _)

theorem State.hopeless_kept {i0 : State} (s : State) (w : Word × Nat × Nat × SampleReq) (kind : Nat) (hs : Kept i0 s) :
    Kept i0 (State.hopeless s w kind) := by
  rw [State.hopeless]
  with_reducible repeat' (first
    | assumption | dsimp only | apply State.setRun_kept | apply State.errorEntry_kept | apply State.reqReady_kept | simp only [kept_mk]
    | refine keptMk_of ?_ rfl rfl rfl | split | intro _)

theorem State.pastEnd_kept {i0 : State} (s : State) (c : Nat) (hs : Kept i0 s) :
    Kept i0 (State.pastEnd s c) := by
  rw [State.pastEnd]
  with_reducible repeat' (first
    | assumption | dsimp only | apply State.hopeless_kept | simp only [kept_mk] | refine keptMk_of ?_ rfl rfl rfl
    | refine foldl_kept ?_ _ ?_ | refine kept_ite ?_ ?_ | split | intro _)

theorem State.setDec_kept {i0 : State} (s : State) (e : Nat) (v : Engine) (hs : Kept i0 s) :
    Kept i0 (State.setDec s e v) := by
  rw [State.setDec]
  with_reducible repeat' (first
    | assumption | dsimp only | simp only [kept_mk] | refine keptMk_of ?_ rfl rfl rfl)

theorem State.engineNext_kept {i0 : State} (s : State) (e : Nat) (hs : Kept i0 s) :
    Kept i0 (State.engineNext s e) := by
  rw [State.engineNext]
  with_reducible repeat' (first
    | assumption | dsimp only | apply State.setCtx_kept | apply State.bump_kept | apply State.setDec_kept | simp only [kept_mk]
    | refine keptMk_of ?_ rfl rfl rfl | refine kept_ite ?_ ?_ | split | intro _)

theorem State.enginesNext_kept {i0 : State} (s : State) (hs : Kept i0 s) :
    Kept i0 (State.enginesNext s) := by
  rw [State.enginesNext]
  with_reducible repeat' (first
    | assumption | dsimp only | apply State.engineNext_kept | refine foldl_kept ?_ _ ?_ | intro _)

theorem State.deliverPicture_kept {i0 : State} (s : State) (c : Nat) (pic : Picture) (hs : Kept i0 s) :
    Kept i0 (State.deliverPicture s c pic) := by
  rw [State.deliverPicture]
  with_reducible repeat' (first
    | assumption | dsimp only | apply State.setCtx_kept | apply State.offer_kept | apply State.bump_kept | simp only [kept_mk]
    | refine keptMk_of ?_ rfl rfl rfl | simp only [id_eq] | refine kept_ite ?_ ?_ | split | intro _)

theorem State.afterFrame_kept {i0 : State} (s : State) (c e : Nat) (shown rap damaged : Bool) (consumed : Nat) (hs : Kept i0 s) :
    Kept i0 (State.afterFrame s c e shown rap damaged consumed) := by
  rw [State.afterFrame]
  with_reducible repeat' (first
    | assumption | dsimp only | apply State.setCtx_kept | apply State.setDec_kept | apply State.bump_kept | apply State.storeVA_kept
    | simp only [kept_mk] | refine keptMk_of ?_ rfl rfl rfl | refine kept_ite ?_ ?_ | split | intro _)

theorem execFrameDecoded_kept {i0 : State} (e : DecIx) (f : DecodedFrame) (s : State) (hs : Kept i0 s) :
    KeptO i0 (execFrameDecoded e f s) := by
  rw [execFrameDecoded]
  with_reducible repeat' (first
    | assumption | dsimp only | apply State.askBits_kept | apply State.countBits_kept | apply State.perturb_kept
    | apply State.errorEntry_kept | apply State.afterFrame_kept | apply State.bump_kept | apply State.deliverPicture_kept
    | apply State.hopeless_kept | apply State.pastEnd_kept | apply State.enginesNext_kept | refine kept_snd ?_ (by assumption)
    | refine kept_fst ?_ (by assumption) | refine keptOpt_bind ?_ _ | apply keptO_next | simp only [kept_mk]
    | refine keptMk_of ?_ rfl rfl rfl | refine foldl_kept ?_ _ ?_ | refine foldl_kept_snd ?_ _ ?_ | refine foldl_kept_fst ?_ _ ?_
    | refine keptO_ite ?_ ?_ | split | intro _)

theorem execBitstreamProducerAdvance_kept {i0 : State} (c : StreamIx) (s : State) (hs : Kept i0 s) :
    KeptO i0 (execBitstreamProducerAdvance c s) := by
  rw [execBitstreamProducerAdvance]
  with_reducible repeat' (first
    | assumption | dsimp only | apply State.setCtx_kept | apply State.pastEnd_kept | apply State.enginesNext_kept | apply keptO_next
    | simp only [kept_mk] | refine keptMk_of ?_ rfl rfl rfl | refine keptO_ite ?_ ?_ | split | intro _)

theorem State.abandon_kept {i0 : State} (s : State) (e blocks : Nat) (hs : Kept i0 s) :
    Kept i0 (State.abandon s e blocks) := by
  rw [State.abandon]
  with_reducible repeat' (first
    | assumption | dsimp only | apply State.errorEntry_kept | apply State.afterFrame_kept | apply State.deliverPicture_kept
    | apply State.hopeless_kept | apply State.pastEnd_kept | apply State.enginesNext_kept | simp only [kept_mk]
    | refine keptMk_of ?_ rfl rfl rfl | refine foldl_kept ?_ _ ?_ | refine kept_ite ?_ ?_ | split | intro _)

theorem execDecodeAbandon_kept {i0 : State} (e : DecIx) (blocks : Word) (s : State) (hs : Kept i0 s) :
    KeptO i0 (execDecodeAbandon e blocks s) := by
  rw [execDecodeAbandon]
  with_reducible repeat' (first
    | assumption | dsimp only | apply State.abandon_kept | apply keptO_next | refine keptO_ite ?_ ?_ | split | intro _)

theorem execDecodeHang_kept {i0 : State} (e : DecIx) (blocks : Word) (s : State) (hs : Kept i0 s) :
    KeptO i0 (execDecodeHang e blocks s) := by
  rw [execDecodeHang]
  with_reducible repeat' (first
    | assumption | dsimp only | apply State.report_kept | apply State.abandon_kept | apply keptO_next | refine keptO_ite ?_ ?_ | split
    | intro _)

theorem State.lookup_kept {i0 : State} (s : State) (x : StreamCtx) (frame : Nat) (hs : Kept i0 s) :
    Kept i0 (State.lookup s x frame).1 := by
  rw [State.lookup]
  with_reducible repeat' (first
    | assumption | dsimp only | apply State.bump_kept | simp only [kept_mk] | refine keptMk_of ?_ rfl rfl rfl | split | intro _)

theorem State.rushInsert_kept {i0 : State} (s : State) (i : RushIns) (hs : Kept i0 s) :
    Kept i0 (State.rushInsert s i) := by
  rw [State.rushInsert]
  with_reducible repeat' (first
    | assumption | dsimp only | apply State.bump_kept | simp only [kept_mk] | refine keptMk_of ?_ rfl rfl rfl | refine kept_ite ?_ ?_
    | split | intro _)

theorem execRushInsertDone_kept {i0 : State} (n : Half) (s : State) (hs : Kept i0 s) :
    KeptO i0 (execRushInsertDone n s) := by
  rw [execRushInsertDone]
  with_reducible repeat' (first
    | assumption | dsimp only | apply State.rushInsert_kept | apply keptO_next | simp only [kept_mk] | refine keptMk_of ?_ rfl rfl rfl
    | split | intro _)

theorem State.rushCtl_kept {i0 : State} (s : State) (flush : Bool) (hs : Kept i0 s) :
    Kept i0 (State.rushCtl s flush) := by
  rw [State.rushCtl]
  with_reducible repeat' (first
    | assumption | dsimp only | simp only [kept_mk] | refine keptMk_of ?_ rfl rfl rfl | refine kept_ite ?_ ?_ | split | intro _)

theorem execRushFlush_kept {i0 : State} (s : State) (hs : Kept i0 s) :
    KeptO i0 (execRushFlush s) := by
  rw [execRushFlush]
  with_reducible repeat' (first
    | assumption | dsimp only | apply State.rushCtl_kept | apply State.barDropped_kept | apply keptO_next | refine keptO_ite ?_ ?_ | split
    | intro _)

theorem execRushInval_kept {i0 : State} (s : State) (hs : Kept i0 s) :
    KeptO i0 (execRushInval s) := by
  rw [execRushInval]
  with_reducible repeat' (first
    | assumption | dsimp only | apply State.rushCtl_kept | apply State.barDropped_kept | apply keptO_next | refine keptO_ite ?_ ?_ | split
    | intro _)

theorem State.readOver_kept {i0 : State} (s : State) (x : StreamCtx) (frame : Nat) (hs : Kept i0 s) :
    Kept i0 (State.readOver s x frame) := by
  rw [State.readOver]
  with_reducible repeat' (first
    | assumption | dsimp only | simp only [kept_mk] | refine keptMk_of ?_ rfl rfl rfl | refine kept_ite ?_ ?_ | split | intro _)

theorem State.startReq_kept {i0 : State} (s : State) (seq : Word) (addr i : Nat) (hs : Kept i0 s) :
    Kept i0 (State.startReq s seq addr i) := by
  rw [State.startReq]
  with_reducible repeat' (first
    | assumption | dsimp only | apply State.setRun_kept | apply State.hopeless_kept | apply State.lookup_kept | apply State.reqReady_kept
    | apply State.setCtx_kept | refine kept_snd ?_ (by assumption) | refine kept_fst ?_ (by assumption) | refine keptOpt_bind ?_ _
    | apply keptOpt_some | exact keptOpt_none _ | simp only [kept_mk] | refine keptMk_of ?_ rfl rfl rfl | refine kept_ite ?_ ?_ | split
    | intro _)

theorem State.startList_kept {i0 : State} (s : State) (seq : Word) (k : Kern) (addr : Nat) (hs : Kept i0 s) :
    Kept i0 (State.startList s seq k addr) := by
  rw [State.startList]
  with_reducible repeat' (first
    | assumption | dsimp only | apply State.endCmd_kept | apply State.updCmd_kept | apply State.startReq_kept | simp only [kept_mk]
    | refine keptMk_of ?_ rfl rfl rfl | refine foldl_kept ?_ _ ?_ | split | intro _)

theorem State.startSamples_kept {i0 : State} (s : State) (seq : Word) (k : Kern) (hs : Kept i0 s) :
    Kept i0 (State.startSamples s seq k) := by
  rw [State.startSamples]
  with_reducible repeat' (first
    | assumption | dsimp only | apply State.startList_kept | apply State.enginesNext_kept | simp only [kept_mk]
    | refine keptMk_of ?_ rfl rfl rfl | refine foldl_kept ?_ _ ?_ | split | intro _)

theorem State.countLate_kept {i0 : State} (s : State) (seq : Word) (addr i : Nat) (q : SampleReq) (hs : Kept i0 s) :
    Kept i0 (State.countLate s seq addr i q) := by
  rw [State.countLate]
  with_reducible repeat' (first
    | assumption | dsimp only | apply State.setRun_kept | apply State.bump_kept | apply State.setCtx_kept | apply State.updCmd_kept
    | simp only [kept_mk] | refine keptMk_of ?_ rfl rfl rfl | refine kept_ite ?_ ?_ | split | intro _)

theorem State.disposeLate_kept {i0 : State} (s : State) (r : SampleRun) (i : Nat) (q : SampleReq) (hs : Kept i0 s) :
    Kept i0 (State.disposeLate s r i q) := by
  rw [State.disposeLate]
  with_reducible repeat' (first
    | assumption | dsimp only | apply State.setFlag_kept | apply State.prepare_kept | apply State.padSlot_kept | apply State.fillRun_kept
    | apply State.endCmd_kept | refine keptOpt_bind ?_ _ | simp only [kept_mk] | refine keptMk_of ?_ rfl rfl rfl | split | intro _)

theorem execSampleDeadline_kept {i0 : State} (seq : Word) (n : Byte) (slot : Half) (s : State) (hs : Kept i0 s) :
    KeptO i0 (execSampleDeadline seq n slot s) := by
  rw [execSampleDeadline]
  with_reducible repeat' (first
    | assumption | dsimp only | apply State.fillRun_kept | apply State.countLate_kept | apply State.disposeLate_kept
    | apply State.enginesNext_kept | apply keptO_next | simp only [kept_mk] | refine keptMk_of ?_ rfl rfl rfl | refine keptO_ite ?_ ?_
    | split | intro _)

theorem State.dropLeft_kept {i0 : State} (s : State) (r : SampleRun) (hs : Kept i0 s) :
    Kept i0 (State.dropLeft s r) := by
  rw [State.dropLeft]
  with_reducible repeat' (first
    | assumption | dsimp only | apply State.setRun_kept | apply State.updCmd_kept | simp only [kept_mk] | refine keptMk_of ?_ rfl rfl rfl
    | refine kept_ite ?_ ?_ | split | intro _)

theorem State.settleSlot_kept {i0 : State} (s : State) (r : SampleRun) (x : SampleSlot) (own : SampleReq) (hs : Kept i0 s) :
    Kept i0 (State.settleSlot s r x own) := by
  rw [State.settleSlot]
  with_reducible repeat' (first
    | assumption | dsimp only | apply State.readFor_kept | apply State.writeFor_kept | apply State.setRun_kept | apply State.bump_kept
    | apply State.updCmd_kept | apply State.dropLeft_kept | apply State.slateAsk_kept | apply State.fillRun_kept | apply State.report_kept
    | apply State.endCmd_kept | refine kept_snd ?_ (by assumption) | refine kept_fst ?_ (by assumption) | simp only [kept_mk]
    | refine keptMk_of ?_ rfl rfl rfl | refine kept_ite ?_ ?_ | split | intro _)

theorem execSlotSettle_kept {i0 : State} (seq : Word) (n : Byte) (s : State) (hs : Kept i0 s) :
    KeptO i0 (execSlotSettle seq n s) := by
  rw [execSlotSettle]
  with_reducible repeat' (first
    | assumption | dsimp only | apply State.settleSlot_kept | apply keptO_next | simp only [kept_mk] | refine keptMk_of ?_ rfl rfl rfl
    | refine keptO_ite ?_ ?_ | split | intro _)

theorem State.enterStream_kept {i0 : State} (s : State) (seq : Word) (cls : Nat) (d : List Byte) (c e fromRes : Nat) (y0 : Option (List Nat × State)) (hs : Kept i0 s) (hy0 : KeptP i0 y0) :
    Kept i0 (State.enterStream s seq cls d c e fromRes y0) := by
  have ring : ∀ (u : State) (a b : Nat), Kept i0 u →
      Kept i0 (if a = 0 then u else u.storeVA (accOf seq) (a + 8) (leBytes 4 b)) :=
    fun u a b hu => kept_ite hu (State.storeVA_kept _ _ _ _ hu)
  cases y0 with
  | none => exact State.finishBare_kept _ _ _ hs
  | some p =>
    exact State.enginesNext_kept _ (State.finish_kept _ _ _ _ (State.flushMail_kept _ _ (ring _ _ _ (ring _ _ _ (State.setCtx_kept _ _ _ hy0)))))

theorem State.openCtx_kept {i0 : State} (s : State) (seq : Word) (cls : Nat) (d : List Byte) (hs : Kept i0 s) :
    Kept i0 (State.openCtx s seq cls d) := by
  rw [State.openCtx]
  with_reducible repeat' (first
    | assumption | dsimp only | apply State.enterStream_kept | apply State.drawPages_kept | apply State.finishBare_kept
    | refine KeptP.get ?_ (by assumption) | simp only [kept_mk] | refine keptMk_of ?_ rfl rfl rfl | split | intro _)

theorem execOpenStream_kept {i0 : State} (seq : Word) (s : State) (hs : Kept i0 s) :
    KeptO i0 (execOpenStream seq s) := by
  rw [execOpenStream]
  with_reducible repeat' (first
    | assumption | dsimp only | apply State.refuseOwn_kept | apply State.readFor_kept | apply State.finishBare_kept
    | apply State.openCtx_kept | apply keptO_next | simp only [kept_mk] | refine keptMk_of ?_ rfl rfl rfl | refine keptO_ite ?_ ?_ | split
    | intro _)

theorem State.closeCtx_kept {i0 : State} (s : State) (c : Nat) (hs : Kept i0 s) :
    Kept i0 (State.closeCtx s c) := by
  rw [State.closeCtx]
  with_reducible repeat' (first
    | assumption | dsimp only | apply State.flushMail_kept | apply State.returnPage_kept | apply State.setCtx_kept | apply State.setDec_kept
    | apply State.enginesNext_kept | simp only [kept_mk] | refine keptMk_of ?_ rfl rfl rfl | refine foldl_kept ?_ _ ?_
    | refine kept_ite ?_ ?_ | split | intro _)

theorem execCloseStream_kept {i0 : State} (seq : Word) (s : State) (hs : Kept i0 s) :
    KeptO i0 (execCloseStream seq s) := by
  rw [execCloseStream]
  with_reducible repeat' (first
    | assumption | dsimp only | apply State.finishBare_kept | apply State.closeCtx_kept | apply State.finish_kept | apply keptO_next
    | simp only [kept_mk] | refine keptMk_of ?_ rfl rfl rfl | split | intro _)

theorem State.edgeStore_kept {i0 : State} (s : State) (n : Nat) (a : Acc) (va stride : Nat) (y0 : List (List Byte)) (hs : Kept i0 s) :
    KeptE i0 (State.edgeStore s n a va stride y0) := by
  induction y0 generalizing s n a va stride with
  | nil =>
    simp only [State.edgeStore]
    first | exact hs | exact keptOpt_some hs | exact keptP_some hs | exact keptE_ok hs | trivial
  | cons x r ih =>
    rw [State.edgeStore]
    with_reducible repeat' (first
      | assumption | apply ih | dsimp only | apply State.storeVA_kept | refine KeptE.get ?_ (by assumption) | apply keptE_ok | exact keptE_error _ _
      | simp only [kept_mk] | refine keptMk_of ?_ rfl rfl rfl | split | intro _)

theorem State.edgeFault_kept {i0 : State} (s : State) (w : Nat) (seq : Word) (va : Nat) (hs : Kept i0 s) :
    Kept i0 (State.edgeFault s w seq va) := by
  rw [State.edgeFault]
  with_reducible repeat' (first
    | assumption | dsimp only | apply State.report_kept | apply State.endCmd_kept)

theorem State.prepJob_kept {i0 : State} (s : State) (n w : Nat) (seq : Word) (a : Acc) (b : List Byte) (hs : Kept i0 s) :
    Kept i0 (State.prepJob s n w seq a b) := by
  rw [State.prepJob]
  with_reducible repeat' (first
    | assumption | dsimp only | apply State.edgeStore_kept | apply State.edgeFault_kept | refine KeptE.get ?_ (by assumption)
    | simp only [kept_mk] | refine keptMk_of ?_ rfl rfl rfl | split)

theorem State.convJob_kept {i0 : State} (s : State) (n w : Nat) (seq : Word) (a : Acc) (b : List Byte) (hs : Kept i0 s) :
    Kept i0 (State.convJob s n w seq a b) := by
  rw [State.convJob]
  with_reducible repeat' (first
    | assumption | dsimp only | apply State.edgeStore_kept | apply State.edgeFault_kept | refine KeptE.get ?_ (by assumption)
    | simp only [kept_mk] | refine keptMk_of ?_ rfl rfl rfl | refine kept_ite ?_ ?_ | split | intro _)

theorem State.beginInsert_kept {i0 : State} (s : State) (n : Nat) (x : StreamCtx) (frame : Nat) (rows : List (List Byte)) (luma : List Nat) (hs : Kept i0 s) :
    Kept i0 (State.beginInsert s n x frame rows luma) := by
  rw [State.beginInsert]
  with_reducible repeat' (first
    | assumption | dsimp only | apply State.setMail_kept | simp only [kept_mk] | refine keptMk_of ?_ rfl rfl rfl)

theorem State.streamSample_kept {i0 : State} (s : State) (n : Nat) (j : StreamJob) (r : SampleRun) (slot : SampleSlot) (pred : Option (List Nat)) (hs : Kept i0 s) :
    Kept i0 (State.streamSample s n j r slot pred) := by
  rw [State.streamSample]
  with_reducible repeat' (first
    | assumption | dsimp only | apply State.writeSample_kept | apply State.setRun_kept | apply State.setSlot_kept
    | apply State.gateFrame_kept | apply State.beginInsert_kept | refine keptOpt_bind ?_ _ | simp only [kept_mk]
    | refine keptMk_of ?_ rfl rfl rfl | refine kept_ite ?_ ?_ | split | intro _)

theorem State.streamJob_kept {i0 : State} (s : State) (n m : Nat) (j : StreamJob) (pred : Option (List Nat)) (hs : Kept i0 s) :
    Kept i0 (State.streamJob s n m j pred) := by
  rw [State.streamJob]
  with_reducible repeat' (first
    | assumption | dsimp only | apply State.bump_kept | apply State.setMail_kept | apply State.readOver_kept | apply State.streamSample_kept
    | simp only [kept_mk] | refine keptMk_of ?_ rfl rfl rfl | refine kept_ite ?_ ?_ | split)

theorem State.coreJob_kept {i0 : State} (s : State) (n w : Nat) (seq : Word) (k : Option Kern) (b : List Byte) (hs : Kept i0 s) :
    Kept i0 (State.coreJob s n w seq k b) := by
  rw [State.coreJob]
  with_reducible repeat' (first
    | assumption | dsimp only | apply State.bump_kept | apply State.prepJob_kept | apply State.convJob_kept | refine kept_ite ?_ ?_ | split)

theorem State.poolPixel_kept {i0 : State} (s s0 : State) (k : Kern) (w : Nat) (d : PoolDesc) (i o : NumFmt) (p : Nat × Nat × Nat) (hs : Kept i0 s) :
    Kept i0 (State.poolPixel s s0 k w d i o p) := by
  rw [State.poolPixel]
  with_reducible repeat' (first
    | assumption | dsimp only | apply State.selfWrite_kept | apply State.countNum_kept | apply State.bump_kept | simp only [kept_mk]
    | refine keptMk_of ?_ rfl rfl rfl | refine kept_ite ?_ ?_ | split | intro _)

theorem State.pool_kept {i0 : State} (s : State) (k : Kern) (w : Nat) (b : List Byte) (hs : Kept i0 s) :
    Kept i0 (State.pool s k w b) := by
  rw [State.pool]
  with_reducible repeat' (first
    | assumption | dsimp only | apply State.poolPixel_kept | simp only [kept_mk] | refine keptMk_of ?_ rfl rfl rfl
    | refine foldl_kept ?_ _ ?_ | split | intro _)

theorem State.attWrite_kept {i0 : State} (s : State) (k : Kern) (w : Nat) (a : AttDesc) (o : NumFmt) (p : Nat) (r : AttOut) (hs : Kept i0 s) :
    Kept i0 (State.attWrite s k w a o p r) := by
  rw [State.attWrite]
  with_reducible repeat' (first
    | assumption | dsimp only | apply State.selfWrite_kept | apply State.countNum_kept | refine kept_ite ?_ ?_ | split | intro _)

theorem State.attEmpty_kept {i0 : State} (s : State) (k : Kern) (w : Nat) (a : AttDesc) (first : Nat) (flags : List Bool) (hs : Kept i0 s) :
    Kept i0 (State.attEmpty s k w a first flags) := by
  rw [State.attEmpty]
  with_reducible repeat' (first
    | assumption | dsimp only | apply State.selfWrite_kept | refine kept_ite ?_ ?_ | split)

theorem State.attSequence_kept {i0 : State} (s s0 : State) (k : Kern) (w : Nat) (a : AttDesc) (tok : Nat) (f : NumFmt × NumFmt × NumFmt) (i : Nat) (q : AttSeq) (hs : Kept i0 s) :
    Kept i0 (State.attSequence s s0 k w a tok f i q) := by
  rw [State.attSequence]
  with_reducible repeat' (first
    | assumption | dsimp only | apply State.attWrite_kept | apply State.attEmpty_kept | apply State.updCmd_kept | simp only [kept_mk]
    | refine keptMk_of ?_ rfl rfl rfl | simp only [id_eq] | refine foldl_kept ?_ _ ?_ | refine foldl_kept_snd ?_ _ ?_
    | refine foldl_kept_fst ?_ _ ?_ | split | intro _)

theorem State.attRun_kept {i0 : State} (s : State) (k : Kern) (w : Nat) (r : ArrayRun) (n : Nat) (hs : Kept i0 s) :
    Kept i0 (State.attRun s k w r n).1 := by
  rw [State.attRun]
  with_reducible repeat' (first
    | assumption | dsimp only | apply State.poisonFault_kept | apply State.attSequence_kept | simp only [kept_mk]
    | refine keptMk_of ?_ rfl rfl rfl | refine foldl_kept ?_ _ ?_ | refine foldl_kept_snd ?_ _ ?_ | refine foldl_kept_fst ?_ _ ?_ | split
    | intro _)

theorem State.elemOut_kept {i0 : State} (s : State) (k : Kern) (w : Nat) (d : ElemProg) (o y x r : Nat) (v : Word) (hs : Kept i0 s) :
    Kept i0 (State.elemOut s k w d o y x r v) := by
  rw [State.elemOut]
  with_reducible repeat' (first
    | assumption | dsimp only | apply State.selfWrite_kept | apply State.countNum_kept | simp only [kept_mk]
    | refine keptMk_of ?_ rfl rfl rfl | refine kept_ite ?_ ?_ | split)

theorem State.elemGroup_kept {i0 : State} (s : State) (k : Kern) (w row : Nat) (d : ElemProg) (prog : List Nat) (consts : List Word) (gy gx : Nat) (hs : Kept i0 s) :
    Kept i0 (State.elemGroup s k w row d prog consts gy gx) := by
  rw [State.elemGroup]
  with_reducible repeat' (first
    | assumption | dsimp only | apply State.draw_kept | apply State.elemOut_kept | apply State.countNum_kept | apply State.bump_kept
    | refine foldl_kept ?_ _ ?_ | refine foldl_kept_snd ?_ _ ?_ | refine foldl_kept_fst ?_ _ ?_ | refine kept_ite ?_ ?_ | split | intro _)

theorem State.elemGroups_kept {i0 : State} (s : State) (k : Kern) (w : Nat) (r : ElemRun) (n : Nat) (hs : Kept i0 s) :
    Kept i0 (State.elemGroups s k w r n) := by
  rw [State.elemGroups]
  with_reducible repeat' (first
    | assumption | dsimp only | apply State.elemGroup_kept | refine foldl_kept ?_ _ ?_ | intro _)

theorem State.finishElem_kept {i0 : State} (s : State) (w : Nat) (hs : Kept i0 s) :
    Kept i0 (State.finishElem s w) := by
  rw [State.finishElem]
  with_reducible repeat' (first
    | assumption | dsimp only | apply State.elemGroups_kept | apply State.updCore_kept | simp only [kept_mk]
    | refine keptMk_of ?_ rfl rfl rfl | split | intro _)

theorem State.stopElem_kept {i0 : State} (s : State) (w : Nat) (hs : Kept i0 s) :
    Kept i0 (State.stopElem s w) := by
  rw [State.stopElem]
  with_reducible repeat' (first
    | assumption | dsimp only | apply State.draw_kept | apply State.elemGroups_kept | apply State.updCore_kept
    | refine kept_snd ?_ (by assumption) | refine kept_fst ?_ (by assumption) | simp only [kept_mk] | refine keptMk_of ?_ rfl rfl rfl
    | split | intro _)

theorem State.eprun_kept {i0 : State} (s : State) (k : Kern) (w n : Nat) (b : List Byte) (hs : Kept i0 s) :
    Kept i0 (State.eprun s k w n b) := by
  rw [State.eprun]
  with_reducible repeat' (first
    | assumption | dsimp only | apply State.endCmd_kept | apply State.coreFault_kept | apply State.draw_kept | apply State.updCore_kept
    | refine kept_snd ?_ (by assumption) | refine kept_fst ?_ (by assumption) | simp only [kept_mk] | refine keptMk_of ?_ rfl rfl rfl
    | refine kept_ite ?_ ?_ | split | intro _)

theorem State.runSome_kept {i0 : State} (s : State) (k : Kern) (w : Nat) (r : ArrayRun) (n : Nat) (hs : Kept i0 s) :
    Kept i0 (State.runSome s k w r n).1 := by
  rw [State.runSome]
  with_reducible repeat' (first
    | assumption | dsimp only | apply State.attRun_kept | apply State.runRows_kept | refine kept_snd ?_ (by assumption)
    | refine kept_fst ?_ (by assumption) | simp only [kept_mk] | refine keptMk_of ?_ rfl rfl rfl | split | intro _)

theorem State.haloStart_kept {i0 : State} (s : State) (k : Kern) (w : Nat) (b : List Byte) (hs : Kept i0 s) :
    Kept i0 (State.haloStart s k w b) := by
  rw [State.haloStart]
  with_reducible repeat' (first
    | assumption | dsimp only | apply State.writePlace_kept | apply State.bump_kept | simp only [kept_mk] | refine keptMk_of ?_ rfl rfl rfl
    | refine foldl_kept ?_ _ ?_ | split | intro _)

theorem State.setRuns_kept {i0 : State} (s : State) (w : Nat) (q : List ArrayRun) (hs : Kept i0 s) :
    Kept i0 (State.setRuns s w q) := by
  rw [State.setRuns]
  with_reducible repeat' (first
    | assumption | dsimp only | apply State.updCore_kept | simp only [kept_mk] | refine keptMk_of ?_ rfl rfl rfl | intro _)

theorem State.startRun_kept {i0 : State} (s : State) (k : Kern) (w : Nat) (earlier later : List ArrayRun) (r : ArrayRun) (hs : Kept i0 s) :
    Kept i0 (State.startRun s k w earlier later r) := by
  rw [State.startRun]
  with_reducible repeat' (first
    | assumption | dsimp only | apply State.setRuns_kept | apply State.setEdge_kept | apply State.haloStart_kept | apply State.updCore_kept
    | simp only [kept_mk] | refine keptMk_of ?_ rfl rfl rfl | refine kept_ite ?_ ?_ | split | intro _)

theorem State.startGo_kept {i0 : State} (s : State) (k : Kern) (w : Nat) (y0 : Nat) (hs : Kept i0 s) :
    Kept i0 (State.startGo s k w y0) := by
  induction y0 generalizing s k w with
  | zero =>
    simp only [State.startGo]
    first | exact hs | exact keptOpt_some hs | exact keptP_some hs | exact keptE_ok hs | trivial
  | succ n ih =>
    rw [State.startGo]
    with_reducible repeat' (first
      | assumption | apply ih | dsimp only | apply State.startRun_kept | simp only [kept_mk] | refine keptMk_of ?_ rfl rfl rfl | refine kept_ite ?_ ?_
      | split)

theorem State.startQueue_kept {i0 : State} (s : State) (w : Nat) (hs : Kept i0 s) :
    Kept i0 (State.startQueue s w) := by
  rw [State.startQueue]
  with_reducible repeat' (first
    | assumption | dsimp only | apply State.startGo_kept | simp only [kept_mk] | refine keptMk_of ?_ rfl rfl rfl | refine kept_ite ?_ ?_
    | split)

theorem State.enqueue_kept {i0 : State} (s : State) (w : Nat) (r : ArrayRun) (hs : Kept i0 s) :
    Kept i0 (State.enqueue s w r) := by
  rw [State.enqueue]
  with_reducible repeat' (first
    | assumption | dsimp only | apply State.updCore_kept | apply State.startQueue_kept | simp only [kept_mk]
    | refine keptMk_of ?_ rfl rfl rfl | intro _)

theorem State.runOut_kept {i0 : State} (s : State) (k : Kern) (w : Nat) (r : ArrayRun) (hs : Kept i0 s) :
    Kept i0 (State.runOut s k w r).1 := by
  rw [State.runOut]
  with_reducible repeat' (first
    | assumption | dsimp only | apply State.pool_kept | apply State.runSome_kept | split | intro _)

theorem execArrayLastOutput_kept {i0 : State} (w : CoreIx) (s : State) (hs : Kept i0 s) :
    KeptO i0 (execArrayLastOutput w s) := by
  rw [execArrayLastOutput]
  with_reducible repeat' (first
    | assumption | dsimp only | apply State.runOut_kept | apply State.setRuns_kept | apply State.updCore_kept | apply State.startQueue_kept
    | refine kept_snd ?_ (by assumption) | refine kept_fst ?_ (by assumption) | apply keptO_next | simp only [kept_mk]
    | refine keptMk_of ?_ rfl rfl rfl | refine keptO_ite ?_ ?_ | split | intro _)

theorem execRampGrant_kept {i0 : State} (w : CoreIx) (s : State) (hs : Kept i0 s) :
    KeptO i0 (execRampGrant w s) := by
  rw [execRampGrant]
  with_reducible repeat' (first
    | assumption | dsimp only | apply State.setCore_kept | apply keptO_next | simp only [kept_mk] | refine keptMk_of ?_ rfl rfl rfl
    | refine keptO_ite ?_ ?_ | split | intro _)

theorem execHaloDone_kept {i0 : State} (w : CoreIx) (s : State) (hs : Kept i0 s) :
    KeptO i0 (execHaloDone w s) := by
  rw [execHaloDone]
  with_reducible repeat' (first
    | assumption | dsimp only | apply State.setRuns_kept | apply State.slateAsk_kept | apply State.startQueue_kept
    | refine kept_snd ?_ (by assumption) | refine kept_fst ?_ (by assumption) | apply keptO_next | simp only [kept_mk]
    | refine keptMk_of ?_ rfl rfl rfl | split | intro _)

theorem execEdgeJobDone_kept {i0 : State} (n : ClusterIx) (pred : Option (List Half)) (s : State) (hs : Kept i0 s) :
    KeptO i0 (execEdgeJobDone n pred s) := by
  rw [execEdgeJobDone]
  with_reducible repeat' (first
    | assumption | dsimp only | apply State.setEdge_kept | apply State.streamJob_kept | apply State.coreJob_kept
    | apply State.startQueue_kept | apply keptO_next | simp only [kept_mk] | refine keptMk_of ?_ rfl rfl rfl | refine foldl_kept ?_ _ ?_
    | split | intro _)

theorem State.runQueue_kept {i0 : State} (s : State) (k : Kern) (w : Nat) (l : List ArrayRun) (hs : Kept i0 s) :
    Kept i0 (State.runQueue s k w l) := by
  rw [State.runQueue]
  with_reducible repeat' (first
    | assumption | dsimp only | apply State.runOut_kept | apply State.haloStart_kept | refine foldl_kept ?_ _ ?_
    | refine foldl_kept_snd ?_ _ ?_ | refine foldl_kept_fst ?_ _ ?_ | refine kept_ite ?_ ?_ | split | intro _)

theorem State.settleArray_kept {i0 : State} (s : State) (k : Kern) (w : Nat) (hs : Kept i0 s) :
    Kept i0 (State.settleArray s k w) := by
  rw [State.settleArray]
  with_reducible repeat' (first
    | assumption | dsimp only | apply State.runQueue_kept)

theorem State.stopArray_kept {i0 : State} (s : State) (k : Kern) (w : Nat) (hs : Kept i0 s) :
    Kept i0 (State.stopArray s k w) := by
  rw [State.stopArray]
  with_reducible repeat' (first
    | assumption | dsimp only | apply State.updCore_kept | apply State.pool_kept | apply State.draw_kept | apply State.runSome_kept
    | refine kept_snd ?_ (by assumption) | refine kept_fst ?_ (by assumption) | simp only [kept_mk] | refine keptMk_of ?_ rfl rfl rfl
    | refine kept_ite ?_ ?_ | split | intro _)

theorem State.stopEngines_kept {i0 : State} (s : State) (k : Kern) (hs : Kept i0 s) :
    Kept i0 (State.stopEngines s k) := by
  rw [State.stopEngines]
  with_reducible repeat' (first
    | assumption | dsimp only | apply State.stopElem_kept | apply State.stopArray_kept | refine foldl_kept ?_ _ ?_ | intro _)

theorem State.finishElems_kept {i0 : State} (s : State) (k : Kern) (hs : Kept i0 s) :
    Kept i0 (State.finishElems s k) := by
  rw [State.finishElems]
  with_reducible repeat' (first
    | assumption | dsimp only | apply State.finishElem_kept | refine foldl_kept ?_ _ ?_ | intro _)

theorem State.retire_kept {i0 : State} (s : State) (w : Nat) (hs : Kept i0 s) :
    Kept i0 (State.retire s w) := by
  rw [State.retire]
  with_reducible repeat' (first
    | assumption | dsimp only | apply State.setCore_kept | refine kept_ite ?_ ?_ | split)

theorem State.atIssue_kept {i0 : State} (s : State) (w : Nat) (hs : Kept i0 s) :
    Kept i0 (State.atIssue s w) := by
  rw [State.atIssue]
  with_reducible repeat' (first
    | assumption | dsimp only | apply State.finishElem_kept | apply State.updCore_kept)

theorem issue_kept {i0 : State} (w : CoreIx) (word : Dword) (want : Nat → Bool) (f : Kern → State → Option State) (s : State) (hf : ∀ z0 z1, Kept i0 z1 → KeptOpt i0 (f z0 z1)) (hs : Kept i0 s) :
    KeptO i0 (issue w word want f s) := by
  rw [issue]
  with_reducible repeat' (first
    | assumption | dsimp only | apply State.atIssue_kept | apply State.settleArray_kept | apply State.coreFault_kept
    | apply State.retire_kept | apply hwant | apply hf | refine KeptOpt.get ?_ (by assumption) | refine KeptOpt.get ?_ (by assumption)
    | exact keptOpt_none _ | apply KeptOpt.getD | apply keptO_next | apply keptOpt_some | exact keptOpt_none _ | simp only [kept_mk]
    | refine keptMk_of ?_ rfl rfl rfl | refine keptO_ite ?_ ?_ | split | intro _)

theorem execReservedInstruction_kept {i0 : State} (w : CoreIx) (word : Dword) (s : State) (hs : Kept i0 s) :
    KeptO i0 (execReservedInstruction w word s) := by
  rw [execReservedInstruction]
  with_reducible repeat' (first
    | assumption | dsimp only | apply issue_kept | exact keptOpt_none _ | apply keptOpt_some | apply keptO_next | intro _)

theorem arrayIssue_kept {i0 : State} (w : CoreIx) (word : Dword) (op size : Nat) (check : State → Kern → Nat → List Byte → Except (Status ⊕ Nat) Unit) (s : State) (hs : Kept i0 s) :
    KeptO i0 (arrayIssue w word op size check s) := by
  rw [arrayIssue]
  with_reducible repeat' (first
    | assumption | dsimp only | apply issue_kept | apply State.coreFault_kept | apply State.endCmd_kept | apply State.enqueue_kept
    | apply hcheck | exact keptOpt_none _ | apply keptOpt_some | apply keptO_next | apply keptOpt_some | exact keptOpt_none _
    | simp only [kept_mk] | refine keptMk_of ?_ rfl rfl rfl | refine keptO_ite ?_ ?_ | split | intro _)

theorem execMatmul_kept {i0 : State} (w : CoreIx) (word : Dword) (s : State) (hs : Kept i0 s) :
    KeptO i0 (execMatmul w word s) := by
  rw [execMatmul]
  with_reducible repeat' (first
    | assumption | dsimp only | apply arrayIssue_kept | apply keptO_next | intro _)

theorem execAttend_kept {i0 : State} (w : CoreIx) (word : Dword) (s : State) (hs : Kept i0 s) :
    KeptO i0 (execAttend w word s) := by
  rw [execAttend]
  with_reducible repeat' (first
    | assumption | dsimp only | apply arrayIssue_kept | apply keptO_next | intro _)

theorem execConv_kept {i0 : State} (w : CoreIx) (word : Dword) (s : State) (hs : Kept i0 s) :
    KeptO i0 (execConv w word s) := by
  rw [execConv]
  with_reducible repeat' (first
    | assumption | dsimp only | apply arrayIssue_kept | apply keptO_next | intro _)

theorem execPool_kept {i0 : State} (w : CoreIx) (word : Dword) (s : State) (hs : Kept i0 s) :
    KeptO i0 (execPool w word s) := by
  rw [execPool]
  with_reducible repeat' (first
    | assumption | dsimp only | apply arrayIssue_kept | apply keptO_next | intro _)

theorem execHalo_kept {i0 : State} (w : CoreIx) (word : Dword) (s : State) (hs : Kept i0 s) :
    KeptO i0 (execHalo w word s) := by
  rw [execHalo]
  with_reducible repeat' (first
    | assumption | dsimp only | apply arrayIssue_kept | apply keptO_next | intro _)

theorem edgeIssue_kept {i0 : State} (w : CoreIx) (word : Dword) (prep : Bool) (s : State) (hs : Kept i0 s) :
    KeptO i0 (edgeIssue w word prep s) := by
  rw [edgeIssue]
  with_reducible repeat' (first
    | assumption | dsimp only | apply State.atIssue_kept | apply arrayIssue_kept | exact keptOpt_none _ | apply keptOpt_some
    | apply keptO_next | apply keptOpt_some | exact keptOpt_none _ | simp only [kept_mk] | refine keptMk_of ?_ rfl rfl rfl
    | refine keptO_ite ?_ ?_ | split | intro _)

theorem execEdgePrep_kept {i0 : State} (w : CoreIx) (word : Dword) (s : State) (hs : Kept i0 s) :
    KeptO i0 (execEdgePrep w word s) := by
  rw [execEdgePrep]
  with_reducible repeat' (first
    | assumption | dsimp only | apply edgeIssue_kept | apply keptO_next | intro _)

theorem execEdgeConv_kept {i0 : State} (w : CoreIx) (word : Dword) (s : State) (hs : Kept i0 s) :
    KeptO i0 (execEdgeConv w word s) := by
  rw [execEdgeConv]
  with_reducible repeat' (first
    | assumption | dsimp only | apply edgeIssue_kept | apply keptO_next | intro _)

theorem execAwait_kept {i0 : State} (w : CoreIx) (word : Dword) (s : State) (hs : Kept i0 s) :
    KeptO i0 (execAwait w word s) := by
  rw [execAwait]
  with_reducible repeat' (first
    | assumption | dsimp only | apply issue_kept | apply State.updCore_kept | apply keptO_next | apply keptOpt_some | exact keptOpt_none _
    | simp only [kept_mk] | refine keptMk_of ?_ rfl rfl rfl | refine keptO_ite ?_ ?_ | split | intro _)

theorem State.leaveSeq_kept {i0 : State} (s : State) (i : Nat) (hs : Kept i0 s) :
    Kept i0 (State.leaveSeq s i) := by
  rw [State.leaveSeq]
  with_reducible repeat' (first
    | assumption | dsimp only | apply State.setSeq_kept | apply State.lowerCount_kept | refine foldl_kept ?_ _ ?_
    | refine foldl_kept_snd ?_ _ ?_ | refine foldl_kept_fst ?_ _ ?_ | intro _)

theorem State.meetJoin_kept {i0 : State} (s : State) (seq : Word) (tok : Nat) (asks : List Ask) (e : BatchEnt) (hs : Kept i0 s) :
    KeptP i0 (State.meetJoin s seq tok asks e) := by
  rw [State.meetJoin]
  with_reducible repeat' (first
    | assumption | dsimp only | apply State.drawPages_kept | apply State.setSeq_kept | refine KeptP.get ?_ (by assumption)
    | apply keptP_some | exact keptP_none _ | apply keptP_mapSnd | refine keptP_map ?_ _ | simp only [kept_mk]
    | refine keptMk_of ?_ rfl rfl rfl | refine foldl_kept ?_ _ ?_ | split | intro _)

theorem State.meetJoins_kept {i0 : State} (s : State) (seq : Word) (tok : Nat) (asks : List Ask) (y0 : List (Nat × BatchEnt)) (y1 : List (Nat × Nat)) (hs : Kept i0 s) :
    Kept i0 (State.meetJoins s seq tok asks y0 y1).1 := by
  induction y0 generalizing s seq tok asks y1 with
  | nil =>
    simp only [State.meetJoins]
    first | exact hs | exact keptOpt_some hs | exact keptP_some hs | exact keptE_ok hs | trivial
  | cons x r ih =>
    rw [State.meetJoins]
    with_reducible repeat' (first
      | assumption | apply ih | dsimp only | apply State.meetJoin_kept | refine KeptP.get ?_ (by assumption) | simp only [kept_mk]
      | refine keptMk_of ?_ rfl rfl rfl | split | intro _)

theorem State.updBoundary_kept {i0 : State} (s : State) (seq : Word) (f : Boundary → Boundary) (hs : Kept i0 s) :
    Kept i0 (State.updBoundary s seq f) := by
  rw [State.updBoundary]
  with_reducible repeat' (first
    | assumption | dsimp only | apply hf | simp only [kept_mk] | refine keptMk_of ?_ rfl rfl rfl | refine kept_ite ?_ ?_ | split | intro _)

theorem State.updData_kept {i0 : State} (s : State) (seq : Word) (f : DataAreas → DataAreas) (hs : Kept i0 s) :
    Kept i0 (State.updData s seq f) := by
  rw [State.updData]
  with_reducible repeat' (first
    | assumption | dsimp only | apply State.updCmd_kept | apply hf | simp only [kept_mk] | refine keptMk_of ?_ rfl rfl rfl | intro _)

theorem State.stepTiles_kept {i0 : State} (s : State) (seq : Word) (c : Cmd) (hs : Kept i0 s) :
    Kept i0 (State.stepTiles s seq c) := by
  rw [State.stepTiles]
  with_reducible repeat' (first
    | assumption | dsimp only | apply State.bindTiles_kept | refine keptOpt_bind ?_ _ | intro _)

theorem State.startStep_kept {i0 : State} (s : State) (seq : Word) (first : Bool) (hs : Kept i0 s) :
    Kept i0 (State.startStep s seq first) := by
  rw [State.startStep]
  with_reducible repeat' (first
    | assumption | dsimp only | apply State.updCmd_kept | apply State.stepTiles_kept | apply State.giveRows_kept
    | apply State.reachStage_kept | apply State.maskStep_kept | apply State.setChunk_kept | exact keptOpt_none _ | apply keptOpt_some
    | apply keptOpt_some | exact keptOpt_none _ | simp only [kept_mk] | refine keptMk_of ?_ rfl rfl rfl | refine kept_ite ?_ ?_ | split
    | intro _)

theorem State.foldEarly_kept {i0 : State} (s : State) (seq : Word) (hs : Kept i0 s) :
    Kept i0 (State.foldEarly s seq) := by
  rw [State.foldEarly]
  with_reducible repeat' (first
    | assumption | dsimp only | apply State.foldChunk_kept | simp only [kept_mk] | refine keptMk_of ?_ rfl rfl rfl | split)

theorem State.foldStopped_kept {i0 : State} (s : State) (k : Kern) (hs : Kept i0 s) :
    Kept i0 (State.foldStopped s k) := by
  rw [State.foldStopped]
  with_reducible repeat' (first
    | assumption | dsimp only | apply State.foldChunk_kept | apply State.updCmd_kept | simp only [kept_mk] | refine keptMk_of ?_ rfl rfl rfl
    | refine kept_ite ?_ ?_ | split | intro _)

theorem State.countStep_kept {i0 : State} (s : State) (seq : Word) (c : Cmd) (hs : Kept i0 s) :
    Kept i0 (State.countStep s seq c) := by
  rw [State.countStep]
  with_reducible repeat' (first
    | assumption | dsimp only | apply State.setTake_kept | apply State.updCmd_kept | simp only [kept_mk] | refine keptMk_of ?_ rfl rfl rfl
    | refine foldl_kept ?_ _ ?_ | intro _)

theorem State.endShort_kept {i0 : State} (s : State) (seq : Word) (hs : Kept i0 s) :
    Kept i0 (State.endShort s seq) := by
  rw [State.endShort]
  with_reducible repeat' (first
    | assumption | dsimp only | apply State.countStep_kept | apply State.foldEarly_kept | apply State.endCmd_kept | simp only [kept_mk]
    | refine keptMk_of ?_ rfl rfl rfl | refine kept_ite ?_ ?_ | split | intro _)

theorem State.advanceOn_kept {i0 : State} (s : State) (seq : Word) (first : Bool) (hs : Kept i0 s) :
    Kept i0 (State.advanceOn s seq first) := by
  rw [State.advanceOn]
  with_reducible repeat' (first
    | assumption | dsimp only | apply State.startStep_kept | apply State.countStep_kept | apply State.foldEarly_kept
    | apply State.endCmd_kept | simp only [kept_mk] | refine keptMk_of ?_ rfl rfl rfl | refine kept_ite ?_ ?_ | split | intro _)

theorem State.endBoundary_kept {i0 : State} (s : State) (b : Boundary) (hs : Kept i0 s) :
    Kept i0 (State.endBoundary s b) := by
  rw [State.endBoundary]
  with_reducible repeat' (first
    | assumption | dsimp only | apply State.updData_kept | apply State.advanceOn_kept | apply State.dispatchStage_kept | simp only [kept_mk]
    | refine keptMk_of ?_ rfl rfl rfl | refine foldl_kept ?_ _ ?_ | refine kept_ite ?_ ?_ | split | intro _)

theorem State.orderMemory_kept {i0 : State} (s : State) (seq : Word) (c : Cmd) (tok : Nat) (asks : List Ask) (grow : Nat → Nat) (ents : List BatchEnt) (bytes : List Byte) (addr : Nat) (hs : Kept i0 s) :
    Kept i0 (State.orderMemory s seq c tok asks grow ents bytes addr) := by
  rw [State.orderMemory]
  with_reducible repeat' (first
    | assumption | dsimp only | apply State.updCmd_kept | apply State.resumeAll_kept | apply State.meetJoins_kept | apply State.growAll_kept
    | apply State.endShort_kept | apply State.updData_kept | apply State.updBoundary_kept | apply State.endBoundary_kept
    | apply State.writeFor_kept | apply hgrow | refine kept_snd ?_ (by assumption) | refine kept_fst ?_ (by assumption)
    | refine KeptOpt.get ?_ (by assumption) | exact keptOpt_none _ | simp only [kept_mk] | refine keptMk_of ?_ rfl rfl rfl
    | refine kept_ite ?_ ?_ | split | intro _)

theorem State.orderGrowth_kept {i0 : State} (s : State) (seq : Word) (c : Cmd) (asks : List Ask) (grow : Nat → Nat) (ents : List BatchEnt) (bytes : List Byte) (addr : Nat) (hs : Kept i0 s) :
    Kept i0 (State.orderGrowth s seq c asks grow ents bytes addr) := by
  rw [State.orderGrowth]
  with_reducible repeat' (first
    | assumption | dsimp only | apply State.endCmd_kept | apply State.meetGrowth_kept | apply State.orderMemory_kept
    | apply State.endShort_kept | apply hgrow | refine kept_snd ?_ (by assumption) | refine kept_fst ?_ (by assumption)
    | simp only [kept_mk] | refine keptMk_of ?_ rfl rfl rfl | refine kept_ite ?_ ?_ | split | intro _)

theorem State.takesBoundary_kept {i0 : State} (s : State) (c : Cmd) (b : Boundary) (hs : Kept i0 s) :
    Kept i0 (State.takesBoundary s c b) := by
  rw [State.takesBoundary]
  with_reducible repeat' (first
    | assumption | dsimp only | apply State.stepOver_kept | apply State.updBoundary_kept | apply State.orderGrowth_kept
    | simp only [kept_mk] | refine keptMk_of ?_ rfl rfl rfl | refine foldl_kept ?_ _ ?_ | refine kept_ite ?_ ?_ | split | intro _)

theorem State.batchBoundary_kept {i0 : State} (s : State) (c : Cmd) (b : Boundary) (hs : Kept i0 s) :
    Kept i0 (State.batchBoundary s c b) := by
  rw [State.batchBoundary]
  with_reducible repeat' (first
    | assumption | dsimp only | apply State.endBoundary_kept | apply State.readFor_kept | apply State.endCmd_kept | apply State.setSeq_kept
    | apply State.stepOver_kept | apply State.leaveSeq_kept | apply State.updBoundary_kept | apply State.orderGrowth_kept
    | simp only [kept_mk] | refine keptMk_of ?_ rfl rfl rfl | refine foldl_kept ?_ _ ?_ | refine kept_ite ?_ ?_ | split | intro _)

theorem State.serveBoundary_kept {i0 : State} (s : State) (b : Boundary) (hs : Kept i0 s) :
    Kept i0 (State.serveBoundary s b) := by
  rw [State.serveBoundary]
  with_reducible repeat' (first
    | assumption | dsimp only | apply State.endBoundary_kept | apply State.takesBoundary_kept | apply State.batchBoundary_kept
    | simp only [kept_mk] | refine keptMk_of ?_ rfl rfl rfl | refine kept_ite ?_ ?_ | split | intro _)

theorem State.serveGo_kept {i0 : State} (s : State) (blocked : Bool) (y0 : List Word) (hs : Kept i0 s) :
    Kept i0 (State.serveGo s blocked y0) := by
  induction y0 generalizing s blocked with
  | nil =>
    simp only [State.serveGo]
    first | exact hs | exact keptOpt_some hs | exact keptP_some hs | exact keptE_ok hs | trivial
  | cons x r ih =>
    rw [State.serveGo]
    with_reducible repeat' (first
      | assumption | apply ih | dsimp only | apply State.serveBoundary_kept | simp only [kept_mk] | refine keptMk_of ?_ rfl rfl rfl
      | refine kept_ite ?_ ?_ | split | intro _)

theorem State.serveBoundaries_kept {i0 : State} (s : State) (hs : Kept i0 s) :
    Kept i0 (State.serveBoundaries s) := by
  rw [State.serveBoundaries]
  with_reducible repeat' (first
    | assumption | dsimp only | apply State.serveGo_kept)

theorem State.applyScores_kept {i0 : State} (s : State) (seq : Word) (c : Cmd) (hs : Kept i0 s) :
    Kept i0 (State.applyScores s seq c) := by
  rw [State.applyScores]
  with_reducible repeat' (first
    | assumption | dsimp only | apply State.setTake_kept | simp only [kept_mk] | refine keptMk_of ?_ rfl rfl rfl | refine foldl_kept ?_ _ ?_
    | refine kept_ite ?_ ?_ | split | intro _)

theorem State.applyPrunes_kept {i0 : State} (s : State) (seq : Word) (c : Cmd) (hs : Kept i0 s) :
    Kept i0 (State.applyPrunes s seq c) := by
  rw [State.applyPrunes]
  with_reducible repeat' (first
    | assumption | dsimp only | apply State.pruneTake_kept | apply State.updCmd_kept | simp only [kept_mk] | refine keptMk_of ?_ rfl rfl rfl
    | refine foldl_kept ?_ _ ?_ | intro _)

theorem State.drainUpdates_kept {i0 : State} (s : State) (hs : Kept i0 s) :
    Kept i0 (State.drainUpdates s) := by
  rw [State.drainUpdates]
  with_reducible repeat' (first
    | assumption | dsimp only | apply State.countUpdate_kept | simp only [kept_mk] | refine keptMk_of ?_ rfl rfl rfl
    | refine foldl_kept ?_ _ ?_ | split | intro _)

theorem State.askBoundary_kept {i0 : State} (s : State) (b : Boundary) (hs : Kept i0 s) :
    Kept i0 (State.askBoundary s b) := by
  rw [State.askBoundary]
  with_reducible repeat' (first
    | assumption | dsimp only | simp only [kept_mk] | refine keptMk_of ?_ rfl rfl rfl)

theorem State.nextPass_kept {i0 : State} (s : State) (seq : Word) (c : Cmd) (k : Kern) (hs : Kept i0 s) :
    Kept i0 (State.nextPass s seq c k) := by
  rw [State.nextPass]
  with_reducible repeat' (first
    | assumption | dsimp only | apply State.countTiles_kept | apply State.updCmd_kept | apply State.stepTiles_kept
    | apply State.giveRows_kept | apply State.reachStage_kept | simp only [kept_mk] | refine keptMk_of ?_ rfl rfl rfl | intro _)

theorem State.endStep_kept {i0 : State} (s : State) (seq : Word) (c : Cmd) (k : Kern) (hs : Kept i0 s) :
    Kept i0 (State.endStep s seq c k) := by
  rw [State.endStep]
  with_reducible repeat' (first
    | assumption | dsimp only | apply State.countTiles_kept | apply State.setKern_kept | apply State.applyScores_kept
    | apply State.applyPrunes_kept | apply State.drainUpdates_kept | apply State.askBoundary_kept | apply State.serveBoundaries_kept
    | simp only [kept_mk] | refine keptMk_of ?_ rfl rfl rfl)

theorem State.chunkStep_kept {i0 : State} (s : State) (k : Kern) (hs : Kept i0 s) :
    Kept i0 (State.chunkStep s k) := by
  rw [State.chunkStep]
  with_reducible repeat' (first
    | assumption | dsimp only | apply State.setChunk_kept | apply State.endStep_kept | simp only [kept_mk] | refine keptMk_of ?_ rfl rfl rfl
    | split)

theorem State.redoStep_kept {i0 : State} (s : State) (seq : Word) (hs : Kept i0 s) :
    Kept i0 (State.redoStep s seq) := by
  rw [State.redoStep]
  with_reducible repeat' (first
    | assumption | dsimp only | apply State.startStep_kept | simp only [kept_mk] | refine keptMk_of ?_ rfl rfl rfl | intro _)

theorem State.stepOf_kept {i0 : State} (s : State) (seq : Word) (c : Cmd) (k : Kern) (hs : Kept i0 s) :
    Kept i0 (State.stepOf s seq c k) := by
  rw [State.stepOf]
  with_reducible repeat' (first
    | assumption | dsimp only | apply State.chunkStep_kept | apply State.redoStep_kept | apply State.foldStopped_kept
    | apply State.beginSave_kept | apply State.endStep_kept | apply State.maskStep_kept | apply State.setChunk_kept | simp only [kept_mk]
    | refine keptMk_of ?_ rfl rfl rfl | refine kept_ite ?_ ?_ | split | intro _)

theorem execStepBoundary_kept {i0 : State} (seq : Word) (s : State) (hs : Kept i0 s) :
    KeptO i0 (execStepBoundary seq s) := by
  rw [execStepBoundary]
  with_reducible repeat' (first
    | assumption | dsimp only | apply State.finishElems_kept | apply State.nextPass_kept | apply State.stepOf_kept | apply keptO_next
    | simp only [kept_mk] | refine keptMk_of ?_ rfl rfl rfl | refine keptO_ite ?_ ?_ | split | intro _)

theorem execBatchStepBoundary_kept {i0 : State} (seq : Word) (n : Half) (s : State) (hs : Kept i0 s) :
    KeptO i0 (execBatchStepBoundary seq n s) := by
  rw [execBatchStepBoundary]
  with_reducible repeat' (first
    | assumption | dsimp only | apply State.updCmd_kept | apply State.updBoundary_kept | apply State.serveBoundaries_kept
    | apply State.askBoundary_kept | apply keptO_next | simp only [kept_mk] | refine keptMk_of ?_ rfl rfl rfl | refine keptO_ite ?_ ?_
    | split | intro _)

theorem State.dropFault_kept {i0 : State} (s : State) (n : Nat) (hs : Kept i0 s) :
    Kept i0 (State.dropFault s n) := by
  rw [State.dropFault]
  with_reducible repeat' (first
    | assumption | dsimp only | simp only [kept_mk] | refine keptMk_of ?_ rfl rfl rfl)

theorem State.copyDest_kept {i0 : State} (s : State) (f : CowFault) (hs : Kept i0 s) :
    KeptP i0 (State.copyDest s f) := by
  rw [State.copyDest]
  with_reducible repeat' (first
    | assumption | dsimp only | apply State.setTake_kept | apply State.drawPage_kept | apply State.returnPage_kept
    | refine KeptP.get ?_ (by assumption) | apply keptP_some | exact keptP_none _ | simp only [kept_mk] | refine keptMk_of ?_ rfl rfl rfl
    | split | intro _)

theorem State.orderCopy_kept {i0 : State} (s : State) (f : CowFault) (dst : Nat) (hs : Kept i0 s) :
    Kept i0 (State.orderCopy s f dst) := by
  rw [State.orderCopy]
  with_reducible repeat' (first
    | assumption | dsimp only | apply State.bump_kept | apply State.carryDies_kept | simp only [kept_mk] | refine keptMk_of ?_ rfl rfl rfl
    | refine kept_ite ?_ ?_ | split)

theorem State.copyShort_kept {i0 : State} (s : State) (f : CowFault) (hs : Kept i0 s) :
    Kept i0 (State.copyShort s f) := by
  rw [State.copyShort]
  with_reducible repeat' (first
    | assumption | dsimp only | apply State.takeVictim_kept | apply State.endCmd_kept | simp only [kept_mk]
    | refine keptMk_of ?_ rfl rfl rfl | refine kept_ite ?_ ?_ | split)

theorem execCowFault_kept {i0 : State} (n : Half) (s : State) (hs : Kept i0 s) :
    KeptO i0 (execCowFault n s) := by
  rw [execCowFault]
  with_reducible repeat' (first
    | assumption | dsimp only | apply State.dropFault_kept | apply State.cowStore_kept | apply State.writePlace_kept
    | apply State.copyDest_kept | apply State.orderCopy_kept | apply State.copyShort_kept | refine KeptP.get ?_ (by assumption)
    | apply keptO_next | exact keptO_fault _ _ | simp only [kept_mk] | refine keptMk_of ?_ rfl rfl rfl | refine keptO_ite ?_ ?_ | split
    | intro _)

end Sys2Proof.Machine
end

