-- ==== Sys2Proof/Laws/KeptFabric.lean ====
section
/-! SUPPORT. Kept by slate instructions and the fabric: the queue and the form of the memories. -/

namespace Sys2Proof.Machine

theorem State.updFab_kept {i0 : State} (s : State) (f : Fabric → Fabric) (hs : Kept i0 s) :
    Kept i0 (State.updFab s f) := by
  rw [State.updFab]
  with_reducible repeat' (first
    | assumption | dsimp only | apply hf | simp only [kept_mk] | refine keptMk_of ?_ rfl rfl rfl)

theorem State.updPort_kept {i0 : State} (s : State) (p : Nat) (f : FabPort → FabPort) (hs : Kept i0 s) :
    Kept i0 (State.updPort s p f) := by
  rw [State.updPort]
  with_reducible repeat' (first
    | assumption | dsimp only | apply State.setPort_kept | apply hf)

theorem State.logEntry_kept {i0 : State} (s : State) (r : Report) (fenced forwarded fatal : Bool) (fepoch : Word) (hs : Kept i0 s) :
    Kept i0 (State.logEntry s r fenced forwarded fatal fepoch) := by
  rw [State.logEntry]
  with_reducible repeat' (first
    | assumption | dsimp only | apply State.report_kept | apply State.sendVector_kept | simp only [kept_mk]
    | refine keptMk_of ?_ rfl rfl rfl | refine kept_ite ?_ ?_ | split | intro _)

theorem State.tallyFault_kept {i0 : State} (s : State) (key : FaultKey) (src : Nat) (hs : Kept i0 s) :
    Kept i0 (State.tallyFault s key src) := by
  rw [State.tallyFault]
  with_reducible repeat' (first
    | assumption | dsimp only | apply State.updFab_kept | apply State.logEntry_kept | simp only [kept_mk] | refine keptMk_of ?_ rfl rfl rfl
    | split | intro _)

theorem State.toCoord_kept {i0 : State} (s : State) (type src hops : Nat) (payload : List Byte) (hs : Kept i0 s) :
    Kept i0 (State.toCoord s type src hops payload) := by
  rw [State.toCoord]
  with_reducible repeat' (first
    | assumption | dsimp only | apply State.sendFrame_kept)

theorem State.coalesce_kept {i0 : State} (s : State) (key : FaultKey) (src hops : Nat) (hs : Kept i0 s) :
    Kept i0 (State.coalesce s key src hops) := by
  rw [State.coalesce]
  with_reducible repeat' (first
    | assumption | dsimp only | apply State.updFab_kept | apply State.toCoord_kept | simp only [kept_mk] | refine keptMk_of ?_ rfl rfl rfl
    | refine kept_ite ?_ ?_ | split | intro _)

theorem State.sendFault_kept {i0 : State} (s : State) (subject cls : Nat) (hs : Kept i0 s) :
    Kept i0 (State.sendFault s subject cls) := by
  rw [State.sendFault]
  with_reducible repeat' (first
    | assumption | dsimp only | apply State.tallyFault_kept | apply State.coalesce_kept | simp only [id_eq] | refine kept_ite ?_ ?_ | split)

theorem State.noteLink_kept {i0 : State} (s : State) (l : LinkData) (hs : Kept i0 s) :
    Kept i0 (State.noteLink s l) := by
  rw [State.noteLink]
  with_reducible repeat' (first
    | assumption | dsimp only | apply State.sendFault_kept | apply State.updFab_kept | simp only [kept_mk] | refine keptMk_of ?_ rfl rfl rfl
    | simp only [id_eq] | refine kept_ite ?_ ?_ | split | intro _)

theorem State.passReport_kept {i0 : State} (s : State) (l : LinkData) (src : Nat) (hs : Kept i0 s) :
    Kept i0 (State.passReport s l src) := by
  rw [State.passReport]
  with_reducible repeat' (first
    | assumption | dsimp only | apply State.sendFrame_kept | apply State.sendOn_kept | simp only [kept_mk] | refine keptMk_of ?_ rfl rfl rfl
    | refine kept_ite ?_ ?_ | split)

theorem State.linkReport_kept {i0 : State} (s : State) (p : Nat) (hs : Kept i0 s) :
    Kept i0 (State.linkReport s p) := by
  rw [State.linkReport]
  with_reducible repeat' (first
    | assumption | dsimp only | apply State.noteLink_kept | apply State.passReport_kept | simp only [id_eq] | refine kept_ite ?_ ?_ | split)

theorem State.elect_kept {i0 : State} (s : State) (gone : Option (BitVec 128)) (hs : Kept i0 s) :
    Kept i0 (State.elect s gone) := by
  rw [State.elect]
  with_reducible repeat' (first
    | assumption | dsimp only | apply State.updFab_kept | simp only [kept_mk] | refine keptMk_of ?_ rfl rfl rfl | refine kept_ite ?_ ?_
    | split | intro _)

theorem State.endStageD_kept {i0 : State} (s : State) (hs : Kept i0 s) :
    Kept i0 (State.endStageD s) := by
  rw [State.endStageD]
  with_reducible repeat' (first
    | assumption | dsimp only | simp only [kept_mk] | refine keptMk_of ?_ rfl rfl rfl | refine kept_ite ?_ ?_ | split)

theorem State.fabricOfOne_kept {i0 : State} (s : State) (hs : Kept i0 s) :
    Kept i0 (State.fabricOfOne s) := by
  rw [State.fabricOfOne]
  with_reducible repeat' (first
    | assumption | dsimp only | apply State.updFab_kept | apply State.endStageD_kept | simp only [kept_mk] | refine keptMk_of ?_ rfl rfl rfl
    | simp only [id_eq] | refine kept_ite ?_ ?_ | split | intro _)

theorem State.requeue_kept {i0 : State} (s : State) (p : Nat) (hs : Kept i0 s) :
    Kept i0 (State.requeue s p) := by
  rw [State.requeue]
  with_reducible repeat' (first
    | assumption | dsimp only | apply State.sendFrame_kept | apply State.setPort_kept | simp only [kept_mk]
    | refine keptMk_of ?_ rfl rfl rfl | refine foldl_kept ?_ _ ?_ | intro _)

theorem State.removePort_kept {i0 : State} (s : State) (p : Nat) (known : Option Nat) (hs : Kept i0 s) :
    Kept i0 (State.removePort s p known) := by
  rw [State.removePort]
  with_reducible repeat' (first
    | assumption | dsimp only | apply State.updFab_kept | apply State.requeue_kept | apply State.linkReport_kept
    | apply State.sendFault_kept | apply State.elect_kept | simp only [kept_mk] | refine keptMk_of ?_ rfl rfl rfl
    | refine foldl_kept ?_ _ ?_ | refine kept_ite ?_ ?_ | split | intro _)

theorem State.dropPort_kept {i0 : State} (s : State) (p : Nat) (st : PortState) (hs : Kept i0 s) :
    Kept i0 (State.dropPort s p st) := by
  rw [State.dropPort]
  with_reducible repeat' (first
    | assumption | dsimp only | apply State.updPort_kept | simp only [kept_mk] | refine keptMk_of ?_ rfl rfl rfl | intro _)

theorem State.portDown_kept {i0 : State} (s : State) (p : Nat) (hs : Kept i0 s) :
    Kept i0 (State.portDown s p) := by
  rw [State.portDown]
  with_reducible repeat' (first
    | assumption | dsimp only | apply State.dropPort_kept | apply State.removePort_kept | apply State.sendFault_kept | simp only [kept_mk]
    | refine keptMk_of ?_ rfl rfl rfl | refine kept_ite ?_ ?_ | split)

theorem State.install_kept {i0 : State} (s : State) (t : RouteTable) (hs : Kept i0 s) :
    Kept i0 (State.install s t) := by
  rw [State.install]
  with_reducible repeat' (first
    | assumption | dsimp only | apply State.updFab_kept | simp only [kept_mk] | refine keptMk_of ?_ rfl rfl rfl | refine foldl_kept ?_ _ ?_
    | refine kept_ite ?_ ?_ | split | intro _)

theorem State.takeTile_kept {i0 : State} (s : State) (w i : Nat) (t : TileCtr) (hs : Kept i0 s) :
    Kept i0 (State.takeTile s w i t).1 := by
  rw [State.takeTile]
  with_reducible repeat' (first
    | assumption | dsimp only | apply State.meetTiles_kept | apply State.bump_kept | apply State.slateSeen_kept | apply State.slateAsk_kept
    | refine kept_snd ?_ (by assumption) | refine kept_fst ?_ (by assumption) | simp only [kept_mk] | refine keptMk_of ?_ rfl rfl rfl
    | split | intro _)

theorem State.coreSlate_kept {i0 : State} (s : State) (k : Kern) (w i op : Nat) (v cmp : Word) (hs : Kept i0 s) :
    Kept i0 (State.coreSlate s k w i op v cmp).1 := by
  rw [State.coreSlate]
  with_reducible repeat' (first
    | assumption | dsimp only | apply State.takeTile_kept | apply State.slateAsk_kept | refine kept_snd ?_ (by assumption)
    | refine kept_fst ?_ (by assumption) | simp only [kept_mk] | refine keptMk_of ?_ rfl rfl rfl | split | intro _)

theorem State.coreWait_kept {i0 : State} (s : State) (w i : Nat) (eq : Bool) (v : Word) (xr : Nat) (hs : Kept i0 s) :
    Kept i0 (State.coreWait s w i eq v xr) := by
  rw [State.coreWait]
  with_reducible repeat' (first
    | assumption | dsimp only | apply State.slateSeen_kept | apply State.updCore_kept | simp only [kept_mk]
    | refine keptMk_of ?_ rfl rfl rfl | refine kept_ite ?_ ?_ | split | intro _)

theorem slateIssue_kept {i0 : State} (w : CoreIx) (word : Dword) (op : Nat) (s : State) (hs : Kept i0 s) :
    KeptO i0 (slateIssue w word op s) := by
  rw [slateIssue]
  with_reducible repeat' (first
    | assumption | dsimp only | apply issue_kept | apply State.endCmd_kept | apply State.coreWait_kept | apply State.coreSlate_kept
    | apply State.updCore_kept | apply State.request_kept | refine kept_snd ?_ (by assumption) | refine kept_fst ?_ (by assumption)
    | apply keptO_next | apply keptOpt_some | exact keptOpt_none _ | simp only [kept_mk] | refine keptMk_of ?_ rfl rfl rfl
    | refine keptO_ite ?_ ?_ | split | intro _)

theorem execSlateWait_kept {i0 : State} (w : CoreIx) (word : Dword) (s : State) (hs : Kept i0 s) :
    KeptO i0 (execSlateWait w word s) := by
  rw [execSlateWait]
  with_reducible repeat' (first
    | assumption | dsimp only | apply slateIssue_kept | apply keptO_next | intro _)

theorem execSlateWaiteq_kept {i0 : State} (w : CoreIx) (word : Dword) (s : State) (hs : Kept i0 s) :
    KeptO i0 (execSlateWaiteq w word s) := by
  rw [execSlateWaiteq]
  with_reducible repeat' (first
    | assumption | dsimp only | apply slateIssue_kept | apply keptO_next | intro _)

theorem execSlateSignal_kept {i0 : State} (w : CoreIx) (word : Dword) (s : State) (hs : Kept i0 s) :
    KeptO i0 (execSlateSignal w word s) := by
  rw [execSlateSignal]
  with_reducible repeat' (first
    | assumption | dsimp only | apply slateIssue_kept | apply keptO_next | intro _)

theorem execSlateAdd_kept {i0 : State} (w : CoreIx) (word : Dword) (s : State) (hs : Kept i0 s) :
    KeptO i0 (execSlateAdd w word s) := by
  rw [execSlateAdd]
  with_reducible repeat' (first
    | assumption | dsimp only | apply slateIssue_kept | apply keptO_next | intro _)

theorem execSlateFadd_kept {i0 : State} (w : CoreIx) (word : Dword) (s : State) (hs : Kept i0 s) :
    KeptO i0 (execSlateFadd w word s) := by
  rw [execSlateFadd]
  with_reducible repeat' (first
    | assumption | dsimp only | apply slateIssue_kept | apply keptO_next | intro _)

theorem execSlateCas_kept {i0 : State} (w : CoreIx) (word : Dword) (s : State) (hs : Kept i0 s) :
    KeptO i0 (execSlateCas w word s) := by
  rw [execSlateCas]
  with_reducible repeat' (first
    | assumption | dsimp only | apply slateIssue_kept | apply keptO_next | intro _)

theorem execSlateRead_kept {i0 : State} (w : CoreIx) (word : Dword) (s : State) (hs : Kept i0 s) :
    KeptO i0 (execSlateRead w word s) := by
  rw [execSlateRead]
  with_reducible repeat' (first
    | assumption | dsimp only | apply slateIssue_kept | apply keptO_next | intro _)

theorem execSlateSet_kept {i0 : State} (w : CoreIx) (word : Dword) (s : State) (hs : Kept i0 s) :
    KeptO i0 (execSlateSet w word s) := by
  rw [execSlateSet]
  with_reducible repeat' (first
    | assumption | dsimp only | apply slateIssue_kept | apply keptO_next | intro _)

theorem execSlateWake_kept {i0 : State} (w : CoreIx) (s : State) (hs : Kept i0 s) :
    KeptO i0 (execSlateWake w s) := by
  rw [execSlateWake]
  with_reducible repeat' (first
    | assumption | dsimp only | apply State.updCore_kept | apply keptO_next | simp only [kept_mk] | refine keptMk_of ?_ rfl rfl rfl | split
    | intro _)

theorem execSlateWaitLimit_kept {i0 : State} (w : CoreIx) (s : State) (hs : Kept i0 s) :
    KeptO i0 (execSlateWaitLimit w s) := by
  rw [execSlateWaitLimit]
  with_reducible repeat' (first
    | assumption | dsimp only | apply State.endCmd_kept | apply keptO_next | simp only [kept_mk] | refine keptMk_of ?_ rfl rfl rfl
    | refine keptO_ite ?_ ?_ | split | intro _)

theorem State.slateOpDone_kept {i0 : State} (s : State) (seq : Word) (st : Status) (r : Word) (stored : Bool) (hs : Kept i0 s) :
    Kept i0 (State.slateOpDone s seq st r stored) := by
  rw [State.slateOpDone]
  with_reducible repeat' (first
    | assumption | dsimp only | apply State.finish_kept)

theorem State.slateOpRuns_kept {i0 : State} (s : State) (seq : Word) (hs : Kept i0 s) :
    Kept i0 (State.slateOpRuns s seq) := by
  rw [State.slateOpRuns]
  with_reducible repeat' (first
    | assumption | dsimp only | apply State.updCmd_kept | simp only [kept_mk] | refine keptMk_of ?_ rfl rfl rfl | intro _)

theorem State.slateOpWait_kept {i0 : State} (s : State) (seq : Word) (i : Nat) (eq : Bool) (v : Word) (hs : Kept i0 s) :
    Kept i0 (State.slateOpWait s seq i eq v) := by
  rw [State.slateOpWait]
  with_reducible repeat' (first
    | assumption | dsimp only | apply State.slateSeen_kept | apply State.slateOpDone_kept | apply State.slateOpRuns_kept
    | simp only [kept_mk] | refine keptMk_of ?_ rfl rfl rfl | refine kept_ite ?_ ?_ | split)

theorem State.slateOp_kept {i0 : State} (s : State) (seq : Word) (c : Cmd) (op : Nat) (hs : Kept i0 s) :
    Kept i0 (State.slateOp s seq c op) := by
  rw [State.slateOp]
  with_reducible repeat' (first
    | assumption | dsimp only | apply State.slateOpRuns_kept | apply State.request_kept | apply State.finishBare_kept
    | apply State.slateOpWait_kept | apply State.slateAsk_kept | apply State.slateOpDone_kept | refine kept_snd ?_ (by assumption)
    | refine kept_fst ?_ (by assumption) | simp only [kept_mk] | refine keptMk_of ?_ rfl rfl rfl | simp only [id_eq] | refine kept_ite ?_ ?_
    | split)

theorem State.slateOpTurn_kept {i0 : State} (s : State) (seq : Word) (op : Nat) (hs : Kept i0 s) :
    Kept i0 (State.slateOpTurn s seq op) := by
  rw [State.slateOpTurn]
  with_reducible repeat' (first
    | assumption | dsimp only | apply State.slateOp_kept | apply State.slateOpDone_kept | simp only [kept_mk]
    | refine keptMk_of ?_ rfl rfl rfl | refine kept_ite ?_ ?_ | split | intro _)

theorem execSlateOpWait_kept {i0 : State} (seq : Word) (s : State) (hs : Kept i0 s) :
    KeptO i0 (execSlateOpWait seq s) := by
  rw [execSlateOpWait]
  with_reducible repeat' (first
    | assumption | dsimp only | apply State.slateOpTurn_kept | apply keptO_next | intro _)

theorem execSlateOpWaiteq_kept {i0 : State} (seq : Word) (s : State) (hs : Kept i0 s) :
    KeptO i0 (execSlateOpWaiteq seq s) := by
  rw [execSlateOpWaiteq]
  with_reducible repeat' (first
    | assumption | dsimp only | apply State.slateOpTurn_kept | apply keptO_next | intro _)

theorem execSlateOpSignal_kept {i0 : State} (seq : Word) (s : State) (hs : Kept i0 s) :
    KeptO i0 (execSlateOpSignal seq s) := by
  rw [execSlateOpSignal]
  with_reducible repeat' (first
    | assumption | dsimp only | apply State.slateOpTurn_kept | apply keptO_next | intro _)

theorem execSlateOpAdd_kept {i0 : State} (seq : Word) (s : State) (hs : Kept i0 s) :
    KeptO i0 (execSlateOpAdd seq s) := by
  rw [execSlateOpAdd]
  with_reducible repeat' (first
    | assumption | dsimp only | apply State.slateOpTurn_kept | apply keptO_next | intro _)

theorem execSlateOpFadd_kept {i0 : State} (seq : Word) (s : State) (hs : Kept i0 s) :
    KeptO i0 (execSlateOpFadd seq s) := by
  rw [execSlateOpFadd]
  with_reducible repeat' (first
    | assumption | dsimp only | apply State.slateOpTurn_kept | apply keptO_next | intro _)

theorem execSlateOpCas_kept {i0 : State} (seq : Word) (s : State) (hs : Kept i0 s) :
    KeptO i0 (execSlateOpCas seq s) := by
  rw [execSlateOpCas]
  with_reducible repeat' (first
    | assumption | dsimp only | apply State.slateOpTurn_kept | apply keptO_next | intro _)

theorem execSlateOpRead_kept {i0 : State} (seq : Word) (s : State) (hs : Kept i0 s) :
    KeptO i0 (execSlateOpRead seq s) := by
  rw [execSlateOpRead]
  with_reducible repeat' (first
    | assumption | dsimp only | apply State.slateOpTurn_kept | apply keptO_next | intro _)

theorem execSlateOpSet_kept {i0 : State} (seq : Word) (s : State) (hs : Kept i0 s) :
    KeptO i0 (execSlateOpSet seq s) := by
  rw [execSlateOpSet]
  with_reducible repeat' (first
    | assumption | dsimp only | apply State.slateOpTurn_kept | apply keptO_next | intro _)

theorem execSlateOpLimit_kept {i0 : State} (seq : Word) (s : State) (hs : Kept i0 s) :
    KeptO i0 (execSlateOpLimit seq s) := by
  rw [execSlateOpLimit]
  with_reducible repeat' (first
    | assumption | dsimp only | apply State.draw_kept | apply State.dropReqs_kept | apply State.slateOpDone_kept
    | refine kept_snd ?_ (by assumption) | refine kept_fst ?_ (by assumption) | apply keptO_next | simp only [kept_mk]
    | refine keptMk_of ?_ rfl rfl rfl | refine keptO_ite ?_ ?_ | split | intro _)

theorem execDmaq_kept {i0 : State} (w : CoreIx) (word : Dword) (s : State) (hs : Kept i0 s) :
    KeptO i0 (execDmaq w word s) := by
  rw [execDmaq]
  with_reducible repeat' (first
    | assumption | dsimp only | apply issue_kept | apply State.endCmd_kept | apply State.coreFault_kept | apply State.queueDesc_kept
    | exact keptOpt_none _ | apply keptOpt_some | apply keptO_next | apply keptOpt_some | exact keptOpt_none _ | simp only [kept_mk]
    | refine keptMk_of ?_ rfl rfl rfl | refine keptO_ite ?_ ?_ | split | intro _)

theorem execPerfrd_kept {i0 : State} (w : CoreIx) (word : Dword) (s : State) (hs : Kept i0 s) :
    KeptO i0 (execPerfrd w word s) := by
  rw [execPerfrd]
  with_reducible repeat' (first
    | assumption | dsimp only | apply issue_kept | apply State.coreFault_kept | apply State.counterNow_kept | apply State.updCore_kept
    | refine kept_snd ?_ (by assumption) | refine kept_fst ?_ (by assumption) | apply keptO_next | apply keptOpt_some | exact keptOpt_none _
    | simp only [kept_mk] | refine keptMk_of ?_ rfl rfl rfl | refine keptO_ite ?_ ?_ | split | intro _)

theorem State.rejectFrame_kept {i0 : State} (s : State) (p reason type : Nat) (h : FrameHdr) (hs : Kept i0 s) :
    Kept i0 (State.rejectFrame s p reason type h) := by
  rw [State.rejectFrame]
  with_reducible repeat' (first
    | assumption | dsimp only | apply State.sendOn_kept | simp only [id_eq])

theorem State.quarantine_kept {i0 : State} (s : State) (p : Nat) (hs : Kept i0 s) :
    Kept i0 (State.quarantine s p) := by
  rw [State.quarantine]
  with_reducible repeat' (first
    | assumption | dsimp only | apply State.setPort_kept | apply State.removePort_kept | apply State.sendFault_kept | simp only [kept_mk]
    | refine keptMk_of ?_ rfl rfl rfl | split)

theorem State.violate_kept {i0 : State} (s : State) (p reason type : Nat) (h : FrameHdr) (hs : Kept i0 s) :
    Kept i0 (State.violate s p reason type h) := by
  rw [State.violate]
  with_reducible repeat' (first
    | assumption | dsimp only | apply State.bump_kept | apply State.updFab_kept | apply State.rejectFrame_kept | apply State.setPort_kept
    | apply State.quarantine_kept | simp only [kept_mk] | refine keptMk_of ?_ rfl rfl rfl | refine kept_ite ?_ ?_ | split | intro _)

theorem State.returnCredit_kept {i0 : State} (s : State) (p type : Nat) (h : FrameHdr) (hs : Kept i0 s) :
    Kept i0 (State.returnCredit s p type h) := by
  rw [State.returnCredit]
  with_reducible repeat' (first
    | assumption | dsimp only | apply State.updPort_kept | apply State.sendOn_kept | simp only [kept_mk] | refine keptMk_of ?_ rfl rfl rfl
    | simp only [id_eq] | refine kept_ite ?_ ?_ | split | intro _)

theorem State.forward_kept {i0 : State} (s : State) (p type : Nat) (h : FrameHdr) (payload : List Byte) (hs : Kept i0 s) :
    Kept i0 (State.forward s p type h payload) := by
  rw [State.forward]
  with_reducible repeat' (first
    | assumption | dsimp only | apply State.violate_kept | apply State.route?_kept | refine KeptOpt.get ?_ (by assumption)
    | exact keptOpt_none _ | simp only [kept_mk] | refine keptMk_of ?_ rfl rfl rfl | refine kept_ite ?_ ?_ | split)

theorem State.arrive_kept {i0 : State} (s : State) (p type : Nat) (h : FrameHdr) (payload : List Byte) (take : State → State) (hs : Kept i0 s) (htake : ∀ z0, Kept i0 z0 → Kept i0 (take z0)) :
    Kept i0 (State.arrive s p type h payload take) := by
  rw [State.arrive]
  with_reducible repeat' (first
    | assumption | dsimp only | apply State.returnCredit_kept | apply State.violate_kept | apply State.forward_kept | apply htake
    | simp only [kept_mk] | refine keptMk_of ?_ rfl rfl rfl | simp only [id_eq] | refine kept_ite ?_ ?_ | split)

theorem State.serveRead_kept {i0 : State} (s : State) (h : FrameHdr) (hs : Kept i0 s) :
    Kept i0 (State.serveRead s h) := by
  rw [State.serveRead]
  with_reducible repeat' (first
    | assumption | dsimp only | apply State.respond_kept | apply State.bump_kept | simp only [kept_mk] | refine keptMk_of ?_ rfl rfl rfl
    | refine kept_ite ?_ ?_ | split)

theorem State.serveWrite_kept {i0 : State} (s : State) (h : FrameHdr) (bs : List Byte) (hs : Kept i0 s) :
    Kept i0 (State.serveWrite s h bs) := by
  rw [State.serveWrite]
  with_reducible repeat' (first
    | assumption | dsimp only | apply State.respond_kept | apply State.writePlace_kept | apply State.bump_kept | simp only [kept_mk]
    | refine keptMk_of ?_ rfl rfl rfl | refine kept_ite ?_ ?_ | split | intro _)

theorem execRdReq_kept {i0 : State} (p : PortIx) (h : FrameHdr) (s : State) (hs : Kept i0 s) :
    KeptO i0 (execRdReq p h s) := by
  rw [execRdReq]
  with_reducible repeat' (first
    | assumption | dsimp only | apply State.arrive_kept | apply State.serveRead_kept | apply keptO_next | intro _)

theorem execWrReq_kept {i0 : State} (p : PortIx) (h : FrameHdr) (data : List Byte) (s : State) (hs : Kept i0 s) :
    KeptO i0 (execWrReq p h data s) := by
  rw [execWrReq]
  with_reducible repeat' (first
    | assumption | dsimp only | apply State.arrive_kept | apply State.serveWrite_kept | apply keptO_next | intro _)

theorem State.reqDone_kept {i0 : State} (s : State) (tag : Nat) (hs : Kept i0 s) :
    Kept i0 (State.reqDone s tag) := by
  rw [State.reqDone]
  with_reducible repeat' (first
    | assumption | dsimp only | apply State.updFab_kept | simp only [kept_mk] | refine keptMk_of ?_ rfl rfl rfl | intro _)

theorem State.poisonDescs_kept {i0 : State} (s : State) (seq : Word) (hs : Kept i0 s) :
    Kept i0 (State.poisonDescs s seq) := by
  rw [State.poisonDescs]
  with_reducible repeat' (first
    | assumption | dsimp only | simp only [kept_mk] | refine keptMk_of ?_ rfl rfl rfl | refine kept_ite ?_ ?_ | split | intro _)

theorem State.reqFailed_kept {i0 : State} (s : State) (r : FabReq) (hs : Kept i0 s) :
    Kept i0 (State.reqFailed s r) := by
  rw [State.reqFailed]
  with_reducible repeat' (first
    | assumption | dsimp only | apply State.reqDone_kept | apply State.endCmd_kept)

theorem execRdRsp_kept {i0 : State} (p : PortIx) (h : FrameHdr) (data : List Byte) (s : State) (hs : Kept i0 s) :
    KeptO i0 (execRdRsp p h data s) := by
  rw [execRdRsp]
  with_reducible repeat' (first
    | assumption | dsimp only | apply State.arrive_kept | apply State.reqDone_kept | apply State.updFab_kept | apply State.poisonDescs_kept
    | apply State.reqFailed_kept | apply keptO_next | simp only [kept_mk] | refine keptMk_of ?_ rfl rfl rfl | refine foldl_kept ?_ _ ?_
    | refine keptO_ite ?_ ?_ | split | intro _)

theorem execWrRsp_kept {i0 : State} (p : PortIx) (h : FrameHdr) (s : State) (hs : Kept i0 s) :
    KeptO i0 (execWrRsp p h s) := by
  rw [execWrRsp]
  with_reducible repeat' (first
    | assumption | dsimp only | apply State.arrive_kept | apply State.reqDone_kept | apply State.writeAnswered_kept
    | apply State.reqFailed_kept | apply keptO_next | simp only [kept_mk] | refine keptMk_of ?_ rfl rfl rfl | refine keptO_ite ?_ ?_ | split
    | intro _)

theorem State.serveSlate_kept {i0 : State} (s : State) (h : FrameHdr) (op : Nat) (v cmp : Word) (hs : Kept i0 s) :
    Kept i0 (State.serveSlate s h op v cmp) := by
  rw [State.serveSlate]
  with_reducible repeat' (first
    | assumption | dsimp only | apply State.slateSeen_kept | apply State.slateRsp_kept | apply State.slateAsk_kept
    | refine kept_snd ?_ (by assumption) | refine kept_fst ?_ (by assumption) | simp only [kept_mk] | refine keptMk_of ?_ rfl rfl rfl
    | refine kept_ite ?_ ?_ | split)

theorem execSlateReq_kept {i0 : State} (p : PortIx) (h : FrameHdr) (op : BitVec 4) (v cmp : Word) (s : State) (hs : Kept i0 s) :
    KeptO i0 (execSlateReq p h op v cmp s) := by
  rw [execSlateReq]
  with_reducible repeat' (first
    | assumption | dsimp only | apply State.arrive_kept | apply State.serveSlate_kept | apply keptO_next | simp only [kept_mk]
    | refine keptMk_of ?_ rfl rfl rfl | intro _)

theorem State.slateAnswer_kept {i0 : State} (s : State) (r : FabReq) (op : Nat) (who : Waiter) (n : Word) (stored : Bool) (hs : Kept i0 s) :
    Kept i0 (State.slateAnswer s r op who n stored) := by
  unfold State.slateAnswer
  with_reducible repeat' (first
    | assumption | dsimp only | apply State.reqDone_kept | apply State.updCore_kept | apply State.slateOpDone_kept | simp only [kept_mk]
    | refine keptMk_of ?_ rfl rfl rfl | refine kept_ite ?_ ?_ | split | intro _)

theorem execSlateRsp_kept {i0 : State} (p : PortIx) (h : FrameHdr) (result : Word) (stored : Bool) (s : State) (hs : Kept i0 s) :
    KeptO i0 (execSlateRsp p h result stored s) := by
  rw [execSlateRsp]
  with_reducible repeat' (first
    | assumption | dsimp only | apply State.arrive_kept | apply State.slateAnswer_kept | apply State.reqFailed_kept | apply keptO_next
    | simp only [kept_mk] | refine keptMk_of ?_ rfl rfl rfl | refine keptO_ite ?_ ?_ | split | intro _)

theorem execSlateCancel_kept {i0 : State} (p : PortIx) (h : FrameHdr) (s : State) (hs : Kept i0 s) :
    KeptO i0 (execSlateCancel p h s) := by
  rw [execSlateCancel]
  with_reducible repeat' (first
    | assumption | dsimp only | apply State.arrive_kept | apply keptO_next | simp only [kept_mk] | refine keptMk_of ?_ rfl rfl rfl | intro _)

theorem execCredit_kept {i0 : State} (p : PortIx) (h : FrameHdr) (n0 n1 n2 : Half) (s : State) (hs : Kept i0 s) :
    KeptO i0 (execCredit p h n0 n1 n2 s) := by
  rw [execCredit]
  with_reducible repeat' (first
    | assumption | dsimp only | apply State.arrive_kept | apply State.updPort_kept | apply State.drainPort_kept | apply keptO_next
    | simp only [kept_mk] | refine keptMk_of ?_ rfl rfl rfl | intro _)

theorem execReject_kept {i0 : State} (p : PortIx) (h : FrameHdr) (reason : Byte) (tag : Half) (type : Byte) (s : State) (hs : Kept i0 s) :
    KeptO i0 (execReject p h reason tag type s) := by
  rw [execReject]
  with_reducible repeat' (first
    | assumption | dsimp only | apply State.arrive_kept | apply State.reqFailed_kept | apply keptO_next | simp only [kept_mk]
    | refine keptMk_of ?_ rfl rfl rfl | refine keptO_ite ?_ ?_ | split | intro _)

theorem execRemoteTimeout_kept {i0 : State} (tag : Half) (s : State) (hs : Kept i0 s) :
    KeptO i0 (execRemoteTimeout tag s) := by
  rw [execRemoteTimeout]
  with_reducible repeat' (first
    | assumption | dsimp only | apply State.reqFailed_kept | apply State.sendFault_kept | apply keptO_next | simp only [kept_mk]
    | refine keptMk_of ?_ rfl rfl rfl | refine keptO_ite ?_ ?_ | split | intro _)

theorem State.trainingDone_kept {i0 : State} (s : State) (hs : Kept i0 s) :
    Kept i0 (State.trainingDone s) := by
  rw [State.trainingDone]
  with_reducible repeat' (first
    | assumption | dsimp only | apply State.elect_kept | apply State.fabricOfOne_kept | refine kept_ite ?_ ?_ | split | intro _)

theorem execPortTrained_kept {i0 : State} (p : PortIx) (lanes : Byte) (s : State) (hs : Kept i0 s) :
    KeptO i0 (execPortTrained p lanes s) := by
  rw [execPortTrained]
  with_reducible repeat' (first
    | assumption | dsimp only | apply State.dropPort_kept | apply State.trainingDone_kept | apply State.draw_kept | apply State.updPort_kept
    | refine kept_snd ?_ (by assumption) | refine kept_fst ?_ (by assumption) | apply keptO_next | simp only [kept_mk]
    | refine keptMk_of ?_ rfl rfl rfl | refine keptO_ite ?_ ?_ | split | intro _)

theorem execPortTrainRetry_kept {i0 : State} (p : PortIx) (s : State) (hs : Kept i0 s) :
    KeptO i0 (execPortTrainRetry p s) := by
  rw [execPortTrainRetry]
  with_reducible repeat' (first
    | assumption | dsimp only | apply State.setPort_kept | apply keptO_next | simp only [kept_mk] | refine keptMk_of ?_ rfl rfl rfl
    | refine keptO_ite ?_ ?_ | split | intro _)

theorem execPortDown_kept {i0 : State} (p : PortIx) (s : State) (hs : Kept i0 s) :
    KeptO i0 (execPortDown p s) := by
  rw [execPortDown]
  with_reducible repeat' (first
    | assumption | dsimp only | apply State.portDown_kept | apply keptO_next | refine keptO_ite ?_ ?_ | split | intro _)

theorem State.askReplay_kept {i0 : State} (s : State) (p : Nat) (hs : Kept i0 s) :
    Kept i0 (State.askReplay s p) := by
  rw [State.askReplay]
  with_reducible repeat' (first
    | assumption | dsimp only | apply State.setPort_kept | apply State.send_kept | simp only [kept_mk] | refine keptMk_of ?_ rfl rfl rfl
    | refine kept_ite ?_ ?_ | split)

theorem State.resend_kept {i0 : State} (s : State) (p : Nat) (hs : Kept i0 s) :
    Kept i0 (State.resend s p) := by
  rw [State.resend]
  with_reducible repeat' (first
    | assumption | dsimp only | apply State.portDown_kept | apply State.setPort_kept | apply State.send_kept | apply State.bump_kept
    | simp only [kept_mk] | refine keptMk_of ?_ rfl rfl rfl | refine foldl_kept ?_ _ ?_ | refine kept_ite ?_ ?_ | split | intro _)

theorem execFlitReceived_kept {i0 : State} (p : PortIx) (seq ack : BitVec 12) (replay idle : Bool) (errs : Byte) (strays : List (BitVec 5 × FrameHdr)) (s : State) (hs : Kept i0 s) :
    KeptO i0 (execFlitReceived p seq ack replay idle errs strays s) := by
  rw [execFlitReceived]
  with_reducible repeat' (first
    | assumption | dsimp only | apply State.askReplay_kept | apply State.setPort_kept | apply State.updPort_kept | apply State.bump_kept
    | apply State.arrive_kept | apply State.resend_kept | apply State.drainPort_kept | apply keptO_next | simp only [kept_mk]
    | refine keptMk_of ?_ rfl rfl rfl | simp only [id_eq] | refine foldl_kept ?_ _ ?_ | refine keptO_ite ?_ ?_ | split | intro _)

theorem State.portDisable_kept {i0 : State} (s : State) (p : Nat) (on : Bool) (hs : Kept i0 s) :
    Kept i0 (State.portDisable s p on) := by
  rw [State.portDisable]
  with_reducible repeat' (first
    | assumption | dsimp only | apply State.setPort_kept | apply State.dropPort_kept | apply State.removePort_kept
    | apply State.updPort_kept | simp only [kept_mk] | refine keptMk_of ?_ rfl rfl rfl | refine kept_ite ?_ ?_ | split | intro _)

theorem State.portRelease_kept {i0 : State} (s : State) (p : Nat) (hs : Kept i0 s) :
    Kept i0 (State.portRelease s p) := by
  rw [State.portRelease]
  with_reducible repeat' (first
    | assumption | dsimp only | apply State.setPort_kept | apply State.linkReport_kept | simp only [kept_mk]
    | refine keptMk_of ?_ rfl rfl rfl | refine kept_ite ?_ ?_ | split)

theorem State.portRetrain_kept {i0 : State} (s : State) (p : Nat) (hs : Kept i0 s) :
    Kept i0 (State.portRetrain s p) := by
  rw [State.portRetrain]
  with_reducible repeat' (first
    | assumption | dsimp only | apply State.portDown_kept | apply State.updPort_kept | simp only [kept_mk] | refine keptMk_of ?_ rfl rfl rfl
    | refine kept_ite ?_ ?_ | split | intro _)

theorem execPortDisable_kept {i0 : State} (p : PortIx) (on : Bool) (s : State) (hs : Kept i0 s) :
    KeptO i0 (execPortDisable p on s) := by
  rw [execPortDisable]
  with_reducible repeat' (first
    | assumption | dsimp only | apply State.portDisable_kept | apply State.barDropped_kept | apply keptO_next | refine keptO_ite ?_ ?_
    | split | intro _)

theorem execPortRelease_kept {i0 : State} (p : PortIx) (s : State) (hs : Kept i0 s) :
    KeptO i0 (execPortRelease p s) := by
  rw [execPortRelease]
  with_reducible repeat' (first
    | assumption | dsimp only | apply State.portRelease_kept | apply State.barDropped_kept | apply keptO_next | refine keptO_ite ?_ ?_
    | split | intro _)

theorem execPortRetrain_kept {i0 : State} (p : PortIx) (s : State) (hs : Kept i0 s) :
    KeptO i0 (execPortRetrain p s) := by
  rw [execPortRetrain]
  with_reducible repeat' (first
    | assumption | dsimp only | apply State.portRetrain_kept | apply State.barDropped_kept | apply keptO_next | refine keptO_ite ?_ ?_
    | split | intro _)

theorem execViolationWindowClose_kept {i0 : State} (p : PortIx) (s : State) (hs : Kept i0 s) :
    KeptO i0 (execViolationWindowClose p s) := by
  rw [execViolationWindowClose]
  with_reducible repeat' (first
    | assumption | dsimp only | apply State.setPort_kept | apply keptO_next | simp only [kept_mk] | refine keptMk_of ?_ rfl rfl rfl
    | refine keptO_ite ?_ ?_ | split | intro _)

theorem State.startDiscovery_kept {i0 : State} (s : State) (hs : Kept i0 s) :
    Kept i0 (State.startDiscovery s) := by
  rw [State.startDiscovery]
  with_reducible repeat' (first
    | assumption | dsimp only | apply State.fabricOfOne_kept | apply State.updFab_kept | apply State.trainingDone_kept | simp only [kept_mk]
    | refine keptMk_of ?_ rfl rfl rfl | refine foldl_kept ?_ _ ?_ | refine kept_ite ?_ ?_ | split | intro _)

theorem execHelloTimer_kept {i0 : State} (s : State) (hs : Kept i0 s) :
    KeptO i0 (execHelloTimer s) := by
  rw [execHelloTimer]
  with_reducible repeat' (first
    | assumption | dsimp only | apply State.sendOn_kept | apply keptO_next | simp only [kept_mk] | refine keptMk_of ?_ rfl rfl rfl
    | simp only [id_eq] | refine foldl_kept ?_ _ ?_ | split | intro _)

theorem State.learn_kept {i0 : State} (s : State) (p : Nat) (d : HelloData) (hs : Kept i0 s) :
    Kept i0 (State.learn s p d) := by
  rw [State.learn]
  with_reducible repeat' (first
    | assumption | dsimp only | apply State.updFab_kept | apply State.elect_kept | simp only [kept_mk] | refine keptMk_of ?_ rfl rfl rfl
    | refine kept_ite ?_ ?_ | split | intro _)

theorem execHello_kept {i0 : State} (p : PortIx) (h : FrameHdr) (d : HelloData) (s : State) (hs : Kept i0 s) :
    KeptO i0 (execHello p h d s) := by
  rw [execHello]
  with_reducible repeat' (first
    | assumption | dsimp only | apply State.arrive_kept | apply State.setPort_kept | apply State.updPort_kept | apply State.removePort_kept
    | apply State.sendFault_kept | apply State.linkReport_kept | apply State.learn_kept | apply keptO_next | simp only [kept_mk]
    | refine keptMk_of ?_ rfl rfl rfl | simp only [id_eq] | refine keptO_ite ?_ ?_ | split | intro _)

theorem execElectionSettle_kept {i0 : State} (s : State) (hs : Kept i0 s) :
    KeptO i0 (execElectionSettle s) := by
  rw [execElectionSettle]
  with_reducible repeat' (first
    | assumption | dsimp only | apply State.fabricOfOne_kept | apply State.updFab_kept | apply State.linkReport_kept | apply keptO_next
    | simp only [kept_mk] | refine keptMk_of ?_ rfl rfl rfl | simp only [id_eq] | refine foldl_kept ?_ _ ?_ | refine keptO_ite ?_ ?_ | split
    | intro _)

theorem execLinkReport_kept {i0 : State} (p : PortIx) (h : FrameHdr) (l : LinkData) (s : State) (hs : Kept i0 s) :
    KeptO i0 (execLinkReport p h l s) := by
  rw [execLinkReport]
  with_reducible repeat' (first
    | assumption | dsimp only | apply State.arrive_kept | apply State.noteLink_kept | apply State.passReport_kept | apply keptO_next
    | refine keptO_ite ?_ ?_ | split | intro _)

theorem State.distribute_kept {i0 : State} (s : State) (own : RouteTable) (i : Nat) (t : RouteTable) (hs : Kept i0 s) :
    Kept i0 (State.distribute s own i t) := by
  rw [State.distribute]
  with_reducible repeat' (first
    | assumption | dsimp only | apply State.sendOn_kept | simp only [kept_mk] | refine keptMk_of ?_ rfl rfl rfl | simp only [id_eq]
    | refine foldl_kept ?_ _ ?_ | split | intro _)

theorem execRouteRecompute_kept {i0 : State} (s : State) (hs : Kept i0 s) :
    KeptO i0 (execRouteRecompute s) := by
  rw [execRouteRecompute]
  with_reducible repeat' (first
    | assumption | dsimp only | apply State.distribute_kept | apply State.install_kept | apply State.endStageD_kept
    | refine keptOpt_bind ?_ _ | apply keptO_next | simp only [kept_mk] | refine keptMk_of ?_ rfl rfl rfl | simp only [id_eq]
    | refine foldl_kept ?_ _ ?_ | refine keptO_ite ?_ ?_ | split | intro _)

theorem execAssign_kept {i0 : State} (p : PortIx) (h : FrameHdr) (id : BitVec 12) (epoch : Word) (s : State) (hs : Kept i0 s) :
    KeptO i0 (execAssign p h id epoch s) := by
  rw [execAssign]
  with_reducible repeat' (first
    | assumption | dsimp only | apply State.arrive_kept | apply State.updFab_kept | apply keptO_next | simp only [kept_mk]
    | refine keptMk_of ?_ rfl rfl rfl | simp only [id_eq] | refine keptO_ite ?_ ?_ | split | intro _)

theorem execTable_kept {i0 : State} (p : PortIx) (h : FrameHdr) (entries : List RouteData) (s : State) (hs : Kept i0 s) :
    KeptO i0 (execTable p h entries s) := by
  rw [execTable]
  with_reducible repeat' (first
    | assumption | dsimp only | apply State.arrive_kept | apply State.updFab_kept | apply keptO_next | simp only [kept_mk]
    | refine keptMk_of ?_ rfl rfl rfl | refine foldl_kept ?_ _ ?_ | refine keptO_ite ?_ ?_ | split | intro _)

theorem execCommit_kept {i0 : State} (p : PortIx) (h : FrameHdr) (epoch : Word) (s : State) (hs : Kept i0 s) :
    KeptO i0 (execCommit p h epoch s) := by
  rw [execCommit]
  with_reducible repeat' (first
    | assumption | dsimp only | apply State.arrive_kept | apply State.updFab_kept | apply State.install_kept | apply State.sendFrame_kept
    | apply State.endStageD_kept | apply keptO_next | simp only [kept_mk] | refine keptMk_of ?_ rfl rfl rfl | simp only [id_eq]
    | refine keptO_ite ?_ ?_ | split | intro _)

theorem execDiscoveryTimeout_kept {i0 : State} (s : State) (hs : Kept i0 s) :
    KeptO i0 (execDiscoveryTimeout s) := by
  rw [execDiscoveryTimeout]
  with_reducible repeat' (first
    | assumption | dsimp only | apply State.updFab_kept | apply State.endStageD_kept | apply keptO_next | simp only [kept_mk]
    | refine keptMk_of ?_ rfl rfl rfl | refine keptO_ite ?_ ?_ | split | intro _)

theorem execTableRetire_kept {i0 : State} (s : State) (hs : Kept i0 s) :
    KeptO i0 (execTableRetire s) := by
  rw [execTableRetire]
  with_reducible repeat' (first
    | assumption | dsimp only | apply State.updFab_kept | apply keptO_next | simp only [kept_mk] | refine keptMk_of ?_ rfl rfl rfl
    | refine keptO_ite ?_ ?_ | split | intro _)

theorem execCablePresence_kept {i0 : State} (p : PortIx) (present : Bool) (s : State) (hs : Kept i0 s) :
    KeptO i0 (execCablePresence p present s) := by
  rw [execCablePresence]
  with_reducible repeat' (first
    | assumption | dsimp only | apply State.updPort_kept | apply State.portDown_kept | apply State.dropPort_kept
    | apply State.trainingDone_kept | apply keptO_next | simp only [kept_mk] | refine keptMk_of ?_ rfl rfl rfl | refine keptO_ite ?_ ?_
    | split | intro _)

theorem execFault_kept {i0 : State} (p : PortIx) (h : FrameHdr) (key : FaultKey) (s : State) (hs : Kept i0 s) :
    KeptO i0 (execFault p h key s) := by
  rw [execFault]
  with_reducible repeat' (first
    | assumption | dsimp only | apply State.arrive_kept | apply State.violate_kept | apply State.coalesce_kept | apply State.tallyFault_kept
    | apply keptO_next | simp only [kept_mk] | refine keptMk_of ?_ rfl rfl rfl | simp only [id_eq] | refine keptO_ite ?_ ?_ | split
    | intro _)

theorem execTally_kept {i0 : State} (p : PortIx) (h : FrameHdr) (key : FaultKey) (count : Word) (s : State) (hs : Kept i0 s) :
    KeptO i0 (execTally p h key count s) := by
  rw [execTally]
  with_reducible repeat' (first
    | assumption | dsimp only | apply State.arrive_kept | apply State.updFab_kept | apply keptO_next | simp only [kept_mk]
    | refine keptMk_of ?_ rfl rfl rfl | refine keptO_ite ?_ ?_ | split | intro _)

theorem execFaultCoalesceClose_kept {i0 : State} (key : FaultKey) (s : State) (hs : Kept i0 s) :
    KeptO i0 (execFaultCoalesceClose key s) := by
  rw [execFaultCoalesceClose]
  with_reducible repeat' (first
    | assumption | dsimp only | apply State.updFab_kept | apply State.toCoord_kept | apply keptO_next | simp only [kept_mk]
    | refine keptMk_of ?_ rfl rfl rfl | simp only [id_eq] | refine keptO_ite ?_ ?_ | split | intro _)

end Sys2Proof.Machine
end

