-- ==== Sys2Proof/Laws/KeptManagers.lean ====
section
/-! SUPPORT. Kept by the memory manager, the scheduling pass and faults: the queue and the form of the memories. -/

namespace Sys2Proof.Machine

theorem moveCells_wf (src : Mem) {dst : Mem} (a b n : Nat) (h : dst.wf = true) : (moveCells src dst a b n).wf = true :=
  foldl_write_wf _ (Mem.clearN_wf _ _ h)

theorem State.moveBytes_kept {i0 : State} (s : State) (m : Migration) (hs : Kept i0 s) :
    Kept i0 (State.moveBytes s m) := by
  rw [State.moveBytes]
  with_reducible repeat' (first
    | assumption | dsimp only | apply State.bump_kept | apply State.carryDies_kept | apply State.perturb_kept | apply State.send_kept
    | simp only [kept_mk] | refine keptMk_of ?_ rfl rfl rfl | refine keptMk_wf ?_ ?_ ?_ ?_ | apply Mem.writeN_wf | apply Mem.clearN_wf
    | apply Mem.filter_wf | apply foldl_write_wf | apply moveCells_wf | refine foldl_kept ?_ _ ?_ | refine foldl_kept_snd ?_ _ ?_
    | refine foldl_kept_fst ?_ _ ?_ | refine kept_ite ?_ ?_ | split | intro _)

theorem State.releaseMoved_kept {i0 : State} (s : State) (m : Migration) (hs : Kept i0 s) :
    Kept i0 (State.releaseMoved s m) := by
  rw [State.releaseMoved]
  with_reducible repeat' (first
    | assumption | dsimp only | apply State.hbmWrite_kept | apply State.respond_kept | simp only [kept_mk] | refine keptMk_of ?_ rfl rfl rfl
    | refine keptMk_wf ?_ ?_ ?_ ?_ | apply Mem.writeN_wf | apply Mem.clearN_wf | apply Mem.filter_wf | apply foldl_write_wf
    | refine foldl_kept ?_ _ ?_ | refine kept_ite ?_ ?_ | split | intro _)

theorem State.renamePage_kept {i0 : State} (s : State) (m : Migration) (hs : Kept i0 s) :
    Kept i0 (State.renamePage s m) := by
  rw [State.renamePage]
  with_reducible repeat' (first
    | assumption | dsimp only | simp only [kept_mk] | refine keptMk_of ?_ rfl rfl rfl | refine kept_ite ?_ ?_ | split | intro _)

theorem State.hintMoved_kept {i0 : State} (s : State) (seq : Word) (hs : Kept i0 s) :
    Kept i0 (State.hintMoved s seq) := by
  rw [State.hintMoved]
  with_reducible repeat' (first
    | assumption | dsimp only | apply State.finish_kept | simp only [kept_mk] | refine keptMk_of ?_ rfl rfl rfl | refine kept_ite ?_ ?_
    | split | intro _)

theorem State.migrated_kept {i0 : State} (s : State) (m : Migration) (hs : Kept i0 s) :
    Kept i0 (State.migrated s m) := by
  rw [State.migrated]
  with_reducible repeat' (first
    | assumption | dsimp only | apply State.moveBytes_kept | apply State.bump_kept | apply State.settleCopy_kept
    | apply State.renamePage_kept | apply State.releaseMoved_kept | apply State.returnPage_kept | apply State.freeSwap_kept
    | apply State.freeIfZero_kept | apply State.hintMoved_kept | refine kept_snd ?_ (by assumption) | refine kept_fst ?_ (by assumption)
    | simp only [kept_mk] | refine keptMk_of ?_ rfl rfl rfl | refine kept_ite ?_ ?_ | split)

theorem execSwapOutPageDone_kept {i0 : State} (n : Half) (s : State) (hs : Kept i0 s) :
    KeptO i0 (execSwapOutPageDone n s) := by
  rw [execSwapOutPageDone]
  with_reducible repeat' (first
    | assumption | dsimp only | apply State.migrated_kept | apply State.serveBoundaries_kept | apply keptO_next | simp only [kept_mk]
    | refine keptMk_of ?_ rfl rfl rfl | split | intro _)

theorem State.beginMove_kept {i0 : State} (s : State) (m : Migration) (hs : Kept i0 s) :
    Kept i0 (State.beginMove s m) := by
  rw [State.beginMove]
  with_reducible repeat' (first
    | assumption | dsimp only | simp only [kept_mk] | refine keptMk_of ?_ rfl rfl rfl | refine kept_ite ?_ ?_ | split | intro _)

theorem State.hintMoves_kept {i0 : State} (s : State) (seq : Word) (cls tier : Nat) (pin : Bool) (y0 : List Leaf) (hs : Kept i0 s) :
    KeptOpt i0 (State.hintMoves s seq cls tier pin y0) := by
  induction y0 generalizing s seq cls tier pin with
  | nil =>
    simp only [State.hintMoves]
    first | exact hs | exact keptOpt_some hs | exact keptP_some hs | exact keptE_ok hs | trivial
  | cons x r ih =>
    rw [State.hintMoves]
    with_reducible repeat' (first
      | assumption | apply ih | dsimp only | apply State.drawPage_kept | apply State.beginMove_kept | apply State.takeSwap_kept
      | refine KeptP.get ?_ (by assumption) | apply keptOpt_some | exact keptOpt_none _ | simp only [kept_mk]
      | refine keptMk_of ?_ rfl rfl rfl | refine keptOpt_ite ?_ ?_ | split | intro _)

theorem State.migrateHint_kept {i0 : State} (s : State) (seq : Word) (c : Cmd) (hs : Kept i0 s) :
    Kept i0 (State.migrateHint s seq c) := by
  rw [State.migrateHint]
  with_reducible repeat' (first
    | assumption | dsimp only | apply State.hintMoves_kept | apply State.finishBare_kept | apply State.finish_kept | apply State.updCmd_kept
    | refine KeptOpt.get ?_ (by assumption) | exact keptOpt_none _ | simp only [kept_mk] | refine keptMk_of ?_ rfl rfl rfl
    | refine foldl_kept ?_ _ ?_ | refine kept_ite ?_ ?_ | split | intro _)

theorem execMigrateHint_kept {i0 : State} (seq : Word) (s : State) (hs : Kept i0 s) :
    KeptO i0 (execMigrateHint seq s) := by
  rw [execMigrateHint]
  with_reducible repeat' (first
    | assumption | dsimp only | apply State.finishBare_kept | apply State.refuseOwn_kept | apply State.migrateHint_kept | apply keptO_next
    | simp only [kept_mk] | refine keptMk_of ?_ rfl rfl rfl | refine keptO_ite ?_ ?_ | split | intro _)

theorem State.demote_kept {i0 : State} (s : State) (high : Nat) (y0 : Nat) (y1 : List Leaf) (hs : Kept i0 s) :
    Kept i0 (State.demote s high y0 y1) := by
  induction y1 generalizing s high y0 with
  | nil =>
    simp only [State.demote]
    first | exact hs | exact keptOpt_some hs | exact keptP_some hs | exact keptE_ok hs | trivial
  | cons x r ih =>
    rw [State.demote]
    with_reducible repeat' (first
      | assumption | apply ih | dsimp only | apply State.takeSwap_kept | apply State.beginMove_kept | simp only [kept_mk]
      | refine keptMk_of ?_ rfl rfl rfl | refine kept_ite ?_ ?_ | split)

theorem execDemotion_kept {i0 : State} (s : State) (hs : Kept i0 s) :
    KeptO i0 (execDemotion s) := by
  rw [execDemotion]
  with_reducible repeat' (first
    | assumption | dsimp only | apply State.demote_kept | apply keptO_next | refine keptO_ite ?_ ?_ | split | intro _)

theorem State.addLeaves_kept {i0 : State} (s : State) (o : MapOp) (loc fabric : Nat) (addrs : List Nat) (drawn : Option Nat) (hs : Kept i0 s) :
    Kept i0 (State.addLeaves s o loc fabric addrs drawn) := by
  rw [State.addLeaves]
  with_reducible repeat' (first
    | assumption | dsimp only | simp only [kept_mk] | refine keptMk_of ?_ rfl rfl rfl | refine foldl_kept ?_ _ ?_ | intro _)

theorem State.mapApply_kept {i0 : State} (s : State) (o : MapOp) (hs : Kept i0 s) :
    Kept i0 (State.mapApply s o).1 := by
  rw [State.mapApply]
  with_reducible repeat' (first
    | assumption | dsimp only | apply State.drawPages_kept | apply State.addLeaves_kept | refine KeptP.get ?_ (by assumption)
    | apply keptOpt_some | exact keptOpt_none _ | simp only [kept_mk] | refine keptMk_of ?_ rfl rfl rfl | split | intro _)

theorem State.mapRegs_kept {i0 : State} (s : State) (f : MemRegs → MemRegs) (hs : Kept i0 s) :
    Kept i0 (State.mapRegs s f) := by
  rw [State.mapRegs]
  with_reducible repeat' (first
    | assumption | dsimp only | apply hf | simp only [kept_mk] | refine keptMk_of ?_ rfl rfl rfl)

theorem State.mapRun_kept {i0 : State} (s : State) (o : MapOp) (hs : Kept i0 s) :
    Kept i0 (State.mapRun s o) := by
  rw [State.mapRun]
  with_reducible repeat' (first
    | assumption | dsimp only | apply State.mapRegs_kept | apply State.mapApply_kept | refine kept_snd ?_ (by assumption)
    | refine kept_fst ?_ (by assumption) | simp only [kept_mk] | refine keptMk_of ?_ rfl rfl rfl | refine kept_ite ?_ ?_ | split | intro _)

theorem State.mapCtl_kept {i0 : State} (s : State) (v : Nat) (hs : Kept i0 s) :
    Kept i0 (State.mapCtl s v) := by
  rw [State.mapCtl]
  with_reducible repeat' (first
    | assumption | dsimp only | apply State.mapRegs_kept | apply State.mapRun_kept | simp only [kept_mk] | refine keptMk_of ?_ rfl rfl rfl
    | refine kept_ite ?_ ?_ | split | intro _)

theorem State.mapGo_kept {i0 : State} (s : State) (op : Nat) (count : BitVec 24) (hs : Kept i0 s) :
    Kept i0 (State.mapGo s op count) := by
  rw [State.mapGo]
  with_reducible repeat' (first
    | assumption | dsimp only | apply State.mapCtl_kept | apply State.barDropped_kept | refine kept_ite ?_ ?_ | split)

theorem execAlloc_kept {i0 : State} (count : BitVec 24) (s : State) (hs : Kept i0 s) :
    KeptO i0 (execAlloc count s) := by
  rw [execAlloc]
  with_reducible repeat' (first
    | assumption | dsimp only | apply State.mapGo_kept | apply keptO_next | intro _)

theorem execMap_kept {i0 : State} (count : BitVec 24) (s : State) (hs : Kept i0 s) :
    KeptO i0 (execMap count s) := by
  rw [execMap]
  with_reducible repeat' (first
    | assumption | dsimp only | apply State.mapGo_kept | apply keptO_next | intro _)

theorem execUnmap_kept {i0 : State} (count : BitVec 24) (s : State) (hs : Kept i0 s) :
    KeptO i0 (execUnmap count s) := by
  rw [execUnmap]
  with_reducible repeat' (first
    | assumption | dsimp only | apply State.mapGo_kept | apply keptO_next | intro _)

theorem execProtect_kept {i0 : State} (count : BitVec 24) (s : State) (hs : Kept i0 s) :
    KeptO i0 (execProtect count s) := by
  rw [execProtect]
  with_reducible repeat' (first
    | assumption | dsimp only | apply State.mapGo_kept | apply keptO_next | intro _)

theorem execPin_kept {i0 : State} (count : BitVec 24) (s : State) (hs : Kept i0 s) :
    KeptO i0 (execPin count s) := by
  rw [execPin]
  with_reducible repeat' (first
    | assumption | dsimp only | apply State.mapGo_kept | apply keptO_next | intro _)

theorem execMapDrainDone_kept {i0 : State} (s : State) (hs : Kept i0 s) :
    KeptO i0 (execMapDrainDone s) := by
  rw [execMapDrainDone]
  with_reducible repeat' (first
    | assumption | dsimp only | apply State.freePage_kept | apply State.mapRegs_kept | apply keptO_next | simp only [kept_mk]
    | refine keptMk_of ?_ rfl rfl rfl | refine foldl_kept ?_ _ ?_ | refine keptO_ite ?_ ?_ | split | intro _)

theorem execMigrationCopyDone_kept {i0 : State} (n : Half) (s : State) (hs : Kept i0 s) :
    KeptO i0 (execMigrationCopyDone n s) := by
  rw [execMigrationCopyDone]
  with_reducible repeat' (first
    | assumption | dsimp only | apply State.migrated_kept | apply State.mapRun_kept | apply State.serveBoundaries_kept | apply keptO_next
    | simp only [kept_mk] | refine keptMk_of ?_ rfl rfl rfl | refine keptO_ite ?_ ?_ | split | intro _)

theorem execRetentionEntry_kept {i0 : State} (kind : BitVec 2) (unit : Half) (bank : Byte) (s : State) (hs : Kept i0 s) :
    KeptO i0 (execRetentionEntry kind unit bank s) := by
  rw [execRetentionEntry]
  with_reducible repeat' (first
    | assumption | dsimp only | apply keptO_next | simp only [kept_mk] | refine keptMk_of ?_ rfl rfl rfl | refine keptO_ite ?_ ?_ | split
    | intro _)

theorem State.dispatchStages_kept {i0 : State} (s : State) (hs : Kept i0 s) :
    Kept i0 (State.dispatchStages s) := by
  rw [State.dispatchStages]
  with_reducible repeat' (first
    | assumption | dsimp only | apply State.dispatchStage_kept | simp only [kept_mk] | refine keptMk_of ?_ rfl rfl rfl
    | refine foldl_kept ?_ _ ?_ | split | intro _)

theorem execBankWake_kept {i0 : State} (kind : BitVec 2) (unit : Half) (bank : Byte) (s : State) (hs : Kept i0 s) :
    KeptO i0 (execBankWake kind unit bank s) := by
  rw [execBankWake]
  with_reducible repeat' (first
    | assumption | dsimp only | apply State.wakeBank_kept | apply State.dispatchStages_kept | apply keptO_next | intro _)

theorem State.mapOutBank_kept {i0 : State} (s : State) (n b : Nat) (hs : Kept i0 s) :
    Kept i0 (State.mapOutBank s n b) := by
  rw [State.mapOutBank]
  with_reducible repeat' (first
    | assumption | dsimp only | simp only [kept_mk] | refine keptMk_of ?_ rfl rfl rfl | refine kept_ite ?_ ?_ | split)

theorem State.bankFailed_kept {i0 : State} (s : State) (f : BankFail) (hs : Kept i0 s) :
    Kept i0 (State.bankFailed s f) := by
  rw [State.bankFailed]
  with_reducible repeat' (first
    | assumption | dsimp only | apply State.mapOutBank_kept | apply State.report_kept | refine kept_ite ?_ ?_ | split)

theorem State.marchCtl_kept {i0 : State} (s : State) (v : Nat) (hs : Kept i0 s) :
    Kept i0 (State.marchCtl s v) := by
  rw [State.marchCtl]
  with_reducible repeat' (first
    | assumption | dsimp only | apply State.mapRegs_kept | apply State.wakeBank_kept | simp only [kept_mk] | refine keptMk_of ?_ rfl rfl rfl
    | refine foldl_kept ?_ _ ?_ | refine kept_ite ?_ ?_ | split | intro _)

theorem execMarchTestStart_kept {i0 : State} (ctl : Word) (s : State) (hs : Kept i0 s) :
    KeptO i0 (execMarchTestStart ctl s) := by
  rw [execMarchTestStart]
  with_reducible repeat' (first
    | assumption | dsimp only | apply State.marchCtl_kept | apply State.barDropped_kept | apply keptO_next | refine keptO_ite ?_ ?_ | split
    | intro _)

theorem State.clearBank_kept {i0 : State} (s : State) (b : Nat × Nat × Nat) (hs : Kept i0 s) :
    Kept i0 (State.clearBank s b) := by
  rw [State.clearBank]
  with_reducible repeat' (first
    | assumption | dsimp only | simp only [kept_mk] | refine keptMk_of ?_ rfl rfl rfl | refine keptMk_wf ?_ ?_ ?_ ?_ | apply Mem.writeN_wf
    | apply Mem.clearN_wf | apply Mem.filter_wf | apply foldl_write_wf | split | intro _)

theorem execMarchTestDone_kept {i0 : State} (fails : List SramFail) (s : State) (hs : Kept i0 s) :
    KeptO i0 (execMarchTestDone fails s) := by
  rw [execMarchTestDone]
  with_reducible repeat' (first
    | assumption | dsimp only | apply State.clearBank_kept | apply State.bankFailed_kept | apply State.mapRegs_kept | apply keptO_next
    | simp only [kept_mk] | refine keptMk_of ?_ rfl rfl rfl | refine foldl_kept ?_ _ ?_ | refine keptO_ite ?_ ?_ | split | intro _)

theorem execBgTestRegion_kept {i0 : State} (failed : Bool) (word : Half) (s : State) (hs : Kept i0 s) :
    KeptO i0 (execBgTestRegion failed word s) := by
  rw [execBgTestRegion]
  with_reducible repeat' (first
    | assumption | dsimp only | apply State.wakeBank_kept | apply State.mapRegs_kept | apply State.bankFailed_kept | apply keptO_next
    | simp only [kept_mk] | refine keptMk_of ?_ rfl rfl rfl | refine keptO_ite ?_ ?_ | split | intro _)

theorem State.makeRoom_kept {i0 : State} (s : State) (seq : Word) (k : KernelEnt) (cls : Nat) (hs : Kept i0 s) :
    Kept i0 (State.makeRoom s seq k cls) := by
  rw [State.makeRoom]
  with_reducible repeat' (first
    | assumption | dsimp only | apply State.setKern_kept | apply State.preempt_kept | simp only [kept_mk] | refine keptMk_of ?_ rfl rfl rfl
    | refine foldl_kept ?_ _ ?_ | split | intro _)

theorem State.placeLayer_kept {i0 : State} (s : State) (seq : Word) (c : Cmd) (l : Nat) (hs : Kept i0 s) :
    Kept i0 (State.placeLayer s seq c l).1 := by
  rw [State.placeLayer]
  with_reducible repeat' (first
    | assumption | dsimp only | apply State.placeKernel_kept | apply State.makeRoom_kept | simp only [kept_mk]
    | refine keptMk_of ?_ rfl rfl rfl | split | intro _)

theorem State.moreLayers_kept {i0 : State} (s : State) (seq : Word) (hs : Kept i0 s) :
    Kept i0 (State.moreLayers s seq) := by
  rw [State.moreLayers]
  with_reducible repeat' (first
    | assumption | dsimp only | apply State.endCmd_kept | apply State.placeLayer_kept | apply State.startStep_kept
    | apply State.reachStage_kept | refine kept_snd ?_ (by assumption) | refine kept_fst ?_ (by assumption) | simp only [kept_mk]
    | refine keptMk_of ?_ rfl rfl rfl | refine foldl_kept ?_ _ ?_ | refine foldl_kept_snd ?_ _ ?_ | refine foldl_kept_fst ?_ _ ?_
    | refine kept_ite ?_ ?_ | split | intro _)

theorem State.beginTake_kept {i0 : State} (s : State) (tok t : Nat) (hs : Kept i0 s) :
    Kept i0 (State.beginTake s tok t) := by
  rw [State.beginTake]
  with_reducible repeat' (first
    | assumption | dsimp only | apply State.setTake_kept | simp only [kept_mk] | refine keptMk_of ?_ rfl rfl rfl | refine kept_ite ?_ ?_
    | split)

theorem State.beginWork_kept {i0 : State} (s : State) (seq : Word) (hs : Kept i0 s) :
    Kept i0 (State.beginWork s seq) := by
  rw [State.beginWork]
  with_reducible repeat' (first
    | assumption | dsimp only | apply State.beginPiece_kept | apply State.askBoundary_kept | apply State.serveBoundaries_kept
    | apply State.startSamples_kept | apply State.reachStage_kept | apply State.moreLayers_kept | simp only [kept_mk]
    | refine keptMk_of ?_ rfl rfl rfl | refine kept_ite ?_ ?_ | split)

theorem State.dispatch_kept {i0 : State} (s : State) (seq : Word) (c : Cmd) (pieces : List Piece) (takes : List Nat) (hs : Kept i0 s) :
    Kept i0 (State.dispatch s seq c pieces takes) := by
  rw [State.dispatch]
  with_reducible repeat' (first
    | assumption | dsimp only | apply State.placeLayer_kept | apply State.updCmd_kept | apply State.beginTake_kept
    | apply State.beginWork_kept | refine kept_snd ?_ (by assumption) | refine kept_fst ?_ (by assumption) | simp only [kept_mk]
    | refine keptMk_of ?_ rfl rfl rfl | refine foldl_kept ?_ _ ?_ | refine foldl_kept_snd ?_ _ ?_ | refine foldl_kept_fst ?_ _ ?_
    | refine kept_ite ?_ ?_ | split | intro _)

theorem State.tryCommand_kept {i0 : State} (s : State) (seq : Word) (hs : Kept i0 s) :
    Kept i0 (State.tryCommand s seq) := by
  rw [State.tryCommand]
  with_reducible repeat' (first
    | assumption | dsimp only | apply State.moreLayers_kept | apply State.refuse_kept | apply State.dispatch_kept | simp only [kept_mk]
    | refine keptMk_of ?_ rfl rfl rfl | refine kept_ite ?_ ?_ | split)

theorem execRunKernel_kept {i0 : State} (seq : Word) (s : State) (hs : Kept i0 s) :
    KeptO i0 (execRunKernel seq s) := by
  rw [execRunKernel]
  with_reducible repeat' (first
    | assumption | dsimp only | apply State.tryCommand_kept | apply keptO_next | simp only [kept_mk] | refine keptMk_of ?_ rfl rfl rfl
    | split | intro _)

theorem execRunGraph_kept {i0 : State} (seq : Word) (s : State) (hs : Kept i0 s) :
    KeptO i0 (execRunGraph seq s) := by
  rw [execRunGraph]
  with_reducible repeat' (first
    | assumption | dsimp only | apply State.tryCommand_kept | apply keptO_next | simp only [kept_mk] | refine keptMk_of ?_ rfl rfl rfl
    | split | intro _)

theorem execAdvanceTakes_kept {i0 : State} (seq : Word) (s : State) (hs : Kept i0 s) :
    KeptO i0 (execAdvanceTakes seq s) := by
  rw [execAdvanceTakes]
  with_reducible repeat' (first
    | assumption | dsimp only | apply State.tryCommand_kept | apply keptO_next | simp only [kept_mk] | refine keptMk_of ?_ rfl rfl rfl
    | split | intro _)

theorem State.tryResume_kept {i0 : State} (s : State) (seq : Word) (layer : Nat) (hs : Kept i0 s) :
    Kept i0 (State.tryResume s seq layer) := by
  rw [State.tryResume]
  with_reducible repeat' (first
    | assumption | dsimp only | apply State.resumeKernel_kept | simp only [kept_mk] | refine keptMk_of ?_ rfl rfl rfl
    | refine kept_ite ?_ ?_ | split | intro _)

theorem execSchedulingPass_kept {i0 : State} (s : State) (hs : Kept i0 s) :
    KeptO i0 (execSchedulingPass s) := by
  rw [execSchedulingPass]
  with_reducible repeat' (first
    | assumption | dsimp only | apply State.bringWanted_kept | apply State.tryResume_kept | apply State.tryCommand_kept | apply keptO_next
    | simp only [kept_mk] | refine keptMk_of ?_ rfl rfl rfl | refine foldl_kept ?_ _ ?_ | split | intro _)

theorem execHoldLimitExpiry_kept {i0 : State} (seq : Word) (s : State) (hs : Kept i0 s) :
    KeptO i0 (execHoldLimitExpiry seq s) := by
  rw [execHoldLimitExpiry]
  with_reducible repeat' (first
    | assumption | dsimp only | apply State.setCmd_kept | apply keptO_next | simp only [kept_mk] | refine keptMk_of ?_ rfl rfl rfl
    | refine keptO_ite ?_ ?_ | split | intro _)

theorem execQuantumExpiry_kept {i0 : State} (seq : Word) (s : State) (hs : Kept i0 s) :
    KeptO i0 (execQuantumExpiry seq s) := by
  rw [execQuantumExpiry]
  with_reducible repeat' (first
    | assumption | dsimp only | apply State.preempt_kept | apply State.bump_kept | apply keptO_next | simp only [kept_mk]
    | refine keptMk_of ?_ rfl rfl rfl | refine keptO_ite ?_ ?_ | split | intro _)

theorem State.dropRows_kept {i0 : State} (s : State) (k : Kern) (hs : Kept i0 s) :
    Kept i0 (State.dropRows s k) := by
  rw [State.dropRows]
  with_reducible repeat' (first
    | assumption | dsimp only | apply State.updCore_kept | simp only [kept_mk] | refine keptMk_of ?_ rfl rfl rfl | refine foldl_kept ?_ _ ?_
    | refine kept_ite ?_ ?_ | split | intro _)

theorem execSaveComplete_kept {i0 : State} (seq : Word) (layer : Half) (s : State) (hs : Kept i0 s) :
    KeptO i0 (execSaveComplete seq layer s) := by
  rw [execSaveComplete]
  with_reducible repeat' (first
    | assumption | dsimp only | apply State.stopEngines_kept | apply State.saveReels_kept | apply State.dropRows_kept
    | apply State.saveKernel_kept | apply keptO_next | simp only [kept_mk] | refine keptMk_of ?_ rfl rfl rfl | refine keptO_ite ?_ ?_
    | split | intro _)

theorem execRestoreComplete_kept {i0 : State} (seq : Word) (layer : Half) (s : State) (hs : Kept i0 s) :
    KeptO i0 (execRestoreComplete seq layer s) := by
  rw [execRestoreComplete]
  with_reducible repeat' (first
    | assumption | dsimp only | apply State.clearRows_kept | apply State.restoreKernel_kept | apply State.restoreReels_kept
    | apply State.startQueue_kept | apply State.setKern_kept | apply State.dispatchStage_kept | apply keptO_next | simp only [kept_mk]
    | refine keptMk_of ?_ rfl rfl rfl | refine foldl_kept ?_ _ ?_ | refine keptO_ite ?_ ?_ | split | intro _)

theorem State.freeKernel_kept {i0 : State} (s : State) (k : Kern) (hs : Kept i0 s) :
    Kept i0 (State.freeKernel s k) := by
  rw [State.freeKernel]
  with_reducible repeat' (first
    | assumption | dsimp only | simp only [kept_mk] | refine keptMk_of ?_ rfl rfl rfl | refine kept_ite ?_ ?_ | split | intro _)

theorem State.dropTiles_kept {i0 : State} (s : State) (seq : Word) (hs : Kept i0 s) :
    Kept i0 (State.dropTiles s seq) := by
  rw [State.dropTiles]
  with_reducible repeat' (first
    | assumption | dsimp only | simp only [kept_mk] | refine keptMk_of ?_ rfl rfl rfl | intro _)

theorem State.pieceOver_kept {i0 : State} (s : State) (seq : Word) (c : Cmd) (hs : Kept i0 s) :
    Kept i0 (State.pieceOver s seq c) := by
  rw [State.pieceOver]
  with_reducible repeat' (first
    | assumption | dsimp only | apply State.dropTiles_kept | apply State.updCmd_kept | apply State.finishRun_kept | simp only [kept_mk]
    | refine keptMk_of ?_ rfl rfl rfl | refine kept_ite ?_ ?_ | split | intro _)

theorem execKernelComplete_kept {i0 : State} (seq : Word) (layer : Half) (s : State) (hs : Kept i0 s) :
    KeptO i0 (execKernelComplete seq layer s) := by
  rw [execKernelComplete]
  with_reducible repeat' (first
    | assumption | dsimp only | apply State.finishElems_kept | apply State.countTiles_kept | apply State.freeKernel_kept
    | apply State.updCmd_kept | apply State.pieceOver_kept | apply State.setKern_kept | apply keptO_next | simp only [kept_mk]
    | refine keptMk_of ?_ rfl rfl rfl | refine keptO_ite ?_ ?_ | split | intro _)

theorem State.restartCores_kept {i0 : State} (s : State) (k : Kern) (hs : Kept i0 s) :
    Kept i0 (State.restartCores s k) := by
  rw [State.restartCores]
  with_reducible repeat' (first
    | assumption | dsimp only | apply State.updCore_kept | simp only [kept_mk] | refine keptMk_of ?_ rfl rfl rfl | refine foldl_kept ?_ _ ?_
    | intro _)

theorem State.nextPiece_kept {i0 : State} (s : State) (seq : Word) (i : Nat) (hs : Kept i0 s) :
    Kept i0 (State.nextPiece s seq i) := by
  rw [State.nextPiece]
  with_reducible repeat' (first
    | assumption | dsimp only | apply State.beginPiece_kept | apply State.updCmd_kept | apply State.moreLayers_kept
    | apply State.restartCores_kept | apply State.bump_kept | apply State.reachStage_kept | simp only [kept_mk]
    | refine keptMk_of ?_ rfl rfl rfl | refine kept_ite ?_ ?_ | split | intro _)

theorem execPieceDispatch_kept {i0 : State} (seq : Word) (s : State) (hs : Kept i0 s) :
    KeptO i0 (execPieceDispatch seq s) := by
  rw [execPieceDispatch]
  with_reducible repeat' (first
    | assumption | dsimp only | apply State.nextPiece_kept | apply keptO_next | simp only [kept_mk] | refine keptMk_of ?_ rfl rfl rfl
    | refine keptO_ite ?_ ?_ | split | intro _)

theorem execSliceStart_kept {i0 : State} (seq : Word) (s : State) (hs : Kept i0 s) :
    KeptO i0 (execSliceStart seq s) := by
  rw [execSliceStart]
  with_reducible repeat' (first
    | assumption | dsimp only | apply State.setCmd_kept | apply State.nextPiece_kept | apply keptO_next | simp only [kept_mk]
    | refine keptMk_of ?_ rfl rfl rfl | refine keptO_ite ?_ ?_ | split | intro _)

theorem State.retakeCore_kept {i0 : State} (s : State) (k : Kern) (w : Nat) (sub : Option Nat) (hs : Kept i0 s) :
    Kept i0 (State.retakeCore s k w sub) := by
  unfold State.retakeCore
  with_reducible repeat' (first
    | assumption | dsimp only | apply State.setCore_kept | apply State.updCore_kept | apply State.setKern_kept | apply State.bump_kept
    | apply State.setFlag_kept | apply State.updCmd_kept | simp only [kept_mk] | refine keptMk_of ?_ rfl rfl rfl | refine kept_ite ?_ ?_
    | split | intro _)

theorem State.loseReels_kept {i0 : State} (s : State) (l : List Nat) (hs : Kept i0 s) :
    Kept i0 (State.loseReels s l) := by
  rw [State.loseReels]
  with_reducible repeat' (first
    | assumption | dsimp only | apply State.setReel_kept | simp only [kept_mk] | refine keptMk_of ?_ rfl rfl rfl | refine foldl_kept ?_ _ ?_
    | refine kept_ite ?_ ?_ | split | intro _)

theorem State.rewindChunks_kept {i0 : State} (s : State) (seq : Word) (adv : Bool) (hs : Kept i0 s) :
    Kept i0 (State.rewindChunks s seq adv) := by
  rw [State.rewindChunks]
  with_reducible repeat' (first
    | assumption | dsimp only | simp only [kept_mk] | refine keptMk_of ?_ rfl rfl rfl | refine kept_ite ?_ ?_ | split | intro _)

theorem State.restoreSlates_kept {i0 : State} (s : State) (c : Cmd) (hs : Kept i0 s) :
    Kept i0 (State.restoreSlates s c) := by
  rw [State.restoreSlates]
  with_reducible repeat' (first
    | assumption | dsimp only | simp only [kept_mk] | refine keptMk_of ?_ rfl rfl rfl | refine foldl_kept ?_ _ ?_ | intro _)

theorem State.replay_kept {i0 : State} (s : State) (seq : Word) (c : Cmd) (w0 : Nat) (hs : Kept i0 s) :
    Kept i0 (State.replay s seq c w0) := by
  rw [State.replay]
  with_reducible repeat' (first
    | assumption | dsimp only | apply State.dropKernels_kept | apply State.dropReqs_kept | apply State.rewindChunks_kept
    | apply State.cancelDma_kept | apply State.restoreSlates_kept | apply State.bump_kept | apply State.setFlag_kept
    | apply State.updCmd_kept | apply State.zeroRings_kept | apply State.beginPiece_kept | apply State.moreLayers_kept | simp only [kept_mk]
    | refine keptMk_of ?_ rfl rfl rfl | refine kept_ite ?_ ?_ | split | intro _)

theorem State.dispose_kept {i0 : State} (s : State) (k : Kern) (w : Nat) (sub : Option Nat) (hs : Kept i0 s) :
    Kept i0 (State.dispose s k w sub).1 := by
  rw [State.dispose]
  with_reducible repeat' (first
    | assumption | dsimp only | apply State.retakeCore_kept | apply State.loseReels_kept | apply State.endCmd_kept
    | apply State.dropKernels_kept | apply State.rewindChunks_kept | apply State.setFlag_kept | apply State.cancelDma_kept
    | apply State.replay_kept | simp only [kept_mk] | refine keptMk_of ?_ rfl rfl rfl | split | intro _)

theorem State.fenceCore_kept {i0 : State} (s : State) (w : Nat) (cls : Byte) (hs : Kept i0 s) :
    Kept i0 (State.fenceCore s w cls).1 := by
  rw [State.fenceCore]
  with_reducible repeat' (first
    | assumption | dsimp only | apply State.stopCounters_kept | apply State.carry_kept | apply State.bump_kept
    | apply State.cancelWaits_kept | apply State.cancelDma_kept | apply State.dispose_kept | refine kept_snd ?_ (by assumption)
    | refine kept_fst ?_ (by assumption) | simp only [kept_mk] | refine keptMk_of ?_ rfl rfl rfl | split | intro _)

theorem State.haltAll_kept {i0 : State} (s : State) (hs : Kept i0 s) :
    Kept i0 (State.haltAll s) := by
  rw [State.haltAll]
  with_reducible repeat' (first
    | assumption | dsimp only | apply State.endCmd_kept | simp only [kept_mk] | refine keptMk_of ?_ rfl rfl rfl
    | refine keptMk_wf ?_ ?_ ?_ ?_ | apply Mem.writeN_wf | apply Mem.clearN_wf | apply Mem.filter_wf | apply foldl_write_wf
    | refine foldl_kept ?_ _ ?_ | intro _)

theorem State.reportEnds_kept {i0 : State} (s : State) (r : Report) (hs : Kept i0 s) :
    Kept i0 (State.reportEnds s r) := by
  rw [State.reportEnds]
  with_reducible repeat' (first
    | assumption | dsimp only | apply State.endCmd_kept | refine kept_ite ?_ ?_ | split)

theorem State.act_kept {i0 : State} (s : State) (r : Report) (hs : Kept i0 s) :
    Kept i0 (State.act s r).1 := by
  rw [State.act]
  with_reducible repeat' (first
    | assumption | dsimp only | apply State.fenceCore_kept | apply State.haltAll_kept | apply State.endCmd_kept
    | apply State.mapOutBank_kept | refine kept_snd ?_ (by assumption) | refine kept_fst ?_ (by assumption) | simp only [kept_mk]
    | refine keptMk_of ?_ rfl rfl rfl | split | intro _)

theorem State.settleBanks_kept {i0 : State} (s : State) (hs : Kept i0 s) :
    Kept i0 (State.settleBanks s) := by
  rw [State.settleBanks]
  with_reducible repeat' (first
    | assumption | dsimp only | apply State.mapOutBank_kept | simp only [kept_mk] | refine keptMk_of ?_ rfl rfl rfl
    | refine foldl_kept ?_ _ ?_ | intro _)

theorem State.firstReport_kept {i0 : State} (s : State) (r : Report) (hs : Kept i0 s) :
    Kept i0 (State.firstReport s r).1 := by
  rw [State.firstReport]
  with_reducible repeat' (first
    | assumption | dsimp only | apply State.logEntry_kept | apply State.sendFault_kept | apply State.act_kept | simp only [kept_mk]
    | refine keptMk_of ?_ rfl rfl rfl | simp only [id_eq] | split | intro _)

theorem State.dupReport_kept {i0 : State} (s : State) (r : Report) (hs : Kept i0 s) :
    Kept i0 (State.dupReport s r) := by
  rw [State.dupReport]
  with_reducible repeat' (first
    | assumption | dsimp only | apply State.bump_kept | simp only [kept_mk] | refine keptMk_of ?_ rfl rfl rfl | refine kept_ite ?_ ?_
    | split | intro _)

theorem State.takeReport_kept {i0 : State} (s : State) (r : Report) (hs : Kept i0 s) :
    Kept i0 (State.takeReport s r).1 := by
  rw [State.takeReport]
  with_reducible repeat' (first
    | assumption | dsimp only | apply State.bump_kept | apply State.reportEnds_kept | apply State.dupReport_kept
    | apply State.firstReport_kept | simp only [kept_mk] | refine keptMk_of ?_ rfl rfl rfl | split | intro _)

theorem State.offChannel_kept {i0 : State} (s : State) (r : Report) (hs : Kept i0 s) :
    Kept i0 (State.offChannel s r) := by
  rw [State.offChannel]
  with_reducible repeat' (first
    | assumption | dsimp only | simp only [kept_mk] | refine keptMk_of ?_ rfl rfl rfl)

theorem execFaultReport_kept {i0 : State} (cls : Byte) (subject cause : Half) (seq : Word) (detail : Dword) (s : State) (hs : Kept i0 s) :
    KeptO i0 (execFaultReport cls subject cause seq detail s) := by
  rw [execFaultReport]
  with_reducible repeat' (first
    | assumption | dsimp only | apply State.offChannel_kept | apply State.takeReport_kept | apply State.settleBanks_kept | apply keptO_next
    | intro _)

theorem execFaultWindowClose_kept {i0 : State} (subject : Half) (cls : Byte) (epoch : Word) (s : State) (hs : Kept i0 s) :
    KeptO i0 (execFaultWindowClose subject cls epoch s) := by
  rw [execFaultWindowClose]
  with_reducible repeat' (first
    | assumption | dsimp only | apply State.updFab_kept | apply State.toCoord_kept | apply keptO_next | simp only [kept_mk]
    | refine keptMk_of ?_ rfl rfl rfl | simp only [id_eq] | refine keptO_ite ?_ ?_ | split | intro _)

theorem State.fenceNow_kept {i0 : State} (s : State) (seq : Word) (w : Nat) (hs : Kept i0 s) :
    Kept i0 (State.fenceNow s seq w) := by
  rw [State.fenceNow]
  with_reducible repeat' (first
    | assumption | dsimp only | apply State.takeReport_kept | apply State.finish_kept | refine kept_snd ?_ (by assumption)
    | refine kept_fst ?_ (by assumption) | simp only [kept_mk] | refine keptMk_of ?_ rfl rfl rfl | split)

theorem execFenceCore_kept {i0 : State} (seq : Word) (s : State) (hs : Kept i0 s) :
    KeptO i0 (execFenceCore seq s) := by
  rw [execFenceCore]
  with_reducible repeat' (first
    | assumption | dsimp only | apply State.finish_kept | apply State.fenceNow_kept | apply State.settleBanks_kept | apply keptO_next
    | simp only [kept_mk] | refine keptMk_of ?_ rfl rfl rfl | refine keptO_ite ?_ ?_ | split | intro _)

theorem execFenceCoreDrain_kept {i0 : State} (seq : Word) (s : State) (hs : Kept i0 s) :
    KeptO i0 (execFenceCoreDrain seq s) := by
  rw [execFenceCoreDrain]
  with_reducible repeat' (first
    | assumption | dsimp only | apply State.finish_kept | apply State.setCmd_kept | apply keptO_next | simp only [kept_mk]
    | refine keptMk_of ?_ rfl rfl rfl | refine keptO_ite ?_ ?_ | split | intro _)

theorem execFenceDrainEffect_kept {i0 : State} (w : CoreIx) (s : State) (hs : Kept i0 s) :
    KeptO i0 (execFenceDrainEffect w s) := by
  rw [execFenceDrainEffect]
  with_reducible repeat' (first
    | assumption | dsimp only | apply State.finish_kept | apply State.fenceNow_kept | apply State.settleBanks_kept | apply keptO_next
    | simp only [kept_mk] | refine keptMk_of ?_ rfl rfl rfl | refine keptO_ite ?_ ?_ | split | intro _)

theorem execCoreHang_kept {i0 : State} (w : CoreIx) (s : State) (hs : Kept i0 s) :
    KeptO i0 (execCoreHang w s) := by
  rw [execCoreHang]
  with_reducible repeat' (first
    | assumption | dsimp only | apply State.report_kept | apply keptO_next | intro _)

theorem execNetNoack_kept {i0 : State} (subject cause : Half) (seq : Word) (detail : Dword) (s : State) (hs : Kept i0 s) :
    KeptO i0 (execNetNoack subject cause seq detail s) := by
  rw [execNetNoack]
  with_reducible repeat' (first
    | assumption | dsimp only | apply State.report_kept | apply State.endCmd_kept | apply keptO_next | intro _)

theorem execD2dLink_kept {i0 : State} (d : DieIx) (s : State) (hs : Kept i0 s) :
    KeptO i0 (execD2dLink d s) := by
  rw [execD2dLink]
  with_reducible repeat' (first
    | assumption | dsimp only | apply State.report_kept | apply keptO_next | intro _)

theorem execBankCollision_kept {i0 : State} (w : CoreIx) (atCluster : Bool) (memory : BitVec 3) (bank a b : Byte) (seq : Word) (s : State) (hs : Kept i0 s) :
    KeptO i0 (execBankCollision w atCluster memory bank a b seq s) := by
  rw [execBankCollision]
  with_reducible repeat' (first
    | assumption | dsimp only | apply State.report_kept | apply State.bump_kept | apply State.updCmd_kept | apply State.endCmd_kept
    | apply State.settleBanks_kept | apply keptO_next | simp only [kept_mk] | refine keptMk_of ?_ rfl rfl rfl | refine keptO_ite ?_ ?_
    | split | intro _)

theorem State.tstWrite_kept {i0 : State} (s : State) (k v : Nat) (hs : Kept i0 s) :
    Kept i0 (State.tstWrite s k v) := by
  rw [State.tstWrite]
  with_reducible repeat' (first
    | assumption | dsimp only | apply State.settleTst_kept | simp only [kept_mk] | refine keptMk_of ?_ rfl rfl rfl | refine kept_ite ?_ ?_
    | split)

theorem execTstCtlWrite_kept {i0 : State} (k : Fin 6) (value : Word) (s : State) (hs : Kept i0 s) :
    KeptO i0 (execTstCtlWrite k value s) := by
  rw [execTstCtlWrite]
  with_reducible repeat' (first
    | assumption | dsimp only | apply State.tstWrite_kept | apply State.barDropped_kept | apply keptO_next | refine keptO_ite ?_ ?_ | split
    | intro _)

end Sys2Proof.Machine
end

