-- ==== Sys2Proof/Laws/KeptStart.lean ====
section
/-! SUPPORT. Kept by the gaffer, staged start, protection, dailies and repair: the queue and the form of the memories. -/

namespace Sys2Proof.Machine

theorem State.updGaf_kept {i0 : State} (s : State) (f : Gaffer → Gaffer) (hs : Kept i0 s) :
    Kept i0 (State.updGaf s f) := by
  rw [State.updGaf]
  with_reducible repeat' (first
    | assumption | dsimp only | apply hf | simp only [kept_mk] | refine keptMk_of ?_ rfl rfl rfl)

theorem State.updIsland_kept {i0 : State} (s : State) (i : Nat) (f : Island → Island) (hs : Kept i0 s) :
    Kept i0 (State.updIsland s i f) := by
  rw [State.updIsland]
  with_reducible repeat' (first
    | assumption | dsimp only | apply State.updGaf_kept | apply hf | simp only [kept_mk] | refine keptMk_of ?_ rfl rfl rfl | intro _)

theorem State.flashJob_kept {i0 : State} (s : State) (j : FlashJob) (hs : Kept i0 s) :
    Kept i0 (State.flashJob s j) := by
  rw [State.flashJob]
  with_reducible repeat' (first
    | assumption | dsimp only | simp only [kept_mk] | refine keptMk_of ?_ rfl rfl rfl)

theorem State.ageLog_kept {i0 : State} (s : State) (cause : Nat) (hs : Kept i0 s) :
    Kept i0 (State.ageLog s cause) := by
  rw [State.ageLog]
  with_reducible repeat' (first
    | assumption | dsimp only | apply State.flashJob_kept | apply State.updGaf_kept | simp only [kept_mk] | refine keptMk_of ?_ rfl rfl rfl
    | refine kept_ite ?_ ?_ | split | intro _)

theorem State.retireIsland_kept {i0 : State} (s : State) (i : Nat) (hs : Kept i0 s) :
    Kept i0 (State.retireIsland s i) := by
  rw [State.retireIsland]
  with_reducible repeat' (first
    | assumption | dsimp only | apply State.updIsland_kept | apply State.updGaf_kept | apply State.report_kept | apply State.ageLog_kept
    | simp only [kept_mk] | refine keptMk_of ?_ rfl rfl rfl | intro _)

theorem execIslandRetire_kept {i0 : State} (i : IslandIx) (s : State) (hs : Kept i0 s) :
    KeptO i0 (execIslandRetire i s) := by
  rw [execIslandRetire]
  with_reducible repeat' (first
    | assumption | dsimp only | apply State.retireIsland_kept | apply keptO_next | refine keptO_ite ?_ ?_ | split | intro _)

theorem execSlackEmergency_kept {i0 : State} (i : IslandIx) (slack : Half) (s : State) (hs : Kept i0 s) :
    KeptO i0 (execSlackEmergency i slack s) := by
  rw [execSlackEmergency]
  with_reducible repeat' (first
    | assumption | dsimp only | apply State.updIsland_kept | apply State.updGaf_kept | apply State.bump_kept | apply keptO_next
    | simp only [kept_mk] | refine keptMk_of ?_ rfl rfl rfl | refine keptO_ite ?_ ?_ | split | intro _)

theorem State.planIsland_kept {i0 : State} (s : State) (i : Nat) (slacks : List Half) (hs : Kept i0 s) :
    Kept i0 (State.planIsland s i slacks) := by
  rw [State.planIsland]
  with_reducible repeat' (first
    | assumption | dsimp only | apply State.updIsland_kept | apply State.retireIsland_kept | simp only [kept_mk]
    | refine keptMk_of ?_ rfl rfl rfl | refine kept_ite ?_ ?_ | split | intro _)

theorem State.takeRatios_kept {i0 : State} (s : State) (l : List IslandTrials) (hs : Kept i0 s) :
    Kept i0 (State.takeRatios s l) := by
  rw [State.takeRatios]
  with_reducible repeat' (first
    | assumption | dsimp only | apply State.updIsland_kept | simp only [kept_mk] | refine keptMk_of ?_ rfl rfl rfl
    | refine foldl_kept ?_ _ ?_ | intro _)

theorem State.planAll_kept {i0 : State} (s : State) (l : List IslandTrials) (hs : Kept i0 s) :
    Kept i0 (State.planAll s l) := by
  rw [State.planAll]
  with_reducible repeat' (first
    | assumption | dsimp only | apply State.updGaf_kept | apply State.takeRatios_kept | apply State.planIsland_kept
    | apply State.ageLog_kept | simp only [kept_mk] | refine keptMk_of ?_ rfl rfl rfl | refine foldl_kept ?_ _ ?_ | intro _)

theorem State.replanIsland_kept {i0 : State} (s : State) (i : Nat) (slacks : List Half) (hs : Kept i0 s) :
    Kept i0 (State.replanIsland s i slacks).1 := by
  rw [State.replanIsland]
  with_reducible repeat' (first
    | assumption | dsimp only | apply State.updIsland_kept | simp only [kept_mk] | refine keptMk_of ?_ rfl rfl rfl | split | intro _)

theorem State.replan_kept {i0 : State} (s : State) (l : List IslandTrials) (hs : Kept i0 s) :
    Kept i0 (State.replan s l) := by
  rw [State.replan]
  with_reducible repeat' (first
    | assumption | dsimp only | apply State.replanIsland_kept | apply State.takeRatios_kept | apply State.updGaf_kept
    | apply State.ageLog_kept | refine kept_snd ?_ (by assumption) | refine kept_fst ?_ (by assumption) | simp only [kept_mk]
    | refine keptMk_of ?_ rfl rfl rfl | refine foldl_kept ?_ _ ?_ | refine foldl_kept_snd ?_ _ ?_ | refine foldl_kept_fst ?_ _ ?_ | split
    | intro _)

theorem execReplan_kept {i0 : State} (trials : List IslandTrials) (s : State) (hs : Kept i0 s) :
    KeptO i0 (execReplan trials s) := by
  rw [execReplan]
  with_reducible repeat' (first
    | assumption | dsimp only | apply State.updGaf_kept | apply State.replan_kept | apply keptO_next | simp only [kept_mk]
    | refine keptMk_of ?_ rfl rfl rfl | refine keptO_ite ?_ ?_ | split | intro _)

theorem execReplanNow_kept {i0 : State} (trials : List IslandTrials) (s : State) (hs : Kept i0 s) :
    KeptO i0 (execReplanNow trials s) := by
  rw [execReplanNow]
  with_reducible repeat' (first
    | assumption | dsimp only | apply State.barDropped_kept | apply State.updGaf_kept | apply State.replan_kept | apply keptO_next
    | simp only [kept_mk] | refine keptMk_of ?_ rfl rfl rfl | refine keptO_ite ?_ ?_ | split | intro _)

theorem State.capWrite_kept {i0 : State} (s : State) (v : Nat) (hs : Kept i0 s) :
    Kept i0 (State.capWrite s v) := by
  rw [State.capWrite]
  with_reducible repeat' (first
    | assumption | dsimp only | apply State.updGaf_kept | simp only [kept_mk] | refine keptMk_of ?_ rfl rfl rfl | intro _)

theorem execGafCapWrite_kept {i0 : State} (value : Word) (s : State) (hs : Kept i0 s) :
    KeptO i0 (execGafCapWrite value s) := by
  rw [execGafCapWrite]
  with_reducible repeat' (first
    | assumption | dsimp only | apply State.capWrite_kept | apply State.barDropped_kept | apply keptO_next | refine keptO_ite ?_ ?_ | split
    | intro _)

theorem execPowerSample_kept {i0 : State} (watts : Half) (s : State) (hs : Kept i0 s) :
    KeptO i0 (execPowerSample watts s) := by
  rw [execPowerSample]
  with_reducible repeat' (first
    | assumption | dsimp only | apply State.updGaf_kept | apply State.report_kept | apply keptO_next | simp only [kept_mk]
    | refine keptMk_of ?_ rfl rfl rfl | refine keptO_ite ?_ ?_ | split | intro _)

theorem execGafferLoopTick_kept {i0 : State} (junction hbm inlet outlet : Byte) (hot : IslandIx) (s : State) (hs : Kept i0 s) :
    KeptO i0 (execGafferLoopTick junction hbm inlet outlet hot s) := by
  rw [execGafferLoopTick]
  with_reducible repeat' (first
    | assumption | dsimp only | apply State.bump_kept | apply keptO_next | simp only [kept_mk] | refine keptMk_of ?_ rfl rfl rfl | intro _)

theorem execJunctionTripLimit_kept {i0 : State} (junction : Byte) (hot : IslandIx) (s : State) (hs : Kept i0 s) :
    KeptO i0 (execJunctionTripLimit junction hot s) := by
  rw [execJunctionTripLimit]
  with_reducible repeat' (first
    | assumption | dsimp only | apply State.updGaf_kept | apply keptO_next | refine keptO_ite ?_ ?_ | split | intro _)

theorem execThermalTrip_kept {i0 : State} (s : State) (hs : Kept i0 s) :
    KeptO i0 (execThermalTrip s) := by
  rw [execThermalTrip]
  with_reducible repeat' (first
    | assumption | dsimp only | apply State.haltAll_kept | apply State.updGaf_kept | apply State.report_kept | apply keptO_next
    | simp only [kept_mk] | refine keptMk_of ?_ rfl rfl rfl | refine keptO_ite ?_ ?_ | split | intro _)

theorem State.updBoot_kept {i0 : State} (s : State) (f : Boot → Boot) (hs : Kept i0 s) :
    Kept i0 (State.updBoot s f) := by
  rw [State.updBoot]
  with_reducible repeat' (first
    | assumption | dsimp only | apply hf | simp only [kept_mk] | refine keptMk_of ?_ rfl rfl rfl)

theorem State.stageDone_kept {i0 : State} (s : State) (stage : Nat) (hs : Kept i0 s) :
    Kept i0 (State.stageDone s stage) := by
  rw [State.stageDone]
  with_reducible repeat' (first
    | assumption | dsimp only | apply State.updBoot_kept | simp only [kept_mk] | refine keptMk_of ?_ rfl rfl rfl | intro _)

theorem State.hold_kept {i0 : State} (s : State) (stage reason detail : Nat) (hs : Kept i0 s) :
    Kept i0 (State.hold s stage reason detail) := by
  rw [State.hold]
  with_reducible repeat' (first
    | assumption | dsimp only | apply State.updBoot_kept | simp only [kept_mk] | refine keptMk_of ?_ rfl rfl rfl | intro _)

theorem State.drawNonce_kept {i0 : State} (s : State) (hs : Kept i0 s) :
    Kept i0 (State.drawNonce s) := by
  rw [State.drawNonce]
  with_reducible repeat' (first
    | assumption | dsimp only | apply State.updBoot_kept | simp only [kept_mk] | refine keptMk_of ?_ rfl rfl rfl | intro _)

theorem State.loadFw1_kept {i0 : State} (s : State) (hs : Kept i0 s) :
    Kept i0 (State.loadFw1 s) := by
  delta State.loadFw1
  with_reducible repeat' (first
    | assumption | dsimp only | apply State.updBoot_kept | apply State.stageDone_kept | apply State.hold_kept | simp only [kept_mk]
    | refine keptMk_of ?_ rfl rfl rfl | refine kept_ite ?_ ?_ | split | intro _)

theorem execStageA_kept {i0 : State} (width rate : BitVec 2) (err : Option Word) (s : State) (hs : Kept i0 s) :
    KeptO i0 (execStageA width rate err s) := by
  rw [execStageA]
  with_reducible repeat' (first
    | assumption | dsimp only | apply State.drawNonce_kept | apply State.hold_kept | apply State.loadFw1_kept | apply keptO_next
    | simp only [kept_mk] | refine keptMk_of ?_ rfl rfl rfl | refine keptMk_wf ?_ ?_ ?_ ?_ | apply Mem.writeN_wf | apply Mem.clearN_wf
    | apply Mem.filter_wf | apply foldl_write_wf | refine keptO_ite ?_ ?_ | split | intro _)

theorem State.applySheet_kept {i0 : State} (s : State) (img : Loaded) (p : List Byte) (hs : Kept i0 s) :
    Kept i0 (State.applySheet s img p) := by
  rw [State.applySheet]
  with_reducible repeat' (first
    | assumption | dsimp only | simp only [kept_mk] | refine keptMk_of ?_ rfl rfl rfl)

theorem State.loadFw2_kept {i0 : State} (s : State) (hs : Kept i0 s) :
    Kept i0 (State.loadFw2 s) := by
  delta State.loadFw2
  with_reducible repeat' (first
    | assumption | dsimp only | apply State.updBoot_kept | apply State.hold_kept | simp only [kept_mk] | refine keptMk_of ?_ rfl rfl rfl
    | refine kept_ite ?_ ?_ | split | intro _)

theorem State.loadSheet_kept {i0 : State} (s : State) (hs : Kept i0 s) :
    Kept i0 (State.loadSheet s) := by
  delta State.loadSheet
  with_reducible repeat' (first
    | assumption | dsimp only | apply State.hold_kept | apply State.applySheet_kept | apply State.stageDone_kept | simp only [kept_mk]
    | refine keptMk_of ?_ rfl rfl rfl | split)

theorem execStageB_kept {i0 : State} (err : Option Word) (s : State) (hs : Kept i0 s) :
    KeptO i0 (execStageB err s) := by
  unfold execStageB
  with_reducible repeat' (first
    | assumption | dsimp only | apply State.updBoot_kept | apply State.applySheet_kept | apply State.stageDone_kept | apply State.hold_kept
    | apply State.loadFw2_kept | apply State.loadSheet_kept | apply keptO_next | simp only [kept_mk] | refine keptMk_of ?_ rfl rfl rfl
    | refine keptO_ite ?_ ?_ | split | intro _)

theorem HbmMem.blow_bytes (h : HbmMem) : h.blow.bytes = h.bytes := by
  rw [HbmMem.blow]
  suffices ∀ (l : List RowRemap) (g : HbmMem), g.bytes = h.bytes → (l.foldl (fun h r =>
      if (h.blown.filter (fun q => q.bank == r.bank)).length < 2 then
        { h with blown := h.blown ++ [r], hardReq := h.hardReq.erase r, recOwed := true } else h) g).bytes = h.bytes from this _ _ rfl
  intro l
  induction l with
  | nil => exact fun g hg => hg
  | cons r t ih =>
    intro g hg
    refine ih _ ?_
    dsimp only
    split
    · exact hg
    · exact hg

theorem State.applyRepairs_kept {i0 : State} (s : State) (hs : Kept i0 s) :
    Kept i0 (State.applyRepairs s) := by
  rw [State.applyRepairs]
  split
  · exact hs
  · simp only [kept_mk]
    exact keptMk_of hs rfl rfl (HbmMem.blow_bytes _)

theorem State.readAge_kept {i0 : State} (s : State) (hs : Kept i0 s) :
    Kept i0 (State.readAge s) := by
  delta State.readAge
  with_reducible repeat' (first
    | assumption | dsimp only | apply State.updGaf_kept | simp only [kept_mk] | refine keptMk_of ?_ rfl rfl rfl | refine kept_ite ?_ ?_
    | split | intro _)

theorem State.takeReports_kept {i0 : State} (s : State) (hs : Kept i0 s) :
    Kept i0 (State.takeReports s) := by
  rw [State.takeReports]
  with_reducible repeat' (first
    | assumption | dsimp only | apply State.offChannel_kept | apply State.takeReport_kept | refine foldl_kept ?_ _ ?_
    | refine foldl_kept_snd ?_ _ ?_ | refine foldl_kept_fst ?_ _ ?_ | intro _)

theorem State.marchFails_kept {i0 : State} (s : State) (fails : List SramFail) (hs : Kept i0 s) :
    Kept i0 (State.marchFails s fails) := by
  rw [State.marchFails]
  with_reducible repeat' (first
    | assumption | dsimp only | apply State.bankFailed_kept | refine foldl_kept ?_ _ ?_ | intro _)

theorem execStageC_kept {i0 : State} (err : Option Word) (failed : List ChannelIx) (trials : List IslandTrials) (fails : List SramFail) (s : State) (hs : Kept i0 s) :
    KeptO i0 (execStageC err failed trials fails s) := by
  unfold execStageC
  with_reducible repeat' (first
    | assumption | dsimp only | exact Mem.nil_wf | apply State.hold_kept | apply State.applyRepairs_kept | apply State.readAge_kept
    | apply State.planAll_kept | apply State.marchFails_kept | apply State.takeReports_kept | apply State.stageDone_kept
    | apply State.fabricOfOne_kept | apply keptO_next | simp only [kept_mk] | refine keptMk_of ?_ rfl rfl rfl | refine keptMk_wf ?_ ?_ ?_ ?_
    | apply Mem.writeN_wf | apply Mem.clearN_wf | apply Mem.filter_wf | apply foldl_write_wf | refine keptO_ite ?_ ?_ | split | intro _)

theorem execStageD_kept {i0 : State} (s : State) (hs : Kept i0 s) :
    KeptO i0 (execStageD s) := by
  rw [execStageD]
  with_reducible repeat' (first
    | assumption | dsimp only | apply State.updBoot_kept | apply State.startDiscovery_kept | apply keptO_next | simp only [kept_mk]
    | refine keptMk_of ?_ rfl rfl rfl | refine keptO_ite ?_ ?_ | split | intro _)

theorem execStageE_kept {i0 : State} (s : State) (hs : Kept i0 s) :
    KeptO i0 (execStageE s) := by
  rw [execStageE]
  with_reducible repeat' (first
    | assumption | dsimp only | exact Mem.nil_wf | apply State.stageDone_kept | apply keptO_next | simp only [kept_mk]
    | refine keptMk_of ?_ rfl rfl rfl | refine keptMk_wf ?_ ?_ ?_ ?_ | apply Mem.writeN_wf | apply Mem.clearN_wf | apply Mem.filter_wf
    | apply foldl_write_wf | refine keptO_ite ?_ ?_ | split | intro _)

theorem State.outside_kept {i0 : State} (s : State) (hs : Kept i0 s) :
    Kept i0 (State.outside s) := by
  rw [State.outside]
  with_reducible repeat' (first
    | assumption | dsimp only | exact Mem.nil_wf | simp only [kept_mk] | refine keptMk_of ?_ rfl rfl rfl | refine keptMk_wf ?_ ?_ ?_ ?_
    | apply Mem.writeN_wf | apply Mem.clearN_wf | apply Mem.filter_wf | apply foldl_write_wf | intro _)

theorem State.warmReset_kept {i0 : State} (s : State) (hs : Kept i0 s) :
    Kept i0 (State.warmReset s) := by
  rw [State.warmReset]
  with_reducible repeat' (first
    | assumption | dsimp only | apply State.outside_kept | simp only [kept_mk] | refine keptMk_of ?_ rfl rfl rfl
    | refine keptMk_wf ?_ ?_ ?_ ?_ | apply Mem.writeN_wf | apply Mem.clearN_wf | apply Mem.filter_wf | apply foldl_write_wf
    | refine kept_ite ?_ ?_ | split | intro _)

theorem State.warm_kept {i0 : State} (s : State) (hs : Kept i0 s) :
    Kept i0 (State.warm s) := by
  rw [State.warm]
  with_reducible repeat' (first
    | assumption | dsimp only | apply State.warmReset_kept | apply State.updBoot_kept | simp only [kept_mk]
    | refine keptMk_of ?_ rfl rfl rfl | refine kept_ite ?_ ?_ | split | intro _)

theorem execPerstAssert_kept {i0 : State} (s : State) (hs : Kept i0 s) :
    KeptO i0 (execPerstAssert s) := by
  rw [execPerstAssert]
  with_reducible repeat' (first
    | assumption | dsimp only | apply State.warm_kept | apply keptO_next | intro _)

theorem execHotReset_kept {i0 : State} (s : State) (hs : Kept i0 s) :
    KeptO i0 (execHotReset s) := by
  rw [execHotReset]
  with_reducible repeat' (first
    | assumption | dsimp only | apply State.warm_kept | apply keptO_next | intro _)

theorem execBootWarm_kept {i0 : State} (s : State) (hs : Kept i0 s) :
    KeptO i0 (execBootWarm s) := by
  rw [execBootWarm]
  with_reducible repeat' (first
    | assumption | dsimp only | apply State.warm_kept | apply State.barDropped_kept | apply keptO_next | refine keptO_ite ?_ ?_ | split
    | intro _)

theorem execFlashWriteDone_kept {i0 : State} (err : Bool) (s : State) (hs : Kept i0 s) :
    KeptO i0 (execFlashWriteDone err s) := by
  rw [execFlashWriteDone]
  with_reducible repeat' (first
    | assumption | dsimp only | apply State.warmReset_kept | apply keptO_next | simp only [kept_mk] | refine keptMk_of ?_ rfl rfl rfl
    | refine keptO_ite ?_ ?_ | split | intro _)

theorem State.unpowered_kept {i0 : State} (s : State) (hs : Kept i0 s) :
    Kept i0 (State.unpowered s) := by
  rw [State.unpowered]
  with_reducible repeat' (first
    | assumption | dsimp only | apply State.outside_kept | apply State.updBoot_kept | simp only [kept_mk] | refine keptMk_of ?_ rfl rfl rfl
    | split | intro _)

theorem State.powerFall_kept {i0 : State} (s : State) (alert : Bool) (hs : Kept i0 s) :
    Kept i0 (State.powerFall s alert) := by
  rw [State.powerFall]
  with_reducible repeat' (first
    | assumption | dsimp only | apply State.unpowered_kept | simp only [kept_mk] | refine keptMk_of ?_ rfl rfl rfl | refine kept_ite ?_ ?_
    | split)

theorem execModEnRise_kept {i0 : State} (s : State) (hs : Kept i0 s) :
    KeptO i0 (execModEnRise s) := by
  rw [execModEnRise]
  with_reducible repeat' (first
    | assumption | dsimp only | apply keptO_next | simp only [kept_mk] | refine keptMk_of ?_ rfl rfl rfl | intro _)

theorem execModEnFall_kept {i0 : State} (s : State) (hs : Kept i0 s) :
    KeptO i0 (execModEnFall s) := by
  rw [execModEnFall]
  with_reducible repeat' (first
    | assumption | dsimp only | apply State.powerFall_kept | apply keptO_next | simp only [kept_mk] | refine keptMk_of ?_ rfl rfl rfl
    | intro _)

theorem execVinRise_kept {i0 : State} (s : State) (hs : Kept i0 s) :
    KeptO i0 (execVinRise s) := by
  rw [execVinRise]
  with_reducible repeat' (first
    | assumption | dsimp only | apply keptO_next | simp only [kept_mk] | refine keptMk_of ?_ rfl rfl rfl | intro _)

theorem execVinUndervoltage_kept {i0 : State} (s : State) (hs : Kept i0 s) :
    KeptO i0 (execVinUndervoltage s) := by
  rw [execVinUndervoltage]
  with_reducible repeat' (first
    | assumption | dsimp only | apply State.powerFall_kept | apply keptO_next | simp only [kept_mk] | refine keptMk_of ?_ rfl rfl rfl
    | intro _)

theorem execVinOvervoltage_kept {i0 : State} (s : State) (hs : Kept i0 s) :
    KeptO i0 (execVinOvervoltage s) := by
  rw [execVinOvervoltage]
  with_reducible repeat' (first
    | assumption | dsimp only | apply State.powerFall_kept | apply keptO_next | simp only [kept_mk] | refine keptMk_of ?_ rfl rfl rfl
    | intro _)

theorem execRailFault_kept {i0 : State} (s : State) (hs : Kept i0 s) :
    KeptO i0 (execRailFault s) := by
  rw [execRailFault]
  with_reducible repeat' (first
    | assumption | dsimp only | apply State.powerFall_kept | apply keptO_next | intro _)

theorem execRailOffInterval_kept {i0 : State} (s : State) (hs : Kept i0 s) :
    KeptO i0 (execRailOffInterval s) := by
  rw [execRailOffInterval]
  with_reducible repeat' (first
    | assumption | dsimp only | apply keptO_next | simp only [kept_mk] | refine keptMk_of ?_ rfl rfl rfl | refine keptO_ite ?_ ?_ | split
    | intro _)

theorem State.cold_kept {i0 : State} (s : State) (hs : Kept i0 s) :
    Kept i0 (State.cold s) := by
  rw [State.cold]
  with_reducible repeat' (first
    | assumption | dsimp only | apply State.powerFall_kept | simp only [kept_mk] | refine keptMk_of ?_ rfl rfl rfl | refine kept_ite ?_ ?_
    | split)

theorem execBootCold_kept {i0 : State} (s : State) (hs : Kept i0 s) :
    KeptO i0 (execBootCold s) := by
  rw [execBootCold]
  with_reducible repeat' (first
    | assumption | dsimp only | apply State.cold_kept | apply State.barDropped_kept | apply keptO_next | refine keptO_ite ?_ ?_ | split
    | intro _)

theorem execColdIntervalEnd_kept {i0 : State} (s : State) (hs : Kept i0 s) :
    KeptO i0 (execColdIntervalEnd s) := by
  rw [execColdIntervalEnd]
  with_reducible repeat' (first
    | assumption | dsimp only | apply State.cold_kept | apply keptO_next | simp only [kept_mk] | refine keptMk_of ?_ rfl rfl rfl | intro _)

theorem execPowerGoodRise_kept {i0 : State} (s : State) (hs : Kept i0 s) :
    KeptO i0 (execPowerGoodRise s) := by
  rw [execPowerGoodRise]
  with_reducible repeat' (first
    | assumption | dsimp only | apply State.unpowered_kept | apply keptO_next | simp only [kept_mk] | refine keptMk_of ?_ rfl rfl rfl
    | refine keptO_ite ?_ ?_ | split | intro _)

theorem State.idle_kept {i0 : State} (s : State) (hs : Kept i0 s) :
    Kept i0 (State.idle s) := by
  rw [State.idle]
  with_reducible repeat' (first
    | assumption | dsimp only | simp only [kept_mk] | refine keptMk_of ?_ rfl rfl rfl)

theorem State.endSessions_kept {i0 : State} (s : State) (hs : Kept i0 s) :
    Kept i0 (State.endSessions s) := by
  rw [State.endSessions]
  with_reducible repeat' (first
    | assumption | dsimp only | apply State.updBoot_kept | simp only [kept_mk] | refine keptMk_of ?_ rfl rfl rfl
    | refine keptMk_wf ?_ ?_ ?_ ?_ | apply Mem.writeN_wf | apply Mem.clearN_wf | apply Mem.filter_wf | apply foldl_write_wf | intro _)

theorem State.takeToken_kept {i0 : State} (s : State) (img : List Byte) (hs : Kept i0 s) :
    Kept i0 (State.takeToken s img) := by
  rw [State.takeToken]
  with_reducible repeat' (first
    | assumption | dsimp only | apply State.endSessions_kept | apply State.updBoot_kept | simp only [kept_mk]
    | refine keptMk_of ?_ rfl rfl rfl | refine kept_ite ?_ ?_ | split | intro _)

theorem State.submit_kept {i0 : State} (s : State) (hs : Kept i0 s) :
    Kept i0 (State.submit s) := by
  rw [State.submit]
  with_reducible repeat' (first
    | assumption | dsimp only | apply State.takeToken_kept | apply State.updBoot_kept | simp only [kept_mk]
    | refine keptMk_of ?_ rfl rfl rfl | refine kept_ite ?_ ?_ | split | intro _)

theorem execTokenSubmit_kept {i0 : State} (s : State) (hs : Kept i0 s) :
    KeptO i0 (execTokenSubmit s) := by
  rw [execTokenSubmit]
  with_reducible repeat' (first
    | assumption | dsimp only | apply State.submit_kept | apply State.barDropped_kept | apply keptO_next | refine keptO_ite ?_ ?_ | split
    | intro _)

theorem State.dropGrants_kept {i0 : State} (s : State) (hs : Kept i0 s) :
    Kept i0 (State.dropGrants s) := by
  rw [State.dropGrants]
  with_reducible repeat' (first
    | assumption | dsimp only | apply State.updBoot_kept | simp only [kept_mk] | refine keptMk_of ?_ rfl rfl rfl | intro _)

theorem execDebugDrop_kept {i0 : State} (s : State) (hs : Kept i0 s) :
    KeptO i0 (execDebugDrop s) := by
  rw [execDebugDrop]
  with_reducible repeat' (first
    | assumption | dsimp only | apply State.dropGrants_kept | apply State.barDropped_kept | apply keptO_next | refine keptO_ite ?_ ?_
    | split | intro _)

theorem State.updEnd_kept {i0 : State} (s : State) (result check : Nat) (hs : Kept i0 s) :
    Kept i0 (State.updEnd s result check) := by
  rw [State.updEnd]
  with_reducible repeat' (first
    | assumption | dsimp only | apply State.updBoot_kept | simp only [kept_mk] | refine keptMk_of ?_ rfl rfl rfl | intro _)

theorem State.updClear_kept {i0 : State} (s : State) (hs : Kept i0 s) :
    Kept i0 (State.updClear s) := by
  rw [State.updClear]
  with_reducible repeat' (first
    | assumption | dsimp only | apply State.updBoot_kept | apply State.updEnd_kept | simp only [kept_mk] | refine keptMk_of ?_ rfl rfl rfl
    | intro _)

theorem State.updAppend_kept {i0 : State} (s : State) (len : Nat) (hs : Kept i0 s) :
    Kept i0 (State.updAppend s len) := by
  rw [State.updAppend]
  with_reducible repeat' (first
    | assumption | dsimp only | apply State.updEnd_kept | apply State.updBoot_kept | simp only [kept_mk] | refine keptMk_of ?_ rfl rfl rfl
    | refine kept_ite ?_ ?_ | split | intro _)

theorem State.revoke_kept {i0 : State} (s : State) (img : List Byte) (hs : Kept i0 s) :
    Kept i0 (State.revoke s img) := by
  rw [State.revoke]
  with_reducible repeat' (first
    | assumption | dsimp only | apply State.updBoot_kept | apply State.updEnd_kept | simp only [kept_mk] | refine keptMk_of ?_ rfl rfl rfl
    | refine kept_ite ?_ ?_ | split | intro _)

theorem State.commitFlash_kept {i0 : State} (s : State) (kind : FlashKind) (addr : Nat) (hs : Kept i0 s) :
    Kept i0 (State.commitFlash s kind addr) := by
  rw [State.commitFlash]
  with_reducible repeat' (first
    | assumption | dsimp only | apply State.flashJob_kept | apply State.updEnd_kept | apply State.updBoot_kept | simp only [kept_mk]
    | refine keptMk_of ?_ rfl rfl rfl | intro _)

theorem State.updCommit_kept {i0 : State} (s : State) (hs : Kept i0 s) :
    Kept i0 (State.updCommit s) := by
  rw [State.updCommit]
  with_reducible repeat' (first
    | assumption | dsimp only | apply State.updEnd_kept | apply State.commitFlash_kept | apply State.takeToken_kept
    | apply State.revoke_kept | simp only [kept_mk] | refine keptMk_of ?_ rfl rfl rfl | refine kept_ite ?_ ?_ | split)

theorem State.updCtl_kept {i0 : State} (s : State) (v : Nat) (hs : Kept i0 s) :
    Kept i0 (State.updCtl s v) := by
  rw [State.updCtl]
  with_reducible repeat' (first
    | assumption | dsimp only | apply State.updBoot_kept | apply State.updClear_kept | apply State.updAppend_kept
    | apply State.updCommit_kept | simp only [kept_mk] | refine keptMk_of ?_ rfl rfl rfl | refine kept_ite ?_ ?_ | split | intro _)

theorem execUpdClear_kept {i0 : State} (s : State) (hs : Kept i0 s) :
    KeptO i0 (execUpdClear s) := by
  rw [execUpdClear]
  with_reducible repeat' (first
    | assumption | dsimp only | apply State.updCtl_kept | apply State.barDropped_kept | apply keptO_next | refine keptO_ite ?_ ?_ | split
    | intro _)

theorem execUpdAppend_kept {i0 : State} (len : Half) (s : State) (hs : Kept i0 s) :
    KeptO i0 (execUpdAppend len s) := by
  rw [execUpdAppend]
  with_reducible repeat' (first
    | assumption | dsimp only | apply State.updCtl_kept | apply State.barDropped_kept | apply keptO_next | refine keptO_ite ?_ ?_ | split
    | intro _)

theorem execUpdCommit_kept {i0 : State} (s : State) (hs : Kept i0 s) :
    KeptO i0 (execUpdCommit s) := by
  rw [execUpdCommit]
  with_reducible repeat' (first
    | assumption | dsimp only | apply State.updCtl_kept | apply State.barDropped_kept | apply keptO_next | refine keptO_ite ?_ ?_ | split
    | intro _)

theorem State.rollbackCtl_kept {i0 : State} (s : State) (v : Nat) (hs : Kept i0 s) :
    Kept i0 (State.rollbackCtl s v) := by
  rw [State.rollbackCtl]
  with_reducible repeat' (first
    | assumption | dsimp only | apply State.updBoot_kept | simp only [kept_mk] | refine keptMk_of ?_ rfl rfl rfl | refine kept_ite ?_ ?_
    | split | intro _)

theorem execRollbackGo_kept {i0 : State} (target : BitVec 7) (s : State) (hs : Kept i0 s) :
    KeptO i0 (execRollbackGo target s) := by
  rw [execRollbackGo]
  with_reducible repeat' (first
    | assumption | dsimp only | apply State.rollbackCtl_kept | apply State.barDropped_kept | apply keptO_next | refine keptO_ite ?_ ?_
    | split | intro _)

theorem execRollbackBitBlow_kept {i0 : State} (s : State) (hs : Kept i0 s) :
    KeptO i0 (execRollbackBitBlow s) := by
  rw [execRollbackBitBlow]
  with_reducible repeat' (first
    | assumption | dsimp only | apply State.updBoot_kept | apply keptO_next | simp only [kept_mk] | refine keptMk_of ?_ rfl rfl rfl
    | refine keptO_ite ?_ ?_ | split | intro _)

theorem State.progCtl_kept {i0 : State} (s : State) (v : Nat) (hs : Kept i0 s) :
    Kept i0 (State.progCtl s v) := by
  rw [State.progCtl]
  with_reducible repeat' (first
    | assumption | dsimp only | apply State.updBoot_kept | simp only [kept_mk] | refine keptMk_of ?_ rfl rfl rfl | refine kept_ite ?_ ?_
    | split | intro _)

theorem execFuseBlow_kept {i0 : State} (s : State) (hs : Kept i0 s) :
    KeptO i0 (execFuseBlow s) := by
  rw [execFuseBlow]
  with_reducible repeat' (first
    | assumption | dsimp only | apply State.progCtl_kept | apply State.barDropped_kept | apply keptO_next | refine keptO_ite ?_ ?_ | split
    | intro _)

theorem State.spdmSay_kept {i0 : State} (s : State) (code : String) (body : List Byte) (hs : Kept i0 s) :
    Kept i0 (State.spdmSay s code body) := by
  rw [State.spdmSay]
  with_reducible repeat' (first
    | assumption | dsimp only | apply State.send_kept)

theorem State.spdmIf_kept {i0 : State} (s : State) (ok : Bool) (go : State → State) (hs : Kept i0 s) (hgo : ∀ z0, Kept i0 z0 → Kept i0 (go z0)) :
    Kept i0 (State.spdmIf s ok go) := by
  rw [State.spdmIf]
  with_reducible repeat' (first
    | assumption | dsimp only | apply State.spdmSay_kept | apply hgo | refine kept_ite ?_ ?_ | split)

theorem State.updSpdm_kept {i0 : State} (s : State) (f : Spdm → Spdm) (hs : Kept i0 s) :
    Kept i0 (State.updSpdm s f) := by
  rw [State.updSpdm]
  with_reducible repeat' (first
    | assumption | dsimp only | apply State.updBoot_kept | apply hf | simp only [kept_mk] | refine keptMk_of ?_ rfl rfl rfl | intro _)

theorem execGetVersion_kept {i0 : State} (s : State) (hs : Kept i0 s) :
    KeptO i0 (execGetVersion s) := by
  rw [execGetVersion]
  with_reducible repeat' (first
    | assumption | dsimp only | apply State.spdmIf_kept | apply State.updSpdm_kept | apply State.spdmSay_kept | apply keptO_next
    | simp only [kept_mk] | refine keptMk_of ?_ rfl rfl rfl | intro _)

theorem execGetCapabilities_kept {i0 : State} (s : State) (hs : Kept i0 s) :
    KeptO i0 (execGetCapabilities s) := by
  rw [execGetCapabilities]
  with_reducible repeat' (first
    | assumption | dsimp only | apply State.spdmIf_kept | apply State.updSpdm_kept | apply State.spdmSay_kept | apply keptO_next
    | simp only [kept_mk] | refine keptMk_of ?_ rfl rfl rfl | intro _)

theorem execNegotiateAlgorithms_kept {i0 : State} (meets : Bool) (s : State) (hs : Kept i0 s) :
    KeptO i0 (execNegotiateAlgorithms meets s) := by
  rw [execNegotiateAlgorithms]
  with_reducible repeat' (first
    | assumption | dsimp only | apply State.spdmIf_kept | apply State.updSpdm_kept | apply State.spdmSay_kept | apply keptO_next
    | simp only [kept_mk] | refine keptMk_of ?_ rfl rfl rfl | intro _)

theorem execGetDigests_kept {i0 : State} (s : State) (hs : Kept i0 s) :
    KeptO i0 (execGetDigests s) := by
  rw [execGetDigests]
  with_reducible repeat' (first
    | assumption | dsimp only | apply State.spdmIf_kept | apply State.spdmSay_kept | apply keptO_next | intro _)

theorem execGetCertificate_kept {i0 : State} (slot1 : Bool) (offset length : Half) (s : State) (hs : Kept i0 s) :
    KeptO i0 (execGetCertificate slot1 offset length s) := by
  rw [execGetCertificate]
  with_reducible repeat' (first
    | assumption | dsimp only | apply State.spdmIf_kept | apply State.spdmSay_kept | apply keptO_next | intro _)

theorem execChallenge_kept {i0 : State} (nonce : BitVec 256) (s : State) (hs : Kept i0 s) :
    KeptO i0 (execChallenge nonce s) := by
  rw [execChallenge]
  with_reducible repeat' (first
    | assumption | dsimp only | apply State.spdmIf_kept | apply State.spdmSay_kept | apply keptO_next | intro _)

theorem execGetMeasurements_kept {i0 : State} (index : Byte) (signed : Bool) (nonce : BitVec 256) (s : State) (hs : Kept i0 s) :
    KeptO i0 (execGetMeasurements index signed nonce s) := by
  rw [execGetMeasurements]
  with_reducible repeat' (first
    | assumption | dsimp only | apply State.spdmIf_kept | apply State.spdmSay_kept | apply keptO_next | refine keptO_ite ?_ ?_ | split
    | intro _)

theorem execKeyExchange_kept {i0 : State} (share : List Byte) (s : State) (hs : Kept i0 s) :
    KeptO i0 (execKeyExchange share s) := by
  rw [execKeyExchange]
  with_reducible repeat' (first
    | assumption | dsimp only | apply State.spdmIf_kept | apply State.updBoot_kept | apply State.updSpdm_kept | apply State.spdmSay_kept
    | apply keptO_next | simp only [kept_mk] | refine keptMk_of ?_ rfl rfl rfl | intro _)

theorem execFinish_kept {i0 : State} (verified : Bool) (s : State) (hs : Kept i0 s) :
    KeptO i0 (execFinish verified s) := by
  rw [execFinish]
  with_reducible repeat' (first
    | assumption | dsimp only | apply State.spdmIf_kept | apply State.updSpdm_kept | apply State.spdmSay_kept | apply keptO_next
    | simp only [kept_mk] | refine keptMk_of ?_ rfl rfl rfl | refine keptO_ite ?_ ?_ | split | intro _)

theorem execEndSession_kept {i0 : State} (s : State) (hs : Kept i0 s) :
    KeptO i0 (execEndSession s) := by
  rw [execEndSession]
  with_reducible repeat' (first
    | assumption | dsimp only | apply State.spdmIf_kept | apply State.updSpdm_kept | apply State.spdmSay_kept | apply keptO_next
    | simp only [kept_mk] | refine keptMk_of ?_ rfl rfl rfl | intro _)

theorem execIdeKm_kept {i0 : State} (op : BitVec 2) (mem : Bool) (s : State) (hs : Kept i0 s) :
    KeptO i0 (execIdeKm op mem s) := by
  rw [execIdeKm]
  with_reducible repeat' (first
    | assumption | dsimp only | apply State.spdmIf_kept | apply State.updSpdm_kept | apply State.spdmSay_kept | apply keptO_next
    | simp only [kept_mk] | refine keptMk_of ?_ rfl rfl rfl | refine keptMk_wf ?_ ?_ ?_ ?_ | apply Mem.writeN_wf | apply Mem.clearN_wf
    | apply Mem.filter_wf | apply foldl_write_wf | refine keptO_ite ?_ ?_ | split | intro _)

theorem execTapInstruction_kept {i0 : State} (instr : BitVec 2) (s : State) (hs : Kept i0 s) :
    KeptO i0 (execTapInstruction instr s) := by
  rw [execTapInstruction]
  with_reducible repeat' (first
    | assumption | dsimp only | apply State.send_kept | apply keptO_next | exact keptO_refused _ _ | refine keptO_ite ?_ ?_ | split
    | intro _)

theorem State.issueToken_kept {i0 : State} (s : State) (snap : Bool) (hs : Kept i0 s) :
    Kept i0 (State.issueToken s snap) := by
  rw [State.issueToken]
  with_reducible repeat' (first
    | assumption | dsimp only | apply State.updPerf_kept | simp only [kept_mk] | refine keptMk_of ?_ rfl rfl rfl | refine kept_ite ?_ ?_
    | split | intro _)

theorem execPerfPeriodTick_kept {i0 : State} (s : State) (hs : Kept i0 s) :
    KeptO i0 (execPerfPeriodTick s) := by
  rw [execPerfPeriodTick]
  with_reducible repeat' (first
    | assumption | dsimp only | apply State.issueToken_kept | apply keptO_next | refine keptO_ite ?_ ?_ | split | intro _)

theorem execSnap_kept {i0 : State} (s : State) (hs : Kept i0 s) :
    KeptO i0 (execSnap s) := by
  rw [execSnap]
  with_reducible repeat' (first
    | assumption | dsimp only | apply State.issueToken_kept | apply State.barDropped_kept | apply keptO_next | refine keptO_ite ?_ ?_
    | split | intro _)

theorem execSnapshotToken_kept {i0 : State} (u : Fin 581) (s : State) (hs : Kept i0 s) :
    KeptO i0 (execSnapshotToken u s) := by
  rw [execSnapshotToken]
  with_reducible repeat' (first
    | assumption | dsimp only | apply State.reach_kept | apply keptO_next | simp only [kept_mk] | refine keptMk_of ?_ rfl rfl rfl
    | refine keptO_ite ?_ ?_ | split | intro _)

theorem State.ringPut_kept {i0 : State} (s : State) (bs : List Byte) (hs : Kept i0 s) :
    KeptOpt i0 (State.ringPut s bs) := by
  rw [State.ringPut]
  exact keptOpt_ite (keptOpt_none _) (keptOpt_mapOf (State.writeVA_kept _ _ _ _ _ hs) (fun t ht => State.updPerf_kept _ _ ht))

theorem execDumpRecordWrite_kept {i0 : State} (time : Dword) (sweep : Word) (s : State) (hs : Kept i0 s) :
    KeptO i0 (execDumpRecordWrite time sweep s) := by
  rw [execDumpRecordWrite]
  with_reducible repeat' (first
    | assumption | dsimp only | apply State.ringPut_kept | apply State.updPerf_kept | refine KeptOpt.get ?_ (by assumption)
    | exact keptOpt_none _ | apply keptO_next | simp only [kept_mk] | refine keptMk_of ?_ rfl rfl rfl | refine keptO_ite ?_ ?_ | split
    | intro _)

theorem State.updHbm_kept {i0 : State} (s : State) (f : HbmMem → HbmMem) (hf : s.hbm.bytes.wf = true → (f s.hbm).bytes.wf = true)
    (hs : Kept i0 s) : Kept i0 (State.updHbm s f) := by
  rw [State.updHbm, kept_mk]
  exact keptMk_wf hs id id hf

theorem execHbmRefresh_kept {i0 : State} (c : ChannelIx) (_pc : Bool) (s : State) (hs : Kept i0 s) :
    KeptO i0 (execHbmRefresh c _pc s) := by
  rw [execHbmRefresh]
  with_reducible repeat' (first
    | assumption | dsimp only | apply State.bump_kept | apply keptO_next | refine keptO_ite ?_ ?_ | split | intro _)

theorem execWriteBatchDrain_kept {i0 : State} (c : ChannelIx) (pc : Bool) (s : State) (hs : Kept i0 s) :
    KeptO i0 (execWriteBatchDrain c pc s) := by
  rw [execWriteBatchDrain]
  with_reducible repeat' (first
    | assumption | dsimp only | apply State.updHbm_kept | apply keptO_next | simp only [kept_mk] | refine keptMk_of ?_ rfl rfl rfl | intro _)

theorem State.beginSoft_kept {i0 : State} (s : State) (r : RowRemap) (hs : Kept i0 s) :
    Kept i0 (State.beginSoft s r) := by
  rw [State.beginSoft]
  with_reducible repeat' (first
    | assumption | dsimp only | apply State.updHbm_kept | simp only [kept_mk] | refine keptMk_of ?_ rfl rfl rfl | refine kept_ite ?_ ?_
    | split | intro _)

theorem State.autoSoft_kept {i0 : State} (s : State) (r : RowRemap) (hs : Kept i0 s) :
    Kept i0 (State.autoSoft s r) := by
  rw [State.autoSoft]
  with_reducible repeat' (first
    | assumption | dsimp only | apply State.updHbm_kept | apply State.beginSoft_kept | simp only [kept_mk] | refine keptMk_of ?_ rfl rfl rfl
    | refine kept_ite ?_ ?_ | split | intro _)

theorem State.hardRequest_kept {i0 : State} (s : State) (r : RowRemap) (hs : Kept i0 s) :
    Kept i0 (State.hardRequest s r) := by
  rw [State.hardRequest]
  with_reducible repeat' (first
    | assumption | dsimp only | apply State.updHbm_kept | simp only [kept_mk] | refine keptMk_of ?_ rfl rfl rfl | refine kept_ite ?_ ?_
    | split | intro _)

theorem State.repairCtl_kept {i0 : State} (s : State) (v : Nat) (hs : Kept i0 s) :
    Kept i0 (State.repairCtl s v) := by
  rw [State.repairCtl]
  with_reducible repeat' (first
    | assumption | dsimp only | apply State.updHbm_kept | apply State.hardRequest_kept | apply State.beginSoft_kept | simp only [kept_mk]
    | refine keptMk_of ?_ rfl rfl rfl | refine kept_ite ?_ ?_ | split | intro _)

theorem execSoftRepair_kept {i0 : State} (ctl : Word) (s : State) (hs : Kept i0 s) :
    KeptO i0 (execSoftRepair ctl s) := by
  rw [execSoftRepair]
  with_reducible repeat' (first
    | assumption | dsimp only | apply State.repairCtl_kept | apply State.barDropped_kept | apply keptO_next | refine keptO_ite ?_ ?_ | split
    | intro _)

theorem execHardRepairRequest_kept {i0 : State} (ctl : Word) (s : State) (hs : Kept i0 s) :
    KeptO i0 (execHardRepairRequest ctl s) := by
  rw [execHardRepairRequest]
  with_reducible repeat' (first
    | assumption | dsimp only | apply State.repairCtl_kept | apply State.barDropped_kept | apply keptO_next | refine keptO_ite ?_ ?_ | split
    | intro _)

theorem execSoftRepairComplete_kept {i0 : State} (s : State) (hs : Kept i0 s) :
    KeptO i0 (execSoftRepairComplete s) := by
  rw [execSoftRepairComplete]
  with_reducible repeat' (first
    | assumption | dsimp only | apply State.updHbm_kept | apply State.autoSoft_kept | apply keptO_next | simp only [kept_mk]
    | refine keptMk_of ?_ rfl rfl rfl | split | intro _)

theorem State.flipBurst_kept {i0 : State} (s : State) (b : Nat) (errs : List (Nat × Nat)) (hs : Kept i0 s) :
    Kept i0 (State.flipBurst s b errs) := by
  rw [State.flipBurst]
  refine State.updHbm_kept _ _ ?_ hs
  dsimp only
  generalize s.hbm.bytes = m
  intro hm
  induction errs generalizing m with
  | nil => exact hm
  | cons e r ih =>
    refine ih _ ?_
    dsimp only
    split
    · exact Mem.write_wf _ _ hm
    · exact hm

theorem State.scrubFixed_kept {i0 : State} (s : State) (b symbols : Nat) (hs : Kept i0 s) :
    Kept i0 (State.scrubFixed s b symbols) := by
  rw [State.scrubFixed]
  with_reducible repeat' (first
    | assumption | dsimp only | apply State.setChan_kept | apply State.updHbm_kept | apply State.bump_kept | apply State.autoSoft_kept
    | simp only [kept_mk] | refine keptMk_of ?_ rfl rfl rfl | refine kept_ite ?_ ?_ | split | intro _)

theorem State.scrubBad_kept {i0 : State} (s : State) (b : Nat) (poison : Bool) (hs : Kept i0 s) :
    Kept i0 (State.scrubBad s b poison) := by
  rw [State.scrubBad]
  with_reducible repeat' (first
    | assumption | dsimp only | apply State.updHbm_kept | apply State.hbmTouched_kept | simp only [kept_mk]
    | refine keptMk_of ?_ rfl rfl rfl | refine kept_ite ?_ ?_ | split | intro _)

theorem State.scrubNext_kept {i0 : State} (s : State) (hs : Kept i0 s) :
    Kept i0 (State.scrubNext s) := by
  rw [State.scrubNext]
  with_reducible repeat' (first
    | assumption | dsimp only | apply State.updHbm_kept | simp only [kept_mk] | refine keptMk_of ?_ rfl rfl rfl | refine kept_ite ?_ ?_
    | split | intro _)

theorem execScrubStep_kept {i0 : State} (errs : List (Fin 72 × Byte)) (s : State) (hs : Kept i0 s) :
    KeptO i0 (execScrubStep errs s) := by
  rw [execScrubStep]
  with_reducible repeat' (first
    | assumption | dsimp only | apply State.hbmTouched_kept | apply State.scrubNext_kept | apply State.countBurst_kept
    | apply State.flipBurst_kept | apply State.scrubBad_kept | apply State.scrubFixed_kept | apply keptO_next | simp only [kept_mk]
    | refine keptMk_of ?_ rfl rfl rfl | refine keptO_ite ?_ ?_ | split | intro _)

theorem execChannelFailed_kept {i0 : State} (c : ChannelIx) (trainLost : Bool) (s : State) (hs : Kept i0 s) :
    KeptO i0 (execChannelFailed c trainLost s) := by
  rw [execChannelFailed]
  with_reducible repeat' (first
    | assumption | dsimp only | apply State.burst_kept | apply State.setChan_kept | apply State.updHbm_kept | apply State.report_kept
    | apply keptO_next | simp only [kept_mk] | refine keptMk_of ?_ rfl rfl rfl | refine keptO_ite ?_ ?_ | split | intro _)

theorem execRepairRecordWrite_kept {i0 : State} (s : State) (hs : Kept i0 s) :
    KeptO i0 (execRepairRecordWrite s) := by
  rw [execRepairRecordWrite]
  with_reducible repeat' (first
    | assumption | dsimp only | apply State.flashJob_kept | apply State.updHbm_kept | apply keptO_next | simp only [kept_mk]
    | refine keptMk_of ?_ rfl rfl rfl | refine keptO_ite ?_ ?_ | split | intro _)

end Sys2Proof.Machine
end

