-- ==== Sys2Proof/Laws/KeptEdges.lean ====
section
/-! SUPPORT. Kept by registers, the host edge and the vector engine: the queue and the form of the memories. -/

namespace Sys2Proof.Machine

theorem State.updHost_kept {i0 : State} (s : State) (f : HostIf → HostIf) (hs : Kept i0 s) :
    Kept i0 (State.updHost s f) := by
  rw [State.updHost]
  with_reducible repeat' (first
    | assumption | dsimp only | apply hf | simp only [kept_mk] | refine keptMk_of ?_ rfl rfl rfl | refine keptMk_wf ?_ ?_ ?_ ?_
    | apply Mem.writeN_wf | apply Mem.clearN_wf | apply Mem.filter_wf | apply foldl_write_wf | intro _)

theorem State.cqWrite_kept {i0 : State} (s : State) (q r v : Nat) (hs : Kept i0 s) :
    Kept i0 (State.cqWrite s q r v) := by
  unfold State.cqWrite
  with_reducible repeat' (first
    | assumption | dsimp only | apply State.ctlWrite_kept | apply State.consWrite_kept | apply State.setQueue_kept
    | apply State.violation_kept | simp only [kept_mk] | refine keptMk_of ?_ rfl rfl rfl | refine kept_ite ?_ ?_ | split)

theorem State.msixWrite_kept {i0 : State} (s : State) (n r v : Nat) (hs : Kept i0 s) :
    Kept i0 (State.msixWrite s n r v) := by
  unfold State.msixWrite
  with_reducible repeat' (first
    | assumption | dsimp only | apply State.vectorCtl_kept | apply State.updHost_kept | simp only [kept_mk]
    | refine keptMk_of ?_ rfl rfl rfl | split | intro _)

theorem State.hifWrite_kept {i0 : State} (s : State) (o v : Nat) (hs : Kept i0 s) :
    Kept i0 (State.hifWrite s o v) := by
  rw [State.hifWrite]
  with_reducible repeat' (first
    | assumption | dsimp only | apply State.updHost_kept | apply State.cqWrite_kept | apply State.msixWrite_kept | simp only [kept_mk]
    | refine keptMk_of ?_ rfl rfl rfl | refine kept_ite ?_ ?_ | split | intro _)

theorem State.bootCtl_kept {i0 : State} (s : State) (v : Nat) (hs : Kept i0 s) :
    Kept i0 (State.bootCtl s v) := by
  rw [State.bootCtl]
  with_reducible repeat' (first
    | assumption | dsimp only | apply State.cold_kept | apply State.warm_kept | refine kept_ite ?_ ?_ | split)

theorem State.bootWrite_kept {i0 : State} (s : State) (o v : Nat) (hs : Kept i0 s) :
    Kept i0 (State.bootWrite s o v) := by
  rw [State.bootWrite]
  with_reducible repeat' (first
    | assumption | dsimp only | apply State.bootCtl_kept | apply State.updBoot_kept | apply State.updCtl_kept | simp only [kept_mk]
    | refine keptMk_of ?_ rfl rfl rfl | refine kept_ite ?_ ?_ | split | intro _)

theorem State.secWrite_kept {i0 : State} (s : State) (o v : Nat) (hs : Kept i0 s) :
    Kept i0 (State.secWrite s o v) := by
  rw [State.secWrite]
  with_reducible repeat' (first
    | assumption | dsimp only | apply State.rollbackCtl_kept | apply State.submit_kept | apply State.dropGrants_kept
    | apply State.updBoot_kept | apply State.progCtl_kept | simp only [kept_mk] | refine keptMk_of ?_ rfl rfl rfl | refine kept_ite ?_ ?_
    | split | intro _)

theorem State.gafWrite_kept {i0 : State} (s : State) (o v : Nat) (hs : Kept i0 s) :
    Kept i0 (State.gafWrite s o v) := by
  rw [State.gafWrite]
  with_reducible repeat' (first
    | assumption | dsimp only | apply State.updGaf_kept | apply State.capWrite_kept | simp only [kept_mk] | refine keptMk_of ?_ rfl rfl rfl
    | refine kept_ite ?_ ?_ | split | intro _)

theorem State.tstRegWrite_kept {i0 : State} (s : State) (o v : Nat) (hs : Kept i0 s) :
    Kept i0 (State.tstRegWrite s o v) := by
  rw [State.tstRegWrite]
  with_reducible repeat' (first
    | assumption | dsimp only | apply State.tstWrite_kept | simp only [kept_mk] | refine keptMk_of ?_ rfl rfl rfl | refine kept_ite ?_ ?_
    | split)

theorem State.fltWrite_kept {i0 : State} (s : State) (o v : Nat) (hs : Kept i0 s) :
    Kept i0 (State.fltWrite s o v) := by
  rw [State.fltWrite]
  with_reducible repeat' (first
    | assumption | dsimp only | simp only [kept_mk] | refine keptMk_of ?_ rfl rfl rfl | refine kept_ite ?_ ?_ | split)

theorem State.rushWrite_kept {i0 : State} (s : State) (o v : Nat) (hs : Kept i0 s) :
    Kept i0 (State.rushWrite s o v) := by
  rw [State.rushWrite]
  with_reducible repeat' (first
    | assumption | dsimp only | apply State.rushCtl_kept | simp only [kept_mk] | refine keptMk_of ?_ rfl rfl rfl | refine kept_ite ?_ ?_
    | split)

theorem State.retCtl_kept {i0 : State} (s : State) (v : Nat) (hs : Kept i0 s) :
    Kept i0 (State.retCtl s v) := by
  rw [State.retCtl]
  with_reducible repeat' (first
    | assumption | dsimp only | apply State.mapRegs_kept | apply State.wakeBank_kept | simp only [kept_mk] | refine keptMk_of ?_ rfl rfl rfl
    | refine foldl_kept ?_ _ ?_ | refine kept_ite ?_ ?_ | split | intro _)

theorem State.memWrite_kept {i0 : State} (s : State) (o v : Nat) (hs : Kept i0 s) :
    Kept i0 (State.memWrite s o v) := by
  rw [State.memWrite]
  with_reducible repeat' (first
    | assumption | dsimp only | apply State.mapRegs_kept | apply State.mapCtl_kept | apply State.retCtl_kept | apply State.marchCtl_kept
    | simp only [kept_mk] | refine keptMk_of ?_ rfl rfl rfl | refine kept_ite ?_ ?_ | split | intro _)

theorem State.hbmRegWrite_kept {i0 : State} (s : State) (o v : Nat) (hs : Kept i0 s) :
    Kept i0 (State.hbmRegWrite s o v) := by
  rw [State.hbmRegWrite]
  with_reducible repeat' (first
    | assumption | dsimp only | apply State.updHbm_kept | apply State.repairCtl_kept | apply State.setChan_kept | simp only [kept_mk]
    | refine keptMk_of ?_ rfl rfl rfl | refine kept_ite ?_ ?_ | split | intro _)

theorem State.vdecWrite_kept {i0 : State} (s : State) (o v : Nat) (hs : Kept i0 s) :
    Kept i0 (State.vdecWrite s o v) := by
  rw [State.vdecWrite]
  with_reducible repeat' (first
    | assumption | dsimp only | apply State.setCtx_kept | simp only [kept_mk] | refine keptMk_of ?_ rfl rfl rfl | refine kept_ite ?_ ?_
    | split)

theorem State.sltWrite_kept {i0 : State} (s : State) (o v : Nat) (hs : Kept i0 s) :
    Kept i0 (State.sltWrite s o v) := by
  rw [State.sltWrite]
  with_reducible repeat' (first
    | assumption | dsimp only | simp only [kept_mk] | refine keptMk_of ?_ rfl rfl rfl | refine kept_ite ?_ ?_ | split)

theorem State.portCtl_kept {i0 : State} (s : State) (p v : Nat) (hs : Kept i0 s) :
    Kept i0 (State.portCtl s p v) := by
  rw [State.portCtl]
  with_reducible repeat' (first
    | assumption | dsimp only | apply State.portDisable_kept | apply State.portRelease_kept | apply State.portRetrain_kept
    | refine kept_ite ?_ ?_ | split)

theorem State.fabWrite_kept {i0 : State} (s : State) (o v : Nat) (hs : Kept i0 s) :
    Kept i0 (State.fabWrite s o v) := by
  rw [State.fabWrite]
  with_reducible repeat' (first
    | assumption | dsimp only | apply State.updFab_kept | apply State.portCtl_kept | apply State.updPort_kept | simp only [kept_mk]
    | refine keptMk_of ?_ rfl rfl rfl | refine kept_ite ?_ ?_ | split | intro _)

theorem State.selectWrite_kept {i0 : State} (s : State) (g v : Nat) (hs : Kept i0 s) :
    Kept i0 (State.selectWrite s g v) := by
  rw [State.selectWrite]
  with_reducible repeat' (first
    | assumption | dsimp only | apply State.updPerf_kept | simp only [kept_mk] | refine keptMk_of ?_ rfl rfl rfl | refine kept_ite ?_ ?_
    | split | intro _)

theorem State.perfWrite_kept {i0 : State} (s : State) (o v : Nat) (hs : Kept i0 s) :
    Kept i0 (State.perfWrite s o v) := by
  rw [State.perfWrite]
  with_reducible repeat' (first
    | assumption | dsimp only | apply State.selectWrite_kept | apply State.issueToken_kept | apply State.updPerf_kept | exact keptOpt_none _
    | apply keptOpt_some | apply keptOpt_some | exact keptOpt_none _ | simp only [kept_mk] | refine keptMk_of ?_ rfl rfl rfl
    | refine kept_ite ?_ ?_ | split | intro _)

theorem State.mailRegWrite_kept {i0 : State} (s : State) (m r v : Nat) (hs : Kept i0 s) :
    Kept i0 (State.mailRegWrite s m r v) := by
  unfold State.mailRegWrite
  with_reducible repeat' (first
    | assumption | dsimp only | apply State.setMail_kept | apply State.flushMail_kept | apply State.idle_kept | simp only [kept_mk]
    | refine keptMk_of ?_ rfl rfl rfl | refine kept_ite ?_ ?_ | split)

theorem State.dmaWrite_kept {i0 : State} (s : State) (o v : Nat) (hs : Kept i0 s) :
    Kept i0 (State.dmaWrite s o v) := by
  rw [State.dmaWrite]
  with_reducible repeat' (first
    | assumption | dsimp only | apply State.mailRegWrite_kept | apply State.setEng_kept | apply State.dmaCons_kept | simp only [kept_mk]
    | refine keptMk_of ?_ rfl rfl rfl | refine kept_ite ?_ ?_ | split)

theorem State.coreWrite_kept {i0 : State} (s : State) (o v : Nat) (hs : Kept i0 s) :
    Kept i0 (State.coreWrite s o v) := by
  rw [State.coreWrite]
  with_reducible repeat' (first
    | assumption | dsimp only | simp only [kept_mk] | refine keptMk_of ?_ rfl rfl rfl | refine kept_ite ?_ ?_ | split)

theorem State.regWrite_kept {i0 : State} (s : State) (b o v : Nat) (hs : Kept i0 s) :
    Kept i0 (State.regWrite s b o v) := by
  unfold State.regWrite
  with_reducible repeat' (first
    | assumption | dsimp only | apply State.hifWrite_kept | apply State.bootWrite_kept | apply State.secWrite_kept
    | apply State.gafWrite_kept | apply State.tstRegWrite_kept | apply State.fltWrite_kept | apply State.rushWrite_kept
    | apply State.memWrite_kept | apply State.hbmRegWrite_kept | apply State.vdecWrite_kept | apply State.sltWrite_kept
    | apply State.fabWrite_kept | apply State.perfWrite_kept | apply State.dmaWrite_kept | apply State.coreWrite_kept | simp only [kept_mk]
    | refine keptMk_of ?_ rfl rfl rfl | refine kept_ite ?_ ?_ | split)

theorem State.barWrite_kept {i0 : State} (s : State) (off v : Nat) (hs : Kept i0 s) :
    Kept i0 (State.barWrite s off v) := by
  rw [State.barWrite]
  with_reducible repeat' (first
    | assumption | dsimp only | apply State.violation_kept | apply State.regWrite_kept | refine kept_ite ?_ ?_ | split)

theorem execRegisterWrite_kept {i0 : State} (dword : BitVec 24) (value : Word) (poisoned : Bool) (s : State) (hs : Kept i0 s) :
    KeptO i0 (execRegisterWrite dword value poisoned s) := by
  rw [execRegisterWrite]
  with_reducible repeat' (first
    | assumption | dsimp only | apply State.updHost_kept | apply State.violation_kept | apply State.barWrite_kept | apply keptO_next
    | simp only [kept_mk] | refine keptMk_of ?_ rfl rfl rfl | refine keptO_ite ?_ ?_ | split | intro _)

theorem State.counterRead_kept {i0 : State} (s : State) (o g : Nat) (select : Bool) (hs : Kept i0 s) :
    Kept i0 (State.counterRead s o g select).2 := by
  rw [State.counterRead]
  with_reducible repeat' (first
    | assumption | dsimp only | apply State.counterNow_kept | refine kept_snd ?_ (by assumption) | refine kept_fst ?_ (by assumption)
    | simp only [kept_mk] | refine keptMk_of ?_ rfl rfl rfl | split | intro _)

theorem State.regRead_kept {i0 : State} (s : State) (b o : Nat) (hs : Kept i0 s) :
    Kept i0 (State.regRead s b o).2 := by
  unfold State.regRead
  with_reducible repeat' (first
    | assumption | dsimp only | apply State.settleTst_kept | apply State.counterRead_kept | refine kept_snd ?_ (by assumption)
    | refine kept_fst ?_ (by assumption) | simp only [kept_mk] | refine keptMk_of ?_ rfl rfl rfl | split | intro _)

theorem State.barRead_kept {i0 : State} (s : State) (off : Nat) (hs : Kept i0 s) :
    Kept i0 (State.barRead s off).2 := by
  rw [State.barRead]
  with_reducible repeat' (first
    | assumption | dsimp only | apply State.regRead_kept | split | intro _)

theorem State.drawWords_kept {i0 : State} (s : State) (y0 : Nat) (hs : Kept i0 s) :
    Kept i0 (State.drawWords s y0).2 := by
  induction y0 generalizing s with
  | zero =>
    simp only [State.drawWords]
    first | exact hs | exact keptOpt_some hs | exact keptP_some hs | exact keptE_ok hs | trivial
  | succ n ih =>
    rw [State.drawWords]
    with_reducible repeat' (first
      | assumption | apply ih | dsimp only | apply State.draw_kept | refine kept_snd ?_ (by assumption) | refine kept_fst ?_ (by assumption)
      | simp only [kept_mk] | refine keptMk_of ?_ rfl rfl rfl | split | intro _)

theorem State.drawLine_kept {i0 : State} (s : State) (hs : Kept i0 s) :
    Kept i0 (State.drawLine s).2 := by
  rw [State.drawLine]
  with_reducible repeat' (first
    | assumption | dsimp only | apply State.drawWords_kept | refine kept_snd ?_ (by assumption) | refine kept_fst ?_ (by assumption)
    | simp only [kept_mk] | refine keptMk_of ?_ rfl rfl rfl | split | intro _)

theorem State.storeLine_kept {i0 : State} (s : State) (pa : Nat) (hs : Kept i0 s) :
    Kept i0 (State.storeLine s pa).2 := by
  rw [State.storeLine]
  with_reducible repeat' (first
    | assumption | dsimp only | apply State.drawLine_kept | refine kept_snd ?_ (by assumption) | refine kept_fst ?_ (by assumption)
    | simp only [kept_mk] | refine keptMk_of ?_ rfl rfl rfl | split | intro _)

theorem execCxlMemWrite_kept {i0 : State} (line : BitVec 34) (data : BitVec 512) (poisoned : Bool) (s : State) (hs : Kept i0 s) :
    KeptO i0 (execCxlMemWrite line data poisoned s) := by
  rw [execCxlMemWrite]
  with_reducible repeat' (first
    | assumption | dsimp only | apply State.violation_kept | apply State.send_kept | apply State.writePlace_kept | apply keptO_next
    | exact keptO_fault _ _ | refine keptO_ite ?_ ?_ | split | intro _)

theorem execCxlMemRead_kept {i0 : State} (line : BitVec 34) (s : State) (hs : Kept i0 s) :
    KeptO i0 (execCxlMemRead line s) := by
  rw [execCxlMemRead]
  with_reducible repeat' (first
    | assumption | dsimp only | apply State.drawLine_kept | apply State.violation_kept | apply State.send_kept | apply State.storeLine_kept
    | apply State.hbmTouched_kept | apply keptO_next | exact keptO_fault _ _ | refine keptO_ite ?_ ?_ | split | intro _)

theorem execConfigRequest_kept {i0 : State} (reg : BitVec 10) (write : Bool) (s : State) (hs : Kept i0 s) :
    KeptO i0 (execConfigRequest reg write s) := by
  rw [execConfigRequest]
  with_reducible repeat' (first
    | assumption | dsimp only | apply State.send_kept | apply State.draw_kept | refine kept_snd ?_ (by assumption)
    | refine kept_fst ?_ (by assumption) | apply keptO_next | simp only [kept_mk] | refine keptMk_of ?_ rfl rfl rfl | refine keptO_ite ?_ ?_
    | split | intro _)

theorem execMalformedTlp_kept {i0 : State} (s : State) (hs : Kept i0 s) :
    KeptO i0 (execMalformedTlp s) := by
  rw [execMalformedTlp]
  with_reducible repeat' (first
    | assumption | dsimp only | apply State.updHost_kept | apply State.violation_kept | apply keptO_next | simp only [kept_mk]
    | refine keptMk_of ?_ rfl rfl rfl | refine keptO_ite ?_ ?_ | split | intro _)

theorem execUnsupportedRequest_kept {i0 : State} (addr : Dword) (s : State) (hs : Kept i0 s) :
    KeptO i0 (execUnsupportedRequest addr s) := by
  rw [execUnsupportedRequest]
  with_reducible repeat' (first
    | assumption | dsimp only | apply State.violation_kept | apply State.send_kept | apply keptO_next | refine keptO_ite ?_ ?_ | split
    | intro _)

theorem execI3cTransaction_kept {i0 : State} (op : BitVec 2) (addr : Byte) (dword : BitVec 24) (value : Word) (s : State) (hs : Kept i0 s) :
    KeptO i0 (execI3cTransaction op addr dword value s) := by
  rw [execI3cTransaction]
  with_reducible repeat' (first
    | assumption | dsimp only | apply State.send_kept | apply State.barRead_kept | apply State.barWrite_kept
    | refine kept_snd ?_ (by assumption) | refine kept_fst ?_ (by assumption) | apply keptO_next | simp only [kept_mk]
    | refine keptMk_of ?_ rfl rfl rfl | refine keptO_ite ?_ ?_ | split | intro _)

theorem State.countVec_kept {i0 : State} (s : State) (w cycles : Nat) (hs : Kept i0 s) :
    Kept i0 (State.countVec s w cycles) := by
  rw [State.countVec]
  with_reducible repeat' (first
    | assumption | dsimp only | apply State.bump_kept)

theorem vecIssue_kept {i0 : State} (w : CoreIx) (word : Dword) (op cycles : Nat) (f : Kern → State → State) (s : State) (hf : ∀ z0 z1, Kept i0 z1 → Kept i0 (f z0 z1)) (hs : Kept i0 s) :
    KeptO i0 (vecIssue w word op cycles f s) := by
  rw [vecIssue]
  with_reducible repeat' (first
    | assumption | dsimp only | apply issue_kept | apply State.countVec_kept | apply hf | apply keptO_next | apply keptOpt_some
    | exact keptOpt_none _ | intro _)

theorem State.writeLanes_kept {i0 : State} (s : State) (w n dst : Nat) (v : List (Word × NumCnt)) (hs : Kept i0 s) :
    Kept i0 (State.writeLanes s w n dst v) := by
  rw [State.writeLanes]
  with_reducible repeat' (first
    | assumption | dsimp only | apply State.setCore_kept | apply State.countNum_kept | refine kept_ite ?_ ?_ | split | intro _)

theorem State.vop_kept {i0 : State} (s : State) (w n : Nat) (hs : Kept i0 s) :
    Kept i0 (State.vop s w n) := by
  rw [State.vop]
  with_reducible repeat' (first
    | assumption | dsimp only | apply State.writeLanes_kept | refine kept_ite ?_ ?_ | split | intro _)

theorem execVop_kept {i0 : State} (w : CoreIx) (word : Dword) (s : State) (hs : Kept i0 s) :
    KeptO i0 (execVop w word s) := by
  rw [execVop]
  with_reducible repeat' (first
    | assumption | dsimp only | apply vecIssue_kept | apply State.vop_kept | apply keptO_next | intro _)

theorem State.vcvt_kept {i0 : State} (s : State) (w n : Nat) (k : Kern) (hs : Kept i0 s) :
    Kept i0 (State.vcvt s w n k) := by
  rw [State.vcvt]
  with_reducible repeat' (first
    | assumption | dsimp only | apply State.endCmd_kept | apply State.writeLanes_kept | simp only [kept_mk]
    | refine keptMk_of ?_ rfl rfl rfl | refine kept_ite ?_ ?_ | split | intro _)

theorem execVcvt_kept {i0 : State} (w : CoreIx) (word : Dword) (s : State) (hs : Kept i0 s) :
    KeptO i0 (execVcvt w word s) := by
  rw [execVcvt]
  with_reducible repeat' (first
    | assumption | dsimp only | apply vecIssue_kept | apply State.vcvt_kept | apply keptO_next | intro _)

theorem State.vred_kept {i0 : State} (s : State) (w n : Nat) (hs : Kept i0 s) :
    Kept i0 (State.vred s w n) := by
  rw [State.vred]
  with_reducible repeat' (first
    | assumption | dsimp only | apply State.bump_kept | apply State.writeLanes_kept | simp only [kept_mk] | refine keptMk_of ?_ rfl rfl rfl
    | simp only [id_eq] | refine kept_ite ?_ ?_ | split | intro _)

theorem execVred_kept {i0 : State} (w : CoreIx) (word : Dword) (s : State) (hs : Kept i0 s) :
    KeptO i0 (execVred w word s) := by
  rw [execVred]
  with_reducible repeat' (first
    | assumption | dsimp only | apply vecIssue_kept | apply State.vred_kept | apply keptO_next | intro _)

theorem execVcmp_kept {i0 : State} (w : CoreIx) (word : Dword) (s : State) (hs : Kept i0 s) :
    KeptO i0 (execVcmp w word s) := by
  rw [execVcmp]
  with_reducible repeat' (first
    | assumption | dsimp only | apply vecIssue_kept | apply State.setCore_kept | apply keptO_next | simp only [kept_mk]
    | refine keptMk_of ?_ rfl rfl rfl | refine keptO_ite ?_ ?_ | split | intro _)

theorem State.loadTile_kept {i0 : State} (s : State) (k : Kern) (w n reg : Nat) (t : TileAcc) (hs : Kept i0 s) :
    Kept i0 (State.loadTile s k w n reg t) := by
  rw [State.loadTile]
  with_reducible repeat' (first
    | assumption | dsimp only | apply State.setCore_kept | apply State.countNum_kept | simp only [kept_mk] | refine keptMk_of ?_ rfl rfl rfl
    | refine kept_ite ?_ ?_ | split | intro _)

theorem State.tileCheck_kept {i0 : State} (s : State) (k : Kern) (w n : Nat) (store : Bool) (go : NumFmt → TileAcc → State) (hs : Kept i0 s) (hgo : ∀ z0 z1, Kept i0 (go z0 z1)) :
    Kept i0 (State.tileCheck s k w n store go) := by
  rw [State.tileCheck]
  with_reducible repeat' (first
    | assumption | dsimp only | apply State.endCmd_kept | apply State.coreFault_kept | apply State.bump_kept | apply hgo
    | simp only [kept_mk] | refine keptMk_of ?_ rfl rfl rfl | refine kept_ite ?_ ?_ | split)

theorem execVld_kept {i0 : State} (w : CoreIx) (word : Dword) (s : State) (hs : Kept i0 s) :
    KeptO i0 (execVld w word s) := by
  rw [execVld]
  with_reducible repeat' (first
    | assumption | dsimp only | apply vecIssue_kept | apply State.tileCheck_kept | apply State.loadTile_kept | apply keptO_next | intro _)

theorem State.storeTile_kept {i0 : State} (s : State) (k : Kern) (w n reg : Nat) (t : TileAcc) (hs : Kept i0 s) :
    Kept i0 (State.storeTile s k w n reg t) := by
  rw [State.storeTile]
  with_reducible repeat' (first
    | assumption | dsimp only | apply State.selfWrite_kept | apply State.countNum_kept | apply State.setCore_kept | simp only [kept_mk]
    | refine keptMk_of ?_ rfl rfl rfl | refine foldl_kept ?_ _ ?_ | refine kept_ite ?_ ?_ | split | intro _)

theorem execVst_kept {i0 : State} (w : CoreIx) (word : Dword) (s : State) (hs : Kept i0 s) :
    KeptO i0 (execVst w word s) := by
  rw [execVst]
  with_reducible repeat' (first
    | assumption | dsimp only | apply vecIssue_kept | apply State.tileCheck_kept | apply State.storeTile_kept | apply keptO_next | intro _)

theorem execVsetx_kept {i0 : State} (w : CoreIx) (word : Dword) (s : State) (hs : Kept i0 s) :
    KeptO i0 (execVsetx w word s) := by
  rw [execVsetx]
  with_reducible repeat' (first
    | assumption | dsimp only | apply issue_kept | apply State.setCore_kept | apply keptO_next | apply keptOpt_some | exact keptOpt_none _
    | refine keptO_ite ?_ ?_ | split | intro _)

theorem execVloop_kept {i0 : State} (w : CoreIx) (word : Dword) (s : State) (hs : Kept i0 s) :
    KeptO i0 (execVloop w word s) := by
  rw [execVloop]
  with_reducible repeat' (first
    | assumption | dsimp only | apply issue_kept | apply State.endCmd_kept | apply State.setCore_kept | apply keptO_next
    | apply keptOpt_some | exact keptOpt_none _ | simp only [kept_mk] | refine keptMk_of ?_ rfl rfl rfl | refine keptO_ite ?_ ?_ | split
    | intro _)

theorem execVrand_kept {i0 : State} (w : CoreIx) (word : Dword) (s : State) (hs : Kept i0 s) :
    KeptO i0 (execVrand w word s) := by
  rw [execVrand]
  with_reducible repeat' (first
    | assumption | dsimp only | apply vecIssue_kept | apply State.setCore_kept | apply State.bump_kept | exact keptOpt_none _
    | apply keptOpt_some | apply keptO_next | refine keptO_ite ?_ ?_ | split | intro _)

theorem execVscore_kept {i0 : State} (w : CoreIx) (word : Dword) (s : State) (hs : Kept i0 s) :
    KeptO i0 (execVscore w word s) := by
  rw [execVscore]
  with_reducible repeat' (first
    | assumption | dsimp only | apply vecIssue_kept | apply State.bump_kept | apply keptO_next | simp only [kept_mk]
    | refine keptMk_of ?_ rfl rfl rfl | refine keptO_ite ?_ ?_ | split | intro _)

theorem execEprun_kept {i0 : State} (w : CoreIx) (word : Dword) (s : State) (hs : Kept i0 s) :
    KeptO i0 (execEprun w word s) := by
  rw [execEprun]
  with_reducible repeat' (first
    | assumption | dsimp only | apply vecIssue_kept | apply State.coreFault_kept | apply State.eprun_kept | apply keptO_next
    | simp only [kept_mk] | refine keptMk_of ?_ rfl rfl rfl | split | intro _)

end Sys2Proof.Machine
end

