-- ==== Sys2Proof/Laws/PerInstr.lean ====
section
/-! SUPPORT. What every well-formed command says of the word it carries, one lemma per row. -/

namespace Sys2Proof.Laws

/-- The instruction word a command carries and the opcode its row has (R181, R225, R263, R269, R353, R422, R596). -/
def wordOp : Instr → Option (Dword × Nat)
  | .matmul _ w => some (w, 0x40)
  | .attend _ w => some (w, 0x41)
  | .conv _ w => some (w, 0x48)
  | .pool _ w => some (w, 0x49)
  | .halo _ w => some (w, 0x4A)
  | .edgePrep _ w => some (w, 0x4B)
  | .edgeConv _ w => some (w, 0x4B)
  | .await _ w => some (w, 0x4F)
  | .eprun _ w => some (w, 0x31)
  | .vop _ w => some (w, 0x10)
  | .vcvt _ w => some (w, 0x11)
  | .vred _ w => some (w, 0x12)
  | .vscore _ w => some (w, 0x14)
  | .vcmp _ w => some (w, 0x15)
  | .vld _ w => some (w, 0x20)
  | .vst _ w => some (w, 0x21)
  | .vsetx _ w => some (w, 0x28)
  | .vloop _ w => some (w, 0x30)
  | .vrand _ w => some (w, 0x13)
  | .dmaq _ w => some (w, 0x39)
  | .perfrd _ w => some (w, 0x3A)
  | .slateWait _ w => some (w, 0x38)
  | .slateWaiteq _ w => some (w, 0x38)
  | .slateSignal _ w => some (w, 0x38)
  | .slateAdd _ w => some (w, 0x38)
  | .slateFadd _ w => some (w, 0x38)
  | .slateCas _ w => some (w, 0x38)
  | .slateRead _ w => some (w, 0x38)
  | .slateSet _ w => some (w, 0x38)
  | _ => none

/-- A well-formed core instruction carries the opcode of its row in the low byte of its word. -/
def OpcodeWf.Statement (i : Instr) : Prop := i.wellFormed = true → ∀ w op, wordOp i = some (w, op) → w.toNat % 256 = op

/-- A word with an opcode has it in its low byte. -/
theorem opcodeIs_low {w : Dword} {op : Nat} (h : opcodeIs w op = true) : w.toNat % 256 = op := by
  simpa [opcodeIs] using h

/-- A slate word has the opcode of SLATE. -/
theorem slateIs_low {w : Dword} {op : Nat} (h : slateIs w op = true) : w.toNat % 256 = 0x38 := by
  simp only [slateIs, Bool.and_eq_true] at h
  exact opcodeIs_low h.1

/-- A row whose word is not among its operands says nothing. -/
theorem OpcodeWf.none {i : Instr} (h : wordOp i = Option.none) : OpcodeWf.Statement i := by
  intro _ w op e
  rw [h] at e
  cases e

/-- A row with a word says its opcode. -/
theorem OpcodeWf.some {i : Instr} {w : Dword} {op : Nat} (h : wordOp i = Option.some (w, op)) (g : i.wellFormed = true → w.toNat % 256 = op) :
    OpcodeWf.Statement i := by
  intro wf w' op' e
  rw [h] at e
  cases e
  exact g wf

theorem OpcodeWf.loadProgram (seq : Word) : OpcodeWf.Statement (.loadProgram seq) :=
  OpcodeWf.none rfl
theorem OpcodeWf.unload (seq : Word) : OpcodeWf.Statement (.unload seq) :=
  OpcodeWf.none rfl
theorem OpcodeWf.runKernel (seq : Word) : OpcodeWf.Statement (.runKernel seq) :=
  OpcodeWf.none rfl
theorem OpcodeWf.runGraph (seq : Word) : OpcodeWf.Statement (.runGraph seq) :=
  OpcodeWf.none rfl
theorem OpcodeWf.forkTake (seq : Word) : OpcodeWf.Statement (.forkTake seq) :=
  OpcodeWf.none rfl
theorem OpcodeWf.advanceTakes (seq : Word) : OpcodeWf.Statement (.advanceTakes seq) :=
  OpcodeWf.none rfl
theorem OpcodeWf.cutTakes (seq : Word) : OpcodeWf.Statement (.cutTakes seq) :=
  OpcodeWf.none rfl
theorem OpcodeWf.pruneTake (seq : Word) : OpcodeWf.Statement (.pruneTake seq) :=
  OpcodeWf.none rfl
theorem OpcodeWf.exportReel (seq : Word) : OpcodeWf.Statement (.exportReel seq) :=
  OpcodeWf.none rfl
theorem OpcodeWf.importReel (seq : Word) : OpcodeWf.Statement (.importReel seq) :=
  OpcodeWf.none rfl
theorem OpcodeWf.resetReels (seq : Word) : OpcodeWf.Statement (.resetReels seq) :=
  OpcodeWf.none rfl
theorem OpcodeWf.resetReelsCreate (seq : Word) : OpcodeWf.Statement (.resetReelsCreate seq) :=
  OpcodeWf.none rfl
theorem OpcodeWf.resetReelsRelease (seq : Word) : OpcodeWf.Statement (.resetReelsRelease seq) :=
  OpcodeWf.none rfl
theorem OpcodeWf.openStream (seq : Word) : OpcodeWf.Statement (.openStream seq) :=
  OpcodeWf.none rfl
theorem OpcodeWf.closeStream (seq : Word) : OpcodeWf.Statement (.closeStream seq) :=
  OpcodeWf.none rfl
theorem OpcodeWf.dmaCopy (seq : Word) : OpcodeWf.Statement (.dmaCopy seq) :=
  OpcodeWf.none rfl
theorem OpcodeWf.dmaCopyDesc (seq : Word) : OpcodeWf.Statement (.dmaCopyDesc seq) :=
  OpcodeWf.none rfl
theorem OpcodeWf.slateOpWait (seq : Word) : OpcodeWf.Statement (.slateOpWait seq) :=
  OpcodeWf.none rfl
theorem OpcodeWf.slateOpWaiteq (seq : Word) : OpcodeWf.Statement (.slateOpWaiteq seq) :=
  OpcodeWf.none rfl
theorem OpcodeWf.slateOpSignal (seq : Word) : OpcodeWf.Statement (.slateOpSignal seq) :=
  OpcodeWf.none rfl
theorem OpcodeWf.slateOpAdd (seq : Word) : OpcodeWf.Statement (.slateOpAdd seq) :=
  OpcodeWf.none rfl
theorem OpcodeWf.slateOpFadd (seq : Word) : OpcodeWf.Statement (.slateOpFadd seq) :=
  OpcodeWf.none rfl
theorem OpcodeWf.slateOpCas (seq : Word) : OpcodeWf.Statement (.slateOpCas seq) :=
  OpcodeWf.none rfl
theorem OpcodeWf.slateOpRead (seq : Word) : OpcodeWf.Statement (.slateOpRead seq) :=
  OpcodeWf.none rfl
theorem OpcodeWf.slateOpSet (seq : Word) : OpcodeWf.Statement (.slateOpSet seq) :=
  OpcodeWf.none rfl
theorem OpcodeWf.migrateHint (seq : Word) : OpcodeWf.Statement (.migrateHint seq) :=
  OpcodeWf.none rfl
theorem OpcodeWf.fenceCore (seq : Word) : OpcodeWf.Statement (.fenceCore seq) :=
  OpcodeWf.none rfl
theorem OpcodeWf.fenceCoreDrain (seq : Word) : OpcodeWf.Statement (.fenceCoreDrain seq) :=
  OpcodeWf.none rfl
theorem OpcodeWf.queryDevice (seq : Word) : OpcodeWf.Statement (.queryDevice seq) :=
  OpcodeWf.none rfl
theorem OpcodeWf.queryTake (seq : Word) : OpcodeWf.Statement (.queryTake seq) :=
  OpcodeWf.none rfl
theorem OpcodeWf.queryReel (seq : Word) : OpcodeWf.Statement (.queryReel seq) :=
  OpcodeWf.none rfl
theorem OpcodeWf.querySequence (seq : Word) : OpcodeWf.Statement (.querySequence seq) :=
  OpcodeWf.none rfl
theorem OpcodeWf.intakeWrite (off : BitVec 20) (data : List Byte) (poisoned : Bool) : OpcodeWf.Statement (.intakeWrite off data poisoned) :=
  OpcodeWf.none rfl
theorem OpcodeWf.receiptRead (off : BitVec 20) (len : Nat) : OpcodeWf.Statement (.receiptRead off len) :=
  OpcodeWf.none rfl
theorem OpcodeWf.partialTimeout (slot : IntakeIx) : OpcodeWf.Statement (.partialTimeout slot) :=
  OpcodeWf.none rfl
theorem OpcodeWf.schedulingPass : OpcodeWf.Statement .schedulingPass :=
  OpcodeWf.none rfl
theorem OpcodeWf.pieceDispatch (seq : Word) : OpcodeWf.Statement (.pieceDispatch seq) :=
  OpcodeWf.none rfl
theorem OpcodeWf.sliceStart (seq : Word) : OpcodeWf.Statement (.sliceStart seq) :=
  OpcodeWf.none rfl
theorem OpcodeWf.stageDispatch (seq : Word) (stage : Half) : OpcodeWf.Statement (.stageDispatch seq stage) :=
  OpcodeWf.none rfl
theorem OpcodeWf.holdLimitExpiry (seq : Word) : OpcodeWf.Statement (.holdLimitExpiry seq) :=
  OpcodeWf.none rfl
theorem OpcodeWf.quantumExpiry (seq : Word) : OpcodeWf.Statement (.quantumExpiry seq) :=
  OpcodeWf.none rfl
theorem OpcodeWf.saveComplete (seq : Word) (layer : Half) : OpcodeWf.Statement (.saveComplete seq layer) :=
  OpcodeWf.none rfl
theorem OpcodeWf.restoreComplete (seq : Word) (layer : Half) : OpcodeWf.Statement (.restoreComplete seq layer) :=
  OpcodeWf.none rfl
theorem OpcodeWf.kernelComplete (seq : Word) (layer : Half) : OpcodeWf.Statement (.kernelComplete seq layer) :=
  OpcodeWf.none rfl
theorem OpcodeWf.completionRecordVisible (q : QueueIx) (accepted : Bool) : OpcodeWf.Statement (.completionRecordVisible q accepted) :=
  OpcodeWf.none rfl
theorem OpcodeWf.msixHoldoffExpiry (q : QueueIx) : OpcodeWf.Statement (.msixHoldoffExpiry q) :=
  OpcodeWf.none rfl
theorem OpcodeWf.hifCqConsWrite (q : QueueIx) (value : Word) : OpcodeWf.Statement (.hifCqConsWrite q value) :=
  OpcodeWf.none rfl
theorem OpcodeWf.hifCqCtlWrite (q : QueueIx) (value : Word) : OpcodeWf.Statement (.hifCqCtlWrite q value) :=
  OpcodeWf.none rfl
theorem OpcodeWf.msixVectorUnmask (v : QueueIx) (ctl : Word) : OpcodeWf.Statement (.msixVectorUnmask v ctl) :=
  OpcodeWf.none rfl
theorem OpcodeWf.cxlMemWrite (line : BitVec 34) (data : BitVec 512) (poisoned : Bool) : OpcodeWf.Statement (.cxlMemWrite line data poisoned) :=
  OpcodeWf.none rfl
theorem OpcodeWf.cxlMemRead (line : BitVec 34) : OpcodeWf.Statement (.cxlMemRead line) :=
  OpcodeWf.none rfl
theorem OpcodeWf.configRequest (reg : BitVec 10) (write : Bool) : OpcodeWf.Statement (.configRequest reg write) :=
  OpcodeWf.none rfl
theorem OpcodeWf.malformedTlp : OpcodeWf.Statement .malformedTlp :=
  OpcodeWf.none rfl
theorem OpcodeWf.unsupportedRequest (addr : Dword) : OpcodeWf.Statement (.unsupportedRequest addr) :=
  OpcodeWf.none rfl
theorem OpcodeWf.registerWrite (dword : BitVec 24) (value : Word) (poisoned : Bool) : OpcodeWf.Statement (.registerWrite dword value poisoned) :=
  OpcodeWf.none rfl
theorem OpcodeWf.getVersion : OpcodeWf.Statement .getVersion :=
  OpcodeWf.none rfl
theorem OpcodeWf.getCapabilities : OpcodeWf.Statement .getCapabilities :=
  OpcodeWf.none rfl
theorem OpcodeWf.negotiateAlgorithms (meets : Bool) : OpcodeWf.Statement (.negotiateAlgorithms meets) :=
  OpcodeWf.none rfl
theorem OpcodeWf.getDigests : OpcodeWf.Statement .getDigests :=
  OpcodeWf.none rfl
theorem OpcodeWf.getCertificate (slot1 : Bool) (offset length : Half) : OpcodeWf.Statement (.getCertificate slot1 offset length) :=
  OpcodeWf.none rfl
theorem OpcodeWf.challenge (nonce : BitVec 256) : OpcodeWf.Statement (.challenge nonce) :=
  OpcodeWf.none rfl
theorem OpcodeWf.getMeasurements (index : Byte) (signed : Bool) (nonce : BitVec 256) : OpcodeWf.Statement (.getMeasurements index signed nonce) :=
  OpcodeWf.none rfl
theorem OpcodeWf.keyExchange (share : List Byte) : OpcodeWf.Statement (.keyExchange share) :=
  OpcodeWf.none rfl
theorem OpcodeWf.finish (verified : Bool) : OpcodeWf.Statement (.finish verified) :=
  OpcodeWf.none rfl
theorem OpcodeWf.endSession : OpcodeWf.Statement .endSession :=
  OpcodeWf.none rfl
theorem OpcodeWf.ideKm (op : BitVec 2) (mem : Bool) : OpcodeWf.Statement (.ideKm op mem) :=
  OpcodeWf.none rfl
theorem OpcodeWf.matmul (w : CoreIx) (word : Dword) : OpcodeWf.Statement (.matmul w word) :=
  OpcodeWf.some rfl (fun h => opcodeIs_low h)
theorem OpcodeWf.attend (w : CoreIx) (word : Dword) : OpcodeWf.Statement (.attend w word) :=
  OpcodeWf.some rfl (fun h => opcodeIs_low h)
theorem OpcodeWf.await (w : CoreIx) (word : Dword) : OpcodeWf.Statement (.await w word) :=
  OpcodeWf.some rfl (fun h => opcodeIs_low h)
theorem OpcodeWf.arrayLastOutput (w : CoreIx) : OpcodeWf.Statement (.arrayLastOutput w) :=
  OpcodeWf.none rfl
theorem OpcodeWf.conv (w : CoreIx) (word : Dword) : OpcodeWf.Statement (.conv w word) :=
  OpcodeWf.some rfl (fun h => opcodeIs_low h)
theorem OpcodeWf.pool (w : CoreIx) (word : Dword) : OpcodeWf.Statement (.pool w word) :=
  OpcodeWf.some rfl (fun h => opcodeIs_low h)
theorem OpcodeWf.halo (w : CoreIx) (word : Dword) : OpcodeWf.Statement (.halo w word) :=
  OpcodeWf.some rfl (fun h => opcodeIs_low h)
theorem OpcodeWf.haloDone (w : CoreIx) : OpcodeWf.Statement (.haloDone w) :=
  OpcodeWf.none rfl
theorem OpcodeWf.edgePrep (w : CoreIx) (word : Dword) : OpcodeWf.Statement (.edgePrep w word) :=
  OpcodeWf.some rfl (fun h => opcodeIs_low h)
theorem OpcodeWf.edgeConv (w : CoreIx) (word : Dword) : OpcodeWf.Statement (.edgeConv w word) :=
  OpcodeWf.some rfl (fun h => opcodeIs_low h)
theorem OpcodeWf.edgeJobDone (n : ClusterIx) (pred : Option (List Half)) : OpcodeWf.Statement (.edgeJobDone n pred) :=
  OpcodeWf.none rfl
theorem OpcodeWf.eprun (w : CoreIx) (word : Dword) : OpcodeWf.Statement (.eprun w word) :=
  OpcodeWf.some rfl (fun h => opcodeIs_low h)
theorem OpcodeWf.vop (w : CoreIx) (word : Dword) : OpcodeWf.Statement (.vop w word) :=
  OpcodeWf.some rfl (fun h => opcodeIs_low h)
theorem OpcodeWf.vcvt (w : CoreIx) (word : Dword) : OpcodeWf.Statement (.vcvt w word) :=
  OpcodeWf.some rfl (fun h => opcodeIs_low h)
theorem OpcodeWf.vred (w : CoreIx) (word : Dword) : OpcodeWf.Statement (.vred w word) :=
  OpcodeWf.some rfl (fun h => opcodeIs_low h)
theorem OpcodeWf.vscore (w : CoreIx) (word : Dword) : OpcodeWf.Statement (.vscore w word) :=
  OpcodeWf.some rfl (fun h => opcodeIs_low h)
theorem OpcodeWf.vcmp (w : CoreIx) (word : Dword) : OpcodeWf.Statement (.vcmp w word) :=
  OpcodeWf.some rfl (fun h => opcodeIs_low h)
theorem OpcodeWf.vld (w : CoreIx) (word : Dword) : OpcodeWf.Statement (.vld w word) :=
  OpcodeWf.some rfl (fun h => opcodeIs_low h)
theorem OpcodeWf.vst (w : CoreIx) (word : Dword) : OpcodeWf.Statement (.vst w word) :=
  OpcodeWf.some rfl (fun h => opcodeIs_low h)
theorem OpcodeWf.vsetx (w : CoreIx) (word : Dword) : OpcodeWf.Statement (.vsetx w word) :=
  OpcodeWf.some rfl (fun h => opcodeIs_low h)
theorem OpcodeWf.vloop (w : CoreIx) (word : Dword) : OpcodeWf.Statement (.vloop w word) :=
  OpcodeWf.some rfl (fun h => opcodeIs_low h)
theorem OpcodeWf.vrand (w : CoreIx) (word : Dword) : OpcodeWf.Statement (.vrand w word) :=
  OpcodeWf.some rfl (fun h => opcodeIs_low h)
theorem OpcodeWf.slateWait (w : CoreIx) (word : Dword) : OpcodeWf.Statement (.slateWait w word) :=
  OpcodeWf.some rfl (fun h => slateIs_low h)
theorem OpcodeWf.slateWaiteq (w : CoreIx) (word : Dword) : OpcodeWf.Statement (.slateWaiteq w word) :=
  OpcodeWf.some rfl (fun h => slateIs_low h)
theorem OpcodeWf.slateSignal (w : CoreIx) (word : Dword) : OpcodeWf.Statement (.slateSignal w word) :=
  OpcodeWf.some rfl (fun h => slateIs_low h)
theorem OpcodeWf.slateAdd (w : CoreIx) (word : Dword) : OpcodeWf.Statement (.slateAdd w word) :=
  OpcodeWf.some rfl (fun h => slateIs_low h)
theorem OpcodeWf.slateFadd (w : CoreIx) (word : Dword) : OpcodeWf.Statement (.slateFadd w word) :=
  OpcodeWf.some rfl (fun h => slateIs_low h)
theorem OpcodeWf.slateCas (w : CoreIx) (word : Dword) : OpcodeWf.Statement (.slateCas w word) :=
  OpcodeWf.some rfl (fun h => slateIs_low h)
theorem OpcodeWf.slateRead (w : CoreIx) (word : Dword) : OpcodeWf.Statement (.slateRead w word) :=
  OpcodeWf.some rfl (fun h => slateIs_low h)
theorem OpcodeWf.slateSet (w : CoreIx) (word : Dword) : OpcodeWf.Statement (.slateSet w word) :=
  OpcodeWf.some rfl (fun h => slateIs_low h)
theorem OpcodeWf.slateWake (w : CoreIx) : OpcodeWf.Statement (.slateWake w) :=
  OpcodeWf.none rfl
theorem OpcodeWf.slateWaitLimit (w : CoreIx) : OpcodeWf.Statement (.slateWaitLimit w) :=
  OpcodeWf.none rfl
theorem OpcodeWf.slateOpLimit (seq : Word) : OpcodeWf.Statement (.slateOpLimit seq) :=
  OpcodeWf.none rfl
theorem OpcodeWf.dmaq (w : CoreIx) (word : Dword) : OpcodeWf.Statement (.dmaq w word) :=
  OpcodeWf.some rfl (fun h => opcodeIs_low h)
theorem OpcodeWf.perfrd (w : CoreIx) (word : Dword) : OpcodeWf.Statement (.perfrd w word) :=
  OpcodeWf.some rfl (fun h => opcodeIs_low h)
theorem OpcodeWf.reservedInstruction (w : CoreIx) (word : Dword) : OpcodeWf.Statement (.reservedInstruction w word) :=
  OpcodeWf.none rfl
theorem OpcodeWf.rampGrant (w : CoreIx) : OpcodeWf.Statement (.rampGrant w) :=
  OpcodeWf.none rfl
theorem OpcodeWf.rootTakeRegister (seq : Word) (set : BitVec 12) (cls : Bool) (seed : BitVec 128) (pages : List RootPage) (tokens : Word) (reels : List Word) : OpcodeWf.Statement (.rootTakeRegister seq set cls seed pages tokens reels) :=
  OpcodeWf.none rfl
theorem OpcodeWf.cowFault (n : Half) : OpcodeWf.Statement (.cowFault n) :=
  OpcodeWf.none rfl
theorem OpcodeWf.pageCopyComplete (n : Half) : OpcodeWf.Statement (.pageCopyComplete n) :=
  OpcodeWf.none rfl
theorem OpcodeWf.countUpdate (unit : Fin 8) : OpcodeWf.Statement (.countUpdate unit) :=
  OpcodeWf.none rfl
theorem OpcodeWf.stepBoundary (seq : Word) : OpcodeWf.Statement (.stepBoundary seq) :=
  OpcodeWf.none rfl
theorem OpcodeWf.chunkDispatch (seq : Word) : OpcodeWf.Statement (.chunkDispatch seq) :=
  OpcodeWf.none rfl
theorem OpcodeWf.chunkFold (seq : Word) : OpcodeWf.Statement (.chunkFold seq) :=
  OpcodeWf.none rfl
theorem OpcodeWf.reelSwapInDone (reel : Half) : OpcodeWf.Statement (.reelSwapInDone reel) :=
  OpcodeWf.none rfl
theorem OpcodeWf.reelSwapOutDone (reel : Half) : OpcodeWf.Statement (.reelSwapOutDone reel) :=
  OpcodeWf.none rfl
theorem OpcodeWf.shelfMoveDone (reel : Half) : OpcodeWf.Statement (.shelfMoveDone reel) :=
  OpcodeWf.none rfl
theorem OpcodeWf.batchStepBoundary (seq : Word) (n : Half) : OpcodeWf.Statement (.batchStepBoundary seq n) :=
  OpcodeWf.none rfl
theorem OpcodeWf.swapOutPageDone (n : Half) : OpcodeWf.Statement (.swapOutPageDone n) :=
  OpcodeWf.none rfl
theorem OpcodeWf.migrationCopyDone (n : Half) : OpcodeWf.Statement (.migrationCopyDone n) :=
  OpcodeWf.none rfl
theorem OpcodeWf.demotion : OpcodeWf.Statement .demotion :=
  OpcodeWf.none rfl
theorem OpcodeWf.alloc (count : BitVec 24) : OpcodeWf.Statement (.alloc count) :=
  OpcodeWf.none rfl
theorem OpcodeWf.map (count : BitVec 24) : OpcodeWf.Statement (.map count) :=
  OpcodeWf.none rfl
theorem OpcodeWf.unmap (count : BitVec 24) : OpcodeWf.Statement (.unmap count) :=
  OpcodeWf.none rfl
theorem OpcodeWf.protect (count : BitVec 24) : OpcodeWf.Statement (.protect count) :=
  OpcodeWf.none rfl
theorem OpcodeWf.pin (count : BitVec 24) : OpcodeWf.Statement (.pin count) :=
  OpcodeWf.none rfl
theorem OpcodeWf.mapDrainDone : OpcodeWf.Statement .mapDrainDone :=
  OpcodeWf.none rfl
theorem OpcodeWf.prefetchEntryComplete (seq : Word) (ix : Half) : OpcodeWf.Statement (.prefetchEntryComplete seq ix) :=
  OpcodeWf.none rfl
theorem OpcodeWf.prefetchDecisionPoint (seq : Word) (ix : Half) (landed : Word) : OpcodeWf.Statement (.prefetchDecisionPoint seq ix landed) :=
  OpcodeWf.none rfl
theorem OpcodeWf.retentionEntry (kind : BitVec 2) (unit : Half) (bank : Byte) : OpcodeWf.Statement (.retentionEntry kind unit bank) :=
  OpcodeWf.none rfl
theorem OpcodeWf.bankWake (kind : BitVec 2) (unit : Half) (bank : Byte) : OpcodeWf.Statement (.bankWake kind unit bank) :=
  OpcodeWf.none rfl
theorem OpcodeWf.marchTestStart (ctl : Word) : OpcodeWf.Statement (.marchTestStart ctl) :=
  OpcodeWf.none rfl
theorem OpcodeWf.marchTestDone (fails : List SramFail) : OpcodeWf.Statement (.marchTestDone fails) :=
  OpcodeWf.none rfl
theorem OpcodeWf.bgTestRegion (failed : Bool) (word : Half) : OpcodeWf.Statement (.bgTestRegion failed word) :=
  OpcodeWf.none rfl
theorem OpcodeWf.hbmRefresh (c : ChannelIx) (pc : Bool) : OpcodeWf.Statement (.hbmRefresh c pc) :=
  OpcodeWf.none rfl
theorem OpcodeWf.scrubStep (errs : List (Fin 72 × Byte)) : OpcodeWf.Statement (.scrubStep errs) :=
  OpcodeWf.none rfl
theorem OpcodeWf.writeBatchDrain (c : ChannelIx) (pc : Bool) : OpcodeWf.Statement (.writeBatchDrain c pc) :=
  OpcodeWf.none rfl
theorem OpcodeWf.softRepair (ctl : Word) : OpcodeWf.Statement (.softRepair ctl) :=
  OpcodeWf.none rfl
theorem OpcodeWf.hardRepairRequest (ctl : Word) : OpcodeWf.Statement (.hardRepairRequest ctl) :=
  OpcodeWf.none rfl
theorem OpcodeWf.channelFailed (c : ChannelIx) (trainLost : Bool) : OpcodeWf.Statement (.channelFailed c trainLost) :=
  OpcodeWf.none rfl
theorem OpcodeWf.repairRecordWrite : OpcodeWf.Statement .repairRecordWrite :=
  OpcodeWf.none rfl
theorem OpcodeWf.dmaBurstGrant (e : EngineIx) : OpcodeWf.Statement (.dmaBurstGrant e) :=
  OpcodeWf.none rfl
theorem OpcodeWf.requestLineAssert (e : EngineIx) (line : Byte) : OpcodeWf.Statement (.requestLineAssert e line) :=
  OpcodeWf.none rfl
theorem OpcodeWf.dmaDescriptorComplete (e : EngineIx) (c : Fin 32) : OpcodeWf.Statement (.dmaDescriptorComplete e c) :=
  OpcodeWf.none rfl
theorem OpcodeWf.dmaCqConsWrite (e : EngineIx) (value : Word) : OpcodeWf.Statement (.dmaCqConsWrite e value) :=
  OpcodeWf.none rfl
theorem OpcodeWf.mailSlotWrite (m : MailIx) (data : List Byte) (fin : Bool) : OpcodeWf.Statement (.mailSlotWrite m data fin) :=
  OpcodeWf.none rfl
theorem OpcodeWf.mailSlotRead (m : MailIx) : OpcodeWf.Statement (.mailSlotRead m) :=
  OpcodeWf.none rfl
theorem OpcodeWf.mailSlotIdle (m : MailIx) : OpcodeWf.Statement (.mailSlotIdle m) :=
  OpcodeWf.none rfl
theorem OpcodeWf.mailSlotFlush (m : MailIx) : OpcodeWf.Statement (.mailSlotFlush m) :=
  OpcodeWf.none rfl
theorem OpcodeWf.frameDecoded (e : DecIx) (f : DecodedFrame) : OpcodeWf.Statement (.frameDecoded e f) :=
  OpcodeWf.none rfl
theorem OpcodeWf.bitstreamProducerAdvance (c : StreamIx) : OpcodeWf.Statement (.bitstreamProducerAdvance c) :=
  OpcodeWf.none rfl
theorem OpcodeWf.decodeAbandon (e : DecIx) (blocks : Word) : OpcodeWf.Statement (.decodeAbandon e blocks) :=
  OpcodeWf.none rfl
theorem OpcodeWf.decodeHang (e : DecIx) (blocks : Word) : OpcodeWf.Statement (.decodeHang e blocks) :=
  OpcodeWf.none rfl
theorem OpcodeWf.sampleDeadline (seq : Word) (n : Byte) (slot : Half) : OpcodeWf.Statement (.sampleDeadline seq n slot) :=
  OpcodeWf.none rfl
theorem OpcodeWf.slotSettle (seq : Word) (n : Byte) : OpcodeWf.Statement (.slotSettle seq n) :=
  OpcodeWf.none rfl
theorem OpcodeWf.rushInsertDone (n : Half) : OpcodeWf.Statement (.rushInsertDone n) :=
  OpcodeWf.none rfl
theorem OpcodeWf.rushFlush : OpcodeWf.Statement .rushFlush :=
  OpcodeWf.none rfl
theorem OpcodeWf.rushInval : OpcodeWf.Statement .rushInval :=
  OpcodeWf.none rfl
theorem OpcodeWf.portTrained (p : PortIx) (lanes : Byte) : OpcodeWf.Statement (.portTrained p lanes) :=
  OpcodeWf.none rfl
theorem OpcodeWf.portTrainRetry (p : PortIx) : OpcodeWf.Statement (.portTrainRetry p) :=
  OpcodeWf.none rfl
theorem OpcodeWf.portDown (p : PortIx) : OpcodeWf.Statement (.portDown p) :=
  OpcodeWf.none rfl
theorem OpcodeWf.flitReceived (p : PortIx) (seq ack : BitVec 12) (replay idle : Bool) (errs : Byte) (strays : List (BitVec 5 × FrameHdr)) : OpcodeWf.Statement (.flitReceived p seq ack replay idle errs strays) :=
  OpcodeWf.none rfl
theorem OpcodeWf.rdReq (p : PortIx) (h : FrameHdr) : OpcodeWf.Statement (.rdReq p h) :=
  OpcodeWf.none rfl
theorem OpcodeWf.wrReq (p : PortIx) (h : FrameHdr) (data : List Byte) : OpcodeWf.Statement (.wrReq p h data) :=
  OpcodeWf.none rfl
theorem OpcodeWf.rdRsp (p : PortIx) (h : FrameHdr) (data : List Byte) : OpcodeWf.Statement (.rdRsp p h data) :=
  OpcodeWf.none rfl
theorem OpcodeWf.wrRsp (p : PortIx) (h : FrameHdr) : OpcodeWf.Statement (.wrRsp p h) :=
  OpcodeWf.none rfl
theorem OpcodeWf.slateReq (p : PortIx) (h : FrameHdr) (op : BitVec 4) (v cmp : Word) : OpcodeWf.Statement (.slateReq p h op v cmp) :=
  OpcodeWf.none rfl
theorem OpcodeWf.slateRsp (p : PortIx) (h : FrameHdr) (result : Word) (stored : Bool) : OpcodeWf.Statement (.slateRsp p h result stored) :=
  OpcodeWf.none rfl
theorem OpcodeWf.slateCancel (p : PortIx) (h : FrameHdr) : OpcodeWf.Statement (.slateCancel p h) :=
  OpcodeWf.none rfl
theorem OpcodeWf.credit (p : PortIx) (h : FrameHdr) (n0 n1 n2 : Half) : OpcodeWf.Statement (.credit p h n0 n1 n2) :=
  OpcodeWf.none rfl
theorem OpcodeWf.reject (p : PortIx) (h : FrameHdr) (reason : Byte) (tag : Half) (type : Byte) : OpcodeWf.Statement (.reject p h reason tag type) :=
  OpcodeWf.none rfl
theorem OpcodeWf.hello (p : PortIx) (h : FrameHdr) (d : HelloData) : OpcodeWf.Statement (.hello p h d) :=
  OpcodeWf.none rfl
theorem OpcodeWf.helloTimer : OpcodeWf.Statement .helloTimer :=
  OpcodeWf.none rfl
theorem OpcodeWf.electionSettle : OpcodeWf.Statement .electionSettle :=
  OpcodeWf.none rfl
theorem OpcodeWf.linkReport (p : PortIx) (h : FrameHdr) (l : LinkData) : OpcodeWf.Statement (.linkReport p h l) :=
  OpcodeWf.none rfl
theorem OpcodeWf.routeRecompute : OpcodeWf.Statement .routeRecompute :=
  OpcodeWf.none rfl
theorem OpcodeWf.assign (p : PortIx) (h : FrameHdr) (id : BitVec 12) (epoch : Word) : OpcodeWf.Statement (.assign p h id epoch) :=
  OpcodeWf.none rfl
theorem OpcodeWf.table (p : PortIx) (h : FrameHdr) (entries : List RouteData) : OpcodeWf.Statement (.table p h entries) :=
  OpcodeWf.none rfl
theorem OpcodeWf.commit (p : PortIx) (h : FrameHdr) (epoch : Word) : OpcodeWf.Statement (.commit p h epoch) :=
  OpcodeWf.none rfl
theorem OpcodeWf.discoveryTimeout : OpcodeWf.Statement .discoveryTimeout :=
  OpcodeWf.none rfl
theorem OpcodeWf.tableRetire : OpcodeWf.Statement .tableRetire :=
  OpcodeWf.none rfl
theorem OpcodeWf.remoteTimeout (tag : Half) : OpcodeWf.Statement (.remoteTimeout tag) :=
  OpcodeWf.none rfl
theorem OpcodeWf.fault (p : PortIx) (h : FrameHdr) (key : FaultKey) : OpcodeWf.Statement (.fault p h key) :=
  OpcodeWf.none rfl
theorem OpcodeWf.tally (p : PortIx) (h : FrameHdr) (key : FaultKey) (count : Word) : OpcodeWf.Statement (.tally p h key count) :=
  OpcodeWf.none rfl
theorem OpcodeWf.faultCoalesceClose (key : FaultKey) : OpcodeWf.Statement (.faultCoalesceClose key) :=
  OpcodeWf.none rfl
theorem OpcodeWf.violationWindowClose (p : PortIx) : OpcodeWf.Statement (.violationWindowClose p) :=
  OpcodeWf.none rfl
theorem OpcodeWf.portDisable (p : PortIx) (on : Bool) : OpcodeWf.Statement (.portDisable p on) :=
  OpcodeWf.none rfl
theorem OpcodeWf.portRelease (p : PortIx) : OpcodeWf.Statement (.portRelease p) :=
  OpcodeWf.none rfl
theorem OpcodeWf.portRetrain (p : PortIx) : OpcodeWf.Statement (.portRetrain p) :=
  OpcodeWf.none rfl
theorem OpcodeWf.faultReport (cls : Byte) (subject cause : Half) (seq : Word) (detail : Dword) : OpcodeWf.Statement (.faultReport cls subject cause seq detail) :=
  OpcodeWf.none rfl
theorem OpcodeWf.faultWindowClose (subject : Half) (cls : Byte) (epoch : Word) : OpcodeWf.Statement (.faultWindowClose subject cls epoch) :=
  OpcodeWf.none rfl
theorem OpcodeWf.fenceDrainEffect (w : CoreIx) : OpcodeWf.Statement (.fenceDrainEffect w) :=
  OpcodeWf.none rfl
theorem OpcodeWf.coreHang (w : CoreIx) : OpcodeWf.Statement (.coreHang w) :=
  OpcodeWf.none rfl
theorem OpcodeWf.netNoack (subject cause : Half) (seq : Word) (detail : Dword) : OpcodeWf.Statement (.netNoack subject cause seq detail) :=
  OpcodeWf.none rfl
theorem OpcodeWf.bankCollision (w : CoreIx) (atCluster : Bool) (memory : BitVec 3) (bank a b : Byte) (seq : Word) : OpcodeWf.Statement (.bankCollision w atCluster memory bank a b seq) :=
  OpcodeWf.none rfl
theorem OpcodeWf.powerSample (watts : Half) : OpcodeWf.Statement (.powerSample watts) :=
  OpcodeWf.none rfl
theorem OpcodeWf.gafferLoopTick (junction hbm inlet outlet : Byte) (hot : IslandIx) : OpcodeWf.Statement (.gafferLoopTick junction hbm inlet outlet hot) :=
  OpcodeWf.none rfl
theorem OpcodeWf.junctionTripLimit (junction : Byte) (hot : IslandIx) : OpcodeWf.Statement (.junctionTripLimit junction hot) :=
  OpcodeWf.none rfl
theorem OpcodeWf.thermalTrip : OpcodeWf.Statement .thermalTrip :=
  OpcodeWf.none rfl
theorem OpcodeWf.gafCapWrite (value : Word) : OpcodeWf.Statement (.gafCapWrite value) :=
  OpcodeWf.none rfl
theorem OpcodeWf.replan (trials : List IslandTrials) : OpcodeWf.Statement (.replan trials) :=
  OpcodeWf.none rfl
theorem OpcodeWf.replanNow (trials : List IslandTrials) : OpcodeWf.Statement (.replanNow trials) :=
  OpcodeWf.none rfl
theorem OpcodeWf.slackEmergency (i : IslandIx) (slack : Half) : OpcodeWf.Statement (.slackEmergency i slack) :=
  OpcodeWf.none rfl
theorem OpcodeWf.islandRetire (i : IslandIx) : OpcodeWf.Statement (.islandRetire i) :=
  OpcodeWf.none rfl
theorem OpcodeWf.modEnRise : OpcodeWf.Statement .modEnRise :=
  OpcodeWf.none rfl
theorem OpcodeWf.modEnFall : OpcodeWf.Statement .modEnFall :=
  OpcodeWf.none rfl
theorem OpcodeWf.vinUndervoltage : OpcodeWf.Statement .vinUndervoltage :=
  OpcodeWf.none rfl
theorem OpcodeWf.vinOvervoltage : OpcodeWf.Statement .vinOvervoltage :=
  OpcodeWf.none rfl
theorem OpcodeWf.railFault : OpcodeWf.Statement .railFault :=
  OpcodeWf.none rfl
theorem OpcodeWf.powerGoodRise : OpcodeWf.Statement .powerGoodRise :=
  OpcodeWf.none rfl
theorem OpcodeWf.stageA (width rate : BitVec 2) (err : Option Word) : OpcodeWf.Statement (.stageA width rate err) :=
  OpcodeWf.none rfl
theorem OpcodeWf.stageB (err : Option Word) : OpcodeWf.Statement (.stageB err) :=
  OpcodeWf.none rfl
theorem OpcodeWf.stageC (err : Option Word) (failed : List ChannelIx) (trials : List IslandTrials) (fails : List SramFail) : OpcodeWf.Statement (.stageC err failed trials fails) :=
  OpcodeWf.none rfl
theorem OpcodeWf.stageD : OpcodeWf.Statement .stageD :=
  OpcodeWf.none rfl
theorem OpcodeWf.stageE : OpcodeWf.Statement .stageE :=
  OpcodeWf.none rfl
theorem OpcodeWf.perstAssert : OpcodeWf.Statement .perstAssert :=
  OpcodeWf.none rfl
theorem OpcodeWf.hotReset : OpcodeWf.Statement .hotReset :=
  OpcodeWf.none rfl
theorem OpcodeWf.bootWarm : OpcodeWf.Statement .bootWarm :=
  OpcodeWf.none rfl
theorem OpcodeWf.bootCold : OpcodeWf.Statement .bootCold :=
  OpcodeWf.none rfl
theorem OpcodeWf.coldIntervalEnd : OpcodeWf.Statement .coldIntervalEnd :=
  OpcodeWf.none rfl
theorem OpcodeWf.updClear : OpcodeWf.Statement .updClear :=
  OpcodeWf.none rfl
theorem OpcodeWf.updAppend (len : Half) : OpcodeWf.Statement (.updAppend len) :=
  OpcodeWf.none rfl
theorem OpcodeWf.updCommit : OpcodeWf.Statement .updCommit :=
  OpcodeWf.none rfl
theorem OpcodeWf.flashWriteDone (err : Bool) : OpcodeWf.Statement (.flashWriteDone err) :=
  OpcodeWf.none rfl
theorem OpcodeWf.rollbackGo (target : BitVec 7) : OpcodeWf.Statement (.rollbackGo target) :=
  OpcodeWf.none rfl
theorem OpcodeWf.rollbackBitBlow : OpcodeWf.Statement .rollbackBitBlow :=
  OpcodeWf.none rfl
theorem OpcodeWf.tokenSubmit : OpcodeWf.Statement .tokenSubmit :=
  OpcodeWf.none rfl
theorem OpcodeWf.debugDrop : OpcodeWf.Statement .debugDrop :=
  OpcodeWf.none rfl
theorem OpcodeWf.fuseBlow : OpcodeWf.Statement .fuseBlow :=
  OpcodeWf.none rfl
theorem OpcodeWf.perfPeriodTick : OpcodeWf.Statement .perfPeriodTick :=
  OpcodeWf.none rfl
theorem OpcodeWf.snap : OpcodeWf.Statement .snap :=
  OpcodeWf.none rfl
theorem OpcodeWf.snapshotToken (u : Fin 581) : OpcodeWf.Statement (.snapshotToken u) :=
  OpcodeWf.none rfl
theorem OpcodeWf.dumpRecordWrite (time : Dword) (sweep : Word) : OpcodeWf.Statement (.dumpRecordWrite time sweep) :=
  OpcodeWf.none rfl
theorem OpcodeWf.tstCtlWrite (k : Fin 6) (value : Word) : OpcodeWf.Statement (.tstCtlWrite k value) :=
  OpcodeWf.none rfl
theorem OpcodeWf.vinRise : OpcodeWf.Statement .vinRise :=
  OpcodeWf.none rfl
theorem OpcodeWf.railOffInterval : OpcodeWf.Statement .railOffInterval :=
  OpcodeWf.none rfl
theorem OpcodeWf.softRepairComplete : OpcodeWf.Statement .softRepairComplete :=
  OpcodeWf.none rfl
theorem OpcodeWf.d2dLink (d : DieIx) : OpcodeWf.Statement (.d2dLink d) :=
  OpcodeWf.none rfl
theorem OpcodeWf.tapInstruction (instr : BitVec 2) : OpcodeWf.Statement (.tapInstruction instr) :=
  OpcodeWf.none rfl
theorem OpcodeWf.i3cTransaction (op : BitVec 2) (addr : Byte) (dword : BitVec 24) (value : Word) : OpcodeWf.Statement (.i3cTransaction op addr dword value) :=
  OpcodeWf.none rfl
theorem OpcodeWf.cablePresence (p : PortIx) (present : Bool) : OpcodeWf.Statement (.cablePresence p present) :=
  OpcodeWf.none rfl

end Sys2Proof.Laws
end

