-- ==== Sys2Proof/Laws/Swept.lean ====
section
/-! SUPPORT. What a snapshot token's copies and the counters leave alone (R582 to R590): everything but the dailies, the perturbation block and the free values' index. -/

namespace Sys2Proof.Machine

/-- Everything but the dailies, the perturbation block and the free values' index is the same. -/
structure Swept (s t : State) : Prop where
  pending : t.pending = s.pending
  host : t.host = s.host
  cmds : t.cmds = s.cmds
  progs : t.progs = s.progs
  sched : t.sched = s.sched
  mem : t.mem = s.mem
  hbm : t.hbm = s.hbm
  takes : t.takes = s.takes
  reels : t.reels = s.reels
  kv : t.kv = s.kv
  cores : t.cores = s.cores
  dma : t.dma = s.dma
  video : t.video = s.video
  boot : t.boot = s.boot
  fab : t.fab = s.fab
  gaf : t.gaf = s.gaf
  mod : t.mod = s.mod
  out : t.out = s.out
  nowUs : t.nowUs = s.nowUs
  flt_base : t.flt.base = s.flt.base

theorem Swept.refl (s : State) : Swept s s := ⟨rfl, rfl, rfl, rfl, rfl, rfl, rfl, rfl, rfl, rfl, rfl, rfl, rfl, rfl, rfl, rfl, rfl, rfl, rfl, rfl⟩

theorem Swept.trans {s t u : State} (h : Swept s t) (g : Swept t u) : Swept s u :=
  ⟨g.pending.trans h.pending, g.host.trans h.host, g.cmds.trans h.cmds, g.progs.trans h.progs, g.sched.trans h.sched, g.mem.trans h.mem, g.hbm.trans h.hbm, g.takes.trans h.takes, g.reels.trans h.reels, g.kv.trans h.kv, g.cores.trans h.cores, g.dma.trans h.dma, g.video.trans h.video, g.boot.trans h.boot, g.fab.trans h.fab, g.gaf.trans h.gaf, g.mod.trans h.mod, g.out.trans h.out, g.nowUs.trans h.nowUs, g.flt_base.trans h.flt_base⟩

/-- The same, of a state given by its fields. -/
def SweptMk (s : State) (pending_ : List Instr) (host_ : HostIf) (cmds_ : Tab Cmd) (progs_ : Tab ProgSlot) (sched_ : Sched) (mem_ : MemMgr) (hbm_ : HbmMem) (takes_ : TakeMgr) (reels_ : ReelMgr) (kv_ : KvMgr) (cores_ : Tab Core) (dma_ : Dma) (video_ : Video) (boot_ : Boot) (fab_ : Fabric) (gaf_ : Gaffer) (mod_ : Module) (out_ : List Out) (nowUs_ : Nat) (flt_ : FaultUnit) : Prop :=
  pending_ = s.pending ∧ host_ = s.host ∧ cmds_ = s.cmds ∧ progs_ = s.progs ∧ sched_ = s.sched ∧ mem_ = s.mem ∧ hbm_ = s.hbm ∧ takes_ = s.takes ∧ reels_ = s.reels ∧ kv_ = s.kv ∧ cores_ = s.cores ∧ dma_ = s.dma ∧ video_ = s.video ∧ boot_ = s.boot ∧ fab_ = s.fab ∧ gaf_ = s.gaf ∧ mod_ = s.mod ∧ out_ = s.out ∧ nowUs_ = s.nowUs ∧ flt_.base = s.flt.base

theorem swept_mk (s0 : State) {pending_} {host_} {cmds_} {progs_} {sched_} {flt_} {perf_} {mem_} {hbm_} {takes_} {reels_} {kv_} {cores_} {dma_} {video_} {boot_} {fab_} {gaf_} {mod_} {out_} {nowUs_} {freeCtr_} :
    Swept s0 (State.mk pending_ host_ cmds_ progs_ sched_ flt_ perf_ mem_ hbm_ takes_ reels_ kv_ cores_ dma_ video_ boot_ fab_ gaf_ mod_ out_ nowUs_ freeCtr_) = SweptMk s0 pending_ host_ cmds_ progs_ sched_ mem_ hbm_ takes_ reels_ kv_ cores_ dma_ video_ boot_ fab_ gaf_ mod_ out_ nowUs_ flt_ := by
  refine propext ⟨fun h => ⟨h.pending, h.host, h.cmds, h.progs, h.sched, h.mem, h.hbm, h.takes, h.reels, h.kv, h.cores, h.dma, h.video, h.boot, h.fab, h.gaf, h.mod, h.out, h.nowUs, h.flt_base⟩, fun h => ?_⟩
  obtain ⟨a0, a1, a2, a3, a4, a5, a6, a7, a8, a9, a10, a11, a12, a13, a14, a15, a16, a17, a18, a19⟩ := h
  exact ⟨a0, a1, a2, a3, a4, a5, a6, a7, a8, a9, a10, a11, a12, a13, a14, a15, a16, a17, a18, a19⟩

theorem sweptMk_of {s t : State} {flt_ : FaultUnit} (g : Swept s t) (hflt_base : flt_.base = t.flt.base) : SweptMk s t.pending t.host t.cmds t.progs t.sched t.mem t.hbm t.takes t.reels t.kv t.cores t.dma t.video t.boot t.fab t.gaf t.mod t.out t.nowUs flt_ :=
  ⟨g.pending, g.host, g.cmds, g.progs, g.sched, g.mem, g.hbm, g.takes, g.reels, g.kv, g.cores, g.dma, g.video, g.boot, g.fab, g.gaf, g.mod, g.out, g.nowUs, hflt_base.trans g.flt_base⟩

/-- The same, of an optional state that is there. -/
def SweptOpt (s : State) : Option State → Prop
  | some t => Swept s t
  | none => True

theorem sweptOpt_some {s t : State} (h : Swept s t) : SweptOpt s (some t) := h

theorem sweptOpt_none (s : State) : SweptOpt s none := trivial

theorem SweptOpt.get {s t : State} {o : Option State} (h : SweptOpt s o) (e : o = some t) : Swept s t := by
  subst e
  exact h

theorem SweptOpt.getD {s t : State} {o : Option State} (h : SweptOpt s o) (g : Swept s t) : Swept s (o.getD t) := by
  cases o with
  | none => exact g
  | some u => exact h

theorem sweptOpt_map {α : Type} {s : State} {f : α → State} (h : ∀ a, Swept s (f a)) (o : Option α) : SweptOpt s (o.map f) := by
  cases o with
  | none => trivial
  | some a => exact h a

theorem swept_ite {s a b : State} {c : Prop} [Decidable c] (h : Swept s a) (g : Swept s b) : Swept s (if c then a else b) := by
  split <;> assumption

theorem sweptOpt_ite {s : State} {a b : Option State} {c : Prop} [Decidable c] (h : SweptOpt s a) (g : SweptOpt s b) :
    SweptOpt s (if c then a else b) := by
  split <;> assumption

theorem foldl_swept {α : Type} {s t : State} {f : State → α → State} (hf : ∀ u x, Swept s u → Swept s (f u x)) (l : List α)
    (h : Swept s t) : Swept s (l.foldl f t) := by
  induction l generalizing t with
  | nil => exact h
  | cons x r ih => exact ih (hf t x h)

theorem State.draw_swept {i0 : State} (s : State) (hs : Swept i0 s) :
    Swept i0 (State.draw s).2 := by
  rw [State.draw]
  with_reducible repeat' (first
    | assumption | dsimp only | simp only [swept_mk] | refine sweptMk_of ?_ rfl | intro _)

theorem State.bump_swept {i0 : State} (s : State) (a : At) (ev n : Nat) (hs : Swept i0 s) :
    Swept i0 (State.bump s a ev n) := by
  unfold State.bump
  with_reducible repeat' (first
    | assumption | dsimp only | simp only [swept_mk] | refine sweptMk_of ?_ rfl | refine swept_ite ?_ ?_ | split)

theorem State.perturb_swept {i0 : State} (s : State) (k unit : Nat) (hs : Swept i0 s) :
    Swept i0 (State.perturb s k unit).1 := by
  rw [State.perturb]
  with_reducible repeat' (first
    | assumption | dsimp only | apply State.bump_swept | simp only [swept_mk] | refine sweptMk_of ?_ rfl | split | intro _)

theorem State.settleTst_swept {i0 : State} (s : State) (hs : Swept i0 s) :
    Swept i0 (State.settleTst s) := by
  rw [State.settleTst]
  with_reducible repeat' (first
    | assumption | dsimp only | apply State.draw_swept | apply State.bump_swept | refine kept_snd ?_ (by assumption)
    | refine kept_fst ?_ (by assumption) | simp only [swept_mk] | refine sweptMk_of ?_ rfl | refine foldl_swept ?_ _ ?_
    | refine foldl_swept_snd ?_ _ ?_ | refine foldl_swept_fst ?_ _ ?_ | refine swept_ite ?_ ?_ | split | intro _)

theorem State.counterNow_swept {i0 : State} (s : State) (g : Nat) (hs : Swept i0 s) :
    Swept i0 (State.counterNow s g).2 := by
  rw [State.counterNow]
  with_reducible repeat' (first
    | assumption | dsimp only | apply State.settleTst_swept | apply State.draw_swept | refine kept_snd ?_ (by assumption)
    | refine kept_fst ?_ (by assumption) | simp only [swept_mk] | refine sweptMk_of ?_ rfl | split | intro _)

theorem State.updPerf_swept {i0 : State} (s : State) (f : Perf → Perf) (hs : Swept i0 s) :
    Swept i0 (State.updPerf s f) := by
  rw [State.updPerf]
  with_reducible repeat' (first
    | assumption | dsimp only | apply hf | simp only [swept_mk] | refine sweptMk_of ?_ rfl)

theorem State.latchCounter_swept {i0 : State} (s : State) (g : Nat) (hs : Swept i0 s) :
    Swept i0 (State.latchCounter s g) := by
  rw [State.latchCounter]
  with_reducible repeat' (first
    | assumption | dsimp only | apply State.counterNow_swept | apply State.updPerf_swept | refine kept_snd ?_ (by assumption)
    | refine kept_fst ?_ (by assumption) | simp only [swept_mk] | refine sweptMk_of ?_ rfl | split | intro _)

theorem State.reach_swept {i0 : State} (s : State) (k : Word) (u : Nat) (hs : Swept i0 s) :
    Swept i0 (State.reach s k u) := by
  rw [State.reach]
  with_reducible repeat' (first
    | assumption | dsimp only | apply State.latchCounter_swept | apply State.updPerf_swept | apply State.bump_swept | simp only [swept_mk]
    | refine sweptMk_of ?_ rfl | refine foldl_swept ?_ _ ?_ | refine swept_ite ?_ ?_ | split | intro _)

theorem State.carry_swept {i0 : State} (s : State) (a b : At) (hs : Swept i0 s) :
    Swept i0 (State.carry s a b) := by
  rw [State.carry]
  with_reducible repeat' (first
    | assumption | dsimp only | apply State.reach_swept | simp only [swept_mk] | refine sweptMk_of ?_ rfl | refine swept_ite ?_ ?_
    | split)

theorem State.stopCounters_swept {i0 : State} (s : State) (w : Nat) (hs : Swept i0 s) :
    Swept i0 (State.stopCounters s w) := by
  rw [State.stopCounters]
  with_reducible repeat' (first
    | assumption | dsimp only | apply State.counterNow_swept | apply State.updPerf_swept | refine kept_snd ?_ (by assumption)
    | refine kept_fst ?_ (by assumption) | simp only [swept_mk] | refine sweptMk_of ?_ rfl | refine foldl_swept ?_ _ ?_
    | refine foldl_swept_snd ?_ _ ?_ | refine foldl_swept_fst ?_ _ ?_ | split | intro _)

theorem State.carryVA_swept {i0 : State} (s : State) (from_ : At) (a : Acc) (wr : Bool) (va n : Nat) (hs : Swept i0 s) :
    Swept i0 (State.carryVA s from_ a wr va n) := by
  rw [State.carryVA]
  with_reducible repeat' (first
    | assumption | dsimp only | apply State.carry_swept | simp only [swept_mk] | refine sweptMk_of ?_ rfl | refine foldl_swept ?_ _ ?_
    | split | intro _)

theorem State.carryDies_swept {i0 : State} (s : State) (pa lg : Nat) (hs : Swept i0 s) :
    Swept i0 (State.carryDies s pa lg) := by
  rw [State.carryDies]
  with_reducible repeat' (first
    | assumption | dsimp only | apply State.carry_swept | simp only [swept_mk] | refine sweptMk_of ?_ rfl | refine foldl_swept ?_ _ ?_
    | refine swept_ite ?_ ?_ | split | intro _)

end Sys2Proof.Machine
end

