-- ==== Sys2Proof/Laws/Slates.lean ====
section
/-! SUPPORT. Slates (R350 to R355): what an operation on a slate changes, and what it leaves alone: `Slated s t`. -/

namespace Sys2Proof.Machine

/-- The units that an operation on a slate leaves alone are the same. -/
structure Slated (s t : State) : Prop where
  pending : t.pending = s.pending
  host : t.host = s.host
  progs : t.progs = s.progs
  flt : t.flt = s.flt
  reels : t.reels = s.reels
  kv : t.kv = s.kv
  takes : t.takes = s.takes
  cores : t.cores = s.cores
  dma : t.dma = s.dma
  video : t.video = s.video
  boot : t.boot = s.boot
  gaf : t.gaf = s.gaf
  mod : t.mod = s.mod
  mem : t.mem = s.mem
  hbm : t.hbm = s.hbm
  nowUs : t.nowUs = s.nowUs
  freeCtr : t.freeCtr = s.freeCtr

theorem Slated.refl (s : State) : Slated s s := ⟨rfl, rfl, rfl, rfl, rfl, rfl, rfl, rfl, rfl, rfl, rfl, rfl, rfl, rfl, rfl, rfl, rfl⟩

theorem Slated.trans {s t u : State} (h : Slated s t) (g : Slated t u) : Slated s u :=
  ⟨g.pending.trans h.pending, g.host.trans h.host, g.progs.trans h.progs, g.flt.trans h.flt, g.reels.trans h.reels, g.kv.trans h.kv, g.takes.trans h.takes, g.cores.trans h.cores, g.dma.trans h.dma, g.video.trans h.video, g.boot.trans h.boot, g.gaf.trans h.gaf, g.mod.trans h.mod, g.mem.trans h.mem, g.hbm.trans h.hbm, g.nowUs.trans h.nowUs, g.freeCtr.trans h.freeCtr⟩

/-- The same, of a state given by its fields. -/
def SlatedMk (s : State) (pending_ : List Instr) (host_ : HostIf) (progs_ : Tab ProgSlot) (flt_ : FaultUnit) (reels_ : ReelMgr) (kv_ : KvMgr) (takes_ : TakeMgr) (cores_ : Tab Core) (dma_ : Dma) (video_ : Video) (boot_ : Boot) (gaf_ : Gaffer) (mod_ : Module) (mem_ : MemMgr) (hbm_ : HbmMem) (nowUs_ : Nat) (freeCtr_ : Nat) : Prop :=
  pending_ = s.pending ∧ host_ = s.host ∧ progs_ = s.progs ∧ flt_ = s.flt ∧ reels_ = s.reels ∧ kv_ = s.kv ∧ takes_ = s.takes ∧ cores_ = s.cores ∧ dma_ = s.dma ∧ video_ = s.video ∧ boot_ = s.boot ∧ gaf_ = s.gaf ∧ mod_ = s.mod ∧ mem_ = s.mem ∧ hbm_ = s.hbm ∧ nowUs_ = s.nowUs ∧ freeCtr_ = s.freeCtr

theorem slated_mk (s0 : State) {pending_} {host_} {cmds_} {progs_} {sched_} {flt_} {perf_} {mem_} {hbm_} {takes_} {reels_} {kv_} {cores_} {dma_} {video_} {boot_} {fab_} {gaf_} {mod_} {out_} {nowUs_} {freeCtr_} :
    Slated s0 (State.mk pending_ host_ cmds_ progs_ sched_ flt_ perf_ mem_ hbm_ takes_ reels_ kv_ cores_ dma_ video_ boot_ fab_ gaf_ mod_ out_ nowUs_ freeCtr_) = SlatedMk s0 pending_ host_ progs_ flt_ reels_ kv_ takes_ cores_ dma_ video_ boot_ gaf_ mod_ mem_ hbm_ nowUs_ freeCtr_ := by
  refine propext ⟨fun h => ⟨h.pending, h.host, h.progs, h.flt, h.reels, h.kv, h.takes, h.cores, h.dma, h.video, h.boot, h.gaf, h.mod, h.mem, h.hbm, h.nowUs, h.freeCtr⟩, fun h => ?_⟩
  obtain ⟨a0, a1, a2, a3, a4, a5, a6, a7, a8, a9, a10, a11, a12, a13, a14, a15, a16⟩ := h
  exact ⟨a0, a1, a2, a3, a4, a5, a6, a7, a8, a9, a10, a11, a12, a13, a14, a15, a16⟩

theorem slatedMk_of {s t : State} (g : Slated s t) : SlatedMk s t.pending t.host t.progs t.flt t.reels t.kv t.takes t.cores t.dma t.video t.boot t.gaf t.mod t.mem t.hbm t.nowUs t.freeCtr :=
  ⟨g.pending, g.host, g.progs, g.flt, g.reels, g.kv, g.takes, g.cores, g.dma, g.video, g.boot, g.gaf, g.mod, g.mem, g.hbm, g.nowUs, g.freeCtr⟩

/-- The same, of an optional state that is there. -/
def SlatedOpt (s : State) : Option State → Prop
  | some t => Slated s t
  | none => True

theorem slatedOpt_some {s t : State} (h : Slated s t) : SlatedOpt s (some t) := h

theorem slatedOpt_none (s : State) : SlatedOpt s none := trivial

theorem SlatedOpt.get {s t : State} {o : Option State} (h : SlatedOpt s o) (e : o = some t) : Slated s t := by
  subst e
  exact h

theorem SlatedOpt.getD {s t : State} {o : Option State} (h : SlatedOpt s o) (g : Slated s t) : Slated s (o.getD t) := by
  cases o with
  | none => exact g
  | some u => exact h

theorem slatedOpt_map {α : Type} {s : State} {f : α → State} (h : ∀ a, Slated s (f a)) (o : Option α) : SlatedOpt s (o.map f) := by
  cases o with
  | none => trivial
  | some a => exact h a

theorem slated_ite {s a b : State} {c : Prop} [Decidable c] (h : Slated s a) (g : Slated s b) : Slated s (if c then a else b) := by
  split <;> assumption

theorem slatedOpt_ite {s : State} {a b : Option State} {c : Prop} [Decidable c] (h : SlatedOpt s a) (g : SlatedOpt s b) :
    SlatedOpt s (if c then a else b) := by
  split <;> assumption

theorem foldl_slated {α : Type} {s t : State} {f : State → α → State} (hf : ∀ u x, Slated s u → Slated s (f u x)) (l : List α)
    (h : Slated s t) : Slated s (l.foldl f t) := by
  induction l generalizing t with
  | nil => exact h
  | cons x r ih => exact ih (hf t x h)

theorem State.bump_slated {i0 : State} (s : State) (a : At) (ev n : Nat) (hs : Slated i0 s) :
    Slated i0 (State.bump s a ev n) := by
  unfold State.bump
  with_reducible repeat' (first
    | assumption | dsimp only | simp only [slated_mk] | refine slatedMk_of ?_ | refine slated_ite ?_ ?_ | split)

theorem State.send_slated {i0 : State} (s : State) (o : Out) (hs : Slated i0 s) :
    Slated i0 (State.send s o) := by
  rw [State.send]
  with_reducible repeat' (first
    | assumption | dsimp only | simp only [slated_mk] | refine slatedMk_of ?_)

theorem State.setPort_slated {i0 : State} (s : State) (p : Nat) (v : FabPort) (hs : Slated i0 s) :
    Slated i0 (State.setPort s p v) := by
  rw [State.setPort]
  with_reducible repeat' (first
    | assumption | dsimp only | simp only [slated_mk] | refine slatedMk_of ?_)

theorem State.drainPort_slated {i0 : State} (s : State) (p : Nat) (hs : Slated i0 s) :
    Slated i0 (State.drainPort s p) := by
  rw [State.drainPort]
  with_reducible repeat' (first
    | assumption | dsimp only | apply State.setPort_slated | apply State.send_slated | apply State.bump_slated | simp only [slated_mk]
    | refine slatedMk_of ?_ | refine foldl_slated ?_ _ ?_ | split | intro _)

theorem State.sendOn_slated {i0 : State} (s : State) (p : Nat) (f : Frame) (hs : Slated i0 s) :
    Slated i0 (State.sendOn s p f) := by
  rw [State.sendOn]
  with_reducible repeat' (first
    | assumption | dsimp only | apply State.setPort_slated | apply State.drainPort_slated | simp only [slated_mk]
    | refine slatedMk_of ?_)

theorem State.route?_slated {i0 : State} (s : State) (f : Frame) (hs : Slated i0 s) :
    SlatedOpt i0 (State.route? s f) := by
  rw [State.route?]
  with_reducible repeat' (first
    | assumption | dsimp only | apply State.sendOn_slated | refine slatedOpt_map ?_ _ | apply slatedOpt_some | exact slatedOpt_none _
    | simp only [id_eq] | intro _)

theorem State.sendFrame_slated {i0 : State} (s : State) (f : Frame) (hs : Slated i0 s) :
    Slated i0 (State.sendFrame s f) := by
  rw [State.sendFrame]
  with_reducible repeat' (first
    | assumption | dsimp only | apply State.route?_slated | apply SlatedOpt.getD)

theorem State.slateRsp_slated {i0 : State} (s : State) (dst tag status : Nat) (result : Word) (stored : Bool) (hs : Slated i0 s) :
    Slated i0 (State.slateRsp s dst tag status result stored) := by
  rw [State.slateRsp]
  with_reducible repeat' (first
    | assumption | dsimp only | apply State.sendFrame_slated | simp only [id_eq])

theorem State.wakeRemote_slated {i0 : State} (s : State) (hs : Slated i0 s) :
    Slated i0 (State.wakeRemote s) := by
  rw [State.wakeRemote]
  with_reducible repeat' (first
    | assumption | dsimp only | apply State.slateRsp_slated | simp only [slated_mk] | refine slatedMk_of ?_
    | refine foldl_slated ?_ _ ?_ | split | intro _)

theorem State.putSlate_slated {i0 : State} (s : State) (i : Nat) (n : Word) (hs : Slated i0 s) :
    Slated i0 (State.putSlate s i n) := by
  rw [State.putSlate]
  with_reducible repeat' (first
    | assumption | dsimp only | apply State.wakeRemote_slated | simp only [slated_mk] | refine slatedMk_of ?_ | intro _)

theorem State.setSlate_slated {i0 : State} (s : State) (i : Nat) (n : Word) (hs : Slated i0 s) :
    Slated i0 (State.setSlate s i n) := by
  rw [State.setSlate]
  with_reducible repeat' (first
    | assumption | dsimp only | apply State.putSlate_slated | apply State.bump_slated)

theorem State.slateApply_slated {i0 : State} (s : State) (i : Nat) (o : SlateOp) (v cmp : Word) (hs : Slated i0 s) :
    Slated i0 (State.slateApply s i o v cmp).1 := by
  rw [State.slateApply]
  with_reducible repeat' (first
    | assumption | dsimp only | apply State.setSlate_slated | apply State.bump_slated | split | intro _)

/-! ### Counts -/

theorem foldl_sched {α : Type} {f : State → α → State} (hf : ∀ u x, (f u x).sched = u.sched) (l : List α) (t : State) :
    (l.foldl f t).sched = t.sched := by
  induction l generalizing t with
  | nil => rfl
  | cons x r ih => rw [List.foldl_cons, ih, hf]

/-- Frames sent leave the slate banks alone. -/
theorem State.drainPort_sched (s : State) (p : Nat) : (s.drainPort p).sched = s.sched := by
  rw [State.drainPort]
  refine foldl_sched (fun u vc => ?_) _ _
  dsimp only
  rw [State.bump_sched, foldl_sched (fun u f => State.send_sched u _), State.setPort_sched]

theorem State.sendFrame_sched (s : State) (f : Frame) : (s.sendFrame f).sched = s.sched := by
  rw [State.sendFrame, State.route?]
  cases ((s.fab.tableFor f.epar).route s.fab.id.toNat f.dst).pick f.src f.dst f.flow with
  | none => rfl
  | some p =>
    refine Eq.trans ?_ (rfl : s.sched = s.sched)
    rw [Option.map_some, Option.getD_some, State.sendOn]
    rw [State.drainPort_sched, State.setPort_sched]

theorem State.wakeRemote_slates (s : State) : s.wakeRemote.sched.slates = s.sched.slates := by
  rw [State.wakeRemote]
  suffices ∀ (l : List SlateWait) (t : State), t.sched.slates = s.sched.slates →
      (l.foldl (fun s w => match w.who with
        | .remote src tag => s.slateRsp src tag 0 (w.wake.getD 0) false
        | _ => s) t).sched.slates = s.sched.slates from this _ _ rfl
  intro l
  induction l with
  | nil => exact fun t h => h
  | cons w r ih =>
    intro t h
    refine ih _ ?_
    dsimp only
    split
    · rw [State.slateRsp, State.sendFrame_sched]
      exact h
    · exact h

/-- Every count after one is written. -/
theorem State.slate_setSlate (s : State) (i j : Nat) (n : Word) : (s.setSlate i n).slate j = if j = i then n else s.slate j := by
  rw [State.slate, State.setSlate, State.bump_sched, State.putSlate, State.wakeRemote_slates]
  simp [Sched.writeSlate, Tab.at_put, State.slate]

/-- Every count after an operation, and the count it answers (R354). -/
theorem State.slate_slateApply (s : State) (i : Nat) (o : SlateOp) (v cmp : Word) (j : Nat) :
    (s.slateApply i o v cmp).1.slate j = (if j = i then o.apply (s.slate i) v cmp else s.slate j) ∧
    (s.slateApply i o v cmp).2 = s.slate i := by
  rw [State.slateApply]
  split
  · exact ⟨State.slate_setSlate _ _ _ _, rfl⟩
  · rename_i h
    refine ⟨?_, rfl⟩
    have e : o.apply (s.slate i) v cmp = s.slate i := by
      cases o <;> simp_all [SlateOp.updates, SlateOp.apply]
    rw [e]
    have : ∀ (k : Nat), (s.bump (.die (i / 32768)) 0x104 1).slate k = s.slate k := by simp [State.slate]
    dsimp only
    rw [this]
    split
    · rename_i e
      rw [e]
    · rfl

/-- A token copy ahead of a message leaves the counts alone. -/
theorem State.slate_carry (s : State) (a b : At) (j : Nat) : (s.carry a b).slate j = s.slate j := by
  rw [State.slate, (State.carry_swept s a b (Swept.refl s)).sched, State.slate]

/-- Every count after an operation a unit asks for, and the count it answers (R354, R590). -/
theorem State.slate_slateAsk (s : State) (a : At) (i : Nat) (o : SlateOp) (v cmp : Word) (j : Nat) :
    (s.slateAsk a i o v cmp).1.slate j = (if j = i then o.apply (s.slate i) v cmp else s.slate j) ∧
    (s.slateAsk a i o v cmp).2 = s.slate i := by
  rw [State.slateAsk]
  have h := State.slate_slateApply (s.carry a (.die (i / 32768))) i o v cmp j
  rw [State.slate_carry, State.slate_carry] at h
  exact h

end Sys2Proof.Machine
end

