-- ==== Sys2Proof/Tests/Slice0.lean ====
section
/-! SUPPORT. Checks of the model: terms the well-formedness check refuses, and for each obligation with hypotheses concrete states
and operands that meet them. -/

namespace Sys2Proof.Tests

set_option Elab.async false

open Sys2Proof.Machine

/-! ### Builders -/

/-- A 64-byte record from fields: offset, bytes, value. -/
def rec (fs : List (Nat × Nat × Nat)) : List Byte :=
  fs.foldl (fun r f => overlay r f.1 (leBytes f.2.1 f.2.2)) (List.replicate 64 0)

/-- A device that serves: every stage passed, intake open, HBM trained, queue 0 enabled over a ring in host memory. -/
def on : State :=
  { State.reset with
    boot := { stage := 5, fw1 := some ⟨[], 0⟩ }
    host := { intake := true, gen := 1, cfgReady := true, queues := [(0, { enable := true, log2 := 4, base := 0x100000000000000 })] }
    hbm := { trained := true } }

/-- A command of an opcode, accepted and ready. -/
def cmd (op : Nat) (fs : List (Nat × Nat × Nat)) : Cmd := { gen := 1, record := rec ((0, 1, op) :: fs), readyAt := some 0 }

/-- A state with one more accepted command, under sequence number 1. -/
def withCmd (s : State) (c : Cmd) : State := { s with cmds := [(1, c)] }

/-- A host memory address. -/
def hostVa (n : Nat) : Nat := 2 ^ 56 + n

/-- A kernel of eight words. -/
def kent : KernelEnt := ⟨0, 8, 0, false, false, false, 0, 0, 0, 0, 0, noOff, noOff, noOff, 0, noOff, noOff, noOff⟩

/-- A program of that one kernel. -/
def prog1 : Program := { slates := 16, kernels := [kent] }

/-- The kernel on its placement: core 0, with DMA channel 3 of its cluster. -/
def kern : Kern :=
  { seq := 1, layer := 0, prog := 0, kernel := 0, cls := 1, size := 0, cores := [0], ranks := [0], clusters := [0], banks := []
    chans := [(0, [3])] }

/-- A state in which a kernel command runs on a core. -/
def onCore (c : Core) : State :=
  { on with
    cmds := [(1, { cmd 0x02 [] with phase := .running })]
    progs := [(0, { prog := some prog1 })]
    sched := { kerns := [kern] }
    cores := [(0, { c with owner := some (1, 0) })] }

/-! ### Ill-formed commands are refused -/

theorem test_ill_formed_words : ([.matmul 0 0x41, .attend 0 0x40, .conv 0 0x49, .pool 0 0x48, .halo 0 0x4B, .edgePrep 0 0x4A,
    .edgeConv 0 0, .await 0 0x4E, .eprun 0 0x30, .vop 0 0x11, .vcvt 0 0x10, .vred 0 0x13, .vscore 0 0x15, .vcmp 0 0x14, .vld 0 0x21,
    .vst 0 0x20, .vsetx 0 0x30, .vloop 0 0x28, .vrand 0 0x12, .dmaq 0 0x3A, .perfrd 0 0x39] : List Instr).all
      (fun i => !i.wellFormed) = true := by decide

theorem test_ill_formed_slates : ([.slateWait 0 0x138, .slateWaiteq 0 0x038, .slateSignal 0 0x338, .slateAdd 0 0x238, .slateFadd 0 0x538,
    .slateCas 0 0x438, .slateRead 0 0x738, .slateSet 0 0x638] : List Instr).all (fun i => !i.wellFormed) = true := by decide

theorem test_ill_formed_operands : ([.intakeWrite 0 [] false, .intakeWrite 0xFFFFF [1, 2] false, .receiptRead 0 0, .receiptRead 0xFFFFF 2,
    .retentionEntry 0 544 0, .bankWake 2 0 64, .marchTestDone [⟨1, 0, 16, 0⟩], .stageC none [] [] [⟨3, 0, 0, 0⟩], .marchTestStart 0,
    .scrubStep [(0, 0)], .scrubStep [(0, 1), (0, 2)], .mailSlotWrite 0 [] false, .mailSlotWrite 0 (List.replicate 17 0) false,
    .ideKm 3 false, .tapInstruction 3, .i3cTransaction 3 0 0 0] : List Instr).all (fun i => !i.wellFormed) = true := by decide

theorem test_no_word_spells_a_command : decodeTableWord 8 0x40 = none ∧ decodeTableWord 0 0 = none := by decide

/-! ### The machine -/

/-- The next state of an outcome, where it is one. -/
def nextOf : Host.Outcome State Fault Refusal → Option State
  | .next s => some s
  | _ => none

theorem test_step_front : ({ on with pending := [.vinRise, .modEnRise] } : State).pending = .vinRise :: [.modEnRise] ∧
    nextOf (step { on with pending := [.vinRise, .modEnRise] }) = nextOf (exec .vinRise { on with pending := [.modEnRise] }) := by decide +kernel
theorem test_step_idle : on.pending = [] ∧ nextOf (step on) = some { on with nowUs := 1 } := by decide +kernel
theorem test_step_mem : on.memOk = true ∧ (nextOf (step { on with pending := [.vinRise] })).isSome = true := by decide +kernel

/-! ### Queries and programs -/

def query (sel id : Nat) : Cmd := cmd 0x51 [(24, 1, sel), (28, 4, id), (32, 8, hostVa 0x1000), (40, 4, 512)]
def withIds : State :=
  { on with takes := { takes := [(0, { state := .idle })] }, reels := { reels := [(2, { state := .stored })] }
            kv := { seqs := [(3, { state := .active })] } }

/-- The hypotheses of QueriesAnswer on a state and a report. -/
def queryOk (s : State) (r : List Byte) : Bool :=
  s.turnOf 1 0x51 |>.any fun c => s.firstOwnBad 1 [⟨c.fieldN 32 8, r.length, true, 64⟩] == none && decide (r.length ≤ c.fieldN 40 4) &&
    (s.writeVA (accOf 1) (c.fieldN 32 8) r false).any (fun v => !v.writesOut 1)

theorem test_query_device : queryOk (withCmd on (query 0 0)) (withCmd on (query 0 0)).deviceReport = true := by decide +kernel
theorem test_query_take : queryOk (withCmd withIds (query 1 0)) ((withCmd withIds (query 1 0)).take 0).report = true ∧
    (withCmd withIds (query 1 0)).takeOf 0 = some 0 ∧ (withCmd on (query 1 0)).takeOf 0 = none := by decide +kernel
theorem test_query_reel : queryOk (withCmd withIds (query 2 2)) ((withCmd withIds (query 2 2)).reel 2).report = true ∧
    (withCmd withIds (query 2 2)).reelOf 2 = some 2 ∧ (withCmd on (query 2 2)).reelOf 2 = none := by decide +kernel
theorem test_query_sequence : queryOk (withCmd withIds (query 3 0x80000003)) ((withCmd withIds (query 3 0x80000003)).seqEnt 3).report = true ∧
    (withCmd withIds (query 3 3)).seqOf 0x80000003 = some 3 ∧ (withCmd on (query 3 3)).seqOf 0x80000003 = none := by decide +kernel

def unload : Cmd := cmd 0x01 [(40, 1, 1)]
theorem test_unload : (withCmd { on with progs := [(0, { prog := some prog1 })] } unload).turnOf 1 0x01 = some unload ∧ unload.isUnload = true ∧
    ({ on with progs := [(0, { prog := some prog1 })] } : State).progOf unload.programRef = some prog1 ∧ on.progOf unload.programRef = none := by
  decide +kernel
theorem test_load_zero : (cmd 0x01 []).isUnload = false ∧ (cmd 0x01 []).fieldN 32 8 = 0 ∧
    (withCmd on (cmd 0x01 [])).turnOf 1 0x01 = some (cmd 0x01 []) := by decide +kernel

/-- Zero bytes. -/
def zeros (n : Nat) : List Byte := List.replicate n 0

/-- A container's section: kind, count, body of whole 64-byte units. -/
def section_ (kind count : Nat) (body : List Byte) : List Byte :=
  leBytes 2 kind ++ zeros 2 ++ leBytes 4 count ++ leBytes 8 body.length ++ zeros 48 ++ body

/-- A container of one kernel of one word; its body's SHA3-256 as a number. -/
def containerBody : List Byte :=
  let kernel := leBytes 4 0 ++ leBytes 4 1 ++ leBytes 1 1 ++ zeros 11 ++ leBytes 8 0xFFFFFFFFFFFFFFFF ++ leBytes 4 0xFFFFFFFF ++ zeros 32
  section_ 7 1 (leBytes 4 16 ++ zeros 60 ++ kernel) ++ section_ 1 0 (zeros 8)
def container : List Byte :=
  leBytes 4 0x5A50524D ++ leBytes 2 1 ++ leBytes 2 2 ++ leBytes 8 (64 + containerBody.length) ++ leBytes 32 47791064283574864886018559439351454814694739662163324293109164025729901669349 ++ zeros 16 ++ containerBody

def load : Cmd := cmd 0x01 [(24, 8, hostVa 0x1000), (32, 8, container.length)]
def loading : State := withCmd { on with mem := { host := Mem.writeN [] 0x1000 container } } load
def parsed : Container := (parseContainer container).getD ⟨⟨0, 0, []⟩, ⟨0, 0, []⟩, ⟨0, 0, []⟩, ⟨0, 0, []⟩, ⟨0, 0, []⟩, ⟨0, 0, []⟩, ⟨0, 0, []⟩, ⟨0, 0, []⟩⟩

theorem test_load_reads : loading.turnOf 1 0x01 = some load ∧ load.isUnload = false ∧ load.fieldN 32 8 ≠ 0 ∧
    loading.firstOwnBad 1 [⟨hostVa 0x1000, load.fieldN 32 8, false, 64⟩] = none ∧
    loading.peerReady (accOf 1) (hostVa 0x1000) (load.fieldN 32 8) = true ∧
    loading.readVA (accOf 1) (load.fieldN 24 8) (load.fieldN 32 8) = .ok container := by decide +kernel
theorem test_load_passes : parseContainer container = some parsed ∧ parsed.shapesOk = true ∧ parsed.proxiesOk = true ∧
    parsed.kernels.length = 1 ∧ loading.freeProg = some 0 ∧
    (loading.placeRuns 0 (programWindow 0) parsed.windowRuns).isSome = true := by decide +kernel

/-! ### Intake, completion and the host's edge -/

def fresh : List Byte := rec [(0, 1, 0x51), (32, 8, hostVa 0x1000), (40, 4, 512)]
theorem test_intake_accepts : on.rejectReason fresh false = none ∧ on.slot 4095 = .empty ∧ fresh.length = 64 ∧
    (nextOf (exec (.intakeWrite 0xFFF00 fresh false) on)).map (fun t => (t.host.nextSeq, t.cmds.length)) = some (1, 1) := by decide +kernel
theorem test_intake_fills : ({ on with host := { on.host with slots := [(2, .filling (runMask 0 32) (slice fresh 0 64) false)] } } : State).slot 2 =
      .filling (runMask 0 32) (slice fresh 0 64) false ∧ runMask 0 32 ||| runMask 32 32 = BitVec.allOnes 64 ∧
    overlay (slice fresh 0 64) 32 (fresh.drop 32) = fresh := by decide +kernel
theorem test_intake_rejects : on.rejectReason (rec [(0, 1, 0x7F)]) false = some (0x03, .shapeOver) ∧
    State.reset.rejectReason fresh false = some (0x02, .deviceFault) := by decide +kernel
theorem test_intake_leaves : (0x0FF + 2 - 1) / 256 ≠ 0x0FF / 256 ∧ (0x03F + 2 - 1) / 256 = 0x03F / 256 ∧ 64 < 0x03F % 256 + 2 := by decide
theorem test_receipts : ({ on with host := { on.host with slots := [(0, .receipt 5), (1, .filling 1 [0] false)] } } : State).slot 0 = .receipt 5 ∧
    ({ on with host := { on.host with slots := [(0, .receipt 5), (1, .filling 1 [0] false)] } } : State).slot 1 = .filling 1 [0] false ∧
    on.slot 4095 = .empty := by decide

def done : CplRec :=
  { seq := 1, handle := 0, queue := 0, status := .ok, flags := 0, ext := false, result := [], signal := some 9, irq := false, place := .writing }
def ending : State := { on with host := { on.host with cpls := [done], queues := [(0, { enable := true, log2 := 4, base := 0x100000000000000, prod := 255 })] } }
theorem test_record_visible : pullFirst (fun r => r.queue == 0 && r.place == .writing) ending.host.cpls = some (done, []) ∧
    (ending.queue 0).enable = true ∧
    (ending.writeVA {} ((ending.queue 0).base.toNat + 32 * (255 % (ending.queue 0).size)) (done.bytes true) false).isSome = true ∧
    (nextOf (exec (.completionRecordVisible 0 true) ending)).map (fun t => ((t.queue 0).phase, (t.queue 0).prod, t.slate 9)) =
      some (false, 256, 1) := by decide +kernel

def quiet (owed : Bool) (ctl : Word) : State :=
  { on with host := { on.host with queues := [(0, { enable := true, log2 := 4, prod := 3, quiet := true, owed := owed, holdoff := 5 })]
                                   msix := [(0, ⟨0x1000, 7, ctl⟩)], pba := ctl.setWidth 64 } }
theorem test_cons_write : on.barTakes .fromB = true ∧ ((quiet true 0).queue 0).size = 256 ∧
    ((quiet true 0).queue 0).size < (((quiet true 0).queue 0).prod - 4).toNat ∧
    (((quiet true 0).queue 0).prod - 3).toNat ≤ ((quiet true 0).queue 0).size ∧
    (((quiet true 0).queue 0).prod - (3 - 256)).toNat ≤ ((quiet true 0).queue 0).size := by decide +kernel
theorem test_holdoff : ((quiet true 0).queue 0).quiet = true ∧ ((quiet true 0).queue 0).owed = true ∧
    (Tab.at (quiet true 0).host.msix 0 {}).ctl.toNat.testBit 0 = false ∧ (Tab.at (quiet true 1).host.msix 0 {}).ctl.toNat.testBit 0 = true ∧
    ((quiet false 0).queue 0).owed = false ∧ (quiet true 1).host.pba.toNat.testBit 0 = true := by decide +kernel

/-- A device whose call sheet asks for a picture store of 16 MiB. -/
def sheeted : State := { on with boot := { on.boot with sheet := zeros 16 ++ leBytes 4 64 ++ leBytes 4 16 ++ leBytes 4 1 ++ zeros 120 ++ leBytes 4 16 ++ zeros 360 } }
theorem test_cxl : sheeted.memOk = true ∧ sheeted.mod.good = true ∧ 64 * (9663676415 : BitVec 34).toNat < sheeted.hbmBytes ∧
    sheeted.hbmBytes ≤ 64 * (9663676416 : BitVec 34).toNat ∧ sheeted.ideHolds = false ∧ sheeted.hbm.trained = true ∧
    sheeted.guarded 0 = true ∧ sheeted.guarded sheeted.storeEnd = false ∧ sheeted.storeEnd % 64 = 0 ∧
    migOf sheeted.mem.migs 0 sheeted.storeEnd = none ∧ (sheeted.chan (hbmChannel sheeted.hbm.out sheeted.storeEnd).1).failed = false := by
  decide +kernel
def ideAsked : State := { on with boot := { on.boot with fuses := { ideMand := true } } }
theorem test_ide_holds : ideAsked.ideHolds = true ∧ ideAsked.mod.good = true ∧ (0 : Nat) < ideAsked.hbmBytes := by decide +kernel
theorem test_config : State.reset.mod.good = true ∧ State.reset.host.cfgReady = false ∧ on.host.cfgReady = true := by decide
theorem test_registers : on.serves .endC = true ∧ on.serves .fromD = true ∧ on.serves .fromB = true ∧ on.serves .fromA = true ∧
    ([0x100000, 0x90040, 0x20003C, 0x10, 0x60004, 0x100000C, 0x31F000C, 0x80050].all (fun o => o % 4 == 0 && decide (o < 2 ^ 26))) = true ∧
    regExists (blockIx 0x10) (0x10 - blockBase (blockIx 0x10)) = true ∧ regExists (blockIx 0xFFC) (0xFFC - blockBase (blockIx 0xFFC)) = false := by
  decide +kernel

/-! ### Start, protection and the module -/

def agreed (p : Spdm) : State := { on with boot := { on.boot with spdm := p } }
theorem test_spdm : on.mod.good = true ∧ on.boot.fw1.isSome = true ∧ (agreed { version := true }).boot.spdm.version = true ∧
    (agreed { caps := true }).boot.spdm.caps = true ∧ (agreed { algs := true }).boot.spdm.algs = true ∧
    (agreed { keyEx := true }).boot.spdm.keyEx = true ∧ (agreed { session := true }).boot.spdm.session = true ∧
    (on.measurement 2).isSome = true ∧ (2 : Byte) ≠ 0xFF := by decide +kernel
theorem test_ide_up : (nextOf (exec (.ideKm 1 true) (agreed { session := true, ideKeys := 3, ideGo := 1 }))).map (fun t => t.host.ideUp) =
    some true := by decide +kernel

/-- Blocks absorbed in two runs. -/
theorem keccakBlocks_add (n m : Nat) (a : List Nat) (bs : List Byte) :
    keccakBlocks (n + m) a bs = keccakBlocks m (keccakBlocks n a bs) (bs.drop (136 * n)) := by
  induction n generalizing a bs with
  | zero => simp [keccakBlocks]
  | succ n ih =>
    rw [show n + 1 + m = (n + m) + 1 by omega]
    simp only [keccakBlocks, ih, List.drop_drop]
    rw [show 136 + 136 * n = 136 * (n + 1) by omega]

/-- The SHA3-256 states after 3, 6, 9 and 12 blocks of zeros. -/
def keyState3 : List Nat :=
  [6190966798192293446, 9710698443002657486, 10687836126885419837, 16021909905602932502, 14294676948878106926,
  8665294470887218099, 14677811311583355777, 14922354519784138303, 9493789660306562940, 4967409154282061333,
  5247679824567413909, 10539389348684508933, 13683480077768976361, 2596730108423164336, 1344738195534476934,
  15162311512812391245, 15179962292177534968, 8922838947335710033, 16238523090442652599, 14222532082574896197,
  11385893114474637212, 3544101627765608131, 7546329233498822329, 3130628427839629854, 13156280498606537451]
def keyState6 : List Nat :=
  [10888838312788144398, 7699715676463607352, 6571628790038080905, 5186046154915237326, 18360333364486805579,
  18375488446478219770, 8288212745969671308, 12530997289260122802, 15977483048434778793, 1641889271701036244,
  2917802358611618199, 2882510982844456164, 8992657962834175413, 6881144214258849497, 8414450323515590793,
  6713568016396236925, 14208845340591349127, 12110537173653022853, 12589417787996277619, 10822146424042168399,
  2605750718860213663, 197312721548819953, 18305572087729188550, 11741927763826299150, 9294427268889712144]
def keyState9 : List Nat :=
  [15109253369201226102, 18039033046510886242, 4686792297099843651, 18256872821820604450, 17238752784612139459,
  9856763829764570432, 3515869254057158493, 17418917374305764432, 6133432670049911412, 1084853277745659950,
  9196451665262791192, 9977655503963415987, 6628369631958419821, 16923546057954249504, 829217989690047320,
  15768232868696331526, 15423342759517416437, 3364456829964954575, 109817101077358708, 7573761821649057866,
  2800691609907408250, 6869555342783206910, 12930544929123583663, 1921296089779644759, 18050051893921358688]
def keyState12 : List Nat :=
  [11956510539815163403, 14881058635652867384, 407653992127049138, 1238158823478969180, 16387232627796992283,
  9878106116492676446, 17303564726513295105, 10547007057692880141, 296085010162914557, 547813598955594545,
  15173455087336210384, 15766192997146209795, 7053428118088787696, 4132592796667582125, 16934020553475749072,
  17045877472611546529, 2839742743355702968, 5575221302938188758, 15119210437784214787, 17703284479117618255,
  963845747344680248, 681236030485402368, 10527875358132029645, 13617206376059467022, 2975307129065049002]
/-- The padded key of zeros. -/
def keyBytes : List Byte := zeros 1952 ++ sha3Pad 1952
theorem test_key_state3 : keccakBlocks 3 (List.replicate 25 0) keyBytes = keyState3 := by decide +kernel
theorem test_key_state6 : keccakBlocks 3 keyState3 (keyBytes.drop 408) = keyState6 := by decide +kernel
theorem test_key_state9 : keccakBlocks 3 keyState6 (keyBytes.drop 816) = keyState9 := by decide +kernel
theorem test_key_state12 : keccakBlocks 3 keyState9 (keyBytes.drop 1224) = keyState12 := by decide +kernel
theorem test_key_last : leNat ((List.range 4).flatMap (fun i => leBytes 8 (lane (keccakBlocks 3 keyState12 (keyBytes.drop 1632)) i))) =
    25836086259876191124521984900764710089798601377976303239309132927848393544856 := by decide +kernel
/-- The SHA3-256 of 1,952 zero bytes, as published tools give it. -/
theorem test_key_digest : leNat (sha3_256 (zeros 1952)) = 25836086259876191124521984900764710089798601377976303239309132927848393544856 := by
  have h : sha3_256 (zeros 1952) =
      (List.range 4).flatMap (fun i => leBytes 8 (lane (keccakBlocks (3 + (3 + (3 + (3 + 3)))) (List.replicate 25 0) keyBytes) i)) := by
    simp only [sha3_256, show (zeros 1952).length = 1952 from List.length_replicate]
    rw [show (zeros 1952 ++ sha3Pad 1952).length / 136 = 3 + (3 + (3 + (3 + 3))) by decide +kernel]
    rfl
  rw [h, keccakBlocks_add, keccakBlocks_add, keccakBlocks_add, keccakBlocks_add, test_key_state3, test_key_state6, List.drop_drop,
    test_key_state9, List.drop_drop, test_key_state12, List.drop_drop]
  exact test_key_last

/-- The same for 512 zero bytes, the payload of a call sheet of zeros. -/
def sheetState : List Nat :=
  [3268651591693945660, 7652509465582220653, 665843430262795116, 9953194536449200276, 5736547547768942934,
  17967033347517840184, 9617223347116289805, 18083344793841701111, 2241559954380719961, 16500850453531636773,
  7552081062576154785, 16062764016099891023, 3730174026076631541, 16142682291168730073, 9005134303344136805,
  18254296170158835523, 10943093107769035584, 5254247195150641012, 16409086168290275388, 10493424989303096041,
  10380288247186775419, 2317839531386326248, 6571880257221836214, 6962369734508286041, 2364509455356247900]
def sheetBytes : List Byte := zeros 512 ++ sha3Pad 512
theorem test_sheet_state : keccakBlocks 2 (List.replicate 25 0) sheetBytes = sheetState := by decide +kernel
theorem test_sheet_last : (List.range 4).flatMap (fun i => leBytes 8 (lane (keccakBlocks 2 sheetState (sheetBytes.drop 272)) i)) =
    leBytes 32 40615393238885494241205187494214024030069503514690257030592399024526167453026 := by decide +kernel
theorem test_sheet_digest : sha3_256 (zeros 512) = leBytes 32 40615393238885494241205187494214024030069503514690257030592399024526167453026 := by
  have h : sha3_256 (zeros 512) = (List.range 4).flatMap (fun i => leBytes 8 (lane (keccakBlocks (2 + 2) (List.replicate 25 0) sheetBytes) i)) := by
    simp only [sha3_256, show (zeros 512).length = 512 from List.length_replicate]
    rw [show (zeros 512 ++ sha3Pad 512).length / 136 = 2 + 2 by decide +kernel]
    rfl
  rw [h, keccakBlocks_add, test_sheet_state]
  exact test_sheet_last

/-- A signed image of a kind with a key of zeros: its payload and the payload's SHA3-256. -/
def image (kind digest : Nat) (payload : List Byte) : List Byte :=
  leBytes 4 0x5A494D47 ++ leBytes 2 kind ++ leBytes 2 1 ++ leBytes 4 payload.length ++ zeros 20 ++ leBytes 32 digest ++ zeros 5312 ++ payload
/-- Fuses whose first root hash is that key's. -/
def rooted : Fuses := { rootHash := [25836086259876191124521984900764710089798601377976303239309132927848393544856#256, 0, 0, 0] }

def fw1Image : List Byte := image 1 33591244640371925502122120465629805428922884526608935689726864827131003076519 []
def sheetImage : List Byte := image 3 40615393238885494241205187494214024030069503514690257030592399024526167453026 (zeros 512)
def tokenImage : List Byte := image 4 51703261922424695082357692802026188874298535971789169570590860156657896354807 (zeros 32 ++ [1] ++ zeros 31)

/-- A run of bytes written to a blank memory reads back. -/
theorem readN_writeN (a : Nat) (bs : List Byte) : (Mem.writeN [] a bs).readN a bs.length = bs := by
  apply List.ext_getElem
  · simp [Mem.readN]
  · intro i h1 h2
    simp only [Mem.readN, List.getElem_map, List.getElem_range]
    exact Mem.read_writeN_at bs a i h2 rfl

/-- An image whose parts are in order passes R561 if its signature does. -/
theorem image_passes (f : Fuses) (kind : Nat) (img : List Byte)
    (hh : recField img 0 4 = 0x5A494D47 ∧ imageKind img = kind ∧ recField img 6 2 = 1 ∧ lengthFits kind (imageLength img) = true)
    (hs : f.slotGood (imageSlot img) = true ∧ (f.root (imageSlot img)).toNat = 25836086259876191124521984900764710089798601377976303239309132927848393544856 ∧ slice img 64 1952 = zeros 1952)
    (hd : slice img 32 32 = sha3_256 (imagePayload img)) (hv : f.count ≤ imageSvn img)
    (sig : ∀ m q, Config.mldsaOk (zeros 1952) m q = true) : f.checkImage kind img = 0 := by
  obtain ⟨h1, h2, h3, h4⟩ := hh
  obtain ⟨h5, h6, h7⟩ := hs
  simp [Fuses.checkImage, Fuses.laterChecks, h1, h2, h3, h4, h5, h6, h7, ← hd, sig, test_key_digest, Nat.not_lt.mpr hv]

theorem test_fw1_image (sig : ∀ m q, Config.mldsaOk (zeros 1952) m q = true) : rooted.checkImage 1 fw1Image = 0 :=
  image_passes rooted 1 fw1Image (by decide +kernel) (by decide +kernel) (by decide +kernel) (by decide +kernel) sig
theorem test_sheet_image (sig : ∀ m q, Config.mldsaOk (zeros 1952) m q = true) : rooted.checkImage 3 sheetImage = 0 ∧ imageKind sheetImage = 3 ∧
    sheetImage.length = imageHead + imageLength sheetImage :=
  ⟨image_passes rooted 3 sheetImage (by decide +kernel) (by decide +kernel)
    (by rw [show imagePayload sheetImage = zeros 512 by decide +kernel, test_sheet_digest]; decide +kernel) (by decide +kernel) sig, by decide +kernel, by decide +kernel⟩

def tokenFuses : Fuses := { rooted with dbgFuse := 1 }
/-- A device whose token window holds some bytes. -/
def tokened (m : Mem) : State := { on with boot := { on.boot with fuses := tokenFuses, tokenWin := m } }
theorem test_token (sig : ∀ m q, Config.mldsaOk (zeros 1952) m q = true) (m : Mem) (hm : m = Mem.writeN [] 0 tokenImage) :
    (tokened m).barTakes .fromA = true ∧ (tokened m).tokenResult ((tokened m).boot.tokenWin.readN 0 5440) = 0 ∧ on.tokenResult [] ≠ 0 := by
  have hl : tokenImage.length = 5440 := by decide +kernel
  have hw := readN_writeN 0 tokenImage
  rw [hl, ← hm] at hw
  have hc : tokenFuses.checkImage 4 tokenImage = 0 :=
    image_passes _ 4 tokenImage (by decide +kernel) (by decide +kernel) (by decide +kernel) (by decide +kernel) sig
  have h2 : recField (imagePayload tokenImage) 0 16 = 0 := by decide +kernel
  have h3 : recField (imagePayload tokenImage) 16 16 = 0 := by decide +kernel
  have h4 : recField (imagePayload tokenImage) 32 1 % 32 ≠ 0 := by decide +kernel
  refine ⟨rfl, ?_, by decide +kernel⟩
  show (tokened m).tokenResult (m.readN 0 5440) = 0
  rw [hw]
  have h1 : tokenFuses.dbgFuse = 1 := rfl
  have h5 : tokenFuses.uid.toNat = 0 := rfl
  have h6 : (tokened m).boot.nonce.toNat = 0 := rfl
  simp only [State.tokenResult, show (tokened m).boot.fuses = tokenFuses from rfl, hc, h1, h2, h3, h4, h5, h6]
  simp

def shut : State := { on with boot := { on.boot with fuses := { dbgFuse := 1 } } }
theorem test_ports : on.granted 0 = true ∧ on.granted 1 = true ∧ shut.granted 0 = false ∧ shut.granted 1 = false ∧ (2 : BitVec 2) ≠ 0 ∧
    ({ on.mod with i3cAddr := some 9 } : Module).i3cAddr = some 9 ∧
    (nextOf (exec (.tapInstruction 2) shut)).map (fun t => t.out) = some [.tap 0] := by decide +kernel

def staging (n : Nat) : State := { on with boot := { on.boot with staged := zeros n } }
theorem test_updates : on.barTakes .fromA = true ∧ on.boot.updBusy = false ∧ on.boot.recovery = false ∧
    (32768 : Half).toNat ≤ 32768 ∧ on.boot.staged.length + 32768 ≤ 16777216 ∧ ({ on.boot with updBusy := true } : Boot).updBusy = true := by
  decide +kernel
theorem test_staging_full (n : Nat) (h : n = 16777216) : 16777216 < (staging n).boot.staged.length + (1 : Half).toNat := by
  have e : (staging n).boot.staged.length = n := List.length_replicate
  rw [e, h]; decide
def writing : State := { on with boot := { on.boot with jobs := [⟨.sheet, sheetAt, [1]⟩], updBusy := true } }
theorem test_flash_ends : writing.boot.jobs = [⟨.sheet, sheetAt, [1]⟩] ∧ writing.boot.warmWaits = false ∧
    (nextOf (exec (.flashWriteDone false) writing)).map (fun t => (t.boot.updBusy, t.boot.updResult, t.boot.flash.read sheetAt)) =
      some (false, 0, 1) := by decide +kernel
theorem test_fuses : on.barTakes .fromA = true ∧ on.boot.rbResult ≠ 1 ∧ ({ on.boot with rbResult := 1 } : Boot).rbResult = 1 ∧
    on.boot.fuses.fuseLock = false ∧ ({ fuseLock := true } : Fuses).fuseLock = true ∧
    (nextOf (exec .rollbackBitBlow { on with boot := { on.boot with rbResult := 1, rbTarget := 2, fuses := { rollback := 1 } } })).map
      (fun t => (t.boot.fuses.rollback, t.boot.rbResult)) = some (3, 0) := by decide +kernel

def flashed (m : Mem) : State := { State.reset with boot := { State.reset.boot with fuses := rooted, flash := m } }
theorem test_stage_a (sig : ∀ m q, Config.mldsaOk (zeros 1952) m q = true) (m : Mem) (hm : m = Mem.writeN [] (fw1At false) fw1Image) :
    (flashed m).mod.good = true ∧ (flashed m).boot.stage = 0 ∧ (flashed m).gaf.tripped = false ∧ (flashed m).boot.halted = false ∧
    (flashed m).boot.fuses.checkImage 1 (flashImage (flashed m).boot.flash (fw1At (flashed m).boot.last1) 1) = 0 := by
  have hl : fw1Image.length = imageHead := by decide +kernel
  have hr := readN_writeN (fw1At false) fw1Image
  rw [hl, ← hm] at hr
  have hf : imageLength fw1Image = 0 := by decide +kernel
  have h : flashImage m (fw1At false) 1 = fw1Image := by
    simp only [flashImage, hr, hf, Nat.add_zero]
    simp
  refine ⟨rfl, rfl, rfl, rfl, ?_⟩
  show rooted.checkImage 1 (flashImage m (fw1At false) 1) = 0
  rw [h]
  exact test_fw1_image sig
theorem test_stage_a_fails : State.reset.boot.fuses.checkImage 1 (flashImage State.reset.boot.flash (fw1At false) 1) ≠ 0 ∧
    State.reset.boot.fuses.checkImage 1 (flashImage State.reset.boot.flash (fw1At true) 1) ≠ 0 := by decide +kernel

def at_ (n : Nat) (r : Boot := {}) : State := { State.reset with boot := { r with stage := n } }
theorem test_stage_b : (at_ 1 { keptFw2 := some ⟨[], 0⟩, keptSheet := some (⟨[], 0⟩, []) }).boot.stage = 1 ∧
    (at_ 1 { keptFw2 := some ⟨[], 0⟩, keptSheet := some (⟨[], 0⟩, []) }).boot.keptSheet = some (⟨[], 0⟩, []) ∧
    (at_ 1).boot.keptFw2 = none ∧ (at_ 1).boot.halted = false := by decide +kernel
theorem test_stage_d : (at_ 3).boot.stage = 3 ∧ (at_ 4).boot.atD = none ∧ (at_ 4).stopped = false := by decide +kernel

/-- Stage C's hypotheses on the channels out. -/
def stageCOk (s : State) (failed : List ChannelIx) : Bool :=
  let s1 := (s.applyRepairs.readAge.planAll []).marchFails []
  let s' := ({ s1 with mem := { s1.mem with sram := [] } } : State).takeReports
  let out := (List.range 256).filter (fun c => (s'.chan c).failed || failed.any (fun f => f.val == c))
  s.boot.stage == 2 && !s.boot.halted && decide (out.length ≤ 8) && decide (s'.storesMib ≤ 589824 - 2304 * out.length - 1024) && s'.role != 2
theorem test_stage_c : stageCOk (at_ 2) [0, 31, 32, 63, 64, 127, 128, 255] = true := by decide +kernel
theorem test_stage_c_holds : 8 < ((List.range 256).filter (fun c => ([0, 1, 2, 3, 4, 5, 6, 7, 255] : List ChannelIx).any (fun f => f.val == c))).length := by
  decide +kernel

theorem test_warm : on.mod.good = true ∧ on.boot.jobs = [] ∧ on.barTakes .fromA = true ∧ writing.boot.jobs ≠ [] ∧
    ({ writing.boot with warmWaits := true } : Boot).warmWaits = true := by decide +kernel
def down : State := { State.reset with mod := { good := false } }
theorem test_power : down.mod.good = false ∧ down.mod.modEn = true ∧ down.mod.vinOk = true ∧ down.mod.cold = false ∧ down.mod.railsOff = true ∧
    ({ down.mod with cold := true } : Module).cold = true := by decide

/-! ### Instructions of the cores -/

/-- An instruction word from its opcode and fields: lowest bit, value. -/
def word (op : Nat) (fs : List (Nat × Nat)) : Dword := BitVec.ofNat 64 (fs.foldl (fun n f => n + f.2 * 2 ^ f.1) op)

/-- Whether core 0 issues a word now. -/
def issues (s : State) (op : Nat) (fs : List (Nat × Nat)) : Bool :=
  s.issuing 0 (word op fs).toNat == some kern && opcodeOf (word op fs).toNat == op && !wordBad (word op fs).toNat

theorem test_issues : (onCore {}).issues 0 (word 0x28 [(8, 7), (32, 9)]) 0x28 kern ∧ (onCore { pos := 7 }).issues 0 (word 0x28 []) 0x28 kern :=
  ⟨⟨by decide +kernel, by decide +kernel, by decide +kernel⟩, ⟨by decide +kernel, by decide +kernel, by decide +kernel⟩⟩

/-- Core 543 runs the last word of its kernel. -/
def onLast : State :=
  { onCore {} with sched := { kerns := [{ kern with cores := [543], clusters := [31] }] }, cores := [(543, { owner := some (1, 0), pos := 7 })] }
theorem test_issues_last : (onLast.issuing 543 (word 0x28 []).toNat).isSome = true ∧
    (nextOf (exec (.vsetx 543 (word 0x28 [(8, 7), (32, 0xFFFFFFFF)])) onLast)).map (fun t => (t.core 543).x 7) = some 0xFFFFFFFF := by decide +kernel

/-- One word of every register instruction, the reserved bits zero: each issues. -/
theorem test_vector_words : [(0x10, [(8, 31), (32, 0x00)]), (0x10, [(8, 31), (32, 0x40), (48, 3)]), (0x11, [(8, 31), (40, 1)]), (0x12, [(8, 31)]),
    (0x13, [(8, 31)]), (0x14, [(13, 31), (32, 1)]), (0x15, [(8, 7), (32, 11)]), (0x15, [(8, 1), (32, 6)]), (0x20, [(8, 31), (15, 1)]),
    (0x21, [(8, 31), (15, 1)]), (0x28, [(8, 0)]), (0x28, [(8, 7), (11, 1)]), (0x30, [(10, 1), (22, 0xFFFF)]), (0x31, [(8, 2)])].all
      (fun p => issues (onCore {}) p.1 p.2) = true := by decide +kernel
theorem test_array_words : [(0x40, []), (0x41, []), (0x48, []), (0x49, []), (0x4A, []), (0x4B, []), (0x4F, []), (0x39, [(10, 0)]),
    (0x3A, [(8, 31), (14, 7)]), (0x38, [(8, 0)]), (0x38, [(8, 7), (23, 15)])].all (fun p => issues (onCore {}) p.1 p.2) = true := by
  decide +kernel

theorem test_vop_adds : (nextOf (exec (.vop 0 (word 0x10 [(8, 31), (13, 1), (18, 2), (32, 0)])) (onCore { tiles := [(1, List.replicate 256 0x3F800000),
    (2, List.replicate 256 0x40000000)] }))).map (fun t => nth ((t.core 0).tile 31) 255 0) = some 0x40400000 := by decide +kernel
theorem test_vcvt : numFmtOfCode (fld (word 0x11 [(8, 31), (40, 1)]).toNat 40 5) = some .bf16 ∧ NumFmt.bf16.isMx = false ∧
    fld (word 0x11 [(8, 31), (40, 1)]).toNat 45 2 ≠ 3 := by decide +kernel
theorem test_vcvt_refused : numFmtOfCode (fld (word 0x11 [(40, 0x0A)]).toNat 40 5) = some .mxfp4 ∧ NumFmt.mxfp4.isMx = true ∧
    numFmtOfCode (fld (word 0x11 [(40, 0x10)]).toNat 40 5) = none ∧ fld (word 0x11 [(40, 1), (45, 3)]).toNat 45 2 = 3 ∧
    issues (onCore {}) 0x11 [(40, 0x10)] = true := by decide +kernel
theorem test_vred_sums : (nextOf (exec (.vred 0 (word 0x12 [(8, 3), (13, 1), (48, 0)])) (onCore { tiles := [(1, List.replicate 256 0x3F800000)] }))).map
    (fun t => nth ((t.core 0).tile 3) 0 0) = some 0x43800000 := by decide +kernel
theorem test_vcmp : fld (word 0x15 [(8, 7), (32, 6)]).toNat 8 3 = 7 ∧ wordBad (word 0x15 [(32, 6)]).toNat = true ∧
    (onCore {}).issuing 0 (word 0x15 [(32, 12)]).toNat = some kern ∧ wordBad (word 0x15 [(8, 7), (32, 12)]).toNat = true := by decide +kernel
theorem test_vsetx_adds : (nextOf (exec (.vsetx 0 (word 0x28 [(8, 3), (11, 1), (32, 5)])) (onCore { xs := [(3, 0xFFFFFFFF)] }))).map
    (fun t => (t.core 0).x 3) = some 4 := by decide +kernel
theorem test_vloop : ({} : Core).loopBad 8 7 = false ∧ ({} : Core).loopBad 8 8 = true ∧ ({} : Core).loopBad 8 0 = true ∧
    ({ loops := List.replicate 4 ⟨0, 8, 2, 0, 0, 0⟩ } : Core).loopBad 8 1 = true ∧
    issues (onCore {}) 0x30 [(10, 7), (22, 0)] = true ∧ issues (onCore {}) 0x30 [(10, 7), (22, 2)] = true ∧ issues (onCore {}) 0x30 [(10, 8), (22, 2)] = true := by
  decide +kernel
theorem test_vrand_row : ((onCore { xs := [(1, 1)] }).core 0).x 1 = 1 ∧
    (nextOf (exec (.vrand 0 (word 0x13 [(8, 4)])) (onCore { tiles := [(4, List.replicate 256 9)] }))).map (fun t => nth ((t.core 0).tile 4) 255 1) =
      some 0 := by decide +kernel
def advancing (c : Core) : State := { onCore c with cmds := [(1, { cmd 0x11 [] with phase := .running })] }
theorem test_vscore : issues (advancing {}) 0x14 [(13, 2), (32, 1)] = true ∧ (((advancing {}).cmd? kern.seq).map Cmd.isAdvance).getD false = true ∧
    (((onCore {}).cmd? kern.seq).map Cmd.isAdvance).getD false = false := by decide +kernel

/-- The hypotheses of VldLoads and VstStores on a word of a format, its address in order. -/
def accessOk (c : Core) (op : Nat) (fs : List (Nat × Nat)) (f : NumFmt) (store : Bool) : Bool :=
  let n := (word op fs).toNat
  let a := c.tileAcc n f
  issues (onCore c) op fs && numFmtOfCode (fld n 15 5) == some f && decide (a.cols = 32 → fld n 8 5 % 2 = 0) && decide (a.off % 16 = 0) &&
    (((onCore c).atVector 0 0).tileBad kern 0 a store).isNone && (!store || fld n 20 2 != 3)
theorem test_vld : accessOk {} 0x20 [(8, 31), (15, 1)] .bf16 false = true ∧ accessOk {} 0x20 [(8, 30), (15, 8)] .mxfp8 false = true ∧
    accessOk { xs := [(2, 0x14FE00)] } 0x20 [(8, 31), (15, 1), (27, 2)] .bf16 false = true := by decide +kernel
theorem test_vst : accessOk {} 0x21 [(8, 31), (15, 1)] .bf16 true = true ∧ accessOk {} 0x21 [(8, 30), (15, 8)] .mxfp8 true = true ∧
    (nextOf (exec (.vst 0 (word 0x21 [(8, 1), (15, 0)])) (onCore { tiles := [(1, List.replicate 256 0x04030201)], loops := [⟨0, 8, 1, 0, 1, 1⟩] }))).map
      (fun t => (t.mem.sram.read 0, t.mem.sram.read 3, t.mem.sram.read 4)) = some (1, 4, 0) := by decide +kernel
theorem test_write_va : on.memOk = true ∧ ((onCore {}).writeVA { core := some 0, kern := some kern } (spaceVa 0 0) [1, 2] false).isSome = true ∧
    ((onCore {}).spans { core := some 0, kern := some kern } true 3 (spaceVa 0 0) 2) = [(.sram 0, spaceVa 0 0, 2)] := by decide +kernel
theorem test_tile_faults : issues (onCore {}) 0x20 [(15, 0x10)] = true ∧ numFmtOfCode (fld (word 0x20 [(15, 0x10)]).toNat 15 5) = none ∧
    (({ xs := [(2, 8)] } : Core).tileAcc (word 0x20 [(15, 1), (27, 2)]).toNat .bf16).off % 16 ≠ 0 ∧
    (({ xs := [(2, 0x14FE10)] } : Core).tileAcc (word 0x20 [(15, 1), (27, 2)]).toNat .bf16).off % 16 = 0 ∧
    (((onCore { xs := [(2, 0x14FE10)] }).atVector 0 0).tileBad kern 0 (({ xs := [(2, 0x14FE10)] } : Core).tileAcc (word 0x20 [(15, 1), (27, 2)]).toNat .bf16) false).isSome = true ∧
    (onCore {}).issuing 0 (word 0x7F []).toNat = some kern ∧ wordBad (word 0x7F []).toNat = true ∧ wordBad (word 0x28 [(12, 1)]).toNat = true := by
  decide +kernel

/-- Bytes placed at the start of core 0's scratchpad. -/
def withSram (s : State) (off : Nat) (bs : List Byte) : State := { s with mem := { s.mem with sram := Mem.writeN s.mem.sram off bs } }
/-- An element program of one instruction over one row of two FP32 elements. -/
def elemDesc : List Byte :=
  leBytes 8 (spaceVa 0 0x400) ++ zeros 24 ++ leBytes 8 (spaceVa 0 0x800) ++ zeros 8 ++ zeros 24 ++ leBytes 4 1 ++ leBytes 4 2 ++ zeros 6 ++ leBytes 1 0 ++
    leBytes 1 1 ++ leBytes 1 0x04 ++ zeros 7 ++ leBytes 8 (spaceVa 0 0x200) ++ leBytes 8 (spaceVa 0 0x300) ++ zeros 16
def elemState : State := withSram (onCore {}) 0 elemDesc
theorem test_eprun : issues elemState 0x31 [] = true ∧ ((elemState.atVector 0 0).descOf kern 0 (word 0x31 []).toNat 128 |>.toOption) = some elemDesc ∧
    (parseElem elemDesc).bad = none ∧ (elemState.atVector 0 0).selfBads kern 0 [(spaceVa 0 0x200, 4), (spaceVa 0 0x300, 64)] = none ∧
    (parseElem elemDesc).prog = spaceVa 0 0x200 ∧ (parseElem elemDesc).plen = 1 ∧ (parseElem elemDesc).consts = spaceVa 0 0x300 ∧
    (tabulate 1 (fun i => recField ((elemState.atVector 0 0).selfRead kern 0 (spaceVa 0 0x200) 4) (4 * i) 4)).any elemBad = false ∧
    (elemState.atVector 0 0).elemReach kern 0 (parseElem elemDesc) = none := by decide +kernel

/-! ### The array, counters, queues -/

/-- An array instruction in a core's queue, started or waiting. -/
def queued (op : Nat) (desc : List Byte) (started : Bool) : ArrayRun := { op := op, desc := desc, started := started }
def mm (started : Bool) : ArrayRun := queued 0x40 (zeros 128) started
theorem test_array_order : issues (onCore {}) 0x4F [] = true ∧ ((onCore { ramp := 1 }).core 0).ramp = 1 ∧
    ((onCore { queue := [mm true], ramp := 2 }).core 0).queue = mm true :: [] ∧ (mm true).started = true ∧ (mm true).onArray = true ∧
    (onCore { queue := [mm true], ramp := 2 }).kernOn 0 = some kern ∧ (onCore {}).runHeld kern (mm true) = false ∧
    ((((onCore { queue := [mm true], ramp := 2 }).runOut kern 0 (mm true)).1.core 0).owner.isSome = true) ∧
    (nextOf (exec (.await 0 (word 0x4F [])) (onCore { queue := [mm true] }))).map (fun t => (t.core 0).hold) = some .array ∧
    (nextOf (exec (.arrayLastOutput 0) (onCore { queue := [mm true, mm false], ramp := 2 }))).map
      (fun t => ((t.core 0).queue.map ArrayRun.started, (t.core 0).ramp, (t.core 0).rowUs)) = some ([true], 0, some 0) := by decide +kernel
/-- The descriptor of an EDGE convolution, all zero but its MODE. -/
def edgeMode (m : Nat) : List Byte := zeros 63 ++ [BitVec.ofNat 8 m]
theorem test_edge_runs : (({ on with dma := { edges := [(31, { running := some (.core 543 1 none (zeros 64)) })] } } : State).edge 31).running =
    some (.core 543 1 none (zeros 64)) := by decide +kernel
theorem test_descriptors : (((onCore {}).atIssue 0).descOf kern 0 (word 0x40 []).toNat 128 |>.toOption) = some (zeros 128) ∧
    (((onCore {}).atIssue 0).descOf kern 0 (word 0x41 []).toNat 64 |>.toOption) = some (zeros 64) ∧ issues (onCore {}) 0x40 [] = true ∧
    (List.replicate 4 (mm true)).any (fun r => r.op == 0x4B) = false ∧ 4 ≤ ((onCore { queue := List.replicate 4 (mm true) }).core 0).queue.length ∧
    (onCore {}).edgeIdle 0 1 = true ∧ ((onCore {}).matmulCheck kern 0 (zeros 128) none).toOption = none ∧
    ((onCore {}).attCheck kern 0 (zeros 64)).toOption = none := by decide +kernel
/-- The least MATMUL, CONV and POOL, and a HALO of one row to the core's own rank 0. -/
def halo0 : List Byte :=
  leBytes 8 (spaceVa 0 0x1000) ++ leBytes 4 0x2000 ++ leBytes 4 1 ++ leBytes 4 16 ++ leBytes 4 16 ++ leBytes 4 16 ++ leBytes 2 0 ++ leBytes 2 0 ++
    leBytes 2 64 ++ [1, 0] ++ leBytes 4 5 ++ leBytes 4 1 ++ zeros 20
theorem test_halo : ((onCore {}).haloCheck kern 0 halo0).toOption = some () ∧ ((onCore {}).haloCheck kern 0 (zeros 64)).toOption = none ∧
    kern.haloCore halo0 = some 0 ∧ recField halo0 12 4 = 1 ∧ (onCore {}).progSlate kern.seq (recField halo0 36 4 % 131072) = some 5 ∧
    (nextOf (exec (.halo 0 (word 0x4A [])) (withSram (withSram (onCore {}) 0 halo0) 0x1000 [7]))).map
      (fun t => ((t.core 0).queue.map ArrayRun.started, t.mem.sram.read 0x2000)) = some ([true], 7) ∧
    (nextOf (exec (.haloDone 0) (onCore { queue := [queued 0x4A halo0 true] }))).map (fun t => (t.slate 5, (t.core 0).queue)) = some (1, []) := by
  decide +kernel
theorem test_perfrd : (onCore {}).userCounters = true ∧
    ({ onCore {} with boot := { on.boot with fuses := { dbgFuse := 1 } } } : State).userCounters = false ∧
    eventFits (cntCore 0 + 11) ((onCore {}).perf.event (cntCore 0 + 11)) = true ∧ eventTimed ((onCore {}).perf.event (cntCore 0 + 11)) = false ∧
    issues { onCore {} with boot := { on.boot with fuses := { dbgFuse := 1 } } } 0x3A [(8, 31), (14, 7)] = true := by decide +kernel
theorem test_dmaq : (((kern.chans.find? (fun p => p.1 == clusterOf 0)).map Prod.snd).getD [])[fld (word 0x39 []).toNat 10 4]? = some 3 ∧
    (Tab.at ((onCore {}).eng 0).chans 3 {}).queue.length < 4 ∧ (((onCore {}).atIssue 0).descOf kern 0 (word 0x39 []).toNat 128 |>.toOption) = some (zeros 128) ∧
    4 ≤ (List.replicate 4 (parseDesc 1 (zeros 128))).length := by decide +kernel
/-- The least EDGE preparation: a 16 by 16 luma crop to 16 by 16 BF16. -/
def edgePrep0 : List Byte :=
  leBytes 8 (spaceVa 0 0x1000) ++ leBytes 8 (spaceVa 0 0x1100) ++ leBytes 8 (spaceVa 0 0x1200) ++ leBytes 2 16 ++ leBytes 2 16 ++ zeros 4 ++ leBytes 2 16 ++
    leBytes 2 16 ++ leBytes 2 16 ++ leBytes 2 16 ++ zeros 22 ++ [1, 0]
/-- The least EDGE convolution: one element, one channel, a 1 by 1 filter, all BF16. -/
def edgeConv0 : List Byte :=
  zeros 32 ++ leBytes 2 1 ++ leBytes 2 1 ++ leBytes 2 1 ++ leBytes 2 1 ++ leBytes 2 1 ++ [1, 1, 1, 1, 1, 1] ++ zeros 4 ++ [1, 1, 1] ++ zeros 8 ++ [1]
theorem test_edge_issues : edgeBad edgePrep0 = none ∧ edgeBad edgeConv0 = none ∧ edgePrep0.length = 64 ∧ edgeConv0.length = 64 ∧
    recField edgePrep0 63 1 % 4 = 0 ∧ recField edgeConv0 63 1 % 4 = 1 ∧
    (((withSram (onCore {}) 0 edgeConv0).atIssue 0).descOf kern 0 (word 0x4B []).toNat 64 |>.toOption) = some edgeConv0 ∧
    (((withSram (onCore {}) 0 edgeConv0).atIssue 0).edge 0).coreQ.length < 8 := by decide +kernel

/-- The least MATMUL: one problem of one element, BF16 by BF16 to FP32. -/
def matmul0 : List Byte :=
  leBytes 8 (spaceVa 0 0x400) ++ leBytes 8 (spaceVa 0 0x800) ++ leBytes 8 (spaceVa 0 0xC00) ++ zeros 24 ++ leBytes 4 1 ++ leBytes 2 1 ++ leBytes 2 1 ++
    leBytes 2 1 ++ leBytes 2 1 ++ [1, 1, 0, 0] ++ leBytes 4 64 ++ leBytes 4 64 ++ leBytes 4 64 ++ zeros 52
/-- The least CONV: one pixel, one channel, one tap. -/
def conv0 : List Byte :=
  leBytes 8 (spaceVa 0 0x400) ++ leBytes 8 (spaceVa 0 0x800) ++ leBytes 8 (spaceVa 0 0xC00) ++ zeros 16 ++ leBytes 4 64 ++ leBytes 4 64 ++ zeros 8 ++
    leBytes 4 64 ++ leBytes 4 64 ++ zeros 8 ++ leBytes 4 64 ++ leBytes 4 64 ++ zeros 8 ++ leBytes 2 1 ++ leBytes 2 1 ++ leBytes 2 1 ++ leBytes 2 1 ++
    leBytes 2 1 ++ leBytes 2 1 ++ [1, 1, 1, 1, 1, 1, 0, 0, 0, 0, 1, 1, 0, 0] ++ zeros 14
/-- The least POOL: the maximum of a one-element window. -/
def pool0 : List Byte :=
  leBytes 8 (spaceVa 0 0x400) ++ leBytes 8 (spaceVa 0 0xC00) ++ leBytes 4 64 ++ leBytes 4 64 ++ leBytes 4 64 ++ leBytes 4 64 ++ leBytes 2 1 ++ leBytes 2 1 ++
    leBytes 2 1 ++ leBytes 2 1 ++ [1, 1, 1, 1, 0, 0, 0, 0, 0, 0, 0, 0] ++ zeros 12
/-- The least ATTEND: one sequence, one query row, one head. -/
def attend0 : List Byte :=
  leBytes 8 (spaceVa 0 0x400) ++ leBytes 8 (spaceVa 0 0xC00) ++ zeros 8 ++ leBytes 8 (spaceVa 0 0x2000) ++ zeros 8 ++ leBytes 2 1 ++ leBytes 2 1 ++
    [1, 1, 0, 0, 1, 1, 0, 0] ++ zeros 12
/-- The kernel on core 0, a descriptor at the start of its scratchpad. -/
def reading (b : List Byte) : State :=
  { withSram (onCore {}) 0 b with progs := [(0, { prog := some { prog1 with token := 256 } })] }
theorem test_array_checks : ((reading matmul0).matmulCheck kern 0 matmul0 ((reading matmul0).substAt kern 0 (parseGemm matmul0).b)).toOption = some () ∧
    ((reading conv0).convCheck kern 0 conv0).toOption = some () ∧ ((reading pool0).poolCheck kern 0 pool0).toOption = some () ∧
    ((reading attend0).attCheck kern 0 attend0).toOption = some () ∧ (matmul0.length, conv0.length, pool0.length, attend0.length) = (128, 128, 64, 64) ∧
    (((reading matmul0).atIssue 0).descOf kern 0 (word 0x40 []).toNat 128 |>.toOption) = some matmul0 := by decide +kernel
theorem test_array_starts : [(matmul0, Instr.matmul 0 (word 0x40 [])), (attend0, .attend 0 (word 0x41 [])), (conv0, .conv 0 (word 0x48 [])),
    (pool0, .pool 0 (word 0x49 []))].all (fun p => (nextOf (exec p.2 (reading p.1))).map (fun t => (t.core 0).queue.map (fun r => (r.desc, r.started))) ==
      some [(p.1, true)]) = true := by decide +kernel
def oneF (b : List Byte) : State := withSram (withSram (reading b) 0x400 [0x00, 0x40]) 0x800 [0x40, 0x40]
theorem test_matmul_sums : (nextOf (exec (.arrayLastOutput 0) { oneF matmul0 with cores := [(0, { owner := some (1, 0), queue := [queued 0x40 matmul0 true], ramp := 2 })] })).map
    (fun t => (t.mem.sram.readN 0xC00 4, (t.core 0).queue)) = some ([0, 0, 0xC0, 0x40], []) := by decide +kernel
theorem test_edge_queue : (onCore {}).edgeIdle 0 1 = true ∧ (((onCore {}).atIssue 0).edge 0).coreQ = [] ∧
    8 ≤ ({ coreQ := List.replicate 8 (EdgeJob.core 0 1 none []) } : Edge).coreQ.length := by decide +kernel

/-! ### Slates -/

def slateCmd (op x v cmp : Nat) : Cmd := cmd 0x41 [(24, 4, x), (28, 1, op), (32, 4, v), (36, 4, cmp)]
theorem test_slate_op : ([2, 3, 4, 5, 6, 7].all fun op => (withCmd on (slateCmd op 131071 5 0)).turnOf 1 0x41 == some (slateCmd op 131071 5 0) &&
    !bitOf ((slateCmd op 131071 5 0).fieldN 28 1) 4 && (slateCmd op 131071 5 0).fieldN 28 1 % 16 == op) = true := by decide +kernel
theorem test_slate_op_named : bitOf ((slateCmd 0x12 0 5 0).fieldN 28 1) 4 = true ∧ (slateCmd 0x12 0 5 0).fieldN 30 2 % 4096 = on.fab.id.toNat := by
  decide +kernel
theorem test_slate_op_adds : (nextOf (exec (.slateOpAdd 1) (withCmd { on with sched := { slates := [(131071, 0xFFFFFFFF)] } } (slateCmd 3 131071 5 0)))).map
    (fun t => (t.slate 131071, t.slate 0)) = some (4, 0) := by decide +kernel
def holding (op : Nat) (wake : Option Word) : State :=
  { withCmd on { slateCmd op 7 5 0 with phase := .running, started := some 0 } with
    sched := { waits := [{ slate := 7, who := .cmd 1, eq := op == 1, value := 5, wake := wake }], regs := { waitLimit := 100 } }, nowUs := 100 }
theorem test_slate_op_waits : ({ slate := 7, who := .cmd 1, eq := false, value := 5 } : SlateWait).met 5 = true ∧
    ({ slate := 7, who := .cmd 1, eq := false, value := 5 } : SlateWait).met 4 = false ∧
    ({ slate := 7, who := .cmd 1, eq := true, value := 5 } : SlateWait).met 6 = false ∧
    (withCmd on (slateCmd 1 7 5 0)).turnOf 1 0x41 = some (slateCmd 1 7 5 0) := by decide +kernel
theorem test_slate_op_wakes : (holding 0 (some 6)).turnOf 1 0x41 = none ∧ (holding 0 (some 6)).cmdWake 1 = some 6 ∧
    ((holding 1 (some 5)).cmd? 1).map Cmd.phase = some .running ∧ ((holding 1 (some 5)).cmd? 1).map Cmd.opcode = some 0x41 := by decide +kernel
theorem test_slate_op_limit : (holding 0 none).opLimit (slateCmd 0 7 5 0) = 100 ∧ 0 + 100 ≤ (holding 0 none).nowUs ∧
    (holding 0 none).sched.waits.any (fun q => q.who == Waiter.cmd 1) = true ∧
    (nextOf (exec (.slateOpLimit 1) (holding 0 none))).map (fun t => t.host.cpls.map CplRec.status) = some [.deadlineMiss] := by decide +kernel

theorem test_core_slates : ([2, 3, 4, 5, 6, 7].all fun op => issues (onCore {}) 0x38 [(8, op), (13, 1), (14, 7), (20, 3), (23, 15), (48, 0x8000)]) = true ∧
    ((onCore {}).atIssue 0).slateAt kern 0 (word 0x38 [(8, 2), (23, 15)]).toNat = .own 15 ∧ Tab.find (onCore {}).sched.tiles 15 = none ∧
    (nextOf (exec (.slateCas 0 (word 0x38 [(8, 5), (13, 1), (14, 7), (20, 3), (48, 0x8000)])) (onCore { xs := [(3, 0)] }))).map
      (fun t => (t.slate 0, (t.core 0).x 7)) = some (0xFFFF8000, 0) := by decide +kernel
def counting (retake : List Nat) : State :=
  { onCore {} with sched := { kerns := [kern], tiles := [(2, { seq := 1, total := 1, bufs := 1, accum := false, retake := retake })] } }
theorem test_tile_counter : Tab.find (counting [3]).sched.tiles 2 = some { seq := 1, total := 1, bufs := 1, accum := false, retake := [3] } ∧
    ((counting []).atIssue 0).slateAt kern 0 (word 0x38 [(8, 4), (13, 1), (14, 7), (23, 2), (48, 1)]).toNat = .own 2 ∧
    ((counting []).core 0).slateV (word 0x38 [(8, 4), (13, 1), (14, 7), (23, 2), (48, 1)]).toNat = 1 ∧
    (nextOf (exec (.slateFadd 0 (word 0x38 [(8, 4), (13, 1), (14, 7), (23, 2), (48, 1)])) (counting [3]))).map
      (fun t => ((t.core 0).x 7, t.slate 2)) = some (3, 0) ∧ ((counting []).slate 2).toNat < 1 := by decide +kernel
theorem test_core_waits : ([0, 1].all fun op => issues (onCore {}) 0x38 [(8, op), (13, 1), (14, 7), (48, 1)]) = true ∧
    ({ slate := 0, who := .core 0 7, eq := false, value := 1 } : SlateWait).met 1 = true ∧
    ({ slate := 0, who := .core 0 7, eq := false, value := 1 } : SlateWait).met 0xFFFFFFFF = false ∧
    ({ onCore {} with sched := { waits := [{ slate := 0, who := .core 0 7, eq := true, value := 1, wake := some 1 }] } } : State).coreWake 0 =
      some ({ slate := 0, who := .core 0 7, eq := true, value := 1, wake := some 1 }, 7, 1) := by decide +kernel
theorem test_core_wait_limit : ((onCore { hold := .slate 0 false 1 7 0 }).core 0).hold = .slate 0 false 1 7 0 ∧
    ((onCore { hold := .slate 0 false 1 7 0 }).core 0).owner = some (1, 0) ∧ (onCore {}).sched.regs.waitLimit = 0x0186A0 ∧
    (nextOf (exec (.slateWaitLimit 0) { onCore { hold := .slate 0 false 1 7 0 } with nowUs := 0x0186A0 })).map
      (fun t => t.host.cpls.map CplRec.status) = some [.deadlineMiss] := by decide +kernel

/-! ### Commands that run kernels, and their events -/

/-- A device with the program loaded and takes 0 and 1 of set 5. -/
def loaded : State :=
  { on with progs := [(0, { prog := some { prog1 with graphs := [⟨[(0, 0)], [0], noOff, noOff, 0⟩] } })]
            takes := { takes := [(0, { state := .idle, set := 5 }), (1, { state := .idle, set := 5 })] } }
def runCmd (op : Nat) : Cmd := cmd op [(1, 1, 1), (24, 2, 5), (26, 2, 3)]
def runK : Cmd := cmd 0x02 [(1, 1, 1)]
def runG : Cmd := cmd 0x03 [(1, 1, 1)]
def advance : Cmd := cmd 0x11 [(1, 1, 1), (24, 2, 5), (26, 2, 3)]
theorem test_runs : (withCmd loaded runK).turnOf 1 0x02 = some runK ∧ (withCmd loaded runK).heldBack 1 runK = false ∧
    ((withCmd loaded runK).runCheck 1 runK).toOption = some [⟨[], [], 0xFF⟩] ∧ ((withCmd loaded runG).runCheck 1 runG).toOption = some [⟨[], [], 0xFF⟩] ∧
    (withCmd loaded runK).counterRoom 1 ((withCmd loaded runK).pieceCounters 1 runK ⟨[], [], 0xFF⟩) = true ∧
    (withCmd loaded runG).turnOf 1 0x03 = some runG ∧ ((withCmd on runK).runCheck 1 runK).toOption = none := by decide +kernel
theorem test_run_placed : ((withCmd loaded runK).placeLayer 1 runK 0).2 = true ∧ ((withCmd loaded runG).placeLayer 1 runG 0).2 = true ∧
    ((withCmd loaded advance).placeLayer 1 advance 0).2 = true := by decide +kernel
theorem test_advances : (withCmd loaded advance).turnOf 1 0x11 = some advance ∧ ((withCmd loaded advance).advanceCheck 1 advance).toOption = some [0, 1] ∧
    ((withCmd on advance).advanceCheck 1 advance).toOption = none := by decide +kernel

/-- A command with its kernel in a phase. -/
def phased (k : Kern) (c : Cmd) : State := { withCmd loaded c with sched := { kerns := [k] }, cores := [(0, { owner := some (1, 0) })] }
def inRun (op : Nat) : Cmd := { cmd op [(1, 1, 1)] with phase := .running, pieces := [⟨[], [], 0xFF⟩] }
theorem test_hold_limit : ((withCmd { loaded with nowUs := 200 } runK).cmd? 1).map Cmd.readyAt = some (some 0) ∧
    0 + loaded.sched.regs.holdLimit.toNat ≤ 200 := by decide +kernel
theorem test_save : (phased { kern with phase := .saving } (inRun 0x02)).kern? 1 0 = some { kern with phase := .saving } ∧ PreCause.latency ≠ .victim ∧
    kern.cores.any (fun w => !((phased { kern with phase := .saving } (inRun 0x02)).core w).await.isEmpty) = false ∧
    Tab.find (phased kern (inRun 0x02)).cores 0 ≠ none := by decide +kernel
theorem test_restore : (phased { kern with phase := .restoring } (inRun 0x02)).asleep kern = false ∧
    (phased { kern with phase := .restoring } (inRun 0x02)).rowsFree kern = true ∧
    ((((phased { kern with phase := .restoring } (inRun 0x02)).restoreKernel { kern with phase := .restoring }).restoreReels kern).kern? 1 0).isSome = true := by
  decide +kernel
theorem test_stage : (phased { kern with phase := .staging } (inRun 0x02)).kern? 1 0 = some { kern with phase := .staging } ∧
    (inRun 0x02).prefs.any (fun r => r.need == 0 && !r.settled) = false ∧
    (phased { kern with phase := .staging } (inRun 0x02)).atBoundary 1 = false := by decide +kernel
theorem test_kernel_over : (phased kern (inRun 0x02)).kernelOver kern = true ∧ (inRun 0x02).sealed = false ∧
    (phased kern (inRun 0x02)).atBoundary 1 = false := by decide +kernel
def twoPieces : Cmd := { inRun 0x02 with pieces := [⟨[], [], 0xFF⟩, ⟨[], [], 0xFF⟩], sealed := true }
theorem test_next_piece : twoPieces.piece + 1 < twoPieces.pieces.length ∧ (withCmd loaded twoPieces).writesOut 1 = false ∧ (withCmd loaded twoPieces).restsPlaced 1 = true ∧
    (withCmd loaded twoPieces).counterRoom 1 ((withCmd loaded twoPieces).pieceCounters 1 twoPieces ⟨[], [], 0xFF⟩) = true := by decide +kernel
def twoSlices : State :=
  withCmd { on with progs := [(0, { prog := some { prog1 with graphs := [⟨[(0, 0), (0, 1)], [0, 1], noOff, noOff, 0⟩] } })] }
    { inRun 0x03 with sealed := true }
theorem test_next_slice : twoSlices.sliceCount { inRun 0x03 with sealed := true } = 2 ∧ (inRun 0x03).pieces.length ≤ (inRun 0x03).piece + 1 ∧
    twoSlices.sliceLayers { inRun 0x03 with curSlice := 1 } = [1] ∧ twoSlices.writesOut 1 = false ∧ twoSlices.restsPlaced 1 = true := by decide +kernel

/-- A one-core kernel holds core 0 while a kernel of every core of the device waits. -/
def crowded : State :=
  { on with
    progs := [(0, { prog := some { prog1 with kernels := [kent, { kent with size := 9 }] } })]
    cmds := [(1, inRun 0x02), (2, cmd 0x02 [(1, 1, 1), (28, 2, 1)])]
    sched := { kerns := [kern] }
    cores := [(0, { owner := some (1, 0) })]
    nowUs := 10000 }
theorem test_quantum : crowded.turn 2 = some (cmd 0x02 [(1, 1, 1), (28, 2, 1)]) ∧
    crowded.layerKernel (cmd 0x02 [(1, 1, 1), (28, 2, 1)]) 0 = some (1, { kent with size := 9 }) ∧
    crowded.freeSpot { kent with size := 9 } 1 = none ∧ crowded.wouldFree { kent with size := 9 } 1 kern = true ∧
    0 + crowded.sched.regs.quantum.toNat ≤ crowded.nowUs ∧
    firstBy (fun (a b : Kern) => decide (a.placedUs ≤ b.placedUs)) [kern] = some kern := by decide +kernel

theorem no_record (s : State) (c : Cmd) (i : Nat) (h : s.shapeOf c = none) : s.recordHost c i := by
  intro tb ht; rw [h] at ht; cases ht
theorem test_plain_calls : (withCmd loaded runK).plainCall 1 runK ∧ (withCmd loaded runG).plainCall 1 runG ∧ (withCmd loaded advance).plainCall 1 advance :=
  ⟨⟨⟨by decide +kernel, rfl, rfl, by decide +kernel, rfl⟩, no_record _ _ _ (by decide +kernel), by decide +kernel, rfl, rfl, by decide +kernel, by decide +kernel⟩,
   ⟨⟨by decide +kernel, rfl, rfl, by decide +kernel, rfl⟩, no_record _ _ _ (by decide +kernel), by decide +kernel, rfl, rfl, by decide +kernel, by decide +kernel⟩,
   ⟨⟨by decide +kernel, rfl, rfl, by decide +kernel, rfl⟩, no_record _ _ _ (by decide +kernel), by decide +kernel, rfl, rfl, by decide +kernel, by decide +kernel⟩⟩
theorem test_spots : (withCmd loaded runK).layerKernel runK 0 = some (0, kent) ∧ ((withCmd loaded runK).freeSpot kent runK.cls).isSome = true ∧
    (withCmd loaded runG).layerKernel runG 0 = some (0, kent) ∧ (withCmd loaded advance).layerKernel advance 0 = some (0, kent) ∧
    (withCmd loaded runK).reels.wanted = [] ∧ (withCmd loaded runK).passItems.map (fun x => (x.seq, x.kern)) = [(1, none)] ∧
    (withCmd loaded advance).growOf advance = 0 ∧ (withCmd loaded advance).mem.migs = [] ∧
    ([0, 1].all fun n => ((withCmd loaded advance).take n).state == .idle) = true ∧
    (withCmd loaded advance).counterRoom 1 ((withCmd loaded advance).pieceCounters 1 advance ⟨[], [], 0xFF⟩) = true := by decide +kernel
/-- What a check answers: the status or the address of its refusal. -/
def refusalOf {α : Type} : Except Refused α → Option (Status ⊕ Nat)
  | .error (.status st) => some (.inl st)
  | .error (.own va) => some (.inr va)
  | .ok _ => none
def badParams : Cmd := cmd 0x02 [(1, 1, 1), (32, 8, 5)]
theorem test_run_refused : refusalOf ((withCmd on runK).runCheck 1 runK) = some (.inl .zeroExtent) ∧
    refusalOf ((withCmd on advance).advanceCheck 1 advance) = some (.inl .zeroExtent) ∧
    refusalOf ((withCmd loaded badParams).runCheck 1 badParams) = some (.inr 5) ∧ (withCmd loaded badParams).turnOf 1 0x02 = some badParams ∧
    (withCmd loaded badParams).heldBack 1 badParams = false := by decide +kernel
theorem test_quantum_run : firstBy (fun (a b : Kern) => decide (a.placedUs ≤ b.placedUs))
      (crowded.sched.kerns.filter (fun (h : Kern) => h.cls == 1 && (h.phase == KernPhase.running || h.phase == KernPhase.staging) &&
        crowded.wouldFree { kent with size := 9 } 1 h)) = some kern ∧ crowded.chunkAt kern = none ∧ (cmd 0x02 [(1, 1, 1), (28, 2, 1)]).cls = 1 := by decide +kernel
def savedKern : Kern := { kern with phase := .saved, cores := [] }
def resuming : State := { withCmd loaded (inRun 0x02) with sched := { kerns := [savedKern] } }
theorem test_resume : resuming.passItems.map (fun x => (x.seq, x.kern)) = [(1, none)] ++ [(1, some 0)] ∧ resuming.tryCommand 1 = resuming ∧ resuming.kern? 1 0 = some savedKern ∧ resuming.stopped = false ∧
    ((spotsOf savedKern.size).find? (fun p => resuming.spotResumes savedKern p)).isSome = true ∧ resuming.reels.wanted = [] := by decide +kernel
def saving (cause : PreCause) : State := phased { kern with phase := .saving, cause := cause } (inRun 0x02)
theorem test_save_ends : (kern.cores.all fun w => ((saving .latency).core w).queue.isEmpty && ((saving .latency).core w).elem.isNone) = true ∧
    (saving .latency).chunkAt kern = none ∧ (saving .victim).kern? 1 0 = some { kern with phase := .saving, cause := .victim } := by decide +kernel
def restoring : State := phased { kern with phase := .restoring, saved := [({ xs := [(1, 5)] }, [])] } (inRun 0x02)
theorem test_restore_ends : (restoring.kern? 1 0).map (fun k => (k.cores, k.ranks, k.saved.length)) = some ([0], [0], 1) ∧
    (nextOf (exec (.restoreComplete 1 0) restoring)).map (fun t => (t.core 0).x 1) = some 5 ∧ (inRun 0x02).sealed = false ∧
    restoring.chunkAt kern = none := by decide +kernel
theorem test_stage_free : restoring.stageFree 1 (inRun 0x02) ∧ (phased { kern with phase := .staging } twoPieces).stageFree 1 twoPieces ∧
    (phased { kern with phase := .staging } twoPieces).recordHost twoPieces 1 :=
  ⟨⟨by decide +kernel, rfl, rfl, by decide +kernel, rfl⟩, ⟨by decide +kernel, rfl, rfl, by decide +kernel, rfl⟩, no_record _ _ _ (by decide +kernel)⟩
theorem test_stage_runs : ({ kern with phase := .staging } : Kern).stage = 0 ∧ (phased { kern with phase := .staging } (inRun 0x02)).asleep kern = false ∧
    (inRun 0x02).gated = [] ∧ (inRun 0x02).opcode = 0x02 := by decide +kernel
theorem test_kernel_ends : (inRun 0x02).isRun = true ∧ (inRun 0x02).pieces.length ≤ (inRun 0x02).piece + 1 ∧
    (phased kern (inRun 0x02)).sliceCount (inRun 0x02) ≤ (inRun 0x02).curSlice + 1 ∧ ((phased kern (inRun 0x02)).core 0).elem = none ∧
    (inRun 0x03).opcode = 0x03 ∧ ({ withCmd on (inRun 0x03) with progs := [(0, { prog := some { prog1 with graphs := [⟨[(0, 0), (0, 1)], [0], noOff, noOff, 0⟩] } })] } : State).sliceLayers (inRun 0x03) = [0, 1] := by decide +kernel
theorem test_piece_begins : (phased { kern with phase := .staging } twoPieces).kern? 1 0 = some { kern with phase := .staging } ∧
    (phased { kern with phase := .staging } twoPieces).restsPlaced 1 = true ∧ (phased { kern with phase := .staging } twoPieces).writesOut 1 = false ∧
    (phased { kern with phase := .staging } twoPieces).counterRoom 1 ((phased { kern with phase := .staging } twoPieces).pieceCounters 1 twoPieces ⟨[], [], 0xFF⟩) = true := by decide +kernel
def sliceCmd : Cmd := { inRun 0x03 with sealed := true }
theorem test_slice_begins : twoSlices.layerKernel { sliceCmd with curSlice := 1 } 1 = some (0, kent) ∧ (twoSlices.freeSpot kent sliceCmd.cls).isSome = true ∧
    twoSlices.sched.kerns = [] ∧ sliceCmd.prefs.all (fun r => r.need != 1 || r.settled) = true := by decide +kernel
theorem test_slice_free : twoSlices.stageFree 1 sliceCmd ∧ twoSlices.recordHost sliceCmd 0 :=
  ⟨⟨by decide +kernel, rfl, rfl, by decide +kernel, rfl⟩, no_record _ _ _ (by decide +kernel)⟩

/-! ### Takes, reels -/

def fork (t n : Nat) : Cmd := cmd 0x10 [(24, 4, t), (28, 2, n)]
theorem test_fork : (withCmd loaded (fork 1 3)).turnOf 1 0x10 = some (fork 1 3) ∧ (withCmd loaded (fork 1 3)).takeOf 1 = some 1 ∧ (fork 1 3).fieldN 28 2 ≠ 0 ∧
    (withCmd loaded (fork 1 3)).firstOwnBad 1 [] = none ∧ (fork 1 3).fieldN 44 8 = 0 ∧ (withCmd loaded (fork 2 3)).takeOf 2 = none ∧
    (fork 1 0).fieldN 28 2 = 0 := by decide +kernel
theorem test_fork_full (s : State) (h : s.liveTakes = 65534) : 65536 < s.liveTakes + (fork 1 3).fieldN 28 2 := by
  rw [h]; decide +kernel
def cut (set : Nat) : Cmd := cmd 0x12 [(24, 2, set)]
theorem test_cut : (withCmd loaded (cut 5)).turnOf 1 0x12 = some (cut 5) ∧ (cut 5).phase ≠ .running ∧ (withCmd loaded (cut 5)).setTakes 5 = [0, 1] ∧
    (withCmd loaded (cut 6)).setTakes 6 = [] := by decide +kernel
theorem test_prune : (withCmd loaded (cmd 0x13 [(24, 4, 1)])).mayDispatch (cmd 0x13 [(24, 4, 1)]) = true ∧
    (withCmd loaded (cmd 0x13 [(24, 4, 1)])).pruneBlocked 1 (cmd 0x13 [(24, 4, 1)]) = false ∧ (withCmd loaded (cmd 0x13 [])).takeOf 1 = some 1 ∧
    (withCmd loaded (cmd 0x13 [])).advanceOf 1 = none := by decide +kernel
theorem test_root : (inRun 0x02).isRun = true ∧ (inRun 0x02).phase = .running ∧ (withCmd loaded (inRun 0x02)).freeTake = some 2 ∧
    (withCmd loaded (inRun 0x02)).tokenOf (inRun 0x02) ≤ 2 ^ ((0 : BitVec 5).toNat + 12) := by decide +kernel

/-- A take with one shared page and a store held by a copy-on-write fault. -/
def faulted (count : Nat) : State :=
  { on with takes := { takes := [(0, { state := .advancing, pages := [⟨0, 12, 0x40000000, false, false⟩] })], counts := [(0x40000000, count)]
                       faults := [⟨0, 0x40000000, 12, 8, [1]⟩] } }
theorem test_cow : (faulted 1).takes.faults[0]? = some ⟨0, 0x40000000, 12, 8, [1]⟩ ∧
    ((faulted 1).take 0).pages.find? (fun e => e.key == 0x40000000) = some ⟨0, 12, 0x40000000, false, false⟩ ∧ (faulted 1).pageCount 0x40000000 ≤ 1 ∧
    1 < (faulted 2).pageCount 0x40000000 ∧ ((faulted 2).copyDest ⟨0, 0x40000000, 12, 8, [1]⟩).isSome = true ∧
    (faulted 2).migrating 0x40000000 = false ∧ (faulted 2).takes.locks.contains 0x40000000 = false := by decide +kernel
theorem test_copy_ends : ({ faulted 2 with takes := { (faulted 2).takes with copies := [⟨0, 0x40000000, 12, 0x50000000, []⟩] } } : State).takes.copies[0]? =
    some ⟨0, 0x40000000, 12, 0x50000000, []⟩ := by decide +kernel

def stepping (n : Nat) : State :=
  { phased kern { inRun 0x11 with takes := [0] } with reels := { chunks := [{ seq := 1, steps := 2, format := 0, masked := false, wb := false
                                                                              wlog := 4, reels := [], masks := 0, running := true, step := n }] } }
theorem test_step : (stepping 1).sched.kerns.find? (fun (k : Kern) => k.seq == 1 && (k.phase == KernPhase.running || k.phase == KernPhase.stopping)) = some kern ∧
    (stepping 1).atBoundary 1 = false ∧ (stepping 1).quiet kern = true ∧ ((stepping 1).chunkOf 1).map (fun h => decide (h.steps ≤ h.step)) = some false ∧
    (stepping 1).copying [0] = false ∧ (inRun 0x11).isAdvance = true := by decide +kernel
theorem test_chunk_folds : ((stepping 2).chunkOf 1).map (fun h => decide (h.steps ≤ h.step)) = some true := by decide +kernel
theorem test_chunk_dispatch : (phased kern (inRun 0x02)).sched.kerns.find? (fun k => k.seq == 1 && !k.cores.isEmpty) = some kern ∧
    (({ seq := 1, steps := 2, format := 0, masked := false, wb := false, wlog := 4, reels := [], masks := 0 } : Chunk).running) = false := by decide +kernel
def batchCmd : Cmd := { cmd 0x02 [(1, 1, 1), (32, 8, hostVa 0x2000)] with phase := .running }
def batch : State :=
  { withCmd on batchCmd with
    progs := [(0, { prog := some { prog1 with kernels := [{ kent with pBatch := 0 }] } })]
    mem := { host := Mem.writeN [] 0x2000 (leBytes 8 (hostVa 0x3000)) } }
theorem test_batch : (batch.cmd? 1).map (fun c => batch.batchLists c) = some [hostVa 0x3000] ∧ batch.kv.waits = [] := by decide +kernel

def reelIn (r : Reel) : State := { sheeted with reels := { reels := [(65535, r)], moves := [(65535, ⟨0, 0, true, 0, 0, 4⟩)] } }
theorem test_reels : ((reelIn { state := .swapIn, count := 1 }).reel 65535).state = .swapIn ∧ ((reelIn { state := .swapOut, count := 1 }).reel 65535).count ≠ 0 ∧
    (reelIn {}).reels.moves.find? (fun m => m.1 == 65535) = some (65535, ⟨0, 0, true, 0, 0, 4⟩) := by decide +kernel
theorem test_export : (withCmd (reelIn { state := .lost }) (cmd 0x20 [(24, 4, 65535)])).turnOf 1 0x20 = some (cmd 0x20 [(24, 4, 65535)]) ∧
    (reelIn { state := .lost }).reelOf 65535 = some 65535 ∧ (reelIn { state := .stored }).reelOf 65535 = some 65535 ∧ ReelState.lost ≠ .pinned ∧
    ReelState.lost ≠ .saved := by decide +kernel
def importCmd : Cmd := cmd 0x21 [(24, 4, 0xFFFFFFFF), (32, 8, hostVa 0), (40, 4, 64)]
theorem test_import : (withCmd on importCmd).turnOf 1 0x21 = some importCmd ∧ importCmd.fieldN 24 4 = 0xFFFFFFFF ∧ on.reelOf 0xFFFFFFFF = none ∧
    (withCmd on importCmd).firstOwnBad 1 [⟨hostVa 0, 64, false, 1⟩] = none ∧ (withCmd on importCmd).peerReady (accOf 1) (hostVa 0) 64 = true ∧
    (withCmd on importCmd).readVA (accOf 1) (hostVa 0) 64 = .ok (zeros 64) := by decide +kernel
def resetCmd (flags : Nat) : Cmd := cmd 0x22 [(24, 2, 1), (26, 1, flags), (28, 4, 4), (40, 8, hostVa 0x1000)]
def resets (flags : Nat) : State :=
  withCmd { reelIn { state := .stored, elements := 4 } with mem := { host := Mem.writeN [] 0x1000 (leBytes 4 65535) } } (resetCmd flags)
theorem test_reset_reels : (resets 0).resetTurn 1 false false = some (resetCmd 0) ∧ (resets 0).listedReels [65535] = some [65535] ∧
    (resetCmd 0).fieldN 24 2 = 1 ∧ (resets 0).firstOwnBad 1 [⟨hostVa 0x1000, 4, false, 1⟩] = none ∧ (resetCmd 0).fieldN 48 8 = 0 ∧
    (resets 2).resetTurn 1 false true = some (resetCmd 2) := by decide +kernel
theorem test_create_reels : (resets 1).resetTurn 1 true false = some (resetCmd 1) ∧ bitOf ((resetCmd 1).fieldN 26 1) 1 = false ∧
    reelFormat ((resetCmd 1).fieldN 32 1 % 32) ≠ none ∧ (resets 1).firstOwnBad 1 [⟨hostVa 0x1000, 4, true, 1⟩] = none ∧
    ((resets 1).createReels 1 4 0 0 [0, 0, 0, 0] 1).isSome = true := by decide +kernel

/-- Takes 0 and 1 of set 5 on a sheeted device, take 1 with one page in HBM. -/
def taken : State :=
  { sheeted with
    progs := loaded.progs
    takes := { takes := [(0, { state := .idle, set := 5 }), (1, { state := .idle, set := 5, pages := [⟨0, 12, 0x40000000, false, false⟩] })]
               counts := [(0x40000000, 1)] } }
def forking : State := withCmd taken (fork 1 3)
theorem test_fork_places : forking.liveTakes + 3 ≤ 65536 ∧ (fork 1 3).fieldN 44 8 = 0 ∧ forking.writesOut 1 = false ∧
    forking.listUsed + 3 * (forking.take 1).listBytes ≤ forking.sheet 20 4 * 1048576 ∧
    ((forking.drawPages 12 (forkClass (forking.take 1) (fork 1 3)) 0).map Prod.fst) = some [] ∧
    (nextOf (exec (.forkTake 1) forking)).map (fun t => ((t.take 4).pages, (t.take 4).parent, t.liveTakes)) =
      some ([⟨0, 12, 0x40000000, false, false⟩], 1, 5) := by decide +kernel
def cutKeep (set keep : Nat) : Cmd := cmd 0x12 [(24, 2, set), (26, 2, keep)]
/-- The takes a cut that keeps some releases. -/
def released (s : State) (c : Cmd) (m : List Nat) : List Nat :=
  m.filter (fun t => !((ranking (fun t => (s.take t).score) (bitOf (c.fieldN 28 1) 0) m).take (c.fieldN 26 2)).contains t)
theorem test_cut_keeps : [0, 1].Nodup ∧ (cutKeep 5 1).fieldN 32 8 = 0 ∧ (withCmd taken (cutKeep 5 1)).writesOut 1 = false ∧
    released (withCmd taken (cutKeep 5 1)) (cutKeep 5 1) [0, 1] = [1] ∧ released (withCmd loaded (cutKeep 5 0)) (cutKeep 5 0) [0, 1] = [0, 1] ∧
    (withCmd taken (cutKeep 5 1)).turnOf 1 0x12 = some (cutKeep 5 1) ∧ (withCmd taken (cutKeep 5 1)).setTakes 5 = [0, 1] := by decide +kernel
def pruneCmd (t : Nat) : Cmd := cmd 0x13 [(24, 4, t)]
theorem test_prune_frees : (withCmd taken (pruneCmd 1)).takeOf 1 = some 1 ∧ ((withCmd taken (pruneCmd 1)).take 1).pages ≠ [] ∧
    ((withCmd taken (pruneCmd 0)).take 0).pages = [] ∧ (withCmd taken (pruneCmd 0)).writesOut 1 = false ∧
    (withCmd taken (pruneCmd 1)).takes.prunes = [] ∧ (withCmd taken (pruneCmd 1)).advanceOf 1 = none ∧
    (withCmd taken (pruneCmd 1)).pruneBlocked 1 (pruneCmd 1) = false := by decide +kernel
def updating (owner : Option Word) (u : Nat) : State :=
  { withCmd taken { pruneCmd 1 with phase := .running } with
    takes := { taken.takes with updQ := [⟨0x40000000 + 4096 * u, 12, 0, 1, owner⟩], cuts := [⟨1, 1, 0, zeros 8, 4⟩] } }
theorem test_count_update : ((List.range 8).any fun u => nextUpdate u (updating none 0).takes.updQ == some (⟨0x40000000, 12, 0, 1, none⟩, [])) = true ∧
    (updating (some 1) 0).takes.cuts.find? (fun r => r.seq == 1) = some ⟨1, 1, 0, zeros 8, 4⟩ ∧ (updating (some 1) 0).writesOut 1 = false ∧
    ((updating (some 1) 0).cmd? 1).map Cmd.phase = some .running := by decide +kernel
theorem test_root_pages : [(⟨0, 0, 0x40000000, true⟩ : RootPage)].find? RootPage.kv = some ⟨0, 0, 0x40000000, true⟩ ∧
    (withCmd loaded (inRun 0x02)).freeTake = some 2 ∧ (withCmd loaded (inRun 0x02)).tokenOf (inRun 0x02) ≤ 2 ^ ((0 : BitVec 5).toNat + 12) := by
  decide +kernel

theorem test_cow_waits : ({ faulted 2 with takes := { (faulted 2).takes with copies := [⟨0, 0x40000000, 12, 0x50000000, []⟩] } } : State).takes.copies.any
      (fun c => c.take == 0 && c.src == 0x40000000) = true ∧
    ({ faulted 2 with takes := { (faulted 2).takes with locks := [0x40000000] } } : State).takes.locks.contains 0x40000000 = true ∧
    (faulted 1).takes.copies = [] ∧ (faulted 1).mem.migs = [] ∧ (faulted 1).hbm.chans = [] ∧ (⟨0, 12, 0x40000000, false, false⟩ : PageEnt).swapped = false ∧
    migOf (faulted 1).mem.migs 0 (0x40000000 + 8) = none ∧ 0x40000000 < 2 ^ 60 := by decide +kernel
def copied : State :=
  { faulted 2 with takes := { (faulted 2).takes with faults := [], copies := [⟨0, 0x40000000, 12, 0x50000000, []⟩], locks := [0x40000000] } }
theorem test_copy_done : copied.hbm.bytes.wf = true ∧ copied.takes.copies[0]? = some ⟨0, 0x40000000, 12, 0x50000000, []⟩ ∧ copied.takes.faults = [] ∧
    (copied.take 0).pages.any (fun e => e.key == 0x40000000) = true ∧
    (nextOf (exec (.pageCopyComplete 0) copied)).map (fun t => (t.pageCount 0x50000000, t.pageCount 0x40000000, t.takes.locks)) = some (1, 1, []) := by
  decide +kernel

/-- An advance of take 0 at the end of its one step. -/
def advCmd : Cmd := { cmd 0x11 [(1, 1, 1), (26, 2, 1)] with phase := .running, takes := [0], stepNow := [0] }
def ended_ : State :=
  { phased kern advCmd with takes := { takes := [(0, { state := .advancing, set := 5 })] } }
theorem test_advance_ends : ended_.stepKern 1 = some kern ∧ ended_.atBoundary 1 = false ∧ ended_.quiet kern = true ∧ ended_.chunkAt kern = none ∧
    ended_.copying [0] = false ∧ ended_.morePasses advCmd kern = false ∧ (ended_.core 0).elem = none ∧ advCmd.deadlineAt = none ∧
    advCmd.fieldN 26 2 ≤ advCmd.steps + 1 ∧ (ended_.take 0).state = .advancing ∧ ended_.mem.migs = [] ∧ ended_.kv.waits = [] ∧
    advCmd.isAdvance = true ∧ advCmd.sealed = false := by decide +kernel
def chunk0 (running : Bool) (step : Nat) : Chunk :=
  { seq := 1, steps := 2, format := 1, masked := false, wb := false, wlog := 4, reels := [7], masks := 0, running := running, step := step }
/-- A kernel on core 0 with a chunk of one reel. -/
def chunked (h : Chunk) (r : Reel) : State :=
  { phased kern (inRun 0x02) with reels := { chunks := [h], reels := [(7, r)] } }
def reel16 (st : ReelState) (p : Option ReelPlace) : Reel :=
  { state := st, format := 1, wlog := 4, elements := 16, count := 1, place := p, v := List.replicate 16 0, c := List.replicate 16 0 }
theorem test_chunk_step : (chunked (chunk0 true 0) {}).stepKern 1 = some kern ∧ (chunked (chunk0 true 0) {}).chunkAt kern = some (chunk0 true 0) ∧
    (chunked (chunk0 true 0) {}).quiet kern = true ∧ (inRun 0x02).isAdvance = false ∧ (chunk0 true 0).redo = 0 ∧ ((chunked (chunk0 true 0) {}).core 0).elem = none := by
  decide +kernel
theorem test_chunk_begins : (chunked (chunk0 false 0) {}).chunkTurn 1 (inRun 0x02) = some kern ∧
    (let p := ((chunk0 false 0).rows kern.cores).map Prod.snd
     ((chunk0 false 0).rows kern.cores).all (fun q => (chunked (chunk0 false 0) (reel16 .resident p[0]?)).reelReady false q.1 q.2)) = true ∧
    (chunk0 false 0).copies = [] ∧ (chunk0 false 0).again = false ∧ (chunked (chunk0 false 0) {}).liveReels ≤ 65536 := by decide +kernel
def chunkProg : Program := { prog1 with kernels := [{ kent with pChunk := 0 }] }
def chunkless : State :=
  { withCmd on { inRun 0x02 with record := rec [(0, 1, 2), (1, 1, 1), (32, 8, hostVa 0x2000)] } with
    progs := [(0, { prog := some chunkProg })], sched := { kerns := [kern] }, mem := { host := Mem.writeN [] 0x2000 (leBytes 8 (hostVa 0x3000)) } }
theorem test_chunk_read : (chunkless.cmd? 1).map (fun c => (chunkless.chunkTurn 1 c, chunkless.chunkDesc c kern)) = some (some kern, some (hostVa 0x3000)) ∧
    chunkless.reels.chunks = [] := by decide +kernel
theorem test_chunk_fold : (chunked (chunk0 true 2) (reel16 .pinned none)).reels.chunks.find? (fun h => h.seq == 1 && h.running && decide (h.steps ≤ h.step)) =
      some (chunk0 true 2) ∧ (chunk0 true 2).reels.Nodup ∧ (chunked (chunk0 true 2) (reel16 .pinned none)).reels.owed = [] ∧
    ((chunked (chunk0 true 2) (reel16 .pinned none)).reel 7).count ≠ 0 := by decide +kernel
/-- A batch list of one sequence, held, in host memory. -/
def batchSeq : State :=
  { batch with mem := { host := Mem.writeN batch.mem.host 0x3000 (leBytes 4 0x80000003 ++ zeros 12) }, kv := { seqs := [(3, { state := .active })] } }
theorem test_batch_list : (batchSeq.cmd? 1).map (fun c => (batchSeq.batchLists c, c.gated)) = some ([hostVa 0x3000], []) ∧ inHost (hostVa 0x3000) (16 * 1) ∧
    ((entriesOf (batchSeq.mem.host.readN (hostVa 0x3000 % 2 ^ 52) (16 * 1)) 16 1).map parseBatch).map
      (fun e => (e.action, e.grow, batchSeq.batchSeq 1 e)) = [(0, 0, some 3)] ∧ (batchSeq.seqEnt 3).state = .active ∧ batchSeq.kv.waits = [] ∧
    (batchSeq.kv.seqs.all fun p => p.2.state != .preempted) = true ∧ batchSeq.mem.migs = [] :=
  ⟨by decide +kernel, by unfold inHost; decide +kernel, by decide +kernel, by decide +kernel, rfl, by decide +kernel, rfl⟩
/-- A command alone, with nothing under way. -/
theorem at_rest (s : State) (seq : Word) (c : Cmd) (h : s.reels.chunks = [] ∧ c.takes = [] ∧ s.writesOut seq = false ∧ s.dma.engs = []) :
    s.atRest seq c := by
  obtain ⟨h1, h2, h3, h4⟩ := h
  exact ⟨by simp [h1], h2, h3, by simp [h4]⟩
def exportCmd : Cmd := cmd 0x20 [(24, 4, 65535), (32, 8, hostVa 0x8000), (40, 4, 0x10000)]
def exporting : State := withCmd (reelIn { state := .stored, format := 1, wlog := 4, elements := 2, imgV := [5, 6], imgC := [0, 0], imgOk := true }) exportCmd
theorem test_export_writes : exporting.turnOf 1 0x20 = some exportCmd ∧ (exporting.reel 65535).state = .stored ∧ exportCmd.fieldN 32 8 % 64 = 0 ∧
    ((exporting.reel 65535).record 65535 0 false [5, 6] [0, 0]).length ≤ exportCmd.fieldN 40 4 ∧ bitOf (exportCmd.fieldN 28 1) 1 = false ∧
    migOf exporting.mem.migs 1 (exportCmd.fieldN 32 8 % 2 ^ 52) = none := by decide +kernel
theorem test_export_rest : exporting.atRest 1 exportCmd ∧ inHost (exportCmd.fieldN 32 8) (((exporting.reel 65535).record 65535 0 false [5, 6] [0, 0]).length) :=
  ⟨at_rest _ _ _ (by decide +kernel), by unfold inHost; decide +kernel⟩
/-- The record that export writes, read back by an import. -/
def record2 : List Byte := ({ state := .stored, format := 1, wlog := 4, elements := 2 } : Reel).record 65535 0 false [5, 6] [0, 0]
def importRec : Cmd := cmd 0x21 [(24, 4, 0xFFFFFFFF), (32, 8, hostVa 0), (40, 4, record2.length)]
def importing : State := withCmd { sheeted with mem := { host := Mem.writeN [] 0 record2 } } importRec
theorem test_import_reads : importing.turnOf 1 0x21 = some importRec ∧ importing.firstOwnBad 1 [⟨hostVa 0, record2.length, false, 1⟩] = none ∧
    importing.peerReady (accOf 1) (hostVa 0) record2.length = true ∧ importing.readVA (accOf 1) (hostVa 0) record2.length = .ok record2 ∧
    recordCheck record2 record2.length = none ∧ firstFrom (fun j => (importing.reel j).state == .free) 65536 0 = some 0 ∧
    (importing.imagePlace (6 * recField record2 8 4)).isSome = true ∧ importing.reelOf 0xFFFFFFFF = none := by decide +kernel
theorem test_import_rest : importing.atRest 1 importRec := at_rest _ _ _ (by decide +kernel)
theorem test_import_bad : (recordCheck (zeros 64) 64).isSome = true := by decide +kernel
theorem test_reset_reads : (resets 0).peerReady (accOf 1) (hostVa 0x1000) 4 = true ∧ (resets 0).readVA (accOf 1) (hostVa 0x1000) 4 = .ok (leBytes 4 65535) ∧
    (tabulate 1 (fun i => recField (leBytes 4 65535) (4 * i) 4)) = [65535] ∧ ((resets 0).reel 65535).state = .stored ∧ [65535].Nodup := by decide +kernel
theorem test_reset_rest : (resets 0).atRest 1 (resetCmd 0) ∧ (resets 2).atRest 1 (resetCmd 2) ∧ (resets 1).atRest 1 (resetCmd 1) :=
  ⟨at_rest _ _ _ (by decide +kernel), at_rest _ _ _ (by decide +kernel), at_rest _ _ _ (by decide +kernel)⟩
theorem test_create_writes : (((resets 1).createReels 1 4 ((resetCmd 1).fieldN 32 1 % 32) 0 (List.replicate 4 0) 1).bind
    (fun p => p.2.writeVA (accOf 1) (hostVa 0x1000) (p.1.flatMap (leBytes 4)) false)).map (fun v => v.writesOut 1) = some false ∧
    (resetCmd 1).fieldN 28 4 = 4 ∧ (resetCmd 1).fieldN 36 4 = 0 := by decide +kernel

/-! ### The memory manager and HBM -/

def hint (tier bytes : Nat) : Cmd := cmd 0x42 [(24, 8, 0x10000), (32, 8, bytes), (40, 1, tier)]
/-- A page of the paged region in HBM, drawn for class 0. -/
def leaf0 : Leaf := { va := 0x10000, lg := 12, loc := 0, wr := true, pin := false, addr := 0x40000000, drawn := some 0 }
def swappable : State :=
  { on with mem := { leaves := [leaf0], used := [(0x40000000, 4096)] }, boot := { on.boot with sheet := zeros 32 ++ leBytes 8 0x200000 ++ leBytes 8 0x200000 ++ zeros 464 } }
theorem test_hints : (withCmd swappable (hint 1 0)).turnOf 1 0x42 = some (hint 1 0) ∧ (hint 1 0).fieldN 32 8 = 0 ∧
    (withCmd swappable (hint 1 0x1000)).firstOwnBad 1 [⟨0x10000, 0, false, 4096⟩] = none ∧ swappable.leafMoves leaf0 = true ∧
    ((withCmd swappable (hint 1 0x1000)).hintMoves 1 0 1 false [leaf0]).map (fun u => u.mem.migs.length) = some 1 ∧
    (withCmd swappable (hint 0 0x1000)).mem.migs = [] ∧
    ((withCmd { swappable with hbm := {} } (hint 0 0x1000)).hintMoves 1 0 0 false [{ leaf0 with loc := 1 }]).isNone = true := by decide +kernel
theorem test_marks : on.freeBytes < (0xFFFF : Half).toNat * 67108864 ∧ (0 : Half).toNat * 67108864 ≤ on.freeBytes := by decide +kernel
def moving (c : MigCause) : Migration := { leafVa := none, src := 0x40000000, srcLoc := 0, lg := 12, dst := 0x200000, dstLoc := 1, cause := c }
theorem test_moves : ({ on with mem := { migs := [moving (.swapOut 3), moving .demote] } } : State).mem.migs[0]? = some (moving (.swapOut 3)) ∧
    ({ on with mem := { migs := [moving (.swapOut 3), moving .demote] } } : State).mem.migs[1]? = some (moving .demote) ∧
    (({ on with mem := { migs := [moving .demote] } } : State).migrated (moving .demote)).mem.regs.mapHeld = false := by decide +kernel
/-- A map operation's operands: address, PSIZE 0. -/
def mapping (op count va : Nat) (busy : Bool) (leaves : List Leaf) : State :=
  { on with mem := { regs := { mapOp := BitVec.ofNat 3 op, mapCount := BitVec.ofNat 24 count, mapVa := BitVec.ofNat 64 va, mapEntry := 0x40000001, mapBusy := busy }
                     leaves := leaves } }
theorem test_map_port : on.barTakes .endC = true ∧ (mapping 0 1 0x20000 false []).mapCheck (mapping 0 1 0x20000 false []).mapOp = none ∧
    (mapping 0 1 0x20001 false []).mapCheck (mapping 0 1 0x20001 false []).mapOp = some .align ∧
    (mapping 2 1 0x10000 false [leaf0]).mapCheck (mapping 2 1 0x10000 false [leaf0]).mapOp = none ∧
    (mapping 2 1 0x20000 false [leaf0]).mapCheck (mapping 2 1 0x20000 false [leaf0]).mapOp = some .notMapped ∧
    ((mapping 2 1 0x10000 false [{ leaf0 with mig := true }]).mapMeets (mapping 2 1 0x10000 false []).mapOp).any Leaf.mig = true ∧
    ((mapping 0 1 0x20000 false []).drawPages 12 0 1).isSome = true ∧ (({ mapping 0 1 0 false [] with hbm := {} } : State).drawPages 12 0 1).isNone = true := by
  decide +kernel

theorem test_retention : on.mem.regs.idleUs ≠ 0 ∧ on.mem.regs.forceWake = false ∧ bankExists (2, 31, 63) = true ∧ on.bankHeld (2, 31, 63) = false ∧
    (onCore {}).bankHeld (0, 0, 15) = true ∧ on.mem.retained.contains (2, 31, 63) = false := by decide +kernel
theorem test_march : on.barTakes .endC = true ∧ on.mem.regs.marBusy = false ∧ (onCore {}).marchTarget 1 0 0 0 = none ∧ on.marchTarget 3 0 0 0 = none ∧
    (on.marchTarget 1 3 7 16).map List.length = some 32 ∧ (on.marchTarget 2 3 7 0).map List.length = some 64 ∧ on.nextRegion 0 = some 0 := by decide +kernel
def prefetching (r : PfRun) : State := phased kern { inRun 0x02 with prefs := [r] }
def pf0 : PfRun := { ix := 0, kind := 0, src := hostVa 0, dst := spaceVa 0 0, bytes := 64, need := 0, proxy := 0xFFFF, deadline := 5, layer := 0, core := 0 }
theorem test_prefetch : ((prefetching pf0).cmd? 1).bind (fun c => c.prefs[0]?) = some pf0 ∧ (prefetching pf0).kern? 1 0 = some kern ∧
    (prefetching pf0).peerReady (prefAcc pf0 kern) pf0.src pf0.bytes = true ∧ pf0.deadline ≠ 0 ∧ ((prefetching pf0).perturb 5 0).2 = false ∧
    ({ pf0 with kind := 2, done := true } : PfRun).done = true := by decide +kernel

theorem test_hbm : on.hbm.trained = true ∧ on.hbm.out.contains 255 = false ∧ on.barTakes .endC = true ∧ on.hbm.repBusy = false ∧
    on.hbm.rowValid ⟨255, 1, 24575 * 64 + 2⟩ = true ∧ on.hbm.rowValid ⟨255, 1, 24576 * 64⟩ = false ∧ on.hbm.rowValid ⟨0, 0, 3⟩ = false ∧
    on.hbm.softUsed 255 1 = 0 ∧ on.hbm.scrubHours ≠ 0 := by decide +kernel
theorem test_repairs_full : ({ remaps := List.replicate 32 ⟨0, 0, 0⟩ } : HbmMem).softUsed 0 0 = 32 ∧
    (({ hardReq := List.replicate 32 ⟨7, 0, 0⟩ } : HbmMem).hardReq.filter (fun q => q.chan == 7)).length = 32 ∧
    ({ repTarget := some ⟨0, 0, 0⟩ } : HbmMem).repTarget = some ⟨0, 0, 0⟩ := by decide +kernel
theorem test_scrub : burstDecode [] = .clean ∧ burstDecode [(0, 1)] ≠ .poisoned ∧ on.burstPoisoned 0 = false := by decide +kernel
theorem test_channel : (on.chan 255).failed = false ∧ ({ recent := List.replicate 16 0 } : HbmChan).recent.length = 16 ∧
    0 ≤ ({ recent := List.replicate 16 0 } : HbmChan).recent.getLastD 0 + 1000000 := by decide +kernel

theorem test_hint_none : ([leaf0].filter (fun l => swappable.leafMoves l && l.loc != 0)) = [] ∧
    ((withCmd swappable (hint 1 0x1000)).mem.leaves.filter (fun l => decide (l.va < 0x10000 + 0x1000) && decide (0x10000 < l.va + 2 ^ l.lg))) = [leaf0] := by
  decide +kernel
def swapped (c : MigCause) : State := { on with mem := { migs := [moving c], leaves := [leaf0] } }
theorem test_swap_out : (swapped .demote).mem.regs.mapHeld = false ∧ (moving .demote).srcLoc = 0 ∧ (moving .demote).dstLoc = 1 ∧ (moving .demote).held = [] ∧
    (moving .demote).owed = [] ∧ (swapped .demote).memOk = true ∧ Tab.find (swapped .demote).takes.counts (moving .demote).src ≠ some 0 ∧
    Tab.find (swapped .demote).takes.counts ((moving .demote).dst + 2 ^ 60) = none ∧ (swapped (.swapOut 3)).kv.waits = [] ∧
    (nextOf (exec (.migrationCopyDone 0) (swapped .demote))).map (fun t => t.mem.leaves.map (fun l => (l.va, l.loc, l.addr))) =
      some [(0x10000, 1, 0x200000)] := by decide +kernel
def hinted : State :=
  { withCmd on { hint 1 0x1000 with phase := .running } with mem := { migs := [moving (.hint 1)], leaves := [leaf0], hints := [⟨1, 1, 0, 0⟩] } }
theorem test_hint_ends : hinted.mem.migs[0]? = some (moving (.hint 1)) ∧ hinted.mem.hints.find? (fun h => h.seq == 1) = some ⟨1, 1, 0, 0⟩ ∧
    (hinted.cmd? 1).map Cmd.phase = some .running ∧ hinted.mem.regs.mapHeld = false ∧ hinted.kv.waits = [] := by decide +kernel
def toHost : State := (mapping 1 1 0x20000 false []).mapRegs (fun m => { m with mapEntry := 0x40000081 })
theorem test_map_busy : (mapping 0 1 0x20000 true []).mem.regs.mapBusy = true ∧ (mapping 0 1 0x20000 true []).mem.regs.mapHeld = false ∧
    toHost.mapCheck toHost.mapOp = none ∧
    (mapping 3 1 0x10000 false [leaf0]).mapCheck (mapping 3 1 0x10000 false [leaf0]).mapOp = none ∧
    (mapping 4 1 0x10000 false [leaf0]).mapCheck (mapping 4 1 0x10000 false [leaf0]).mapOp = none ∧
    ((mapping 2 1 0x10000 false [leaf0]).mapMeets (mapping 2 1 0x10000 false [leaf0]).mapOp).any Leaf.mig = false := by decide +kernel

theorem test_bank_wake : (∀ k, k ∈ on.sched.kerns → k.phase ≠ .staging) ∧ on.mem.marBanks.contains (2, 31, 63) = false ∧
    ({ on with mem := { regs := { marBusy := true }, marBanks := [(0, 0, 0)] } } : State).mem.regs.marBusy = true ∧
    ({ on with mem := { regs := { bgEnable := true } } } : State).mem.regs.bgEnable = true ∧ on.mem.bgPos = 0 := by decide +kernel
theorem test_prefetch_lands : inHost pf0.src pf0.bytes ∧ (prefetching pf0).staging 1 0 = [] ∧ kern.stageCores pf0 = [0] ∧
    (prefetching pf0).xlate (kern.accAt 0) pf0.dst true = (.sram 0, 0x150000) ∧ pf0.bytes ≤ 0x150000 ∧ pf0.done = false ∧ pf0.decided = false ∧
    ((prefetching { pf0 with kind := 2 }).cmd? 1).bind (fun c => c.prefs[0]?) = some { pf0 with kind := 2 } :=
  ⟨by unfold inHost; decide +kernel, by decide +kernel, by decide +kernel, by decide +kernel, by decide +kernel, rfl, rfl, by decide +kernel⟩
def proxied : State :=
  { prefetching { pf0 with proxy := 0 } with progs := [(0, { prog := some { prog1 with proxies := [⟨hostVa 0x5000, 0, 64, 0, 0⟩] } })] }
theorem test_proxy : ((proxied.cmdProg 1).bind (fun p => p.proxies[0]?)).isSome = true ∧ ({ pf0 with kind := 1, take := some 4 } : PfRun).take = some 4 := by
  decide +kernel

/-! ### DMA engines, mail slots, video ingest -/

def copyCmd (src dst len flags : Nat) : Cmd := cmd 0x40 [(24, 8, src), (32, 8, dst), (40, 8, len), (48, 1, flags)]
theorem test_copy : (withCmd on (copyCmd (hostVa 0) (hostVa 64) 64 0)).turnOf 1 0x40 = some (copyCmd (hostVa 0) (hostVa 64) 64 0) ∧
    on.idleCopyChan = some 0 ∧ (copyCmd (hostVa 0) (hostVa 64) 64 0).copyDesc = false ∧
    (withCmd on (copyCmd 0 0 1 0)).firstOwnBad 1 [⟨hostVa 0, 64, false, 1⟩, ⟨hostVa 64, 64, true, 1⟩] = none ∧
    on.descBad 32 { seq := 1, src := hostVa 0, dst := hostVa 64, run := 64 } = none ∧
    on.descBad 32 { seq := 1, src := hostVa 0, dst := hostVa 64, run := 64, swap := 5 } = some .shapeOver ∧
    hostVa 0 < hostVa 63 + 64 ∧ hostVa 63 < hostVa 0 + 64 ∧ hostVa 0 + 64 ≤ hostVa 64 := by decide +kernel
def copyDescBytes (m : Nat) : List Byte := leBytes 8 (hostVa 0) ++ leBytes 8 (hostVa 64) ++ leBytes 3 64 ++ zeros 87 ++ leBytes 1 m ++ zeros 21
def descState (m : Nat) : State :=
  withCmd { on with mem := { host := Mem.writeN [] 0x1000 (copyDescBytes m) } } (copyCmd (hostVa 0x1000) 0 0 0x80)
theorem test_copy_desc : (copyCmd (hostVa 0x1000) 0 0 0x80).copyDesc = true ∧ (descState 0).firstOwnBad 1 [⟨hostVa 0x1000, 128, false, 1⟩] = none ∧
    (descState 0).peerReady (accOf 1) (hostVa 0x1000) 128 = true ∧ (descState 0).readVA (accOf 1) (hostVa 0x1000) 128 = .ok (copyDescBytes 0) ∧
    (descState 1).readVA (accOf 1) (hostVa 0x1000) 128 = .ok (copyDescBytes 1) ∧ (parseDesc 1 (copyDescBytes 1)).slotted = true ∧
    (parseDesc 1 (copyDescBytes 0)).slotted = false ∧ (parseDesc 1 (copyDescBytes 0)).run = 64 ∧ (descState 0).descBad 32 (parseDesc 1 (copyDescBytes 0)) = none := by
  decide +kernel
def walk (d : DmaDesc) (passed : Nat) : State :=
  { withCmd on { copyCmd (hostVa 0) (hostVa 64) 64 0 with phase := .running } with
    dma := { engs := [(32, { chans := [(31, { queue := [d], passed := passed })] })] } }
def desc0 : DmaDesc := { seq := 1, src := hostVa 0, dst := hostVa 64, run := 64 }
theorem test_grant : ((walk desc0 0).eng 32).choose ((walk desc0 0).readyChans 32) = some (false, 31, { queue := [desc0] }, 0, desc0) ∧
    (walk desc0 0).descBad 32 desc0 = none ∧ (walk desc0 0).waitsPeer desc0 = false ∧
    (((walk desc0 64).eng 32).choose ((walk desc0 64).readyChans 32)).map Prod.fst = some true ∧
    (on.eng 0).choose (on.readyChans 0) = none ∧ (walk { desc0 with swap := 5 } 0).descBad 32 { desc0 with swap := 5 } = some .shapeOver := by decide +kernel
theorem test_grant_peer : ({ walk desc0 0 with fab := { state := .committed, assigned := true, id := 1, cur := { routes := [(2, { ports := 1, dist := 1, valid := true })] } } } : State).waitsPeer
    { desc0 with src := 0x11 * 2 ^ 52 + 2 * 2 ^ 40 } = true := by decide +kernel
theorem test_lines : on.lineTrue 0 5 = true ∧ on.lineTrue 0 1 = false ∧ on.lineTrue 33 0xA0 = true := by decide +kernel
theorem test_desc_ends : (Tab.at ((walk { desc0 with ovr := true } 0).eng 32).chans 31 {}).queue = [{ desc0 with ovr := true }] ∧
    (walk desc0 0).paused { desc0 with ovr := true } = false ∧ (walk desc0 0).fab.reqs = [] ∧ ((walk desc0 0).cmd? 1).isSome = true ∧
    (onCore {}).progSlate 1 15 = some 15 ∧ on.readVA (accOf 1) (hostVa 64) 4 = .ok (zeros 4) ∧ leNat (zeros 4) ≠ ({ desc0 with crc := 3, acc := 0 } : DmaDesc).crcOut := by
  decide +kernel
theorem test_cq : on.barTakes .fromE = true ∧ (({ prod := 1, cons := 0 } : DmaEng).prod - 1).toNat ≤ 2 ^ ({} : DmaEng).log2.toNat ∧
    2 ^ ({} : DmaEng).log2.toNat < (({ prod := 1, cons := 0 } : DmaEng).prod - 2).toNat := by decide +kernel

def slotted (v : MailSlot) : State := { on with dma := { mail := [(127, v)] } }
def fullWords : List MailWord := List.replicate 256 ⟨zeros 64, 64, false, false, 0, 0⟩
theorem test_mail : ((slotted {}).mailSlot 127).feeds = [] ∧ ({} : MailSlot).needs 16 ≤ ({} : MailSlot).free ∧
    ({ words := fullWords } : MailSlot).free < ({ words := fullWords } : MailSlot).needs 1 ∧ ((slotted { words := fullWords }).mailSlot 127).words ≠ [] ∧
    ({ fired := true } : MailSlot).fired = true ∧ ({} : MailSlot).idleUs ≠ 0 ∧ ({ part := zeros 63 } : MailSlot).part.length < 64 ∧
    (nextOf (exec (.mailSlotWrite 127 [1, 2] true) (slotted { part := zeros 63 }))).map (fun t => (t.mailSlot 127).words.map MailWord.bytes) =
      some [64, 1] := by decide +kernel
def feed0 : StreamJob := { seq := 1, list := 0, slot := 0, ctx := 0, frame := 0 }
theorem test_feed : ((slotted { feeds := [feed0] }).mailSlot 127).feeds = feed0 :: [] := by decide +kernel

/-- A stream of 16 by 16 luma samples: its bitstream of 64 bytes at a host address, the least preparation. -/
def streamDesc (bad ofmt : Nat) : List Byte :=
  leBytes 8 (hostVa 0x4000) ++ leBytes 8 64 ++ zeros 16 ++ zeros 3 ++ leBytes 1 bad ++ leBytes 2 16 ++ leBytes 2 16 ++ zeros 8 ++ leBytes 4 1 ++ zeros 12 ++
    edgePrep0.take 62 ++ leBytes 1 ofmt ++ zeros 129
def videoSheet : List Byte := zeros 28 ++ leBytes 4 1 ++ zeros 104 ++ leBytes 2 1 ++ leBytes 1 1 ++ zeros 373
def openCmd : Cmd := cmd 0x30 [(24, 8, hostVa 0x1000)]
def opening (bad ofmt : Nat) : State :=
  withCmd { on with boot := { on.boot with sheet := videoSheet }, mem := { host := Mem.writeN [] 0x1000 (streamDesc bad ofmt) } } openCmd
theorem test_open : (opening 0 1).turnOf 1 0x30 = some openCmd ∧ (opening 0 1).firstOwnBad 1 [⟨hostVa 0x1000, 256, false, 1⟩] = none ∧
    (opening 0 1).peerReady (accOf 1) (hostVa 0x1000) 256 = true ∧ (opening 0 1).readVA (accOf 1) (hostVa 0x1000) 256 = .ok (streamDesc 0 1) ∧
    streamBad (streamDesc 0 1) = false ∧ streamBad (streamDesc 2 1) = true ∧ (parsePrep (slice (streamDesc 0 0) 64 64)).fmt = none ∧
    (parsePrep (slice (streamDesc 0 1) 64 64)).fmt ≠ none ∧ (opening 0 1).freeEngine = some 0 ∧ on.freeEngine = none := by decide +kernel
theorem test_open_room : firstFrom (fun i => ((opening 0 1).ctx i).state == 0) 512 0 = some 0 ∧
    ((opening 0 1).drawPages picLg 0 (ceilDiv (storeBytes (streamDesc 0 1)) (2 ^ picLg))).isSome = true ∧
    (({ opening 0 1 with hbm := {} } : State).drawPages picLg 0 (ceilDiv (storeBytes (streamDesc 0 1)) (2 ^ picLg))).isNone = true := by decide +kernel
/-- The stream open in context 511 on engine 0, a frame under way. -/
def decoding (pos : Nat) : State :=
  { opening 0 1 with
    video := { ctxs := [(511, { state := 1, desc := streamDesc 0 1, pos := pos })], engines := [(0, { busy := true, ctx := 511 })] }, nowUs := 100000 }
def frame0 (shown : Bool) (damage : Option FrameDamage) : DecodedFrame :=
  { shown := shown, rap := true, lost := false, sampling := 0, deep := false, grain := false, width := 16, height := 16
    y := List.replicate 256 0, cb := List.replicate 64 0, cr := List.replicate 64 0, consumed := 64, damage := damage }
theorem test_stream : ((decoding 0).dec 0).busy = true ∧ ((decoding 0).ctx 511).state = 1 ∧ ((decoding 0).bitstream ((decoding 0).ctx 511)).1 = 64 ∧
    (((decoding 0).ctx 511).outcome (frame0 true none)).isSome = true ∧
    ((((decoding 0).ctx 511).outcome (frame0 true (some ⟨1, 0, 16, 16, [(0, 0)]⟩))).bind Picture.damage).isSome = true ∧
    100000 ≤ (decoding 0).nowUs - ((decoding 0).dec 0).startUs ∧ (on.dec 15).busy = false := by decide +kernel
theorem test_close : (withCmd (decoding 0) (cmd 0x31 [(24, 2, 511)])).turnOf 1 0x31 = some (cmd 0x31 [(24, 2, 511)]) ∧
    (decoding 0).ctxOf 511 = some 511 ∧ (decoding 0).ctxOf (511 + 512) = none := by decide +kernel

def sampling (q : SampleReq) (x : SampleSlot) (policy : Nat) : State :=
  { decoding 0 with video := { runs := [{ seq := 1, layer := 0, addr := 0, slate := 0, mask := 0, policy := policy, reqs := [q], slots := [x] }] }, nowUs := 9 }
def late0 : SampleReq := { stream := 0, frame := 0, deadline := some 9 }
theorem test_deadline : (((sampling late0 { dst := 0 } 0).video.runs.filter (fun r => r.seq == 1))[0]?).map SampleRun.reqs = some [late0] ∧
    (sampling late0 { dst := 0 } 0).isLate late0 = true ∧ (sampling late0 { dst := 0 } 0).isLate { late0 with deadline := some 10 } = false ∧ late0.ready = false ∧
    (((sampling late0 { dst := 0 } 2).countLate 1 0 0 late0).run? 1 0).map SampleRun.policy = some 2 ∧
    (((sampling late0 { dst := 0 } 0).countLate 1 0 0 late0).run? 1 0).map SampleRun.policy = some 0 ∧ How.decoded ≠ .pending ∧
    ({ dst := 0, prepared := true } : SampleSlot).prepared = true := by decide +kernel
def cache (reading : Nat) : State :=
  { opening 0 1 with video := { rush := { ents := [⟨5, 0, 0, 1, [], 0, reading⟩], inserts := [⟨5, 0, 0, [1]⟩, ⟨6, 0, 0, [1]⟩], keyReg := 5 } } }
theorem test_cache : (cache 0).video.rush.inserts[1]? = some ⟨6, 0, 0, [1]⟩ ∧ (cache 0).video.rush.ents.any (fun k => k.has 5 0 0) = true ∧
    (cache 0).video.rush.ents.any (fun k => k.has 6 0 0) = false ∧ (cache 0).video.rush.used + rushBlocks [1] ≤ (cache 0).rushCap ∧
    (cache 0).barTakes .fromE = true ∧ (cache 0).video.rush.busy = none ∧ (cache 0).video.rush.ents.any (fun k => k.reading != 0) = false ∧
    (cache 1).video.rush.ents.any (fun k => k.reading != 0) = true := by decide +kernel

/-- A copy of 64 bytes between host addresses, checked, on the walk. -/
def burst0 : DmaDesc := { desc0 with checked := true }
def bursting : State := walk burst0 0
theorem test_burst : Tab.at (bursting.eng 32).chans 31 {} = { queue := [burst0] } ∧
    ((bursting.eng 32).choose (bursting.readyChans 32)) = some (false, 31, { queue := [burst0] }, 0, burst0) ∧ burst0.dims = [] ∧ burst0.off < burst0.run ∧
    bursting.waitsPeer burst0 = false ∧ migOf bursting.mem.migs 1 (burst0.dst % 2 ^ 52 + burst0.off) = none ∧ burst0.relayed = false ∧ burst0.relay = none ∧
    burst0.pref = none ∧ burst0.core = none := by decide +kernel
theorem test_burst_host : inHost burst0.src burst0.run ∧ inHost burst0.dst burst0.run := by unfold inHost; decide +kernel
def elemRun0 : ElemRun := { desc := elemDesc, prog := [0], consts := List.replicate 16 0, row := 0, next := 0 }
theorem test_elem_under_way : ((onCore { elem := some elemRun0 }).core 0).elem = some elemRun0 ∧ (onCore { elem := some elemRun0 }).kernOn 0 = some kern ∧
    (parseElem elemDesc).groups = 1 := by decide +kernel

/-- A frame job of a stream whose list is gone, and the edge engine that runs it. -/
def jobOf (pic : Option Picture) : StreamJob := { seq := 9, list := 0, slot := 0, ctx := 511, frame := 0, pic := pic }
def pic0 : Picture := pictureOf 0 (frame0 true none)
def edging (j : EdgeJob) : State := { on with dma := { edges := [(31, { running := some j })] } }
theorem test_edge_stream : (jobOf (some pic0)).pic.isSome = true ∧ on.run? 9 0 = none ∧
    ((edging (.stream 127 (jobOf (some pic0)))).edge 31).running = some (.stream 127 (jobOf (some pic0))) ∧
    ((List.range 17).all fun i => ((edging (.stream 127 (jobOf (some pic0)))).core (17 * 31 + i)).queue.isEmpty) = true := by decide +kernel
/-- The least EDGE preparation over the kernel's share of the cluster memory, the kernel holding one bank. -/
def bankKern : Kern := { kern with banks := [(0, [3])] }
def edgePrep1 : List Byte := leBytes 8 (spaceVa 1 0) ++ leBytes 8 (spaceVa 1 0x400) ++ leBytes 8 (spaceVa 1 0x800) ++ edgePrep0.drop 24
def prepping : State :=
  { onCore {} with sched := { kerns := [bankKern] }, dma := { edges := [(0, { running := some (.core 0 1 (some bankKern) edgePrep1) })] } }
theorem test_edge_prep : recField edgePrep1 63 1 % 4 = 0 ∧ (prepping.edge 0).running = some (.core 0 1 (some bankKern) edgePrep1) ∧
    (let a : Acc := { core := some 0, kern := some bankKern, seq := some 1 }
     let p := parsePrep edgePrep1
     let s2 := prepping.bump (.cluster 0) 0x0D6 1
     let ys := (s2.edgeRows 0 a p.srcY p.sstr (p.srcW * (p.depth + 1)) p.srcH).toOption
     let uvs := (s2.edgeRows 0 a p.srcUV p.sstr (p.srcW * (p.depth + 1)) (p.srcH / 2)).toOption
     (ys.map List.length, uvs.map List.length, (s2.edgeStore 0 a p.dst p.dstr (p.sample prepping.freeCtr (planeSource p (ys.getD []) (uvs.getD [])))).toOption.isSome)) =
      (some 256, some 128, true) := by decide +kernel
theorem test_dmaq_none : (((kern.chans.find? (fun p => p.1 == clusterOf 0)).map Prod.snd).getD [])[fld (word 0x39 [(10, 5)]).toNat 10 4]? = none ∧
    issues (onCore {}) 0x39 [(10, 5)] = true := by decide +kernel

def av1Frame : List Byte := [0x32, 1, 0]
theorem test_units : lowUnits 3 av1Frame = some [⟨6, [0]⟩] ∧ annexBUnits [4, 3, 2, 0x30, 0] = some [⟨6, [0]⟩] ∧ annexBUnits [3, 2, 0x30, 0] = some [⟨6, [0]⟩] ∧
    nalUnits 1 9 [0, 0, 0, 1, 0x65, 7, 0, 0, 1] = none ∧ nalUnits 1 6 [0, 0, 0, 1, 0x65, 7] = some [⟨5, [7]⟩] ∧
    nalUnits 2 7 [0, 0, 1, 0x26, 1, 7, 9] = some [⟨19, [7, 9]⟩] := by decide
theorem test_jpeg : jpegOk ([0xFF, 0xD8, 0xFF, 0xC0, 0, 11, 8, 0, 16, 0, 16, 1, 1, 0x11, 0, 0xFF, 0xDA, 0, 8, 1, 1, 0, 0, 63, 0, 0x55, 0xFF, 0, 0xFF, 0xD9]) = true ∧
    jpegOk ([0xFF, 0xD8, 0xFF, 0xC2, 0, 11, 8, 0, 16, 0, 16, 1, 1, 0x11, 0, 0xFF, 0xD9]) = false := by decide
def coded : State := { decoding 0 with mem := { host := Mem.writeN [] 0x4000 av1Frame } }
def frame3 (shown : Bool) : DecodedFrame := { frame0 shown none with consumed := 3 }
theorem test_frame_parses : coded.bitReady (coded.ctx 511) 0 3 = true ∧ coded.parses (coded.ctx 511) (frame3 true) = true ∧
    coded.parses (coded.ctx 511) (frame3 false) = true ∧ (decoding 0).parses ((decoding 0).ctx 511) (frame0 true none) = false ∧
    (decoding 0).parses ((decoding 0).ctx 511) (frame0 true (some ⟨1, 0, 16, 16, [(0, 0)]⟩)) = true ∧ coded.video.runs = [] ∧
    (((coded.ctx 511).outcome (frame3 true)).isSome = true) ∧ (coded.ctx 511).pos + 3 ≤ (coded.bitstream (coded.ctx 511)).1 := by decide +kernel
theorem test_frame_counts : (nextOf (exec (.frameDecoded 0 (frame3 true)) coded)).map (fun t => ((t.ctx 511).frames, (t.ctx 511).pos, (t.ctx 511).next)) =
    some (1, 3, 1) := by decide +kernel

/-- A sample list at a host address, its mask behind it, and its one slot prepared. -/
def listAt : Nat := hostVa 0x6000
def sampleRun0 (q : SampleReq) (x : SampleSlot) (policy : Nat) : SampleRun :=
  { seq := 1, layer := 0, addr := listAt, slate := 5, mask := hostVa 0x7000, policy := policy, reqs := [q], slots := [x] }
def settling (q : SampleReq) (x : SampleSlot) (policy : Nat) : State :=
  { withCmd on (inRun 0x02) with progs := loaded.progs, video := { runs := [sampleRun0 q x policy] }, nowUs := 9 }
def ready0 : SampleSlot := { dst := 0, how := .decoded, mask := true, prepared := true }
theorem test_slot_settles : (settling late0 ready0 0).video.runs.filter (fun r => r.seq == 1) = [sampleRun0 late0 ready0 0] ∧
    (settling late0 ready0 0).progSlate 1 5 = some 5 ∧ (settling late0 ready0 0).memOk = true ∧
    (settling late0 ready0 0).readVA (accOf 1) (listAt + 32) 32 = .ok (zeros 32) ∧ (settling late0 ready0 0).readVA (accOf 1) (hostVa 0x7000) 1 = .ok [0] ∧
    (listAt + 32 + 32 ≤ hostVa 0x7000) ∧ (nextOf (exec (.slotSettle 1 0) (settling late0 ready0 0))).map (fun t => (t.slate 5, t.mem.host.read 0x7000,
      t.mem.host.read 0x6002)) = some (1, 1, 1) := by decide +kernel
theorem test_slot_host : inHost listAt (64 + 32 * 0) ∧ inHost (hostVa 0x7000) 1 := by unfold inHost; decide +kernel
theorem test_deadline_pads : (settling late0 { dst := 0 } 1).isLate late0 = true ∧ late0.gone = false ∧ late0.late = false ∧ late0.ready = false ∧
    (settling late0 { dst := 0 } 1).run? 1 listAt = some (sampleRun0 late0 { dst := 0 } 1) ∧ (settling late0 { dst := 0 } 1).ctxOf late0.stream = none ∧
    (sampleRun0 late0 { dst := 0, how := .decoded } 0).slots.map SampleSlot.how = [.decoded] := by decide +kernel

/-! ### The fabric -/

/-- A committed fabric of two: this device 1, port 19 UP. -/
def meshed : State :=
  { on with fab := { state := .committed, assigned := true, id := 1, devices := 2, ports := [(19, { state := .up, present := true, credits := [9, 9, 9] })]
                     cur := { epoch := 1, routes := [(2, { ports := 0x80000, dist := 1, valid := true })] } } }
def hdr (vc len : Nat) : FrameHdr :=
  { vc := BitVec.ofNat 2 vc, epar := false, dst := 1, src := 2, tag := 7, hops := 1, len := BitVec.ofNat 5 len, flow := 0, status := 0, addr := 0, rsvd := false, credit := true }
/-- The hypothesis hears, as a test. -/
def heard (s : State) (type : Nat) (h : FrameHdr) : Bool :=
  (s.port 19).state == .up && (s.frameFault 19 type h).isNone && (!byId type || !s.fab.assigned || h.dst == s.fab.id)
theorem test_hears : meshed.hears 19 1 (hdr 0 1) ∧ [(1, 0, 1), (2, 0, 16), (4, 1, 0), (5, 0, 1), (6, 1, 1), (7, 0, 0), (8, 2, 0), (9, 2, 1), (0x10, 2, 1), (0x11, 2, 1),
    (0x12, 2, 1), (0x13, 2, 16), (0x14, 2, 1), (0x15, 2, 1), (0x16, 2, 1), (3, 1, 1)].all (fun p => heard meshed p.1 (hdr p.2.1 p.2.2)) = true :=
  ⟨⟨by decide +kernel, by decide +kernel, by decide +kernel⟩, by decide +kernel⟩
def portIs (v : FabPort) : State := { meshed with fab := { meshed.fab with ports := [(19, v)] } }
theorem test_trained : ((portIs { state := .training }).port 19).state = .training ∧ trainWidth 255 = some 0 ∧ trainWidth 0x1F = some 1 ∧ trainWidth 0xF0 = some 2 ∧
    trainWidth 0xEE = none ∧ (meshed.port 19).state ≠ .training ∧ (meshed.port 19).state.takes = true ∧ (meshed.port 0).state = .down ∧
    (meshed.port 0).disable = false ∧ (portIs { present := true }).role ≠ 2 ∧ 4 ≤ meshed.boot.stage := by decide +kernel
theorem test_port_states : meshed.barTakes .fromD = true ∧ State.reset.barTakes .fromD = false ∧ ((portIs { state := .disabled }).port 19).state = .disabled ∧
    ((portIs { state := .quarantined }).port 19).state = .quarantined ∧ (4 : Byte).toNat ≤ 4 ∧ (0 : BitVec 12) = (meshed.port 19).rxSeq + 1 ∧
    (1 : BitVec 12) ≠ (meshed.port 19).rxSeq + 1 ∧ ((portIs { opened := some 0 }).port 19).opened = some 0 := by decide +kernel
def exposing : State := { meshed with boot := { on.boot with sheet := zeros 168 ++ leBytes 8 0x20000 ++ zeros 336 }, mem := { leaves := [leaf0] } }
theorem test_served : exposing.exposed 0x1FFF0 16 = true ∧ exposing.exposed 0x1FFF0 32 = false ∧
    ((exposing.returnCredit 19 1 (hdr 0 1)).xPaged 0x10000 false true).1 = .hbm 0x40000000 ∧
    ((exposing.returnCredit 19 1 (hdr 0 1)).xPaged 0x11000 false true).1 = .bad ∧
    ((exposing.returnCredit 19 1 (hdr 0 1)).readPlace (.hbm 0x40000000) 16).2 = none ∧
    (exposing.returnCredit 19 2 (hdr 0 1)).leafAt 0x10000 = some leaf0 ∧
    (({ exposing with mem := { leaves := [{ leaf0 with wr := false }] } } : State).returnCredit 19 2 (hdr 0 1)).leafAt 0x10000 = some { leaf0 with wr := false } := by
  decide +kernel
def asking (k : ReqKind) : State :=
  { meshed with fab := { meshed.fab with reqs := [{ tag := 7, dst := 2, flow := 0, epar := false, seq := 1, kind := k }] }, nowUs := 100 }
theorem test_responses : (asking (.read 0 16)).reqOf (hdr 1 1) = some { tag := 7, dst := 2, flow := 0, epar := false, seq := 1, kind := .read 0 16 } ∧
    heard (asking (.read 0 16)) 3 { hdr 1 0 with status := 2 } = true ∧ heard (asking (.write 0)) 4 { hdr 1 0 with status := 2 } = true ∧
    heard (asking (.slate 0 (.cmd 1))) 6 { hdr 1 1 with status := 2 } = true ∧
    (asking (.write 0)).fab.reqs.find? (fun r => r.tag == 7) = some { tag := 7, dst := 2, flow := 0, epar := false, seq := 1, kind := .write 0 } ∧
    ({ tag := 7, dst := 2, flow := 0, epar := false, seq := 1, kind := .write 0 } : FabReq).waits = false ∧ 0 + max 1 (asking (.write 0)).fab.timeout.toNat ≤ (asking (.write 0)).nowUs := by decide +kernel
theorem test_slate_req : (nextOf (exec (.slateReq 19 { hdr 0 1 with addr := 9 } 3 5 0) meshed)).map (fun t => (t.slate 9, t.slate 8)) = some (5, 0) := by decide +kernel

def electing (lowest : Option (BitVec 128)) : State := { meshed with fab := { meshed.fab with state := .electing, lowest := lowest }, nowUs := 50000 }
theorem test_election : (electing none).fab.state = .electing ∧ (electing none).fab.lowestAt + 50000 ≤ (electing none).nowUs ∧
    (electing (some 5)).fab.lowest = some 5 ∧ (7 : Dword).toNat ≠ meshed.sheet 152 8 := by decide +kernel
def coordinating : State := { meshed with fab := { meshed.fab with coord := true, topoDirty := true, tally := [] }, nowUs := 1000 }
theorem test_recompute : coordinating.fab.coord = true ∧ coordinating.fab.topoDirty = true ∧ coordinating.fab.topoAt + 1000 ≤ coordinating.nowUs ∧
    coordinating.fab.state = .committed ∧ meshed.fab.coord = false := by decide +kernel
theorem test_commit : ({ meshed.fab with staged := ⟨2, []⟩, stagedId := some 3 } : Fabric).stagedId = some 3 ∧ (hdr 2 1).len ≠ 0 ∧
    (nextOf (exec (.commit 19 (hdr 2 1) 2) { meshed with fab := { meshed.fab with staged := ⟨2, []⟩, stagedId := some 3 } })).map (fun t => t.fab.id) = some 3 := by
  decide +kernel
def stageD (now : Nat) : State := { meshed with boot := { on.boot with stage := 4, atD := some 0 }, nowUs := now }
theorem test_discovery : (stageD 1500000).boot.atD = some 0 ∧ 0 + 1500000 ≤ (stageD 1500000).nowUs ∧ (stageD 1499999).nowUs < 0 + 1500000 ∧
    (stageD 100).fab.commitAt + max 1 (stageD 100).fab.timeout.toNat ≤ (stageD 100).nowUs := by decide +kernel
def windowed : State := { meshed with fab := { meshed.fab with windows := [⟨⟨2, 5, 1⟩, 3, 0⟩] }, nowUs := 100000 }
theorem test_coalesce : windowed.fab.windows.find? (fun w => w.key == ⟨2, 5, 1⟩) = some ⟨⟨2, 5, 1⟩, 3, 0⟩ ∧ 0 + 100000 ≤ windowed.nowUs := by decide +kernel

theorem test_port_queues : (meshed.port 19).txq = [[], [], []] ∧ (meshed.port 19).state.takes = true ∧ meshed.role ≠ 2 ∧
    ((portIs { state := .up, opened := some 0 }).port 19).opened = some 0 ∧ 0 + 1000000 ≤ ({ meshed with nowUs := 1000000 } : State).nowUs := by decide +kernel
/-- Port 19 leads to device 2. -/
theorem test_leads : meshed.leads 2 0x23 19 ∧ meshed.leads 2 0x25 19 := ⟨⟨by decide +kernel, by decide +kernel⟩, ⟨by decide +kernel, by decide +kernel⟩⟩
def shown (l : Leaf) : State := { exposing with mem := { leaves := [l] } }
def at16 (a : Nat) : FrameHdr := { hdr 0 1 with addr := BitVec.ofNat 40 a }
theorem test_remote_read : heard exposing 1 (at16 0x10000) = true ∧ exposing.exposed 0x10000 16 = true ∧ (exposing.xPaged 0x10000 false true).1 = .hbm 0x40000000 ∧
    (exposing.readPlace (.hbm 0x40000000) 16).2 = none ∧ (exposing.xPaged 0x11000 false true).1 = .bad ∧ exposing.exposed 0x20000 16 = false := by decide +kernel
theorem test_remote_write : heard exposing 2 (at16 0x10000) = true ∧ exposing.leafAt 0x10000 = some leaf0 ∧ (exposing.xPaged 0x10000 true true).1 = .hbm 0x40000000 ∧
    exposing.movingAt (.hbm 0x40000000) = none ∧ exposing.memOk = true ∧ (frameData (at16 0x10000) (zeros 16)).length = 16 ∧
    (shown { leaf0 with wr := false }).leafAt 0x10000 = some { leaf0 with wr := false } ∧
    ((shown { leaf0 with loc := 1, addr := 0x200000 }).xPaged 0x10000 true true).1 = .host 0x200000 := by decide +kernel
theorem test_channels_good : ∀ c, (exposing.chan c).failed = false := fun _ => rfl
def answered (k : ReqKind) (c : Cmd) : State := { asking k with cmds := [(1, c)] }
def endingCmd : Cmd := { cmd 0x20 [] with phase := .running, ending := some (.ok, []) }
theorem test_write_answered : ((asking (.write 0)).cmd? 1).bind Cmd.ending = none ∧ ((answered (.write 0) endingCmd).cmd? 1).bind Cmd.ending = some (.ok, []) ∧
    (((answered (.write 0) endingCmd).returnCredit 19 4 (hdr 1 0)).reqDone 7).writesOut 1 = false ∧ endingCmd.phase ≠ .recorded ∧
    heard (answered (.write 0) endingCmd) 4 (hdr 1 0) = true ∧ ((answered (.write 0) endingCmd).reqOf (hdr 1 0)).map FabReq.kind = some (.write 0) := by decide +kernel
theorem test_slate_answered : ((answered (.slate 4 (.core 0 7)) endingCmd).reqOf (hdr 1 1)).map FabReq.kind = some (.slate 4 (.core 0 7)) ∧ slateReads 4 = true ∧
    ((answered (.slate 0 (.cmd 1)) endingCmd).cmd? 1) = some endingCmd ∧
    ((answered (.slate 1 (.core 0 7)) endingCmd).reqOf (hdr 1 1)).map FabReq.kind = some (.slate 1 (.core 0 7)) ∧
    heard (answered (.slate 4 (.core 0 7)) endingCmd) 6 (hdr 1 1) = true := by decide +kernel
theorem test_remote_slates : heard meshed 5 (hdr 0 1) = true ∧
    ({ slate := 0, who := .remote 2 7, eq := false, value := 0 } : SlateWait).met (meshed.slate 0) = true ∧
    ({ slate := 0, who := .remote 2 7, eq := true, value := 1 } : SlateWait).met (meshed.slate 0) = false ∧ meshed.remoteWaits (slateBank 0) < 256 ∧
    256 ≤ ({ meshed with sched := { waits := List.replicate 256 { slate := 0, who := .remote 2 7, eq := true, value := 1 } } } : State).remoteWaits (slateBank 0) := by
  decide +kernel
theorem test_cancelled : heard meshed 7 (hdr 0 0) = true ∧ heard meshed 9 (hdr 2 1) = true ∧ (3 : Byte) ≠ 1 := by decide +kernel

def link0 : LinkData := { uid := 5, id := some 3, port := 4, usable := true, partner := 6 }
theorem test_links : meshed.fab.devs = [] ∧ coordinating.fab.coord = true ∧ heard coordinating 0x11 (hdr 2 3) = true ∧ meshed.fab.coord = false ∧
    ({ meshed with fab := { meshed.fab with state := .mapping, parent := some 19 } } : State).fab.parent = some 19 ∧ (meshed.port 19).txq.length = 3 := by decide +kernel
def key0 : FaultKey := ⟨5, 0x1C, 1⟩
def telling (dst : Nat) : FrameHdr := { hdr 2 1 with dst := BitVec.ofNat 12 dst }
theorem test_fault_told : coordinating.fab.tally.find? (fun p => p.2.key == key0) = none ∧
    ({ coordinating with fab := { coordinating.fab with tally := [(0, { key := key0, first := 2, reports := 1, dups := 0 })] } } : State).fab.tally.find?
      (fun p => p.2.key == key0) = some (0, { key := key0, first := 2, reports := 1, dups := 0 }) ∧ heard coordinating 0x15 (telling 1) = true ∧
    heard coordinating 0x16 (telling 1) = true := by decide +kernel
theorem test_fault_passed : meshed.fab.assigned = true ∧ (telling 9).dst ≠ meshed.fab.id ∧ (telling 9).hops ≠ 0 ∧
    heard meshed 0x15 { telling 9 with dst := meshed.fab.id } = true ∧ meshed.fab.windows.length < 256 ∧ meshed.fab.windows.any (fun w => w.key == key0) = false ∧
    ({ meshed.fab with windows := [⟨key0, 0, 0⟩] } : Fabric).windows.any (fun w => w.key == key0) = true := by decide +kernel

/-! ### Faults, the gaffer, the dailies -/

def known : State := { on with flt := { windows := [⟨0x6001, 0x1C, 0, some 0, 0, 0⟩], inFlight := [⟨0x1C, 0x6001, 0x6001, 0, 0⟩] }, nowUs := 100000 }
theorem test_reports : known.flt.windows.any (fun w => w.subject == 0x6001 && w.cls == 0x1C && w.fepoch == known.fab.epoch) = true ∧
    on.flt.windows.any (fun w => w.subject == 0x6001 && w.cls == 0x1C && w.fepoch == on.fab.epoch) = false ∧ (0x1C : Byte) ≠ 0x15 ∧ (0x1C : Byte) ≠ 0x17 ∧
    ({ on with flt := { failed := [1] } } : State).unitOut 0x6001 = true ∧ on.unitOut 0x6001 = false ∧ on.fab.devices ≤ 1 ∧
    (⟨0x1C, 0x6001, 0x6001, 0, 0⟩ : Report).fences = none ∧ (⟨0x18, 0x4000, 0x4000, 0, 0⟩ : Report).fatal = true ∧
    (⟨0x18, 0x4000, 0x4000, 0, 0⟩ : Report).fences = none ∧ on.flt.irq = false := by decide +kernel
theorem test_fence : on.kernOn 542 = none ∧ 542 % 17 ≠ 16 ∧ on.isFenced (17 * clusterOf 542 + 16) = false ∧ Tab.has on.flt.standby (clusterOf 542) = false := by
  decide +kernel
theorem test_window : known.flt.windows.find? (fun w => w.subject == 0x6001 && w.cls == 0x1C && w.fepoch == 0) = some ⟨0x6001, 0x1C, 0, some 0, 0, 0⟩ ∧
    ({ known with nowUs := 99999 } : State).nowUs < 0 + 100000 ∧ 0 + 100000 ≤ known.nowUs := by decide +kernel
def fenceCmd (drain : Nat) : Cmd := cmd 0x50 [(24, 2, 0x1FF), (26, 1, drain)]
theorem test_fence_cmd : (withCmd on (fenceCmd 0)).turnOf 1 0x50 = some (fenceCmd 0) ∧ on.isFenced (fenceCmd 0).fenceTarget = false ∧
    ((fenceCmd 1).fieldN 26 1).testBit 0 = true ∧ ({ on with flt := { fenced := [((fenceCmd 0).fenceTarget, 0x1B)] } } : State).isFenced (fenceCmd 0).fenceTarget = true := by
  decide +kernel
def draining : State := { withCmd on { fenceCmd 1 with phase := .running } with flt := { drains := [(543, 1)] } }
theorem test_drain : draining.flt.drains.find? (fun d => d.1 == 543) = some (543, 1) ∧ draining.isFenced 543 = false ∧ (draining.core 543).owner = none ∧
    ((onCore {}).core 0).owner.isSome = true := by decide +kernel
theorem test_collision : ((onCore {}).cmd? 1).map Cmd.phase = some .running := by decide +kernel
theorem test_tst : on.barTakes .fromE = true ∧ on.tstLocked 5 = false ∧
    ({ on with boot := { on.boot with fuses := { tstLock := true, dbgFuse := 1 } } } : State).tstLocked 5 = true := by decide +kernel

theorem test_levers : 1 ≤ on.gaf.la.toNat ∧ on.gaf.la.toNat ≤ 8 ∧ 1 ≤ on.gaf.lh.toNat ∧ on.gaf.lh.toNat ≤ 4 ∧ (104 : Byte).toNat < 105 ∧
    on.gaf.cap.toNat < min (meanOf ((List.replicate 10 2000).take 10)) 4095 ∧ (2100 : Half).toNat ≤ 2100 ∧ 2100 < (2101 : Half).toNat := by decide +kernel
def hot : State := { on with gaf := { trip105 := some 0, limiter := 5 }, nowUs := 10000 }
theorem test_trip : hot.gaf.trip105 = some 0 ∧ hot.gaf.tripped = false ∧ 0 + 10000 ≤ hot.nowUs ∧ hot.tripOn = true ∧ on.tripOn = false := by decide +kernel
theorem test_plan : on.mod.good = true ∧ 4 ≤ on.boot.stage ∧ ({ planOwed := true } : Gaffer).planOwed = true ∧
    0 + planPeriod ≤ ({ on with nowUs := planPeriod } : State).nowUs := by decide +kernel
theorem test_slack : (0 : Half).toInt < slackFloor 0 ∧ (0 : Half).toInt < slackFloor 1125 ∧ slackFloor 1125 ≤ (25 : Half).toInt ∧
    ({ step := 40 } : Island).step.toNat = ceilStep ∧ ({ step := 40 } : Island).retired = false := by decide +kernel

def snapping : State := { on with perf := { token := some (true, 1) } }
theorem test_dailies : ({ period := 1 } : Perf).period ≠ 0 ∧ 2 ≤ on.boot.stage ∧ on.perf.token = none ∧ snapping.perf.token.isSome = true ∧
    on.perf.period = 0 ∧ snapping.perf.reached.contains 580 = false ∧ ([580] : List Nat).contains 580 = true ∧ snapping.perf.reached.length < 581 := by decide +kernel
def dumped : State := { on with perf := { token := some (true, 1), reached := List.range 581, ringEn := true, ringLog2 := 1, ringBase := BitVec.ofNat 64 (hostVa 0) } }
theorem test_dump : 581 ≤ dumped.perf.reached.length ∧ (dumped.perf.prod - dumped.perf.cons).toNat < dumped.perf.ringSize ∧ on.perf.ringEn = false := by decide +kernel
/-- A run at the start of host memory can be written, whatever its bytes. -/
theorem test_dump_writes (bs : List Byte) (h : bs.length ≤ 2 ^ 52) : (dumped.writeVA {} (hostVa 0) bs false).isSome = true := by
  have hx : dumped.xlate {} (hostVa 0) true = (.host 0, 2 ^ 52) := by decide +kernel
  have hn : ∀ f va, dumped.spans {} true f va 0 = [] := by intro f va; cases f <;> simp [State.spans]
  have hs : (dumped.spans {} true (bs.length + 1) (hostVa 0) bs.length).any (fun p => p.1 == .bad) = false := by
    by_cases h0 : bs.length = 0
    · simp [State.spans, h0]
    · have hk : max 1 (min (2 ^ 52) bs.length) = bs.length := by omega
      simp only [State.spans, h0, if_false, hx, hk, Nat.sub_self, hn]
      rfl
  simp only [State.writeVA, hs]
  rfl

theorem test_fence_ends : (fenceCmd 0).fenceTarget < 544 ∧ (withCmd on (fenceCmd 0)).kernOn (fenceCmd 0).fenceTarget = none ∧
    (withCmd on (fenceCmd 0)).flt.windows = [] ∧ draining.kernOn 543 = none ∧ (draining.cmd? 1).map Cmd.phase = some .running ∧
    (nextOf (exec (.fenceCore 1) (withCmd on (fenceCmd 0)))).map (fun t => t.host.cpls.map CplRec.status) = some [.ok] := by decide +kernel
theorem test_plans : on.tripOn = false ∧ hot.tripOn = true ∧ on.barTakes .fromA = true ∧ (on.island 0).retired = false ∧
    (on.gaf.planAt + planPeriod ≤ ({ on with nowUs := planPeriod } : State).nowUs) := by decide +kernel
theorem test_levers_keep : on.capInForce.toNat < min (meanOf ((List.replicate 10 2000).take 10)) 4095 ∧ 1 ≤ on.gaf.lv.toNat ∧ on.gaf.lv.toNat ≤ 8 := by decide +kernel

end Sys2Proof.Tests
end

section
/-! The byte memories over a step (O4, O5): what every command keeps, from what each keeps. -/

namespace Sys2Proof.Machine

/-- Every command keeps the queue behind it and the form of the byte memories. -/
theorem exec_kept {i0 : State} (i : Instr) (s : State) (hs : Kept i0 s) : KeptO i0 (exec i s) :=
  match i with
  | .loadProgram seq => execLoadProgram_kept seq s hs
  | .unload seq => execUnload_kept seq s hs
  | .runKernel seq => execRunKernel_kept seq s hs
  | .runGraph seq => execRunGraph_kept seq s hs
  | .forkTake seq => execForkTake_kept seq s hs
  | .advanceTakes seq => execAdvanceTakes_kept seq s hs
  | .cutTakes seq => execCutTakes_kept seq s hs
  | .pruneTake seq => execPruneTake_kept seq s hs
  | .exportReel seq => execExportReel_kept seq s hs
  | .importReel seq => execImportReel_kept seq s hs
  | .resetReels seq => execResetReels_kept seq s hs
  | .resetReelsCreate seq => execResetReelsCreate_kept seq s hs
  | .resetReelsRelease seq => execResetReelsRelease_kept seq s hs
  | .openStream seq => execOpenStream_kept seq s hs
  | .closeStream seq => execCloseStream_kept seq s hs
  | .dmaCopy seq => execDmaCopy_kept seq s hs
  | .dmaCopyDesc seq => execDmaCopyDesc_kept seq s hs
  | .slateOpWait seq => execSlateOpWait_kept seq s hs
  | .slateOpWaiteq seq => execSlateOpWaiteq_kept seq s hs
  | .slateOpSignal seq => execSlateOpSignal_kept seq s hs
  | .slateOpAdd seq => execSlateOpAdd_kept seq s hs
  | .slateOpFadd seq => execSlateOpFadd_kept seq s hs
  | .slateOpCas seq => execSlateOpCas_kept seq s hs
  | .slateOpRead seq => execSlateOpRead_kept seq s hs
  | .slateOpSet seq => execSlateOpSet_kept seq s hs
  | .migrateHint seq => execMigrateHint_kept seq s hs
  | .fenceCore seq => execFenceCore_kept seq s hs
  | .fenceCoreDrain seq => execFenceCoreDrain_kept seq s hs
  | .queryDevice seq => execQueryDevice_kept seq s hs
  | .queryTake seq => execQueryTake_kept seq s hs
  | .queryReel seq => execQueryReel_kept seq s hs
  | .querySequence seq => execQuerySequence_kept seq s hs
  | .intakeWrite off data poisoned => execIntakeWrite_kept off data poisoned s hs
  | .receiptRead off len => execReceiptRead_kept off len s hs
  | .partialTimeout slot => execPartialTimeout_kept slot s hs
  | .schedulingPass => execSchedulingPass_kept s hs
  | .pieceDispatch seq => execPieceDispatch_kept seq s hs
  | .sliceStart seq => execSliceStart_kept seq s hs
  | .stageDispatch seq stage => execStageDispatch_kept seq stage s hs
  | .holdLimitExpiry seq => execHoldLimitExpiry_kept seq s hs
  | .quantumExpiry seq => execQuantumExpiry_kept seq s hs
  | .saveComplete seq layer => execSaveComplete_kept seq layer s hs
  | .restoreComplete seq layer => execRestoreComplete_kept seq layer s hs
  | .kernelComplete seq layer => execKernelComplete_kept seq layer s hs
  | .completionRecordVisible q accepted => execCompletionRecordVisible_kept q accepted s hs
  | .msixHoldoffExpiry q => execMsixHoldoffExpiry_kept q s hs
  | .hifCqConsWrite q value => execHifCqConsWrite_kept q value s hs
  | .hifCqCtlWrite q value => execHifCqCtlWrite_kept q value s hs
  | .msixVectorUnmask v ctl => execMsixVectorUnmask_kept v ctl s hs
  | .cxlMemWrite line data poisoned => execCxlMemWrite_kept line data poisoned s hs
  | .cxlMemRead line => execCxlMemRead_kept line s hs
  | .configRequest reg write => execConfigRequest_kept reg write s hs
  | .malformedTlp => execMalformedTlp_kept s hs
  | .unsupportedRequest addr => execUnsupportedRequest_kept addr s hs
  | .registerWrite dword value poisoned => execRegisterWrite_kept dword value poisoned s hs
  | .getVersion => execGetVersion_kept s hs
  | .getCapabilities => execGetCapabilities_kept s hs
  | .negotiateAlgorithms meets => execNegotiateAlgorithms_kept meets s hs
  | .getDigests => execGetDigests_kept s hs
  | .getCertificate slot1 offset length => execGetCertificate_kept slot1 offset length s hs
  | .challenge nonce => execChallenge_kept nonce s hs
  | .getMeasurements index signed nonce => execGetMeasurements_kept index signed nonce s hs
  | .keyExchange share => execKeyExchange_kept share s hs
  | .finish verified => execFinish_kept verified s hs
  | .endSession => execEndSession_kept s hs
  | .ideKm op mem => execIdeKm_kept op mem s hs
  | .matmul w word => execMatmul_kept w word s hs
  | .attend w word => execAttend_kept w word s hs
  | .await w word => execAwait_kept w word s hs
  | .arrayLastOutput w => execArrayLastOutput_kept w s hs
  | .conv w word => execConv_kept w word s hs
  | .pool w word => execPool_kept w word s hs
  | .halo w word => execHalo_kept w word s hs
  | .haloDone w => execHaloDone_kept w s hs
  | .edgePrep w word => execEdgePrep_kept w word s hs
  | .edgeConv w word => execEdgeConv_kept w word s hs
  | .edgeJobDone n pred => execEdgeJobDone_kept n pred s hs
  | .eprun w word => execEprun_kept w word s hs
  | .vop w word => execVop_kept w word s hs
  | .vcvt w word => execVcvt_kept w word s hs
  | .vred w word => execVred_kept w word s hs
  | .vscore w word => execVscore_kept w word s hs
  | .vcmp w word => execVcmp_kept w word s hs
  | .vld w word => execVld_kept w word s hs
  | .vst w word => execVst_kept w word s hs
  | .vsetx w word => execVsetx_kept w word s hs
  | .vloop w word => execVloop_kept w word s hs
  | .vrand w word => execVrand_kept w word s hs
  | .slateWait w word => execSlateWait_kept w word s hs
  | .slateWaiteq w word => execSlateWaiteq_kept w word s hs
  | .slateSignal w word => execSlateSignal_kept w word s hs
  | .slateAdd w word => execSlateAdd_kept w word s hs
  | .slateFadd w word => execSlateFadd_kept w word s hs
  | .slateCas w word => execSlateCas_kept w word s hs
  | .slateRead w word => execSlateRead_kept w word s hs
  | .slateSet w word => execSlateSet_kept w word s hs
  | .slateWake w => execSlateWake_kept w s hs
  | .slateWaitLimit w => execSlateWaitLimit_kept w s hs
  | .slateOpLimit seq => execSlateOpLimit_kept seq s hs
  | .dmaq w word => execDmaq_kept w word s hs
  | .perfrd w word => execPerfrd_kept w word s hs
  | .reservedInstruction w word => execReservedInstruction_kept w word s hs
  | .rampGrant w => execRampGrant_kept w s hs
  | .rootTakeRegister seq set cls seed pages tokens reels => execRootTakeRegister_kept seq set cls seed pages tokens reels s hs
  | .cowFault n => execCowFault_kept n s hs
  | .pageCopyComplete n => execPageCopyComplete_kept n s hs
  | .countUpdate unit => execCountUpdate_kept unit s hs
  | .stepBoundary seq => execStepBoundary_kept seq s hs
  | .chunkDispatch seq => execChunkDispatch_kept seq s hs
  | .chunkFold seq => execChunkFold_kept seq s hs
  | .reelSwapInDone reel => execReelSwapInDone_kept reel s hs
  | .reelSwapOutDone reel => execReelSwapOutDone_kept reel s hs
  | .shelfMoveDone reel => execShelfMoveDone_kept reel s hs
  | .batchStepBoundary seq n => execBatchStepBoundary_kept seq n s hs
  | .swapOutPageDone n => execSwapOutPageDone_kept n s hs
  | .migrationCopyDone n => execMigrationCopyDone_kept n s hs
  | .demotion => execDemotion_kept s hs
  | .alloc count => execAlloc_kept count s hs
  | .map count => execMap_kept count s hs
  | .unmap count => execUnmap_kept count s hs
  | .protect count => execProtect_kept count s hs
  | .pin count => execPin_kept count s hs
  | .mapDrainDone => execMapDrainDone_kept s hs
  | .prefetchEntryComplete seq ix => execPrefetchEntryComplete_kept seq ix s hs
  | .prefetchDecisionPoint seq ix landed => execPrefetchDecisionPoint_kept seq ix landed s hs
  | .retentionEntry kind unit bank => execRetentionEntry_kept kind unit bank s hs
  | .bankWake kind unit bank => execBankWake_kept kind unit bank s hs
  | .marchTestStart ctl => execMarchTestStart_kept ctl s hs
  | .marchTestDone fails => execMarchTestDone_kept fails s hs
  | .bgTestRegion failed word => execBgTestRegion_kept failed word s hs
  | .hbmRefresh c pc => execHbmRefresh_kept c pc s hs
  | .scrubStep errs => execScrubStep_kept errs s hs
  | .writeBatchDrain c pc => execWriteBatchDrain_kept c pc s hs
  | .softRepair ctl => execSoftRepair_kept ctl s hs
  | .hardRepairRequest ctl => execHardRepairRequest_kept ctl s hs
  | .channelFailed c trainLost => execChannelFailed_kept c trainLost s hs
  | .repairRecordWrite => execRepairRecordWrite_kept s hs
  | .dmaBurstGrant e => execDmaBurstGrant_kept e s hs
  | .requestLineAssert e line => execRequestLineAssert_kept e line s hs
  | .dmaDescriptorComplete e c => execDmaDescriptorComplete_kept e c s hs
  | .dmaCqConsWrite e value => execDmaCqConsWrite_kept e value s hs
  | .mailSlotWrite m data fin => execMailSlotWrite_kept m data fin s hs
  | .mailSlotRead m => execMailSlotRead_kept m s hs
  | .mailSlotIdle m => execMailSlotIdle_kept m s hs
  | .mailSlotFlush m => execMailSlotFlush_kept m s hs
  | .frameDecoded e f => execFrameDecoded_kept e f s hs
  | .bitstreamProducerAdvance c => execBitstreamProducerAdvance_kept c s hs
  | .decodeAbandon e blocks => execDecodeAbandon_kept e blocks s hs
  | .decodeHang e blocks => execDecodeHang_kept e blocks s hs
  | .sampleDeadline seq n slot => execSampleDeadline_kept seq n slot s hs
  | .slotSettle seq n => execSlotSettle_kept seq n s hs
  | .rushInsertDone n => execRushInsertDone_kept n s hs
  | .rushFlush => execRushFlush_kept s hs
  | .rushInval => execRushInval_kept s hs
  | .portTrained p lanes => execPortTrained_kept p lanes s hs
  | .portTrainRetry p => execPortTrainRetry_kept p s hs
  | .portDown p => execPortDown_kept p s hs
  | .flitReceived p seq ack replay idle errs strays => execFlitReceived_kept p seq ack replay idle errs strays s hs
  | .rdReq p h => execRdReq_kept p h s hs
  | .wrReq p h data => execWrReq_kept p h data s hs
  | .rdRsp p h data => execRdRsp_kept p h data s hs
  | .wrRsp p h => execWrRsp_kept p h s hs
  | .slateReq p h op v cmp => execSlateReq_kept p h op v cmp s hs
  | .slateRsp p h result stored => execSlateRsp_kept p h result stored s hs
  | .slateCancel p h => execSlateCancel_kept p h s hs
  | .credit p h n0 n1 n2 => execCredit_kept p h n0 n1 n2 s hs
  | .reject p h reason tag type => execReject_kept p h reason tag type s hs
  | .hello p h d => execHello_kept p h d s hs
  | .helloTimer => execHelloTimer_kept s hs
  | .electionSettle => execElectionSettle_kept s hs
  | .linkReport p h l => execLinkReport_kept p h l s hs
  | .routeRecompute => execRouteRecompute_kept s hs
  | .assign p h id epoch => execAssign_kept p h id epoch s hs
  | .table p h entries => execTable_kept p h entries s hs
  | .commit p h epoch => execCommit_kept p h epoch s hs
  | .discoveryTimeout => execDiscoveryTimeout_kept s hs
  | .tableRetire => execTableRetire_kept s hs
  | .remoteTimeout tag => execRemoteTimeout_kept tag s hs
  | .fault p h key => execFault_kept p h key s hs
  | .tally p h key count => execTally_kept p h key count s hs
  | .faultCoalesceClose key => execFaultCoalesceClose_kept key s hs
  | .violationWindowClose p => execViolationWindowClose_kept p s hs
  | .portDisable p on => execPortDisable_kept p on s hs
  | .portRelease p => execPortRelease_kept p s hs
  | .portRetrain p => execPortRetrain_kept p s hs
  | .faultReport cls subject cause seq detail => execFaultReport_kept cls subject cause seq detail s hs
  | .faultWindowClose subject cls epoch => execFaultWindowClose_kept subject cls epoch s hs
  | .fenceDrainEffect w => execFenceDrainEffect_kept w s hs
  | .coreHang w => execCoreHang_kept w s hs
  | .netNoack subject cause seq detail => execNetNoack_kept subject cause seq detail s hs
  | .bankCollision w atCluster memory bank a b seq => execBankCollision_kept w atCluster memory bank a b seq s hs
  | .powerSample watts => execPowerSample_kept watts s hs
  | .gafferLoopTick junction hbm inlet outlet hot => execGafferLoopTick_kept junction hbm inlet outlet hot s hs
  | .junctionTripLimit junction hot => execJunctionTripLimit_kept junction hot s hs
  | .thermalTrip => execThermalTrip_kept s hs
  | .gafCapWrite value => execGafCapWrite_kept value s hs
  | .replan trials => execReplan_kept trials s hs
  | .replanNow trials => execReplanNow_kept trials s hs
  | .slackEmergency isl slack => execSlackEmergency_kept isl slack s hs
  | .islandRetire isl => execIslandRetire_kept isl s hs
  | .modEnRise => execModEnRise_kept s hs
  | .modEnFall => execModEnFall_kept s hs
  | .vinUndervoltage => execVinUndervoltage_kept s hs
  | .vinOvervoltage => execVinOvervoltage_kept s hs
  | .railFault => execRailFault_kept s hs
  | .powerGoodRise => execPowerGoodRise_kept s hs
  | .stageA width rate err => execStageA_kept width rate err s hs
  | .stageB err => execStageB_kept err s hs
  | .stageC err failed trials fails => execStageC_kept err failed trials fails s hs
  | .stageD => execStageD_kept s hs
  | .stageE => execStageE_kept s hs
  | .perstAssert => execPerstAssert_kept s hs
  | .hotReset => execHotReset_kept s hs
  | .bootWarm => execBootWarm_kept s hs
  | .bootCold => execBootCold_kept s hs
  | .coldIntervalEnd => execColdIntervalEnd_kept s hs
  | .updClear => execUpdClear_kept s hs
  | .updAppend len => execUpdAppend_kept len s hs
  | .updCommit => execUpdCommit_kept s hs
  | .flashWriteDone err => execFlashWriteDone_kept err s hs
  | .rollbackGo target => execRollbackGo_kept target s hs
  | .rollbackBitBlow => execRollbackBitBlow_kept s hs
  | .tokenSubmit => execTokenSubmit_kept s hs
  | .debugDrop => execDebugDrop_kept s hs
  | .fuseBlow => execFuseBlow_kept s hs
  | .perfPeriodTick => execPerfPeriodTick_kept s hs
  | .snap => execSnap_kept s hs
  | .snapshotToken u => execSnapshotToken_kept u s hs
  | .dumpRecordWrite time sweep => execDumpRecordWrite_kept time sweep s hs
  | .tstCtlWrite k value => execTstCtlWrite_kept k value s hs
  | .vinRise => execVinRise_kept s hs
  | .railOffInterval => execRailOffInterval_kept s hs
  | .softRepairComplete => execSoftRepairComplete_kept s hs
  | .d2dLink d => execD2dLink_kept d s hs
  | .tapInstruction instr => execTapInstruction_kept instr s hs
  | .i3cTransaction op addr dword value => execI3cTransaction_kept op addr dword value s hs
  | .cablePresence p present => execCablePresence_kept p present s hs

/-- An empty queue lets the clock move on. -/
theorem step_of_empty {s : State} (empty : s.pending = []) : step s = .next s.idle := by simp only [step, empty]

/-- The front of the queue runs on the state with the queue's rest. -/
theorem step_of_front {s : State} {c : Instr} {rest : List Instr} (front : s.pending = c :: rest) :
    step s = exec c (s.withPending rest) := by
  simp only [step, front]

@[simp] theorem State.withPending_memOk (s : State) (q : List Instr) : (s.withPending q).memOk = s.memOk := rfl

@[simp] theorem State.idle_memOk (s : State) : s.idle.memOk = s.memOk := rfl

/-- Settles O4: at power-on every byte memory is the empty list of cells. -/
theorem resetMemOk : Obligations.ResetMemOk := by
  unfold Obligations.ResetMemOk
  rfl

/-- Settles O5: the clock touches no memory, and the command at the front keeps the form of those of the state without it. -/
theorem stepKeepsMemOk : Obligations.StepKeepsMemOk := by
  intro s t canonical next
  cases queue : s.pending with
  | nil =>
    obtain rfl : s.idle = t := Host.Outcome.next.inj ((step_of_empty queue).symm.trans next)
    simpa using canonical
  | cons c rest =>
    have kept : Kept (s.withPending rest) t := keptO_get (exec_kept c _ (Kept.refl _)) ((step_of_front queue).symm.trans next)
    exact kept.mem (by simpa using canonical)

end Sys2Proof.Machine
end

section
/-! QUERY (O8): a command whose turn has come, and the report it is answered with. -/

namespace Sys2Proof.Machine

/-! ### A command whose turn has come -/

/-- A command whose turn has come is accepted, has the opcode asked for, and has made no record. -/
theorem State.turnOf_some {s : State} {seq : Word} {op : Nat} {c : Cmd} (turn : s.turnOf seq op = some c) :
    s.cmd? seq = some c ∧ c.opcode = op ∧ c.phase ≠ .recorded := by
  unfold State.turnOf State.turn at turn
  cases accepted : s.cmd? seq with
  | none => simp [accepted] at turn
  | some d =>
    simp only [accepted] at turn
    by_cases ready : (s.mayDispatch d && (s.aheadOf seq d).isEmpty) = true
    · simp only [ready, if_true, Option.ite_none_right_eq_some, Option.some.injEq] at turn
      obtain ⟨opcode, rfl⟩ := turn
      refine ⟨rfl, opcode, fun recorded => ?_⟩
      simp [State.mayDispatch, recorded] at ready
    · simp [ready] at turn

/-- A command that ends after accesses to memory alone: its record is the only one more, and programs, slates and the base units
are as they were. -/
theorem State.finish_after_access {s u : State} {seq : Word} {c : Cmd} (touched : Access s u) (accepted : s.cmd? seq = some c)
    (unrecorded : c.phase ≠ .recorded) (st : Status) (res : List Byte) :
    s.ended (u.finish seq st res) seq c st res ∧ s.sameBase (u.finish seq st res) ∧ (u.finish seq st res).progs = s.progs ∧
      (u.finish seq st res).sched.slates = s.sched.slates := by
  have acceptedThere : u.cmd? seq = some c := by rw [State.cmd?, touched.cmds]; exact accepted
  obtain ⟨⟨r, recs, answers⟩, gone⟩ := State.finish_ended acceptedThere unrecorded st res
  obtain ⟨⟨boot, gaf, mod, flt⟩, progs, -, -, slates⟩ := State.finish_keeps u seq st res
  exact ⟨⟨⟨r, recs.trans (by rw [touched.host]), answers⟩, gone⟩,
    ⟨boot.trans touched.boot, gaf.trans touched.gaf, mod.trans touched.mod, flt.trans touched.flt_base⟩, progs.trans touched.progs,
    slates.trans (by rw [touched.sched])⟩

/-- Noting a use of translations changes no fabric request. -/
@[simp] theorem State.noteUse_fab (s : State) (va n : Nat) : (s.noteUse va n).fab = s.fab := by
  unfold State.noteUse
  split <;> rfl

/-- A command none of whose writes awaits a response ends at once. -/
theorem State.finishWritten_answered {s : State} {seq : Word} (answered : s.writesOut seq = false) (st : Status) (res : List Byte) :
    s.finishWritten seq st res = s.finish seq st res := by
  simp [State.finishWritten, answered]

/-! ### QUERY (R508, R509) -/

@[simp] theorem leBytes_length (n v : Nat) : (leBytes n v).length = n := by
  induction n generalizing v with
  | zero => rfl
  | succ n ih => simp [leBytes, ih]

@[simp] theorem slice_length (bs : List Byte) (off n : Nat) : (slice bs off n).length = n := by
  simp only [slice, List.length_append, List.length_take, List.length_drop, List.length_replicate]
  omega

/-- One byte for each of some units. -/
theorem bytePerUnit_length (n : Nat) (f : Nat → Nat) : ((List.range n).flatMap (fun k => leBytes 1 (f k))).length = n := by
  simp only [List.length_flatMap, leBytes_length, List.map_const', List.length_range, List.sum_replicate_nat, Nat.mul_one]

/-- A device report has 128 bytes (R509). -/
theorem State.deviceReport_length (s : State) : s.deviceReport.length = 128 := by
  simp only [State.deviceReport, List.length_append, bytePerUnit_length, leBytes_length, List.length_replicate]

/-- A take's entry has 64 bytes (R35). -/
theorem Take.report_length (t : Take) : t.report.length = 64 := by
  simp only [Take.report, List.length_append, leBytes_length, slice_length, List.length_replicate]

/-- A reel's entry has 64 bytes (R92). -/
theorem Reel.report_length (r : Reel) : r.report.length = 64 := by
  simp only [Reel.report, List.length_append, leBytes_length, List.length_replicate]

/-- A batch sequence's entry has 32 bytes (R136). -/
theorem SeqEnt.report_length (q : SeqEnt) : q.report.length = 32 := by
  simp only [SeqEnt.report, List.length_append, leBytes_length]

/-- A QUERY of the kind its record names, its turn come, is answered with the report of that kind. -/
theorem State.queryTurn_of_turn {s : State} {seq : Word} {c : Cmd} (turn : s.turnOf seq 0x51 = some c) {kind : Nat}
    (named : c.fieldN 24 1 = kind) (n : Nat) (report : Nat → Option (List Byte)) :
    s.queryTurn seq kind n report = s.query seq c n (report (c.fieldN 28 4)) := by
  simp [State.queryTurn, turn, named]

/-- A QUERY whose destination takes its report completes with the report's bytes. -/
theorem State.query_written {s s' : State} {seq : Word} {c : Cmd} {r : List Byte}
    (reachable : s.firstOwnBad seq [⟨c.fieldN 32 8, r.length, true, 64⟩] = none) (fits : r.length ≤ c.fieldN 40 4)
    (wrote : s.writeVA (accOf seq) (c.fieldN 32 8) r false = some s') (answered : s'.writesOut seq = false) :
    s.query seq c r.length (some r) = (s'.noteUse (c.fieldN 32 8) r.length).finish seq .ok (resultOf [(4, r.length)]) := by
  have stillAnswered : (s'.noteUse (c.fieldN 32 8) r.length).writesOut seq = false := by
    simpa [State.writesOut] using answered
  simp [State.query, reachable, Nat.not_lt.mpr fits, State.writeFor, wrote, State.finishWritten_answered stillAnswered]

/-- A QUERY of an identifier that names nothing ends with ZERO_EXTENT, whatever its addresses (log entry 82). -/
theorem State.query_stale (s : State) (seq : Word) (c : Cmd) (n : Nat) : s.query seq c n none = s.finish seq .zeroExtent [] := by
  simp [State.query, State.finishBare]

section
variable {s : State} {seq : Word} {c : Cmd} (turn : s.turnOf seq 0x51 = some c)
include turn

/-- What a QUERY whose report is written leaves: its own end after accesses to memory alone. -/
theorem query_completes {s' : State} {r : List Byte} (reachable : s.firstOwnBad seq [⟨c.fieldN 32 8, r.length, true, 64⟩] = none)
    (fits : r.length ≤ c.fieldN 40 4) (wrote : s.writeVA (accOf seq) (c.fieldN 32 8) r false = some s')
    (answered : s'.writesOut seq = false) {i : Instr} (asks : exec i s = .next (s.query seq c r.length (some r))) :
    ∃ t, exec i s = .next t ∧ t = (s'.noteUse (c.fieldN 32 8) r.length).finish seq .ok (resultOf [(4, r.length)]) ∧
      s.ended t seq c .ok (resultOf [(4, r.length)]) ∧ s.sameBase t ∧ t.progs = s.progs ∧ t.sched.slates = s.sched.slates := by
  obtain ⟨accepted, -, unrecorded⟩ := State.turnOf_some turn
  have written : Access s s' := (State.writeVA_access s _ _ _ _ (Access.refl s)).get wrote
  have noted := State.noteUse_access s' (c.fieldN 32 8) r.length written
  exact ⟨_, asks.trans (congrArg _ (State.query_written reachable fits wrote answered)), rfl,
    State.finish_after_access noted accepted unrecorded _ _⟩

/-- What a QUERY of an identifier that names nothing leaves: its own end. -/
theorem query_completes_stale {n : Nat} {i : Instr} (asks : exec i s = .next (s.query seq c n none)) :
    ∃ t, exec i s = .next t ∧ s.ended t seq c .zeroExtent [] ∧ s.sameBase t := by
  obtain ⟨accepted, -, unrecorded⟩ := State.turnOf_some turn
  obtain ⟨ended, base, -⟩ := State.finish_after_access (Access.refl s) accepted unrecorded .zeroExtent []
  exact ⟨_, asks.trans (congrArg _ (State.query_stale s seq c n)), ended, base⟩

theorem exec_queryDevice (kind : c.fieldN 24 1 = 0) : exec (.queryDevice seq) s = .next (s.query seq c 128 (some s.deviceReport)) :=
  congrArg _ (State.queryTurn_of_turn turn kind _ _)

theorem exec_queryTake (kind : c.fieldN 24 1 = 1) :
    exec (.queryTake seq) s = .next (s.query seq c 64 ((s.takeOf (c.fieldN 28 4)).map (fun t => (s.take t).report))) :=
  congrArg _ (State.queryTurn_of_turn turn kind _ _)

theorem exec_queryReel (kind : c.fieldN 24 1 = 2) :
    exec (.queryReel seq) s = .next (s.query seq c 64 ((s.reelOf (c.fieldN 28 4)).map (fun i => (s.reel i).report))) :=
  congrArg _ (State.queryTurn_of_turn turn kind _ _)

theorem exec_querySequence (kind : c.fieldN 24 1 = 3) :
    exec (.querySequence seq) s = .next (s.query seq c 32 ((s.seqOf (c.fieldN 28 4)).map (fun i => (s.seqEnt i).report))) :=
  congrArg _ (State.queryTurn_of_turn turn kind _ _)

end

/-- Settles O8: each kind's row asks for that kind's report, of the kind's length; a report that is there is written and the command
ends after accesses to memory alone, and one that is not ends it with ZERO_EXTENT, its addresses not looked at (log entry 82). -/
theorem queriesAnswer : Obligations.QueriesAnswer := by
  constructor
  · intro seq s s' c i r turn reachable room wrote answered
    have completes := fun j asks => query_completes turn reachable room wrote answered (i := j) asks
    refine ⟨fun kind hr => completes _ ?_, fun kind live hr => completes _ ?_, fun kind live hr => completes _ ?_,
      fun kind live hr => completes _ ?_⟩
    · rw [exec_queryDevice turn kind, hr, State.deviceReport_length]
    · rw [exec_queryTake turn kind, live, hr, Take.report_length, Option.map_some]
    · rw [exec_queryReel turn kind, live, hr, Reel.report_length, Option.map_some]
    · rw [exec_querySequence turn kind, live, hr, SeqEnt.report_length, Option.map_some]
  · intro seq s c turn
    have completes := fun j n asks => query_completes_stale turn (n := n) (i := j) asks
    refine ⟨fun kind stale => completes _ 64 ?_, fun kind stale => completes _ 64 ?_, fun kind stale => completes _ 32 ?_⟩
    · rw [exec_queryTake turn kind, stale, Option.map_none]
    · rw [exec_queryReel turn kind, stale, Option.map_none]
    · rw [exec_querySequence turn kind, stale, Option.map_none]

end Sys2Proof.Machine
end

section
/-! Host writes of registers (O17): one lemma per outcome of a write, one equation per register. -/

namespace Sys2Proof.Machine

/-- A violation is the newest of the log. -/
theorem State.violation_logged (s : State) (kind where_ addr : Nat) : s.logged kind where_ addr (s.violation kind where_ addr) :=
  ⟨rfl, rfl, Tab.at_put_same _ _ _ _⟩

section
variable {dword : BitVec 24} {v : Word} {s : State} (good : s.mod.good = true)
include good

/-- A write of a register whose block serves has the register's effect. -/
theorem exec_registerWrite_serving {off b o : Nat} {t : State} (at_ : 4 * dword.toNat = off) (effect : s.regWrite b o v.toNat = t)
    (block : blockIx off = b) (offset : off - blockBase b = o) (present : regExists b o = true) (unheld : s.ideHolds = false)
    (serves : s.serves (regServe b o) = true) : exec (.registerWrite dword v false) s = .next t := by
  subst at_ block offset effect
  simp [exec, execRegisterWrite, State.barWrite, good, unheld, present, serves]

/-- A write of an offset that holds no register is violation 5. -/
theorem exec_registerWrite_absent {off : Nat} (at_ : 4 * dword.toNat = off)
    (absent : regExists (blockIx off) (off - blockBase (blockIx off)) = false) (unheld : s.ideHolds = false) :
    exec (.registerWrite dword v false) s = .next (s.violation 5 (blockIx off) off) := by
  subst at_
  simp [exec, execRegisterWrite, State.barWrite, good, unheld, absent]

/-- A write that IDE holds back is violation 15. -/
theorem exec_registerWrite_held {off : Nat} (at_ : 4 * dword.toNat = off) (held : s.ideHolds = true) :
    exec (.registerWrite dword v false) s = .next (s.violation 15 (blockIx off) off) := by
  subst at_
  simp [exec, execRegisterWrite, State.barWrite, good, held]

/-- A poisoned write is violation 3 and reported through AER; it comes before the check of IDE (log entry 74). -/
theorem exec_registerWrite_poisoned {off : Nat} (at_ : 4 * dword.toNat = off) :
    exec (.registerWrite dword v true) s =
      .next ((s.updHost (fun h => { h with aer := { h.aer with poisoned := true } })).violation 3 (blockIx off) off) := by
  subst at_
  simp [exec, execRegisterWrite, good]

end

theorem State.regWrite_waitLimit (s : State) (v : Nat) :
    s.regWrite 11 0 v = { s with sched := { s.sched with regs := { s.sched.regs with waitLimit := BitVec.ofNat 24 v } } } := rfl

theorem State.regWrite_scrubHours (s : State) (v : Nat) :
    s.regWrite 9 0x40 v = { s with hbm := { s.hbm with scrubHours := BitVec.ofNat 8 v } } := rfl

theorem State.regWrite_fabTimeout (s : State) (v : Nat) :
    s.regWrite 12 0x3C v = { s with fab := { s.fab with timeout := BitVec.ofNat 16 v } } := rfl

theorem State.regWrite_xresBaseLow (s : State) (v : Nat) : s.regWrite 0 0x10 v =
    { s with host := { s.host with xresBase := BitVec.ofNat 64 ((s.host.xresBase.toNat / 2 ^ 32 * 2 ^ 32 + v) % 2 ^ 57) } } := rfl

theorem State.regWrite_faultIrq (s : State) (v : Nat) :
    s.regWrite 6 4 v = { s with flt := { s.flt with irq := v.testBit 0, vector := BitVec.ofNat 6 (v / 2) } } := rfl

theorem State.regWrite_coreEcc (s : State) (n v : Nat) :
    s.regWrite 15 (0x10000 * n + 0xC) v = { s with flt := { s.flt with ecc := Tab.put s.flt.ecc n (BitVec.ofNat 16 v) } } := by
  have register : (0x10000 * n + 0xC) % 0x10000 = 0xC := by omega
  have core : (0x10000 * n + 0xC) / 0x10000 = n := by omega
  simp [State.regWrite, State.coreWrite, register, core]

/-- Without FORCE_WAKE no bank is woken. -/
theorem State.regWrite_retention (s : State) {v : Nat} (unforced : v.testBit 16 = false) : s.regWrite 8 0x50 v =
    { s with mem := { s.mem with regs := { s.mem.regs with idleUs := BitVec.ofNat 16 v, forceWake := false } } } := by
  show s.retCtl v = _
  simp [State.retCtl, State.mapRegs, unforced]

/-- An address of 57 bits after its low dword is written: the bits above that dword stand. -/
theorem xresBase_lowDword (old : Nat) {v : Nat} (hv : v < 2 ^ 32) :
    (BitVec.ofNat 64 ((old / 2 ^ 32 * 2 ^ 32 + v) % 2 ^ 57)).toNat = old / 2 ^ 32 * 2 ^ 32 % 2 ^ 57 + v := by
  rw [BitVec.toNat_ofNat]
  omega

/-- The register of a core's error count lies in its own block (R521). -/
theorem blockIx_coreEcc {n : Nat} (h : n < 544) : blockIx (0x1000000 + 0x10000 * n + 0xC) = 15 := by
  have above : ∀ {lo hi : Nat}, hi ≤ 0x1000000 → ¬ (lo ≤ 0x1000000 + 0x10000 * n + 0xC ∧ 0x1000000 + 0x10000 * n + 0xC < hi) := by omega
  have inside : 0x1000000 ≤ 0x1000000 + 0x10000 * n + 0xC ∧ 0x1000000 + 0x10000 * n + 0xC < 0x3200000 := by omega
  have high : ¬ 0x1000000 + 0x10000 * n + 0xC < 0xB0000 := by omega
  rw [blockIx, if_neg high, if_neg (above (by decide)), if_neg (above (by decide)), if_neg (above (by decide)),
    if_neg (above (by decide)), if_pos inside]

/-- Settles O17: the offset of each register named gives its block, the block its effect. WHERE of an offset in no block (log entry 25),
a 64-bit base written by dwords (entries 53 and 54) and a poisoned write before IDE (entry 74) are the model's choices. -/
theorem registersWrite : Obligations.RegistersWrite := by
  intro dword v s good off w
  have serving := fun {o b r : Nat} {t : State} =>
    exec_registerWrite_serving (dword := dword) (v := v) (t := t) good (off := o) (b := b) (o := r)
  refine ⟨fun unheld => ⟨fun at_ serves => ?waitLimit, fun at_ serves => ?scrubHours, fun at_ serves => ?timeout,
    fun at_ serves => ?xresBase, fun at_ serves => ?faultIrq, fun n hn at_ serves => ?ecc, fun at_ serves unforced => ?retention,
    fun absent => ?absent⟩, fun held => ?held, ?poisoned⟩
  case waitLimit =>
    exact ⟨_, serving at_ (s.regWrite_waitLimit _) rfl rfl rfl unheld serves, BitVec.toNat_ofNat _ _, rfl⟩
  case scrubHours =>
    exact ⟨_, serving at_ (s.regWrite_scrubHours _) rfl rfl rfl unheld serves, BitVec.toNat_ofNat _ _, rfl⟩
  case timeout =>
    exact ⟨_, serving at_ (s.regWrite_fabTimeout _) rfl rfl rfl unheld serves, BitVec.toNat_ofNat _ _, rfl⟩
  case xresBase =>
    exact ⟨_, serving at_ (s.regWrite_xresBaseLow _) rfl rfl rfl unheld serves, xresBase_lowDword _ v.isLt, rfl⟩
  case faultIrq =>
    exact ⟨_, serving at_ (s.regWrite_faultIrq _) rfl rfl rfl unheld serves, rfl, BitVec.toNat_ofNat _ _, rfl⟩
  case ecc =>
    have offset : 0x1000000 + 0x10000 * n + 0xC - blockBase 15 = 0x10000 * n + 0xC := by
      rw [show blockBase 15 = 0x1000000 from rfl, Nat.add_assoc, Nat.add_sub_cancel_left]
    have present : regExists 15 (0x10000 * n + 0xC) = true := by
      simp only [regExists, decide_eq_true_eq]
      omega
    refine ⟨_, serving at_ (s.regWrite_coreEcc n _) (blockIx_coreEcc hn) offset present unheld serves, ?_, rfl⟩
    exact (congrArg BitVec.toNat (Tab.at_put_same _ _ _ _)).trans (BitVec.toNat_ofNat _ _)
  case retention =>
    exact ⟨_, serving at_ (s.regWrite_retention unforced) rfl rfl rfl unheld serves, BitVec.toNat_ofNat _ _, rfl, rfl⟩
  case absent =>
    exact ⟨_, exec_registerWrite_absent good rfl absent unheld, s.violation_logged _ _ _, rfl⟩
  case held =>
    exact ⟨_, exec_registerWrite_held good rfl held, s.violation_logged _ _ _, rfl⟩
  case poisoned =>
    exact ⟨_, exec_registerWrite_poisoned good rfl, rfl, State.violation_logged _ _ _ _, rfl⟩

end Sys2Proof.Machine
end

section
/-! The machine's step (O1, O2) and the queue behind a command (O6). -/

namespace Sys2Proof.Machine

/-- Settles O1: the step's equation for a queue with a front. -/
theorem stepTakesFront : Obligations.StepTakesFront := by
  intro c rest s front
  exact step_of_front front

/-- Settles O2: the step's equation for an empty queue, whose µs of the model's clock is log entries 1 and 2's choice. -/
theorem emptyQueueIdles : Obligations.EmptyQueueIdles := by
  intro s empty
  exact step_of_empty empty

/-- Settles O6: what every command keeps (`exec_kept`) begins with the queue behind it. -/
theorem execKeepsQueue : Obligations.ExecKeepsQueue := by
  intro c s t next
  have kept : Kept s t := keptO_get (exec_kept c s (Kept.refl s)) next
  exact kept.queue

end Sys2Proof.Machine
end

section
/-! The intake (O11): the write that completes a record, and the record accepted. -/

namespace Sys2Proof.Machine

/-! ### Intake slots and accepted commands after a write -/

@[simp] theorem State.slot_setSlot_same (s : State) (i : Nat) (v : Slot) : (s.setSlot i v).slot i = v := Tab.at_put_same _ _ _ _

theorem State.slot_setSlot_ne (s : State) {i j : Nat} (v : Slot) (other : j ≠ i) : (s.setSlot i v).slot j = s.slot j :=
  Tab.at_put_ne _ _ _ other

@[simp] theorem State.cmd?_setCmd_same (s : State) (seq : Word) (c : Cmd) : (s.setCmd seq c).cmd? seq = some c := Tab.find_put_same _ _ _

theorem State.cmd?_setCmd_ne (s : State) {seq q : Word} (c : Cmd) (other : q ≠ seq) : (s.setCmd seq c).cmd? q = s.cmd? q :=
  Tab.find_put_ne _ _ (fun same => other (BitVec.eq_of_toNat_eq same))

/-! ### The write that completes a record (R489) -/

/-- A write of all 64 bytes leaves nothing of the record before it. -/
theorem overlay_whole (old : List Byte) {data : List Byte} (whole : data.length = 64) : overlay old 0 data = data := by
  have before : slice old 0 0 = [] := List.length_eq_zero_iff.mp (slice_length old 0 0)
  have behind : (slice old 0 64).drop 64 = [] := List.drop_eq_nil_of_le (Nat.le_of_eq (slice_length old 0 64))
  rw [overlay, before, whole, Nat.zero_add, behind, List.nil_append, List.append_nil]

/-- A write that completes a record has that record checked. -/
theorem State.recordWrite_of_completesRecord {s : State} {slot lo : Nat} {data rec : List Byte}
    (completes : s.completesRecord slot lo data rec) : s.recordWrite slot lo data = s.checkRecord slot rec := by
  rcases completes with ⟨unfilled, rfl, whole, rfl⟩ | ⟨mask, old, poisoned, filling, full, rfl⟩
  · have full : runMask 0 64 = BitVec.allOnes 64 := by decide
    rcases unfilled with empty | ⟨w, receipt⟩
    · simp [State.recordWrite, empty, whole, full, overlay_whole]
    · simp [State.recordWrite, receipt, whole, full, overlay_whole]
  · simp [State.recordWrite, filling, full]

/-- A write within the record bytes of one slot reaches that slot's record (R488). -/
theorem exec_intakeWrite_within {off : BitVec 20} {data : List Byte} (nonempty : data ≠ []) (within : off.toNat % 256 + data.length ≤ 64)
    (s : State) : exec (.intakeWrite off data false) s = .next (s.recordWrite (off.toNat / 256) (off.toNat % 256) data) := by
  have bytes : 0 < data.length := List.length_pos_iff.mpr nonempty
  have oneSlot : (off.toNat + data.length - 1) / 256 = off.toNat / 256 := by omega
  simp [exec, execIntakeWrite, nonempty, oneSlot, Nat.not_lt.mpr within]

/-! ### Acceptance (R491, R493) -/

/-- A record that nothing rejects is accepted. -/
theorem State.checkRecord_of_unrejected {s : State} {slot : Nat} {rec : List Byte} (unrejected : s.rejectReason rec false = none) :
    s.checkRecord slot rec = s.accept slot rec := by
  simp [State.checkRecord, unrejected]

/-- The entry an accepted record gets: ready at once where its wait slate's count already meets its target. -/
def State.entryOf (s : State) (slot : Nat) (rec : List Byte) : Cmd :=
  let c : Cmd := { gen := s.host.gen, slot := slot, record := rec }
  { c with readyAt := if s.readyNow c then some s.nowUs else none }

/-- Acceptance changes the host's edge and the accepted commands only. -/
theorem State.accept_frame (s : State) (slot : Nat) (rec : List Byte) :
    s.accept slot rec = { s with host := (s.accept slot rec).host, cmds := (s.accept slot rec).cmds } := rfl

theorem State.accept_cmd?_same (s : State) (slot : Nat) (rec : List Byte) :
    (s.accept slot rec).cmd? s.host.nextSeq = some (s.entryOf slot rec) := State.cmd?_setCmd_same _ _ _

theorem State.accept_cmd?_ne (s : State) (slot : Nat) (rec : List Byte) {q : Word} (other : q ≠ s.host.nextSeq) :
    (s.accept slot rec).cmd? q = s.cmd? q := State.cmd?_setCmd_ne (s.setSlot slot _) _ other

theorem State.accept_slot_same (s : State) (slot : Nat) (rec : List Byte) :
    (s.accept slot rec).slot slot = .receipt ((s.entryOf slot rec).handle s.host.nextSeq) := State.slot_setSlot_same s slot _

theorem State.accept_slot_ne (s : State) {slot j : Nat} (rec : List Byte) (other : j ≠ slot) :
    (s.accept slot rec).slot j = s.slot j := State.slot_setSlot_ne s _ other

/-- Settles O11: the write completes the record, the check finds no reason against it, and acceptance says the rest. -/
theorem intakeAccepts : Obligations.IntakeAccepts := by
  intro off data rec s slot lo nonempty within completes unrejected seq c c'
  have accepts : exec (.intakeWrite off data false) s = .next (s.accept slot rec) := by
    rw [exec_intakeWrite_within nonempty within, State.recordWrite_of_completesRecord completes, State.checkRecord_of_unrejected unrejected]
  exact ⟨_, accepts, s.accept_cmd?_same slot rec, s.accept_slot_same slot rec, rfl, rfl, rfl,
    fun _ other => s.accept_cmd?_ne slot rec other, fun _ other => s.accept_slot_ne rec other, s.accept_frame slot rec⟩

end Sys2Proof.Machine
end

section
/-! Completion records (O14): the oldest record on its way to a queue becomes visible, or its write fails. -/

namespace Sys2Proof.Machine

@[simp] theorem State.queue_setQueue_same (s : State) (q : Nat) (v : CplQueue) : (s.setQueue q v).queue q = v := Tab.at_put_same _ _ _ _

/-! ### A record's interrupt (R517) -/

/-- A vector changes its pending bit or sends a message. -/
theorem State.sendVector_frame (s : State) (v : Nat) :
    s.sendVector v = { s with host := { s.host with pba := (s.sendVector v).host.pba }, out := (s.sendVector v).out } := by
  simp only [State.sendVector]
  split <;> rfl

/-- A record's interrupt changes the queues' holdoffs, the vectors' pending bits and what was sent only. -/
theorem State.recordIrq_frame (s : State) (q : Nat) (irq : Bool) :
    s.recordIrq q irq =
      { s with
        host := { s.host with queues := (s.recordIrq q irq).host.queues, pba := (s.recordIrq q irq).host.pba }
        out := (s.recordIrq q irq).out } := by
  simp only [State.recordIrq, State.queueIrq]
  split
  · split
    · rfl
    · rw [State.sendVector_frame]
      rfl
  · rfl

/-- A record's interrupt leaves its queue as it was, but for its holdoff. -/
theorem State.recordIrq_queue (s : State) (q : Nat) (irq : Bool) :
    ∃ quiet owed, (s.recordIrq q irq).queue q = { s.queue q with quiet := quiet, owed := owed } := by
  simp only [State.recordIrq, State.queueIrq]
  split
  · split <;> exact ⟨_, _, State.queue_setQueue_same _ _ _⟩
  · exact ⟨_, _, rfl⟩

/-! ### A record counted and signalled (R21, R513) -/

/-- The events of a record made visible are counted. -/
def State.recordEvents (s : State) (r : CplRec) : State :=
  let s := s.bump .io 0x044 1
  if r.flags = 0 then s else s.bump .io 0x045 1

/-- A record's signal slate counts. -/
def State.recordSignal (s : State) (r : CplRec) : State :=
  match r.signal with
  | some i => (s.slateAsk .io i .signal 0 0).1
  | none => s

/-- Counting a record's events changes the dailies only. -/
theorem State.recordEvents_frame (s : State) (r : CplRec) : s.recordEvents r = { s with perf := (s.recordEvents r).perf } := by
  simp only [State.recordEvents]
  split
  · exact State.bump_eq _ _ _ _
  · rw [State.bump_eq, State.bump_eq s]

/-- A record's signal leaves the host's edge and the memories alone. -/
theorem State.recordSignal_keeps (s : State) (r : CplRec) :
    (s.recordSignal r).host = s.host ∧ (s.recordSignal r).mem = s.mem ∧ (s.recordSignal r).hbm = s.hbm := by
  unfold State.recordSignal
  split
  next i _ =>
    have carried := State.carry_swept s .io (.die (i / 32768)) (Swept.refl s)
    have applied := State.slateApply_slated (s.carry .io (.die (i / 32768))) i .signal 0 0 (Slated.refl _)
    exact ⟨applied.host.trans carried.host, applied.mem.trans carried.mem, applied.hbm.trans carried.hbm⟩
  next => exact ⟨rfl, rfl, rfl⟩

/-- Of the slates, a record's signal moves its signal slate on, by one. -/
theorem State.slate_recordSignal (s : State) (r : CplRec) (j : Nat) :
    (s.recordSignal r).slate j = if r.signal = some j then s.slate j + 1 else s.slate j := by
  unfold State.recordSignal
  cases r.signal with
  | none => rfl
  | some i =>
    rw [(State.slate_slateAsk s .io i .signal 0 0 j).1, SlateOp.apply]
    by_cases same : j = i
    · rw [if_pos same, if_pos (congrArg some same.symm), same]
    · rw [if_neg same, if_neg (fun e => same (Option.some.inj e).symm)]

/-- A record made visible is counted, then signalled. -/
def State.recordCounted (s : State) (r : CplRec) : State := (s.recordEvents r).recordSignal r

theorem State.recordCounted_keeps (s : State) (r : CplRec) :
    (s.recordCounted r).host = s.host ∧ (s.recordCounted r).mem = s.mem ∧ (s.recordCounted r).hbm = s.hbm := by
  rw [State.recordCounted, State.recordEvents_frame]
  exact State.recordSignal_keeps _ r

theorem State.slate_recordCounted (s : State) (r : CplRec) (j : Nat) :
    (s.recordCounted r).slate j = if r.signal = some j then s.slate j + 1 else s.slate j := by
  rw [State.recordCounted, State.recordEvents_frame]
  exact State.slate_recordSignal _ r j

/-! ### A record stored (R513) -/

/-- A queue after one record more: PROD moves on, the phase turns over with the ring. -/
def CplQueue.advanced (v : CplQueue) : CplQueue :=
  { v with prod := v.prod + 1, phase := if (v.prod + 1).toNat % v.size = 0 then !v.phase else v.phase }

/-- The state with these completion records left and a queue one record on. -/
def State.ringAdvanced (s : State) (q : Nat) (v : CplQueue) (rest : List CplRec) : State :=
  (s.updHost (fun h => { h with cpls := rest })).setQueue q v.advanced

section
variable {s : State} {q : Nat} {r : CplRec} {rest : List CplRec}
  (oldest : pullFirst (fun r => r.queue == q && r.place == .writing) s.host.cpls = some (r, rest)) (enabled : (s.queue q).enable = true)
include oldest enabled

/-- A record whose write the host takes: the ring moves on, the record is counted and its interrupt sent. -/
theorem State.recordVisible_stored {s' : State}
    (stored : s.writeVA {} ((s.queue q).base.toNat + 32 * ((s.queue q).prod.toNat % (s.queue q).size)) (r.bytes (s.queue q).phase) false =
      some s') :
    s.recordVisible q true = ((s'.ringAdvanced q (s.queue q) rest).recordCounted r).recordIrq q r.irq := by
  have on : (!(s.queue q).enable) = false := by rw [enabled, Bool.not_true]
  simp only [State.recordVisible, oldest, on, stored, Bool.false_eq_true, if_false, if_true]
  rfl

/-- A record whose write fails fails its queue. -/
theorem State.recordVisible_failed : s.recordVisible q false =
    s.queueFail q ((s.queue q).base.toNat + 32 * ((s.queue q).prod.toNat % (s.queue q).size)) := by
  simp [State.recordVisible, oldest, enabled]

end

/-! ### A queue failed (R514) -/

theorem recsIn_cons (r : CplRec) (l : List CplRec) (q : Nat) (p : CplPlace) :
    recsIn (r :: l) q p = if (r.queue == q && r.place == p) = true then r :: recsIn l q p else recsIn l q p := List.filter_cons

/-- Once as many records of a queue are kept as were on their way, none of them is on its way. -/
theorem recsIn_markHeld (q : Nat) (l : List CplRec) (free : Nat) :
    recsIn (markHeld q (recsIn l q .writing).length free l) q .writing = [] := by
  induction l generalizing free with
  | nil => simp [recsIn, markHeld]
  | cons r rest ih =>
    by_cases onWay : (r.queue == q && r.place == .writing) = true
    · have kept : ¬ (r.queue == q && (if free = 0 then CplPlace.own else .held) == .writing) = true := by split <;> simp
      rw [recsIn_cons, if_pos onWay, List.length_cons, markHeld, if_pos onWay, recsIn_cons, if_neg kept]
      exact ih (free - 1)
    · rw [recsIn_cons, if_neg onWay]
      cases count : (recsIn rest q .writing).length with
      | zero => rw [markHeld, recsIn_cons, if_neg onWay, List.length_eq_zero_iff.mp count]
      | succ n =>
        rw [markHeld, if_neg onWay, recsIn_cons, if_neg onWay, ← count]
        exact ih free

theorem State.queueFail_frame (s : State) (q va : Nat) : s.queueFail q va = { s with host := (s.queueFail q va).host } := rfl

@[simp] theorem State.queue_queueFail (s : State) (q va : Nat) :
    (s.queueFail q va).queue q = { s.queue q with enable := false, wfail := true } := State.queue_setQueue_same s q _

theorem State.queueFail_logged (s : State) (q va : Nat) : s.logged 17 q va (s.queueFail q va) := State.violation_logged (s.setQueue q _) 17 q va

theorem State.queueFail_none_onWay (s : State) (q va : Nat) : recsIn (s.queueFail q va).host.cpls q .writing = [] :=
  recsIn_markHeld q s.host.cpls _

/-- Settles O14: what a stored record's parts leave is put together from the ring's, the count's and the interrupt's; a failed write's is
the queue's failure. -/
theorem recordBecomesVisible : Obligations.RecordBecomesVisible := by
  constructor
  · intro q s s' r rest v oldest enabled stored
    have written : Access s s' := (State.writeVA_access s _ _ _ _ (Access.refl s)).get stored
    have visible := State.recordVisible_stored oldest enabled stored
    let ring := s'.ringAdvanced q.val v rest
    obtain ⟨host, mem, hbm⟩ := ring.recordCounted_keeps r
    obtain ⟨quiet, owed, interrupted⟩ := (ring.recordCounted r).recordIrq_queue q.val r.irq
    have queue : (ring.recordCounted r).queue q.val = v.advanced := by
      rw [State.queue, host]
      exact State.queue_setQueue_same _ _ _
    rw [queue] at interrupted
    refine ⟨_, congrArg Host.Outcome.next visible, ?cpls, ?prod, ?phase, ?hbm, ?mem, fun j => ?slates⟩
    case cpls =>
      rw [State.recordIrq_frame]
      exact congrArg HostIf.cpls host
    case prod => exact congrArg CplQueue.prod interrupted
    case phase => exact congrArg CplQueue.phase interrupted
    case hbm =>
      rw [State.recordIrq_frame]
      exact hbm
    case mem =>
      rw [State.recordIrq_frame]
      exact congrArg MemMgr.host mem
    case slates =>
      have unmoved : ring.slate j = s.slate j := congrArg (fun c : Sched => Tab.at c.slates j 0#32) written.sched
      rw [State.recordIrq_frame, ← unmoved]
      exact ring.slate_recordCounted r j
  · intro q s p v oldest enabled
    have failed := State.recordVisible_failed (r := p.1) (rest := p.2) oldest enabled
    refine ⟨_, congrArg Host.Outcome.next failed, ?_, ?_, ?_, s.queueFail_logged _ _, s.queueFail_none_onWay _ _, s.queueFail_frame _ _⟩ <;>
      rw [State.queue_queueFail]

end Sys2Proof.Machine
end

section
/-! Reels (O47): how a reel's entry is written, what a command at rest leaves at its end, and on these the movements and the reel
commands. -/

namespace Sys2Proof.Machine

/-! ### A reel's entry -/

@[simp] theorem State.reel_setReel_same (s : State) (i : Nat) (r : Reel) : (s.setReel i r).reel i = r := Tab.at_put_same _ _ _ _

theorem State.reel_setReel_ne (s : State) {i j : Nat} (r : Reel) (other : j ≠ i) : (s.setReel i r).reel j = s.reel j :=
  Tab.at_put_ne _ _ _ other

theorem State.reel_setReel (s : State) (i j : Nat) (r : Reel) : (s.setReel i r).reel j = if j = i then r else s.reel j :=
  Tab.at_put _ _ _ _ _

theorem State.reel_congr {s t : State} (same : t.reels = s.reels) (i : Nat) : t.reel i = s.reel i := by rw [State.reel, same, State.reel]

/-- A reel with a reference left is not released. -/
theorem State.reapReel_of_counted {s : State} {i : Nat} (counted : (s.reel i).count ≠ 0) : s.reapReel i = s :=
  if_neg fun free => counted free.1

/-! ### Movements (R97, R114) -/

/-- A reel once its rows are written. -/
def Reel.swappedIn (r : Reel) : Reel := { r with state := .resident, v := r.imgV, c := r.imgC, imgOk := true }

/-- A reel once its image is written. -/
def Reel.swappedOut (r : Reel) : Reel :=
  { r with state := .stored, place := none, imgV := r.v, imgC := r.c, imgOk := true, begun := false, v := [], c := [] }

section
variable {n : Half} {s : State}

theorem exec_reelSwapInDone (moving : (s.reel n.toNat).state = .swapIn) (counted : (s.reel n.toNat).count ≠ 0) :
    exec (.reelSwapInDone n) s = .next (s.setReel n.toNat (s.reel n.toNat).swappedIn) := by
  have kept : (s.setReel n.toNat (s.reel n.toNat).swappedIn).reapReel n.toNat = s.setReel n.toNat (s.reel n.toNat).swappedIn :=
    State.reapReel_of_counted (by rwa [State.reel_setReel_same])
  exact (if_pos moving).trans (congrArg _ kept)

theorem exec_reelSwapOutDone (moving : (s.reel n.toNat).state = .swapOut) (counted : (s.reel n.toNat).count ≠ 0) :
    exec (.reelSwapOutDone n) s = .next (s.setReel n.toNat (s.reel n.toNat).swappedOut) := by
  have kept : (s.setReel n.toNat (s.reel n.toNat).swappedOut).reapReel n.toNat = s.setReel n.toNat (s.reel n.toNat).swappedOut :=
    State.reapReel_of_counted (by rwa [State.reel_setReel_same])
  exact (if_pos moving).trans (congrArg _ kept)

/-- The state with a reel's moves over. -/
def State.moveEnded (s : State) (i : Nat) : State :=
  { s with reels := { s.reels with moves := s.reels.moves.filter (fun m => m.1 != i) } }

@[simp] theorem State.reel_moveEnded (s : State) (i j : Nat) : (s.moveEnded i).reel j = s.reel j := rfl

theorem exec_shelfMoveDone {p : ReelPlace} (under : s.reels.moves.find? (fun m => m.1 == n.toNat) = some (n.toNat, p)) :
    exec (.shelfMoveDone n) s = .next ((s.moveEnded n.toNat).setReel n.toNat { s.reel n.toNat with place := some p }) := by
  simp only [exec, execShelfMoveDone, under]
  rfl

end

/-! ### What a reel command leaves alone before its end -/

/-- An access to memory leaves alone what a command's work does. -/
theorem Access.work {s t : State} (h : Access s t) : Work s t :=
  ⟨h.pending, h.host, h.cmds, h.progs, h.boot, h.gaf, h.mod, h.nowUs, h.freeCtr, h.flt_base, by rw [h.sched]⟩

/-- The units a command's work leaves alone, the chunks and the descriptors are the same. -/
structure ReelWork (s t : State) : Prop where
  work : Work s t
  chunks : t.reels.chunks = s.reels.chunks
  dma : t.dma = s.dma

theorem ReelWork.refl (s : State) : ReelWork s s := ⟨Work.refl s, rfl, rfl⟩

theorem ReelWork.trans {s t u : State} (h : ReelWork s t) (g : ReelWork t u) : ReelWork s u :=
  ⟨h.work.trans g.work, g.chunks.trans h.chunks, g.dma.trans h.dma⟩

theorem Access.reelWork {s t : State} (h : Access s t) : ReelWork s t := ⟨h.work, by rw [h.reels], h.dma⟩

theorem foldl_reelWork {α : Type} {f : State → α → State} (each : ∀ s x, ReelWork s (f s x)) (l : List α) (s : State) :
    ReelWork s (l.foldl f s) := by
  induction l generalizing s with
  | nil => exact .refl s
  | cons x rest ih => exact (each s x).trans (ih (f s x))

/-- Of the state only reels changed, and of those no chunk. -/
theorem reelWork_of_reels (s : State) {reels : ReelMgr} (chunks : reels.chunks = s.reels.chunks) : ReelWork s { s with reels := reels } :=
  ⟨⟨rfl, rfl, rfl, rfl, rfl, rfl, rfl, rfl, rfl, rfl, rfl⟩, chunks, rfl⟩

theorem State.setReel_reelWork (s : State) (i : Nat) (r : Reel) : ReelWork s (s.setReel i r) := reelWork_of_reels s rfl

theorem State.reapReel_reelWork (s : State) (i : Nat) : ReelWork s (s.reapReel i) := by
  simp only [State.reapReel]
  split
  · exact reelWork_of_reels s rfl
  · exact .refl s

theorem State.dropReel_reelWork (s : State) (i : Nat) : ReelWork s (s.dropReel i) := by
  simp only [State.dropReel]
  split
  · exact reelWork_of_reels s rfl
  · exact (s.setReel_reelWork i _).trans (State.reapReel_reelWork _ i)

theorem State.dropSoft_reelWork (s : State) (i : Nat) : ReelWork s (s.dropSoft i) := by
  rw [State.dropSoft]
  split
  · exact (s.setReel_reelWork i _).trans (State.dropReel_reelWork _ i)
  · exact .refl s

theorem State.wakeBank_reelWork (s : State) (b : Nat × Nat × Nat) : ReelWork s (s.wakeBank b) := by
  rw [State.wakeBank, State.bump_eq]
  split
  · exact ⟨⟨rfl, rfl, rfl, rfl, rfl, rfl, rfl, rfl, rfl, rfl, rfl⟩, rfl, rfl⟩
  · exact .refl s

theorem State.moveReel_reelWork (s : State) (i : Nat) (p : ReelPlace) : ReelWork s (s.moveReel i p) := by
  have woken := foldl_reelWork (fun s b => s.wakeBank_reelWork (0, p.core, b)) (List.range 16) s
  rw [State.moveReel]
  generalize (List.range 16).foldl (fun s b => s.wakeBank (0, p.core, b)) s = u at woken ⊢
  exact woken.trans (reelWork_of_reels u rfl)

theorem State.evict_reelWork (s : State) (i : Nat) : ReelWork s (s.evict i) := by
  simp only [State.evict]
  split
  · split
    · exact .refl s
    · split
      · exact s.moveReel_reelWork i _
      · exact s.setReel_reelWork i _
  · exact .refl s

theorem State.bringIn_reelWork (s : State) (i : Nat) : ReelWork s (s.bringIn i) := by
  simp only [State.bringIn]
  split
  · refine (reelWork_of_reels s ?_).trans (State.setReel_reelWork _ i _)
    rfl
  · split
    · refine (reelWork_of_reels s ?_).trans (State.evict_reelWork _ _)
      rfl
    · exact reelWork_of_reels s rfl

/-! ### The end of a command at rest -/

/-- A command's end after work of its own makes the one record more. -/
theorem State.finish_after_work {s u : State} {seq : Word} {c : Cmd} (worked : Work s u) (accepted : s.cmd? seq = some c)
    (unrecorded : c.phase ≠ .recorded) (st : Status) (res : List Byte) : s.ended (u.finish seq st res) seq c st res := by
  have acceptedThere : u.cmd? seq = some c := by rw [State.cmd?, worked.cmds]; exact accepted
  obtain ⟨⟨r, recs, answers⟩, gone⟩ := State.finish_ended acceptedThere unrecorded st res
  exact ⟨⟨r, recs.trans (by rw [worked.host]), answers⟩, gone⟩

theorem State.dropReqs_slated (s : State) (seq : Word) : Slated s (s.dropReqs seq) := by
  have sent : Slated s (s.cancelWaits (fun r => r.seq == seq)) := by
    rw [State.cancelWaits]
    refine foldl_slated (fun u r sent => State.sendFrame_slated u _ sent) _ ?_
    rw [slated_mk]
    exact slatedMk_of (Slated.refl s)
  rw [State.dropReqs, slated_mk]
  exact slatedMk_of sent

/-- A command without chunks gives no reel up. -/
theorem State.dropChunks_of_none {s : State} {seq : Word} (absent : ∀ h, h ∈ s.reels.chunks → h.seq ≠ seq) : s.dropChunks seq = s := by
  have others : s.reels.chunks.filter (fun h => h.seq != seq) = s.reels.chunks :=
    List.filter_eq_self.mpr fun h mem => by simpa using absent h mem
  have mine : s.reels.chunks.filter (fun h => h.seq == seq && h.running) = [] :=
    List.filter_eq_nil_iff.mpr fun h mem => by simp [absent h mem]
  have kept : s.reels.owed.filter (fun i => !([] : List Nat).contains i) = s.reels.owed := List.filter_eq_self.mpr fun _ _ => rfl
  have due : s.reels.owed.filter (fun i => ([] : List Nat).contains i) = [] := List.filter_eq_nil_iff.mpr fun _ _ => Bool.false_ne_true
  simp only [State.dropChunks, others, mine, List.flatMap_nil, List.foldl_nil, kept, due]

/-- A command has nothing that its end gives up of reels, takes or engines: it is at rest, its writes to peers aside. -/
structure Unladen (s : State) (seq : Word) (c : Cmd) : Prop where
  chunks : ∀ h, h ∈ s.reels.chunks → h.seq ≠ seq
  takes : c.takes = []
  descs : ∀ p, p ∈ s.dma.engs → ∀ q, q ∈ p.2.chans → ∀ d, d ∈ q.2.queue → d.seq ≠ seq

theorem State.atRest.unladen {s : State} {seq : Word} {c : Cmd} (rest : s.atRest seq c) : Unladen s seq c :=
  let ⟨chunks, takes, _, descs⟩ := rest
  ⟨chunks, takes, descs⟩

theorem State.atRest.answered {s : State} {seq : Word} {c : Cmd} (rest : s.atRest seq c) : s.writesOut seq = false :=
  let ⟨_, _, answered, _⟩ := rest
  answered

theorem Unladen.after {s u : State} {seq : Word} {c : Cmd} (rest : Unladen s seq c) (worked : ReelWork s u) : Unladen u seq c :=
  ⟨worked.chunks ▸ rest.chunks, rest.takes, worked.dma ▸ rest.descs⟩

/-- A command without chunks, takes and descriptors gives up nothing of the reels, the memory or the engines. -/
theorem State.stopWork_unladen {s : State} {seq : Word} {c : Cmd} (rest : Unladen s seq c) :
    (s.stopWork seq c).reels = s.reels ∧ (s.stopWork seq c).mem = s.mem ∧ (s.stopWork seq c).dma.engs = s.dma.engs := by
  obtain ⟨chunks, takes, -⟩ := rest
  have dropped : Slated (s.dropKernels seq) ((s.dropKernels seq).dropReqs seq) := State.dropReqs_slated _ seq
  have unheld : ((s.dropKernels seq).dropReqs seq).dropChunks seq = (s.dropKernels seq).dropReqs seq :=
    State.dropChunks_of_none (by rw [dropped.reels]; exact chunks)
  simp only [State.stopWork, unheld, takes, State.dropTakes, List.foldl_nil]
  exact ⟨dropped.reels, dropped.mem, congrArg Dma.engs dropped.dma⟩

/-- A command with no descriptor on any channel cancels none. -/
theorem State.cancelDma_of_none {s : State} {seq : Word} (st : Status)
    (absent : ∀ p, p ∈ s.dma.engs → ∀ q, q ∈ p.2.chans → ∀ d, d ∈ q.2.queue → d.seq ≠ seq) :
    ∃ dma, s.cancelDma (fun d => d.seq == seq) st = { s with dma := dma } := by
  have gone : s.dma.engs.flatMap (fun (p : Nat × DmaEng) => p.2.chans.flatMap (fun (q : Nat × DmaChan) =>
      (q.2.queue.filter (fun d => d.seq == seq)).map (fun d => (p.1, q.1, d)))) = [] :=
    List.flatMap_eq_nil_iff.mpr fun p eng => List.flatMap_eq_nil_iff.mpr fun q chan => List.map_eq_nil_iff.mpr <|
      List.filter_eq_nil_iff.mpr fun d queued => by simpa using absent p eng q chan d queued
  simp only [State.cancelDma, gone, List.foldl_nil]
  exact ⟨_, rfl⟩

/-- The end of such a command, one with no extended result, leaves reels and memory as they were. -/
theorem State.finish_unladen {s : State} {seq : Word} {c : Cmd} (accepted : s.cmd? seq = some c) (rest : Unladen s seq c)
    (plain : c.hasExt = false) (st : Status) (res : List Byte) :
    (s.finish seq st res).reels = s.reels ∧ (s.finish seq st res).mem = s.mem := by
  obtain ⟨reels, mem, engs⟩ := State.stopWork_unladen rest
  obtain ⟨dma, cancelled⟩ := State.cancelDma_of_none (s := s.stopWork seq c) st (engs ▸ rest.descs)
  have unwritten : ({ s.stopWork seq c with dma := dma } : State).writeExt seq c = ({ s.stopWork seq c with dma := dma }, false) := by
    simp [State.writeExt, plain]
  simp only [State.finish, accepted, cancelled, unwritten]
  split
  · exact ⟨rfl, rfl⟩
  · split <;> exact ⟨reels, mem⟩

/-- A reel command, one of no extended result whose turn has come, ends with its record after work of its own on reels and memory. -/
theorem State.finish_of_turn {s u : State} {seq : Word} {op : Nat} {c : Cmd} (turn : s.turnOf seq op = some c) (worked : ReelWork s u)
    (st : Status) (res : List Byte) : s.ended (u.finish seq st res) seq c st res := by
  obtain ⟨accepted, -, unrecorded⟩ := State.turnOf_some turn
  exact State.finish_after_work worked.work accepted unrecorded st res

/-- A reel command at rest leaves reels and memory at its end as its own work left them. -/
theorem State.finish_of_turn_at_rest {s u : State} {seq : Word} {op : Nat} {c : Cmd} (turn : s.turnOf seq op = some c)
    (reelOp : op = 0x20 ∨ op = 0x21 ∨ op = 0x22) (worked : ReelWork s u) (rest : s.atRest seq c) (st : Status) (res : List Byte) :
    (∀ j, (u.finish seq st res).reel j = u.reel j) ∧ (u.finish seq st res).mem = u.mem := by
  obtain ⟨accepted, opcode, -⟩ := State.turnOf_some turn
  have acceptedThere : u.cmd? seq = some c := by rw [State.cmd?, worked.work.cmds]; exact accepted
  have plain : c.hasExt = false := by rcases reelOp with rfl | rfl | rfl <;> simp [Cmd.hasExt, opcode]
  obtain ⟨reels, mem⟩ := State.finish_unladen acceptedThere (rest.unladen.after worked) plain st res
  exact ⟨State.reel_congr reels, mem⟩

/-! ### Ranges of host memory -/

section
variable {va n : Nat} (within : inHost va n)
include within

theorem State.xlate_host (s : State) (a : Acc) (wr : Bool) : s.xlate a va wr = (.host (va % 2 ^ 52), 2 ^ 52 - va % 2 ^ 52) := by
  rw [State.xlate, within.1]
  rfl

/-- A range in the window of host memory lies together. -/
theorem State.spans_host (nonempty : n ≠ 0) (s : State) (a : Acc) (wr : Bool) :
    s.spans a wr (n + 1) va n = [(.host (va % 2 ^ 52), va, n)] := by
  have run : max 1 (min (2 ^ 52 - va % 2 ^ 52) n) = n := by
    have fits := within.2
    omega
  obtain ⟨m, rfl⟩ := Nat.exists_eq_succ_of_ne_zero nonempty
  simp only [State.spans, nonempty, State.xlate_host within, run, if_false, Nat.sub_self, if_true]

/-- A range in host memory passes the check of a command's own addresses where it is aligned. -/
theorem State.firstOwnBad_host {align : Nat} (aligned : va % align = 0) (s : State) (seq : Word) (wr : Bool) :
    s.firstOwnBad seq [⟨va, n, wr, align⟩] = none := by
  have last : n ≠ 0 → inHost (va + n - 1) 1 := by
    obtain ⟨window, fits⟩ := within
    intro nonempty
    unfold inHost
    omega
  have good : s.ownBad seq ⟨va, n, wr, align⟩ = false := by
    by_cases empty : n = 0
    · simp [State.ownBad, aligned, empty]
    · simp [State.ownBad, aligned, State.mapped, State.xlate_host within, State.xlate_host (last empty)]
  simp [State.firstOwnBad, good]

end

/-- Bytes stored in host memory where no page moves are the bytes there after. -/
theorem State.writeVA_host {va : Nat} {bs : List Byte} (within : inHost va bs.length) (nonempty : bs ≠ []) {s : State}
    (still : migOf s.mem.migs 1 (va % 2 ^ 52) = none) (a : Acc) :
    s.writeVA a va bs false = some { s with mem := { s.mem with host := s.mem.host.writeN (va % 2 ^ 52) bs } } := by
  have bytes : bs.length ≠ 0 := fun none => nonempty (List.length_eq_zero_iff.mp none)
  simp [-Nat.reducePow, State.writeVA, State.spans_host within bytes, State.writeSpans, State.writePlace, still]

@[simp] theorem State.noteUse_host (s : State) (va n : Nat) : (s.noteUse va n).mem.host = s.mem.host := by
  unfold State.noteUse
  split <;> rfl

/-! ### EXPORT_REEL (R119 to R122) -/

/-- A reel's record ends with its CRC, so it is not empty. -/
theorem Reel.record_ne_nil (r : Reel) (id source : Nat) (v1 : Bool) (v : List Word) (c : List Half) : r.record id source v1 v c ≠ [] :=
  List.append_ne_nil_of_right_ne_nil _ (List.cons_ne_nil _ _)

section
variable {s : State} {seq : Word} {c : Cmd} {i : Nat}

theorem exec_exportReel (turn : s.turnOf seq 0x20 = some c) (named : s.reelOf (c.fieldN 24 4) = some i)
    (unpinned : (s.reel i).state ≠ .pinned) (unsaved : (s.reel i).state ≠ .saved) :
    exec (.exportReel seq) s = .next (s.exportReel seq c i) := by
  simp [exec, execExportReel, turn, named, unpinned, unsaved]

theorem State.exportReel_lost (lost : (s.reel i).state = .lost) : s.exportReel seq c i = s.finish seq .coreFenced [] := by
  simp [State.exportReel, lost, State.finishBare]

/-- The record EXPORT_REEL writes of a reel: a resident or leaving reel's values, any other's image. -/
def State.exportRecord (s : State) (c : Cmd) (i : Nat) : List Byte :=
  let r := s.reel i
  let live := r.state == .resident || r.state == .swapOut
  r.record (c.fieldN 24 4) s.fab.id.toNat (bitOf (c.fieldN 28 1) 0) (if live then r.v else r.imgV) (if live then r.c else r.imgC)

/-- The state with EXPORT_REEL's record written, its bursts counted. -/
def State.exportWritten (s : State) (dest : Nat) (record : List Byte) : State :=
  (State.noteUse { s with mem := { s.mem with host := s.mem.host.writeN (dest % 2 ^ 52) record } } dest record.length).bump
    .io 0x130 (segments dest record.length)

theorem State.exportWritten_access (s : State) (dest : Nat) (record : List Byte) : Access s (s.exportWritten dest record) := by
  refine State.bump_access _ _ _ _ (State.noteUse_access _ _ _ ?_)
  rw [access_mk]
  exact accessMk_of (Access.refl s) rfl

/-- EXPORT_REEL of a live reel into host memory, software's reference kept, writes the record and ends. -/
theorem State.exportReel_written (live : (s.reel i).state ≠ .lost) (within : inHost (c.fieldN 32 8) (s.exportRecord c i).length)
    (aligned : c.fieldN 32 8 % 64 = 0) (room : (s.exportRecord c i).length ≤ c.fieldN 40 4) (keeps : bitOf (c.fieldN 28 1) 1 = false)
    (still : migOf s.mem.migs 1 (c.fieldN 32 8 % 2 ^ 52) = none) (answered : s.writesOut seq = false) :
    s.exportReel seq c i = (s.exportWritten (c.fieldN 32 8) (s.exportRecord c i)).finish seq .ok
      (resultOf [(4, (s.exportRecord c i).length), (4, leNat ((s.exportRecord c i).drop ((s.exportRecord c i).length - 4))),
        (8, (s.reel i).steps.toNat)]) := by
  have good := State.firstOwnBad_host within aligned s seq true
  have wrote := State.writeVA_host within (Reel.record_ne_nil _ _ _ _ _ _) still (accOf seq)
  have stillAnswered : (s.exportWritten (c.fieldN 32 8) (s.exportRecord c i)).writesOut seq = false := by
    simpa [State.writesOut, State.exportWritten] using answered
  have ends := State.finishWritten_answered stillAnswered .ok
    (resultOf [(4, (s.exportRecord c i).length), (4, leNat ((s.exportRecord c i).drop ((s.exportRecord c i).length - 4))),
        (8, (s.reel i).steps.toNat)])
  unfold State.exportRecord at *
  unfold bitOf at *
  simp only [State.exportReel, live, if_false, good, Nat.not_lt.mpr room, State.writeFor, wrote, keeps, Bool.false_eq_true]
  exact ends

/-- A command at rest that ends after EXPORT_REEL's record is written leaves it in host memory, and every reel as it was. -/
theorem State.exportWritten_finish {dest : Nat} {record : List Byte} (turn : s.turnOf seq 0x20 = some c) (rest : s.atRest seq c)
    (st : Status) (res : List Byte) :
    s.ended ((s.exportWritten dest record).finish seq st res) seq c st res ∧
      ((s.exportWritten dest record).finish seq st res).mem.host = s.mem.host.writeN (dest % 2 ^ 52) record ∧
      ∀ j, ((s.exportWritten dest record).finish seq st res).reel j = s.reel j := by
  have written := s.exportWritten_access dest record
  obtain ⟨reels, mem⟩ := State.finish_of_turn_at_rest turn (.inl rfl) written.reelWork rest st res
  refine ⟨State.finish_of_turn turn written.reelWork st res, ?_, fun j => (reels j).trans (State.reel_congr written.reels j)⟩
  rw [mem, State.exportWritten, State.bump_mem, State.noteUse_host]

end

/-! ### A range read for a command -/

/-- A range that translates, its peers' bytes at hand, is read at once. -/
theorem State.readFor_ok {s : State} {a : Acc} {seq : Word} {unit va n : Nat} {b : List Byte} (ready : s.peerReady a va n = true)
    (read : s.readVA a va n = .ok b) (k : List Byte → State → State) :
    s.readFor a seq unit va n k = k b ((s.touchVA a va n).usePeers a va n) := by
  simp [State.readFor, ready, read]

theorem State.read_access (s : State) (a : Acc) (va n : Nat) : Access s ((s.touchVA a va n).usePeers a va n) :=
  State.usePeers_access _ _ _ _ (State.touchVA_access s _ _ _ (Access.refl s))

/-- Where an image goes depends on the reels and the call sheet alone. -/
theorem State.imagePlace_congr {s t : State} (touched : Access s t) (n : Nat) : t.imagePlace n = s.imagePlace n := by
  simp only [State.imagePlace, State.rushBase, State.reelBase, State.listBase, State.sheet, touched.reels, touched.boot]

theorem firstFree_congr {s t : State} (same : t.reels = s.reels) :
    firstFrom (fun j => (t.reel j).state == .free) 65536 0 = firstFrom (fun j => (s.reel j).state == .free) 65536 0 := by
  simp only [State.reel_congr same]

/-! ### IMPORT_REEL (R123 to R126) -/

/-- The events of IMPORT_REEL counted: its bursts, and a CRC that does not agree. -/
def State.importCounted (s : State) (c : Cmd) (b : List Byte) : State :=
  let s := s.bump .io 0x130 (segments (c.fieldN 32 8) (c.fieldN 40 4))
  if recordCrcOk b (c.fieldN 40 4) then s else s.bump .io 0x135 1

theorem State.importCounted_access (s : State) (c : Cmd) (b : List Byte) : Access s (s.importCounted c b) :=
  have bursts := State.bump_access s .io 0x130 (segments (c.fieldN 32 8) (c.fieldN 40 4)) (Access.refl s)
  access_ite bursts (State.bump_access _ _ _ _ bursts)

/-- The reel that IMPORT_REEL with no target makes of its record. -/
def newImport (gen : Byte) (b : List Byte) (seq : Word) (store : Nat) : Reel :=
  { importEntry { gen := gen } b seq store with count := 1, soft := true }

/-- The state with IMPORT_REEL's entry written, and a row sought for it where the command asks for one. -/
def State.importPlaced (s : State) (c : Cmd) (i : Nat) (r : Reel) : State :=
  let s := (s.setReel i r).moveEnded i
  if (c.fieldN 28 1).testBit 0 then s.bringIn i else s

theorem State.importPlaced_reelWork (s : State) (c : Cmd) (i : Nat) (r : Reel) : ReelWork s (s.importPlaced c i r) := by
  have placed : ReelWork s ((s.setReel i r).moveEnded i) := (s.setReel_reelWork i r).trans (reelWork_of_reels _ rfl)
  simp only [State.importPlaced]
  split
  · exact placed.trans (State.bringIn_reelWork _ i)
  · exact placed

section
variable {s : State} {seq : Word} {c : Cmd} {b : List Byte}

theorem exec_importReel (turn : s.turnOf seq 0x21 = some c) (unnamed : s.reelOf (c.fieldN 24 4) = none)
    (reachable : s.firstOwnBad seq [⟨c.fieldN 32 8, c.fieldN 40 4, false, 1⟩] = none)
    (ready : s.peerReady (accOf seq) (c.fieldN 32 8) (c.fieldN 40 4) = true)
    (read : s.readVA (accOf seq) (c.fieldN 32 8) (c.fieldN 40 4) = .ok b) :
    exec (.importReel seq) s = .next (((s.touchVA (accOf seq) (c.fieldN 32 8) (c.fieldN 40 4)).usePeers
      (accOf seq) (c.fieldN 32 8) (c.fieldN 40 4)).importReel seq c b) := by
  simp [exec, execImportReel, turn, unnamed, reachable, State.readFor_ok ready read]

theorem State.importReel_refused {st : Status} (refused : recordCheck b (c.fieldN 40 4) = some st) :
    s.importReel seq c b = (s.importCounted c b).finish seq st [] := by
  simp [State.importReel, State.importCounted, refused, State.finishBare]

/-- IMPORT_REEL with no target writes the lowest free entry. -/
theorem State.importReel_new {j at_ : Nat} (good : recordCheck b (c.fieldN 40 4) = none) (new : c.fieldN 24 4 = 0xFFFFFFFF)
    (free : firstFrom (fun j => (s.reel j).state == .free) 65536 0 = some j) (room : s.imagePlace (6 * recField b 8 4) = some at_) :
    s.importReel seq c b = ((s.importCounted c b).importPlaced c j (newImport (s.reel j).gen b seq at_)).finish seq .ok
      (resultOf [(4, j + 65536 * (newImport (s.reel j).gen b seq at_).gen.toNat), (4, (newImport (s.reel j).gen b seq at_).elements),
        (8, (newImport (s.reel j).gen b seq at_).steps.toNat)]) := by
  have counted := s.importCounted_access c b
  have freeThere := (firstFree_congr counted.reels).trans free
  have roomThere := (State.imagePlace_congr counted (6 * recField b 8 4)).trans room
  have gen := congrArg Reel.gen (State.reel_congr counted.reels j)
  rw [← gen]
  unfold State.importCounted at *
  simp only [State.importReel, good, new, freeThere, roomThere, if_true]
  rfl

/-- A command at rest that ends after its entry is written, no row sought for it, leaves that entry, and every other reel as it was. -/
theorem State.importPlaced_finish {u : State} {i : Nat} {r : Reel} (turn : s.turnOf seq 0x21 = some c) (rest : s.atRest seq c)
    (touched : Access s u) (stays : bitOf (c.fieldN 28 1) 0 = false) (st : Status) (res : List Byte) :
    ((u.importPlaced c i r).finish seq st res).reel i = r ∧
      ∀ j, j ≠ i → ((u.importPlaced c i r).finish seq st res).reel j = s.reel j := by
  have worked := touched.reelWork.trans (u.importPlaced_reelWork c i r)
  obtain ⟨reels, -⟩ := State.finish_of_turn_at_rest turn (.inr (.inl rfl)) worked rest st res
  have placed : u.importPlaced c i r = (u.setReel i r).moveEnded i := by
    rw [bitOf] at stays
    simp [State.importPlaced, stays]
  refine ⟨?_, fun j other => ?_⟩
  · rw [reels, placed, State.reel_moveEnded, State.reel_setReel_same]
  · rw [reels, placed, State.reel_moveEnded, State.reel_setReel_ne _ _ other, State.reel_congr touched.reels]

end

/-! ### RESET_REELS (R127) -/

theorem State.resetTurn_some {s : State} {seq : Word} {create release : Bool} {c : Cmd} (turn : s.resetTurn seq create release = some c) :
    s.turnOf seq 0x22 = some c := by
  unfold State.resetTurn at turn
  cases come : s.turnOf seq 0x22 with
  | none => simp [come] at turn
  | some d =>
    simp only [come, Option.ite_none_right_eq_some, Option.some.injEq] at turn
    rw [turn.2]

theorem State.listedReels_congr {s t : State} (same : t.reels = s.reels) (ids : List Nat) : t.listedReels ids = s.listedReels ids := by
  simp only [State.listedReels, State.reelOf, State.reel_congr same]

/-- A list of live reels, none of them pinned or moving, read for a form of RESET_REELS. -/
theorem State.resetListed_read {s : State} {seq : Word} {c : Cmd} {b : List Byte} {l : List Nat} (some_ : c.fieldN 24 2 ≠ 0)
    (few : c.fieldN 24 2 ≤ 4096) (reachable : s.firstOwnBad seq [⟨c.fieldN 40 8, 4 * c.fieldN 24 2, false, 1⟩] = none)
    (ready : s.peerReady (accOf seq) (c.fieldN 40 8) (4 * c.fieldN 24 2) = true)
    (read : s.readVA (accOf seq) (c.fieldN 40 8) (4 * c.fieldN 24 2) = .ok b)
    (listed : s.listedReels (tabulate (c.fieldN 24 2) (fun i => recField b (4 * i) 4)) = some l)
    (free : l.any (fun i => let st := (s.reel i).state; st == .pinned || st == .saved || st == .swapIn || st == .swapOut) = false)
    (f : State → List Nat → State) : s.resetListed seq c f =
      f ((s.touchVA (accOf seq) (c.fieldN 40 8) (4 * c.fieldN 24 2)).usePeers (accOf seq) (c.fieldN 40 8) (4 * c.fieldN 24 2)) l := by
  have listedThere := (State.listedReels_congr (s.read_access (accOf seq) (c.fieldN 40 8) (4 * c.fieldN 24 2)).reels _).trans listed
  simp only [State.resetListed, some_, Nat.not_lt.mpr few, reachable, State.readFor_ok ready read, listedThere, free, if_false,
    Bool.false_eq_true]

/-- Reels listed once each, changed one after another: each is changed, and no other. -/
theorem State.reel_foldl_setReel (g : Reel → Reel) {l : List Nat} (once : l.Nodup) (s : State) (j : Nat) :
    (l.foldl (fun s i => s.setReel i (g (s.reel i))) s).reel j = if j ∈ l then g (s.reel j) else s.reel j := by
  induction l generalizing s with
  | nil => rfl
  | cons i rest ih =>
    obtain ⟨unlisted, once⟩ := List.nodup_cons.mp once
    rw [List.foldl_cons, ih once, State.reel_setReel]
    by_cases here : j = i
    · subst here
      simp [unlisted]
    · simp [here]

/-- The largest of some numbers is no less than each. -/
theorem le_foldl_max (f : Nat → Nat) {l : List Nat} (m : Nat) : m ≤ l.foldl (fun m i => max m (f i)) m ∧
    ∀ i, i ∈ l → f i ≤ l.foldl (fun m i => max m (f i)) m := by
  induction l generalizing m with
  | nil => simp
  | cons j rest ih =>
    obtain ⟨above, each⟩ := ih (max m (f j))
    refine ⟨Nat.le_trans (Nat.le_max_left _ _) above, fun i listed => ?_⟩
    rcases List.mem_cons.mp listed with rfl | later
    · exact Nat.le_trans (Nat.le_max_right _ _) above
    · exact each i later

/-- The longest of some reels, in elements. -/
def State.longestOf (s : State) (l : List Nat) : Nat := l.foldl (fun m i => max m (s.reel i).elements) 0

/-- A reel reset from the front of a vector. -/
def Reel.resetFrom (v : List Word) (limit seq : Word) (r : Reel) : Reel := r.resetTo (v.take r.elements) limit seq

/-- The state with listed reels reset to zeros. -/
def State.resetAll (s : State) (l : List Nat) (limit seq : Word) : State :=
  l.foldl (fun t i => t.setReel i ((t.reel i).resetFrom (List.replicate (s.longestOf l) 0) limit seq)) s

theorem State.resetAll_reelWork (s : State) (l : List Nat) (limit seq : Word) : ReelWork s (s.resetAll l limit seq) :=
  foldl_reelWork (fun s i => s.setReel_reelWork i _) l s

/-- Reels listed once each are reset to as many zeros as each has elements. -/
theorem State.reel_resetAll (s : State) {l : List Nat} (once : l.Nodup) (limit seq : Word) (j : Nat) :
    (s.resetAll l limit seq).reel j =
      if j ∈ l then (s.reel j).resetTo (List.replicate (s.reel j).elements 0) limit seq else s.reel j := by
  rw [State.resetAll, State.reel_foldl_setReel (Reel.resetFrom _ limit seq) once]
  by_cases listed : j ∈ l
  · have long : (s.reel j).elements ≤ s.longestOf l := (le_foldl_max (fun i => (s.reel i).elements) 0).2 j listed
    rw [if_pos listed, if_pos listed, Reel.resetFrom, List.take_replicate, Nat.min_eq_left long]
  · rw [if_neg listed, if_neg listed]

/-- RESET_REELS to zeros sets every listed reel and ends with their count. -/
theorem exec_resetReels {s : State} {seq : Word} {c : Cmd} {u : State} {l : List Nat} (turn : s.resetTurn seq false false = some c)
    (zeros : c.fieldN 48 8 = 0) (reads : ∀ f, s.resetListed seq c f = f u l) :
    exec (.resetReels seq) s =
      .next ((u.resetAll l (BitVec.ofNat 32 (c.fieldN 36 4)) seq).finish seq .ok (resultOf [(2, l.length)])) := by
  simp only [exec, execResetReels, turn, reads, zeros, if_true, State.withVector]
  rfl

theorem State.resetAll_finish {s u : State} {seq : Word} {c : Cmd} {l : List Nat} (turn : s.turnOf seq 0x22 = some c)
    (touched : Access s u) (rest : s.atRest seq c) (once : l.Nodup) (limit : Word) (st : Status) (res : List Byte) :
    s.ended ((u.resetAll l limit seq).finish seq st res) seq c st res ∧
      (∀ i, i ∈ l → ((u.resetAll l limit seq).finish seq st res).reel i =
        (s.reel i).resetTo (List.replicate (s.reel i).elements 0) limit seq) ∧
      ∀ i, i ∉ l → ((u.resetAll l limit seq).finish seq st res).reel i = s.reel i := by
  have worked := touched.reelWork.trans (u.resetAll_reelWork l limit seq)
  obtain ⟨reels, -⟩ := State.finish_of_turn_at_rest turn (.inr (.inr rfl)) worked rest st res
  refine ⟨State.finish_of_turn turn worked st res, fun i listed => ?_, fun i unlisted => ?_⟩
  · rw [reels, State.reel_resetAll u once, if_pos listed, State.reel_congr touched.reels]
  · rw [reels, State.reel_resetAll u once, if_neg unlisted, State.reel_congr touched.reels]

/-! ### RESET_REELS_RELEASE (R91, R127) -/

theorem State.reel_reapReel_ne (s : State) {i j : Nat} (other : j ≠ i) : (s.reapReel i).reel j = s.reel j := by
  simp only [State.reapReel]
  split
  · exact s.reel_setReel_ne _ other
  · rfl

theorem State.reel_dropReel_ne (s : State) {i j : Nat} (other : j ≠ i) : (s.dropReel i).reel j = s.reel j := by
  simp only [State.dropReel]
  split
  · rfl
  · rw [State.reel_reapReel_ne _ other, State.reel_setReel_ne _ _ other]

theorem State.reel_dropSoft_ne (s : State) {i j : Nat} (other : j ≠ i) : (s.dropSoft i).reel j = s.reel j := by
  rw [State.dropSoft]
  split
  · rw [State.reel_dropReel_ne _ other, State.reel_setReel_ne _ _ other]
  · rfl

/-- Releasing a reel makes no reference of software's. -/
theorem State.soft_reapReel {s : State} {i : Nat} (hard : (s.reel i).soft = false) : ((s.reapReel i).reel i).soft = false := by
  simp only [State.reapReel]
  split
  · exact congrArg Reel.soft (s.reel_setReel_same i _)
  · exact hard

theorem State.soft_dropReel {s : State} {i : Nat} (hard : (s.reel i).soft = false) : ((s.dropReel i).reel i).soft = false := by
  simp only [State.dropReel]
  split
  · exact hard
  · exact State.soft_reapReel ((congrArg Reel.soft (s.reel_setReel_same i _)).trans hard)

/-- Software holds no reference it has dropped. -/
theorem State.soft_dropSoft (s : State) (i : Nat) : ((s.dropSoft i).reel i).soft = false := by
  rw [State.dropSoft]
  split
  · exact State.soft_dropReel (congrArg Reel.soft (s.reel_setReel_same i _))
  · next hard => simpa using hard

theorem State.soft_dropSoft_of_hard {s : State} {i j : Nat} (hard : (s.reel j).soft = false) : ((s.dropSoft i).reel j).soft = false := by
  by_cases here : j = i
  · rw [here, State.soft_dropSoft]
  · rwa [s.reel_dropSoft_ne here]

/-- The state with software's references to listed reels dropped. -/
def State.dropSofts (s : State) (l : List Nat) : State := l.foldl (fun s i => s.dropSoft i) s

theorem State.dropSofts_reelWork (s : State) (l : List Nat) : ReelWork s (s.dropSofts l) := foldl_reelWork State.dropSoft_reelWork l s

theorem State.reel_dropSofts_unlisted {l : List Nat} {j : Nat} (unlisted : j ∉ l) (s : State) : (s.dropSofts l).reel j = s.reel j := by
  induction l generalizing s with
  | nil => rfl
  | cons i rest ih =>
    rw [List.mem_cons, not_or] at unlisted
    exact (ih unlisted.2 (s.dropSoft i)).trans (s.reel_dropSoft_ne unlisted.1)

theorem State.soft_dropSofts_of_hard {s : State} {j : Nat} (hard : (s.reel j).soft = false) (l : List Nat) :
    ((s.dropSofts l).reel j).soft = false := by
  induction l generalizing s with
  | nil => exact hard
  | cons i rest ih => exact ih (State.soft_dropSoft_of_hard hard)

theorem State.soft_dropSofts_listed {l : List Nat} {j : Nat} (listed : j ∈ l) (s : State) : ((s.dropSofts l).reel j).soft = false := by
  induction l generalizing s with
  | nil => simp at listed
  | cons i rest ih =>
    rcases List.mem_cons.mp listed with rfl | later
    · exact State.soft_dropSofts_of_hard (s.soft_dropSoft j) rest
    · exact ih later (s.dropSoft i)

/-- RESET_REELS_RELEASE drops software's reference to every listed reel and ends with their count. -/
theorem exec_resetReelsRelease {s : State} {seq : Word} {c : Cmd} {u : State} {l : List Nat}
    (turn : s.resetTurn seq false true = some c) (reads : ∀ f, s.resetListed seq c f = f u l) :
    exec (.resetReelsRelease seq) s = .next ((u.dropSofts l).finish seq .ok (resultOf [(2, l.length)])) := by
  simp only [exec, execResetReelsRelease, turn, reads]
  rfl

theorem State.dropSofts_finish {s u : State} {seq : Word} {c : Cmd} (turn : s.turnOf seq 0x22 = some c) (touched : Access s u)
    (rest : s.atRest seq c) (l : List Nat) (st : Status) (res : List Byte) :
    s.ended ((u.dropSofts l).finish seq st res) seq c st res ∧
      (∀ i, i ∈ l → (((u.dropSofts l).finish seq st res).reel i).soft = false) ∧
      ∀ i, i ∉ l → ((u.dropSofts l).finish seq st res).reel i = s.reel i := by
  have worked := touched.reelWork.trans (u.dropSofts_reelWork l)
  obtain ⟨reels, -⟩ := State.finish_of_turn_at_rest turn (.inr (.inr rfl)) worked rest st res
  refine ⟨State.finish_of_turn turn worked st res, fun i listed => ?_, fun i unlisted => ?_⟩
  · rw [reels, State.soft_dropSofts_listed listed]
  · rw [reels, State.reel_dropSofts_unlisted unlisted, State.reel_congr touched.reels]

/-! ### RESET_REELS_CREATE (R91, R127) -/

/-- The first index found meets its test, within the range searched. -/
theorem firstFrom_some {p : Nat → Bool} {n i j : Nat} (found : firstFrom p n i = some j) : p j = true ∧ j < i + n := by
  induction n generalizing i with
  | zero => simp [firstFrom] at found
  | succ n ih =>
    rw [firstFrom] at found
    split at found
    · next meets =>
      obtain rfl := Option.some.inj found
      exact ⟨meets, by omega⟩
    · obtain ⟨meets, bound⟩ := ih found
      exact ⟨meets, by omega⟩

/-- A reel as its creation leaves it: stored, set to a vector, software holding its one reference. -/
structure Reel.Created (r : Reel) (e : Nat) (v : List Word) : Prop where
  state : r.state = .stored
  elements : r.elements = e
  count : r.count = 1
  soft : r.soft = true
  imgV : r.imgV = v

/-- Creating reels: as many IDs as asked for, each of a created reel; an entry in use is left as it was. -/
theorem State.createReels_some {seq limit : Word} {e fmt n : Nat} {v : List Word} {s s' : State} {ids : List Nat}
    (made : s.createReels seq e fmt limit v n = some (ids, s')) :
    ReelWork s s' ∧ ids.length = n ∧ (∀ id, id ∈ ids → (s'.reel (id % 65536)).Created e v) ∧
      ∀ j, (s.reel j).state ≠ .free → s'.reel j = s.reel j := by
  induction n generalizing s ids with
  | zero =>
    obtain ⟨rfl, rfl⟩ := Prod.mk.inj (Option.some.inj made)
    exact ⟨.refl s, rfl, by simp, fun _ _ => rfl⟩
  | succ n ih =>
    simp only [State.createReels] at made
    split at made
    · next i at_ found _ =>
      split at made
      · next rest s1 others =>
        obtain ⟨rfl, rfl⟩ := Prod.mk.inj (Option.some.inj made)
        obtain ⟨free, bound⟩ := firstFrom_some found
        obtain ⟨worked, count, created, kept⟩ := ih others
        have index : (i + 65536 * (s.reel i).gen.toNat) % 65536 = i := by omega
        have first := kept i (by rw [State.reel_setReel_same]; simp [Reel.resetTo])
        rw [State.reel_setReel_same] at first
        refine ⟨(s.setReel_reelWork i _).trans worked, by rw [List.length_cons, count], fun id listed => ?_, fun j used => ?_⟩
        · rcases List.mem_cons.mp listed with rfl | later
          · rw [index, first]
            exact ⟨rfl, rfl, rfl, rfl, rfl⟩
          · exact created id later
        · have other : j ≠ i := by
            rintro rfl
            exact used (by simpa using free)
          rw [kept j (by rwa [s.reel_setReel_ne _ other]), s.reel_setReel_ne _ other]
      · simp at made
    · simp at made

theorem leBytes_flatMap_ne_nil {ids : List Nat} (some_ : ids.length ≠ 0) : ids.flatMap (leBytes 4) ≠ [] := by
  cases ids with
  | nil => simp at some_
  | cons id rest => exact List.cons_ne_nil _ _

theorem exec_resetReelsCreate {s s' v : State} {seq : Word} {c : Cmd} {ids : List Nat} (turn : s.resetTurn seq true false = some c)
    (some_ : c.fieldN 24 2 ≠ 0) (few : c.fieldN 24 2 ≤ 4096) (creates : bitOf (c.fieldN 26 1) 1 = false) (long : c.fieldN 28 4 ≠ 0)
    (short : c.fieldN 28 4 ≤ 16384) (format : reelFormat (c.fieldN 32 1 % 32) ≠ none) (zeros : c.fieldN 48 8 = 0)
    (reachable : s.firstOwnBad seq [⟨c.fieldN 40 8, 4 * c.fieldN 24 2, true, 1⟩] = none) (listed : c.fieldN 40 8 ≠ 0)
    (made : s.createReels seq (c.fieldN 28 4) (c.fieldN 32 1 % 32) (BitVec.ofNat 32 (c.fieldN 36 4)) (List.replicate (c.fieldN 28 4) 0)
      (c.fieldN 24 2) = some (ids, s'))
    (wrote : s'.writeVA (accOf seq) (c.fieldN 40 8) (ids.flatMap (leBytes 4)) false = some v) (answered : v.writesOut seq = false) :
    exec (.resetReelsCreate seq) s = .next ((v.noteUse (c.fieldN 40 8) (ids.flatMap (leBytes 4)).length).finish seq .ok
      (resultOf [(2, c.fieldN 24 2)])) := by
  obtain ⟨-, count, -⟩ := State.createReels_some made
  have bytes : ids.flatMap (leBytes 4) ≠ [] := leBytes_flatMap_ne_nil (count ▸ some_)
  have known : (reelFormat (c.fieldN 32 1 % 32)).isNone = false := by
    rwa [← Bool.not_eq_true, Option.isNone_iff_eq_none]
  have stillAnswered : (v.noteUse (c.fieldN 40 8) (ids.flatMap (leBytes 4)).length).writesOut seq = false := by
    simpa [State.writesOut] using answered
  have ends := State.finishWritten_answered stillAnswered .ok (resultOf [(2, c.fieldN 24 2)])
  rw [bitOf] at creates
  simp only [exec, execResetReelsCreate, turn, some_, creates, Nat.not_lt.mpr few, long, Nat.not_lt.mpr short, known, zeros, reachable,
    State.withVector, made, State.ownList, listed, bytes, State.writeFor, wrote, ends, if_true, if_false, or_self, Bool.false_eq_true]

/-- A command at rest that ends after reels are created and their IDs written leaves every one of them as created. -/
theorem State.createReels_finish {s s' u : State} {seq limit : Word} {c : Cmd} {e fmt n : Nat} {v : List Word} {ids : List Nat}
    (turn : s.turnOf seq 0x22 = some c) (made : s.createReels seq e fmt limit v n = some (ids, s')) (written : Access s' u)
    (rest : s.atRest seq c) (st : Status) (res : List Byte) :
    s.ended (u.finish seq st res) seq c st res ∧ ids.length = n ∧
      ∀ id, id ∈ ids → ((u.finish seq st res).reel (id % 65536)).Created e v := by
  obtain ⟨worked, count, created, -⟩ := State.createReels_some made
  have worked := worked.trans written.reelWork
  obtain ⟨reels, -⟩ := State.finish_of_turn_at_rest turn (.inr (.inr rfl)) worked rest st res
  refine ⟨State.finish_of_turn turn worked st res, count, fun id listed => ?_⟩
  rw [reels, State.reel_congr written.reels]
  exact created id listed

/-- Settles O47: a movement writes one entry; each reel command ends after its work on reels and memory alone (`ReelWork`), and one at rest
leaves at its end what that work left. -/
theorem reelsMove : Obligations.ReelsMove := by
  constructor
  · intro n s r others
    refine ⟨fun moving counted => ?swapIn, fun moving counted => ?swapOut, fun p under => ?shelf⟩
    case swapIn =>
      refine ⟨_, exec_reelSwapInDone moving counted, ?_, ?_, ?_, ?_, fun j other => s.reel_setReel_ne _ other⟩ <;>
        rw [State.reel_setReel_same] <;> rfl
    case swapOut =>
      refine ⟨_, exec_reelSwapOutDone moving counted, ?_, ?_, ?_, ?_, fun j other => s.reel_setReel_ne _ other⟩ <;>
        rw [State.reel_setReel_same] <;> rfl
    case shelf =>
      refine ⟨_, exec_shelfMoveDone under, ?_, ?_, fun j other => (s.moveEnded n.toNat).reel_setReel_ne _ other⟩ <;>
        rw [State.reel_setReel_same]
  · intro seq s c i
    refine ⟨?exports, ?imports, ?resets, ?creates⟩
    case exports =>
      intro turn named unpinned unsaved
      have writes := exec_exportReel turn named unpinned unsaved
      refine ⟨writes, fun lost => ?_, ?_⟩
      · exact ⟨_, writes.trans (congrArg _ (State.exportReel_lost lost)), State.finish_of_turn turn (.refl s) .coreFenced []⟩
      · intro r live record dest unlost within aligned room rest keeps still
        exact ⟨_, writes.trans (congrArg _ (State.exportReel_written unlost within aligned room keeps still rest.answered)),
          State.exportWritten_finish turn rest _ _⟩
    case imports =>
      intro b turn new unnamed src len reachable ready read
      have reads := exec_importReel turn unnamed reachable ready read
      have touched := s.read_access (accOf seq) src len
      have counted := touched.trans (State.importCounted_access _ c b)
      refine ⟨reads, fun st refused => ?_, fun j at_ good free room rest => ?_⟩
      · exact ⟨_, reads.trans (congrArg _ (State.importReel_refused refused)), State.finish_of_turn turn counted.reelWork st []⟩
      · have makes := State.importReel_new (seq := seq) good new ((firstFree_congr touched.reels).trans free)
          ((State.imagePlace_congr touched _).trans room)
        rw [State.reel_congr touched.reels] at makes
        exact ⟨_, reads.trans (congrArg _ makes),
          State.finish_of_turn turn (counted.reelWork.trans (State.importPlaced_reelWork _ _ _ _)) _ _,
          fun stays => State.importPlaced_finish turn rest counted stays _ _⟩
    case resets =>
      intro m list bs l some_ few reachable ready read listed free u
      have reads := State.resetListed_read some_ few reachable ready read listed free
      have touched := s.read_access (accOf seq) list (4 * m)
      refine ⟨fun turn zeros => ?_, fun turn => ?_⟩
      · have sets := exec_resetReels turn zeros reads
        exact ⟨sets, fun rest once => ⟨_, sets, State.resetAll_finish (State.resetTurn_some turn) touched rest once _ _ _⟩⟩
      · have drops := exec_resetReelsRelease turn reads
        exact ⟨drops, fun rest => ⟨_, drops, State.dropSofts_finish (State.resetTurn_some turn) touched rest l _ _⟩⟩
    case creates =>
      intro ids s' v turn m e list some_ few creates long short format zeros reachable listed made wrote answered
      have makes := exec_resetReelsCreate turn some_ few creates long short format zeros reachable listed made wrote answered
      have written : Access s' v := (State.writeVA_access s' _ _ _ _ (Access.refl s')).get wrote
      have noted := State.noteUse_access v list (ids.flatMap (leBytes 4)).length written
      refine ⟨makes, fun rest => ?_⟩
      obtain ⟨ended, count, created⟩ := State.createReels_finish (State.resetTurn_some turn) made noted rest .ok (resultOf [(2, m)])
      refine ⟨_, makes, ended, count, fun id listed => ?_⟩
      obtain ⟨state, elements, references, soft, image⟩ := created id listed
      exact ⟨state, elements, references, soft, image⟩

end Sys2Proof.Machine
end

section
/-! The array queue (O36): what an instruction meets as it issues, what a HALO writes, and what starts in the queue. -/

namespace Sys2Proof.Machine

/-! ### Before an instruction: the element program under way done, an AWAIT over (R262, R263) -/

theorem State.countNum_access {i0 : State} (s : State) (w : Nat) (c : NumCnt) (hs : Access i0 s) : Access i0 (s.countNum w c) := by
  rw [State.countNum]
  iterate 5 refine State.bump_access _ _ _ _ ?_
  exact hs

theorem State.elemOut_access {i0 : State} (s : State) (k : Kern) (w : Nat) (d : ElemProg) (o y x r : Nat) (v : Word) (hs : Access i0 s) :
    Access i0 (s.elemOut k w d o y x r v) := by
  simp only [State.elemOut]
  split
  · exact hs
  · split
    · exact hs
    · exact State.countNum_access _ _ _ (State.storeVA_access _ _ _ _ hs)

theorem State.elemGroup_access {i0 : State} (s : State) (k : Kern) (w row : Nat) (d : ElemProg) (prog : List Nat) (consts : List Word)
    (gy gx : Nat) (hs : Access i0 s) : Access i0 (s.elemGroup k w row d prog consts gy gx) := by
  rw [State.elemGroup]
  refine State.bump_access _ _ _ _ (State.bump_access _ _ _ _ (State.countNum_access _ _ _ (foldl_access (fun u q hu => ?_) _ hs)))
  exact State.elemOut_access _ _ _ _ _ _ _ _ _ (State.elemOut_access _ _ _ _ _ _ _ _ _ hu)

theorem State.elemGroups_access (s : State) (k : Kern) (w : Nat) (r : ElemRun) (n : Nat) : Access s (s.elemGroups k w r n) :=
  foldl_access (fun _ _ hu => State.elemGroup_access _ _ _ _ _ _ _ _ _ hu) _ (Access.refl s)

/-- A core without what the issue of an instruction and the array queue change of it. -/
def Core.aside (c : Core) : Core := { c with queue := [], ramp := 0, hold := .none, elem := none, pos := 0, loops := [] }

/-- The units that the issue and the queueing of an array instruction leave alone are the same, as are the other cores and, but for its
queue, its ramp-up and its place in the code, the core's own state. -/
structure QueueWork (s t : State) (w : Nat) : Prop where
  host : t.host = s.host
  cmds : t.cmds = s.cmds
  sched : t.sched = s.sched
  nowUs : t.nowUs = s.nowUs
  others : ∀ v, v ≠ w → t.core v = s.core v
  own : (t.core w).aside = (s.core w).aside

section
variable {s t u : State} {w : Nat}

theorem QueueWork.refl (s : State) (w : Nat) : QueueWork s s w := ⟨rfl, rfl, rfl, rfl, fun _ _ => rfl, rfl⟩

theorem QueueWork.trans (h : QueueWork s t w) (g : QueueWork t u w) : QueueWork s u w :=
  ⟨g.host.trans h.host, g.cmds.trans h.cmds, g.sched.trans h.sched, g.nowUs.trans h.nowUs,
    fun v other => (g.others v other).trans (h.others v other), g.own.trans h.own⟩

theorem Access.core (h : Access s t) (v : Nat) : t.core v = s.core v := by rw [State.core, h.cores, State.core]

theorem Access.queueWork (h : Access s t) : QueueWork s t w :=
  ⟨h.host, h.cmds, h.sched, h.nowUs, fun v _ => h.core v, congrArg _ (h.core w)⟩

theorem State.updCore_queueWork (s : State) (w : Nat) {f : Core → Core} (keeps : ∀ c, (f c).aside = c.aside) :
    QueueWork s (s.updCore w f) w :=
  ⟨rfl, rfl, rfl, rfl, fun _ other => s.core_updCore_ne f other, by rw [State.core_updCore_same, keeps]⟩

theorem QueueWork.owner (h : QueueWork s t w) : (t.core w).owner = (s.core w).owner := (congrArg Core.owner h.own :)
theorem QueueWork.tiles (h : QueueWork s t w) : (t.core w).tiles = (s.core w).tiles := (congrArg Core.tiles h.own :)
theorem QueueWork.xs (h : QueueWork s t w) : (t.core w).xs = (s.core w).xs := (congrArg Core.xs h.own :)
theorem QueueWork.rowUs (h : QueueWork s t w) : (t.core w).rowUs = (s.core w).rowUs := (congrArg Core.rowUs h.own :)

theorem QueueWork.kernOn (h : QueueWork s t w) : t.kernOn w = s.kernOn w := by
  rw [State.kernOn, h.owner, h.sched, State.kernOn]

end

/-- What an instruction meets: memory as the element program under way leaves it, every array instruction queued still queued. -/
theorem State.atIssue_keeps (s : State) (w : Nat) : QueueWork s (s.atIssue w) w ∧ (s.atIssue w).dma = s.dma ∧
    (s.atIssue w).flt.inFlight = s.flt.inFlight ∧ ((s.atIssue w).core w).queue = (s.core w).queue := by
  have unheld := fun u : State => u.updCore_queueWork w (f := Core.unheld) fun _ => rfl
  rw [State.atIssue, State.finishElem]
  split
  · rename_i r k _ _
    have done := s.elemGroups_access k w r ((parseElem r.desc).groups - r.next)
    exact ⟨(done.queueWork.trans (State.updCore_queueWork _ w (f := fun c => { c with elem := none }) fun _ => rfl)).trans (unheld _), done.dma,
      (congrArg FaultUnit.inFlight done.flt_base :), by simp [done.core, Core.unheld]⟩
  · exact ⟨unheld s, rfl, rfl, by simp [Core.unheld]⟩

theorem State.atIssue_queueWork (s : State) (w : Nat) : QueueWork s (s.atIssue w) w := (s.atIssue_keeps w).1

@[simp] theorem State.dma_atIssue (s : State) (w : Nat) : (s.atIssue w).dma = s.dma := (s.atIssue_keeps w).2.1

@[simp] theorem State.inFlight_atIssue (s : State) (w : Nat) : (s.atIssue w).flt.inFlight = s.flt.inFlight := (s.atIssue_keeps w).2.2.1

@[simp] theorem State.queue_atIssue (s : State) (w : Nat) : ((s.atIssue w).core w).queue = (s.core w).queue := (s.atIssue_keeps w).2.2.2

theorem State.retire_queueWork (s : State) (w : Nat) : QueueWork s (s.retire w) w := by
  rw [State.retire]
  split
  · exact .refl s w
  · exact s.updCore_queueWork w fun c => by rw [Core.next_eq]; rfl

@[simp] theorem State.ramp_retire (s : State) (w v : Nat) : ((s.retire w).core v).ramp = (s.core v).ramp := by
  by_cases own : v = w
  · subst own
    rw [State.core_retire_same]
    split <;> simp
  · rw [State.core_retire_ne _ own]

/-! ### HALO's rows (R242) -/

/-- The rows of a HALO written into the scratchpad of the core it writes to, over some bytes of SRAM. -/
def haloWritten (b : List Byte) (dw : Nat) (rows : List (List Byte)) (m : Mem) : Mem :=
  ((List.range (recField b 12 4)).zip rows).foldl
    (fun m p => m.writeN (sramCore dw (recField b 8 4 % 2 ^ 21 + p.1 * recField b 24 4)) p.2) m

theorem State.foldl_writeSram {α : Type} (off : α → Nat) (bytes : α → List Byte) (seq : Word) (flow : Nat) (l : List α) (s : State) :
    l.foldl (fun s p => s.writePlace (.sram (off p)) (bytes p) false seq flow) s =
      { s with mem := { s.mem with sram := l.foldl (fun m p => m.writeN (off p) (bytes p)) s.mem.sram } } := by
  induction l generalizing s with
  | nil => rfl
  | cons p rest ih => exact ih _

/-- A HALO started writes its rows to SRAM and is counted. -/
theorem State.haloStart_eq (s : State) (k : Kern) (w : Nat) (b : List Byte) {dw : Nat} (dest : k.haloCore b = some dw) :
    s.haloStart k w b = State.bump { s with mem := { s.mem with
      sram := haloWritten b dw ((haloRows b).map (fun r => s.selfRead k w r.1 r.2)) s.mem.sram } }
        (.core w) 0x0D3 (recField b 12 4 * recField b 16 4) := by
  rw [State.haloStart, dest]
  dsimp only
  rw [State.foldl_writeSram]
  rfl

theorem State.haloStart_nowhere (s : State) (k : Kern) (w : Nat) (b : List Byte) (dest : k.haloCore b = none) : s.haloStart k w b = s := by
  rw [State.haloStart, dest]

theorem State.haloStart_access (s : State) (k : Kern) (w : Nat) (b : List Byte) :
    Access s (s.haloStart k w b) ∧ (s.haloStart k w b).hbm = s.hbm := by
  cases dest : k.haloCore b with
  | none =>
    rw [s.haloStart_nowhere k w b dest]
    exact ⟨Access.refl s, rfl⟩
  | some dw =>
    rw [s.haloStart_eq k w b dest]
    exact ⟨State.bump_access _ _ _ _ ⟨rfl, rfl, rfl, rfl, rfl, rfl, rfl, rfl, rfl, rfl, rfl, rfl, rfl, rfl, rfl, rfl⟩, by simp⟩

/-- Two states in which a core reaches the same bytes: they differ in free values and in cores alone, and not in the core's index
registers or take rows, by which the take window is read (R363). -/
structure SameReach (s u : State) (w : Nat) : Prop where
  rest : u = { s with cores := u.cores, freeCtr := u.freeCtr }
  xs : (u.core w).xs = (s.core w).xs
  rows : (u.core w).rows = (s.core w).rows

section
variable {s u : State} {w : Nat} (h : SameReach s u w) (k : Kern)
include h

theorem SameReach.xlate (va : Nat) (wr : Bool) : u.xlate (k.accAt w) va wr = s.xlate (k.accAt w) va wr := by
  have xs := h.xs
  have rows := h.rows
  obtain ⟨cores, ctr, rfl⟩ : ∃ cores ctr, u = { s with cores := cores, freeCtr := ctr } := ⟨_, _, h.rest⟩
  simp only [State.xlate, Kern.accAt, xs, rows]
  rfl

theorem SameReach.spans (wr : Bool) (fuel va n : Nat) : u.spans (k.accAt w) wr fuel va n = s.spans (k.accAt w) wr fuel va n := by
  induction fuel generalizing va n with
  | zero => rfl
  | succ fuel ih => simp only [State.spans, h.xlate, ih]

theorem SameReach.readPlace (p : Place) (n : Nat) : u.readPlace p n = s.readPlace p n := by
  rw [h.rest]
  cases p <;> rfl

theorem SameReach.selfRead (va n : Nat) : u.selfRead k w va n = s.selfRead k w va n := by
  have places : u.readPlace = s.readPlace := funext fun p => funext fun n => h.readPlace p n
  simp only [State.selfRead, State.fetchVA, State.readVA, h.spans, places]

/-- A HALO started in the one writes what it writes in the other. -/
theorem SameReach.haloStart (b : List Byte) : (u.haloStart k w b).mem = (s.haloStart k w b).mem := by
  have mem : u.mem = s.mem := by rw [h.rest]
  cases dest : k.haloCore b with
  | none => rw [u.haloStart_nowhere k w b dest, s.haloStart_nowhere k w b dest, mem]
  | some dw => simp only [State.haloStart_eq _ k w b dest, State.bump_mem, h.selfRead, mem]

end

/-! ### The array queue (R182, R226) -/

@[simp] theorem State.core_setRuns_same (s : State) (w : Nat) (q : List ArrayRun) : (s.setRuns w q).core w = { s.core w with queue := q } := by
  rw [State.setRuns, State.core_updCore_same]

theorem State.setRuns_queueWork (s : State) (w : Nat) (q : List ArrayRun) : QueueWork s (s.setRuns w q) w :=
  s.updCore_queueWork w fun _ => rfl

/-- The array asked to ramp up where it has issued no row this µs (log entry 124). -/
def Core.rampAsked (c : Core) (now : Nat) : Core := if c.rowUs = some now then c else { c with ramp := 1 }

theorem Core.rampAsked_aside (c : Core) (now : Nat) : (c.rampAsked now).aside = c.aside := by
  unfold Core.rampAsked
  split <;> rfl

@[simp] theorem Core.rampAsked_queue (c : Core) (now : Nat) : (c.rampAsked now).queue = c.queue := by
  unfold Core.rampAsked
  split <;> rfl

section
variable (s : State) (k : Kern) (w : Nat) (earlier later : List ArrayRun) (r : ArrayRun)

theorem State.startRun_edge {s : State} {k : Kern} {w : Nat} {earlier later : List ArrayRun} {r : ArrayRun} (edge : r.op = 0x4B) :
    s.startRun k w earlier later r =
      (s.setRuns w (earlier ++ later)).setEdge (clusterOf w) ((s.edge (clusterOf w)).addCore (.core w k.seq (some k) r.desc)) := by
  rw [State.startRun, if_pos edge]

/-- What a start does: an EDGE leaves the queue for its cluster's edge engine; any other instruction keeps its place there, and a HALO
sends its rows, the array asks for its ramp-up. -/
theorem State.startRun_cases :
    let placed := s.setRuns w (earlier ++ { r with started := true } :: later)
    (r.op = 0x4B ∧ s.startRun k w earlier later r =
      (s.setRuns w (earlier ++ later)).setEdge (clusterOf w) ((s.edge (clusterOf w)).addCore (.core w k.seq (some k) r.desc))) ∨
    (r.op = 0x4A ∧ s.startRun k w earlier later r = placed.haloStart k w r.desc) ∨
    (r.op ≠ 0x4A ∧ r.op ≠ 0x4B ∧ r.onArray = true ∧ s.startRun k w earlier later r = placed.updCore w (fun c => c.rampAsked s.nowUs)) ∨
    (r.op ≠ 0x4A ∧ r.op ≠ 0x4B ∧ r.onArray = false ∧ s.startRun k w earlier later r = placed) := by
  intro placed
  by_cases edge : r.op = 0x4B
  · exact .inl ⟨edge, State.startRun_edge edge⟩
  · rw [State.startRun, if_neg edge]
    by_cases halo : r.op = 0x4A
    · exact .inr (.inl ⟨halo, if_pos halo⟩)
    · refine .inr (.inr ?_)
      dsimp only
      rw [if_neg halo]
      cases array : r.onArray
      · exact .inr ⟨halo, edge, rfl, if_neg Bool.false_ne_true⟩
      · exact .inl ⟨halo, edge, rfl, if_pos rfl⟩

theorem State.startRun_queueWork : QueueWork s (s.startRun k w earlier later r) w := by
  have placed := s.setRuns_queueWork w
  obtain ⟨-, e⟩ | ⟨-, e⟩ | ⟨-, -, -, e⟩ | ⟨-, -, -, e⟩ := s.startRun_cases k w earlier later r <;> rw [e]
  · obtain ⟨host, cmds, sched, now, others, own⟩ := placed (earlier ++ later)
    exact ⟨host, cmds, sched, now, others, own⟩
  · exact (placed _).trans (State.haloStart_access _ k w r.desc).1.queueWork
  · exact (placed _).trans (State.updCore_queueWork _ w fun c => c.rampAsked_aside _)
  · exact placed _

theorem State.queue_startRun : ((s.startRun k w earlier later r).core w).queue =
    if r.op = 0x4B then earlier ++ later else earlier ++ { r with started := true } :: later := by
  obtain ⟨op, e⟩ | ⟨op, e⟩ | ⟨-, op, -, e⟩ | ⟨-, op, -, e⟩ := s.startRun_cases k w earlier later r <;> rw [e]
  · rw [if_pos op]
    exact congrArg Core.queue (s.core_setRuns_same w _)
  · rw [if_neg (by rw [op]; decide), (State.haloStart_access _ k w r.desc).1.core, State.core_setRuns_same]
  · rw [if_neg op, State.core_updCore_same, Core.rampAsked_queue, State.core_setRuns_same]
  · rw [if_neg op, State.core_setRuns_same]

theorem State.startRun_keeps : (s.startRun k w earlier later r).hbm = s.hbm ∧ (s.startRun k w earlier later r).freeCtr = s.freeCtr := by
  obtain ⟨-, e⟩ | ⟨-, e⟩ | ⟨-, -, -, e⟩ | ⟨-, -, -, e⟩ := s.startRun_cases k w earlier later r <;> rw [e]
  · exact ⟨rfl, rfl⟩
  · obtain ⟨access, hbm⟩ := State.haloStart_access (s.setRuns w (earlier ++ { r with started := true } :: later)) k w r.desc
    exact ⟨hbm, access.freeCtr⟩
  · exact ⟨rfl, rfl⟩
  · exact ⟨rfl, rfl⟩

/-- Only a HALO writes memory as it starts (log entry 36). -/
theorem State.startRun_mem : (s.startRun k w earlier later r).mem = if r.op = 0x4A then (s.haloStart k w r.desc).mem else s.mem := by
  obtain ⟨op, e⟩ | ⟨op, e⟩ | ⟨op, -, -, e⟩ | ⟨op, -, -, e⟩ := s.startRun_cases k w earlier later r <;> rw [e]
  · rw [if_neg (by rw [op]; decide)]
    rfl
  · have same : SameReach s (s.setRuns w (earlier ++ { r with started := true } :: later)) w := ⟨rfl, by simp, by simp⟩
    rw [if_pos op, same.haloStart]
  · rw [if_neg op]
    rfl
  · rw [if_neg op]
    rfl

/-- The array, started, asks for a ramp-up where it has issued no row this µs. -/
theorem State.startRun_ramp (array : r.onArray = true) (idle : (s.core w).rowUs ≠ some s.nowUs) :
    ((s.startRun k w earlier later r).core w).ramp = 1 := by
  obtain ⟨op, -⟩ | ⟨op, -⟩ | ⟨-, -, -, e⟩ | ⟨-, -, off, -⟩ := s.startRun_cases k w earlier later r
  · simp [ArrayRun.onArray, op] at array
  · simp [ArrayRun.onArray, op] at array
  · rw [e, State.core_updCore_same, State.core_setRuns_same, Core.rampAsked, if_neg idle]
  · simp [off] at array

end

theorem State.startGo_queueWork (s : State) (k : Kern) (w n : Nat) : QueueWork s (s.startGo k w n) w := by
  induction n generalizing s with
  | zero => exact .refl s w
  | succ n ih =>
    simp only [State.startGo]
    split
    · exact .refl s w
    · split
      · exact (s.startRun_queueWork k w _ _ _).trans (ih _)
      · exact .refl s w

theorem State.startQueue_queueWork (s : State) (w : Nat) : QueueWork s (s.startQueue w) w := by
  simp only [State.startQueue]
  split
  · split
    · exact s.startGo_queueWork _ w 4
    · exact .refl s w
  · exact .refl s w

/-- The instructions of a core's array queue by their opcodes and descriptors, oldest first. -/
def State.queued (s : State) (w : Nat) : List (Nat × List Byte) := (s.core w).queue.map (fun r => (r.op, r.desc))

/-- What starts keeps its place, but for an EDGE. -/
theorem State.queued_startGo (s : State) (k : Kern) (w n : Nat) (noEdge : ∀ p, p ∈ s.queued w → p.1 ≠ 0x4B) :
    (s.startGo k w n).queued w = s.queued w := by
  induction n generalizing s with
  | zero => rfl
  | succ n ih =>
    simp only [State.startGo]
    split
    · rfl
    · rename_i r later waiting
      have parts : (s.core w).queue = (s.core w).queue.takeWhile ArrayRun.started ++ r :: later := by
        rw [← waiting, List.takeWhile_append_dropWhile]
      have op : r.op ≠ 0x4B := noEdge (r.op, r.desc) (List.mem_map.mpr ⟨r, by rw [parts]; simp, rfl⟩)
      have kept : (s.startRun k w ((s.core w).queue.takeWhile ArrayRun.started) later r).queued w = s.queued w := by
        refine Eq.trans ?_ (congrArg (List.map fun r => (r.op, r.desc)) parts).symm
        rw [State.queued, State.queue_startRun, if_neg op]
        simp only [List.map_append, List.map_cons]
      split
      · exact (ih _ (by rwa [kept])).trans kept
      · rfl

theorem State.queued_startQueue (s : State) (w : Nat) (noEdge : ∀ p, p ∈ s.queued w → p.1 ≠ 0x4B) :
    (s.startQueue w).queued w = s.queued w := by
  simp only [State.startQueue]
  split
  · split
    · exact s.queued_startGo _ w 4 noEdge
    · rfl
  · rfl

theorem dropWhile_of_all {α : Type} {p : α → Bool} {l : List α} (all : l.all p = true) : l.dropWhile p = [] := by
  induction l with
  | nil => rfl
  | cons x rest ih =>
    rw [List.all_cons, Bool.and_eq_true] at all
    rw [List.dropWhile_cons_of_pos all.1, ih all.2]

/-- Where every instruction queued has started, nothing more does. -/
theorem State.startGo_of_started {s : State} {w : Nat} (started : (s.core w).queue.all ArrayRun.started = true) (k : Kern) (n : Nat) :
    s.startGo k w n = s := by
  cases n with
  | zero => rfl
  | succ n => rw [State.startGo, dropWhile_of_all started]

theorem State.startQueue_of_started {s : State} {w : Nat} (started : (s.core w).queue.all ArrayRun.started = true) : s.startQueue w = s := by
  simp only [State.startQueue]
  split
  · rw [State.startGo_of_started started, ite_self]
  · rfl

section
variable {s : State} {k : Kern} {w : Nat} {r : ArrayRun} (on : s.kernOn w = some k)
  (live : (k.phase == .running || k.phase == .stopping) = true)
include on live

theorem State.startQueue_of_live : s.startQueue w = s.startGo k w 4 := by
  simp only [State.startQueue, on]
  exact if_pos live

variable (alone : (s.core w).queue = [r]) (unstarted : r.started = false)
include alone unstarted

/-- The only instruction queued, free to start, does, and nothing behind it. -/
theorem State.startQueue_only (free : s.mayStart k w [] r = true) : s.startQueue w = s.startRun k w [] [] r := by
  have all : (((s.startRun k w [] [] r).core w).queue.all ArrayRun.started) = true := by
    rw [State.queue_startRun]
    split <;> rfl
  rw [State.startQueue_of_live on live, State.startGo, alone]
  simp [unstarted, free, State.startGo_of_started all]

/-- The only instruction queued, not free to start, waits. -/
theorem State.startQueue_waits (held : s.mayStart k w [] r = false) : s.startQueue w = s := by
  rw [State.startQueue_of_live on live, State.startGo, alone]
  simp [unstarted, held]

end

end Sys2Proof.Machine
end

section
/-! Array instructions (O36): how one that issues ends its command or takes its place, HALO_DONE, and the way of EDGE. -/

namespace Sys2Proof.Machine

/-! ### Instructions that issue -/

/-- The kernel whose core issues is placed there and runs, as its command does. -/
theorem State.issuing_some {s : State} {w n : Nat} {k : Kern} (issues : s.issuing w n = some k) :
    s.kernOn w = some k ∧ (k.phase == .running || k.phase == .stopping) = true ∧
      ∃ c, s.cmd? k.seq = some c ∧ c.phase = .running := by
  unfold State.issuing at issues
  cases on : s.kernOn w with
  | none => simp [on] at issues
  | some j =>
    cases accepted : s.cmd? j.seq with
    | none => simp [on, accepted] at issues
    | some c =>
      simp only [on, accepted, Option.ite_none_right_eq_some, Option.some.injEq, Bool.and_eq_true, beq_iff_eq] at issues
      obtain ⟨⟨⟨⟨⟨⟨running, -⟩, live⟩, -⟩, -⟩, -⟩, rfl⟩ := issues
      exact ⟨rfl, live, c, accepted, running⟩

theorem State.owner_of_kernOn {s : State} {w : Nat} {k : Kern} (on : s.kernOn w = some k) : (s.core w).owner.isSome = true := by
  unfold State.kernOn at on
  cases owner : (s.core w).owner with
  | none => simp [owner] at on
  | some _ => rfl

theorem Status.withFlags_failed {st : Status} (failed : st ≠ .ok) (undegraded : st ≠ .okDegraded) (flags : Byte) : st.withFlags flags = st := by
  cases st with
  | ok => exact absurd rfl failed
  | okDegraded => exact absurd rfl undegraded
  | _ => rfl

/-- A command ended for a core ends with its status and a result of its own. -/
theorem State.finishRun_eq (s : State) (seq : Word) (st : Status) : ∃ res, s.finishRun seq st = s.finish seq st res := by
  rw [State.finishRun]
  cases accepted : s.cmd? seq with
  | none => exact ⟨[], by simp [State.finish, accepted]⟩
  | some c => exact ⟨_, rfl⟩

theorem State.endCmd_eq (s : State) (seq : Word) (st : Status) : ∃ res, s.endCmd seq st = s.finish seq st res := by
  rw [State.endCmd]
  cases accepted : s.cmd? seq with
  | none => exact ⟨[], by simp [State.finish, accepted]⟩
  | some c =>
    dsimp only
    split
    · exact s.finishRun_eq seq st
    · exact ⟨[], rfl⟩

section
variable {w : CoreIx} {word : Dword} {op : Nat} {s : State} {k : Kern} (issues : s.issues w word op k)
include issues

/-- An instruction behind no array instruction has its effect, whether or not it ends its command. -/
theorem issue_unqueued {f : Kern → State → Option State} {u : State} (empty : (s.core w.val).queue = [])
    (effect : f k (s.atIssue w.val) = some u) : issue w word (fun n => opcodeOf n == op) f s = .next (u.retire w.val) := by
  obtain ⟨issuing, opcode, good⟩ := issues
  have settled : (s.atIssue w.val).settleArray k w.val = s.atIssue w.val := by
    rw [State.settleArray, State.queue_atIssue, empty]
    rfl
  cases owner : (u.core w.val).owner.isSome with
  | true => exact issue_next issuing (by simp [opcode]) good effect owner
  | false =>
    have stays : u.retire w.val = u := if_pos (by simpa using owner)
    rw [stays]
    exact issue_ends issuing (by simp [opcode]) good effect owner (by rw [settled, effect])

/-- An instruction that ends its command after telling some reports. -/
theorem issue_endsBy {i : Instr} {f : Kern → State → Option State} {u : State} {st : Status} {res : List Byte} {told : List Report}
    (does : exec i s = issue w word (fun n => opcodeOf n == op) f s) (failed : st ≠ .ok) (undegraded : st ≠ .okDegraded)
    (host : u.host = (s.atIssue w.val).host) (cmds : u.cmds = (s.atIssue w.val).cmds)
    (reports : u.flt.inFlight = (s.atIssue w.val).flt.inFlight ++ told)
    (effect : f k (s.atIssue w.val) = some (u.finish k.seq st res)) : s.endsBy i w k st told := by
  intro empty
  obtain ⟨-, -, c, accepted, running⟩ := State.issuing_some issues.1
  have before := s.atIssue_queueWork w.val
  have acceptedThere : u.cmd? k.seq = some c := by rw [State.cmd?, cmds, before.cmds]; exact accepted
  obtain ⟨⟨r, recs, seq, -, -, status, -⟩, gone⟩ := State.finish_ended acceptedThere (by simp [running]) st res
  obtain ⟨⟨-, -, -, base⟩, -⟩ := State.finish_keeps u k.seq st res
  have keeps := (u.finish k.seq st res).retire_queueWork w.val
  have flt : ((u.finish k.seq st res).retire w.val).flt = (u.finish k.seq st res).flt := by rw [State.retire_eq]
  refine ⟨_, r, does.trans (issue_unqueued issues empty effect), ?_, seq, ?_, ?_, ?_⟩
  · rw [keeps.host, recs, host, before.host]
  · rw [status, Status.withFlags_failed failed undegraded]
  · rw [flt, (congrArg FaultUnit.inFlight base :), reports, State.inFlight_atIssue]
  · rw [State.cmd?, keeps.cmds]
    exact gone

/-- An instruction that ends its command with a failed check's status, and tells no report. -/
theorem issue_endsBy_endCmd {i : Instr} {f : Kern → State → Option State} {st : Status}
    (does : exec i s = issue w word (fun n => opcodeOf n == op) f s) (failed : st ≠ .ok) (undegraded : st ≠ .okDegraded)
    (effect : f k (s.atIssue w.val) = some ((s.atIssue w.val).endCmd k.seq st)) : s.endsBy i w k st [] := by
  obtain ⟨res, ends⟩ := (s.atIssue w.val).endCmd_eq k.seq st
  exact issue_endsBy issues does failed undegraded rfl rfl (List.append_nil _).symm (ends ▸ effect)

/-- An instruction that ends its command for an address, and tells it (R662). -/
theorem issue_endsBy_coreFault {i : Instr} {f : Kern → State → Option State} {va : Nat}
    (does : exec i s = issue w word (fun n => opcodeOf n == op) f s)
    (effect : f k (s.atIssue w.val) = some ((s.atIssue w.val).coreFault w.val k va)) : s.endsBy i w k .deviceFault
      [⟨0x20, BitVec.ofNat 16 w.val, BitVec.ofNat 16 w.val, k.seq, BitVec.ofNat 64 va⟩] := by
  obtain ⟨res, ends⟩ := State.finishRun_eq ((s.atIssue w.val).report 0x20 w.val w.val k.seq va) k.seq .deviceFault
  exact issue_endsBy (u := (s.atIssue w.val).report 0x20 w.val w.val k.seq va) issues does (by decide) (by decide) rfl rfl rfl
    (effect.trans (congrArg some ends))

end

/-! ### Array words (R181, R182) -/

/-- Whether an instruction alone in the queue is free to start: its unit is (R226). -/
theorem State.mayStart_first (s : State) (k : Kern) (w : Nat) (r : ArrayRun) : s.mayStart k w [] r =
    ((!r.wait || s.edgeIdle w k.seq) &&
      (r.onArray || r.op == 0x49 || r.op == 0x4A || decide ((s.edge (clusterOf w)).coreQ.length < 8))) := by
  rw [State.mayStart, List.isEmpty_nil, Bool.true_and]
  congr 1
  cases r.onArray
  · by_cases pool : r.op = 0x49
    · simp [pool]
    · by_cases halo : r.op = 0x4A <;> simp [pool, halo]
  · simp

/-- The state with an issued instruction's free values drawn and its place in the queue taken, before anything starts. -/
def State.arrayPlaced (s : State) (w : Nat) (r : ArrayRun) : State :=
  { s.atIssue w with freeCtr := (s.atIssue w).freeCtr + r.draws }.updCore w (fun c => { c with queue := c.queue ++ [r] })

section
variable (s : State) (w : Nat) (r : ArrayRun)

theorem State.arrayPlaced_queueWork : QueueWork s (s.arrayPlaced w r) w := by
  obtain ⟨host, cmds, sched, now, others, own⟩ := State.updCore_queueWork { s.atIssue w with freeCtr := (s.atIssue w).freeCtr + r.draws } w
    (f := fun c => { c with queue := c.queue ++ [r] }) fun _ => rfl
  exact (s.atIssue_queueWork w).trans ⟨host, cmds, sched, now, others, own⟩

theorem State.core_arrayPlaced : (s.arrayPlaced w r).core w =
    { (s.atIssue w).core w with queue := ((s.atIssue w).core w).queue ++ [r] } := State.core_updCore_same _ w _

@[simp] theorem State.queue_arrayPlaced : ((s.arrayPlaced w r).core w).queue = (s.core w).queue ++ [r] := by
  rw [State.core_arrayPlaced, State.queue_atIssue]

theorem State.edge_arrayPlaced (n : Nat) : (s.arrayPlaced w r).edge n = s.edge n := by
  have dma : (s.arrayPlaced w r).dma = s.dma := s.dma_atIssue w
  rw [State.edge, dma, State.edge]

theorem State.edgeIdle_arrayPlaced (seq : Word) : (s.arrayPlaced w r).edgeIdle w seq = s.edgeIdle w seq := by
  simp only [State.edgeIdle, State.edge_arrayPlaced]

theorem State.arrayPlaced_sameReach : SameReach (s.atIssue w) (s.arrayPlaced w r) w :=
  ⟨rfl, by rw [State.core_arrayPlaced], by rw [State.core_arrayPlaced]⟩

end

/-- What the check and the queue see of an issued array instruction. -/
theorem State.newRun_of_issues {s u : State} {w : CoreIx} {word : Dword} {op : Nat} {k : Kern} {b : List Byte} {r : ArrayRun}
    (issues : s.issues w word op k) (run : u.newRun k w.val word.toNat b = r) :
    r.op = op ∧ r.desc = b ∧ r.wait = bitOf word.toNat 10 ∧ r.started = false := by
  subst run
  exact ⟨issues.2.1, rfl, rfl, rfl⟩

section
variable {w : CoreIx} {word : Dword} {op size : Nat} {s : State} {k : Kern} {b : List Byte}
  {check : State → Kern → Nat → List Byte → Except (Status ⊕ Nat) Unit} {i : Instr}
  (does : exec i s = arrayIssue w word op size check s) (issues : s.issues w word op k)
include does issues

theorem arrayIssue_stalls (full : 4 ≤ (s.core w.val).queue.length) : exec i s = .next s := by
  obtain ⟨issuing, opcode, good⟩ := issues
  refine does.trans (issue_stalls issuing (by simp [opcode]) good (if_pos ?_))
  rwa [State.queue_atIssue]

variable (room : (s.core w.val).queue.length < 4) (read : (s.atIssue w.val).descOf k w.val word.toNat size = .ok b)
include room read

theorem arrayIssue_refused {st : Status} (refused : check (s.atIssue w.val) k w.val b = .error (.inl st)) (failed : st ≠ .ok)
    (undegraded : st ≠ .okDegraded) : s.endsBy i w k st [] := by
  refine issue_endsBy_endCmd issues does failed undegraded ?_
  simp only [State.queue_atIssue, Nat.not_le.mpr room, if_false, read, refused]

theorem arrayIssue_faulted {va : Nat} (refused : check (s.atIssue w.val) k w.val b = .error (.inr va)) :
    s.endsBy i w k .deviceFault [⟨0x20, BitVec.ofNat 16 w.val, BitVec.ofNat 16 w.val, k.seq, BitVec.ofNat 64 va⟩] := by
  refine issue_endsBy_coreFault issues does ?_
  simp only [State.queue_atIssue, Nat.not_le.mpr room, if_false, read, refused]

variable (passed : check (s.atIssue w.val) k w.val b = .ok ()) {r : ArrayRun} (run : (s.atIssue w.val).newRun k w.val word.toNat b = r)
include passed run

/-- An array instruction whose every check passes takes its place; what may start does. -/
theorem arrayIssue_placed : exec i s = .next (((s.arrayPlaced w.val r).startQueue w.val).retire w.val) := by
  have work := (s.arrayPlaced_queueWork w.val r).trans (State.startQueue_queueWork _ w.val)
  have owned := State.owner_of_kernOn (State.issuing_some issues.1).1
  obtain ⟨issuing, opcode, good⟩ := issues
  refine does.trans (issue_next issuing (by simp [opcode]) good ?_ (by rwa [work.owner]))
  simp only [State.queue_atIssue, Nat.not_le.mpr room, if_false, read, passed, run]
  rfl

/-- An array instruction behind no EDGE takes its place behind those queued. -/
theorem arrayIssue_queues (notEdge : op ≠ 0x4B) (noEdge : (s.core w.val).queue.any (fun r => r.op == 0x4B) = false) : ∃ t, exec i s = .next t ∧
    (t.core w.val).queue.map (fun r => (r.op, r.desc)) = (s.core w.val).queue.map (fun r => (r.op, r.desc)) ++ [(op, b)] ∧
    t.host = s.host ∧ t.cmds = s.cmds ∧ ∀ v, v ≠ w.val → t.core v = s.core v := by
  obtain ⟨named, desc, -, -⟩ := State.newRun_of_issues issues run
  have placed : (s.arrayPlaced w.val r).queued w.val = (s.core w.val).queue.map (fun r => (r.op, r.desc)) ++ [(op, b)] := by
    rw [State.queued, State.queue_arrayPlaced, List.map_append, List.map_singleton, named, desc]
  have stays : ∀ p, p ∈ (s.arrayPlaced w.val r).queued w.val → p.1 ≠ 0x4B := by
    rw [placed]
    simp only [List.mem_append, List.mem_map, List.mem_singleton]
    rintro p (⟨r, queued, rfl⟩ | rfl)
    · simpa using List.any_eq_false.mp noEdge r queued
    · exact notEdge
  have work := ((s.arrayPlaced_queueWork w.val r).trans (State.startQueue_queueWork _ w.val)).trans (State.retire_queueWork _ w.val)
  refine ⟨_, arrayIssue_placed does issues room read passed run, ?_, work.host, work.cmds, work.others⟩
  rw [State.queue_retire]
  exact (State.queued_startQueue _ w.val stays).trans placed

variable (empty : (s.core w.val).queue = [])
include empty

/-- An array instruction at an empty queue, its unit free, starts at once. -/
theorem arrayIssue_starts (free : (s.arrayPlaced w.val r).mayStart k w.val [] r = true) :
    exec i s = .next (((s.arrayPlaced w.val r).startRun k w.val [] [] r).retire w.val) := by
  obtain ⟨on, live, -⟩ := State.issuing_some issues.1
  obtain ⟨-, -, -, unstarted⟩ := State.newRun_of_issues issues run
  rw [arrayIssue_placed does issues room read passed run, State.startQueue_only ((s.arrayPlaced_queueWork w.val r).kernOn.trans on) live
    (by rw [State.queue_arrayPlaced, empty]; rfl) unstarted free]

/-- An array instruction at an empty queue, its unit not free, waits. -/
theorem arrayIssue_waits (held : (s.arrayPlaced w.val r).mayStart k w.val [] r = false) :
    exec i s = .next ((s.arrayPlaced w.val r).retire w.val) := by
  obtain ⟨on, live, -⟩ := State.issuing_some issues.1
  obtain ⟨-, -, -, unstarted⟩ := State.newRun_of_issues issues run
  rw [arrayIssue_placed does issues room read passed run, State.startQueue_waits ((s.arrayPlaced_queueWork w.val r).kernOn.trans on) live
    (by rw [State.queue_arrayPlaced, empty]; rfl) unstarted held]

/-- What an array instruction that starts as it issues leaves: a HALO's rows stand, of the others memory is as it was. -/
theorem arrayIssue_started (kind : op = 0x40 ∨ op = 0x41 ∨ op = 0x48 ∨ op = 0x49 ∨ op = 0x4A)
    {t0 : State} (start : t0 = if op = 0x4A then (s.atIssue w.val).haloStart k w.val b else s.atIssue w.val)
    (ready : bitOf word.toNat 10 = false ∨ s.edgeIdle w.val k.seq = true) : ∃ t, exec i s = .next t ∧
    (t.core w.val).queue = [{ r with started := true }] ∧ t.mem = t0.mem ∧ t.hbm = t0.hbm ∧
    t.freeCtr = (s.atIssue w.val).freeCtr + r.draws ∧ (t.core w.val).tiles = (s.core w.val).tiles ∧ (t.core w.val).xs = (s.core w.val).xs ∧
    (r.onArray = true → (s.core w.val).rowUs ≠ some s.nowUs → (t.core w.val).ramp = 1) := by
  obtain ⟨named, desc, waits, -⟩ := State.newRun_of_issues issues run
  have notEdge : r.op ≠ 0x4B := by omega
  have onUnit : (r.onArray || r.op == 0x49 || r.op == 0x4A) = true := by
    rw [ArrayRun.onArray, named]
    obtain rfl | rfl | rfl | rfl | rfl := kind <;> rfl
  have free : (s.arrayPlaced w.val r).mayStart k w.val [] r = true := by
    rw [State.mayStart_first, onUnit, State.edgeIdle_arrayPlaced, waits]
    simpa using ready
  have before := s.arrayPlaced_queueWork w.val r
  have work := (before.trans (State.startRun_queueWork _ k w.val [] [] r)).trans (State.retire_queueWork _ w.val)
  obtain ⟨hbm, ctr⟩ := State.startRun_keeps (s.arrayPlaced w.val r) k w.val [] [] r
  refine ⟨_, arrayIssue_starts does issues room read passed run empty free, ?_, ?_, ?_, ?_, work.tiles, work.xs, fun array idle => ?_⟩
  · rw [State.queue_retire, State.queue_startRun, if_neg notEdge]
    rfl
  · rw [State.retire_eq]
    dsimp only
    rw [State.startRun_mem, named, desc, (s.arrayPlaced_sameReach w.val r).haloStart, start]
    split <;> rfl
  · rw [State.retire_eq, start]
    split
    · exact hbm.trans ((s.atIssue w.val).haloStart_access k w.val b).2.symm
    · exact hbm
  · rw [State.retire_eq]
    exact ctr
  · rw [State.ramp_retire]
    exact State.startRun_ramp _ _ _ _ _ _ array (by rwa [before.rowUs, before.nowUs])

end

/-! ### HALO_DONE (R243) -/

/-- An operation a unit asks of a slate changes no core, no memory and no record. -/
theorem State.slateAsk_keeps (s : State) (a : At) (i : Nat) (o : SlateOp) (v cmp : Word) :
    (s.slateAsk a i o v cmp).1.cores = s.cores ∧ (s.slateAsk a i o v cmp).1.mem = s.mem ∧ (s.slateAsk a i o v cmp).1.host = s.host := by
  have carried := State.carry_swept s a (.die (i / 32768)) (Swept.refl s)
  have applied := State.slateApply_slated (s.carry a (.die (i / 32768))) i o v cmp (Slated.refl _)
  exact ⟨applied.cores.trans carried.cores, applied.mem.trans carried.mem, applied.host.trans carried.host⟩

section
variable {w : CoreIx} {s : State} {k : Kern} {h : ArrayRun} {i : Nat} (alone : (s.core w.val).queue = [h]) (halo : h.op = 0x4A)
  (started : h.started = true) (on : s.kernOn w.val = some k) (slate : s.progSlate k.seq (recField h.desc 36 4 % 131072) = some i)
include alone halo started on slate

/-- The only instruction queued, a HALO whose rows have come, adds to its slate and leaves. -/
theorem exec_haloDone :
    exec (.haloDone w) s =
      .next ((s.setRuns w.val []).slateAsk (.core w.val) i .add (BitVec.ofNat 32 (recField h.desc 40 4)) 0).1 := by
  have slateThere : (s.setRuns w.val []).progSlate k.seq (recField h.desc 36 4 % 131072) = some i := slate
  obtain ⟨cores, -⟩ := State.slateAsk_keeps (s.setRuns w.val []) (.core w.val) i .add (BitVec.ofNat 32 (recField h.desc 40 4)) 0
  have nothing : ((((s.setRuns w.val []).slateAsk (.core w.val) i .add (BitVec.ofNat 32 (recField h.desc 40 4)) 0).1.core w.val).queue.all
      ArrayRun.started) = true := by
    rw [State.core, cores]
    exact congrArg (fun c : Core => c.queue.all ArrayRun.started) (s.core_setRuns_same w.val [])
  have oldest : (s.core w.val).queue.find? (fun r => r.op == 0x4A && r.started) = some h := by simp [alone, halo, started]
  show execHaloDone w s = _
  simp only [execHaloDone, oldest, on, alone ▸ List.erase_cons_head h [], slateThere, State.startQueue_of_started nothing]

theorem haloDone_adds :
    ∃ t, exec (.haloDone w) s = .next t ∧ (t.core w.val).queue = [] ∧ (∀ v, v ≠ w.val → t.core v = s.core v) ∧ t.mem = s.mem ∧
      t.host = s.host ∧ ∀ j, t.slate j = if j = i then s.slate j + BitVec.ofNat 32 (recField h.desc 40 4) else s.slate j := by
  obtain ⟨cores, mem, host⟩ := State.slateAsk_keeps (s.setRuns w.val []) (.core w.val) i .add (BitVec.ofNat 32 (recField h.desc 40 4)) 0
  have left := s.setRuns_queueWork w.val []
  refine ⟨_, exec_haloDone alone halo started on slate, ?_, fun v other => ?_, mem, host, fun j => ?_⟩
  · rw [State.core, cores]
    exact congrArg Core.queue (s.core_setRuns_same w.val [])
  · rw [State.core, cores]
    exact left.others v other
  · rw [(State.slate_slateAsk _ _ _ _ _ _ j).1]
    split
    · rename_i same
      subst same
      rfl
    · rfl

end

/-! ### EDGE (R226, R247) -/

/-- An EDGE whose descriptor is of its row's kind is an array word with the edge engine's checks. -/
theorem edgeIssue_mine {w : CoreIx} {word : Dword} {prep : Bool} {s : State} {k : Kern} {b : List Byte} (issues : s.issues w word 0x4B k)
    (read : (s.atIssue w.val).descOf k w.val word.toNat 64 = .ok b) (kind : prep = (recField b 63 1 % 4 == 0)) :
    exec (if prep then .edgePrep w word else .edgeConv w word) s = arrayIssue w word 0x4B 64 (fun _ _ _ b => edgeCheck b) s := by
  have mine : edgeIssue w word prep s = arrayIssue w word 0x4B 64 (fun _ _ _ b => edgeCheck b) s := by
    simp only [edgeIssue, issues.1, read, kind, beq_self_eq_true, if_true]
  cases prep <;> exact mine

section
variable {w : CoreIx} {word : Dword} {s : State} {k : Kern} {b : List Byte} {i : Instr}
  (does : exec i s = arrayIssue w word 0x4B 64 (fun _ _ _ b => edgeCheck b) s) (issues : s.issues w word 0x4B k)
  (read : (s.atIssue w.val).descOf k w.val word.toNat 64 = .ok b) (empty : (s.core w.val).queue = []) (good : edgeBad b = none)
include does issues read empty good

/-- An EDGE goes on into its cluster's core queue while that has room. -/
theorem edge_goesOn (ready : bitOf word.toNat 10 = false ∨ s.edgeIdle w.val k.seq = true)
    (room : (s.edge (clusterOf w.val)).coreQ.length < 8) : ∃ t, exec i s = .next t ∧
      t.edge (clusterOf w.val) = (s.edge (clusterOf w.val)).addCore (.core w.val k.seq (some k) b) ∧ (t.core w.val).queue = [] ∧
      t.host = s.host ∧ t.cmds = s.cmds ∧ t.mem = (s.atIssue w.val).mem ∧ ∀ v, v ≠ w.val → t.core v = s.core v := by
  obtain ⟨r, run⟩ : ∃ r, (s.atIssue w.val).newRun k w.val word.toNat b = r := ⟨_, rfl⟩
  obtain ⟨named, desc, waits, -⟩ := State.newRun_of_issues issues run
  have free : (s.arrayPlaced w.val r).mayStart k w.val [] r = true := by
    rw [State.mayStart_first, State.edge_arrayPlaced, State.edgeIdle_arrayPlaced, waits, decide_eq_true room]
    simpa using ready
  have passed : edgeCheck b = .ok () := by rw [edgeCheck, good]
  have work := ((s.arrayPlaced_queueWork w.val r).trans (State.startRun_queueWork _ k w.val [] [] r)).trans (State.retire_queueWork _ w.val)
  refine ⟨_, arrayIssue_starts does issues (by rw [empty]; decide) read passed run empty free, ?_, ?_, work.host, work.cmds, ?_, work.others⟩
  · rw [State.edge, State.retire_eq, State.startRun_edge named, State.edge_arrayPlaced, desc]
    exact Tab.at_put_same _ _ _ _
  · rw [State.queue_retire, State.queue_startRun, if_pos named]
    rfl
  · rw [State.retire_eq]
    exact (State.startRun_mem _ k w.val [] [] r).trans (if_neg (by rw [named]; decide))

/-- An EDGE stays in the array queue while its cluster's core queue has no room. -/
theorem edge_stays (full : 8 ≤ (s.edge (clusterOf w.val)).coreQ.length) : ∃ t, exec i s = .next t ∧
    t.edge (clusterOf w.val) = s.edge (clusterOf w.val) ∧ (t.core w.val).queue.map (fun r => (r.op, r.desc)) = [(0x4B, b)] ∧
    t.host = s.host ∧ t.cmds = s.cmds := by
  obtain ⟨r, run⟩ : ∃ r, (s.atIssue w.val).newRun k w.val word.toNat b = r := ⟨_, rfl⟩
  obtain ⟨named, desc, -, -⟩ := State.newRun_of_issues issues run
  have held : (s.arrayPlaced w.val r).mayStart k w.val [] r = false := by
    rw [State.mayStart_first, State.edge_arrayPlaced, decide_eq_false (Nat.not_lt.mpr full), ArrayRun.onArray, named]
    exact Bool.and_false _
  have passed : edgeCheck b = .ok () := by rw [edgeCheck, good]
  have work := (s.arrayPlaced_queueWork w.val r).trans (State.retire_queueWork _ w.val)
  refine ⟨_, arrayIssue_waits does issues (by rw [empty]; decide) read passed run empty held, ?_, ?_, work.host, work.cmds⟩
  · rw [State.edge, State.retire_eq]
    exact s.edge_arrayPlaced w.val r _
  · rw [State.queue_retire, State.queue_arrayPlaced, empty, ← named, ← desc]
    rfl

end

/-- Settles O36: an array word stalls, ends its command or takes its place (`arrayIssue`), and what starts does what its unit asks
(`startRun_cases`). That memory stands as it was until the last output, and a HALO's rows from its start on, is log entry 36's choice; that the array asks for
its ramp-up where no row was issued this µs is entry 124's. -/
theorem arrayInstructionsRun : Obligations.ArrayInstructionsRun := by
  intro w word s k b n s0 q run goes
  have goesOn : ∀ {i : Instr} {op size : Nat} {check : State → Kern → Nat → List Byte → Except (Status ⊕ Nat) Unit} {t0 : State},
      (∀ s, exec i s = arrayIssue w word op size check s) → op = 0x40 ∨ op = 0x41 ∨ op = 0x48 ∨ op = 0x49 ∨ op = 0x4A →
      t0 = (if op = 0x4A then s0.haloStart k w.val b else s0) → goes i op size (check s0 k w.val b) t0 := by
    intro i op size check t0 does kind start issues
    refine ⟨arrayIssue_stalls (does s) issues, fun room read => ⟨fun st refused => arrayIssue_refused (does s) issues room read refused,
      fun va refused => arrayIssue_faulted (does s) issues room read refused, fun passed => ⟨?_, fun empty ready => ?_⟩⟩⟩
    · exact arrayIssue_queues (does s) issues room read passed rfl (by omega)
    · exact arrayIssue_started (does s) issues room read passed rfl empty kind start ready
  have matmul := goesOn (i := .matmul w word) (size := 128)
    (check := fun s k v b => s.matmulCheck k v b (s.substAt k v (parseGemm b).b)) (fun _ => rfl) (.inl rfl) rfl
  have attend := goesOn (i := .attend w word) (size := 64) (check := State.attCheck) (fun _ => rfl) (.inr (.inl rfl)) rfl
  have conv := goesOn (i := .conv w word) (size := 128) (check := State.convCheck) (fun _ => rfl) (.inr (.inr (.inl rfl))) rfl
  have pool := goesOn (i := .pool w word) (size := 64) (check := State.poolCheck) (fun _ => rfl) (.inr (.inr (.inr (.inl rfl)))) rfl
  have halo := goesOn (i := .halo w word) (size := 64) (check := State.haloCheck) (fun _ => rfl) (.inr (.inr (.inr (.inr rfl)))) rfl
  refine ⟨matmul, attend, conv, pool, halo, ?haloRow, ?haloDone, ?edge⟩
  case haloRow =>
    intro dw dest single
    rw [s0.haloStart_eq k w.val b dest, State.bump_mem]
    simp [haloWritten, haloRows, single]
  case haloDone =>
    intro h i alone halo started on slate
    exact haloDone_adds alone halo started on slate
  case edge =>
    intro prep issues read kind empty
    have does := edgeIssue_mine issues read kind
    refine ⟨fun st refused => ?_, fun good ready room => edge_goesOn does issues read empty good ready room,
      fun good full => edge_stays does issues read empty good full⟩
    exact arrayIssue_refused does issues (by rw [show (s.core w.val).queue = [] from empty]; decide) read (by simp [edgeCheck, refused])

end Sys2Proof.Machine
end

section
/-! The array's order (O35): what AWAIT holds, a core's only array instruction at its last output, and the jobs of an edge engine. -/

namespace Sys2Proof.Machine

/-! ### A core's own changes -/

theorem State.coreOnly_refl (s : State) (w : Nat) : s.coreOnly s w := ⟨rfl, fun _ _ => rfl⟩

theorem State.coreOnly_updCore (s : State) (w : Nat) (f : Core → Core) : s.coreOnly (s.updCore w f) w :=
  ⟨rfl, fun _ other => s.core_updCore_ne f other⟩

theorem State.coreOnly_retire {s u : State} {w : Nat} (only : s.coreOnly u w) : s.coreOnly (u.retire w) w := by
  obtain ⟨rest, others⟩ := only
  refine ⟨?_, fun v other => (u.core_retire_ne other).trans (others v other)⟩
  rw [State.retire_eq, rest]

/-! ### AWAIT (R182) -/

@[simp] theorem State.arrayIdle_atIssue (s : State) (w : Nat) : (s.atIssue w).arrayIdle w = s.arrayIdle w := by
  simp only [State.arrayIdle, State.edgeIdle, State.edge, State.queue_atIssue, (s.atIssue_queueWork w).owner, State.dma_atIssue]

@[simp] theorem State.hold_finishElem (s : State) (w : Nat) : ((s.finishElem w).core w).hold = (s.core w).hold := by
  rw [State.finishElem]
  split
  · rw [State.core_updCore_same, (s.elemGroups_access _ w _ _).core]
  · rfl

/-- No wait at a slate stands in the way of an instruction that issues (R355). -/
theorem State.hold_of_issuing {s : State} {w n : Nat} {k : Kern} (issues : s.issuing w n = some k) :
    (s.core w).hold = .none ∨ (s.core w).hold = .array := by
  have free : s.holds w n = false := by
    unfold State.issuing at issues
    cases on : s.kernOn w with
    | none => simp [on] at issues
    | some j =>
      simp only [on, Option.ite_none_right_eq_some, Bool.and_eq_true, Bool.not_eq_true'] at issues
      obtain ⟨⟨-, free⟩, -⟩ := issues
      exact free
  cases hold : (s.core w).hold with
  | none => exact .inl rfl
  | array => exact .inr rfl
  | slate | remote => simp [State.holds, hold] at free

/-- An instruction meets its core held by nothing. -/
theorem State.hold_atIssue {s : State} {w n : Nat} {k : Kern} (issues : s.issuing w n = some k) : ((s.atIssue w).core w).hold = .none := by
  have free : ((s.atIssue w).core w).hold = if (s.core w).hold = .array then .none else (s.core w).hold := by
    rw [State.atIssue, State.core_updCore_same, Core.unheld, State.hold_finishElem]
  rw [free]
  obtain hold | hold := State.hold_of_issuing issues <;> simp [hold]

/-- AWAIT that issues holds its core where an array instruction before it has output to write. -/
theorem exec_await {w : CoreIx} {word : Dword} {s : State} {k : Kern} (issues : s.issues w word 0x4F k) :
    exec (.await w word) s = .next ((if s.arrayIdle w.val then s.atIssue w.val
      else (s.atIssue w.val).updCore w.val (fun c => { c with hold := .array })).retire w.val) := by
  obtain ⟨issuing, opcode, good⟩ := issues
  show execAwait w word s = _
  rw [execAwait]
  refine issue_next issuing (by simp [opcode]) good (by rw [State.arrayIdle_atIssue]) ?_
  have owned : ((s.atIssue w.val).core w.val).owner.isSome = true := by
    rw [(s.atIssue_queueWork w.val).owner]
    exact State.owner_of_kernOn (State.issuing_some issuing).1
  split
  · exact owned
  · rwa [State.core_updCore_same]

theorem await_holds {w : CoreIx} {word : Dword} {s : State} {k : Kern} (issues : s.issues w word 0x4F k) :
    ∃ t, exec (.await w word) s = .next t ∧ (s.atIssue w.val).coreOnly t w.val ∧
      (t.core w.val).hold = if s.arrayIdle w.val then .none else .array := by
  refine ⟨_, exec_await issues, State.coreOnly_retire ?_, ?_⟩
  · split
    · exact State.coreOnly_refl _ _
    · exact State.coreOnly_updCore _ _ _
  · rw [State.hold_retire]
    split
    · exact State.hold_atIssue issues.1
    · rw [State.core_updCore_same]

/-! ### The ramp-up and the last output (R174, R182) -/

theorem exec_rampGrant {w : CoreIx} {s : State} (asked : (s.core w.val).ramp = 1) :
    exec (.rampGrant w) s = .next (s.setCore w.val { s.core w.val with ramp := 2 }) := if_pos asked

/-- A core whose oldest instruction of the array or of POOL has written its last output, with the rest of its queue. -/
def Core.pastOutput (c : Core) (r : ArrayRun) (rest : List ArrayRun) (now : Nat) : Core :=
  { c with queue := rest, rowUs := if r.onArray then some now else c.rowUs, ramp := if r.onArray then 0 else c.ramp }

section
variable {w : CoreIx} {s : State} {k : Kern} {r : ArrayRun} {rest : List ArrayRun} (oldest : (s.core w.val).queue = r :: rest)
  (started : r.started = true) (unit : r.onArray = true ∨ r.op = 0x49) (on : s.kernOn w.val = some k)
include oldest started unit on

/-- What a last output does where the oldest instruction queued is the one that writes it. -/
theorem exec_arrayLastOutput : exec (.arrayLastOutput w) s =
    let out := s.runOut k w.val r
    if r.onArray = true ∧ (s.core w.val).ramp = 1 then .next s
    else if (out.1.core w.val).owner.isNone then .next out.1
    else if s.runHeld k r then .next (out.1.setRuns w.val (out.2 :: rest))
    else .next ((out.1.updCore w.val (fun c => c.pastOutput r rest out.1.nowUs)).startQueue w.val) := by
  have first : splitRun (s.core w.val).queue = some ([], r, rest) := by
    rw [oldest, splitRun, if_pos]
    simpa [started] using unit
  show execArrayLastOutput w s = _
  simp only [execArrayLastOutput, first, on]
  rfl

/-- The last output waits for the grant of the array's ramp-up. -/
theorem arrayLastOutput_waits (array : r.onArray = true) (asked : (s.core w.val).ramp = 1) : exec (.arrayLastOutput w) s = .next s := by
  rw [exec_arrayLastOutput oldest started unit on]
  exact if_pos ⟨array, asked⟩

variable (granted : ¬ (r.onArray = true ∧ (s.core w.val).ramp = 1))
include granted

/-- A last output whose work ends its command does nothing more. -/
theorem arrayLastOutput_ends (ended : ((s.runOut k w.val r).1.core w.val).owner.isSome = false) :
    exec (.arrayLastOutput w) s = .next (s.runOut k w.val r).1 := by
  rw [exec_arrayLastOutput oldest started unit on]
  simp only [if_neg granted]
  exact if_pos (by simpa using ended)

/-- The only instruction queued writes its last output and leaves the queue; nothing is left to start. -/
theorem arrayLastOutput_leaves (runs : ((s.runOut k w.val r).1.core w.val).owner.isSome = true) (whole : s.runHeld k r = false)
    (alone : rest = []) : exec (.arrayLastOutput w) s =
      .next ((s.runOut k w.val r).1.updCore w.val (fun c => c.pastOutput r [] (s.runOut k w.val r).1.nowUs)) := by
  have owned : ((s.runOut k w.val r).1.core w.val).owner.isNone ≠ true := by simp [Option.isSome_iff_ne_none.mp runs]
  subst alone
  rw [exec_arrayLastOutput oldest started unit on]
  simp only [if_neg granted, if_neg owned, whole, Bool.false_eq_true, if_false]
  rw [State.startQueue_of_started]
  rw [State.core_updCore_same]
  rfl

end

/-! ### The edge engine's jobs (R247 to R254) -/

/-- What a cluster's edge engine leaves with its running job done, before it takes the next. -/
def State.afterJob (s : State) (n : ClusterIx) (pred : Option (List Half)) (job : EdgeJob) : State :=
  let s0 := s.setEdge n.val { s.edge n.val with running := none }
  match job with
  | .stream m j => s0.streamJob n.val m j (pred.map (fun l => l.map BitVec.toNat))
  | .core w seq k b => s0.coreJob n.val w seq k b

@[simp] theorem State.edge_setEdge_same (s : State) (n : Nat) (v : Edge) : (s.setEdge n v).edge n = v := Tab.at_put_same _ _ _ _

@[simp] theorem State.mailSlot_setMail_same (s : State) (m : Nat) (v : MailSlot) : (s.setMail m v).mailSlot m = v := Tab.at_put_same _ _ _ _

/-- Nothing starts on cores whose array queues are empty. -/
theorem State.foldl_startQueue_of_empty {s : State} {ix : Nat → Nat} {l : List Nat} (empty : ∀ i, i ∈ l → (s.core (ix i)).queue = []) :
    l.foldl (fun s i => s.startQueue (ix i)) s = s := by
  induction l with
  | nil => rfl
  | cons i rest ih =>
    have stays : s.startQueue (ix i) = s := State.startQueue_of_started (by rw [empty i List.mem_cons_self]; rfl)
    rw [List.foldl_cons, stays]
    exact ih fun j later => empty j (List.mem_cons_of_mem _ later)

/-- The running job done, the engine takes its next; no core of the cluster has an EDGE that waits for the room. -/
theorem exec_edgeJobDone {n : ClusterIx} {pred : Option (List Half)} {s : State} {job : EdgeJob} (runs : (s.edge n.val).running = some job)
    (empty : ∀ i, i < 17 → ((s.afterJob n pred job).core (17 * n.val + i)).queue = []) : exec (.edgeJobDone n pred) s =
      .next ((s.afterJob n pred job).setEdge n.val ((s.afterJob n pred job).edge n.val).take) := by
  have done : exec (.edgeJobDone n pred) s = .next ((List.range 17).foldl (fun s i => s.startQueue (17 * n.val + i))
      ((s.afterJob n pred job).setEdge n.val ((s.afterJob n pred job).edge n.val).take)) := by
    show execEdgeJobDone n pred s = _
    cases job <;> simp only [execEdgeJobDone, runs, State.afterJob]
  rw [done, State.foldl_startQueue_of_empty (ix := fun i => 17 * n.val + i)]
  exact fun i listed => empty i (List.mem_range.mp listed)

/-- A picture whose sample list is gone passes its mail slot, and nothing is written (R463). -/
theorem State.streamJob_unlisted {s : State} {j : StreamJob} (gone : s.run? j.seq j.list = none) (picture : j.pic.isSome = true) (n m : Nat)
    (pred : Option (List Nat)) : s.streamJob n m j pred = (s.bump (.cluster n) 0x0D5 1).setMail m
      { (s.mailSlot m).passPacket j.size with feeds := (s.mailSlot m).feeds.drop 1, sent := 0 } := by
  have notCached : j.pic.isNone = false := by simpa [Option.isSome_iff_ne_none] using picture
  have slot : (s.bump (.cluster n) 0x0D5 1).mailSlot m = s.mailSlot m := by rw [State.mailSlot, State.bump_dma, State.mailSlot]
  have goneThere : ∀ v, ((s.bump (.cluster n) 0x0D5 1).setMail m v).run? j.seq j.list = none := by
    intro v
    rw [State.run?, State.setMail_video, State.bump_video]
    exact gone
  simp only [State.streamJob, notCached, Bool.false_eq_true, if_false, goneThere, slot]
  rfl

/-- Rows stored change memory as any access does. -/
theorem State.edgeStore_access {s u : State} {n : Nat} {a : Acc} {va stride : Nat} {rows : List (List Byte)}
    (stored : s.edgeStore n a va stride rows = .ok u) : Access s u := by
  induction rows generalizing s va with
  | nil =>
    cases stored
    exact Access.refl _
  | cons row rest ih =>
    rw [State.edgeStore] at stored
    split at stored
    · cases stored
    · exact (State.storeVA_access _ _ _ _ (Access.refl s)).trans (ih stored)

/-- A preparation whose sources and destination are in reach stores its sample, the rounding it leaves open drawn (R249 to R252). -/
theorem State.prepJob_stores {s u : State} {n w : Nat} {seq : Word} {a : Acc} {b ys uvs : List Byte}
    (luma : s.edgeRows n a (parsePrep b).srcY (parsePrep b).sstr ((parsePrep b).srcW * ((parsePrep b).depth + 1)) (parsePrep b).srcH = .ok ys)
    (chroma : s.edgeRows n a (parsePrep b).srcUV (parsePrep b).sstr ((parsePrep b).srcW * ((parsePrep b).depth + 1)) ((parsePrep b).srcH / 2) =
      .ok uvs)
    (stored : s.edgeStore n a (parsePrep b).dst (parsePrep b).dstr
      ((parsePrep b).sample s.freeCtr (planeSource (parsePrep b) ys uvs)) = .ok u) :
    s.prepJob n w seq a b = { u with freeCtr := u.freeCtr + 1 } := by
  simp only [State.prepJob, luma, chroma, stored]

/-- Settles O35: AWAIT holds its core while array instructions are left (`await_holds`), the oldest of them leaves with its last output
(`exec_arrayLastOutput`), and an edge job done gives its engine the next (`exec_edgeJobDone`). That an array instruction has its effect at
its last output is log entry 36's choice; that a core's edge job runs on behind its command is entry 34's. -/
theorem arrayOrders : Obligations.ArrayOrders := by
  refine ⟨fun w word s k => ⟨await_holds, exec_rampGrant, ?lastOutput⟩, ?edgeJob⟩
  case lastOutput =>
    intro r rest oldest started unit on u
    refine ⟨arrayLastOutput_waits oldest started unit on, fun granted runs whole alone => ?_, arrayLastOutput_ends oldest started unit on⟩
    refine ⟨_, arrayLastOutput_leaves oldest started unit on granted runs whole alone, ?_, rfl, rfl, rfl, fun array => ?_, ?_,
      fun v other => State.core_updCore_ne _ _ other⟩
    · rw [State.core_updCore_same]
      rfl
    · rw [State.core_updCore_same]
      exact ⟨if_pos array, if_pos array⟩
    · rw [State.core_updCore_same]
      rfl
  case edgeJob =>
    intro n pred s job runs s0 s1 empty
    have after : s1 = s.afterJob n pred job := by cases job <;> rfl
    clear_value s1
    subst after
    refine ⟨_, exec_edgeJobDone runs empty, State.edge_setEdge_same _ _ _, rfl, rfl, rfl, ?ofStream, ?ofCore⟩
    case ofStream =>
      rintro m j rfl gone picture
      have goneThere : s0.run? j.seq j.list = none := gone
      have passed : s.afterJob n pred (.stream m j) = _ := State.streamJob_unlisted goneThere picture n.val m _
      have slot : ∀ (t : State) v, (t.setEdge n.val v).mailSlot m = t.mailSlot m := fun _ _ => rfl
      rw [slot, passed, State.mailSlot_setMail_same]
      exact ⟨rfl, rfl, by simp [s0], by simp [s0]⟩
    case ofCore =>
      rintro w seq k b ys uvs u rfl kind a p s2 luma chroma stored
      have ctr : s2.freeCtr = s.freeCtr := by simp [s2, s0]
      have access := State.edgeStore_access stored
      have prepared : s.afterJob n pred (.core w seq k b) = { u with freeCtr := u.freeCtr + 1 } :=
        (if_pos kind).trans (State.prepJob_stores luma chroma (ctr ▸ stored))
      rw [prepared]
      refine ⟨rfl, rfl, access.host.trans (by simp [s2, s0]), ?_⟩
      show u.freeCtr + 1 = s.freeCtr + 1
      rw [access.freeCtr, ctr]

end Sys2Proof.Machine
end

section
/-! Vector instructions on memory (O31, O33): what a vector instruction leaves when it issues, the checks of a tile access, its loads,
and the words that end their command. -/

namespace Sys2Proof.Machine

/-! ### Vector instructions that issue (R290, R294) -/

@[simp] theorem State.core_atVector (s : State) (w cycles v : Nat) : (s.atVector w cycles).core v = (s.atIssue w).core v := by
  rw [State.atVector, State.countVec, State.core_bump, State.core_bump]

theorem State.coreOnly_trans {s t u : State} {w : Nat} (h : s.coreOnly t w) (g : t.coreOnly u w) : s.coreOnly u w := by
  obtain ⟨rest, others⟩ := h
  obtain ⟨rest', others'⟩ := g
  refine ⟨?_, fun v other => (others' v other).trans (others v other)⟩
  rw [rest', rest]

theorem State.coreOnly_bump {s u : State} {w : Nat} (only : s.coreOnly u w) (a : At) (ev n : Nat) : s.coreOnly (u.bump a ev n) w := by
  obtain ⟨rest, others⟩ := only
  refine ⟨?_, fun v other => (u.core_bump a ev n v).trans (others v other)⟩
  rw [State.bump_eq, rest]

theorem State.coreOnly_setCore {s u : State} {w : Nat} (only : s.coreOnly u w) (c : Core) : s.coreOnly (u.setCore w c) w := by
  obtain ⟨rest, others⟩ := only
  refine ⟨?_, fun v other => (u.core_setCore_ne c other).trans (others v other)⟩
  rw [State.setCore, rest]

theorem State.coreOnly_countNum {s u : State} {w : Nat} (only : s.coreOnly u w) (v : Nat) (c : NumCnt) : s.coreOnly (u.countNum v c) w := by
  rw [State.countNum]
  iterate 5 refine State.coreOnly_bump ?_ _ _ _
  exact only

theorem State.atVector_coreOnly (s : State) (w cycles : Nat) : (s.atIssue w).coreOnly (s.atVector w cycles) w := by
  rw [State.atVector, State.countVec]
  exact State.coreOnly_bump (State.coreOnly_bump (State.coreOnly_refl _ w) _ _ _) _ _ _

@[simp] theorem State.host_atVector (s : State) (w cycles : Nat) : (s.atVector w cycles).host = (s.atIssue w).host := by
  rw [(s.atVector_coreOnly w cycles).1]

@[simp] theorem State.cmds_atVector (s : State) (w cycles : Nat) : (s.atVector w cycles).cmds = (s.atIssue w).cmds := by
  rw [(s.atVector_coreOnly w cycles).1]

@[simp] theorem State.flt_atVector (s : State) (w cycles : Nat) : (s.atVector w cycles).flt = (s.atIssue w).flt := by
  rw [(s.atVector_coreOnly w cycles).1]

@[simp] theorem State.core_countNum (s : State) (w : Nat) (c : NumCnt) (v : Nat) : (s.countNum w c).core v = s.core v := by
  simp only [State.countNum, State.core_bump]

section
variable {w : CoreIx} {word : Dword} {op cycles : Nat} {s : State} {k : Kern} {f : Kern → State → State} (issues : s.issues w word op k)
include issues

theorem State.owner_atVector : (((s.atVector w.val cycles).core w.val).owner).isSome = true := by
  rw [State.core_atVector, (s.atIssue_queueWork w.val).owner]
  exact State.owner_of_kernOn (State.issuing_some issues.1).1

/-- A vector instruction that leaves its core to its kernel has its effect, and the core goes past it. -/
theorem vecIssue_next (owner : ((f k (s.atVector w.val cycles)).core w.val).owner = ((s.atVector w.val cycles).core w.val).owner) :
    vecIssue w word op cycles f s = .next ((f k (s.atVector w.val cycles)).retire w.val) := by
  have owned := State.owner_atVector (cycles := cycles) issues
  obtain ⟨issuing, opcode, good⟩ := issues
  exact issue_next issuing (by simp [opcode]) good rfl (by rwa [← owner] at owned)

variable {i : Instr} (does : exec i s = vecIssue w word op cycles f s)
include does

/-- A vector instruction that a check refuses ends its command with that check's status, and tells no report. -/
theorem vecIssue_refused {st : Status} (failed : st ≠ .ok) (undegraded : st ≠ .okDegraded)
    (refused : f k (s.atVector w.val cycles) = (s.atVector w.val cycles).endCmd k.seq st) : s.endsBy i w k st [] := by
  obtain ⟨res, ends⟩ := (s.atVector w.val cycles).endCmd_eq k.seq st
  exact issue_endsBy issues does failed undegraded (s.host_atVector w.val cycles) (s.cmds_atVector w.val cycles)
    (by rw [State.flt_atVector, List.append_nil]) (congrArg some (refused.trans ends))

/-- A vector instruction that meets an address it may not reach ends its command, and tells the address (R662). -/
theorem vecIssue_faulted {va : Nat} (faulted : f k (s.atVector w.val cycles) = (s.atVector w.val cycles).coreFault w.val k va) :
    s.endsBy i w k .deviceFault [⟨0x20, BitVec.ofNat 16 w.val, BitVec.ofNat 16 w.val, k.seq, BitVec.ofNat 64 va⟩] := by
  obtain ⟨res, ends⟩ := State.finishRun_eq ((s.atVector w.val cycles).report 0x20 w.val w.val k.seq va) k.seq .deviceFault
  exact issue_endsBy (u := (s.atVector w.val cycles).report 0x20 w.val w.val k.seq va) issues does (by decide) (by decide)
    (s.host_atVector w.val cycles) (s.cmds_atVector w.val cycles) (by rw [State.report, State.flt_atVector]; rfl)
    (congrArg some (faulted.trans ends))

end

/-! ### The checks of a tile access (R198, R216, R272, R273) -/

theorem State.tileCheck_noFormat {s : State} {k : Kern} {w n : Nat} {store : Bool} {go : NumFmt → TileAcc → State}
    (reserved : numFmtOfCode (fld n 15 5) = none) : s.tileCheck k w n store go = s.endCmd k.seq .rejectedFormat := by
  rw [State.tileCheck, reserved]

section
variable {s : State} {k : Kern} {w n : Nat} {store : Bool} {go : NumFmt → TileAcc → State} {f : NumFmt}
  (fmt : numFmtOfCode (fld n 15 5) = some f)
include fmt

theorem State.tileCheck_badMode (mode : store = true ∧ f.isInt = false ∧ fld n 20 2 = 3) :
    s.tileCheck k w n store go = s.endCmd k.seq .rejectedFormat := by
  obtain ⟨rfl, float, three⟩ := mode
  simp [State.tileCheck, fmt, float, three]

variable (mode : ¬ (store = true ∧ f.isInt = false ∧ fld n 20 2 = 3))
include mode

/-- The checks of an access whose format and rounding mode are in order go on to its register and its address. -/
theorem State.tileCheck_formatted : s.tileCheck k w n store go =
    let t := (s.core w).tileAcc n f
    if t.cols = 32 ∧ fld n 8 5 % 2 = 1 then s.endCmd k.seq .shapeOver
    else if t.off % 16 ≠ 0 then s.coreFault w k (spaceVa t.space t.off)
    else (s.tileBad k w t store).elim ((go f t).bump (.core w) 0x0E1 (t.cycles store * outLanes (s.core w).lens)) (s.coreFault w k) := by
  have pass : (store && !f.isInt && fld n 20 2 == 3) = false := by
    rw [← Bool.not_eq_true]
    simpa only [Bool.and_eq_true, Bool.not_eq_true', beq_iff_eq, and_assoc] using mode
  cases reach : s.tileBad k w ((s.core w).tileAcc n f) store <;>
    simp only [State.tileCheck, fmt, pass, reach, Option.elim, Bool.false_eq_true, if_false]

theorem State.tileCheck_oddPair (odd : ((s.core w).tileAcc n f).cols = 32 ∧ fld n 8 5 % 2 = 1) :
    s.tileCheck k w n store go = s.endCmd k.seq .shapeOver := by
  rw [State.tileCheck_formatted fmt mode]
  exact if_pos odd

variable (even : ¬ (((s.core w).tileAcc n f).cols = 32 ∧ fld n 8 5 % 2 = 1))
include even

theorem State.tileCheck_misaligned (off : ((s.core w).tileAcc n f).off % 16 ≠ 0) :
    s.tileCheck k w n store go = s.coreFault w k (spaceVa ((s.core w).tileAcc n f).space ((s.core w).tileAcc n f).off) := by
  rw [State.tileCheck_formatted fmt mode]
  exact (if_neg even).trans (if_pos off)

variable (aligned : ((s.core w).tileAcc n f).off % 16 = 0)
include aligned

theorem State.tileCheck_unreachable {va : Nat} (bad : s.tileBad k w ((s.core w).tileAcc n f) store = some va) :
    s.tileCheck k w n store go = s.coreFault w k va := by
  rw [State.tileCheck_formatted fmt mode]
  simp only [even, aligned, bad, Option.elim, if_false, ne_eq, not_true_eq_false]

end

section
variable {w : CoreIx} {word : Dword} {op : Nat} {s : State} {k : Kern} {store : Bool} {f : NumFmt}
  {go : Kern → State → NumFmt → TileAcc → State} (issues : s.issues w word op k)
include issues

/-- A tile access whose checks pass has its effect, counts its lanes outside the lengths (R290, R294), and the core goes past it. -/
theorem tileAccess_next (fmt : numFmtOfCode (fld word.toNat 15 5) = some f)
    (mode : store = true → f.isInt = false → fld word.toNat 20 2 ≠ 3) :
    let s0 := s.atVector w.val 0
    let c := s0.core w.val
    let a := c.tileAcc word.toNat f
    (a.cols = 32 → fld word.toNat 8 5 % 2 = 0) → a.off % 16 = 0 → s0.tileBad k w.val a store = none →
    ((go k s0 f a).core w.val).owner = c.owner →
    vecIssue w word op 0 (fun k s => s.tileCheck k w.val word.toNat store (go k s)) s =
      .next (((go k s0 f a).bump (.core w.val) 0x0E1 (a.cycles store * outLanes c.lens)).retire w.val) := by
  intro s0 c a pair aligned reach owner
  have even : ¬ (a.cols = 32 ∧ fld word.toNat 8 5 % 2 = 1) := fun ⟨cols, odd⟩ => by
    have even := pair cols
    omega
  have passes : s0.tileCheck k w.val word.toNat store (go k s0) =
      (go k s0 f a).bump (.core w.val) 0x0E1 (a.cycles store * outLanes c.lens) := by
    rw [State.tileCheck_formatted fmt fun ⟨stores, float, three⟩ => mode stores float three]
    exact (if_neg even).trans ((if_neg fun misaligned => misaligned aligned).trans (congrArg (Option.elim · _ _) reach))
  have next := vecIssue_next (cycles := 0) (f := fun k s => s.tileCheck k w.val word.toNat store (go k s)) issues
    (by rw [passes]; exact (congrArg Core.owner (State.core_bump _ _ _ _ _)).trans owner)
  rwa [passes] at next

end

/-! ### Words that end their command (R216, R225, R268, R270) -/

theorem State.vcvt_refused {s : State} {w n : Nat} {k : Kern}
    (refused : (∃ g, numFmtOfCode (fld n 40 5) = some g ∧ (g.isMx = true ∨ fld n 45 2 = 3)) ∨ numFmtOfCode (fld n 40 5) = none) :
    s.vcvt w n k = s.endCmd k.seq .rejectedFormat := by
  obtain ⟨g, fmt, bad⟩ | reserved := refused
  · have stop : (g.isMx || fld n 45 2 == 3) = true := by simpa using bad
    simp only [State.vcvt, fmt, stop, if_true]
  · simp only [State.vcvt, reserved]

theorem State.settleArray_of_empty {s : State} {w : Nat} (empty : (s.core w).queue = []) (k : Kern) : s.settleArray k w = s := by
  rw [State.settleArray, empty]
  rfl

/-- A reserved word ends its command behind the array instructions queued before it, and its core tells the word (R268). -/
theorem exec_reservedInstruction {w : CoreIx} {word : Dword} {s : State} {k : Kern} (issuing : s.issuing w.val word.toNat = some k)
    (bad : wordBad word.toNat = true) :
    exec (.reservedInstruction w word) s = .next (((s.atIssue w.val).settleArray k w.val).coreFault w.val k word.toNat) := by
  show execReservedInstruction w word s = _
  simp [execReservedInstruction, issue, issuing, bad]

theorem reservedInstruction_ends {w : CoreIx} {word : Dword} {s : State} {k : Kern} (issuing : s.issuing w.val word.toNat = some k)
    (bad : wordBad word.toNat = true) :
    s.endsBy (.reservedInstruction w word) w k .deviceFault [⟨0x20, BitVec.ofNat 16 w.val, BitVec.ofNat 16 w.val, k.seq, word⟩] := by
  intro empty
  have does := exec_reservedInstruction issuing bad
  rw [State.settleArray_of_empty (by rw [State.queue_atIssue, empty])] at does
  obtain ⟨-, -, c, accepted, running⟩ := State.issuing_some issuing
  have before := s.atIssue_queueWork w.val
  obtain ⟨u, told⟩ : ∃ u, u = (s.atIssue w.val).report 0x20 w.val w.val k.seq word.toNat := ⟨_, rfl⟩
  obtain ⟨res, ends⟩ := State.finishRun_eq u k.seq .deviceFault
  have acceptedThere : u.cmd? k.seq = some c := by
    rw [told]
    exact (congrArg (Tab.find · k.seq.toNat) before.cmds).trans accepted
  obtain ⟨⟨r, recs, seq, -, -, status, -⟩, gone⟩ := State.finish_ended acceptedThere (by simp [running]) .deviceFault res
  obtain ⟨⟨-, -, -, base⟩, -⟩ := State.finish_keeps u k.seq .deviceFault res
  refine ⟨u.finish k.seq .deviceFault res, r, ?_, ?_, seq, status, ?_, gone⟩
  · rw [does, ← ends, told]
    rfl
  · rw [recs, told]
    exact congrArg (·.cpls ++ [r]) before.host
  · rw [(congrArg FaultUnit.inFlight base :), told]
    simp [State.report]

/-- Settles O33: each check of a memory instruction that fails ends its command as the check says (`tileCheck_noFormat` to
`tileCheck_unreachable`), as do VCVT's and a reserved word. That DETAIL is a device virtual address and names the first byte out of
reach is log entry 107's choice; that the array instructions queued before a word end first is entry 36's. -/
theorem tileAccessFaults : Obligations.TileAccessFaults := by
  refine ⟨?access, ?vcvt, ?reserved⟩
  case access =>
    intro w word s k store issues n i s0 report
    have does : exec i s = vecIssue w word (if store then 0x21 else 0x20) 0 (fun k s => s.tileCheck k w.val n store (fun _ t =>
        if store then s.storeTile k w.val n (fld n 8 5) t else s.loadTile k w.val n (fld n 8 5) t)) s := by
      cases store <;> rfl
    refine ⟨fun reserved => ?_, fun f fmt => ⟨fun bad => ?_, fun fine pair => ?_, fun fine even off => ?_,
      fun va fine even aligned bad => ?_⟩⟩
    · exact vecIssue_refused issues does (by decide) (by decide) (State.tileCheck_noFormat reserved)
    · exact vecIssue_refused issues does (by decide) (by decide) (State.tileCheck_badMode fmt bad)
    · exact vecIssue_refused issues does (by decide) (by decide) (State.tileCheck_oddPair fmt fine pair)
    · exact vecIssue_faulted issues does (State.tileCheck_misaligned fmt fine even off)
    · exact vecIssue_faulted issues does (State.tileCheck_unreachable fmt fine even aligned bad)
  case vcvt =>
    intro w word s k issues refused
    have does : exec (.vcvt w word) s = vecIssue w word 0x11 1 (fun k s => s.vcvt w.val word.toNat k) s := rfl
    exact vecIssue_refused issues does (by decide) (by decide) (State.vcvt_refused refused)
  case reserved =>
    intro w word s k issuing bad
    exact ⟨reservedInstruction_ends issuing bad, _, exec_reservedInstruction issuing bad, rfl⟩

end Sys2Proof.Machine
end

section
/-! VLD (O31): the registers a tile load writes, and what else it leaves. -/

namespace Sys2Proof.Machine

/-! ### Lanes and registers -/

theorem nth_map_range {α : Type} {n i : Nat} (inside : i < n) (f : Nat → α) (d : α) : nth ((List.range n).map f) i d = f i := by
  simp [nth, inside]

theorem Core.tile_setTile (c : Core) (d e : Nat) (v : List Word) : (c.setTile d v).tile e = if e = d then v else c.tile e :=
  Tab.at_put _ _ _ _ _

/-! ### The address register after an access (R271) -/

@[simp] theorem Core.stepX_tiles (c : Core) (n : Nat) : (c.stepX n).tiles = c.tiles := by
  unfold Core.stepX
  split
  · exact Core.setX_tiles _ _ _
  · rfl

@[simp] theorem Core.stepX_preds (c : Core) (n : Nat) : (c.stepX n).preds = c.preds := by
  unfold Core.stepX
  split
  · exact Core.setX_preds _ _ _
  · rfl

@[simp] theorem Core.stepX_owner (c : Core) (n : Nat) : (c.stepX n).owner = c.owner := by
  unfold Core.stepX
  split
  · exact Core.setX_owner _ _ _
  · rfl

/-- What a word leaves in the index registers depends on the index registers alone. -/
theorem Core.x_stepX_congr {c d : Core} (same : c.xs = d.xs) (n j : Nat) : (c.stepX n).x j = (d.stepX n).x j := by
  have reads : ∀ i, c.x i = d.x i := fun i => by rw [Core.x, same, Core.x]
  unfold Core.stepX
  split
  · rw [Core.x_setX, Core.x_setX, reads, reads]
  · exact reads j

/-! ### A load (R272, R273) -/

/-- The lane that a load puts at a place of the first or the second register of its access. -/
def State.loadLane (s : State) (k : Kern) (w : Nat) (t : TileAcc) (h i : Nat) : Word :=
  if i / 16 < t.lr ∧ i % 16 < t.lc then
    t.lane (nth (s.tileRows k w t).1 (i / 16) []) (t.scale (s.tileRows k w t).2 (i / 16)) (16 * h + i % 16)
  else 0

/-- A core with the registers of a load written. -/
def Core.loaded (c : Core) (t : TileAcc) (reg : Nat) (lane : Nat → Nat → Word) : Core :=
  let first := c.setTile reg ((List.range 256).map (lane 0))
  if t.cols = 32 then first.setTile (reg + 1) ((List.range 256).map (lane 1)) else first

section
variable (c : Core) (t : TileAcc) (reg : Nat) (lane : Nat → Nat → Word)

/-- A register after a load: the access's first, its second where it has a pair, or another. -/
theorem Core.tile_loaded (e : Nat) : (c.loaded t reg lane).tile e =
    if t.cols = 32 ∧ e = reg + 1 then (List.range 256).map (lane 1)
    else if e = reg then (List.range 256).map (lane 0) else c.tile e := by
  unfold Core.loaded
  by_cases pair : t.cols = 32 <;> simp [pair, Core.tile_setTile]

/-- A load writes tile registers only. -/
theorem Core.loaded_eq : c.loaded t reg lane = { c with tiles := (c.loaded t reg lane).tiles } := by
  unfold Core.loaded
  dsimp only
  split <;> rfl

end

/-- A load writes its core's registers and counts the NaN scales it met. -/
theorem State.loadTile_eq (s : State) (k : Kern) (w n reg : Nat) (t : TileAcc) : ∃ cnt, s.loadTile k w n reg t =
    (s.setCore w (((s.core w).loaded t reg (s.loadLane k w t)).stepX n)).countNum w cnt :=
  ⟨_, rfl⟩

/-- A load leaves its core with its registers written and its address register stepped. -/
theorem State.core_loadTile (s : State) (k : Kern) (w n reg : Nat) (t : TileAcc) :
    (s.loadTile k w n reg t).core w = ((s.core w).loaded t reg (s.loadLane k w t)).stepX n := by
  obtain ⟨cnt, loads⟩ := s.loadTile_eq k w n reg t
  rw [loads, State.core_countNum, State.core_setCore_same]

theorem State.loadTile_coreOnly (s : State) (k : Kern) (w n reg : Nat) (t : TileAcc) : s.coreOnly (s.loadTile k w n reg t) w := by
  obtain ⟨cnt, loads⟩ := s.loadTile_eq k w n reg t
  rw [loads]
  exact State.coreOnly_countNum (State.coreOnly_setCore (State.coreOnly_refl s w) _) _ _

/-- Settles O31: the checks pass (`tileAccess_next`), and the load writes its registers (`core_loadTile`, `tile_loaded`) and nothing but its
core and the counters (`loadTile_coreOnly`). -/
theorem vldLoads : Obligations.VldLoads := by
  intro w word s k f issues n s0 c a d fmt pair aligned reach rows sc lane
  obtain ⟨t, after⟩ : ∃ t, t = (s0.loadTile k w.val n d a).bump (.core w.val) 0x0E1 (a.cycles false * outLanes c.lens) := ⟨_, rfl⟩
  have loaded : (s0.loadTile k w.val n d a).core w.val = (c.loaded a d lane).stepX n := s0.core_loadTile k w.val n d a
  have core : t.core w.val = (c.loaded a d lane).stepX n := by rw [after, State.core_bump, loaded]
  have written : ∀ e, ((t.retire w.val).core w.val).tile e = (c.loaded a d lane).tile e := fun e => by
    rw [Core.tile, State.tiles_retire, core, Core.stepX_tiles, Core.tile]
  have kept := c.loaded_eq a d lane
  refine ⟨t.retire w.val, ?does, by rw [after], fun i inside => ?first, fun cols i inside => ?second, fun e notFirst notSecond => ?other,
    fun j => ?x, ?preds, ?rest⟩
  case does =>
    rw [after]
    exact tileAccess_next (store := false) (go := fun k s _ t => s.loadTile k w.val n d t) issues fmt (fun load => absurd load (by decide)) pair
      aligned reach (by rw [loaded, Core.stepX_owner, kept])
  case first => rw [written, Core.tile_loaded, if_neg (by omega), if_pos rfl, nth_map_range inside]
  case second => rw [written, Core.tile_loaded, if_pos ⟨cols, rfl⟩, nth_map_range inside]
  case other => rw [written, Core.tile_loaded, if_neg (fun both => notSecond both.1 both.2), if_neg notFirst]
  case x =>
    rw [State.x_retire, core]
    exact Core.x_stepX_congr (by rw [kept]) n j
  case preds => rw [State.preds_retire, core, Core.stepX_preds, kept]
  case rest =>
    refine State.coreOnly_retire (State.coreOnly_trans (s.atVector_coreOnly w.val 0) ?_)
    rw [after]
    exact State.coreOnly_bump (s0.loadTile_coreOnly k w.val n d a) _ _ _

end Sys2Proof.Machine
end

section
/-! Stores through the address range (O32): the bytes a store may change are those of the runs its range is cut into. -/

namespace Sys2Proof.Machine

/-! ### Memory but for the bytes of some runs -/

/-- The byte memories of two states read alike outside some runs. -/
structure WroteOnly (runs : List (Place × Nat × Nat)) (s t : State) : Prop where
  sram : ∀ x, (∀ q ∈ runs, ∀ o, q.1 = .sram o → x < o ∨ o + q.2.2 ≤ x) → Mem.read t.mem.sram x = Mem.read s.mem.sram x
  host : ∀ x, (∀ q ∈ runs, ∀ o, q.1 = .host o → x < o ∨ o + q.2.2 ≤ x) → Mem.read t.mem.host x = Mem.read s.mem.host x
  hbm : ∀ x, (∀ q ∈ runs, ∀ o, q.1 = .hbm o → x < o ∨ o + q.2.2 ≤ x) → Mem.read t.hbm.bytes x = Mem.read s.hbm.bytes x

theorem WroteOnly.of_same {s t : State} (runs : List (Place × Nat × Nat)) (sram : t.mem.sram = s.mem.sram) (host : t.mem.host = s.mem.host)
    (hbm : t.hbm.bytes = s.hbm.bytes) : WroteOnly runs s t :=
  ⟨fun _ _ => by rw [sram], fun _ _ => by rw [host], fun _ _ => by rw [hbm]⟩

/-- One run written, then others. -/
theorem WroteOnly.cons {s t u : State} {run : Place × Nat × Nat} {rest : List (Place × Nat × Nat)} (first : WroteOnly [run] s t)
    (later : WroteOnly rest t u) : WroteOnly (run :: rest) s u := by
  refine ⟨fun x out => ?_, fun x out => ?_, fun x out => ?_⟩ <;> rw [List.forall_mem_cons] at out
  · exact (later.sram x out.2).trans (first.sram x (List.forall_mem_singleton.mpr out.1))
  · exact (later.host x out.2).trans (first.host x (List.forall_mem_singleton.mpr out.1))
  · exact (later.hbm x out.2).trans (first.hbm x (List.forall_mem_singleton.mpr out.1))

theorem State.wf_of_memOk {s : State} (ok : s.memOk = true) : s.mem.host.wf = true ∧ s.mem.sram.wf = true ∧ s.hbm.bytes.wf = true := by
  simpa [State.memOk, and_assoc] using ok

/-! ### Writes of HBM (R401, R405) -/

theorem State.countBurst_swept (s : State) (b : Nat) (wr : Bool) : Swept s (s.countBurst b wr) := by
  rw [State.countBurst]
  dsimp only
  have responded := fun (u : State) (counted : Swept s u) =>
    swept_ite (c := wr = true) counted (State.perturb_swept u 2 (hbmChannel s.hbm.out (64 * b)).1 counted)
  have done := responded _ (State.bump_swept s (.die (dieOfChan (hbmChannel s.hbm.out (64 * b)).1)) (if wr then 0x121 else 0x120) 1
    (Swept.refl s))
  exact swept_ite (State.bump_swept _ _ _ _ done) done

/-- A burst's write is dropped, or its bytes stand in HBM; no other memory changes. -/
theorem State.burstWrite_bytes (s : State) (b off : Nat) (bs : List Byte) (poisoned : Bool) :
    (s.burstWrite b off bs poisoned).mem = s.mem ∧ ((s.burstWrite b off bs poisoned).hbm.bytes = s.hbm.bytes ∨
      (s.burstWrite b off bs poisoned).hbm.bytes = s.hbm.bytes.writeN (64 * b + off) bs) := by
  rw [State.burstWrite]
  split
  · exact ⟨rfl, .inl rfl⟩
  · dsimp only
    split
    · rw [(State.countBurst_swept _ _ _).mem, (State.countBurst_swept _ _ _).mem, (State.countBurst_swept _ _ _).hbm,
        (State.countBurst_swept _ _ _).hbm]
      exact ⟨rfl, .inr rfl⟩
    · rw [(State.countBurst_swept _ _ _).mem, (State.countBurst_swept _ _ _).hbm]
      exact ⟨rfl, .inr rfl⟩

theorem State.hbmWriteGo_outside (fuel : Nat) {s : State} (pa : Nat) (bs : List Byte) (poisoned : Bool) (wf : s.hbm.bytes.wf = true) :
    (s.hbmWriteGo fuel pa bs poisoned).mem = s.mem ∧ ∀ x, x < pa ∨ pa + bs.length ≤ x →
      Mem.read (s.hbmWriteGo fuel pa bs poisoned).hbm.bytes x = Mem.read s.hbm.bytes x := by
  induction fuel generalizing s pa bs with
  | zero => exact ⟨rfl, fun _ _ => rfl⟩
  | succ fuel ih =>
    cases bs with
    | nil => exact ⟨rfl, fun _ _ => rfl⟩
    | cons b rest =>
      simp only [State.hbmWriteGo]
      obtain ⟨mem, bytes⟩ := s.burstWrite_bytes (pa / 64) (pa % 64) ((b :: rest).take (64 - pa % 64)) poisoned
      have wf' : (s.burstWrite (pa / 64) (pa % 64) ((b :: rest).take (64 - pa % 64)) poisoned).hbm.bytes.wf = true := by
        obtain same | written := bytes
        · rwa [same]
        · rw [written]
          exact Mem.writeN_wf _ _ wf
      obtain ⟨memLater, later⟩ := ih (pa + (64 - pa % 64)) ((b :: rest).drop (64 - pa % 64)) wf'
      refine ⟨memLater.trans mem, fun x out => ?_⟩
      rw [later x (by rw [List.length_drop]; omega)]
      obtain same | written := bytes
      · rw [same]
      · rw [written, Mem.read_writeN_of_wf _ _ _ wf (by rw [List.length_take]; omega)]

/-! ### Stores at a place -/

/-- A byte outside the only run of a kind of place is outside a part of it. -/
theorem outside_of_single {kind : Nat → Place} {a va n m x : Nat}
    (out : ∀ q ∈ [(kind a, va, n)], ∀ o, q.1 = kind o → x < o ∨ o + q.2.2 ≤ x)
    (short : m ≤ n) : x < a ∨ a + m ≤ x := by
  have free : x < a ∨ a + n ≤ x := out _ (List.mem_singleton.mpr rfl) a rfl
  omega

theorem State.request_slated (s : State) (seq : Word) (dst flow type addr : Nat) (payload : List Byte) (kind : ReqKind) :
    Slated s (s.request seq dst flow type addr payload kind) := by
  unfold State.request
  exact State.sendFrame_slated _ _ (State.bump_slated _ _ _ _
    ⟨rfl, rfl, rfl, rfl, rfl, rfl, rfl, rfl, rfl, rfl, rfl, rfl, rfl, rfl, rfl, rfl, rfl⟩)

theorem State.peerWrite_slated (s : State) (seq : Word) (flow id ad : Nat) (bs : List Byte) : Slated s (s.peerWrite seq flow id ad bs) :=
  foldl_slated (fun u _ hu => hu.trans (u.request_slated _ _ _ _ _ _ _)) _ (Slated.refl s)

/-- A store held for a copy of its page changes no byte yet (R41, R43). -/
theorem State.cowStore_bytes (s : State) (t : Nat) (e : PageEnt) (o : Nat) (bs : List Byte) :
    (s.cowStore t e o bs).mem.sram = s.mem.sram ∧ (s.cowStore t e o bs).mem.host = s.mem.host ∧ (s.cowStore t e o bs).hbm = s.hbm := by
  rw [State.cowStore]
  dsimp only
  split
  · exact ⟨rfl, rfl, rfl⟩
  · split <;> exact ⟨rfl, rfl, rfl⟩

/-- Bytes stored at a place change only the bytes there. -/
theorem State.writePlace_wroteOnly {s : State} (ok : s.memOk = true) (p : Place) (va : Nat) {n : Nat} {bs : List Byte} (short : bs.length ≤ n)
    (poisoned : Bool) (seq : Word) (flow : Nat) : WroteOnly [(p, va, n)] s (s.writePlace p bs poisoned seq flow) := by
  obtain ⟨hostWf, sramWf, hbmWf⟩ := State.wf_of_memOk ok
  cases p with
  | hbm pa =>
    simp only [State.writePlace]
    split
    · exact .of_same _ (by rw [State.bump_mem]; rfl) (by rw [State.bump_mem]; rfl) (by rw [State.bump_hbm]; rfl)
    · obtain ⟨mem, outside⟩ := State.hbmWriteGo_outside (bs.length / 64 + 2) pa bs poisoned hbmWf
      exact ⟨fun x _ => by rw [State.hbmWrite, mem], fun x _ => by rw [State.hbmWrite, mem],
        fun x out => outside x (outside_of_single (kind := .hbm) out short)⟩
  | host a =>
    simp only [State.writePlace]
    split
    · exact .of_same _ (by rw [State.bump_mem]; rfl) (by rw [State.bump_mem]; rfl) (by rw [State.bump_hbm]; rfl)
    · have written : WroteOnly [(Place.host a, va, n)] s { s with mem := { s.mem with host := s.mem.host.writeN a bs } } :=
        ⟨fun _ _ => rfl, fun x out => Mem.read_writeN_of_wf _ _ _ hostWf (outside_of_single (kind := .host) out short), fun _ _ => rfl⟩
      split
      · exact ⟨written.sram, written.host, written.hbm⟩
      · exact written
  | sram o =>
    exact ⟨fun x out => Mem.read_writeN_of_wf _ _ _ sramWf (outside_of_single (kind := .sram) out short), fun _ _ => rfl, fun _ _ => rfl⟩
  | peer id ad =>
    have sent := s.peerWrite_slated seq flow id ad bs
    exact .of_same _ (congrArg MemMgr.sram sent.mem) (congrArg MemMgr.host sent.mem) (congrArg HbmMem.bytes sent.hbm)
  | cow t e o =>
    obtain ⟨sram, host, hbm⟩ := s.cowStore_bytes t e o bs
    exact .of_same _ sram host (congrArg HbmMem.bytes hbm)
  | bad => exact .of_same _ rfl rfl rfl

/-! ### Stores of a range -/

theorem State.writeSpans_wroteOnly {s : State} (ok : s.memOk = true) (seq : Word) (flow : Nat) (poisoned : Bool)
    (runs : List (Place × Nat × Nat)) (bs : List Byte) : WroteOnly runs s (s.writeSpans seq flow poisoned runs bs) := by
  induction runs generalizing s bs with
  | nil => exact .of_same _ rfl rfl rfl
  | cons run rest ih =>
    obtain ⟨p, va, n⟩ := run
    rw [State.writeSpans]
    exact (State.writePlace_wroteOnly ok p va (List.length_take_le n bs) poisoned seq flow).cons
      (ih ((State.writePlace_kept s p (bs.take n) poisoned seq flow (Kept.refl s)).mem ok) _)

/-- A range that is stored is stored run by run. -/
theorem State.eq_writeSpans_of_writeVA {s t : State} {a : Acc} {va : Nat} {bs : List Byte} {poisoned : Bool}
    (stored : s.writeVA a va bs poisoned = some t) :
    t = s.writeSpans (a.seq.getD 0xFFFFFFFF#32) a.flowsel poisoned (s.spans a true (bs.length + 1) va bs.length) bs := by
  simp only [State.writeVA, Option.ite_none_left_eq_some, Option.some.injEq] at stored
  exact stored.2.symm

theorem State.writeVA_wroteOnly {s t : State} (ok : s.memOk = true) {a : Acc} {va : Nat} {bs : List Byte} {poisoned : Bool}
    (stored : s.writeVA a va bs poisoned = some t) : WroteOnly (s.spans a true (bs.length + 1) va bs.length) s t := by
  rw [State.eq_writeSpans_of_writeVA stored]
  exact State.writeSpans_wroteOnly ok _ _ _ _ _

/-- A run written to a canonical memory reads back. -/
theorem Mem.readN_writeN_of_wf {m : Mem} (wf : m.wf = true) (a : Nat) (bs : List Byte) : (m.writeN a bs).readN a bs.length = bs := by
  refine List.ext_getElem (by simp [Mem.readN]) fun i _ inside => ?_
  simp only [Mem.readN, List.getElem_map, List.getElem_range]
  exact Mem.read_writeN_at bs a i inside wf

theorem State.writeVA_readsBack {s t : State} (ok : s.memOk = true) {a : Acc} {va o : Nat} {bs : List Byte} {poisoned : Bool}
    (stored : s.writeVA a va bs poisoned = some t) (single : s.spans a true (bs.length + 1) va bs.length = [(.sram o, va, bs.length)]) :
    t.mem.sram.readN o bs.length = bs := by
  rw [State.eq_writeSpans_of_writeVA stored, single, State.writeSpans, State.writeSpans, List.take_length, State.writePlace]
  exact Mem.readN_writeN_of_wf (State.wf_of_memOk ok).2.1 o bs

end Sys2Proof.Machine
end

section
/-! VST (O32): where a core's own stores lie, the bytes a tile store may change, and what else it leaves. -/

namespace Sys2Proof.Machine

/-! ### The runs a range is cut into (R362) -/

/-- A range's first run, and the runs of what is left of it. -/
theorem State.spans_cons {n : Nat} (nonempty : n ≠ 0) (s : State) (a : Acc) (wr : Bool) (fuel va : Nat) : s.spans a wr (fuel + 1) va n =
    let run := max 1 (min (s.xlate a va wr).2 n)
    ((s.xlate a va wr).1, va, run) :: s.spans a wr fuel (va + run) (n - run) :=
  if_neg nonempty

/-- Each run lies in the range, at the place of its first byte, and is no longer than that place's bytes lie together. -/
theorem State.mem_spans {s : State} {a : Acc} {wr : Bool} {fuel va n : Nat} {q : Place × Nat × Nat} (cut : q ∈ s.spans a wr fuel va n) :
    va ≤ q.2.1 ∧ q.2.1 + q.2.2 ≤ va + n ∧ q.1 = (s.xlate a q.2.1 wr).1 ∧ q.2.2 ≤ max 1 (s.xlate a q.2.1 wr).2 ∧ 1 ≤ q.2.2 := by
  induction fuel generalizing va n with
  | zero => exact absurd cut List.not_mem_nil
  | succ fuel ih =>
    by_cases empty : n = 0
    · simp [State.spans, empty] at cut
    · rw [State.spans_cons empty, List.mem_cons] at cut
      obtain rfl | later := cut
      · generalize (s.xlate a va wr).2 = together
        refine ⟨Nat.le_refl va, ?_, rfl, ?_, ?_⟩ <;> dsimp only <;> omega
      · obtain ⟨low, high, place, run, positive⟩ := ih later
        exact ⟨by omega, by omega, place, run, positive⟩

/-- The runs of a range are as long as the range, together. -/
theorem State.spans_length (s : State) (a : Acc) (wr : Bool) {fuel n : Nat} (va : Nat) (enough : n ≤ fuel) :
    ((s.spans a wr fuel va n).map (fun q => q.2.2)).sum = n := by
  induction fuel generalizing va n with
  | zero => simp [State.spans, Nat.le_zero.mp enough]
  | succ fuel ih =>
    by_cases empty : n = 0
    · simp [State.spans, empty]
    · simp only [State.spans_cons empty, List.map_cons, List.sum_cons]
      rw [ih _ (by omega)]
      omega

theorem Mem.length_readN (m : Mem) (a n : Nat) : (m.readN a n).length = n := by simp [Mem.readN]

theorem State.length_readPlace (s : State) (p : Place) (n : Nat) : (s.readPlace p n).1.length = n := by
  cases p with
  | hbm pa => exact Mem.length_readN _ _ _
  | host a => exact Mem.length_readN _ _ _
  | sram o => exact Mem.length_readN _ _ _
  | peer id ad => simp [State.readPlace, State.peerRead]
  | cow t e o =>
    simp only [State.readPlace, PageEnt.at_]
    split
    · exact Mem.length_readN _ _ _
    · exact Mem.length_readN _ _ _
    · exact List.length_replicate
  | bad => exact List.length_replicate

theorem State.length_fetchVA (s : State) (a : Acc) (va n : Nat) : (s.fetchVA a va n).length = n := by
  have whole : (((s.spans a false (n + 1) va n).map (fun p => s.readPlace p.1 p.2.2)).flatMap Prod.fst).length = n := by
    rw [List.length_flatMap, List.map_map]
    refine Eq.trans (congrArg List.sum (List.map_congr_left fun p _ => ?_)) (s.spans_length a false va (Nat.le_succ n))
    exact s.length_readPlace p.1 p.2.2
  simp only [State.fetchVA, State.readVA]
  cases (s.spans a false (n + 1) va n).find? (fun p => p.1 == .bad) with
  | some p => exact List.length_replicate
  | none =>
    dsimp only
    cases ((s.spans a false (n + 1) va n).map (fun p => s.readPlace p.1 p.2.2)).findSome? Prod.snd with
    | none => exact whole
    | some pa => exact whole

/-! ### A core's own window (R363) -/

/-- The place of an offset of a core's window of its own memory and its kernel's share of its cluster's. -/
def selfPlace (k : Kern) (w off : Nat) : Place × Nat :=
  if off < 0x1000000 then corePlace w off false else allocPlace k (clusterOf w) (off - 0x1000000)

/-- The window translates alike in every state. -/
theorem State.xlate_self {va : Nat} (window : va / 2 ^ 52 = 0x12) (s : State) (k : Kern) (w : Nat) (wr : Bool) :
    s.xlate (k.accAt w) va wr = selfPlace k w (va % 2 ^ 52) := by
  rw [State.xlate, window]
  rfl

/-- The offsets at which a core's own instructions find its memory: all below the reel shelf, and the scratch above it (R363). -/
theorem corePlace_sram {w off o : Nat} : (corePlace w off false).1 = .sram o ↔
    sramCore w off = o ∧ (off < 0x150000 ∨ 0x180000 ≤ off ∧ off < 0x1C0000) := by
  unfold corePlace
  split
  · simp [*]
  · split
    · simp only [Bool.false_eq_true, if_false, reduceCtorEq, false_iff]
      omega
    · split
      · simp only [Place.sram.injEq, iff_self_and]
        omega
      · simp only [reduceCtorEq, false_iff]
        omega

/-- The bytes of each of the two lie together up to its end. -/
theorem corePlace_together {w off : Nat} (mapped : off < 0x150000 ∨ 0x180000 ≤ off ∧ off < 0x1C0000) :
    (corePlace w off false).2 = (if off < 0x150000 then 0x150000 else 0x1C0000) - off := by
  unfold corePlace
  by_cases low : off < 0x150000
  · simp only [low, if_true]
  · have above : ¬ off < 0x180000 := by omega
    have scratch : off < 0x1C0000 := by omega
    simp only [low, above, scratch, if_true, if_false]

theorem corePlace_run {w off o i : Nat} (here : (corePlace w off false).1 = .sram o) (together : i < max 1 (corePlace w off false).2) :
    (corePlace w (off + i) false).1 = .sram (o + i) ∧ off + i < 0x1C0000 := by
  obtain ⟨rfl, mapped⟩ := corePlace_sram.mp here
  rw [corePlace_together mapped] at together
  have stays : off + i < 0x150000 ∨ 0x180000 ≤ off + i ∧ off + i < 0x1C0000 := by
    split at together <;> omega
  exact ⟨corePlace_sram.mpr ⟨(Nat.add_assoc _ _ _).symm, stays⟩, by omega⟩

theorem allocPlace_run {k : Kern} {n off o i : Nat} (here : (allocPlace k n off).1 = .sram o) (together : i < max 1 (allocPlace k n off).2) :
    (allocPlace k n (off + i)).1 = .sram (o + i) := by
  unfold allocPlace at here together ⊢
  cases bank : (k.banksIn n)[off / bankBytes]? with
  | none => simp [bank] at here
  | some b =>
    simp only [bank, Place.sram.injEq] at here together
    have same : (off + i) / bankBytes = off / bankBytes := by unfold bankBytes at *; omega
    have next : (off + i) % bankBytes = off % bankBytes + i := by unfold bankBytes at *; omega
    simp only [same, bank, next, ← here, sramCluster, Nat.add_assoc]

/-- The bytes that lie together from a place of the window follow one another in SRAM. -/
theorem selfPlace_run {k : Kern} {w off o i : Nat} (here : (selfPlace k w off).1 = .sram o) (together : i < max 1 (selfPlace k w off).2) :
    (selfPlace k w (off + i)).1 = .sram (o + i) := by
  unfold selfPlace at here together ⊢
  by_cases own : off < 0x1000000
  · simp only [own, if_true] at here together
    obtain ⟨next, inside⟩ := corePlace_run here together
    rwa [if_pos (by omega)]
  · simp only [own, if_false] at here together
    rw [if_neg (by omega), show off + i - 0x1000000 = off - 0x1000000 + i by omega]
    exact allocPlace_run here together

/-- Every place of the window is one of SRAM, or none. -/
theorem selfPlace_sram_or_bad (k : Kern) (w off : Nat) : (∃ o, (selfPlace k w off).1 = .sram o) ∨ (selfPlace k w off).1 = .bad := by
  unfold selfPlace corePlace allocPlace
  split
  · split
    · exact .inl ⟨_, rfl⟩
    · split
      · exact .inr rfl
      · split
        · exact .inl ⟨_, rfl⟩
        · exact .inr rfl
  · split
    · exact .inl ⟨_, rfl⟩
    · exact .inr rfl

/-! ### A core's stores in its window -/

/-- The second state is the first but for counters and SRAM, and SRAM differs at some addresses alone. -/
structure StoredIn (may : Nat → Prop) (s t : State) : Prop where
  rest : t = { s with perf := t.perf, mem := { s.mem with sram := t.mem.sram } }
  memOk : s.memOk = true → t.memOk = true
  bytes : s.memOk = true → ∀ x, ¬ may x → Mem.read t.mem.sram x = Mem.read s.mem.sram x

section
variable {may : Nat → Prop} {s t u : State}

theorem StoredIn.refl (may : Nat → Prop) (s : State) : StoredIn may s s := ⟨rfl, id, fun _ _ _ => rfl⟩

theorem StoredIn.trans (h : StoredIn may s t) (g : StoredIn may t u) : StoredIn may s u :=
  ⟨by rw [g.rest, h.rest], fun ok => g.memOk (h.memOk ok), fun ok x out => (g.bytes (h.memOk ok) x out).trans (h.bytes ok x out)⟩

theorem StoredIn.cores (h : StoredIn may s t) : t.cores = s.cores := by rw [h.rest]

theorem StoredIn.core (h : StoredIn may s t) (v : Nat) : t.core v = s.core v := by rw [State.core, h.cores, State.core]

theorem State.bump_storedIn (s : State) (a : At) (ev n : Nat) : StoredIn may s (s.bump a ev n) := by
  refine ⟨?_, (State.bump_kept s a ev n (Kept.refl s)).mem, fun _ x _ => by rw [State.bump_mem]⟩
  rw [State.bump_eq]

theorem State.countNum_storedIn (s : State) (w : Nat) (c : NumCnt) : StoredIn may s (s.countNum w c) := by
  rw [State.countNum]
  iterate 4 refine StoredIn.trans ?_ (State.bump_storedIn _ _ _ _)
  exact State.bump_storedIn _ _ _ _

end

/-- Runs of SRAM stored change SRAM alone. -/
theorem State.writeSpans_sram {runs : List (Place × Nat × Nat)} (sram : ∀ q ∈ runs, (∃ o, q.1 = .sram o) ∨ q.1 = .bad) (s : State)
    (seq : Word) (flow : Nat) (poisoned : Bool) (bs : List Byte) : s.writeSpans seq flow poisoned runs bs =
      { s with mem := { s.mem with sram := (s.writeSpans seq flow poisoned runs bs).mem.sram } } := by
  induction runs generalizing s bs with
  | nil => rfl
  | cons run rest ih =>
    obtain ⟨p, va, n⟩ := run
    obtain ⟨here, later⟩ := List.forall_mem_cons.mp sram
    rw [State.writeSpans, ih later]
    obtain ⟨o, rfl⟩ | rfl := here <;> rfl

/-- Bytes stored by a core in its window stand at their places in SRAM, and nothing else changes. -/
theorem State.selfWrite_storedIn {may : Nat → Prop} {k : Kern} {w va : Nat} {bs : List Byte} (window : va / 2 ^ 52 = 0x12)
    (whole : va + bs.length ≤ 0x13 * 2 ^ 52)
    (within : ∀ i, i < bs.length → ∀ x, (selfPlace k w ((va + i) % 2 ^ 52)).1 = .sram x → may x) (s : State) :
    StoredIn may s (s.selfWrite k w va bs) := by
  rw [State.selfWrite, State.storeVA]
  cases stored : s.writeVA (k.accAt w) va bs false with
  | none => exact StoredIn.refl may s
  | some t =>
    have places : ∀ q ∈ s.spans (k.accAt w) true (bs.length + 1) va bs.length, q.2.1 / 2 ^ 52 = 0x12 ∧
        q.1 = (selfPlace k w (q.2.1 % 2 ^ 52)).1 ∧ q.2.2 ≤ max 1 (selfPlace k w (q.2.1 % 2 ^ 52)).2 := fun q cut => by
      obtain ⟨low, high, place, run, positive⟩ := State.mem_spans cut
      have own : q.2.1 / 2 ^ 52 = 0x12 := by omega
      rw [State.xlate_self own] at place run
      exact ⟨own, place, run⟩
    refine ⟨?_, (State.writeVA_kept s _ va bs false (Kept.refl s)).get stored |>.mem, fun ok x out => ?_⟩
    · rw [Option.getD_some, State.eq_writeSpans_of_writeVA stored]
      rw [State.writeSpans_sram (fun q cut => (places q cut).2.1 ▸ selfPlace_sram_or_bad k w _)]
    · refine (State.writeVA_wroteOnly ok stored).sram x fun q cut o here => Decidable.byContradiction fun inside => ?_
      obtain ⟨low, high, -, -⟩ := State.mem_spans cut
      obtain ⟨own, place, run⟩ := places q cut
      have byte : (selfPlace k w ((va + (q.2.1 - va + (x - o))) % 2 ^ 52)).1 = .sram x := by
        have sram := selfPlace_run (i := x - o) (place.symm.trans here) (by omega)
        rwa [show q.2.1 % 2 ^ 52 + (x - o) = (va + (q.2.1 - va + (x - o))) % 2 ^ 52 by omega, show o + (x - o) = x by omega] at sram
      exact out (within _ (by omega) x byte)

/-! ### A tile store (R272, R273, R277) -/

theorem NumFmt.length_putElem (f : NumFmt) (row : List Byte) (i v : Nat) : (f.putElem row i v).length = row.length :=
  leBytes_length _ _

theorem length_plainRow (f : NumFmt) (old : List Byte) (els : List (Nat × RMode × Word)) : (plainRow f old els).1.length = old.length :=
  List.foldlRecOn els _ (motive := fun acc : List Byte × NumCnt => acc.1.length = old.length) rfl
    fun _ len _ _ => (f.length_putElem _ _ _).trans len

theorem length_mxRow (f : NumFmt) (old : List Byte) (out : List Nat) (els : List (Nat × RMode × Word)) :
    (mxRow f old out els).1.length = old.length := by
  have put : ∀ (b : List Byte) (i v : Nat), b.length = old.length → (f.putElem b i v).length = old.length :=
    fun _ _ _ len => (f.length_putElem _ _ _).trans len
  exact List.foldlRecOn out _ (motive := fun b : List Byte => b.length = old.length)
    (List.foldlRecOn _ _ (motive := fun b : List Byte => b.length = old.length) rfl fun _ len _ _ => put _ _ _ len) fun _ len _ _ => put _ _ _ len

/-- The lengths of a core are at most those of its tiles (R276). -/
theorem Core.lens_le (c : Core) : c.lens.1 ≤ 16 ∧ c.lens.2 ≤ 16 :=
  List.foldlRecOn c.loops _ (motive := fun a : Nat × Nat => a.1 ≤ 16 ∧ a.2 ≤ 16) ⟨Nat.le_refl _, Nat.le_refl _⟩
    fun _ small _ _ => ⟨Nat.le_trans (Nat.min_le_left _ _) small.1, Nat.le_trans (Nat.min_le_left _ _) small.2⟩

/-- A run of a tile access: a row's, or the scale bytes. -/
theorem TileAcc.mem_runs {t : TileAcc} {store : Bool} {q : Nat × Nat} : q ∈ t.runs store ↔
    (∃ r < t.lr, (t.off + r * t.stride, t.rowLen store) = q) ∨ t.fmt.isMx = true ∧ q = (t.scales, t.lr) := by
  unfold TileAcc.runs
  cases t.fmt.isMx <;> simp

theorem NumFmt.rowBytes_le {n : Nat} (few : n ≤ 32) (f : NumFmt) : f.rowBytes n ≤ 128 := by
  have narrow : f.width ≤ 32 := by cases f <;> decide
  have bits : f.width * n ≤ 32 * 32 := Nat.mul_le_mul narrow few
  unfold NumFmt.rowBytes ceilDiv
  omega

/-- A word reaches no further than 33 bits of offset. -/
theorem Core.tileAcc_runs_le (c : Core) (n : Nat) (f : NumFmt) (store : Bool) {q : Nat × Nat} (run : q ∈ (c.tileAcc n f).runs store) :
    q.1 + q.2 ≤ 2 ^ 33 := by
  obtain ⟨rows, cols⟩ := c.lens_le
  have lr : (c.tileAcc n f).lr ≤ 16 := rows
  have lc : (c.tileAcc n f).lc ≤ 16 := cols
  have colsLe : (c.tileAcc n f).cols ≤ 32 := by
    simp only [Core.tileAcc]
    split <;> decide
  have off : (c.tileAcc n f).off < 2 ^ 32 := by
    simp only [Core.tileAcc]
    split <;> exact BitVec.isLt _
  have scales : (c.tileAcc n f).scales < 2 ^ 32 := BitVec.isLt _
  have stride : (c.tileAcc n f).stride ≤ 2 ^ 16 := by
    have whole : f.rowBytes (if f.isMx && !bitOf n 22 then 32 else 16) ≤ 128 := f.rowBytes_le (by split <;> decide)
    have units : fld n 38 12 < 2 ^ 12 := Nat.mod_lt _ (by decide)
    simp only [Core.tileAcc]
    split <;> omega
  have len : (c.tileAcc n f).rowLen store ≤ 128 := by
    unfold TileAcc.rowLen
    split
    · exact NumFmt.rowBytes_le colsLe _
    · exact NumFmt.rowBytes_le (by omega) _
  obtain ⟨r, row, rfl⟩ | ⟨-, rfl⟩ := TileAcc.mem_runs.mp run
  · have down : r * (c.tileAcc n f).stride ≤ 16 * 2 ^ 16 := Nat.mul_le_mul (by omega) stride
    dsimp only
    omega
  · dsimp only
    omega

/-- An offset of a space lies in the core's window. -/
theorem spaceVa_window {off : Nat} (small : off ≤ 2 ^ 33) (sp : Nat) :
    spaceVa sp off / 2 ^ 52 = 0x12 ∧ spaceVa sp off + 2 ^ 33 ≤ 0x13 * 2 ^ 52 := by
  have base : spaceBase sp ≤ 2 ^ 24 := by
    unfold spaceBase
    split <;> decide
  unfold spaceVa selfWindow
  omega

/-- The bytes of SRAM that a tile store may write: those its runs name. -/
def TileAcc.stores (t : TileAcc) (k : Kern) (w x : Nat) : Prop :=
  ∃ q ∈ t.runs true, ∃ i < q.2, (selfPlace k w (spaceVa t.space (q.1 + i) % 2 ^ 52)).1 = .sram x

section
variable {t : TileAcc} {q : Nat × Nat} (run : q ∈ t.runs true) (small : q.1 + q.2 ≤ 2 ^ 33)
include run small

/-- A part of a run of a tile store written. -/
theorem TileAcc.storedIn_of_run {j : Nat} {bs : List Byte} (part : j + bs.length ≤ q.2) (k : Kern) (w : Nat) (s : State) :
    StoredIn (t.stores k w) s (s.selfWrite k w (spaceVa t.space (q.1 + j)) bs) := by
  obtain ⟨window, whole⟩ := spaceVa_window (off := q.1 + j) (by omega) t.space
  refine State.selfWrite_storedIn window (by omega) (fun i inside x here => ⟨q, run, j + i, by omega, ?_⟩) s
  rwa [spaceVa, ← Nat.add_assoc q.1, ← Nat.add_assoc]

end

/-- A row of a tile store: its lanes' elements over the bytes there, and in an MX format its scale byte (R273, R277). -/
def State.storeRow (s : State) (k : Kern) (w : Nat) (t : TileAcc) (out : List Nat) (els : List (Nat × RMode × Word)) (r : Nat) : State :=
  let va := spaceVa t.space (t.off + r * t.stride)
  let old := s.selfRead k w va (t.rowLen true)
  if t.fmt.isMx then
    let row := mxRow t.fmt old out els
    ((s.selfWrite k w va row.1).selfWrite k w (spaceVa t.space (t.scales + r)) (leBytes 1 row.2.1)).countNum w row.2.2
  else
    let row := plainRow t.fmt old els
    (s.selfWrite k w va row.1).countNum w row.2

/-- A tile store stores its rows, then steps its address register. -/
theorem State.storeTile_eq (s : State) (k : Kern) (w n reg : Nat) (t : TileAcc) :
    ∃ (out : List Nat) (els : Nat → List (Nat × RMode × Word)), s.storeTile k w n reg t =
    let u := (List.range t.lr).foldl (fun s r => s.storeRow k w t out (els r) r) s
    u.setCore w ((u.core w).stepX n) :=
  ⟨_, _, rfl⟩

section
variable {t : TileAcc} (small : ∀ q ∈ t.runs true, q.1 + q.2 ≤ 2 ^ 33)
include small

theorem State.storeRow_storedIn {r : Nat} (listed : r < t.lr) (s : State) (k : Kern) (w : Nat) (out : List Nat)
    (els : List (Nat × RMode × Word)) : StoredIn (t.stores k w) s (s.storeRow k w t out els r) := by
  have row : (t.off + r * t.stride, t.rowLen true) ∈ t.runs true := TileAcc.mem_runs.mpr (.inl ⟨r, listed, rfl⟩)
  have storesRow : ∀ bs : List Byte, bs.length = t.rowLen true →
      StoredIn (t.stores k w) s (s.selfWrite k w (spaceVa t.space (t.off + r * t.stride)) bs) := fun bs whole =>
    TileAcc.storedIn_of_run row (small _ row) (j := 0) (by simp [whole]) k w s
  have old : (s.selfRead k w (spaceVa t.space (t.off + r * t.stride)) (t.rowLen true)).length = t.rowLen true := s.length_fetchVA _ _ _
  rw [State.storeRow]
  split
  case isTrue mx =>
    have scales : (t.scales, t.lr) ∈ t.runs true := TileAcc.mem_runs.mpr (.inr ⟨mx, rfl⟩)
    have storesScale := fun (v : State) (x : Nat) => TileAcc.storedIn_of_run scales (small _ scales) (j := r) (bs := leBytes 1 x)
      (by rw [leBytes_length]; exact listed) k w v
    exact ((storesRow _ ((length_mxRow _ _ _ _).trans old)).trans (storesScale _ _)).trans (State.countNum_storedIn _ _ _)
  case isFalse =>
    exact (storesRow _ ((length_plainRow _ _ _).trans old)).trans (State.countNum_storedIn _ _ _)

/-- A tile store writes the bytes of its runs and steps its address register. -/
theorem State.storeTile_storedIn (s : State) (k : Kern) (w n reg : Nat) :
    ∃ u, StoredIn (t.stores k w) s u ∧ s.storeTile k w n reg t = u.setCore w ((s.core w).stepX n) := by
  obtain ⟨out, els, stores⟩ := s.storeTile_eq k w n reg t
  have stored := List.foldlRecOn (List.range t.lr) (fun s r => s.storeRow k w t out (els r) r)
    (motive := StoredIn (t.stores k w) s) (StoredIn.refl _ s)
    fun u done r listed => done.trans (u.storeRow_storedIn small (List.mem_range.mp listed) k w out (els r))
  exact ⟨_, stored, by rw [stores, ← stored.core w]⟩

end

/-! ### VST (O32) -/

/-- What an instruction meets differs from the state before it in its core, and as an access to memory does (R262, R263). -/
theorem State.atIssue_access (s : State) (w : Nat) : Access { s with cores := (s.atIssue w).cores } (s.atIssue w) := by
  rw [State.atIssue, State.finishElem]
  split
  · rename_i r k _ _
    have done := s.elemGroups_access k w r ((parseElem r.desc).groups - r.next)
    exact { done with cores := rfl }
  · exact { Access.refl s with cores := rfl }

theorem State.atVector_memOk {s : State} (ok : s.memOk = true) (w cycles : Nat) : (s.atVector w cycles).memOk = true :=
  (State.countVec_kept _ w cycles (State.atIssue_kept s w (Kept.refl s))).mem ok

theorem State.atVector_access (s : State) (w cycles : Nat) :
    Access { s with cores := (s.atVector w cycles).cores } (s.atVector w cycles) := by
  rw [State.atVector, State.countVec, State.bump_cores, State.bump_cores]
  exact State.bump_access _ _ _ _ (State.bump_access _ _ _ _ (s.atIssue_access w))

/-- Settles O32: the checks pass (`tileAccess_next`), the store writes the bytes of its runs and steps its address register
(`storeTile_storedIn`), and a store through the address range writes those of its runs (`writeVA_wroteOnly`). -/
theorem vstStores : Obligations.VstStores := by
  refine ⟨?tile, fun a va bs poisoned s t ok stored => ?range⟩
  case range =>
    obtain ⟨sram, host, hbm⟩ := State.writeVA_wroteOnly ok stored
    exact ⟨sram, host, hbm, fun o single => State.writeVA_readsBack ok stored single⟩
  case tile =>
    intro w word s k f issues n s0 c a fmt mode pair aligned reach
    obtain ⟨u, stored, stores⟩ := s0.storeTile_storedIn (t := a) (fun q run => c.tileAcc_runs_le n f true run) k w.val n (fld n 8 5)
    have stepped : (s0.storeTile k w.val n (fld n 8 5) a).core w.val = c.stepX n := by rw [stores, State.core_setCore_same]
    obtain ⟨t, after⟩ : ∃ t, t = (s0.storeTile k w.val n (fld n 8 5) a).bump (.core w.val) 0x0E1 (a.cycles true * outLanes c.lens) :=
      ⟨_, rfl⟩
    have core : t.core w.val = c.stepX n := by rw [after, State.core_bump, stepped]
    have only : u.coreOnly (t.retire w.val) w.val := by
      rw [after, stores]
      exact State.coreOnly_retire (State.coreOnly_bump (State.coreOnly_setCore (State.coreOnly_refl u _) _) _ _ _)
    have rest : t.retire w.val = { s0 with
        cores := (t.retire w.val).cores, perf := (t.retire w.val).perf, mem := { s0.mem with sram := (t.retire w.val).mem.sram } } := by
      rw [only.1, stored.rest]
    have keeps : Access { s with cores := (t.retire w.val).cores } (t.retire w.val) := by
      rw [rest]
      exact { s.atVector_access w.val 0 with cores := rfl }
    refine ⟨t.retire w.val, ?does, by rw [after], fun j => ?x, ?tiles, ?preds,
      fun v other => ?others, keeps.host, keeps.cmds, keeps.sched, keeps.reels, keeps.kv, keeps.progs,
      ⟨keeps.boot, keeps.gaf, keeps.mod, keeps.flt_base⟩, rest, fun ok x outside => ?bytes⟩
    case does =>
      rw [after]
      exact tileAccess_next (store := true) (go := fun k s _ t => s.storeTile k w.val n (fld n 8 5) t) issues fmt (fun _ => mode) pair aligned
        reach (by rw [stepped, Core.stepX_owner])
    case x => rw [State.x_retire, core]
    case tiles => rw [State.tiles_retire, core, Core.stepX_tiles]
    case preds => rw [State.preds_retire, core, Core.stepX_preds]
    case others =>
      rw [only.2 v other, stored.core v, State.core_atVector]
      exact (s.atIssue_queueWork w.val).others v other
    case bytes =>
      have sram : (t.retire w.val).mem = u.mem := by rw [only.1]
      rw [sram]
      refine stored.bytes (State.atVector_memOk ok w.val 0) x ?_
      rintro ⟨q, run, i, inside, here⟩
      have near := c.tileAcc_runs_le n f true run
      refine outside q run i inside ?_
      rwa [State.xlate_self (spaceVa_window (off := q.1 + i) (by omega) a.space).1]

end Sys2Proof.Machine
end

section
/-! Register instructions of the vector engine (O26, O27): what an instruction that changes its core alone leaves, the lanes VOP, VCVT and
VRED write, and the bits VCMP writes. -/

namespace Sys2Proof.Machine

/-! ### Instructions that change their core alone (R262, R275) -/

/-- A core that keeps its owner goes past its instruction. -/
theorem State.core_retire_owned {s : State} {w : Nat} (owned : (s.core w).owner.isSome = true) : (s.retire w).core w = (s.core w).next := by
  rw [State.core_retire_same, if_neg]
  simpa [Option.isSome_iff_ne_none] using owned

/-- An instruction whose effect is on its core and the counters, and which leaves the core to its kernel, has that effect and the core
goes past it. -/
theorem issue_ownCore {w : CoreIx} {word : Dword} {op : Nat} {s : State} {k : Kern} (issues : s.issues w word op k)
    {f : Kern → State → Option State} {u : State} (effect : f k (s.atIssue w.val) = some u)
    (only : (s.atIssue w.val).coreOnly u w.val) (owner : (u.core w.val).owner = ((s.atIssue w.val).core w.val).owner) :
    ∃ t, issue w word (fun n => opcodeOf n == op) f s = .next t ∧ t.core w.val = (u.core w.val).next ∧
      (s.atIssue w.val).coreOnly t w.val := by
  obtain ⟨issuing, opcode, good⟩ := issues
  have owned : (u.core w.val).owner.isSome = true := by
    rw [owner, (s.atIssue_queueWork w.val).owner]
    exact State.owner_of_kernOn (State.issuing_some issuing).1
  exact ⟨_, issue_next issuing (by simp [opcode]) good effect owned, State.core_retire_owned owned, State.coreOnly_retire only⟩

/-! ### Lanes written (R267) -/

/-- The lanes of a register instruction's destination: those let through take new values, the others keep theirs (R267). -/
def Core.lanesAfter (c : Core) (n d : Nat) (v : Nat → Word) : Nat → Word :=
  fun i => if c.laneOn n i then v i else nth (c.tile d) i 0

/-- Lanes rewritten are those of one register, the word's predicate letting them through. -/
theorem State.writeLanes_eq (s : State) (w n d : Nat) (v : Nat → Word × NumCnt) : ∃ cnt,
    s.writeLanes w n d ((List.range 256).map v) =
      (s.setCore w ((s.core w).setTile d ((List.range 256).map ((s.core w).lanesAfter n d (fun i => (v i).1))))).countNum w cnt := by
  refine ⟨_, congrArg (fun l => (s.setCore w ((s.core w).setTile d l)).countNum w _) (List.map_congr_left fun i mem => ?_)⟩
  have inside := List.mem_range.mp mem
  rw [nth_map_range inside, nth_map_range inside, Core.lanesAfter]

/-- A vector instruction that rewrites lanes of a register, on a state that differs in the counters alone from the one it meets. -/
theorem vecIssue_writesLanes {w : CoreIx} {word : Dword} {op cycles : Nat} {s : State} {k : Kern} (issues : s.issues w word op k)
    {f : Kern → State → State} {u : State} {d : Nat} {v : Nat → Word × NumCnt} {x : Nat → Word}
    {i : Instr} (does : exec i s = vecIssue w word op cycles f s)
    (effect : f k (s.atVector w.val cycles) = u.writeLanes w.val word.toNat d ((List.range 256).map v))
    (only : (s.atIssue w.val).coreOnly u w.val) (core : u.core w.val = (s.atIssue w.val).core w.val) (values : ∀ i, (v i).1 = x i) :
    ∃ t, exec i s = .next t ∧
      (s.atIssue w.val).tileWritten t w.val d (((s.atIssue w.val).core w.val).lanesAfter word.toNat d x) := by
  obtain ⟨cnt, writes⟩ := u.writeLanes_eq w.val word.toNat d v
  obtain ⟨c, own⟩ : ∃ c, c = (s.atIssue w.val).core w.val := ⟨_, rfl⟩
  rw [writes, core, ← own, funext values] at effect
  obtain ⟨t, next, after, only⟩ := issue_ownCore issues (f := fun k s => some (f k (s.countVec w.val cycles))) (congrArg some effect)
    (State.coreOnly_countNum (State.coreOnly_setCore only _) _ _) (by rw [State.core_countNum, State.core_setCore_same, ← own]; rfl)
  rw [State.core_countNum, State.core_setCore_same] at after
  have tile : ∀ e, (t.core w.val).tile e = if e = d then (List.range 256).map (c.lanesAfter word.toNat d x) else c.tile e := fun e => by
    rw [← Core.tile_setTile, Core.tile, after, Core.next_tiles, Core.tile]
  rw [← own]
  refine ⟨t, does.trans next, fun i inside => ?_, fun e other => ?_, ?_, ?_, only⟩
  · rw [tile, if_pos rfl, nth_map_range inside]
  · rw [tile, if_neg other, own]
  · rw [after, Core.next_preds, ← own]
    rfl
  · rw [after, Core.next_xs, ← own]
    rfl

/-- Settles O26: each of the three rewrites the lanes let through of its destination (`vecIssue_writesLanes`) with the function of its
sources; before it, a core with no element program under way loses only its hold (`State.atIssue_idle`). -/
theorem vectorLanes : Obligations.VectorLanes := by
  intro w word s k n s0 c d f a does
  have counted := s.atVector_coreOnly w.val
  refine ⟨State.atIssue_idle, fun issues => ?vop, fun g issues fmt plain mode => ?vcvt, fun issues => ?vred⟩
  case vop =>
    have runs : exec (.vop w word) s = vecIssue w word 0x10 (funcCycles f) (fun _ s => s.vop w.val n) s := rfl
    refine vecIssue_writesLanes issues runs rfl (counted _) (s.core_atVector _ _ _) fun i => ?_
    rw [State.core_atVector]
    exact apply_ite Prod.fst _ _ _
  case vcvt =>
    have runs : exec (.vcvt w word) s = vecIssue w word 0x11 1 (fun k s => s.vcvt w.val n k) s := rfl
    have fine : (g.isMx || fld n 45 2 == 3) = false := by simp [plain, mode]
    refine vecIssue_writesLanes issues runs (u := s.atVector w.val 1) (v := fun i =>
      g.vcvt (rmodeOf (fld n 45 2) (nth (c.tile (fld n 23 5)) i 0).toNat) (nth a i 0)) ?_ (counted _) (s.core_atVector _ _ _)
      fun _ => rfl
    simp only [State.vcvt, fmt, fine, Bool.false_eq_true, if_false, State.core_atVector]
    rfl
  case vred =>
    have runs : exec (.vred w word) s = vecIssue w word 0x12 1 (fun _ s => s.vred w.val n) s := rfl
    refine vecIssue_writesLanes issues runs (u := (s.atVector w.val 1).bump (.core w.val) 0x0E3 1) rfl
      (State.coreOnly_bump (counted _) _ _ _) (by rw [State.core_bump, State.core_atVector]) fun i => ?_
    rw [State.core_atVector]

/-! ### VCMP (R268, R269) -/

theorem testBit_flagsNat (l : List Bool) (i : Nat) : (flagsNat l).testBit i = nth l i false := by
  induction l generalizing i with
  | nil => simp [flagsNat, nth]
  | cons b rest ih =>
    cases i with
    | zero => cases b <;> simp [flagsNat, nth, b2n]
    | succ i =>
      have bit : b2n b ≤ 1 := by cases b <;> decide
      rw [flagsNat, Nat.testBit_succ, show (b2n b + 2 * flagsNat rest) / 2 = flagsNat rest by omega, ih, nth, nth, List.getElem?_cons_succ]

/-- A predicate register after another than P0, whose bits all read 1, is written. -/
theorem Core.pred_putPred (c : Core) {p : Nat} (holds : p ≠ 0) (b : BitVec 256) (q : Nat) :
    ({ c with preds := Tab.put c.preds p b } : Core).pred q = if q = p then b else c.pred q := by
  by_cases zero : q = 0
  · simp [Core.pred, zero, holds.symm]
  · simp [Core.pred, zero, Tab.at_put]

/-- The reserved words of VCMP: a function code of 12 or more, P0 as destination, a reserved bit set (R268, R269). -/
theorem wordBad_vcmp {n : Nat} (opcode : opcodeOf n = 0x15) :
    wordBad n = (decide (11 < fld n 32 8) || fld n 8 3 == 0 || fld n 11 2 != 0) := by
  simp only [wordBad, opcode]
  rfl

/-- The bits of VCMP's predicate register after it (R269). -/
def Core.bitCompared (c : Core) (n i : Nat) : Bool :=
  let f := fld n 32 8
  if c.laneOn n i then vcmpFn f (nth (c.tile (fld n 13 5)) i 0) (nth (c.srcB n (decide (6 ≤ f))) i 0)
  else (c.pred (fld n 8 3)).toNat.testBit i

/-- A core after a VCMP. -/
def Core.compared (c : Core) (n : Nat) : Core :=
  { c with preds := Tab.put c.preds (fld n 8 3) (BitVec.ofNat 256 (flagsNat ((List.range 256).map (c.bitCompared n)))) }

theorem exec_vcmp (w : CoreIx) (word : Dword) (s : State) : exec (.vcmp w word) s =
    vecIssue w word 0x15 1 (fun _ u => u.setCore w.val ((u.core w.val).compared word.toNat)) s :=
  rfl

section
variable (c : Core) {n : Nat} (holds : fld n 8 3 ≠ 0)
include holds

theorem Core.testBit_compared {i : Nat} (inside : i < 256) :
    ((c.compared n).pred (fld n 8 3)).toNat.testBit i = c.bitCompared n i := by
  rw [Core.compared, Core.pred_putPred c holds, if_pos rfl, BitVec.toNat_ofNat, Nat.testBit_mod_two_pow, testBit_flagsNat,
    nth_map_range inside]
  simp [inside]

theorem Core.pred_compared {q : Nat} (other : q ≠ fld n 8 3) : (c.compared n).pred q = c.pred q := by
  rw [Core.compared, Core.pred_putPred c holds, if_neg other]

end

@[simp] theorem Core.next_pred (c : Core) (p : Nat) : c.next.pred p = c.pred p := by rw [Core.pred, Core.next_preds, Core.pred]

/-- Settles O27: VCMP writes its register bit by bit (`Core.testBit_compared`) and no other (`Core.pred_compared`); a reserved word ends
its command (`reservedInstruction_ends`). -/
theorem vcmpWrites : Obligations.VcmpWrites := by
  refine ⟨?writes, ?reserved⟩
  case writes =>
    intro w word s k issues n s0 c f b p
    have holds : p ≠ 0 := by
      have good := issues.2.2
      rw [wordBad_vcmp issues.2.1] at good
      simp only [Bool.or_eq_false_iff, beq_eq_false_iff_ne] at good
      exact good.1.2
    obtain ⟨t, next, after, only⟩ := issue_ownCore issues
      (f := fun _ u => some ((u.countVec w.val 1).setCore w.val (((u.countVec w.val 1).core w.val).compared n))) rfl
      (State.coreOnly_setCore (s.atVector_coreOnly w.val 1) _)
      (by rw [State.core_setCore_same]; exact congrArg (fun c : Core => (c.compared n).owner) (s.core_atVector w.val 1 w.val))
    have compared : t.core w.val = (c.compared n).next := by
      rw [after, State.core_setCore_same]
      exact congrArg (fun c : Core => (c.compared n).next) (s.core_atVector w.val 1 w.val)
    refine ⟨holds, t, (exec_vcmp w word s).trans next, fun i inside => ?_, fun q other => ?_, ?_, ?_, only⟩ <;> rw [compared]
    · rw [Core.next_pred, c.testBit_compared holds inside]
      rfl
    · rw [Core.next_pred, c.pred_compared holds other]
    · exact Core.next_tiles _
    · exact Core.next_xs _
  case reserved =>
    intro w word s k issuing opcode reserved
    refine reservedInstruction_ends issuing ?_
    rw [wordBad_vcmp opcode]
    obtain code | zero := reserved
    · simp [show 11 < fld word.toNat 32 8 from code]
    · simp [zero]

end Sys2Proof.Machine
end

section
/-! VSETX and VLOOP (O28, O29): index registers and loops. -/

namespace Sys2Proof.Machine

@[simp] theorem State.preds_atIssue (s : State) (w : Nat) : ((s.atIssue w).core w).preds = (s.core w).preds :=
  (congrArg Core.preds (s.atIssue_queueWork w).own :)

theorem State.x_atIssue (s : State) (w i : Nat) : ((s.atIssue w).core w).x i = (s.core w).x i := by
  rw [Core.x, (s.atIssue_queueWork w).xs, Core.x]

/-- Settles O28: an index register reads after VSETX what is written to it, X0 zero (`Core.x_setX`). -/
theorem vsetxWrites : Obligations.VsetxWrites := by
  intro w word s k issues n s0 x imm
  obtain ⟨t, next, after, only⟩ := issue_ownCore issues
    (f := fun _ u => some (u.setCore w.val ((u.core w.val).setX x (if bitOf n 11 then (u.core w.val).x x + imm else imm)))) rfl
    (State.coreOnly_setCore (State.coreOnly_refl _ _) _) (by rw [State.core_setCore_same, Core.setX_owner])
  rw [State.core_setCore_same] at after
  refine ⟨t, next, ?_, fun j other => ?_, ?_, ?_, only⟩ <;> rw [after]
  · rw [Core.next_x, Core.x_setX, if_pos rfl, s.x_atIssue]
  · rw [Core.next_x, Core.x_setX, if_neg other, s.x_atIssue]
  · rw [Core.next_tiles, Core.setX_tiles, (s.atIssue_queueWork w.val).tiles]
  · rw [Core.next_preds, Core.setX_preds, s.preds_atIssue]

/-! ### VLOOP (R275, R276, R278) -/

@[simp] theorem State.entOf_atIssue (s : State) (w : Nat) (k : Kern) : (s.atIssue w).entOf k = s.entOf k := by
  rw [State.entOf, State.prog, (s.atIssue_access w).progs, State.entOf, State.prog]

/-- A VLOOP in order: with TRIP 0 its body is passed over, else the loop opens around it. -/
def Core.looped (c : Core) (n : Nat) : Core :=
  if fld n 22 16 = 0 then { c with pos := c.pos + fld n 10 12 }
  else { c with loops :=
    { start := c.pos + 1, len := fld n 10 12, trip := fld n 22 16, iter := 0, tailR := fld n 38 4, tailC := fld n 42 4 } :: c.loops }

theorem Core.looped_owner (c : Core) (n : Nat) : (c.looped n).owner = c.owner := by
  unfold Core.looped
  split <;> rfl

/-- VLOOP opens its loop or passes over its body where that is in order, and ends its command where not. -/
def State.vloop (s : State) (k : Kern) (w n : Nat) : State :=
  if (s.core w).loopBad (((s.entOf k).map KernelEnt.words).getD 0) (fld n 10 12) then s.endCmd k.seq .deviceFault
  else s.setCore w ((s.core w).looped n)

theorem exec_vloop (w : CoreIx) (word : Dword) (s : State) : exec (.vloop w word) s =
    issue w word (fun n => opcodeOf n == 0x30) (fun k u => some (u.vloop k w.val word.toNat)) s := by
  show execVloop w word s = _
  simp only [execVloop, State.vloop, Core.looped, apply_ite (State.setCore _ w.val)]

section
variable {w : CoreIx} {word : Dword} {s : State} {k : Kern} (issues : s.issues w word 0x30 k)
include issues

/-- A VLOOP in order changes its core alone. -/
theorem exec_vloop_next (good : ((s.atIssue w.val).core w.val).loopBad (((s.entOf k).map KernelEnt.words).getD 0)
    (fld word.toNat 10 12) = false) :
    ∃ t, exec (.vloop w word) s = .next t ∧ (s.atIssue w.val).coreOnly t w.val ∧
      t.core w.val = (((s.atIssue w.val).core w.val).looped word.toNat).next := by
  have effect : (s.atIssue w.val).vloop k w.val word.toNat =
      (s.atIssue w.val).setCore w.val (((s.atIssue w.val).core w.val).looped word.toNat) := by
    rw [State.vloop, State.entOf_atIssue, good]
    rfl
  obtain ⟨t, next, after, only⟩ := issue_ownCore issues (f := fun k u => some (u.vloop k w.val word.toNat)) (congrArg some effect)
    (State.coreOnly_setCore (State.coreOnly_refl _ _) _) (by rw [State.core_setCore_same, Core.looped_owner])
  rw [State.core_setCore_same] at after
  exact ⟨t, (exec_vloop w word s).trans next, only, after⟩

/-- A VLOOP out of order ends its command. -/
theorem exec_vloop_ends (bad : ((s.atIssue w.val).core w.val).loopBad (((s.entOf k).map KernelEnt.words).getD 0)
    (fld word.toNat 10 12) = true) :
    s.endsBy (.vloop w word) w k .deviceFault [] := by
  refine issue_endsBy_endCmd issues (exec_vloop w word s) (by decide) (by decide) (congrArg some ?_)
  rw [State.vloop, State.entOf_atIssue, if_pos bad]

end

/-- Settles O29: a VLOOP in order changes its core alone (`exec_vloop_next`), one out of order ends its command (`exec_vloop_ends`). That
its end tells no report is log entry 73's choice; that a fifth loop is refused even with TRIP 0 is entry 67's. -/
theorem vloopOpens : Obligations.VloopOpens := by
  intro w word s k issues n s0 c body trip words fr
  refine ⟨fun good skips => ?_, fun good opens => ?_, exec_vloop_ends issues⟩ <;>
    obtain ⟨t, next, only, core⟩ := exec_vloop_next issues good
  · exact ⟨t, next, only, by rw [core, Core.looped, if_pos skips]⟩
  · exact ⟨t, next, only, by rw [core, Core.looped, if_neg opens]⟩

end Sys2Proof.Machine
end

section
/-! EPRUN (O34): an element program under way at its core, and what it leaves by the core's next instruction. -/

namespace Sys2Proof.Machine

/-! ### The program starts (R284 to R287) -/

/-- The element program a descriptor starts at a core: its instructions and constants as they stand in memory, the take row drawn whose
generator rounds (log entry 37). -/
def State.elemRun (s : State) (k : Kern) (w : Nat) (b : List Byte) : ElemRun :=
  let d := parseElem b
  { desc := b, prog := tabulate d.plen (fun i => recField (s.selfRead k w d.prog (4 * d.plen)) (4 * i) 4)
    consts := tabulate 16 (fun i => BitVec.ofNat 32 (recField (s.selfRead k w d.consts 64) (4 * i) 4))
    row := s.draw.1.toNat % max 1 ((s.core w).x 1).toNat }

/-- An element program whose checks pass is under way. -/
theorem State.eprun_starts {s : State} {k : Kern} {w n : Nat} {b : List Byte} (good : (parseElem b).bad = none)
    (reach : s.selfBads k w [((parseElem b).prog, 4 * (parseElem b).plen), ((parseElem b).consts, 64)] = none)
    (known : (s.elemRun k w b).prog.any elemBad = false) (operands : s.elemReach k w (parseElem b) = none) :
    s.eprun k w n b = s.draw.2.updCore w (fun c => { c with elem := some (s.elemRun k w b) }) := by
  rw [State.elemRun] at known
  dsimp only at known
  simp only [State.eprun, good, reach, known, operands, Bool.false_eq_true, if_false]
  rfl

@[simp] theorem Core.next_elem (c : Core) : c.next.elem = c.elem := by rw [Core.next_eq]

@[simp] theorem State.core_draw (s : State) (v : Nat) : s.draw.2.core v = s.core v := rfl

/-- A free value drawn, a core changed and moved on: nothing else changes. -/
theorem State.retire_updCore_draw (s : State) (w : Nat) (f : Core → Core) : (s.draw.2.updCore w f).retire w =
    { s with cores := ((s.draw.2.updCore w f).retire w).cores, freeCtr := s.freeCtr + 1 } :=
  State.retire_eq _ w

/-- EPRUN in order stands at its core with its program, and the core goes past it. -/
theorem exec_eprun {w : CoreIx} {word : Dword} {s : State} {k : Kern} {b : List Byte} (issues : s.issues w word 0x31 k)
    (read : (s.atVector w.val 0).descOf k w.val word.toNat 128 = .ok b) {r : ElemRun}
    (starts : (s.atVector w.val 0).eprun k w.val word.toNat b =
      (s.atVector w.val 0).draw.2.updCore w.val (fun c => { c with elem := some r })) :
    exec (.eprun w word) s =
      .next (((s.atVector w.val 0).draw.2.updCore w.val (fun c => { c with elem := some r })).retire w.val) := by
  have next := vecIssue_next (cycles := 0) issues (f := fun k s => match s.descOf k w.val word.toNat 128 with
    | .error va => s.coreFault w.val k va
    | .ok b => s.eprun k w.val word.toNat b)
  simp only [read, starts] at next
  exact next (by rw [State.core_updCore_same, State.core_draw])

/-! ### The program ends (R262, R263, R286) -/

/-- A core with an element program under way meets its next instruction with every group done. -/
theorem State.atIssue_running {s : State} {w : Nat} {r : ElemRun} {k : Kern} (running : (s.core w).elem = some r)
    (on : s.kernOn w = some k) : s.atIssue w = ((s.elemGroups k w r ((parseElem r.desc).groups - r.next)).updCore w
      (fun c => { c with elem := none })).updCore w Core.unheld := by
  rw [State.atIssue, State.finishElem, running, on]

/-- Settles O34: EPRUN in order puts its program at its core (`exec_eprun`), and the core's next instruction meets memory as the program's
groups leave it (`State.atIssue_running`), which touch nothing but memory and the counters (`State.atIssue_access`). That the row that
rounds is a free value is log entry 37's choice; that the groups are done by the next instruction is entry 122's. -/
theorem eprunRuns : Obligations.EprunRuns := by
  refine ⟨?starts, ?ends⟩
  case starts =>
    intro w word s k b issues s0 d prog consts read good reach known operands
    have starts := State.eprun_starts (n := word.toNat) good reach known operands
    have before := s.atIssue_queueWork w.val
    obtain ⟨t, after⟩ : ∃ t, t = s0.draw.2.updCore w.val (fun c => { c with elem := some (s0.elemRun k w.val b) }) := ⟨_, rfl⟩
    have owned : (t.core w.val).owner.isSome = true := by
      rw [after, State.core_updCore_same]
      exact State.owner_atVector (cycles := 0) issues
    have row : (s0.core w.val).x 1 = (s.core w.val).x 1 := by rw [s.core_atVector, s.x_atIssue]
    refine ⟨t.retire w.val, (s0.elemRun k w.val b).row, ?does, ?row, ?elem, ?tiles, ?xs, fun v other => ?others, ?rest⟩
    case does =>
      rw [after]
      exact exec_eprun issues read starts
    case row =>
      rw [← row]
      exact Nat.mod_lt _ (by omega)
    case elem =>
      rw [State.core_retire_owned owned, Core.next_elem, after, State.core_updCore_same]
      rfl
    case tiles => rw [State.tiles_retire, after, State.core_updCore_same, State.core_draw, s.core_atVector, before.tiles]
    case xs => rw [State.core_retire_owned owned, Core.next_xs, after, State.core_updCore_same, State.core_draw, s.core_atVector, before.xs]
    case others =>
      rw [State.core_retire_ne _ other, after, State.core_updCore_ne _ _ other, State.core_draw, s.core_atVector, before.others v other]
    case rest =>
      rw [after]
      exact s0.retire_updCore_draw w.val _
  case ends =>
    intro w s k r running on t done
    have keeps : Access { s with cores := t.cores } t := s.atIssue_access w.val
    have before := s.atIssue_queueWork w.val
    have ends : t = (done.updCore w.val (fun c => { c with elem := none })).updCore w.val Core.unheld := State.atIssue_running running on
    refine ⟨?_, ?_, ?_, before.tiles, before.xs, before.others, keeps.host, keeps.cmds, keeps.sched, keeps.reels,
      keeps.boot, keeps.gaf, keeps.mod, keeps.flt_base⟩ <;> rw [ends]
    · rfl
    · rfl
    · rw [State.core_updCore_same, State.core_updCore_same]
      rfl

end Sys2Proof.Machine
end

section
/-! SLATE_OP (O38, O39): what an operation at a slate bank leaves of its command, the operations that do not hold, and the waits. -/

namespace Sys2Proof

/-- A table whose values are mapped has each value mapped in its place. -/
theorem Tab.find_mapVals {α β : Type} (f : α → β) (t : Tab α) (k : Nat) :
    Tab.find (t.map (fun p => (p.1, f p.2))) k = (Tab.find t k).map f := by
  induction t with
  | nil => rfl
  | cons p rest ih =>
    rw [List.map_cons, Tab.find, Tab.find, ih]
    split <;> rfl

end Sys2Proof

namespace Sys2Proof.Machine

/-! ### A command at a slate bank -/

/-- A command whose turn has come is ready (R21). -/
theorem State.turnOf_ready {s : State} {seq : Word} {op : Nat} {c : Cmd} (turn : s.turnOf seq op = some c) : c.readyAt ≠ none := by
  obtain ⟨accepted, -⟩ := State.turnOf_some turn
  intro unready
  simp [State.turnOf, State.turn, State.mayDispatch, accepted, unready] at turn

/-- Wakes sent to other devices touch no command and no count. -/
theorem State.wakeRemote_work (s : State) : Work s s.wakeRemote := by
  rw [State.wakeRemote]
  refine foldl_work (fun u q worked => ?_) _ ⟨rfl, rfl, rfl, rfl, rfl, rfl, rfl, rfl, rfl, rfl, rfl⟩
  split
  · rw [State.slateRsp]
    exact State.sendFrame_work _ _ worked
  · exact worked

/-- A command that is ready already is not woken by a count (R21). -/
theorem Cmd.wakeOn_of_ready {c : Cmd} (ready : c.readyAt ≠ none) (i : Nat) (n : Word) (now : Nat) : c.wakeOn i n now = c :=
  if_neg fun ⟨_, unready, _⟩ => ready unready

theorem State.cmd?_setSlate (s : State) (i : Nat) (n : Word) (seq : Word) :
    (s.setSlate i n).cmd? seq = (s.cmd? seq).map (fun c => c.wakeOn i n s.nowUs) := by
  rw [State.cmd?, State.setSlate, State.bump_cmds, State.putSlate, (State.wakeRemote_work _).cmds]
  exact Tab.find_mapVals (fun c : Cmd => c.wakeOn i n s.nowUs) s.cmds seq.toNat

theorem Swept.cmd? {s t : State} (swept : Swept s t) (seq : Word) : t.cmd? seq = s.cmd? seq := by
  rw [State.cmd?, swept.cmds, State.cmd?]

/-- An operation on a slate leaves a ready command as it is. -/
theorem State.cmd?_slateAsk {s : State} {seq : Word} {c : Cmd} (accepted : s.cmd? seq = some c) (ready : c.readyAt ≠ none)
    (a : At) (i : Nat) (o : SlateOp) (v cmp : Word) : (s.slateAsk a i o v cmp).1.cmd? seq = some c := by
  have carried : (s.carry a (.die (i / 32768))).cmd? seq = some c :=
    ((State.carry_swept s a _ (Swept.refl s)).cmd? seq).trans accepted
  rw [State.slateAsk, State.slateApply]
  split
  · rw [State.cmd?_setSlate, carried, Option.map_some, Cmd.wakeOn_of_ready ready]
  · rw [State.cmd?, State.bump_cmds]
    exact carried

theorem State.slateAsk_base (s : State) (a : At) (i : Nat) (o : SlateOp) (v cmp : Word) :
    s.sameBase (s.slateAsk a i o v cmp).1 ∧ (s.slateAsk a i o v cmp).1.progs = s.progs := by
  have carried := State.carry_swept s a (.die (i / 32768)) (Swept.refl s)
  have applied := State.slateApply_slated _ i o v cmp (Slated.refl (s.carry a (.die (i / 32768))))
  exact ⟨⟨applied.boot.trans carried.boot, applied.gaf.trans carried.gaf, applied.mod.trans carried.mod,
    (congrArg FaultUnit.base applied.flt).trans carried.flt_base⟩, applied.progs.trans carried.progs⟩

/-- A wait that reaches its bank is counted there and moves nothing else (R355). -/
theorem State.slateSeen_swept (s : State) (a : At) (i : Nat) : Swept s (s.slateSeen a i) :=
  State.bump_swept _ _ _ _ (State.carry_swept s a _ (Swept.refl s))

/-- The end of a command that stands accepted as before, no record made meanwhile, makes the one record more. -/
theorem State.finish_ended_of_host {s u : State} {seq : Word} {c : Cmd} (host : u.host = s.host) (accepted : u.cmd? seq = some c)
    (unrecorded : c.phase ≠ .recorded) (st : Status) (res : List Byte) : s.ended (u.finish seq st res) seq c st res := by
  obtain ⟨⟨r, recs, answers⟩, gone⟩ := State.finish_ended accepted unrecorded st res
  exact ⟨⟨r, recs.trans (by rw [host]), answers⟩, gone⟩

theorem State.sameBase_trans {s t u : State} (h : s.sameBase t) (g : t.sameBase u) : s.sameBase u := by
  obtain ⟨boot, gaf, mod, flt⟩ := h
  obtain ⟨boot', gaf', mod', flt'⟩ := g
  exact ⟨boot'.trans boot, gaf'.trans gaf, mod'.trans mod, flt'.trans flt⟩

theorem State.slateOpDone_base (s : State) (seq : Word) (st : Status) (r : Word) (stored : Bool) :
    s.sameBase (s.slateOpDone seq st r stored) ∧ (s.slateOpDone seq st r stored).progs = s.progs := by
  obtain ⟨base, progs, -⟩ := s.finish_keeps seq st (resultOf [(4, r.toNat), (1, b2n stored)])
  exact ⟨base, progs⟩

theorem State.slateOpDone_slates (s : State) (seq : Word) (st : Status) (r : Word) (stored : Bool) :
    (s.slateOpDone seq st r stored).sched.slates = s.sched.slates := by
  obtain ⟨-, -, -, -, slates⟩ := s.finish_keeps seq st (resultOf [(4, r.toNat), (1, b2n stored)])
  exact slates

/-- The state with one more wait at the slate banks. -/
def State.addWait (s : State) (q : SlateWait) : State := { s with sched := { s.sched with waits := s.sched.waits ++ [q] } }

/-- The state with a command's wait gone from its slate bank. -/
def State.dropWait (s : State) (seq : Word) : State :=
  { s with sched := { s.sched with waits := s.sched.waits.filter (fun q => q.who != Waiter.cmd seq) } }

theorem State.dropWait_work (s : State) (seq : Word) : Work s (s.dropWait seq) :=
  ⟨rfl, rfl, rfl, rfl, rfl, rfl, rfl, rfl, rfl, rfl, rfl⟩

/-! ### SLATE_OP on a slate of the device (R358) -/

/-- The slate a SLATE_OP names. -/
def Cmd.opSlate (c : Cmd) : Nat := c.fieldN 24 4 % 131072

/-- The operand V of a SLATE_OP. -/
def Cmd.opValue (c : Cmd) : Word := BitVec.ofNat 32 (c.fieldN 32 4)

/-- The count a SLATE_OP's CAS compares with. -/
def Cmd.opCompare (c : Cmd) : Word := BitVec.ofNat 32 (c.fieldN 36 4)

/-- The wait of a SLATE_OP, as it stands at its bank. -/
def Cmd.opWait (c : Cmd) (seq : Word) (eq : Bool) : SlateWait := { slate := c.opSlate, who := .cmd seq, eq := eq, value := c.opValue }

section
variable {s : State} {seq : Word} {c : Cmd} {op : Nat} (turn : s.turnOf seq 0x41 = some c) (named : c.fieldN 28 1 % 16 = op)
  (own : bitOf (c.fieldN 28 1) 4 = false ∨ c.fieldN 30 2 % 4096 = s.fab.id.toNat)
include turn named own

/-- A SLATE_OP whose turn has come waits at the bank of its slate, or has its operation's effect there and ends with OK. -/
theorem State.slateOpTurn_own : s.slateOpTurn seq op =
    if op ≤ 1 then s.slateOpWait seq c.opSlate (op == 1) c.opValue
    else (s.slateAsk .io c.opSlate (slateOpOf op) c.opValue c.opCompare).1.slateOpDone seq .ok
      (if slateReads op then s.slate c.opSlate else 0) (op == 5 && s.slate c.opSlate == c.opCompare) := by
  have here : ¬ (bitOf (c.fieldN 28 1) 4 = true ∧ c.fieldN 30 2 % 4096 ≠ s.fab.id.toNat) := by
    rintro ⟨names, other⟩
    obtain unnamed | same := own
    · simp [unnamed] at names
    · exact other same
  have before := (s.slate_slateAsk .io c.opSlate (slateOpOf op) c.opValue c.opCompare 0).2
  rw [State.slateOpTurn, turn]
  simp only [named, if_true, State.slateOp, if_neg here, ← before]
  rfl

/-- What a SLATE_OP of an operation that does not hold leaves: its slate as the operation writes it, the other slates as they were, and
its record. -/
theorem exec_slateOp_acts {i : Instr} (does : exec i s = .next (s.slateOpTurn seq op)) (acts : 2 ≤ op) :
    ∃ t, exec i s = .next t ∧
      (∀ j, t.slate j = if j = c.opSlate then (slateOpOf op).apply (s.slate c.opSlate) c.opValue c.opCompare else s.slate j) ∧
      s.ended t seq c .ok (resultOf [(4, (if slateReads op then s.slate c.opSlate else 0).toNat),
        (1, b2n (op == 5 && s.slate c.opSlate == c.opCompare))]) ∧ s.sameBase t ∧ t.progs = s.progs := by
  obtain ⟨accepted, -, unrecorded⟩ := State.turnOf_some turn
  have acceptedThere := State.cmd?_slateAsk accepted (State.turnOf_ready turn) .io c.opSlate (slateOpOf op) c.opValue c.opCompare
  have counts := fun j => (s.slate_slateAsk .io c.opSlate (slateOpOf op) c.opValue c.opCompare j).1
  obtain ⟨-, -, host⟩ := s.slateAsk_keeps .io c.opSlate (slateOpOf op) c.opValue c.opCompare
  obtain ⟨base, progs⟩ := s.slateAsk_base .io c.opSlate (slateOpOf op) c.opValue c.opCompare
  refine ⟨_, does.trans (congrArg _ ((State.slateOpTurn_own turn named own).trans (if_neg (by omega)))), fun j => ?slates,
    State.finish_ended_of_host host acceptedThere unrecorded _ _, ?rest⟩
  case slates => rw [← counts j, State.slate, State.slateOpDone_slates, State.slate]
  case rest =>
    obtain ⟨base', progs'⟩ := State.slateOpDone_base (s.slateAsk .io c.opSlate (slateOpOf op) c.opValue c.opCompare).1 seq .ok
      (if slateReads op then s.slate c.opSlate else 0) (op == 5 && s.slate c.opSlate == c.opCompare)
    exact ⟨State.sameBase_trans base base', progs'.trans progs⟩

variable {i : Instr} {eq : Bool} (does : exec i s = .next (s.slateOpTurn seq op)) (waits : op = b2n eq)
include does waits

theorem exec_slateOp_waits : exec i s = .next (s.slateOpWait seq c.opSlate eq c.opValue) := by
  rw [does, State.slateOpTurn_own turn named own, waits]
  cases eq <;> rfl

/-- A wait that its slate's count meets ends its SLATE_OP at once, with the count. -/
theorem exec_slateOp_met (met : (c.opWait seq eq).met (s.slate c.opSlate) = true) :
    ∃ t, exec i s = .next t ∧ s.ended t seq c .ok (resultOf [(4, (s.slate c.opSlate).toNat), (1, 0)]) ∧
      t.sched.slates = s.sched.slates := by
  obtain ⟨accepted, -, unrecorded⟩ := State.turnOf_some turn
  have seen := s.slateSeen_swept .io c.opSlate
  refine ⟨_, (exec_slateOp_waits turn named own does waits).trans (congrArg _ (if_pos met)),
    State.finish_ended_of_host seen.host ((seen.cmd? seq).trans accepted) unrecorded _ _, ?_⟩
  rw [State.slateOpDone_slates, seen.sched]

/-- A wait that is not met stands at its bank, and its SLATE_OP runs. -/
theorem exec_slateOp_held (unmet : (c.opWait seq eq).met (s.slate c.opSlate) = false) :
    ∃ t, exec i s = .next t ∧ t.sched.waits = s.sched.waits ++ [c.opWait seq eq] ∧
      t.cmd? seq = some { c with phase := .running, started := some s.nowUs } ∧ t.sched.slates = s.sched.slates ∧ t.host = s.host := by
  obtain ⟨accepted, -⟩ := State.turnOf_some turn
  have seen := s.slateSeen_swept .io c.opSlate
  have runs : (s.slateSeen .io c.opSlate).slateOpRuns seq =
      (s.slateSeen .io c.opSlate).setCmd seq { c with phase := .running, started := some s.nowUs } := by
    simp only [State.slateOpRuns, State.updCmd, seen.cmd?, accepted, seen.nowUs]
  have held : s.slateOpWait seq c.opSlate eq c.opValue =
      ((s.slateSeen .io c.opSlate).setCmd seq { c with phase := .running, started := some s.nowUs }).addWait (c.opWait seq eq) := by
    simp only [State.slateOpWait, runs]
    exact if_neg fun met => Bool.false_ne_true (unmet.symm.trans met)
  exact ⟨_, (exec_slateOp_waits turn named own does waits).trans (congrArg _ held),
    congrArg (fun d : Sched => d.waits ++ [c.opWait seq eq]) seen.sched, State.cmd?_setCmd_same _ _ _,
    (congrArg Sched.slates seen.sched :), seen.host⟩

end

/-! ### The end of a wait (R355, R358) -/

section
variable {s : State} {seq : Word} {c : Cmd} (accepted : s.cmd? seq = some c) (opcode : c.opcode = 0x41) (running : c.phase = .running)
include accepted opcode running

/-- A wake that reaches a SLATE_OP wait ends it with the count it carries (log entry 71). -/
theorem exec_slateOp_woken {i : Instr} {op : Nat} {n : Word} (does : exec i s = .next (s.slateOpTurn seq op))
    (noTurn : s.turnOf seq 0x41 = none) (wake : s.cmdWake seq = some n) (named : c.fieldN 28 1 % 16 = op) :
    ∃ t, exec i s = .next t ∧ s.ended t seq c .ok (resultOf [(4, n.toNat), (1, 0)]) ∧ t.sched.slates = s.sched.slates := by
  have woken : s.slateOpTurn seq op = (s.dropWait seq).slateOpDone seq .ok n false := by
    simp only [State.slateOpTurn, noTurn, accepted, wake]
    exact if_pos ⟨opcode, running, named⟩
  refine ⟨_, does.trans (congrArg _ woken), State.finish_after_work (s.dropWait_work seq) accepted (by simp [running]) _ _, ?_⟩
  rw [State.slateOpDone_slates, (s.dropWait_work seq).sched_slates]

/-- A SLATE_OP wait at a bank of the device whose limit passes ends with DEADLINE_MISS and the present count. -/
theorem exec_slateOpLimit (waits : c.fieldN 28 1 % 16 ≤ 1) (limited : s.opLimit c ≠ 0)
    (passed : c.started.getD 0 + s.opLimit c ≤ s.nowUs) (stands : s.sched.waits.any (fun q => q.who == Waiter.cmd seq) = true) :
    ∃ t, exec (.slateOpLimit seq) s = .next t ∧ s.ended t seq c .deadlineMiss (resultOf [(4, (s.slate c.opSlate).toNat), (1, 0)]) ∧
      t.sched.slates = s.sched.slates := by
  have unasked : Work s ((s.dropWait seq).dropReqs seq) := State.dropReqs_work _ seq (s.dropWait_work seq)
  have does : exec (.slateOpLimit seq) s =
      .next (((s.dropWait seq).dropReqs seq).slateOpDone seq .deadlineMiss (s.slate c.opSlate) false) := by
    show execSlateOpLimit seq s = _
    simp only [execSlateOpLimit, accepted, stands, if_true]
    exact if_pos ⟨opcode, running, waits, limited, passed⟩
  refine ⟨_, does, State.finish_after_work unasked accepted (by simp [running]) _ _, ?_⟩
  rw [State.slateOpDone_slates, unasked.sched_slates]

end

/-- Settles O38: the command runs as the operation its record names, which writes its one count (`State.slate_slateAsk`) and leaves the
command ready as it was, so that it ends with its record (`exec_slateOp_acts`). -/
theorem slateOpsAct : Obligations.SlateOpsAct := by
  intro seq s c turn own x v cmp does n
  refine ⟨fun named => ?_, fun named => ?_, fun named => ?_, fun named => ?_, fun named => ?_, fun named => ?_⟩ <;>
    exact exec_slateOp_acts turn named own rfl (by decide)

/-- Settles O39: a wait whose turn has come is met or goes to its bank (`exec_slateOp_met`, `exec_slateOp_held`); a wake and a limit that
passes end it (`exec_slateOp_woken`, `exec_slateOpLimit`). That a waiting SLATE_OP completes at a repeated SLATE_OP_WAIT or
SLATE_OP_WAITEQ is log entry 71's choice. -/
theorem slateOpsWait : Obligations.SlateOpsWait := by
  intro seq s c x v waits wakes
  have woken : ∀ {i : Instr} {op : Nat}, exec i s = .next (s.slateOpTurn seq op) → wakes i op :=
    fun does n noTurn accepted wake opcode running named => exec_slateOp_woken accepted opcode running does noTurn wake named
  have waiting : ∀ {i : Instr} {eq : Bool}, exec i s = .next (s.slateOpTurn seq (b2n eq)) → waits i eq :=
    fun does turn own named => ⟨exec_slateOp_met turn named own does rfl, exec_slateOp_held turn named own does rfl⟩
  exact ⟨waiting rfl, waiting rfl, woken rfl, woken rfl, fun accepted opcode running => exec_slateOpLimit accepted opcode running⟩

end Sys2Proof.Machine
end

section
/-! Waits of cores (O41): a wait that is met or holds its core, its wake, and its limit. -/

namespace Sys2Proof.Machine

theorem Swept.core {s t : State} (swept : Swept s t) (v : Nat) : t.core v = s.core v := by rw [State.core, swept.cores, State.core]

theorem Swept.queueWork {s t : State} (swept : Swept s t) (w : Nat) : QueueWork s t w :=
  ⟨swept.host, swept.cmds, swept.sched, swept.nowUs, fun v _ => swept.core v, by rw [swept.core]⟩

/-! ### A wait at its issue (R354, R355) -/

@[simp] theorem Core.setX_hold (c : Core) (i : Nat) (n : Word) : (c.setX i n).hold = c.hold := by
  unfold Core.setX
  split <;> rfl

theorem Core.x_of_xs {c d : Core} (same : c.xs = d.xs) (j : Nat) : c.x j = d.x j := by rw [Core.x, same, Core.x]

/-- A core's wait, as it stands at its bank. -/
def SlateWait.ofCore (w xr i : Nat) (eq : Bool) (v : Word) : SlateWait := { slate := i, who := .core w xr, eq := eq, value := v }

/-- A core that waits at a slate bank since a time. -/
def Core.heldAt (c : Core) (i : Nat) (eq : Bool) (v : Word) (xr now : Nat) : Core := { c with hold := .slate i eq v xr now }

/-- The effect of a core's wait, the count being met or not, on the state in which its bank has seen it. -/
def State.waited (s : State) (w i : Nat) (eq : Bool) (v : Word) (xr : Nat) : State :=
  if (SlateWait.ofCore w xr i eq v).met (s.slate i) then s.updCore w (fun c => c.setX xr (s.slate i))
  else (s.addWait (.ofCore w xr i eq v)).updCore w (fun c => c.heldAt i eq v xr s.nowUs)

theorem State.coreWait_eq (s : State) (w i : Nat) (eq : Bool) (v : Word) (xr : Nat) :
    s.coreWait w i eq v xr = (s.slateSeen (.core w) i).waited w i eq v xr := by
  have count : (s.slateSeen (.core w) i).slate i = s.slate i := by rw [State.slate, (s.slateSeen_swept _ i).sched, State.slate]
  rw [State.waited, count]
  rfl

theorem State.owner_waited (s : State) (w i : Nat) (eq : Bool) (v : Word) (xr : Nat) :
    ((s.waited w i eq v xr).core w).owner = (s.core w).owner := by
  rw [State.waited]
  split <;> rw [State.core_updCore_same]
  · rw [Core.setX_owner]
  · rfl

section
variable {w : CoreIx} {word : Dword} {s : State} {k : Kern} {x : Nat} {eq : Bool} (issues : s.issues w word 0x38 k)
  (own : (s.atIssue w.val).slateAt k w.val word.toNat = .own x) (named : fld word.toNat 8 4 = b2n eq)
  {v : Word} (operand : (s.core w.val).slateV word.toNat = v) {xr : Nat} (dest : fld word.toNat 14 3 = xr)
include issues own named operand dest

/-- A wait on a slate of the device goes to its bank, its core free, and the core goes past its word. -/
theorem slateIssue_waits : ∃ u : State, QueueWork s u w.val ∧ (u.core w.val).hold = .none ∧ u.slate x = s.slate x ∧
    slateIssue w word (b2n eq) s = .next ((u.waited w.val x eq v xr).retire w.val) := by
  obtain ⟨issuing, opcode, good⟩ := issues
  have seen := (s.atIssue w.val).slateSeen_swept (.core w.val) x
  have before := (s.atIssue_queueWork w.val).trans (seen.queueWork w.val)
  have operandThere : ((s.atIssue w.val).core w.val).slateV word.toNat = v := by
    rw [Core.slateV, State.x_atIssue, ← operand, Core.slateV]
  refine ⟨_, before, by rw [seen.core, State.hold_atIssue issuing], by rw [State.slate, before.sched, State.slate], ?_⟩
  rw [slateIssue]
  refine issue_next issuing (by simp [opcode, named]) good ?_ ?_
  · simp only [own, operandThere, dest, ← State.coreWait_eq]
    cases eq <;> rfl
  · rw [State.owner_waited, before.owner]
    exact State.owner_of_kernOn (State.issuing_some issuing).1

variable {i : Instr} (does : exec i s = slateIssue w word (b2n eq) s)
include does

/-- A wait that is met lets its core go on with the count in XR. -/
theorem exec_slateWait_met (met : (SlateWait.ofCore w.val xr x eq v).met (s.slate x) = true) :
    ∃ t, exec i s = .next t ∧ (∀ u, u ≠ w.val → t.core u = s.core u) ∧ t.sched = s.sched ∧ t.host = s.host ∧
      (∀ j, (t.core w.val).x j = if j = xr ∧ j ≠ 0 then s.slate x else (s.core w.val).x j) ∧
      (t.core w.val).tiles = (s.core w.val).tiles ∧ (t.core w.val).hold = .none := by
  obtain ⟨u, before, free, count, next⟩ := slateIssue_waits issues own named operand dest
  rw [State.waited, count, if_pos met] at next
  have past := (u.updCore w.val (fun c => c.setX xr (s.slate x))).retire_queueWork w.val
  refine ⟨_, does.trans next, fun u other => ?_, past.sched.trans before.sched, past.host.trans before.host, fun j => ?_, ?_, ?_⟩
  · rw [past.others u other, State.core_updCore_ne _ _ other, before.others u other]
  · rw [State.x_retire, State.core_updCore_same, Core.x_setX, Core.x_of_xs before.xs]
    by_cases here : j = xr
    · by_cases zero : j = 0 <;> simp [← here, zero]
    · simp [here]
  · rw [State.tiles_retire, State.core_updCore_same, Core.setX_tiles, before.tiles]
  · rw [State.hold_retire, State.core_updCore_same, Core.setX_hold, free]

/-- A wait that is not met holds its core, and stands at its bank. -/
theorem exec_slateWait_held (unmet : (SlateWait.ofCore w.val xr x eq v).met (s.slate x) = false) :
    ∃ t, exec i s = .next t ∧
      t.sched.waits = s.sched.waits ++ [.ofCore w.val xr x eq v] ∧
      (t.core w.val).hold = .slate x eq v xr s.nowUs ∧
      (t.core w.val).xs = (s.core w.val).xs ∧ t.sched.slates = s.sched.slates := by
  obtain ⟨u, before, -, count, next⟩ := slateIssue_waits issues own named operand dest
  rw [State.waited, count, if_neg (by simp [unmet]), before.nowUs] at next
  obtain ⟨t, held⟩ : ∃ t, t = (u.addWait (.ofCore w.val xr x eq v)).updCore w.val (fun c => c.heldAt x eq v xr s.nowUs) := ⟨_, rfl⟩
  rw [← held] at next
  have past := t.retire_queueWork w.val
  refine ⟨_, does.trans next, ?_, ?_, ?_, ?_⟩
  · rw [past.sched, held, ← before.sched]
    rfl
  · rw [State.hold_retire, held, State.core_updCore_same]
    rfl
  · rw [past.xs, held, State.core_updCore_same]
    exact before.xs
  · rw [past.sched, held, ← before.sched]
    rfl

end

/-! ### The wake and the limit of a wait (R355) -/

/-- A wake takes a core's wait from its bank, writes its count and lets the core go. -/
theorem exec_slateWake {w : CoreIx} {s : State} {q : SlateWait} {r : Nat} {n : Word} (wake : s.coreWake w.val = some (q, r, n)) :
    exec (.slateWake w) s = .next ({ s with sched := { s.sched with waits := s.sched.waits.filter (fun y => y != q) } }.updCore w.val
      (fun c => { c.setX r n with hold := .none })) := by
  show execSlateWake w s = _
  rw [execSlateWake, wake]

/-- A core's wait whose limit passes with no wake ends its command with DEADLINE_MISS. -/
theorem exec_slateWaitLimit {w : CoreIx} {s : State} {i xr since layer : Nat} {eq : Bool} {v seq : Word}
    (hold : (s.core w.val).hold = .slate i eq v xr since) (owner : (s.core w.val).owner = some (seq, layer))
    (limited : s.sched.regs.waitLimit ≠ 0) (passed : since + s.sched.regs.waitLimit.toNat ≤ s.nowUs) :
    exec (.slateWaitLimit w) s = .next (s.endCmd seq .deadlineMiss) := by
  show execSlateWaitLimit w s = _
  simp only [execSlateWaitLimit, hold, owner]
  exact if_neg (not_or.mpr ⟨limited, Nat.not_lt.mpr passed⟩)

/-- Settles O41: a wait goes to its bank and is met or holds its core (`exec_slateWait_met`, `exec_slateWait_held`), its wake takes it
from there (`exec_slateWake`), and its limit ends the command (`exec_slateWaitLimit`). -/
theorem coreSlatesWait : Obligations.CoreSlatesWait := by
  intro w word s k x m c v xr waits
  have waiting : ∀ {i : Instr} {eq : Bool}, exec i s = slateIssue w word (b2n eq) s → waits i eq :=
    fun does issues own named => ⟨exec_slateWait_met issues own named rfl rfl does, exec_slateWait_held issues own named rfl rfl does⟩
  refine ⟨waiting rfl, waiting rfl, fun q r n wake => ?wake,
    fun seq layer cmd since hold owner accepted running limited passed => ?limit⟩
  case wake =>
    refine ⟨_, exec_slateWake wake, ?_, ?_, rfl, rfl⟩ <;> rw [State.core_updCore_same]
    show ((s.core w.val).setX r n).x r = _
    rw [Core.x_setX, if_pos rfl]
  case limit =>
    obtain ⟨res, ends⟩ := s.endCmd_eq seq .deadlineMiss
    obtain ⟨⟨r, recs, named, -, -, status, -⟩, -⟩ := State.finish_ended accepted (by simp [running]) .deadlineMiss res
    exact ⟨_, r, exec_slateWaitLimit hold owner limited passed, ends ▸ recs, named,
      status.trans (Status.withFlags_failed (by decide) (by decide) _)⟩

end Sys2Proof.Machine
end

section
/-! Which commands stop the model (O7). -/

namespace Sys2Proof.Machine

/-- A branch ends in a next state where both its sides do. -/
theorem next_ite {c : Prop} [Decidable c] {a b : Host.Outcome State Fault Refusal} (yes : ∃ t, a = .next t) (no : ∃ t, b = .next t) :
    ∃ t, (if c then a else b) = .next t := by
  split <;> assumption

theorem arrayIssue_total (w : CoreIx) (word : Dword) (op size : Nat) (check : State → Kern → Nat → List Byte → Except (Status ⊕ Nat) Unit)
    (s : State) : ∃ t, arrayIssue w word op size check s = .next t := issue_total _ _ _ _ _

theorem vecIssue_total (w : CoreIx) (word : Dword) (op cycles : Nat) (f : Kern → State → State) (s : State) :
    ∃ t, vecIssue w word op cycles f s = .next t := issue_total _ _ _ _ _

theorem slateIssue_total (w : CoreIx) (word : Dword) (op : Nat) (s : State) : ∃ t, slateIssue w word op s = .next t := issue_total _ _ _ _ _

/-- EDGE is an instruction of the core's stream, or the other kind's row and changes nothing. -/
theorem edgeIssue_total (w : CoreIx) (word : Dword) (prep : Bool) (s : State) : ∃ t, edgeIssue w word prep s = .next t := by
  exact next_ite (issue_total _ _ _ _ _) ⟨_, rfl⟩

/-- Stage C ends in a next state, whatever it finds. -/
theorem execStageC_next (err : Option Word) (failed : List ChannelIx) (trials : List IslandTrials) (fails : List SramFail) (s : State) :
    ∃ t, execStageC err failed trials fails s = .next t := by
  unfold execStageC
  split
  · exact ⟨_, rfl⟩
  · split
    · exact ⟨_, rfl⟩
    · exact next_ite ⟨_, rfl⟩ (next_ite ⟨_, rfl⟩ ⟨_, rfl⟩)

/-- A flit ends in a next state, taken or not. -/
theorem execFlitReceived_next (p : PortIx) (seq ack : BitVec 12) (replay idle : Bool) (errs : Byte) (strays : List (BitVec 5 × FrameHdr)) (s : State) :
    ∃ t, execFlitReceived p seq ack replay idle errs strays s = .next t :=
  next_ite ⟨_, rfl⟩ (next_ite ⟨_, rfl⟩ (next_ite ⟨_, rfl⟩ ⟨_, rfl⟩))

/-- Every command ends in a next state but a line of CXL.mem and an instruction of the debug port: an arm of `exec` is a next state, the
issue of a word of a core's stream (`issue_total`), or branches that each end in a next state. -/
theorem exec_next_or (i : Instr) (s : State) : (∃ t, exec i s = .next t) ∨ (∃ line, i = .cxlMemRead line) ∨
    (∃ line d p, i = .cxlMemWrite line d p) ∨ ∃ op, i = .tapInstruction op := by
  cases i
  case cxlMemRead line => exact .inr (.inl ⟨line, rfl⟩)
  case cxlMemWrite line d p => exact .inr (.inr (.inl ⟨line, d, p, rfl⟩))
  case tapInstruction op => exact .inr (.inr (.inr ⟨op, rfl⟩))
  all_goals
    refine .inl ?_
    dsimp only [exec]
  case stageC => exact execStageC_next _ _ _ _ _
  case flitReceived => exact execFlitReceived_next _ _ _ _ _ _ _ _
  case dmaCopy | dmaCopyDesc | slateOpWait | slateOpWaiteq | slateOpSignal | slateOpAdd | slateOpFadd | slateOpCas | slateOpRead |
    slateOpSet | queryDevice | queryTake | queryReel | querySequence | partialTimeout | completionRecordVisible | getVersion |
    getCapabilities | negotiateAlgorithms | getDigests | getCertificate | challenge | getMeasurements | keyExchange | finish | endSession |
    ideKm | countUpdate | alloc | map | unmap | protect | pin | bankWake | writeBatchDrain | rdReq | wrReq | rdRsp | wrRsp | slateReq |
    slateRsp | slateCancel | credit | reject | hello | helloTimer | linkReport | assign | table | commit | tally | coreHang | netNoack |
    modEnRise | modEnFall | vinUndervoltage | vinOvervoltage | railFault | perstAssert | hotReset | coldIntervalEnd | vinRise | d2dLink =>
    exact ⟨_, rfl⟩
  case matmul | attend | conv | pool | halo =>
    exact arrayIssue_total _ _ _ _ _ _
  case edgePrep | edgeConv =>
    exact edgeIssue_total _ _ _ _
  case eprun | vop | vcvt | vred | vscore | vcmp | vld | vst | vrand =>
    exact vecIssue_total _ _ _ _ _ _
  case slateWait | slateWaiteq | slateSignal | slateAdd | slateFadd | slateCas | slateRead | slateSet =>
    exact slateIssue_total _ _ _ _
  case await | vsetx | vloop | dmaq | perfrd | reservedInstruction =>
    exact issue_total _ _ _ _ _
  all_goals
    delta execLoadProgram execUnload execRunKernel execRunGraph execForkTake execAdvanceTakes execCutTakes execPruneTake execExportReel
      execImportReel execResetReels execResetReelsCreate execResetReelsRelease execOpenStream execCloseStream execMigrateHint execFenceCore
      execFenceCoreDrain execIntakeWrite execReceiptRead execSchedulingPass execPieceDispatch execSliceStart execStageDispatch
      execHoldLimitExpiry execQuantumExpiry execSaveComplete execRestoreComplete execKernelComplete execMsixHoldoffExpiry
      execHifCqConsWrite execHifCqCtlWrite execMsixVectorUnmask execConfigRequest execMalformedTlp execUnsupportedRequest execRegisterWrite
      execArrayLastOutput execHaloDone execEdgeJobDone execSlateWake execSlateWaitLimit execSlateOpLimit execRampGrant execRootTakeRegister
      execCowFault execPageCopyComplete execStepBoundary execChunkDispatch execChunkFold execReelSwapInDone execReelSwapOutDone
      execShelfMoveDone execBatchStepBoundary execSwapOutPageDone execMigrationCopyDone execDemotion execMapDrainDone
      execPrefetchEntryComplete execPrefetchDecisionPoint execRetentionEntry execMarchTestStart execMarchTestDone execBgTestRegion
      execHbmRefresh execScrubStep execSoftRepair execHardRepairRequest execChannelFailed execRepairRecordWrite execDmaBurstGrant
      execRequestLineAssert execDmaDescriptorComplete execDmaCqConsWrite execMailSlotWrite execMailSlotRead execMailSlotIdle
      execMailSlotFlush execFrameDecoded execBitstreamProducerAdvance execDecodeAbandon execDecodeHang execSampleDeadline execSlotSettle
      execRushInsertDone execRushFlush execRushInval execPortTrained execPortTrainRetry execPortDown execElectionSettle execRouteRecompute
      execDiscoveryTimeout execTableRetire execRemoteTimeout execFault execFaultCoalesceClose execViolationWindowClose execPortDisable
      execPortRelease execPortRetrain execFaultReport execFaultWindowClose execFenceDrainEffect execBankCollision execPowerSample
      execGafferLoopTick execJunctionTripLimit execThermalTrip execGafCapWrite execReplan execReplanNow execSlackEmergency execIslandRetire
      execPowerGoodRise execStageA execStageB execStageD execStageE execBootWarm execBootCold execUpdClear execUpdAppend execUpdCommit
      execFlashWriteDone execRollbackGo execRollbackBitBlow execTokenSubmit execDebugDrop execFuseBlow execPerfPeriodTick execSnap
      execSnapshotToken execDumpRecordWrite execTstCtlWrite execRailOffInterval execSoftRepairComplete execI3cTransaction execCablePresence
    repeat' (first | with_reducible exact ⟨_, rfl⟩ | split | dsimp only)

/-- A read of CXL.mem stops the model at or beyond the capacity alone. -/
theorem exec_cxlMemRead_cases (line : BitVec 34) (s : State) : (∃ t, exec (.cxlMemRead line) s = .next t) ∨
    s.hbmBytes ≤ 64 * line.toNat ∧ exec (.cxlMemRead line) s = .fault .noSuchAddress := by
  show (∃ t, execCxlMemRead line s = .next t) ∨ _ ∧ execCxlMemRead line s = _
  unfold execCxlMemRead
  by_cases beyond : s.hbmBytes ≤ 64 * line.toNat
  · by_cases good : s.mod.good = true
    · simp [good, beyond]
    · simp [good]
  · simp only [beyond, if_false, false_and, or_false]
    repeat' (first | with_reducible exact ⟨_, rfl⟩ | split)

/-- So does a write. -/
theorem exec_cxlMemWrite_cases (line : BitVec 34) (d : BitVec 512) (p : Bool) (s : State) :
    (∃ t, exec (.cxlMemWrite line d p) s = .next t) ∨
    s.hbmBytes ≤ 64 * line.toNat ∧ exec (.cxlMemWrite line d p) s = .fault .noSuchAddress := by
  show (∃ t, execCxlMemWrite line d p s = .next t) ∨ _ ∧ execCxlMemWrite line d p s = _
  unfold execCxlMemWrite
  by_cases beyond : s.hbmBytes ≤ 64 * line.toNat
  · by_cases good : s.mod.good = true
    · simp [good, beyond]
    · simp [good]
  · simp only [beyond, if_false, false_and, or_false]
    repeat' (first | with_reducible exact ⟨_, rfl⟩ | split)

/-- An instruction of the debug port is refused where the port is open and the manual describes it not. -/
theorem exec_tapInstruction_cases (op : BitVec 2) (s : State) : (∃ t, exec (.tapInstruction op) s = .next t) ∨
    s.granted 0 = true ∧ op ≠ 0 ∧ op ≠ 1 ∧ exec (.tapInstruction op) s = .refused .debugPort := by
  show (∃ t, execTapInstruction op s = .next t) ∨ _ ∧ _ ∧ _ ∧ execTapInstruction op s = _
  unfold execTapInstruction
  split
  · exact .inl ⟨_, rfl⟩
  · split
    · exact .inl ⟨_, rfl⟩
    · split
      next => exact .inl ⟨_, rfl⟩
      next idcode other =>
        simp only [not_or, Bool.not_eq_true, Bool.not_eq_false'] at other
        exact .inr ⟨other.2, other.1, idcode, rfl⟩

/-- Settles O7: the three commands that stop, each by its own branches. The capacity's stop and the refusal are SPEC.md's; that an
instruction of an open port which the manual does not describe is refused is log entry 59. -/
theorem onlyTheseStop : Obligations.OnlyTheseStop := by
  intro c s
  obtain ⟨t, next⟩ | ⟨line, rfl⟩ | ⟨line, d, p, rfl⟩ | ⟨op, rfl⟩ := exec_next_or c s
  · simp [next]
  · obtain ⟨t, next⟩ | ⟨beyond, stops⟩ := exec_cxlMemRead_cases line s
    · simp [next]
    · simp [stops, beyond]
  · obtain ⟨t, next⟩ | ⟨beyond, stops⟩ := exec_cxlMemWrite_cases line d p s
    · simp [next]
    · simp [stops, beyond]
  · obtain ⟨t, next⟩ | ⟨granted, ne0, ne1, stops⟩ := exec_tapInstruction_cases op s
    · simp [next]
    · exact ⟨by simp [stops], fun r refused => ⟨(Host.Outcome.refused.inj (stops.symm.trans refused)).symm, granted, op, ne0, ne1, rfl⟩⟩

end Sys2Proof.Machine
end

section
/-! The intake's rejections and its receipts (O12, O13). -/

namespace Sys2Proof.Machine

/-! ### Rejection (R494) -/

/-- A record that something rejects is rejected for it. -/
theorem State.checkRecord_of_rejected {s : State} {slot : Nat} {rec : List Byte} {reason : Nat} {st : Status}
    (rejected : s.rejectReason rec false = some (reason, st)) : s.checkRecord slot rec = s.reject slot reason st := by
  simp [State.checkRecord, rejected]

@[simp] theorem State.slot_violation (s : State) (kind where_ addr i : Nat) : (s.violation kind where_ addr).slot i = s.slot i := rfl

theorem State.reject_frame (s : State) (slot reason : Nat) (st : Status) :
    s.reject slot reason st = { s with host := (s.reject slot reason st).host } := rfl

@[simp] theorem State.slot_reject_same (s : State) (slot reason : Nat) (st : Status) :
    (s.reject slot reason st).slot slot = .receipt (rejectWord slot reason st) := s.slot_setSlot_same slot _

theorem State.slot_reject_ne (s : State) {slot j : Nat} (reason : Nat) (st : Status) (other : j ≠ slot) :
    (s.reject slot reason st).slot j = s.slot j := s.slot_setSlot_ne _ other

theorem State.reject_logged (s : State) (slot reason : Nat) (st : Status) :
    s.logged (0x80 + reason) slot (slot * 256) (s.reject slot reason st) := ⟨rfl, rfl, Tab.at_put_same _ _ _ _⟩

/-- Settles O12: the write that completes the record has it checked, and the check rejects it; a write that leaves its slot or the
record bytes is dropped before any record is looked at. -/
theorem intakeRejects : Obligations.IntakeRejects := by
  constructor
  · intro off data rec s reason st slot lo nonempty within completes rejected
    have rejects : exec (.intakeWrite off data false) s = .next (s.reject slot reason st) := by
      rw [exec_intakeWrite_within nonempty within, State.recordWrite_of_completesRecord completes, State.checkRecord_of_rejected rejected]
    exact ⟨_, rejects, s.slot_reject_same .., rfl, rfl, s.reject_logged .., fun _ other => s.slot_reject_ne _ _ other, s.reject_frame ..⟩
  · intro off data poisoned s nonempty slot last
    have write : exec (.intakeWrite off data poisoned) s = execIntakeWrite off data poisoned s := rfl
    refine ⟨fun across => ?_, fun oneSlot past => ?_⟩
    · rw [write, execIntakeWrite, if_neg nonempty, if_pos across]
    · rw [write, execIntakeWrite, if_neg nonempty, if_neg (not_not.mpr oneSlot), if_pos past]

/-! ### Receipts (R489, R490, R495) -/

/-- The middle of three runs of bytes, cut out. -/
theorem slice_middle (front mid back : List Byte) : slice (front ++ mid ++ back) front.length mid.length = mid := by
  simp [slice]

/-- A read of a slot's receipt word alone: its word, once a filling record is discarded. -/
theorem State.slotRead_receipt (s : State) (slot : Nat) :
    s.slotRead slot 64 8 = (leBytes 8 ((s.discardPartial slot).slot slot).word.toNat, s.discardPartial slot) := by
  have word := fun bs : List Byte => slice_middle (List.replicate 64 0) bs (List.replicate 184 0)
  have receipt := word (leBytes 8 ((s.discardPartial slot).slot slot).word.toNat)
  rw [List.length_replicate, leBytes_length] at receipt
  simp only [State.slotRead, Nat.lt_irrefl, if_false, Nat.reduceLT, Nat.reduceAdd, and_self, if_true, receipt]

/-- An aligned read of a receipt word falls in its slot alone. -/
theorem exec_receiptRead_aligned (n : IntakeIx) (s : State) :
    exec (.receiptRead (BitVec.ofNat 20 (256 * n.val + 64)) 8) s =
      .next ((s.discardPartial n.val).send (.read (leBytes 8 ((s.discardPartial n.val).slot n.val).word.toNat) false)) := by
  have offset : (BitVec.ofNat 20 (256 * n.val + 64)).toNat = 256 * n.val + 64 := by
    rw [BitVec.toNat_ofNat, Nat.mod_eq_of_lt (by omega)]
  have slots : ((256 * n.val + 64) % 256 + 8 + 255) / 256 = 1 := by omega
  have slot : (256 * n.val + 64) / 256 = n.val := by omega
  have lo : max (256 * n.val + 64) (256 * n.val) - 256 * n.val = 64 := by omega
  have len : min (256 * n.val + 64 + 8) (256 * n.val + 256) - 256 * n.val - 64 = 8 := by omega
  show execReceiptRead _ 8 s = _
  simp only [execReceiptRead, State.intakeRead, offset, slots, slot, List.range_one, List.map_cons, List.map_nil, List.foldl_cons,
    List.foldl_nil, Nat.add_zero, lo, len, State.slotRead_receipt, List.nil_append]

/-- A filling record is discarded as PARTIAL. -/
theorem State.discardPartial_filling {s : State} {slot : Nat} {mask : Dword} {data : List Byte} {poison : Bool}
    (filling : s.slot slot = .filling mask data poison) : s.discardPartial slot = s.reject slot 0x01 .shapeOver := by
  simp [State.discardPartial, filling]

/-- Settles O13: an aligned read returns the slot's word once a filling record is discarded; only a filling slot has one. -/
theorem receiptsRead : Obligations.ReceiptsRead := by
  intro n s off
  refine ⟨fun w receipt => ?receipt, fun empty => ?empty, fun m d p filling => ⟨?read, ?timeout⟩⟩
  case receipt =>
    have kept : s.discardPartial n.val = s := by simp [State.discardPartial, receipt]
    rw [exec_receiptRead_aligned, kept, receipt, Slot.word]
  case empty =>
    have kept : s.discardPartial n.val = s := by simp [State.discardPartial, empty]
    have ones : leBytes 8 (Slot.word .empty).toNat = List.replicate 8 0xFF := by decide
    rw [exec_receiptRead_aligned, kept, empty, ones]
  case read => rw [exec_receiptRead_aligned, State.discardPartial_filling filling, State.slot_reject_same, Slot.word]
  case timeout =>
    have expires : exec (.partialTimeout n) s = .next (s.discardPartial n.val) := rfl
    rw [State.discardPartial_filling filling] at expires
    exact ⟨_, expires, rfl, s.slot_reject_same .., rfl⟩

end Sys2Proof.Machine
end

section
/-! Completion queue registers, holdoffs and vectors (O15). -/

namespace Sys2Proof.Machine

/-! ### What a queue's new room lets through (R514, R515) -/

/-- Appending held records moves records and takes their commands' entries only. -/
theorem State.promote_frame (k : Nat) (s : State) (q : Nat) : s.promote q k =
    { s with host := { s.host with cpls := (s.promote q k).host.cpls }, cmds := (s.promote q k).cmds } := by
  induction k generalizing s with
  | zero => rfl
  | succ k ih =>
    unfold State.promote
    split
    · split
      · rw [ih]
      · split
        · rw [ih]
        · rfl
    · rfl

theorem State.promoteAll_frame (s : State) (q : Nat) : s.promoteAll q =
    { s with host := { s.host with cpls := (s.promoteAll q).host.cpls }, cmds := (s.promoteAll q).cmds } := State.promote_frame _ s q

@[simp] theorem State.queue_promoteAll (s : State) (q j : Nat) : (s.promoteAll q).queue j = s.queue j := by rw [State.promoteAll_frame]; rfl

@[simp] theorem State.queue_violation (s : State) (kind where_ addr q : Nat) : (s.violation kind where_ addr).queue q = s.queue q := rfl

/-! ### Consumer indices and control (R514, R516) -/

section
variable {q : QueueIx} {value : Word} {s : State} (takes : s.barTakes .fromB = true)
include takes

/-- A consumer index that passes PROD, or lies more than a ring behind it, is ignored. -/
theorem exec_hifCqConsWrite_bad (bad : (s.queue q.val).size < ((s.queue q.val).prod - value.setWidth 16).toNat) :
    exec (.hifCqConsWrite q value) s =
      .next ((s.setQueue q.val { s.queue q.val with badCons := true }).violation 14 q.val (0x1010 + 0x20 * q.val)) := by
  show execHifCqConsWrite q value s = _
  rw [execHifCqConsWrite, if_pos takes, State.consWrite, if_pos bad]

/-- Another consumer index stands. -/
theorem exec_hifCqConsWrite_stands (good : ((s.queue q.val).prod - value.setWidth 16).toNat ≤ (s.queue q.val).size) :
    exec (.hifCqConsWrite q value) s =
      .next ((s.setQueue q.val { s.queue q.val with cons := value.setWidth 16 }).promoteAll q.val) := by
  show execHifCqConsWrite q value s = _
  rw [execHifCqConsWrite, if_pos takes, State.consWrite, if_neg (Nat.not_lt.mpr good)]

theorem exec_hifCqCtlWrite : exec (.hifCqCtlWrite q value) s = .next (s.ctlWrite q.val value.toNat) := if_pos takes

theorem exec_msixVectorUnmask (ctl : Word) : exec (.msixVectorUnmask q ctl) s = .next (s.vectorCtl q.val ctl) := if_pos takes

end

/-- A queue with its control register written: LOG2 stands while ENABLE is 1 (R516, R520). -/
def CplQueue.controlled (c : CplQueue) (v : Nat) : CplQueue :=
  { c with
    log2 := if c.enable then c.log2 else BitVec.ofNat 4 v
    enable := v.testBit 4
    vector := BitVec.ofNat 6 (fld v 5 6)
    irqAll := v.testBit 11
    holdoff := BitVec.ofNat 16 (fld v 16 16) }

theorem State.queue_ctlWrite (s : State) (q v : Nat) : (s.ctlWrite q v).queue q = (s.queue q).controlled v := by
  simp only [State.ctlWrite, State.queue_promoteAll]
  split <;> exact s.queue_setQueue_same q _

/-- A field of a width stands whole in a register of that width. -/
theorem toNat_ofNat_fld (v lo n : Nat) : (BitVec.ofNat n (fld v lo n)).toNat = fld v lo n := by
  rw [BitVec.toNat_ofNat, fld, Nat.mod_mod]

/-! ### Interrupts (R517) -/

/-- A vector that is not masked sends its message, a masked one sets its pending bit. -/
theorem State.sendVector_of_mask (s : State) (v : BitVec 6) :
    ((Tab.at s.host.msix v.toNat {}).ctl.toNat.testBit 0 = false → (s.sendVector v.toNat).out =
      s.out ++ [.msix (Tab.at s.host.msix v.toNat {}).addr (Tab.at s.host.msix v.toNat {}).data]) ∧
    ((Tab.at s.host.msix v.toNat {}).ctl.toNat.testBit 0 = true →
      (s.sendVector v.toNat).out = s.out ∧ (s.sendVector v.toNat).host.pba.toNat.testBit v.toNat = true) := by
  have v_lt : 2 ^ v.toNat < 2 ^ 64 := Nat.pow_lt_pow_right (by decide) v.isLt
  refine ⟨fun unmasked => ?_, fun masked => ?_⟩
  · simp only [State.sendVector, unmasked, Bool.false_eq_true, if_false, State.send]
  · simp only [State.sendVector, masked, if_true, true_and]
    rw [BitVec.toNat_or, Nat.testBit_or, BitVec.toNat_ofNat, Nat.mod_eq_of_lt v_lt, Nat.testBit_two_pow_self, Bool.or_true]

/-- A queue quiet in its holdoff that owes an interrupt sends it at the holdoff's end. -/
theorem exec_msixHoldoffExpiry_owed {q : QueueIx} {s : State} (quiet : (s.queue q.val).quiet = true) (owed : (s.queue q.val).owed = true) :
    exec (.msixHoldoffExpiry q) s = .next (s.queueIrq q.val) := by
  show execMsixHoldoffExpiry q s = _
  simp [execMsixHoldoffExpiry, quiet, owed]

/-- A queue that owes none is quiet no more. -/
theorem exec_msixHoldoffExpiry_unowed {q : QueueIx} {s : State} (quiet : (s.queue q.val).quiet = true)
    (unowed : (s.queue q.val).owed = false) :
    exec (.msixHoldoffExpiry q) s = .next (s.setQueue q.val { s.queue q.val with quiet := false }) := by
  show execMsixHoldoffExpiry q s = _
  simp [execMsixHoldoffExpiry, quiet, unowed]

/-- Clearing a bit of a word clears it. -/
theorem testBit_and_not_two_pow (x : Dword) {i : Nat} (small : i < 64) : (x &&& ~~~(BitVec.ofNat 64 (2 ^ i))).toNat.testBit i = false := by
  rw [BitVec.testBit_toNat, BitVec.getLsbD_and, BitVec.getLsbD_not, BitVec.getLsbD_ofNat, Nat.testBit_two_pow_self]
  simp [small]

/-- A vector's control as written. -/
theorem State.vectorCtl_ctl (s : State) (v : Nat) (ctl : Word) : (Tab.at (s.vectorCtl v ctl).host.msix v {}).ctl = ctl &&& 1 := by
  simp only [State.vectorCtl]
  split <;> exact congrArg MsixEnt.ctl (Tab.at_put_same _ _ _ _)

/-- Unmasking a vector sends the interrupt its pending bit holds. -/
theorem State.vectorCtl_pending {s : State} {v : Nat} {ctl : Word} (small : v < 64) (unmasked : ctl.toNat.testBit 0 = false)
    (pending : s.host.pba.toNat.testBit v = true) :
    (s.vectorCtl v ctl).out = s.out ++ [.msix (Tab.at s.host.msix v {}).addr (Tab.at s.host.msix v {}).data] ∧
      (s.vectorCtl v ctl).host.pba.toNat.testBit v = false := by
  simp only [State.vectorCtl, unmasked, pending, Bool.not_false, Bool.and_self, if_true]
  exact ⟨rfl, testBit_and_not_two_pow _ small⟩

/-- Settles O15: each register's write by its effect on its queue, each interrupt by what the vector sends or holds back. -/
theorem queueRegistersWrite : Obligations.QueueRegistersWrite := by
  refine ⟨?registers, ?holdoff, ?unmask⟩
  case registers =>
    intro q value s takes v n
    refine ⟨fun bad => ?bad, fun good => ?stands, ?control⟩
    case bad =>
      exact ⟨_, exec_hifCqConsWrite_bad takes bad, by simp, by simp [v], State.violation_logged (s.setQueue q.val _) _ _ _⟩
    case stands =>
      refine ⟨_, exec_hifCqConsWrite_stands takes good, by simp [n], by simp [v], ?_⟩
      rw [State.promoteAll_frame]
      rfl
    case control =>
      refine ⟨_, exec_hifCqCtlWrite takes, ?_⟩
      rw [State.queue_ctlWrite]
      refine ⟨rfl, toNat_ofNat_fld _ _ _, rfl, toNat_ofNat_fld _ _ _, ?_⟩
      unfold CplQueue.controlled
      split
      · rfl
      · exact BitVec.toNat_ofNat _ _
  case holdoff =>
    intro q s v e quiet
    refine ⟨fun owed => ?owed, fun unowed => ⟨_, exec_msixHoldoffExpiry_unowed quiet unowed, by simp, rfl⟩⟩
    have queue : (s.queueIrq q.val).queue q.val = { v with quiet := v.holdoff != 0, owed := false } := State.queue_setQueue_same _ _ _
    have sent := s.sendVector_of_mask v.vector
    exact ⟨_, exec_msixHoldoffExpiry_owed quiet owed, congrArg CplQueue.owed queue, congrArg CplQueue.quiet queue, sent.1, sent.2⟩
  case unmask =>
    intro v ctl s takes e
    exact ⟨_, exec_msixVectorUnmask takes ctl, s.vectorCtl_ctl _ _, fun waits => State.vectorCtl_pending v.isLt waits.1 waits.2⟩

end Sys2Proof.Machine
end

section
/-! What the host sends outside the intake (O16): CXL.mem lines, configuration requests, malformed and unsupported requests. -/

namespace Sys2Proof.Machine

/-! ### A line of HBM -/

/-- A whole line written on a channel that works stands in HBM; what was sent stays. -/
theorem State.burstWrite_stands {s : State} {b off : Nat} (working : (s.chan (hbmChannel s.hbm.out (64 * b)).1).failed = false)
    (bs : List Byte) (poisoned : Bool) :
    (s.burstWrite b off bs poisoned).hbm.bytes = s.hbm.bytes.writeN (64 * b + off) bs ∧ (s.burstWrite b off bs poisoned).out = s.out := by
  simp only [State.burstWrite, working, Bool.false_eq_true, if_false]
  have written := fun (t : State) => (t.countBurst_swept b true)
  split
  · rw [(State.countBurst_swept _ _ _).hbm, (State.countBurst_swept _ _ _).out, (written _).hbm, (written _).out]
    exact ⟨rfl, rfl⟩
  · rw [(written _).hbm, (written _).out]
    exact ⟨rfl, rfl⟩

/-- A line written is one burst. -/
theorem State.hbmWrite_line (s : State) (b : Nat) {bs : List Byte} (line : bs.length = 64) (poisoned : Bool) :
    s.hbmWrite (64 * b) bs poisoned = s.burstWrite b 0 bs poisoned := by
  have offset : 64 * b % 64 = 0 := Nat.mul_mod_right 64 b
  have burst : 64 * b / 64 = b := Nat.mul_div_cancel_left b (by decide)
  have whole : bs.take 64 = bs := List.take_of_length_le (Nat.le_of_eq line)
  have none_left : bs.drop 64 = [] := List.drop_of_length_le (Nat.le_of_eq line)
  have nonempty : bs ≠ [] := fun e => by simp [e] at line
  obtain ⟨x, rest, rfl⟩ := List.exists_cons_of_ne_nil nonempty
  simp only [State.hbmWrite, State.hbmWriteGo, offset, burst, Nat.sub_zero, whole, none_left]

/-- Reading HBM changes its channels' records and HBM_ERR_LAST alone, and sends nothing. -/
theorem State.hbmTouched_keeps (s : State) (pa n : Nat) :
    (∃ chans errLast, (s.hbmTouched pa n).hbm = { s.hbm with chans := chans, errLast := errLast }) ∧ (s.hbmTouched pa n).out = s.out := by
  have counted := fun (u : State) (b : Nat) => u.countBurst_swept b false
  unfold State.hbmTouched
  refine List.foldlRecOn (motive := fun (t : State) => (∃ chans errLast, t.hbm = { s.hbm with chans := chans, errLast := errLast }) ∧ t.out = s.out)
    _ _ ⟨⟨_, _, rfl⟩, rfl⟩ (fun u kept b _ => ?_)
  obtain ⟨⟨chans, errLast, hbm⟩, out⟩ := kept
  have now := (counted u b).hbm.trans hbm
  have marked : ∀ chans errLast, ∃ chans' errLast',
      ({ (u.countBurst b false).hbm with chans := chans, errLast := errLast } : HbmMem) = { s.hbm with chans := chans', errLast := errLast' } :=
    fun chans errLast => ⟨chans, errLast, by rw [now]⟩
  dsimp only
  split
  · rw [State.bump_hbm, State.bump_out]
    exact ⟨marked _ _, (counted u b).out.trans out⟩
  · exact ⟨⟨chans, errLast, now⟩, (counted u b).out.trans out⟩

/-! ### CXL.mem (R483, R484, R518) -/

section
variable {s : State} (good : s.mod.good = true) {line : BitVec 34}
include good

/-- A line at or beyond the capacity is mapped by no decoder. -/
theorem exec_cxlMem_beyond (data : BitVec 512) (poisoned : Bool) (beyond : s.hbmBytes ≤ 64 * line.toNat) :
    exec (.cxlMemWrite line data poisoned) s = .fault .noSuchAddress ∧ exec (.cxlMemRead line) s = .fault .noSuchAddress := by
  constructor
  · show execCxlMemWrite line data poisoned s = _
    simp [execCxlMemWrite, good, beyond]
  · show execCxlMemRead line s = _
    simp [execCxlMemRead, good, beyond]

variable (mapped : 64 * line.toNat < s.hbmBytes)
include mapped

/-- A line that IDE holds back is violation 15. -/
theorem exec_cxlMem_held (data : BitVec 512) (poisoned : Bool) (held : s.ideHolds = true) :
    exec (.cxlMemWrite line data poisoned) s = .next ((s.violation 15 0xFF (64 * line.toNat)).send (.complete false)) ∧
    exec (.cxlMemRead line) s = .next ((s.drawLine.2.violation 15 0xFF (64 * line.toNat)).send (.read s.drawLine.1 true)) := by
  constructor
  · show execCxlMemWrite line data poisoned s = _
    simp [execCxlMemWrite, good, Nat.not_le.mpr mapped, held]
  · show execCxlMemRead line s = _
    simp [execCxlMemRead, good, Nat.not_le.mpr mapped, held]

variable (unheld : s.ideHolds = false) (trained : s.hbm.trained = true)
include unheld trained

/-- A write into a protected region is violation 11. -/
theorem exec_cxlMemWrite_guarded (data : BitVec 512) (poisoned : Bool) (guarded : s.guarded (64 * line.toNat) = true) :
    exec (.cxlMemWrite line data poisoned) s = .next ((s.violation 11 0xFF (64 * line.toNat)).send (.complete false)) := by
  show execCxlMemWrite line data poisoned s = _
  simp [execCxlMemWrite, good, Nat.not_le.mpr mapped, unheld, trained, guarded]

/-- A write elsewhere writes its line. -/
theorem exec_cxlMemWrite_open (data : BitVec 512) (unguarded : s.guarded (64 * line.toNat) = false)
    (still : migOf s.mem.migs 0 (64 * line.toNat) = none) :
    exec (.cxlMemWrite line data false) s =
      .next ((s.burstWrite line.toNat 0 (leBytes 64 data.toNat) false).send (.complete false)) := by
  show execCxlMemWrite line data false s = _
  simp [execCxlMemWrite, good, Nat.not_le.mpr mapped, unheld, trained, unguarded, State.writePlace, still,
    State.hbmWrite_line s line.toNat (leBytes_length 64 data.toNat)]

/-- A read outside the stores reads its line. -/
theorem exec_cxlMemRead_open (outside : s.storeEnd ≤ 64 * line.toNat) :
    exec (.cxlMemRead line) s = .next ((s.hbmTouched (64 * line.toNat) 64).send
      (.read (s.hbm.bytes.readN (64 * line.toNat) 64) (s.hbmRead (64 * line.toNat) 64).2.isSome)) := by
  show execCxlMemRead line s = _
  simp [execCxlMemRead, good, Nat.not_le.mpr mapped, unheld, trained, Nat.not_lt.mpr outside, State.hbmRead]

end

/-- A line drawn moves the free values' index only. -/
theorem State.drawWords_frame (n : Nat) (s : State) : (s.drawWords n).2 = { s with freeCtr := (s.drawWords n).2.freeCtr } := by
  induction n generalizing s with
  | zero => rfl
  | succ n ih =>
    simp only [State.drawWords]
    rw [ih]
    rfl

theorem State.drawLine_frame (s : State) : s.drawLine.2 = { s with freeCtr := s.drawLine.2.freeCtr } := s.drawWords_frame 16

/-! ### Configuration and other requests (R486, R518, R556) -/

section
variable {s : State} (good : s.mod.good = true)
include good

theorem exec_configRequest_retry (reg : BitVec 10) (write : Bool) (unready : s.host.cfgReady = false) :
    exec (.configRequest reg write) s = .next (s.send .cfgRetry) := by
  show execConfigRequest reg write s = _
  simp [execConfigRequest, good, unready]

section
variable (ready : s.host.cfgReady = true)
include ready

theorem exec_configRequest_write (reg : BitVec 10) : exec (.configRequest reg true) s = .next (s.send (.complete false)) := by
  show execConfigRequest reg true s = _
  simp [execConfigRequest, good, ready]

theorem exec_configRequest_ids : exec (.configRequest 0 false) s =
    .next (s.send (.read (leBytes 2 Config.vendorId.toNat ++ [0x76, 0x85]) false)) := by
  have device : leBytes 2 0x8576 = [0x76, 0x85] := by decide
  show execConfigRequest 0 false s = _
  simp [execConfigRequest, good, ready, device]

/-- Every configuration request is answered once. -/
theorem exec_configRequest_answers (reg : BitVec 10) (write : Bool) :
    ∃ t, exec (.configRequest reg write) s = .next t ∧ t.out.length = s.out.length + 1 := by
  cases write with
  | true => exact ⟨_, exec_configRequest_write good ready reg, by simp [State.send]⟩
  | false =>
    by_cases first : reg = 0#10
    · subst first
      exact ⟨_, exec_configRequest_ids good ready, by simp [State.send]⟩
    · refine ⟨s.draw.2.send (.read (leBytes 4 s.draw.1.toNat) false), ?_, by simp [State.send]⟩
      show execConfigRequest reg false s = _
      simp [execConfigRequest, good, ready, first]

end

theorem exec_malformedTlp : exec .malformedTlp s =
    .next ((s.updHost (fun h => { h with aer := { h.aer with malformed := true } })).violation 1 0xFF 0) := by
  show execMalformedTlp s = _
  simp [execMalformedTlp, good]

theorem exec_unsupportedRequest (addr : Dword) :
    exec (.unsupportedRequest addr) s = .next ((s.violation 2 0xFF addr.toNat).send (.complete true)) := by
  show execUnsupportedRequest addr s = _
  simp [execUnsupportedRequest, good]

end

/-- Settles O16: a line written is one burst of HBM, a line read changes none; the checks before them, in their order, are violations or
the model's stop. WHERE 0xFF is log entry 25, a configuration write without effect log entry 58. -/
theorem cxlMemReachesHbm : Obligations.CxlMemReachesHbm := by
  refine ⟨?lines, ?checks, ?requests⟩
  case lines =>
    intro line data s pa ok good mapped unheld trained
    refine ⟨fun unguarded still working => ?written, fun outside => ?read⟩
    case written =>
      have wf := (State.wf_of_memOk ok).2.2
      obtain ⟨bytes, out⟩ := State.burstWrite_stands (off := 0) working (leBytes 64 data.toNat) false
      refine ⟨_, exec_cxlMemWrite_open good mapped unheld trained data unguarded still, ?_, fun a outside => ?_, ?_⟩
      · have back := Mem.readN_writeN_of_wf wf pa (leBytes 64 data.toNat)
        rw [leBytes_length] at back
        rw [State.send_hbm, bytes]
        exact back
      · rw [State.send_hbm, bytes]
        exact Mem.read_writeN_of_wf _ _ _ wf (by rwa [leBytes_length])
      · rw [State.send, out]
    case read =>
      obtain ⟨⟨chans, errLast, hbm⟩, out⟩ := s.hbmTouched_keeps pa 64
      exact ⟨_, exec_cxlMemRead_open good mapped unheld trained outside, by rw [State.send, out], by rw [State.send_hbm, hbm]⟩
  case checks =>
    intro line data poisoned s pa good
    refine ⟨exec_cxlMem_beyond good data poisoned, fun mapped held => ?held, fun mapped unheld trained guarded => ?guarded⟩
    case held =>
      obtain ⟨write, read⟩ := exec_cxlMem_held good mapped data poisoned held
      refine ⟨⟨_, write, s.violation_logged _ _ _, rfl⟩, ⟨_, read, ?_, ?_⟩⟩ <;> rw [s.drawLine_frame]
      · exact s.violation_logged _ _ _
      · rfl
    case guarded => exact ⟨_, exec_cxlMemWrite_guarded good mapped unheld trained data poisoned guarded, s.violation_logged _ _ _, rfl⟩
  case requests =>
    intro reg write addr s good
    refine ⟨exec_configRequest_retry good reg write, fun ready => ⟨exec_configRequest_ids good ready, exec_configRequest_write good ready reg,
      exec_configRequest_answers good ready reg write⟩, ⟨_, exec_malformedTlp good, rfl, State.violation_logged _ _ _ _⟩,
      ⟨_, exec_unsupportedRequest good addr, rfl, s.violation_logged _ _ _⟩⟩

end Sys2Proof.Machine
end

section
/-! SPDM and IDE_KM (O18): the responder's answer to a request it is ready for, and the streams' keys. -/

namespace Sys2Proof.Machine

/-- A request the requester has come far enough to make is answered. -/
theorem State.spdmIf_ready {s : State} (good : s.mod.good = true) (loaded : s.boot.fw1.isSome = true) {ok : Bool} (ready : ok = true)
    (go : State → State) : s.spdmIf ok go = go s := by
  have on : s.spdmOn = true := by rw [State.spdmOn, good, loaded, Bool.and_self]
  simp [State.spdmIf, on, ready]

/-- A state of SPDM's own and a response sent. -/
def State.answered (s : State) (q : Spdm) (code : String) (body : List Byte) : State :=
  { s with boot := { s.boot with spdm := q }, out := s.out ++ [.spdm ⟨code, body⟩] }

section
variable {s : State} (good : s.mod.good = true) (loaded : s.boot.fw1.isSome = true)
include good loaded

theorem exec_getVersion : exec .getVersion s =
    .next (s.answered { s.boot.spdm with version := true, caps := false, algs := false, keyEx := false } "VERSION" [0x14]) :=
  congrArg _ (State.spdmIf_ready good loaded rfl _)

theorem exec_getCapabilities (version : s.boot.spdm.version = true) :
    exec .getCapabilities s = .next (s.answered { s.boot.spdm with caps := true } "CAPABILITIES" []) :=
  congrArg _ (State.spdmIf_ready good loaded version _)

theorem exec_negotiateAlgorithms (caps : s.boot.spdm.caps = true) :
    exec (.negotiateAlgorithms true) s = .next (s.answered { s.boot.spdm with algs := true } "ALGORITHMS" []) :=
  congrArg _ (State.spdmIf_ready good loaded (by rw [caps, Bool.and_self]) _)

theorem exec_finish (keyEx : s.boot.spdm.keyEx = true) :
    exec (.finish true) s = .next (s.answered { s.boot.spdm with keyEx := false, session := true } "FINISH_RSP" []) :=
  congrArg _ (State.spdmIf_ready good loaded (by rw [keyEx, Bool.and_self]) _)

section
variable (algs : s.boot.spdm.algs = true)
include algs

theorem exec_getDigests : exec .getDigests s =
    .next (s.answered s.boot.spdm "DIGESTS" (sha3_256 (s.chain false) ++ sha3_256 (s.chain true))) :=
  congrArg _ (State.spdmIf_ready good loaded algs _)

theorem exec_getCertificate (slot1 : Bool) (off len : Half) : exec (.getCertificate slot1 off len) s =
    .next (s.answered s.boot.spdm "CERTIFICATE" (((s.chain slot1).drop off.toNat).take len.toNat)) :=
  congrArg _ (State.spdmIf_ready good loaded algs _)

theorem exec_challenge (nonce : BitVec 256) : exec (.challenge nonce) s =
    .next (s.answered s.boot.spdm "CHALLENGE_AUTH" (signature s.aliasSeed (leBytes 32 nonce.toNat))) :=
  congrArg _ (State.spdmIf_ready good loaded algs _)

/-- The measurement blocks of an index: one, or every one there is (R573). -/
def State.measurements (s : State) (index : Byte) : List Byte :=
  (if index = 0xFF then (List.range 8).filterMap s.measurement else (s.measurement index.toNat).toList).flatten

theorem exec_getMeasurements_signed (index : Byte) (nonce : BitVec 256) : exec (.getMeasurements index true nonce) s =
    .next (s.answered s.boot.spdm "MEASUREMENTS"
      (s.measurements index ++ signature s.aliasSeed (leBytes 32 nonce.toNat ++ s.measurements index))) :=
  congrArg _ (State.spdmIf_ready good loaded algs _)

theorem exec_getMeasurements_unsigned (index : Byte) (nonce : BitVec 256) : exec (.getMeasurements index false nonce) s =
    .next (s.answered s.boot.spdm "MEASUREMENTS" (s.measurements index)) := by
  rw [← List.append_nil (s.measurements index)]
  exact congrArg _ (State.spdmIf_ready good loaded algs _)

/-- A key exchange draws from the entropy source once and is answered once. -/
theorem exec_keyExchange (share : List Byte) : ∃ t, exec (.keyExchange share) s = .next t ∧
    t.boot.spdm = { s.boot.spdm with keyEx := true } ∧ t.boot.entropyCtr = s.boot.entropyCtr + 1 ∧ t.out.length = s.out.length + 1 :=
  ⟨_, congrArg Host.Outcome.next (State.spdmIf_ready good loaded algs _), rfl, rfl, List.length_append⟩

end

section
variable (session : s.boot.spdm.session = true)
include session

theorem exec_endSession : exec .endSession s = .next (s.answered { s.boot.spdm with session := false } "END_SESSION_ACK" []) :=
  congrArg _ (State.spdmIf_ready good loaded session _)

/-- SPDM's own state after an IDE_KM message for some streams (R483): keys programmed, streams brought up or taken down. -/
def Spdm.keyed (p : Spdm) (op : Nat) (m : BitVec 2) : Spdm :=
  match op with
  | 0 => { p with ideKeys := p.ideKeys ||| m }
  | 1 => { p with ideGo := p.ideGo ||| (m &&& p.ideKeys) }
  | 2 => { p with ideGo := p.ideGo &&& ~~~m, ideKeys := p.ideKeys &&& ~~~m }
  | _ => p

/-- An IDE_KM message changes SPDM's own state, and IDE_UP says whether both streams are up. -/
theorem exec_ideKm (op : BitVec 2) (mem : Bool) : ∃ t, exec (.ideKm op mem) s = .next t ∧
    t.boot.spdm = s.boot.spdm.keyed op.toNat (if mem then 2 else 1) ∧
    t.host.ideUp = ((s.boot.spdm.keyed op.toNat (if mem then 2 else 1)).ideGo == 3) :=
  ⟨_, congrArg Host.Outcome.next (State.spdmIf_ready good loaded session _), rfl, rfl⟩

end

end

/-- With one stream taken down not both are up. -/
theorem stream_down_ne (go : BitVec 2) (mem : Bool) : (go &&& ~~~(if mem then 2 else 1) == 3) = false := by
  revert go mem
  decide

/-- Settles O18: each request by the responder's rule for it. The order of the requests is log entry 52's. -/
theorem spdmAnswers : Obligations.SpdmAnswers := by
  constructor
  · intro s good loaded p answers
    exact ⟨exec_getVersion good loaded, exec_getCapabilities good loaded, exec_negotiateAlgorithms good loaded,
      fun algs => ⟨exec_getDigests good loaded algs, exec_getCertificate good loaded algs, exec_challenge good loaded algs,
        fun index nonce => ⟨exec_getMeasurements_signed good loaded algs index nonce, exec_getMeasurements_unsigned good loaded algs index nonce⟩,
        exec_keyExchange good loaded algs⟩,
      exec_finish good loaded, exec_endSession good loaded⟩
  · intro mem s good loaded session m p
    obtain ⟨keyed, programs, spdm0, up0⟩ := exec_ideKm good loaded session 0 mem
    obtain ⟨started, starts, spdm1, up1⟩ := exec_ideKm good loaded session 1 mem
    obtain ⟨stopped, stops, spdm2, up2⟩ := exec_ideKm good loaded session 2 mem
    refine ⟨⟨keyed, programs, spdm0, up0⟩, ⟨started, starts, spdm1, ?_⟩, ⟨stopped, stops, ?_, congrArg Spdm.ideKeys spdm2⟩⟩
    · rw [up1]
      exact beq_iff_eq
    · exact up2.trans (stream_down_ne p.ideGo mem)

end Sys2Proof.Machine
end

section
/-! Debug tokens, the debug port and the sideband (O19). -/

namespace Sys2Proof.Machine

section
variable {s : State} (takes : s.barTakes .fromA = true)
include takes

theorem exec_tokenSubmit : exec .tokenSubmit s = .next s.submit := if_pos takes

theorem exec_debugDrop : exec .debugDrop s = .next s.dropGrants := if_pos takes

end

/-- The token that SUBMIT finds in its window. -/
def State.token (s : State) : List Byte := s.boot.tokenWin.readN 0 5440

/-- The grants a token asks for (R576). -/
def tokenGrants (img : List Byte) : BitVec 5 := BitVec.ofNat 5 (recField (imagePayload img) 32 1)

/-- A token that passes is taken and answered 0. -/
theorem State.submit_passed {s : State} (passed : s.tokenResult s.token = 0) :
    s.submit = (s.takeToken s.token).updBoot (fun b => { b with dbgResult := 0 }) := by
  rw [State.token] at passed ⊢
  simp [State.submit, passed]

/-- A token that fails is answered by what it fails. -/
theorem State.submit_failed {s : State} (failed : s.tokenResult s.token ≠ 0) :
    s.submit = s.updBoot (fun b => { b with dbgResult := BitVec.ofNat 4 (s.tokenResult s.token) }) := by
  rw [State.token] at failed ⊢
  simp [State.submit, failed]

/-- A token taken adds its grants. -/
theorem State.takeToken_grants (s : State) (img : List Byte) : (s.takeToken img).boot.grants = s.boot.grants ||| tokenGrants img := by
  simp only [State.takeToken]
  split <;> rfl

/-- Grants of JTAG or Pronath end every session and erase the IDE keys (R577). -/
theorem State.takeToken_ends {s : State} {img : List Byte}
    (opens : (tokenGrants img).toNat.testBit 0 ∨ (tokenGrants img).toNat.testBit 4) :
    (s.takeToken img).boot.spdm.session = false ∧ (s.takeToken img).boot.spdm.ideKeys = 0 ∧ (s.takeToken img).host.ideUp = false := by
  rw [tokenGrants] at opens
  have ends : ((BitVec.ofNat 5 (recField (imagePayload img) 32 1)).toNat.testBit 0 ||
      (BitVec.ofNat 5 (recField (imagePayload img) 32 1)).toNat.testBit 4) = true := by rwa [Bool.or_eq_true]
  simp only [State.takeToken, ends, if_true]
  exact ⟨rfl, rfl, rfl⟩

/-- A closed sideband answers nothing. -/
theorem exec_i3c_closed {s : State} (closed : s.granted 1 = false) (op : BitVec 2) (addr : Byte) (dword : BitVec 24) (v : Word) :
    exec (.i3cTransaction op addr dword v) s = .next s := by
  show execI3cTransaction op addr dword v s = _
  simp [execI3cTransaction, closed]

section
variable {s : State} (good : s.mod.good = true)
include good

theorem exec_tapInstruction_idcode : exec (.tapInstruction 1) s = .next (s.send (.tap Config.idcode)) := by
  show execTapInstruction 1 s = _
  simp [execTapInstruction, good]

theorem exec_tapInstruction_bypass : exec (.tapInstruction 0) s = .next (s.send (.tap 0)) := by
  show execTapInstruction 0 s = _
  simp [execTapInstruction, good]

/-- A closed port holds BYPASS under every instruction but IDCODE. -/
theorem exec_tapInstruction_closed {instr : BitVec 2} (closed : s.granted 0 = false) (other : instr ≠ 1) :
    exec (.tapInstruction instr) s = .next (s.send (.tap 0)) := by
  show execTapInstruction instr s = _
  rw [execTapInstruction, good, closed, if_neg (by decide), if_neg other, if_pos (.inr rfl)]

/-- An open port stops the model at an instruction that the manual does not describe. -/
theorem exec_tapInstruction_open {instr : BitVec 2} (granted : s.granted 0 = true) (ne0 : instr ≠ 0) (ne1 : instr ≠ 1) :
    exec (.tapInstruction instr) s = .refused .debugPort := by
  show execTapInstruction instr s = _
  rw [execTapInstruction, good, granted, if_neg (by decide), if_neg ne1, if_neg (by simpa using ne0)]

section
variable (granted : s.granted 1 = true) (addr : Byte) (dword : BitVec 24) (v : Word)
include granted

/-- An open sideband takes its dynamic address. -/
theorem exec_i3c_address : exec (.i3cTransaction 0 addr dword v) s =
    .next ({ s with mod := { s.mod with i3cAddr := some addr } }.send (.i3c true 0)) := by
  show execI3cTransaction 0 addr dword v s = _
  simp [execI3cTransaction, good, granted]

variable {addr} (own : s.mod.i3cAddr = some addr)
include own

theorem exec_i3c_read : exec (.i3cTransaction 1 addr dword v) s =
    .next ((s.barRead (4 * dword.toNat)).2.send (.i3c true (BitVec.ofNat 32 (s.barRead (4 * dword.toNat)).1))) := by
  show execI3cTransaction 1 addr dword v s = _
  simp [execI3cTransaction, good, granted, own]

theorem exec_i3c_write : exec (.i3cTransaction 2 addr dword v) s = .next ((s.barWrite (4 * dword.toNat) v.toNat).send (.i3c true 0)) := by
  show execI3cTransaction 2 addr dword v s = _
  simp [execI3cTransaction, good, granted, own]

end

end

/-- Settles O19: a token by its result, each transaction by the grants. The open TAP's refusal and the I3C transfers are log entry 59,
grants that add up are log entry 88. -/
theorem debugTokens : Obligations.DebugTokens := by
  constructor
  · intro s takes img r g
    refine ⟨fun passed => ?passed, fun failed => ?failed, ⟨_, exec_debugDrop takes, rfl, rfl⟩⟩
    case passed =>
      have submits := exec_tokenSubmit takes
      rw [State.submit_passed passed] at submits
      have grants : tokenGrants s.token = g := rfl
      have ends := State.takeToken_ends (s := s) (img := s.token)
      rw [grants] at ends
      exact ⟨_, submits, rfl, s.takeToken_grants s.token, ends⟩
    case failed =>
      have submits := exec_tokenSubmit takes
      rw [State.submit_failed failed] at submits
      exact ⟨_, submits, BitVec.toNat_ofNat _ _, rfl, rfl⟩
  · intro instr op addr dword v s good
    exact ⟨exec_tapInstruction_idcode good, exec_tapInstruction_bypass good, exec_tapInstruction_closed good, exec_tapInstruction_open good,
      fun closed => exec_i3c_closed closed op addr dword v, fun granted => ⟨_, exec_i3c_address good granted addr dword v, rfl⟩,
      fun granted own => ⟨⟨_, exec_i3c_read good granted dword v own, by rw [State.send]⟩, exec_i3c_write good granted dword v own⟩⟩

end Sys2Proof.Machine
end

section
/-! Rollback counts and fuse words (O21). -/

namespace Sys2Proof.Machine

/-- SEC_ROLLBACK_CTL written with GO: its flag and its target. -/
theorem rollbackGo_word (target : BitVec 7) : (2 ^ 31 + target.toNat).testBit 31 = true ∧ (2 ^ 31 + target.toNat) % 128 = target.toNat ∧
    BitVec.ofNat 7 (2 ^ 31 + target.toNat) = target := by
  have small : target.toNat < 2 ^ 7 := target.isLt
  refine ⟨?_, by omega, BitVec.eq_of_toNat_eq (by rw [BitVec.toNat_ofNat]; omega)⟩
  rw [Nat.testBit_two_pow_add_eq, Nat.testBit_lt_two_pow (by omega), Bool.not_false]

section
variable {s : State} (takes : s.barTakes .fromA = true) (target : BitVec 7)
include takes

/-- A raise is accepted or refused where none is under way. -/
theorem exec_rollbackGo (idle : s.boot.rbResult ≠ 1) : exec (.rollbackGo target) s =
    .next (s.updBoot (fun b => { b with
      rbTarget := target, rbGoal := target, rbResult := if s.rollbackOk target.toNat then 1 else 2 })) := by
  obtain ⟨go, low, word⟩ := rollbackGo_word target
  have begins : exec (.rollbackGo target) s = .next (s.rollbackCtl (2 ^ 31 + target.toNat)) := if_pos takes
  rw [begins, State.rollbackCtl]
  simp only [go, low, word, Bool.not_true, Bool.false_or, State.updBoot, beq_iff_eq, idle, if_false]
  rfl

/-- While a raise is under way a GO changes TARGET alone (log entry 134). -/
theorem exec_rollbackGo_busy (busy : s.boot.rbResult = 1) : exec (.rollbackGo target) s =
    .next { s with boot := { s.boot with rbTarget := target } } := by
  obtain ⟨-, -, word⟩ := rollbackGo_word target
  have begins : exec (.rollbackGo target) s = .next (s.rollbackCtl (2 ^ 31 + target.toNat)) := if_pos takes
  rw [begins, State.rollbackCtl]
  simp only [word, State.updBoot, busy, beq_self_eq_true, Bool.or_true, if_true]

/-- A fuse word keeps its old bits and gains DATA's at the next power-on (R567). -/
theorem exec_fuseBlow (unlocked : s.boot.fuses.fuseLock = false) : exec .fuseBlow s = .next (s.updBoot (fun b => { b with
    progGo := true, array := Tab.upd b.array b.progAddr.toNat 0#32 (fun w => w ||| b.progData) })) := by
  have begins : exec .fuseBlow s = .next (s.progCtl 1) := if_pos takes
  rw [begins]
  simp [State.progCtl, unlocked]

/-- Nothing is blown after FUSE_LOCK. -/
theorem exec_fuseBlow_locked (locked : s.boot.fuses.fuseLock = true) : exec .fuseBlow s = .next s := by
  have begins : exec .fuseBlow s = .next (s.progCtl 1) := if_pos takes
  rw [begins]
  simp [State.progCtl, locked]

end

/-- A blow sets the next bit of the thermometer code (R568). -/
theorem exec_rollbackBitBlow {s : State} (busy : s.boot.rbResult = 1) : exec .rollbackBitBlow s = .next (s.updBoot (fun b => { b with
    fuses := { b.fuses with rollback := b.fuses.rollback ||| BitVec.ofNat 64 (2 ^ s.boot.fuses.count) }
    rbResult := if b.rbGoal.toNat ≤ s.boot.fuses.count + 1 then 0 else 1 })) := by
  show execRollbackBitBlow s = _
  simp [execRollbackBitBlow, busy]

/-- Settles O21: one equation for each command. The rollback bit stands in the fuses at once (log entry 51). -/
theorem fusesBlow : Obligations.FusesBlow := by
  intro target s
  refine ⟨fun takes idle => ⟨_, exec_rollbackGo takes target idle, rfl, rfl, rfl, rfl⟩,
    fun takes busy => ⟨_, exec_rollbackGo_busy takes target busy, rfl⟩, fun busy => ⟨_, exec_rollbackBitBlow busy, rfl, rfl⟩,
    fun takes unlocked => ⟨_, exec_fuseBlow takes unlocked, rfl, fun a => ?_⟩, exec_fuseBlow_locked⟩
  show Tab.at (Tab.upd s.boot.array s.boot.progAddr.toNat 0#32 (fun w => w ||| s.boot.progData)) a 0#32 = _
  split
  next same => rw [same, Tab.at_upd_same]
  next other => rw [Tab.at_upd_ne _ _ _ other]

end Sys2Proof.Machine
end

section
/-! Warm resets and the module's power (O24, O25). -/

namespace Sys2Proof.Machine

/-! ### Warm resets (R558, R560, R657) -/

/-- A warm reset with no flash write in progress runs at once. -/
theorem State.warm_idle {s : State} (good : s.mod.good = true) (idle : s.boot.jobs = []) : s.warm = s.warmReset := by
  simp [State.warm, good, idle]

/-- While a flash write is in progress a warm reset waits. -/
theorem State.warm_busy {s : State} {j : FlashJob} {rest : List FlashJob} (good : s.mod.good = true) (busy : s.boot.jobs = j :: rest) :
    s.warm = { s with boot := { s.boot with warmWaits := true } } := by
  simp [State.warm, good, busy, State.updBoot]

/-- The start unit after the flash write in progress: its queue one write shorter, the flash written or, after an error, lost, an update's
BUSY fallen. -/
def Boot.flashWritten (b : Boot) (j : FlashJob) (rest : List FlashJob) (err : Bool) : Boot :=
  let b := { b with jobs := rest, flash := if err then j.lost b.flash else j.run b.flash }
  match j.kind with
  | .fw1 k => { b with updBusy := false, updResult := if err then 4 else 0, last1 := if err then b.last1 else k }
  | .fw2 k => { b with updBusy := false, updResult := if err then 4 else 0, last2 := if err then b.last2 else k }
  | .sheet => { b with updBusy := false, updResult := if err then 4 else 0 }
  | _ => b

theorem Boot.flashWritten_flash (b : Boot) (j : FlashJob) (rest : List FlashJob) (err : Bool) :
    (b.flashWritten j rest err).flash = (if err then j.lost b.flash else j.run b.flash) ∧ (b.flashWritten j rest err).warmWaits = b.warmWaits := by
  rw [Boot.flashWritten]
  split <;> exact ⟨rfl, rfl⟩

/-- The flash write in progress ends, and a warm reset that waits for it runs. -/
theorem exec_flashWriteDone_warm {s : State} {j : FlashJob} {rest : List FlashJob} (busy : s.boot.jobs = j :: rest)
    (waits : s.boot.warmWaits = true) (err : Bool) :
    exec (.flashWriteDone err) s = .next ({ s with boot := s.boot.flashWritten j rest err } : State).warmReset := by
  have asked : (s.boot.flashWritten j rest err).warmWaits = true := (s.boot.flashWritten_flash j rest err).2.trans waits
  show execFlashWriteDone err s = _
  rw [execFlashWriteDone, busy]
  exact congrArg Host.Outcome.next (if_pos asked)

/-- Settles O24: each cause asks for the same reset, and the reset says what it keeps. HBM reads zero behind it (log entry 3). -/
theorem warmResets : Obligations.WarmResets := by
  constructor
  · intro s good idle again
    have resets : ∀ i, exec i s = .next s.warm → again i := fun i asks =>
      ⟨_, asks.trans (congrArg _ (State.warm_idle good idle)), rfl, rfl, rfl, rfl, rfl, rfl, rfl, rfl, rfl, rfl, rfl, rfl, rfl, rfl, rfl, rfl, rfl, rfl, rfl⟩
    exact ⟨resets _ rfl, resets _ rfl, fun takes => resets _ (if_pos takes)⟩
  · intro s j rest good busy
    refine ⟨⟨_, congrArg Host.Outcome.next (State.warm_busy good busy), rfl⟩, fun waits err => ?_⟩
    exact ⟨_, exec_flashWriteDone_warm busy waits err, rfl, rfl, rfl, rfl, (s.boot.flashWritten_flash j rest err).1⟩

/-! ### The module's power (R643 to R646, R651) -/

/-- Without power a device is before stage A, with its fuses and what they blew, and holds no command, no program and no byte. -/
theorem State.unpowered_holds (s : State) : s.unpowered.boot.stage = 0 ∧ s.unpowered.cmds = [] ∧ s.unpowered.progs = [] ∧
    s.unpowered.boot.fuses = s.boot.fuses ∧ s.unpowered.boot.array = s.boot.array ∧ s.unpowered.gaf.tripped = false ∧
    s.unpowered.hbm.bytes = [] ∧ s.unpowered.mod = { s.mod with i3cAddr := none } := by
  simp only [State.unpowered]
  split <;> exact ⟨rfl, rfl, rfl, rfl, rfl, rfl, rfl, rfl⟩

/-- Power good falls. -/
theorem State.powerFall_good {s : State} (good : s.mod.good = true) (alert : Bool) : s.powerFall alert =
    { s.unpowered with mod := { s.unpowered.mod with good := false, railsOff := false, alert := alert } } := if_pos good

/-- Power good rises where its conditions hold. -/
theorem exec_powerGoodRise {s : State} (low : s.mod.good = false) (ready : s.mod.ready = true) : exec .powerGoodRise s =
    .next { s.unpowered with
      mod := { s.unpowered.mod with good := true, alert := false, pgAt := s.unpowered.nowUs }
      boot := { s.unpowered.boot with fuses := s.unpowered.boot.fuses.readArray s.unpowered.boot.array } } := by
  show execPowerGoodRise s = _
  simp [execPowerGoodRise, low, ready]

theorem exec_powerGoodRise_unready {s : State} (unready : s.mod.ready = false) : exec .powerGoodRise s = .next s := by
  show execPowerGoodRise s = _
  simp [execPowerGoodRise, unready]

/-- Settles O25: power good rises on its conditions and falls on each cause, whose module inputs differ and whose device is the same. HBM
reads zero without power (log entry 3). -/
theorem powerRises : Obligations.PowerRises := by
  constructor
  · intro s
    refine ⟨rfl, rfl, rfl, fun low => ?rails, fun low en vin warm rails => ?rises, fun low unmet => ?stays⟩
    case rails =>
      show execRailOffInterval s = _
      simp [execRailOffInterval, low]
    case rises =>
      obtain ⟨stage, cmds, -, fuses, array, -⟩ := s.unpowered_holds
      refine ⟨_, exec_powerGoodRise low (by simp [Module.ready, en, vin, warm, rails]), rfl, rfl, stage, cmds, ?_⟩
      rw [fuses, array]
    case stays =>
      refine exec_powerGoodRise_unready ?_
      obtain unmet | unmet | unmet | unmet := unmet <;> simp [Module.ready, unmet]
  · intro s good off
    have falls : ∀ (m : Module) (i : Instr) (alert : Bool), m.good = true → exec i s = .next (({ s with mod := m } : State).powerFall alert) →
        off i alert := by
      intro m i alert on asks
      obtain ⟨stage, cmds, progs, fuses, -, tripped, bytes, -⟩ := ({ s with mod := m } : State).unpowered_holds
      rw [State.powerFall_good on] at asks
      exact ⟨_, asks, rfl, rfl, rfl, cmds, progs, stage, tripped, bytes, fuses⟩
    refine ⟨falls { s.mod with modEn := false } _ _ good rfl, falls { s.mod with vinOk := false } _ _ good rfl,
      falls { s.mod with vinOk := false } _ _ good rfl, falls s.mod _ _ good rfl, fun takes => ?cold⟩
    case cold =>
      let cooled : State := { s with mod := { s.mod with cold := true } }
      have asks : exec .bootCold s = .next (cooled.powerFall false) := by
        show execBootCold s = _
        simp [execBootCold, takes, State.cold, good, cooled]
      refine ⟨falls { s.mod with cold := true } _ _ good asks, _, asks, ?_⟩
      obtain ⟨-, -, -, -, -, -, -, mod⟩ := cooled.unpowered_holds
      rw [State.powerFall_good (s := cooled) good, mod]

end Sys2Proof.Machine
end

section
/-! LOAD_PROGRAM and UNLOAD (O9, O10). -/

namespace Sys2Proof.Machine

theorem State.prog_congr {s t : State} (same : t.progs = s.progs) (i : Nat) : t.prog i = s.prog i := by rw [State.prog, same, State.prog]

theorem State.freeProg_congr {s t : State} (same : t.progs = s.progs) : t.freeProg = s.freeProg := by
  simp only [State.freeProg, State.prog_congr same]

theorem State.progOf_congr {s t : State} (same : t.progs = s.progs) (id : Nat) : t.progOf id = s.progOf id := by
  simp only [State.progOf, State.prog_congr same]

section
variable {seq : Word} {s : State} {c : Cmd} (turn : s.turnOf seq 0x01 = some c)
include turn

theorem exec_loadProgram (load : c.isUnload = false) : exec (.loadProgram seq) s = .next (s.loadProgram seq c) := by
  show execLoadProgram seq s = _
  simp [execLoadProgram, turn, load]

theorem exec_unload (unload : c.isUnload = true) : exec (.unload seq) s = .next (s.unload seq c) := by
  show execUnload seq s = _
  simp [execUnload, turn, unload]

/-- A LOAD_PROGRAM or UNLOAD that ends before any work of its own. -/
theorem finishBare_of_turn {i : Instr} {st : Status} (does : exec i s = .next (s.finishBare seq st)) :
    ∃ t, exec i s = .next t ∧ s.ended t seq c st [] ∧ t.progs = s.progs := by
  obtain ⟨accepted, -, unrecorded⟩ := State.turnOf_some turn
  exact ⟨_, does, State.finish_ended accepted unrecorded st [], (s.finish_keeps seq st []).2.1⟩

end

/-! ### LOAD_PROGRAM (R501, R506) -/

/-- The slot of a program entered from its container. -/
def State.entered (s : State) (k : Container) (i : Nat) : ProgSlot :=
  { s.prog i with prog := some (k.program (programWindow i) ((k.windowRuns.map (fun r => runPages r.2 * 65536)).foldl (fun a b => a + b) 0)) }

/-- A container that passes every check is entered in the lowest free entry, its windows placed. -/
theorem State.loadContainer_enters {u v : State} {seq : Word} {k : Container} {cls i : Nat} (shapes : k.shapesOk = true)
    (proxies : k.proxiesOk = true) (free : u.freeProg = some i) (placed : u.placeRuns cls (programWindow i) k.windowRuns = some v) :
    u.loadContainer seq k cls = ({ v with progs := Tab.put v.progs i (u.entered k i) } : State).finish seq .ok
      (resultOf [(4, progId i (u.prog i).gen), (8, (k.windowRuns.map (fun r => runPages r.2 * 65536)).foldl (fun a b => a + b) 0),
        (4, recField k.attrs.body 0 4)]) := by
  simp only [State.loadContainer, shapes, proxies, Bool.not_true, Bool.false_eq_true, if_false, free, placed]
  rfl

/-- Settles O9: the container is read, found good and entered. The lowest free entry and pages of 64 KiB are the model's choices (log
entry 12 the pages). -/
theorem loadProgramEnters : Obligations.LoadProgramEnters := by
  intro seq s s1 c bs k i turn load src len nonempty reachable ready read parsed shapes proxies s0 free placed n p
  have progs : s0.progs = s.progs := (s.read_access (accOf seq) src len).progs
  have enters : s.loadProgram seq c = s0.loadContainer seq k c.cls := by
    have loads := State.readFor_ok (seq := seq) (unit := 4) ready read
    simp only [State.loadProgram]
    rw [if_neg nonempty, reachable]
    dsimp only
    rw [loads, parsed]
  have entered : s0.entered k i = p := by rw [State.entered, State.prog_congr progs]
  have does := exec_loadProgram turn load
  rw [enters, State.loadContainer_enters shapes proxies ((State.freeProg_congr progs).trans free) placed, entered, State.prog_congr progs] at does
  exact ⟨_, does, rfl, (State.finish_keeps _ _ _ _).2.1⟩

/-! ### UNLOAD (R501, R507) -/

/-- Returning a window's pages changes the memory manager alone. -/
theorem State.releaseWindow_frame (s : State) (i : Nat) : s.releaseWindow i = { s with mem := (s.releaseWindow i).mem } := by
  unfold State.releaseWindow
  refine List.foldlRecOn (motive := fun (t : State) => t = { s with mem := t.mem }) _ _ rfl (fun u frame l _ => ?_)
  rw [State.returnPage, frame]

/-- The state of a program released: its window returned, its entry free with the next generation. -/
def State.unloaded (s : State) (i : Nat) : State :=
  { s.releaseWindow i with progs := Tab.put s.progs i { gen := (s.prog i).gen + 1, prog := none } }

theorem State.unload_live {s : State} {seq : Word} {c : Cmd} {p : Program} (live : s.progOf c.programRef = some p) :
    s.unload seq c = (s.unloaded (c.programRef % 256)).finish seq .ok (resultOf [(4, c.programRef), (8, p.bytes)]) := by
  simp only [State.unload, live]
  rw [State.unloaded, s.releaseWindow_frame]
  rfl

/-- Settles O10: a live program's entry is freed before the command's own end; the other cases end the command bare. -/
theorem unloadReleases : Obligations.UnloadReleases := by
  constructor
  · intro seq s c p turn unload live i
    obtain ⟨accepted, -, unrecorded⟩ := State.turnOf_some turn
    have does := exec_unload turn unload
    rw [State.unload_live live] at does
    have host : (s.unloaded i).host = s.host := by rw [State.unloaded, s.releaseWindow_frame]
    have cmds : (s.unloaded i).cmd? seq = some c := by rw [State.cmd?, State.unloaded, s.releaseWindow_frame]; exact accepted
    let t := (s.unloaded i).finish seq .ok (resultOf [(4, c.programRef), (8, p.bytes)])
    have progs : t.progs = Tab.put s.progs i { gen := (s.prog i).gen + 1, prog := none } := (State.finish_keeps _ _ _ _).2.1
    have freed : t.prog i = { gen := (s.prog i).gen + 1, prog := none } := by rw [State.prog, progs, Tab.at_put_same]
    refine ⟨t, does, State.finish_ended_of_host host cmds unrecorded _ _, ?_, ?_, fun j other => ?_, ?_⟩
    · rw [freed]
    · rw [freed]
    · rw [State.prog, progs, Tab.at_put_ne _ _ _ other, State.prog]
    · simp [State.progOf, show t.prog (c.programRef % 256) = _ from freed]
  · intro seq s c turn
    refine ⟨fun load empty => finishBare_of_turn turn ?_, fun unload stale => finishBare_of_turn turn ?_⟩
    · rw [exec_loadProgram turn load, State.loadProgram, if_pos empty]
    · rw [exec_unload turn unload, State.unload, stale]

end Sys2Proof.Machine
end

section
/-! The gaffer: levers, trips, plans, emergencies and retirements (O59). -/

namespace Sys2Proof.Machine

/-! ### Levers (R602, R606, R607, R609) -/

/-- The levers are in their ranges. -/
def Gaffer.leversOk (g : Gaffer) : Prop :=
  1 ≤ g.la.toNat ∧ g.la.toNat ≤ 8 ∧ 1 ≤ g.lv.toNat ∧ g.lv.toNat ≤ 8 ∧ 1 ≤ g.lh.toNat ∧ g.lh.toNat ≤ 4

/-- Every lever is at its minimum. -/
def Gaffer.least (g : Gaffer) : Prop := g.la = 1 ∧ g.lv = 1 ∧ g.lh = 1

theorem Gaffer.leversOk_of_least {g : Gaffer} (h : g.least) : g.leversOk := by
  obtain ⟨la, lv, lh⟩ := h
  simp [Gaffer.leversOk, la, lv, lh]

theorem Gaffer.lower_leversOk {g : Gaffer} (h : g.leversOk) : g.lower.leversOk := by
  obtain ⟨la, la', lv, lv', lh, lh'⟩ := h
  unfold Gaffer.lower Gaffer.leversOk
  (repeat' split) <;> bv_omega

theorem Gaffer.raise_leversOk {g : Gaffer} (h : g.leversOk) : g.raise.leversOk := by
  obtain ⟨la, la', lv, lv', lh, lh'⟩ := h
  unfold Gaffer.raise Gaffer.leversOk
  (repeat' split) <;> bv_omega

/-- A gaffer with its levers moved between two others' states keeps the range when LH alone falls from above its minimum. -/
theorem Gaffer.leversOk_lowerLh {g : Gaffer} (h : g.leversOk) (above : 1 < g.lh.toNat) (l : BitVec 3) :
    ({ g with lh := g.lh - 1, limiter := l } : Gaffer).leversOk := by
  obtain ⟨la, la', lv, lv', lh, lh'⟩ := h
  unfold Gaffer.leversOk
  dsimp only
  bv_omega

theorem Gaffer.move_leversOk {g : Gaffer} (h : g.leversOk) : g.move.leversOk := by
  unfold Gaffer.move
  extract_lets down held a b
  have moved : a.leversOk := by
    unfold a
    split
    · exact Gaffer.lower_leversOk h
    split
    · exact Gaffer.raise_leversOk h
    · exact h
  have noted : b.leversOk := by
    unfold b
    split <;> exact moved
  split
  next lowers =>
    simp only [Bool.and_eq_true, decide_eq_true_eq] at lowers
    exact Gaffer.leversOk_lowerLh noted lowers.1.2 3
  next => exact noted

/-- A power above the cap lowers LA first. -/
theorem Gaffer.move_lowersLa {g : Gaffer} (above : g.cap.toNat < g.p100.toNat) (room : 1 < g.la.toNat) :
    g.move.la = g.la - 1 ∧ g.move.lv = g.lv := by
  have lowers : g.lower = { g with la := g.la - 1 } := if_pos room
  rw [Gaffer.move]
  simp only [above, decide_true, Bool.true_or, if_true, lowers]
  constructor <;> (repeat' split) <;> rfl

/-- Levers at their minimum stay there while a rule forbids raises. -/
theorem Gaffer.move_least {g : Gaffer} (h : g.least) (held : g.trip105.isSome = true) : g.move.least := by
  obtain ⟨la, lv, lh⟩ := h
  have stays : g.lower = g := by simp [Gaffer.lower, la, lv, lh]
  rw [Gaffer.move]
  simp only [stays, held, Bool.or_true, Bool.true_or, Bool.not_true, Bool.and_false, Bool.false_eq_true, if_false, ite_self]
  (repeat' split) <;> simp_all [Gaffer.least]

/-- The sensors, the hours and the watch of R607 move no lever, but below 105 °C. -/
theorem Gaffer.watch_leversOk {g : Gaffer} (h : g.leversOk) (nowUs : Nat) : (g.watch nowUs).leversOk := by
  unfold Gaffer.watch
  split
  · exact Gaffer.leversOk_of_least ⟨rfl, rfl, rfl⟩
  · exact h

theorem Gaffer.watch_hot {g : Gaffer} (hot : 105 ≤ g.junction.toNat) (nowUs : Nat) :
    g.watch nowUs = { g.minimum 5 with trip105 := some (g.trip105.getD nowUs) } := if_pos hot

theorem Gaffer.watch_cool {g : Gaffer} (cool : g.junction.toNat < 105) (nowUs : Nat) : g.watch nowUs = { g with trip105 := none } :=
  if_neg (by omega)

/-- What the loop over the levers works with: the sensors read, the hours counted, the powers taken and the watch of R607 kept. -/
def State.measured (s : State) (j hbm inlet outlet : Byte) (hot : Nat) : Gaffer :=
  let g := (s.gaf.sense j hbm inlet outlet hot).hours
  ({ g with p100 := BitVec.ofNat 12 (min (meanOf (g.samples.take 10)) 4095), p10ms := BitVec.ofNat 12 (min (meanOf g.samples) 4095) } : Gaffer).watch s.nowUs

/-- The gaffer behind a tick. -/
def State.ticked (s : State) (j hbm inlet outlet : Byte) (hot : Nat) : Gaffer :=
  { { s.measured j hbm inlet outlet hot with cap := s.capInForce }.move with cap := (s.measured j hbm inlet outlet hot).cap }

theorem exec_gafferLoopTick (j hbm inlet outlet : Byte) (hot : IslandIx) (s : State) : exec (.gafferLoopTick j hbm inlet outlet hot) s =
    .next ({ s with gaf := s.ticked j hbm inlet outlet hot.val }.bump .io 0x160
      ((s.measured j hbm inlet outlet hot.val).fell (s.ticked j hbm inlet outlet hot.val))) := rfl

section
variable (s : State) (j hbm inlet outlet : Byte) (hot : Nat)

theorem State.ticked_leversOk (h : s.gaf.leversOk) : (s.ticked j hbm inlet outlet hot).leversOk := by
  have read : (s.measured j hbm inlet outlet hot).leversOk :=
    Gaffer.watch_leversOk (g := { (s.gaf.sense j hbm inlet outlet hot).hours with p100 := _, p10ms := _ }) h s.nowUs
  have moved : ({ s.measured j hbm inlet outlet hot with cap := s.capInForce } : Gaffer).move.leversOk := Gaffer.move_leversOk read
  exact moved

theorem State.ticked_lowersLa (cool : j.toNat < 105) (room : 1 < s.gaf.la.toNat)
    (above : s.capInForce.toNat < min (meanOf (s.gaf.samples.take 10)) 4095) :
    (s.ticked j hbm inlet outlet hot).la = s.gaf.la - 1 ∧ (s.ticked j hbm inlet outlet hot).lv = s.gaf.lv := by
  have watched := Gaffer.watch_cool (g := { (s.gaf.sense j hbm inlet outlet hot).hours with
    p100 := BitVec.ofNat 12 (min (meanOf (s.gaf.samples.take 10)) 4095), p10ms := BitVec.ofNat 12 (min (meanOf s.gaf.samples) 4095) })
    cool s.nowUs
  have read : s.measured j hbm inlet outlet hot = _ := watched
  have p100 : (s.measured j hbm inlet outlet hot).p100.toNat = min (meanOf (s.gaf.samples.take 10)) 4095 := by
    rw [read, BitVec.toNat_ofNat]
    omega
  have la : (s.measured j hbm inlet outlet hot).la = s.gaf.la := by rw [read]; rfl
  have lv : (s.measured j hbm inlet outlet hot).lv = s.gaf.lv := by rw [read]; rfl
  have moved := Gaffer.move_lowersLa (g := { s.measured j hbm inlet outlet hot with cap := s.capInForce })
    (above.trans_eq p100.symm) (by rw [la]; exact room)
  rw [la, lv] at moved
  exact moved

theorem State.ticked_least (trips : 105 ≤ j.toNat) : (s.ticked j hbm inlet outlet hot).least := by
  have watched := Gaffer.watch_hot (g := { (s.gaf.sense j hbm inlet outlet hot).hours with
    p100 := BitVec.ofNat 12 (min (meanOf (s.gaf.samples.take 10)) 4095), p10ms := BitVec.ofNat 12 (min (meanOf s.gaf.samples) 4095) })
    trips s.nowUs
  have read : s.measured j hbm inlet outlet hot = _ := watched
  have moved := Gaffer.move_least (g := { s.measured j hbm inlet outlet hot with cap := s.capInForce }) (by rw [read]; exact ⟨rfl, rfl, rfl⟩)
    (by rw [read]; rfl)
  exact moved

end

/-! ### Trips (R606 to R608) -/

/-- A sample no third above 2,100 W in a row moves no lever. -/
theorem exec_powerSample_kept {s : State} {watts : Half} {n : Nat} (run : (if 2100 < watts.toNat then s.gaf.ovr + 1 else 0) = n) (low : n ≠ 3) :
    exec (.powerSample watts) s = .next { s with gaf := { s.gaf with samples := (watts.toNat :: s.gaf.samples).take 1000, ovr := n } } := by
  show execPowerSample watts s = _
  simp only [execPowerSample, run, low, if_false, State.updGaf]

/-- A third sample above 2,100 W sets every lever to its minimum and is reported. -/
theorem exec_powerSample_third {s : State} {watts : Half} (high : 2100 < watts.toNat) (third : s.gaf.ovr = 2) : exec (.powerSample watts) s =
    .next (State.report { s with gaf := { s.gaf.minimum 4 with
      samples := (watts.toNat :: s.gaf.samples).take 1000, ovr := 0, cntOver := satAdd s.gaf.cntOver 1 } }
      0x1C (subjIsland 1124) (subjIsland 1124) 0xFFFFFFFF 0) := by
  show execPowerSample watts s = _
  simp only [execPowerSample, high, third, if_true, State.updGaf]
  rfl

theorem exec_junctionTripLimit {s : State} {j : Byte} (hot : 105 ≤ j.toNat) (i : IslandIx) : exec (.junctionTripLimit j i) s =
    .next (s.updGaf (fun g => { (g.sense j g.hbm g.inlet g.outlet i.val).minimum 5 with trip105 := some (g.trip105.getD s.nowUs) })) := by
  have trips : exec (.junctionTripLimit j i) s = .next (s.updGaf (fun g => (g.sense j g.hbm g.inlet g.outlet i.val).watch s.nowUs)) :=
    if_neg (by omega)
  have watched := Gaffer.watch_hot (g := s.gaf.sense j s.gaf.hbm s.gaf.inlet s.gaf.outlet i.val) hot s.nowUs
  rw [trips, State.updGaf, watched]
  rfl

/-- A command's end leaves the start unit, the gaffer, the module and the fault unit's log alone. -/
theorem State.endCmd_sameBase (s : State) (q : Word) (st : Status) : s.sameBase (s.endCmd q st) := by
  obtain ⟨res, ends⟩ := s.endCmd_eq q st
  rw [ends]
  exact (s.finish_keeps q st res).1

theorem State.haltAll_sameBase (s : State) : s.sameBase s.haltAll :=
  List.foldlRecOn (motive := fun (t : State) => s.sameBase t) _ _ (show s.sameBase s from ⟨rfl, rfl, rfl, rfl⟩)
    (fun t same q _ => State.sameBase_trans same (t.endCmd_sameBase q .deviceFault))

theorem exec_thermalTrip {s : State} {t0 : Nat} (hot : s.gaf.trip105 = some t0) (first : s.gaf.tripped = false) (late : t0 + 10000 ≤ s.nowUs) :
    exec .thermalTrip s = .next ((s.haltAll.updGaf (fun g => { g with tripped := true, tripReg := true, tripTemp := g.junction })).report 0x1D
      (subjIsland s.gaf.hotIsl.toNat) (subjIsland s.gaf.hotIsl.toNat) 0xFFFFFFFF 0) := by
  have passed : ¬ s.nowUs < t0 + 10000 := by omega
  show execThermalTrip s = _
  simp [execThermalTrip, hot, first, passed]

/-! ### Islands and plans (R610 to R613) -/

@[simp] theorem State.updIsland_island_same (s : State) (i : Nat) (f : Island → Island) : (s.updIsland i f).island i = f (s.island i) :=
  Tab.at_put_same _ _ _ _

theorem State.updIsland_island_ne (s : State) {i n : Nat} (f : Island → Island) (h : n ≠ i) : (s.updIsland i f).island n = s.island n :=
  Tab.at_put_ne _ _ _ h

/-- An entry of the ageing log leaves the islands, the plan and everything but the gaffer and the start unit alone (R615). -/
theorem State.ageLog_keeps (s : State) (cause : Nat) : (s.ageLog cause).gaf.isls = s.gaf.isls ∧ (s.ageLog cause).gaf.planAt = s.gaf.planAt ∧
    (s.ageLog cause).gaf.planOwed = s.gaf.planOwed ∧ (s.ageLog cause).gaf.cntRetired = s.gaf.cntRetired ∧
    (s.ageLog cause).host = s.host ∧ (s.ageLog cause).flt = s.flt := by
  rw [State.ageLog]
  split <;> exact ⟨rfl, rfl, rfl, rfl, rfl, rfl⟩

/-- Ratios taken leave each island's step, slack and retirement, and the host and fault units, alone. -/
theorem State.takeRatios_keeps (s : State) (l : List IslandTrials) : (∀ n, ((s.takeRatios l).island n).step = (s.island n).step ∧
    ((s.takeRatios l).island n).slack = (s.island n).slack ∧ ((s.takeRatios l).island n).retired = (s.island n).retired) ∧
    (s.takeRatios l).host = s.host ∧ (s.takeRatios l).flt = s.flt := by
  refine List.foldlRecOn (motive := fun (t : State) => (∀ n, (t.island n).step = (s.island n).step ∧ (t.island n).slack = (s.island n).slack ∧
    (t.island n).retired = (s.island n).retired) ∧ t.host = s.host ∧ t.flt = s.flt) l _ ⟨fun _ => ⟨rfl, rfl, rfl⟩, rfl, rfl⟩ ?_
  intro t ⟨isls, host, flt⟩ x _
  refine ⟨fun n => ?_, host, flt⟩
  by_cases h : n = x.island.val
  · subst h
    rw [State.updIsland_island_same]
    exact isls _
  · rw [State.updIsland_island_ne _ _ h]
    exact isls n

/-- What a re-plan of an island changes: its own step and slack, unless it is retired (R611). -/
theorem State.replanIsland_does (s : State) (i : Nat) (slacks : List Half) :
    ((s.replanIsland i slacks).1.island i).step = (if (s.island i).retired then (s.island i).step else
      BitVec.ofNat 8 (replanFrom (planTarget i) slacks (s.island i).step.toNat (s.island i).slack).1) ∧
    (∀ n, n ≠ i → (s.replanIsland i slacks).1.island n = s.island n) ∧
    (∀ n, ((s.replanIsland i slacks).1.island n).retired = (s.island n).retired) ∧
    (s.replanIsland i slacks).1.host = s.host ∧ (s.replanIsland i slacks).1.flt = s.flt := by
  rw [State.replanIsland]
  dsimp only
  split
  · exact ⟨rfl, fun _ _ => rfl, fun _ => rfl, rfl, rfl⟩
  · refine ⟨by rw [State.updIsland_island_same], fun n h => State.updIsland_island_ne _ _ h, fun n => ?_, rfl, rfl⟩
    by_cases h : n = i
    · subst h
      rw [State.updIsland_island_same]
    · rw [State.updIsland_island_ne _ _ h]

/-- One island of a re-plan, and the count of those raised. -/
def State.replanStep (l : List IslandTrials) (q : State × Nat) (i : Nat) : State × Nat :=
  ((q.1.replanIsland i (trialsOf l i)).1, q.2 + b2n (q.1.replanIsland i (trialsOf l i)).2)

theorem State.replan_eq (s : State) (l : List IslandTrials) : s.replan l =
    (((List.range 1125).foldl (State.replanStep l) (s.takeRatios l, 0)).1.updGaf (fun g => { g with
      raised := BitVec.ofNat 11 ((List.range 1125).foldl (State.replanStep l) (s.takeRatios l, 0)).2, planAt := s.nowUs,
      planOwed := false })).ageLog 1 := rfl

/-- A re-plan plans each island below a bound once, from what stood before it. -/
theorem State.replanSteps_do (s : State) (l : List IslandTrials) (m : Nat) {t : State}
    (replanned : ((List.range m).foldl (State.replanStep l) (s, 0)).1 = t) :
    (∀ n, n < m → (t.island n).step = if (s.island n).retired then (s.island n).step else
      BitVec.ofNat 8 (replanFrom (planTarget n) (trialsOf l n) (s.island n).step.toNat (s.island n).slack).1) ∧
    (∀ n, m ≤ n → t.island n = s.island n) ∧ (∀ n, (t.island n).retired = (s.island n).retired) ∧ t.host = s.host ∧ t.flt = s.flt := by
  induction m generalizing t with
  | zero =>
    subst replanned
    exact ⟨fun n h => absurd h (by omega), fun _ _ => rfl, fun _ => rfl, rfl, rfl⟩
  | succ m ih =>
    obtain ⟨below, above, retired, host, flt⟩ := ih rfl
    rw [List.range_succ, List.foldl_append] at replanned
    generalize (List.range m).foldl (State.replanStep l) (s, 0) = q at *
    obtain ⟨own, others, retired', host', flt'⟩ := q.1.replanIsland_does m (trialsOf l m)
    have step : (q.1.replanIsland m (trialsOf l m)).1 = t := replanned
    rw [step] at own others retired' host' flt'
    refine ⟨fun n h => ?_, fun n h => (others n (by omega)).trans (above n (by omega)), fun n => (retired' n).trans (retired n),
      host'.trans host, flt'.trans flt⟩
    by_cases e : n = m
    · subst e
      rw [own, above n (Nat.le_refl n)]
    · rw [others n e]
      exact below n (by omega)

/-- What a re-plan does (R611). -/
theorem State.replan_does (s : State) (l : List IslandTrials) : (s.replan l).gaf.planAt = s.nowUs ∧ (s.replan l).gaf.planOwed = false ∧
    (∀ n, n < 1125 → ((s.replan l).island n).step = if (s.island n).retired then (s.island n).step else
      BitVec.ofNat 8 (replanFrom (planTarget n) (trialsOf l n) (s.island n).step.toNat (s.island n).slack).1) ∧
    (∀ n, ((s.replan l).island n).retired = (s.island n).retired) ∧ (s.replan l).host = s.host ∧ (s.replan l).flt = s.flt := by
  obtain ⟨ratios, host, flt⟩ := s.takeRatios_keeps l
  obtain ⟨r, planned⟩ : ∃ r, (List.range 1125).foldl (State.replanStep l) (s.takeRatios l, 0) = r := ⟨_, rfl⟩
  obtain ⟨steps, -, retired, host', flt'⟩ := (s.takeRatios l).replanSteps_do l 1125 (congrArg Prod.fst planned)
  rw [State.replan_eq, planned]
  obtain ⟨isls, planAt, planOwed, -, host'', flt''⟩ := State.ageLog_keeps (r.1.updGaf (fun g => { g with
      raised := BitVec.ofNat 11 r.2, planAt := s.nowUs, planOwed := false })) 1
  have same : ∀ n, Tab.at _ n {} = r.1.island n := fun n => congrArg (fun t => Tab.at t n {}) isls
  refine ⟨planAt, planOwed, fun n h => ?_, fun n => ?_, host''.trans (host'.trans host), flt''.trans (flt'.trans flt)⟩
  · obtain ⟨step, slack, ret⟩ := ratios n
    rw [State.island, same n, steps n h, step, slack, ret]
  · rw [State.island, same n, retired n, (ratios n).2.2]

/-- Islands count on a die or the I/O die. -/
theorem State.bump_islandAt (s : State) (i ev n : Nat) : s.bump (islandAt i) ev n = { s with perf := (s.bump (islandAt i) ev n).perf } := by
  unfold islandAt
  (repeat' split) <;> rfl

/-- An island raised by an emergency: its slack read, its step two higher up to CEIL, the emergency counted (R612). -/
def State.strained (s : State) (i : Nat) (slack : Half) : State :=
  ((s.updIsland i (fun v => { v with slack := slack })).updIsland i (fun v => { v with
    step := BitVec.ofNat 8 (min (v.step.toNat + 2) ceilStep), emerg := satAdd v.emerg 1 })).updGaf
    (fun g => { g with cntEmerg := satAdd g.cntEmerg 1 })

/-- Counting an emergency leaves the islands alone. -/
theorem State.strained_island (s : State) (i n : Nat) (slack : Half) : (s.strained i slack).island n =
    ((s.updIsland i (fun v => { v with slack := slack })).updIsland i (fun v => { v with
      step := BitVec.ofNat 8 (min (v.step.toNat + 2) ceilStep), emerg := satAdd v.emerg 1 })).island n := rfl

theorem State.strained_island_same (s : State) (i : Nat) (slack : Half) : (s.strained i slack).island i = { s.island i with
    slack := slack, step := BitVec.ofNat 8 (min ((s.island i).step.toNat + 2) ceilStep), emerg := satAdd (s.island i).emerg 1 } := by
  rw [State.strained_island, State.updIsland_island_same, State.updIsland_island_same]

theorem State.strained_does (s : State) (i : Nat) (slack : Half) {t : State} (behind : t.gaf = (s.strained i slack).gaf) :
    (t.island i).slack = slack ∧ (∀ n, n ≠ i → t.island n = s.island n) ∧
    (t.island i).step = BitVec.ofNat 8 (min ((s.island i).step.toNat + 2) ceilStep) ∧
    (t.island i).emerg = satAdd (s.island i).emerg 1 ∧ t.gaf.cntEmerg = satAdd s.gaf.cntEmerg 1 := by
  have same : ∀ n, t.island n = (s.strained i slack).island n := fun n => congrArg (fun (g : Gaffer) => Tab.at g.isls n {}) behind
  have counted : t.gaf.cntEmerg = satAdd s.gaf.cntEmerg 1 := congrArg Gaffer.cntEmerg behind
  rw [same, State.strained_island_same]
  exact ⟨rfl, fun n h => by rw [same, State.strained_island, State.updIsland_island_ne _ _ h, State.updIsland_island_ne _ _ h], rfl, rfl, counted⟩

theorem State.strained_gafOnly (s : State) (i : Nat) (slack : Half) : ∃ g, s.strained i slack = { s with gaf := g } := ⟨_, rfl⟩

/-- An emergency below the threshold raises its island. -/
theorem exec_slackEmergency {s : State} {i : IslandIx} {slack : Half} (short : slack.toInt < slackFloor i.val) (regular : i.val ≠ 1125) :
    ∃ p, exec (.slackEmergency i slack) s = .next { s with gaf := (s.strained i.val slack).gaf, perf := p } := by
  have below : ¬ slackFloor i.val ≤ slack.toInt := by omega
  have raises : exec (.slackEmergency i slack) s = .next ((s.strained i.val slack).bump (islandAt i.val) 0x163 1) :=
    (if_neg below).trans (if_neg regular)
  obtain ⟨g, only⟩ := s.strained_gafOnly i.val slack
  rw [raises, State.bump_islandAt, only]
  exact ⟨_, rfl⟩

/-- The Pronath core's emergency changes its slack alone (R599; log entry 85). -/
theorem exec_slackEmergency_pronath {s : State} {i : IslandIx} {slack : Half} (short : slack.toInt < slackFloor i.val) (pronath : i.val = 1125) :
    exec (.slackEmergency i slack) s = .next (s.updIsland i.val (fun v => { v with slack := slack })) := by
  have below : ¬ slackFloor i.val ≤ slack.toInt := by omega
  exact (if_neg below).trans (if_pos pronath)

theorem State.retireIsland_does (s : State) (i : Nat) : ((s.retireIsland i).island i).retired = true ∧ ((s.retireIsland i).island i).step = 40 ∧
    (∀ n, n ≠ i → (s.retireIsland i).island n = s.island n) ∧ (s.retireIsland i).gaf.cntRetired = satAdd s.gaf.cntRetired 1 ∧
    (s.retireIsland i).flt.inFlight = s.flt.inFlight ++
      [⟨0x14, BitVec.ofNat 16 (subjIsland i), BitVec.ofNat 16 (subjIsland i), 0xFFFFFFFF, 0⟩] := by
  unfold State.retireIsland
  extract_lets v
  obtain ⟨isls, -, -, cnt, -, flt⟩ := State.ageLog_keeps
    ((v.updGaf (fun g => { g with cntRetired := satAdd g.cntRetired 1 })).report 0x14 (subjIsland i) (subjIsland i) 0xFFFFFFFF 0) 2
  have same : ∀ n, _ = v.island n := fun n => congrArg (fun t => Tab.at t n {}) isls
  have own : v.island i = { s.island i with step := BitVec.ofNat 8 ceilStep, retired := true } := State.updIsland_island_same _ _ _
  refine ⟨?_, ?_, fun n h => (same n).trans (State.updIsland_island_ne _ _ h), cnt, congrArg FaultUnit.inFlight flt⟩
  · rw [State.island, same, own]
  · rw [State.island, same, own]
    rfl

theorem exec_islandRetire {s : State} {i : IslandIx} (planned : i.val ≠ 1125) (serves : (s.island i.val).retired = false)
    (atCeil : ceilStep ≤ (s.island i.val).step.toNat) : exec (.islandRetire i) s = .next (s.retireIsland i.val) := by
  show execIslandRetire i s = _
  simp [execIslandRetire, planned, serves, atCeil]

/-- Settles O59: the loop over the levers by what it works with, the re-plan by induction on the islands. An emergency of island 1125 leaves
its step, and plans take the trials measured as their operand (log entry 85). -/
theorem gafferMoves : Obligations.GafferMoves := by
  intro j hbm inlet outlet hot i watts slack value trials s g least island
  refine ⟨?tick, ?sample, ?limit, ?trip, ?cap, ?rest⟩
  case tick =>
    refine ⟨_, exec_gafferLoopTick j hbm inlet outlet hot s, rfl, fun la la' lv lv' lh lh' => ?_, fun cool room above => ?_, fun trips => ?_⟩
    · exact s.ticked_leversOk j hbm inlet outlet hot.val ⟨la, la', lv, lv', lh, lh'⟩
    · exact s.ticked_lowersLa j hbm inlet outlet hot.val cool room above
    · exact s.ticked_least j hbm inlet outlet hot.val trips
  case sample =>
    by_cases high : 2100 < watts.toNat
    · by_cases third : s.gaf.ovr = 2
      · exact ⟨_, exec_powerSample_third high third, rfl, rfl, rfl, fun low => absurd low (by omega), fun _ _ => ⟨⟨rfl, rfl, rfl⟩, rfl, rfl⟩⟩
      · exact ⟨_, exec_powerSample_kept (if_pos high) (by omega), rfl, rfl, rfl, fun low => absurd low (by omega), fun _ is => absurd is third⟩
    · exact ⟨_, exec_powerSample_kept (if_neg high) (by omega), rfl, rfl, rfl, fun _ => ⟨rfl, rfl, rfl, rfl⟩, fun is => absurd is high⟩
  case limit => exact fun trips => ⟨_, exec_junctionTripLimit trips hot, ⟨rfl, rfl, rfl⟩, rfl, rfl, rfl⟩
  case trip =>
    intro t0 since first late
    obtain ⟨-, gaf, -, flt⟩ := s.haltAll_sameBase
    refine ⟨_, exec_thermalTrip since first late, rfl, congrArg Gaffer.junction gaf, rfl, ?_⟩
    have reports : s.haltAll.flt.base.inFlight = s.flt.base.inFlight := by rw [flt]
    exact congrArg (fun (l : List Report) => l ++ _) reports
  case cap => exact fun takes => ⟨_, if_pos takes, rfl, rfl⟩
  case rest =>
    intro planned
    have plans : ∀ x, exec x s = .next (s.replan trials) → planned x := fun x does => ⟨_, does, rfl, s.replan_does trials⟩
    refine ⟨fun good stage due => ?_, fun takes => ?_, fun short => ?_, fun met => if_pos met, fun regular serves atCeil => ?_⟩
    · have now : (!s.mod.good || decide (s.boot.stage < 4) || (decide (s.nowUs < s.gaf.planAt + planPeriod) && !s.gaf.planOwed)) = false := by
        rcases due with passed | owed
        · have passed : s.gaf.planAt + planPeriod ≤ s.nowUs := passed
          simp [good, stage, Nat.not_lt.mpr passed]
        · simp [good, stage, show s.gaf.planOwed = true from owed]
      have begins : exec (.replan trials) s = if s.tripOn then .next (s.updGaf (fun g => { g with planOwed := true })) else .next (s.replan trials) := by
        show execReplan trials s = _
        rw [execReplan, now]
        rfl
      exact ⟨fun on => ⟨_, begins.trans (if_pos on), rfl⟩, fun off => plans _ (begins.trans (if_neg (by simp [off])))⟩
    · have begins : exec (.replanNow trials) s = if s.tripOn then .next (s.updGaf (fun g => { g with planOwed := true, planAt := s.nowUs })) else
          .next (s.replan trials) := by
        show execReplanNow trials s = _
        simp [execReplanNow, takes]
      exact ⟨fun on => ⟨_, begins.trans (if_pos on), rfl⟩, fun off => plans _ (begins.trans (if_neg (by simp [off])))⟩
    · by_cases pronath : i.val = 1125
      · refine ⟨_, exec_slackEmergency_pronath short pronath, rfl, ?_, fun n h => State.updIsland_island_ne _ _ h,
          fun h => absurd pronath h, fun _ => ?_⟩ <;> rw [State.updIsland_island_same]
      · obtain ⟨p, does⟩ := exec_slackEmergency short pronath
        obtain ⟨slackIs, others, step, emerg, counted⟩ := s.strained_does i.val slack (t := { s with gaf := (s.strained i.val slack).gaf, perf := p }) rfl
        refine ⟨_, does, rfl, ?_⟩
        exact ⟨slackIs, others, fun _ => ⟨step, emerg, counted⟩, fun h => absurd h pronath⟩
    · exact ⟨_, exec_islandRetire regular serves atCeil, s.retireIsland_does i.val⟩

end Sys2Proof.Machine
end

section
/-! Mail slots (O52). -/

namespace Sys2Proof.Machine

/-- Bytes written and not yet read: those of the read words, then those of the word being filled. -/
def MailSlot.held (v : MailSlot) : List Byte := v.words.flatMap (fun w => w.data.take w.bytes) ++ v.part

/-- A read word holds the bytes it was made of, its unused ones behind them. -/
theorem take_slice_of_le {bs : List Byte} {n : Nat} (fits : bs.length ≤ n) : (slice bs 0 n).take bs.length = bs := by
  simp [slice, List.take_of_length_le fits]

/-- The words of a slot behind a push. -/
theorem MailSlot.push_does (v : MailSlot) {bs : List Byte} (fits : bs.length ≤ 64) (fin : Bool) :
    (v.push bs fin).held = v.words.flatMap (fun w => w.data.take w.bytes) ++ bs ∧ (v.push bs fin).part = [] ∧
    (v.push bs fin).words.getLast?.map MailWord.fin = some fin := by
  have kept := take_slice_of_le fits
  cases fin <;> simp [MailSlot.push, MailSlot.held, kept]

/-- A write word packed stands behind the bytes of its slot; END makes them readable, as a packet's last word (R439, R440). -/
theorem MailSlot.pack_does (v : MailSlot) {bs : List Byte} (short : bs.length ≤ 16) :
    (v.pack bs false).held = v.held ++ bs ∧
    ((v.pack bs true).part = [] ∧ (v.pack bs true).words.getLast?.map MailWord.fin = some true ∧
      (v.part.length < 64 → (v.pack bs true).held = v.held ++ bs)) ∧
    (∀ fin, v.part.length < 64 → (v.pack bs fin).part.length < 64) := by
  by_cases part : (v.part ++ bs).length < 64
  · have filling : ∀ fin, v.pack bs fin = if fin then v.push (v.part ++ bs) true else { v with part := v.part ++ bs } := fun fin => if_pos part
    obtain ⟨held, done, last⟩ := v.push_does (bs := v.part ++ bs) (by omega) true
    refine ⟨by simp [filling, MailSlot.held], ⟨by simp [filling, done], by simp [filling, last], fun _ => ?_⟩, fun fin _ => ?_⟩
    · rw [filling, if_pos rfl, held]
      simp [MailSlot.held]
    · rw [filling]
      cases fin
      · exact part
      · simp [done]
  · have full : ((v.part ++ bs).take 64).length ≤ 64 := by simp
    by_cases rest : (v.part ++ bs).drop 64 = []
    · have filled : ∀ fin, v.pack bs fin = v.push ((v.part ++ bs).take 64) fin := fun fin => (if_neg part).trans (if_pos rest)
      have whole : (v.part ++ bs).take 64 = v.part ++ bs := by
        have split := List.take_append_drop 64 (v.part ++ bs)
        rwa [rest, List.append_nil] at split
      have pushed := fun fin => v.push_does full fin
      simp only [whole] at pushed
      refine ⟨by rw [filled, whole, (pushed false).1, MailSlot.held, List.append_assoc],
        ⟨by rw [filled, whole, (pushed true).2.1], by rw [filled, whole, (pushed true).2.2], fun _ => ?_⟩, fun fin _ => ?_⟩
      · rw [filled, whole, (pushed true).1, MailSlot.held, List.append_assoc]
      · rw [filled, whole, (pushed fin).2.1]
        exact Nat.zero_lt_succ _
    · have filled : ∀ fin, v.pack bs fin = if fin then (v.push ((v.part ++ bs).take 64) false).push ((v.part ++ bs).drop 64) true
          else { v.push ((v.part ++ bs).take 64) false with part := (v.part ++ bs).drop 64 } := fun fin => (if_neg part).trans (if_neg rest)
      obtain ⟨held, done, -⟩ := v.push_does full false
      have words : (v.push ((v.part ++ bs).take 64) false).words.flatMap (fun w => w.data.take w.bytes) =
          v.words.flatMap (fun w => w.data.take w.bytes) ++ (v.part ++ bs).take 64 := by
        rw [← held, MailSlot.held, done, List.append_nil]
      have joined : (v.words.flatMap (fun w => w.data.take w.bytes) ++ (v.part ++ bs).take 64) ++ (v.part ++ bs).drop 64 = v.held ++ bs := by
        rw [List.append_assoc, List.take_append_drop, MailSlot.held, List.append_assoc]
      refine ⟨?_, ⟨?_, ?_, fun small => ?_⟩, fun fin small => ?_⟩
      · rw [filled, if_neg (by decide), MailSlot.held, words]
        exact joined
      · rw [filled, if_pos rfl]
        cases v.push _ false
        rfl
      · rw [filled, if_pos rfl]
        simp [MailSlot.push]
      · have fits : ((v.part ++ bs).drop 64).length ≤ 64 := by
          rw [List.length_drop, List.length_append]
          omega
        rw [filled, if_pos rfl, (MailSlot.push_does _ fits true).1, words, joined]
      · have fits : ((v.part ++ bs).drop 64).length < 64 := by
          rw [List.length_drop, List.length_append]
          omega
        rw [filled]
        cases fin
        · exact fits
        · rw [if_pos rfl, (MailSlot.push_does _ (Nat.le_of_lt fits) true).2.1]
          exact Nat.zero_lt_succ _

theorem State.mailSlot_setMail_ne (s : State) {m k : Nat} (v : MailSlot) (h : k ≠ m) : (s.setMail m v).mailSlot k = s.mailSlot k :=
  Tab.at_put_ne _ _ _ h

section
variable {s : State} (m : MailIx)

/-- A write word of 1 to 16 bytes at a slot with no frame packet under way. -/
theorem exec_mailSlotWrite (idle : (s.mailSlot m.val).feeds = []) {data : List Byte} (some_ : data ≠ []) (short : data.length ≤ 16) (fin : Bool) :
    exec (.mailSlotWrite m data fin) s = .next (s.setMail m.val ((s.mailSlot m.val).write data fin)) := by
  have fits : ¬ 16 < data.length := by omega
  show execMailSlotWrite m data fin s = _
  simp [execMailSlotWrite, idle, some_, fits]

theorem exec_mailSlotWrite_feeds {j : StreamJob} {rest : List StreamJob} (feeds : (s.mailSlot m.val).feeds = j :: rest) (data : List Byte)
    (fin : Bool) : exec (.mailSlotWrite m data fin) s = .next (s.feedWord m.val j) := by
  show execMailSlotWrite m data fin s = _
  rw [execMailSlotWrite, feeds]

theorem exec_mailSlotRead {w : MailWord} {rest : List MailWord} (words : (s.mailSlot m.val).words = w :: rest) : exec (.mailSlotRead m) s =
    .next ((s.setMail m.val { s.mailSlot m.val with words := rest, tag := w.tag, fired := false }).send (.mail (w.data ++ leBytes 8 w.tag.toNat))) := by
  show execMailSlotRead m s = _
  simp only [execMailSlotRead, State.mailRead, words]

theorem exec_mailSlotRead_empty (words : (s.mailSlot m.val).words = []) : exec (.mailSlotRead m) s =
    .next ((s.bump (.cluster (m.val / 4)) 0x136 1).send
      (.mail (leBytes 8 (s.mailSlot m.val).emptyTag.toNat ++ List.replicate 56 0))) := by
  show execMailSlotRead m s = _
  simp only [execMailSlotRead, State.mailRead, words]
  rfl

/-- The idle event of a slot left unread, counted for the stream whose packets it takes (R445, R472). -/
theorem exec_mailSlotIdle (words : (s.mailSlot m.val).words ≠ []) (timed : (s.mailSlot m.val).idleUs ≠ 0) (first : (s.mailSlot m.val).fired = false) :
    ∃ video, exec (.mailSlotIdle m) s =
      .next { ((s.setMail m.val { s.mailSlot m.val with idle := true, fired := true }).bump (.cluster (m.val / 4)) 0x137 1) with video := video } := by
  have due : ((s.mailSlot m.val).words.isEmpty || (s.mailSlot m.val).idleUs == 0 || (s.mailSlot m.val).fired) = false := by
    simp only [List.isEmpty_eq_false_iff.mpr words, beq_eq_false_iff_ne.mpr timed, first, Bool.or_self]
  show ∃ video, execMailSlotIdle m s = _
  unfold execMailSlotIdle
  extract_lets v u
  rw [if_neg (by simp only [v, due]; decide)]
  split
  · exact ⟨u.video, rfl⟩
  · exact ⟨_, rfl⟩

theorem exec_mailSlotIdle_fired (fired : (s.mailSlot m.val).fired = true) : exec (.mailSlotIdle m) s = .next s := by
  show execMailSlotIdle m s = _
  simp [execMailSlotIdle, fired]

end

/-- Settles O52: one equation for each command, the packing by how the write word fills the word under way. -/
theorem mailSlotsPack : Obligations.MailSlotsPack := by
  intro m data fin s v only held
  have own : ∀ (u : State) (w : MailSlot), u.dma = (s.setMail m.val w).dma → u = { s with dma := u.dma, perf := u.perf, out := u.out, video := u.video } →
      only u ∧ u.mailSlot m.val = w := by
    intro u w dma rest
    have slots : ∀ k, u.mailSlot k = (s.setMail m.val w).mailSlot k := fun k => congrArg (fun (d : Dma) => Tab.at d.mail k {}) dma
    exact ⟨⟨fun k h => (slots k).trans (State.mailSlot_setMail_ne s w h), rest⟩, (slots _).trans (State.mailSlot_setMail_same s _ w)⟩
  refine ⟨fun idle some_ short => ?write, fun j rest feeds => exec_mailSlotWrite_feeds m feeds data fin, fun w rest words => ?read,
    fun words => ?empty, fun words timed first => ?idle, exec_mailSlotIdle_fired m, fun takes => ?flush⟩
  case write =>
    obtain ⟨frame, slot⟩ := own (s.setMail m.val (v.write data fin)) (v.write data fin) rfl rfl
    refine ⟨_, exec_mailSlotWrite m idle some_ short fin, frame, fun room => ?_, fun none_ => ?_⟩
    · have packs : v.write data fin = v.pack data fin := if_neg (by omega)
      rw [slot, packs]
      obtain ⟨more, ends, part⟩ := v.pack_does short
      refine ⟨fun is => ?_, fun is => ?_, part fin⟩ <;> subst is
      · exact more
      · exact ends
    · have drops : v.write data fin = { v with overflow := true, loss := true, dropped := satAdd v.dropped data.length } := if_pos none_
      rw [slot, drops]
      exact ⟨rfl, rfl, rfl, rfl, rfl⟩
  case read =>
    refine ⟨_, exec_mailSlotRead m words, and_left_comm.mp ⟨rfl, ?_⟩⟩
    exact own _ { v with words := rest, tag := w.tag, fired := false } rfl rfl
  case empty => exact ⟨_, exec_mailSlotRead_empty m words, ⟨fun _ _ => rfl, rfl⟩, rfl, rfl⟩
  case idle =>
    obtain ⟨video, does⟩ := exec_mailSlotIdle m words timed first
    exact ⟨_, does, own _ { v with idle := true, fired := true } rfl rfl⟩
  case flush =>
    obtain ⟨frame, slot⟩ := own (s.flushMail m.val) v.flush rfl rfl
    refine ⟨_, if_pos takes, frame, ?_⟩
    rw [slot]
    exact ⟨rfl, rfl, rfl, rfl⟩

end Sys2Proof.Machine
end

section
/-! The base dies' own work (O50). -/

namespace Sys2Proof.Machine

/-! ### Repairs (R407, R408, R414) -/

/-- HBM_REPAIR_CTL written with GO names the row of its operand; its HARD bit is the request's. -/
theorem repairWord_soft (ctl : Nat) (v : Nat) (word : v = ctl % 2 ^ 30 + 2 ^ 31) :
    v % 256 = fld ctl 0 8 ∧ fld v 8 1 = fld ctl 8 1 ∧ fld v 9 21 = fld ctl 9 21 ∧ v.testBit 31 = true ∧ v.testBit 30 = false := by
  simp only [fld, Nat.shiftRight_eq_div_pow, Nat.testBit_eq_decide_div_mod_eq, decide_eq_true_eq, decide_eq_false_iff_not]
  omega

theorem repairWord_hard (ctl : Nat) (v : Nat) (word : v = ctl % 2 ^ 30 + 2 ^ 30 + 2 ^ 31) :
    v % 256 = fld ctl 0 8 ∧ fld v 8 1 = fld ctl 8 1 ∧ fld v 9 21 = fld ctl 9 21 ∧ v.testBit 31 = true ∧ v.testBit 30 = true := by
  simp only [fld, Nat.shiftRight_eq_div_pow, Nat.testBit_eq_decide_div_mod_eq, decide_eq_true_eq]
  omega

/-- The state with HBM_REPAIR_CTL's fields written. -/
def State.repWritten (s : State) (v : Nat) : State := s.updHbm (fun h => { h with
  repChan := BitVec.ofNat 8 v, repPc := v.testBit 8, repRow := BitVec.ofNat 21 (fld v 9 21), repHard := v.testBit 30 })

/-- A repair request written while no repair runs. -/
theorem State.repairCtl_go {s : State} (idle : s.hbm.repBusy = false) {v : Nat} (go : v.testBit 31 = true) {r : RowRemap}
    (row : (⟨v % 256, fld v 8 1, fld v 9 21⟩ : RowRemap) = r) : s.repairCtl v =
      if !s.hbm.rowValid r then (s.repWritten v).updHbm (fun h => { h with repResult := 3 })
      else if v.testBit 30 then (s.repWritten v).hardRequest r else (s.repWritten v).beginSoft r := by
  have begins : ¬ ((!v.testBit 31) = true ∨ (s.repWritten v).hbm.repBusy = true) := by simp [go, State.repWritten, State.updHbm, idle]
  subst row
  exact if_neg begins

section
variable {s : State} (takes : s.barTakes .endC = true) (idle : s.hbm.repBusy = false) (ctl : Word) {r : RowRemap}
  (row : r = ⟨fld ctl.toNat 0 8, fld ctl.toNat 8 1, fld ctl.toNat 9 21⟩)
include takes idle row

theorem exec_softRepair : ∃ u, exec (.softRepair ctl) s = .next (if !s.hbm.rowValid r then u.updHbm (fun h => { h with repResult := 3 }) else u.beginSoft r) ∧
    ∃ v, u = s.repWritten v := by
  obtain ⟨chan, pc, key, go, soft⟩ := repairWord_soft ctl.toNat _ rfl
  have begins : exec (.softRepair ctl) s = .next (s.repairCtl (ctl.toNat % 2 ^ 30 + 2 ^ 31)) := if_pos takes
  rw [begins, State.repairCtl_go idle go (r := r) (by rw [chan, pc, key, row]), soft]
  exact ⟨_, rfl, _, rfl⟩

theorem exec_hardRepairRequest : ∃ u, exec (.hardRepairRequest ctl) s =
    .next (if !s.hbm.rowValid r then u.updHbm (fun h => { h with repResult := 3 }) else u.hardRequest r) ∧ ∃ v, u = s.repWritten v := by
  obtain ⟨chan, pc, key, go, hard⟩ := repairWord_hard ctl.toNat _ rfl
  have begins : exec (.hardRepairRequest ctl) s = .next (s.repairCtl (ctl.toNat % 2 ^ 30 + 2 ^ 30 + 2 ^ 31)) := if_pos takes
  rw [begins, State.repairCtl_go idle go (r := r) (by rw [chan, pc, key, row]), hard]
  exact ⟨_, rfl, _, rfl⟩

end

/-- A repair the base die starts on its own leaves the entries and the record owed alone. -/
theorem State.autoSoft_keeps (s : State) (r : RowRemap) : ∃ busy target result queue, s.autoSoft r = { s with hbm := { s.hbm with
    repBusy := busy, repTarget := target, repResult := result, autoQ := queue } } := by
  unfold State.autoSoft
  split
  · exact ⟨_, _, _, _, rfl⟩
  split
  · exact ⟨_, _, _, _, rfl⟩
  split
  · exact ⟨_, _, _, _, rfl⟩
  unfold State.beginSoft
  split <;> exact ⟨_, _, _, _, rfl⟩

/-- The end of a soft repair, a repair that waited begun behind it. -/
theorem exec_softRepairComplete {s : State} {r : RowRemap} (runs : s.hbm.repTarget = some r) : ∃ busy target result queue,
    exec .softRepairComplete s = .next { s with hbm := { s.hbm with
      repBusy := busy, repTarget := target, repResult := result, autoQ := queue, remaps := s.hbm.remaps ++ [r], recOwed := true } } ∧
    (s.hbm.autoQ = [] → busy = false ∧ target = none ∧ result = 0) := by
  show ∃ busy target result queue, execSoftRepairComplete s = _ ∧ _
  rw [execSoftRepairComplete, runs]
  dsimp only
  generalize waiting : s.hbm.autoQ = l
  have waits : (s.updHbm (fun h => { h with
    repBusy := false, repTarget := none, repResult := 0, remaps := h.remaps ++ [r], recOwed := true })).hbm.autoQ = l := waiting
  cases l with
  | nil => exact ⟨_, _, _, _, by rw [waits]; rfl, fun _ => ⟨rfl, rfl, rfl⟩⟩
  | cons q rest =>
    obtain ⟨busy, target, result, queue, begun⟩ := State.autoSoft_keeps ((s.updHbm (fun h => { h with
      repBusy := false, repTarget := none, repResult := 0, remaps := h.remaps ++ [r], recOwed := true })).updHbm (fun h => { h with autoQ := rest })) q
    exact ⟨busy, target, result, queue, by rw [waits]; exact congrArg Host.Outcome.next begun, fun none_ => nomatch none_⟩

/-! ### Scrubbing (R403, R405, R406) -/

theorem mem_insNat (n : Nat) (l : List Nat) : n ∈ insNat n l := by
  induction l with
  | nil => exact List.mem_singleton_self n
  | cons k r ih =>
    unfold insNat
    split
    · exact List.mem_cons_self
    split
    next same => rw [same]; exact List.mem_cons_self
    · exact List.mem_cons_of_mem k ih

/-- The scrub's position moves on, and what HBM holds stays. -/
theorem State.scrubNext_does (s : State) : s.scrubNext.hbm.scrubPos = (if s.hbmBytes / 64 ≤ s.hbm.scrubPos + 1 then 0 else s.hbm.scrubPos + 1) ∧
    s.scrubNext.hbm.poison = s.hbm.poison ∧ s.scrubNext.hbm.bad = s.hbm.bad ∧ s.scrubNext.hbm.bytes = s.hbm.bytes := by
  unfold State.scrubNext
  split
  all_goals exact ⟨rfl, rfl, rfl, rfl⟩

/-- The scrub stands where it stood, over the same channels. -/
def ScrubAt (s t : State) : Prop := t.hbm.out = s.hbm.out ∧ t.hbm.scrubPos = s.hbm.scrubPos

theorem State.hbmTouched_scrubAt (s : State) (pa n : Nat) : ScrubAt s (s.hbmTouched pa n) := by
  obtain ⟨⟨chans, errLast, hbm⟩, -⟩ := s.hbmTouched_keeps pa n
  exact ⟨by rw [hbm], by rw [hbm]⟩

theorem State.scrubFixed_scrubAt (s : State) (b n : Nat) : ScrubAt s (s.scrubFixed b n) := by
  unfold State.scrubFixed
  extract_lets r k chan u v w
  have counted : ScrubAt s w := ⟨rfl, rfl⟩
  split
  · obtain ⟨busy, target, result, queue, begun⟩ := w.autoSoft_keeps r
    rw [begun]
    exact counted
  · exact counted

/-- A burst marked by the scrub stays marked when it is read. -/
theorem State.scrubBad_does (s : State) (b : Nat) (poison : Bool) : ScrubAt s (s.scrubBad b poison) ∧
    (poison = true → b ∈ (s.scrubBad b poison).hbm.poison) ∧ (poison = false → b ∈ (s.scrubBad b poison).hbm.bad) := by
  unfold State.scrubBad
  extract_lets u
  obtain ⟨⟨chans, errLast, hbm⟩, -⟩ := u.hbmTouched_keeps (64 * b) 64
  have place : ScrubAt s u := by cases poison <;> exact ⟨rfl, rfl⟩
  rw [ScrubAt, hbm]
  refine ⟨place, fun is => ?_, fun is => ?_⟩ <;> subst is <;> exact mem_insNat b _

/-- What a step of the scrub does before its position moves on: it marks what it cannot correct, and leaves a clean burst as it was
(log entry 92 says what a failing channel's bursts count as). -/
theorem exec_scrubStep {s : State} (trained : s.hbm.trained = true) (on : s.hbm.scrubHours ≠ 0) (errs : List (Fin 72 × Byte)) :
    ∃ u, exec (.scrubStep errs) s = .next u.scrubNext ∧ ScrubAt s u ∧
      (s.burstPoisoned s.hbm.scrubPos = false → burstDecode errs = .poisoned → s.hbm.scrubPos ∈ u.hbm.poison) ∧
      (s.burstPoisoned s.hbm.scrubPos = false → burstDecode errs = .detected → s.hbm.scrubPos ∈ u.hbm.bad) ∧
      (burstDecode errs = .clean → errs = [] → u.hbm.bytes = s.hbm.bytes) := by
  have runs : (!s.hbm.trained || s.hbm.scrubHours == 0) = false := by
    rw [trained, beq_eq_false_iff_ne.mpr on]
    rfl
  show ∃ u, execScrubStep errs s = _ ∧ _
  unfold execScrubStep
  rw [if_neg (ne_true_of_eq_false runs)]
  extract_lets b
  by_cases spoiled : s.burstPoisoned b = true
  · obtain ⟨⟨chans, errLast, hbm⟩, -⟩ := s.hbmTouched_keeps (64 * b) 64
    rw [if_pos spoiled]
    exact ⟨_, rfl, s.hbmTouched_scrubAt _ _, fun clean => absurd spoiled (by simp [b, clean]), fun clean => absurd spoiled (by simp [b, clean]),
      fun _ _ => by rw [hbm]⟩
  · have counted : ∀ (u : State) (wr : Bool), (u.countBurst b wr).hbm = u.hbm := fun u wr => (u.countBurst_swept b wr).hbm
    rw [if_neg spoiled]
    cases burstDecode errs with
    | clean =>
      refine ⟨_, rfl, ?_, fun _ is => (nomatch is), fun _ is => (nomatch is), fun _ none_ => ?_⟩
      · exact ⟨congrArg (fun h => h.out) (counted s false), congrArg (fun h => h.scrubPos) (counted s false)⟩
      · subst none_
        exact congrArg (fun h => h.bytes) (counted s false)
    | poisoned =>
      obtain ⟨place, marked, -⟩ := s.scrubBad_does b true
      exact ⟨_, rfl, place, fun _ _ => marked rfl, fun _ is => (nomatch is), fun is => (nomatch is)⟩
    | detected =>
      obtain ⟨place, -, marked⟩ := s.scrubBad_does b false
      exact ⟨_, rfl, place, fun _ is => (nomatch is), fun _ _ => marked rfl, fun is => (nomatch is)⟩
    | corrected fix =>
      refine ⟨_, rfl, ?_, fun _ is => (nomatch is), fun _ is => (nomatch is), fun is => (nomatch is)⟩
      obtain ⟨out, pos⟩ := State.scrubFixed_scrubAt (((s.countBurst b false).flipBurst b
        (errs.map (fun e => (e.1.val, e.2.toNat)) ++ fix.map (fun q => (71 - q.1, q.2)))).countBurst b true) b fix.length
      rw [counted] at out pos
      exact ⟨out.trans (congrArg (fun h => h.out) (counted s false)), pos.trans (congrArg (fun h => h.scrubPos) (counted s false))⟩

/-! ### Failed channels and the repair record (R401, R659) -/

theorem exec_channelFailed {s : State} {c : ChannelIx} {lost : Bool} (trained : s.hbm.trained = true) (works : (s.chan c.val).failed = false)
    (used : s.hbm.out.contains c.val = false)
    (fails : lost = true ∨ (s.chan c.val).recent.length = 16 ∧ s.nowUs ≤ (s.chan c.val).recent.getLastD 0 + 1000000) :
    exec (.channelFailed c lost) s = .next (((s.setChan c.val { s.chan c.val with failed := true }).updHbm (fun h => { h with recOwed := true })).report
      0x16 (subjChan c.val) (subjChan c.val) 0xFFFFFFFF 0) := by
  have due : (!(lost || ((s.chan c.val).recent.length == 16 && decide (s.nowUs ≤ (s.chan c.val).recent.getLastD 0 + 1000000)))) = false := by
    rcases fails with lost | ⟨many, recent⟩
    · simp [lost]
    · rw [many, decide_eq_true recent]
      simp
  refine if_neg ?_
  rw [trained, works, used, due]
  decide

/-- Settles O50: one lemma for each command; the bursts marked are those the decoder of log entry 92 answers for. -/
theorem hbmMaintained : Obligations.HbmMaintained := by
  intro c pc lost ctl errs s
  refine ⟨fun trained used => ?refresh, ?drain, ?repair, fun r runs => ?complete, fun trained on => ?scrub, fun trained works used fails => ?failed,
    fun owed => ?record, fun clear => if_pos (by rw [clear]; rfl)⟩
  case refresh => exact if_neg (by rw [trained, used]; decide)
  case drain => exact ⟨_, rfl, Tab.find_del_same _ _, fun k h => Tab.find_del_ne _ h, rfl⟩
  case repair =>
    intro r takes idle
    obtain ⟨u, soft, v, begun⟩ := exec_softRepair takes idle ctl (r := r) rfl
    obtain ⟨u', hard, v', begun'⟩ := exec_hardRepairRequest takes idle ctl (r := r) rfl
    subst begun begun'
    refine ⟨fun invalid => ?_, fun invalid => ?_, fun valid => ?_, fun valid => ?_⟩
    · rw [soft, invalid]
      exact ⟨_, rfl, rfl, idle, rfl⟩
    · rw [hard, invalid]
      exact ⟨_, rfl, rfl, rfl, rfl⟩
    · rw [soft, valid]
      by_cases full : 32 ≤ s.hbm.softUsed r.chan r.pc
      · have refused : (s.repWritten v).beginSoft r = (s.repWritten v).updHbm (fun h => { h with repResult := 2 }) := if_pos full
        exact ⟨_, congrArg Host.Outcome.next refused, rfl, fun _ => ⟨rfl, idle⟩, fun room => absurd full (by omega)⟩
      · have begins : (s.repWritten v).beginSoft r = (s.repWritten v).updHbm (fun h => { h with repBusy := true, repTarget := some r }) := if_neg full
        exact ⟨_, congrArg Host.Outcome.next begins, rfl, fun is => absurd is full, fun _ => ⟨rfl, rfl⟩⟩
    · rw [hard, valid]
      by_cases full : 32 ≤ (s.hbm.hardReq.filter (fun q => q.chan == r.chan)).length ∨
        2 ≤ ((s.hbm.blown ++ s.hbm.hardReq).filter (fun q => q.bank == r.bank)).length
      · have refused : (s.repWritten v').hardRequest r = (s.repWritten v').updHbm (fun h => { h with repResult := 2 }) := if_pos full
        exact ⟨_, congrArg Host.Outcome.next refused, rfl, fun _ => ⟨rfl, rfl⟩, fun room => absurd full room⟩
      · have enters : (s.repWritten v').hardRequest r =
            (s.repWritten v').updHbm (fun h => { h with hardReq := h.hardReq ++ [r], repResult := 1, recOwed := true }) := if_neg full
        exact ⟨_, congrArg Host.Outcome.next enters, rfl, fun is => absurd is full, fun _ => ⟨rfl, rfl, rfl⟩⟩
  case complete =>
    obtain ⟨busy, target, result, queue, does, none_⟩ := exec_softRepairComplete runs
    exact ⟨_, does, rfl, rfl, none_, rfl⟩
  case scrub =>
    obtain ⟨u, does, ⟨out, pos⟩, poison, bad, bytes⟩ := exec_scrubStep trained on errs
    obtain ⟨moved, poison', bad', bytes'⟩ := u.scrubNext_does
    refine ⟨_, does, ?_, fun clean is => ?_, fun clean is => ?_, fun is none_ => bytes'.trans (bytes is none_)⟩
    · rw [moved, State.hbmBytes, out, pos]
      rfl
    · rw [poison']
      exact poison clean is
    · rw [bad']
      exact bad clean is
  case failed =>
    exact ⟨_, exec_channelFailed trained works used fails, Tab.at_put_same _ _ _ _, rfl, fun k h => Tab.at_put_ne _ _ _ h, rfl⟩
  case record => exact ⟨_, if_neg (by rw [owed]; decide), rfl, rfl⟩

end Sys2Proof.Machine
end

section
/-! Fabric ports (O55). -/

namespace Sys2Proof.Machine

/-! ### What sending frames does to the ports (R525, R528) -/

@[simp] theorem State.port_setPort_same (s : State) (p : Nat) (v : FabPort) : (s.setPort p v).port p = v := Tab.at_put_same _ _ _ _

theorem State.port_setPort_ne (s : State) {p q : Nat} (v : FabPort) (h : q ≠ p) : (s.setPort p v).port q = s.port q := Tab.at_put_ne _ _ _ h

theorem State.port_of_ports {s t : State} (same : t.fab.ports = s.fab.ports) (q : Nat) : t.port q = s.port q := by
  rw [State.port, same, State.port]

theorem State.port_of_fab {s t : State} (same : t.fab = s.fab) : ∀ q, t.port q = s.port q := State.port_of_ports (by rw [same])

/-- A port after frames were put on it: its credits, queues and replay buffer alone differ, and a port that takes no frames sent none. -/
def FabPort.SendsTo (v w : FabPort) : Prop :=
  (∃ credits txq txSeq sent, w = { v with credits := credits, txq := txq, txSeq := txSeq, sent := sent }) ∧ (v.state.takes = false → w.sent = v.sent)

theorem FabPort.SendsTo.refl (v : FabPort) : v.SendsTo v := ⟨⟨_, _, _, _, rfl⟩, fun _ => rfl⟩

theorem FabPort.SendsTo.trans {u v w : FabPort} (h : u.SendsTo v) (g : v.SendsTo w) : u.SendsTo w := by
  obtain ⟨⟨credits, txq, txSeq, sent, same⟩, held⟩ := h
  obtain ⟨⟨credits', txq', txSeq', sent', same'⟩, held'⟩ := g
  subst same
  subst same'
  exact ⟨⟨_, _, _, _, rfl⟩, fun off => (held' off).trans (held off)⟩

/-- A port that takes no frames sends none. -/
theorem FabPort.not_carries {v : FabPort} (off : v.state.takes = false) (type : Nat) : v.carries type = false := by
  unfold PortState.takes at off
  simp only [Bool.or_eq_false_iff] at off
  obtain ⟨⟨⟨up, foreign⟩, quarantined⟩, conflict⟩ := off
  simp [FabPort.carries, up, foreign, quarantined, conflict]

theorem FabPort.flitsOut_does (n : Nat) (v : FabPort) : ∃ txSeq sent, v.flitsOut n = { v with txSeq := txSeq, sent := sent } := by
  induction n generalizing v with
  | zero => exact ⟨_, _, rfl⟩
  | succ n ih =>
    obtain ⟨txSeq, sent, same⟩ := ih { v with sent := v.sent ++ [⟨v.txSeq, false⟩], txSeq := v.txSeq + 1 }
    exact ⟨txSeq, sent, same⟩

/-- The frames of a VC sent are the first of its queue, the others stay. -/
theorem drainVc_does (v : FabPort) (vc : Nat) (l : List Frame) : (drainVc v vc l).2.2 ++ (drainVc v vc l).2.1 = l ∧
    (∃ credits txSeq sent, (drainVc v vc l).1 = { v with credits := credits, txSeq := txSeq, sent := sent }) ∧
    (v.state.takes = false → (drainVc v vc l).1 = v) := by
  induction l generalizing v with
  | nil => exact ⟨rfl, ⟨_, _, _, rfl⟩, fun _ => rfl⟩
  | cons f rest ih =>
    unfold drainVc
    extract_lets have_ w
    split
    next sends =>
      obtain ⟨txSeq, sent, flits⟩ := FabPort.flitsOut_does f.flits { v with credits := v.credits.set vc (have_ - f.flits) }
      obtain ⟨order, ⟨credits', txSeq', sent', same⟩, -⟩ := ih w
      refine ⟨congrArg (f :: ·) order, ⟨credits', txSeq', sent', same.trans ?_⟩, fun off => ?_⟩
      · rw [show w = _ from flits]
      · rw [FabPort.not_carries off] at sends
        exact absurd sends.2.2 Bool.false_ne_true
    next => exact ⟨rfl, ⟨_, _, _, rfl⟩, fun _ => rfl⟩

/-- The frames of one VC sent from a port. -/
def State.drainStep (p : Nat) (s : State) (vc : Nat) : State :=
  let r := drainVc (s.port p) vc (nth (s.port p).txq vc [])
  (r.2.2.foldl (fun s f => s.send (f.out p)) (s.setPort p { r.1 with txq := r.1.txq.set vc r.2.1 })).bump .io 0x150
    (r.2.2.foldl (fun a f => a + f.flits) 0)

theorem State.drainPort_eq (s : State) (p : Nat) : s.drainPort p = [2, 1, 0].foldl (State.drainStep p) s := rfl

/-- Frames sent out of a port leave everything but the record of what left alone. -/
theorem State.foldl_send (s : State) (g : Frame → Out) (l : List Frame) :
    l.foldl (fun s f => s.send (g f)) s = { s with out := s.out ++ l.map g } := by
  induction l generalizing s with
  | nil => simp
  | cons f rest ih =>
    rw [List.foldl_cons, ih, List.map_cons]
    simp [State.send]

/-- What the step of one VC changes. -/
theorem State.drainStep_fab (p : Nat) (s : State) (vc : Nat) : (State.drainStep p s vc).fab = (s.setPort p
    { (drainVc (s.port p) vc (nth (s.port p).txq vc [])).1 with
      txq := (drainVc (s.port p) vc (nth (s.port p).txq vc [])).1.txq.set vc (drainVc (s.port p) vc (nth (s.port p).txq vc [])).2.1 }).fab := by
  unfold State.drainStep
  extract_lets r
  rw [State.bump_fab, State.foldl_send]

theorem State.drainStep_out (p : Nat) (s : State) (vc : Nat) :
    (State.drainStep p s vc).out = s.out ++ (drainVc (s.port p) vc (nth (s.port p).txq vc [])).2.2.map (·.out p) := by
  unfold State.drainStep
  extract_lets r
  rw [State.bump_out, State.foldl_send]
  rfl

theorem State.drainStep_port_same (p : Nat) (s : State) (vc : Nat) : (State.drainStep p s vc).port p =
    { (drainVc (s.port p) vc (nth (s.port p).txq vc [])).1 with
      txq := (drainVc (s.port p) vc (nth (s.port p).txq vc [])).1.txq.set vc (drainVc (s.port p) vc (nth (s.port p).txq vc [])).2.1 } :=
  (State.port_of_fab (State.drainStep_fab p s vc) p).trans (State.port_setPort_same s p _)

theorem State.drainStep_port_ne (p : Nat) (s : State) (vc : Nat) {q : Nat} (h : q ≠ p) : (State.drainStep p s vc).port q = s.port q :=
  (State.port_of_fab (State.drainStep_fab p s vc) q).trans (State.port_setPort_ne s _ h)

theorem State.drainStep_sendsTo (p : Nat) (s : State) (vc : Nat) : (s.port p).SendsTo ((State.drainStep p s vc).port p) := by
  obtain ⟨-, ⟨credits, txSeq, sent, same⟩, off⟩ := drainVc_does (s.port p) vc (nth (s.port p).txq vc [])
  have kept : (s.port p).state.takes = false → (drainVc (s.port p) vc (nth (s.port p).txq vc [])).1.sent = (s.port p).sent := fun held => by
    rw [off held]
  rw [State.drainStep_port_same]
  exact ⟨⟨_, _, _, _, by rw [same]⟩, kept⟩

/-- Frames sent as far as the ports let them: the ports differ by what sending changes, the present table and the fabric's state not. -/
structure Sends (s t : State) : Prop where
  ports : ∀ q, (s.port q).SendsTo (t.port q)
  cur : t.fab.cur = s.fab.cur
  state : t.fab.state = s.fab.state

theorem Sends.refl (s : State) : Sends s s := ⟨fun _ => .refl _, rfl, rfl⟩

theorem Sends.trans {s t u : State} (h : Sends s t) (g : Sends t u) : Sends s u :=
  ⟨fun q => (h.ports q).trans (g.ports q), g.cur.trans h.cur, g.state.trans h.state⟩

/-- Where the ports, the table and the state are the same. -/
theorem Sends.of_same {s t : State} (ports : t.fab.ports = s.fab.ports) (cur : t.fab.cur = s.fab.cur) (state : t.fab.state = s.fab.state) :
    Sends s t := by
  refine ⟨fun q => ?_, cur, state⟩
  rw [State.port_of_ports ports]
  exact .refl _

theorem Sends.foldl {α : Type} {f : State → α → State} (each : ∀ s x, Sends s (f s x)) (l : List α) (s : State) : Sends s (l.foldl f s) :=
  List.foldlRecOn (motive := fun (t : State) => Sends s t) l f (.refl s) (fun t h x _ => h.trans (each t x))

theorem State.drainStep_sends (p : Nat) (s : State) (vc : Nat) : Sends s (State.drainStep p s vc) := by
  have fab := State.drainStep_fab p s vc
  refine ⟨fun q => ?_, congrArg (fun f => f.cur) fab, congrArg (fun f => f.state) fab⟩
  by_cases h : q = p
  · subst h
    exact State.drainStep_sendsTo q s vc
  · rw [State.drainStep_port_ne p s vc h]
    exact .refl _

theorem State.drainPort_sends (s : State) (p : Nat) : Sends s (s.drainPort p) := Sends.foldl (State.drainStep_sends p) _ s

/-- A port whose queues change. -/
theorem State.setPort_txq_sends (s : State) (p : Nat) (txq : List (List Frame)) : Sends s (s.setPort p { s.port p with txq := txq }) := by
  refine ⟨fun q => ?_, rfl, rfl⟩
  by_cases h : q = p
  · subst h
    rw [State.port_setPort_same]
    exact ⟨⟨_, _, _, _, rfl⟩, fun _ => rfl⟩
  · rw [State.port_setPort_ne _ _ h]
    exact .refl _

theorem State.sendOn_sends (s : State) (p : Nat) (f : Frame) : Sends s (s.sendOn p f) := (s.setPort_txq_sends p _).trans (State.drainPort_sends _ p)

theorem State.sendFrame_sends (s : State) (f : Frame) : Sends s (s.sendFrame f) := by
  unfold State.sendFrame State.route?
  cases ((s.fab.tableFor f.epar).route s.fab.id.toNat f.dst).pick f.src f.dst f.flow with
  | none => rw [Option.map_none, Option.getD_none]; exact .refl s
  | some p => rw [Option.map_some, Option.getD_some]; exact s.sendOn_sends p f

theorem State.sendVector_fab (s : State) (v : Nat) : (s.sendVector v).fab = s.fab := by
  unfold State.sendVector
  extract_lets e
  split <;> rfl

theorem State.logEntry_fab (s : State) (r : Report) (fenced forwarded fatal : Bool) (fepoch : Word) :
    (s.logEntry r fenced forwarded fatal fepoch).fab = s.fab := by
  unfold State.logEntry
  extract_lets f e u
  split
  · exact u.sendVector_fab _
  · rfl

theorem State.tallyFault_sends (s : State) (key : FaultKey) (src : Nat) : Sends s (s.tallyFault key src) := by
  unfold State.tallyFault
  split
  · exact .of_same rfl rfl rfl
  · extract_lets u
    have logged := u.logEntry_fab ⟨key.cls, key.subject.setWidth 16, key.subject.setWidth 16, 0xFFFFFFFF, 0⟩ false false false key.epoch
    exact .of_same (congrArg (fun f => f.ports) logged) (congrArg (fun f => f.cur) logged) (congrArg (fun f => f.state) logged)

theorem State.coalesce_sends (s : State) (key : FaultKey) (src hops : Nat) : Sends s (s.coalesce key src hops) := by
  unfold State.coalesce
  split
  · exact .of_same rfl rfl rfl
  · extract_lets u
    have opened : Sends s u := by
      unfold u
      split <;> exact .of_same rfl rfl rfl
    exact opened.trans (u.sendFrame_sends _)

theorem State.sendFault_sends (s : State) (subject cls : Nat) : Sends s (s.sendFault subject cls) := by
  unfold State.sendFault
  extract_lets key
  split
  · exact .refl s
  split
  · exact s.tallyFault_sends key _
  · exact s.coalesce_sends key _ _

theorem State.noteLink_sends (s : State) (l : LinkData) : Sends s (s.noteLink l) := by
  unfold State.noteLink
  extract_lets held f devs k
  split
  · exact s.sendFault_sends _ _
  split
  · exact .refl s
  · exact .of_same rfl rfl rfl

theorem State.passReport_sends (s : State) (l : LinkData) (src : Nat) : Sends s (s.passReport l src) := by
  unfold State.passReport
  extract_lets fr
  split
  · exact s.sendFrame_sends fr
  split
  · exact s.sendOn_sends _ fr
  · exact .refl s

theorem State.linkReport_sends (s : State) (p : Nat) : Sends s (s.linkReport p) := by
  unfold State.linkReport
  split
  · exact s.noteLink_sends _
  split
  · exact s.passReport_sends _ _
  · exact .refl s

theorem State.requeue_sends (s : State) (p : Nat) : Sends s (s.requeue p) :=
  (s.setPort_txq_sends p _).trans (Sends.foldl State.sendFrame_sends _ _)

/-! ### Ports out of service (R525, R538, R545) -/

/-- A port removed from the table leaves it; the ports differ by what the reports sent change. -/
theorem State.removePort_does (s : State) (p : Nat) (known : Option Nat) :
    (∀ q, (s.port q).SendsTo ((s.removePort p known).port q)) ∧ (s.removePort p known).fab.cur = s.fab.cur.without p := by
  unfold State.removePort
  extract_lets lost u v w
  have sends : Sends u w := ((u.requeue_sends p).trans (State.linkReport_sends _ p)).trans
    (Sends.foldl (fun t d => t.sendFault_sends d 0x03) _ v)
  split <;> exact ⟨sends.ports, sends.cur⟩

/-- A port taken out of service. -/
theorem State.dropPort_port (s : State) (p : Nat) (st : PortState) : (s.dropPort p st).port p = { s.port p with
    state := st, sent := [], resends := 0, askAgain := false, credits := [0, 0, 0], owe := [0, 0, 0]
    pvalid := false, puid := none, pquar := false, pid := 0, ppart := 0 } := State.port_setPort_same _ _ _

/-- A port taken out of service and out of the table: what stands in it afterwards. -/
theorem State.dropped_does (s : State) (p : Nat) {st : PortState} (off : st.takes = false) (known : Option Nat) :
    let t := (s.dropPort p st).removePort p known
    (t.port p).state = st ∧ (t.port p).sent = [] ∧ (t.port p).disable = (s.port p).disable ∧ (t.port p).present = (s.port p).present ∧
    t.fab.cur = s.fab.cur.without p := by
  intro t
  obtain ⟨ports, cur⟩ := (s.dropPort p st).removePort_does p known
  obtain ⟨⟨credits, txq, txSeq, sent, same⟩, held⟩ := ports p
  rw [State.dropPort_port] at same held
  have now : t.port p = _ := same
  refine ⟨by rw [now], held off, by rw [now], by rw [now], cur⟩

theorem State.portDown_does (s : State) (p : Nat) : ((s.portDown p).port p).state = .down ∧ ((s.portDown p).port p).sent = [] ∧
    ((s.portDown p).port p).disable = (s.port p).disable ∧ ((s.portDown p).port p).present = (s.port p).present ∧
    (s.portDown p).fab.cur = s.fab.cur.without p := by
  unfold State.portDown
  extract_lets v up t
  obtain ⟨state, sent, disable, present, cur⟩ := s.dropped_does p (st := .down) rfl v.partner
  split
  next d _ =>
    obtain ⟨ports, cur', -⟩ := t.sendFault_sends d 0x01
    obtain ⟨⟨credits, txq, txSeq, sent', same⟩, held⟩ := ports p
    have off : (t.port p).state.takes = false := congrArg PortState.takes state
    exact ⟨by rw [same]; exact state, (held off).trans sent, by rw [same]; exact disable, by rw [same]; exact present, cur'.trans cur⟩
  next => exact ⟨state, sent, disable, present, cur⟩

theorem State.endStageD_fab (s : State) : s.endStageD.fab = s.fab := by
  unfold State.endStageD
  split <;> rfl

/-- The end of training leaves the ports alone. -/
theorem State.trainingDone_ports (s : State) : s.trainingDone.fab.ports = s.fab.ports := by
  unfold State.trainingDone
  split
  · rfl
  split
  · rfl
  · unfold State.fabricOfOne
    rw [State.endStageD_fab]
    rfl

theorem State.trainingDone_port (s : State) (p : Nat) : s.trainingDone.port p = s.port p := by
  exact State.port_of_ports s.trainingDone_ports p

/-! ### What sending leaves alone -/

/-- Only the fabric unit, the record of what left and the counters differ. -/
def FabOnly (s t : State) : Prop := ∃ fab out perf, t = { s with fab := fab, out := out, perf := perf }

theorem FabOnly.refl (s : State) : FabOnly s s := ⟨_, _, _, rfl⟩

theorem FabOnly.trans {s t u : State} (h : FabOnly s t) (g : FabOnly t u) : FabOnly s u := by
  obtain ⟨fab, out, perf, same⟩ := h
  obtain ⟨fab', out', perf', same'⟩ := g
  subst same
  exact ⟨fab', out', perf', same'⟩

theorem FabOnly.eq {s t : State} (h : FabOnly s t) : t = { s with fab := t.fab, out := t.out, perf := t.perf } := by
  obtain ⟨fab, out, perf, same⟩ := h
  subst same
  rfl

theorem State.setPort_fabOnly (s : State) (p : Nat) (v : FabPort) : FabOnly s (s.setPort p v) := ⟨_, _, _, rfl⟩

theorem State.drainStep_fabOnly (p : Nat) (s : State) (vc : Nat) : FabOnly s (State.drainStep p s vc) := by
  unfold State.drainStep
  extract_lets r
  rw [State.foldl_send]
  exact ⟨_, _, _, rfl⟩

theorem State.drainPort_fabOnly (s : State) (p : Nat) : FabOnly s (s.drainPort p) :=
  List.foldlRecOn (motive := fun (t : State) => FabOnly s t) _ _ (.refl s) (fun t h vc _ => h.trans (t.drainStep_fabOnly p vc))

theorem State.sendOn_fabOnly (s : State) (p : Nat) (f : Frame) : FabOnly s (s.sendOn p f) :=
  (s.setPort_fabOnly p _).trans (State.drainPort_fabOnly _ p)

theorem State.drainPort_port_ne (s : State) {p q : Nat} (h : q ≠ p) : (s.drainPort p).port q = s.port q :=
  List.foldlRecOn (motive := fun (t : State) => t.port q = s.port q) _ _ rfl (fun t same vc _ => (t.drainStep_port_ne p vc h).trans same)

theorem State.sendOn_port_ne (s : State) {p q : Nat} (f : Frame) (h : q ≠ p) : (s.sendOn p f).port q = s.port q :=
  (State.drainPort_port_ne _ h).trans (s.port_setPort_ne _ h)

/-- A port with nothing queued sends nothing. -/
theorem State.drainPort_empty (s : State) {p : Nat} (empty : (s.port p).txq = [[], [], []]) (q : Nat) : (s.drainPort p).port q = s.port q := by
  have still : ∀ (t : State) (vc : Nat), vc < 3 → t.port p = s.port p → (State.drainStep p t vc).port p = s.port p := by
    intro t vc low same
    have none_ : nth (t.port p).txq vc [] = [] := by
      rw [same, empty]
      interval_cases vc <;> rfl
    have kept : (s.port p).txq.set vc [] = (s.port p).txq := by
      rw [empty]
      interval_cases vc <;> rfl
    rw [State.drainStep_port_same, none_, same]
    exact congrArg (fun l => { s.port p with txq := l }) kept
  by_cases h : q = p
  · subst h
    rw [State.drainPort_eq, List.foldl_cons, List.foldl_cons, List.foldl_cons, List.foldl_nil]
    exact still _ 0 (by omega) (still _ 1 (by omega) (still s 2 (by omega) rfl))
  · exact s.drainPort_port_ne h

/-! ### Frames on their way (R528) -/

theorem nth_set {α : Type} (l : List α) (i j : Nat) (x d : α) : nth (l.set i x) j d = if i = j ∧ j < l.length then x else nth l j d := by
  unfold nth
  rw [List.getElem?_set]
  by_cases same : i = j
  · by_cases within : j < l.length
    · simp [same, within]
    · simp [same, within]
  · simp [same]

/-- A frame on its way stays on it while a port's queues drain. -/
theorem State.drainStep_onWay (p : Nat) (s : State) (vc : Nat) {q : Nat} {f : Frame} (h : s.onWay q f) : (State.drainStep p s vc).onWay q f := by
  rcases h with left | waits
  · left
    rw [State.drainStep_out]
    exact List.mem_append_left _ left
  by_cases own : q = p
  · subst own
    obtain ⟨order, ⟨credits, txSeq, sent, same⟩, -⟩ := drainVc_does (s.port q) vc (nth (s.port q).txq vc [])
    have queues : (drainVc (s.port q) vc (nth (s.port q).txq vc [])).1.txq = (s.port q).txq := by rw [same]
    rw [State.onWay, State.drainStep_out, State.drainStep_port_same]
    dsimp only
    rw [queues, nth_set]
    split
    next same =>
      rw [← same.1, ← order, List.mem_append] at waits
      exact waits.imp (fun goes => List.mem_append_right _ (List.mem_map_of_mem goes)) id
    next => exact .inr waits
  · right
    rw [State.drainStep_port_ne p s vc own]
    exact waits

theorem State.drainPort_onWay (s : State) (p : Nat) {q : Nat} {f : Frame} (h : s.onWay q f) : (s.drainPort p).onWay q f :=
  List.foldlRecOn (motive := fun (t : State) => t.onWay q f) _ _ h (fun t way vc _ => t.drainStep_onWay p vc way)

/-- A frame on its way stays on it when another is put on a port. -/
theorem State.sendOn_onWay (s : State) (p : Nat) (g : Frame) {q : Nat} {f : Frame} (h : s.onWay q f) : (s.sendOn p g).onWay q f := by
  refine State.drainPort_onWay _ p ?_
  refine h.imp id (fun waits => ?_)
  by_cases own : q = p
  · subst own
    rw [State.port_setPort_same]
    dsimp only
    rw [nth_set]
    split
    next same => rw [same.1]; exact List.mem_append_left _ waits
    next => exact waits
  · rw [State.port_setPort_ne _ _ own]
    exact waits

/-- A frame put on a port with a queue for its VC is on its way. -/
theorem State.sendOn_onWay_own (s : State) (p : Nat) (f : Frame) (queue : f.vc < (s.port p).txq.length) : (s.sendOn p f).onWay p f := by
  refine State.drainPort_onWay _ p (.inr ?_)
  rw [State.port_setPort_same]
  dsimp only
  rw [nth_set, if_pos ⟨rfl, queue⟩]
  exact List.mem_append_right _ (List.mem_singleton_self f)

/-! ### HELLO (R529) -/

/-- The HELLO of a port. -/
def State.helloFrame (s : State) (p : Nat) : Frame :=
  { type := 0x10, vc := 2, epar := s.fab.parity, dst := (s.port p).pid.toNat, src := s.fab.id.toNat, tag := 0, hops := 15
    payload := slice (leBytes 16 s.uid.toNat ++ leBytes 1 p ++ leBytes 1 s.role ++ leBytes 8 (s.sheet 152 8) ++
      leBytes 2 s.fab.id.toNat ++ leBytes 1 (b2n s.fab.assigned) ++ leBytes 1 (s.port p).state.code ++
      leBytes 4 s.fab.epoch.toNat ++ (match s.fab.lowest with | some u => leBytes 16 u.toNat | none => List.replicate 16 255)) 0 64 }

theorem exec_helloTimer (s : State) : exec .helloTimer s =
    .next (((List.range 20).filter (fun p => (s.port p).state.takes)).foldl (fun s p => s.sendOn p (s.helloFrame p)) s) := rfl

/-- The first bytes of a record are the first bytes of its first field. -/
theorem slice_slice_append {x : List Byte} {n m : Nat} (exact_ : x.length = n) (fits : n ≤ m) (y : List Byte) : slice (slice (x ++ y) 0 m) 0 n = x := by
  subst exact_
  have first : slice (x ++ y) 0 m = x ++ (y.take (m - x.length) ++ List.replicate (m - ((x ++ y).take m).length) 0) := by
    rw [slice, List.drop_zero, List.take_append, List.take_of_length_le fits, List.append_assoc]
  have middle := slice_middle [] x (y.take (m - x.length) ++ List.replicate (m - ((x ++ y).take m).length) 0)
  rw [first]
  exact middle

/-- A HELLO carries the UID and the port (log entry 42's layout). -/
theorem State.helloFrame_head (s : State) (p : Nat) : slice (s.helloFrame p).payload 0 17 = leBytes 16 s.uid.toNat ++ leBytes 1 p := by
  unfold State.helloFrame
  simp only [List.append_assoc]
  rw [← List.append_assoc]
  exact slice_slice_append (by simp) (by decide) _

/-- HELLOs put on some ports: each is on its way, and the other ports stay. -/
theorem State.hellos_do (ps : List Nat) (once : ps.Nodup) (s : State) {t : State}
    (does : ps.foldl (fun s p => s.sendOn p (s.helloFrame p)) s = t) : FabOnly s t ∧ t.fab.state = s.fab.state ∧ (∀ q, q ∉ ps → t.port q = s.port q) ∧ (∀ q f, s.onWay q f → t.onWay q f) ∧
    ∀ q, q ∈ ps → (s.port q).txq.length = 3 → ∃ fr, t.onWay q fr ∧ fr.type = 0x10 ∧ fr.vc = 2 ∧
      slice fr.payload 0 17 = leBytes 16 s.uid.toNat ++ leBytes 1 q := by
  induction ps generalizing s with
  | nil =>
    subst does
    exact ⟨.refl s, rfl, fun _ _ => rfl, fun _ _ => id, fun _ h => absurd h List.not_mem_nil⟩
  | cons p rest ih =>
    obtain ⟨fresh, once⟩ := List.nodup_cons.mp once
    rw [List.foldl_cons] at does
    obtain ⟨only, state, others, ways, sent⟩ := ih once (s.sendOn p (s.helloFrame p)) does
    have first := s.sendOn_fabOnly p (s.helloFrame p)
    have uid : (s.sendOn p (s.helloFrame p)).uid = s.uid := by
      obtain ⟨_, _, _, same⟩ := first
      rw [same]
      rfl
    refine ⟨first.trans only, state.trans (s.sendOn_sends p (s.helloFrame p)).state, fun q h => ?_, fun q f way => ?_, fun q h queues => ?_⟩
    · rw [List.mem_cons, not_or] at h
      exact (others q h.2).trans (s.sendOn_port_ne _ h.1)
    · exact ways q f (s.sendOn_onWay p _ way)
    · rcases List.mem_cons.mp h with own | later
      · subst own
        have own := s.sendOn_onWay_own q (s.helloFrame q) (by rw [queues]; exact Nat.lt_succ_self 2)
        exact ⟨s.helloFrame q, ways q _ own, rfl, rfl, s.helloFrame_head q⟩
      · have other : q ≠ p := fun e => fresh (e ▸ later)
        have found := sent q later (by rw [s.sendOn_port_ne _ other]; exact queues)
        rw [uid] at found
        exact found

/-! ### The commands of a port (R523 to R525, R538, R549, R550, R652) -/

section
variable {s : State} {p : PortIx}

theorem exec_portTrained {lanes : Byte} (trains : (s.port p.val).state = .training) {w : BitVec 2} (width : trainWidth lanes.toNat = some w) :
    ∃ t credits, exec (.portTrained p lanes) s = .next t ∧ t.port p.val = { (s.dropPort p.val .up).port p.val with
      width := w, credits := credits, txSeq := 0, rxSeq := 0xFFF } := by
  show ∃ t credits, execPortTrained p lanes s = _ ∧ _
  unfold execPortTrained
  rw [if_neg (not_not_intro trains), width]
  refine ⟨_, [s.draw.1.toNat, s.draw.2.draw.1.toNat, s.draw.2.draw.2.draw.1.toNat], rfl, ?_⟩
  rw [State.trainingDone_port]
  exact State.port_setPort_same _ _ _

theorem exec_portTrained_none {lanes : Byte} (trains : (s.port p.val).state = .training) (width : trainWidth lanes.toNat = none) :
    exec (.portTrained p lanes) s = .next (s.dropPort p.val .down).trainingDone :=
  (if_neg (not_not_intro trains)).trans (by rw [width])

theorem exec_portTrainRetry (down : (s.port p.val).state = .down) (on : (s.port p.val).disable = false) (cable : (s.port p.val).present = true)
    (role : s.role ≠ 2) (stage : 4 ≤ s.boot.stage) :
    exec (.portTrainRetry p) s = .next (s.setPort p.val { s.port p.val with state := .training }) :=
  if_pos ⟨down, by rw [on]; rfl, cable, role, stage⟩

theorem exec_cablePresence_out (takes : (s.port p.val).state.takes = true) :
    exec (.cablePresence p false) s = .next ((s.updPort p.val (fun v => { v with present := false })).portDown p.val) := by
  have still : ((s.updPort p.val (fun v => { v with present := false })).port p.val).state.takes = true := by
    rw [State.updPort, State.port_setPort_same]
    exact takes
  show execCablePresence p false s = _
  unfold execCablePresence
  extract_lets u v
  rw [if_neg Bool.false_ne_true, if_pos still]

/-- DISABLE written at a port in service. -/
theorem State.portDisable_on (runs : (s.port p.val).state ≠ .disabled) : s.portDisable p.val true =
    ((s.setPort p.val { s.port p.val with disable := true }).dropPort p.val .disabled).removePort p.val none := by
  unfold State.portDisable
  extract_lets v u
  exact if_pos (by rw [Bool.true_and]; exact bne_iff_ne.mpr runs)

/-- DISABLE cleared at a disabled port. -/
theorem State.portDisable_off (is : (s.port p.val).state = .disabled) : (s.portDisable p.val false).port p.val =
    { s.port p.val with disable := false, state := .down } := by
  unfold State.portDisable
  extract_lets v u
  rw [if_neg (by simp), if_pos (by simp [v, is]), State.updPort, State.port_setPort_same]
  exact congrArg (fun (v : FabPort) => { v with state := .down }) (State.port_setPort_same s _ _)

theorem State.portRelease_quarantined (is : (s.port p.val).state = .quarantined) :
    ((s.portRelease p.val).port p.val).state = .up ∧ ((s.portRelease p.val).port p.val).window = 0 := by
  unfold State.portRelease
  extract_lets v
  rw [if_pos is]
  obtain ⟨⟨credits, txq, txSeq, sent, same⟩, -⟩ :=
    (State.linkReport_sends (s.setPort p.val { v with state := .up, window := 0, opened := none }) p.val).ports p.val
  rw [State.port_setPort_same] at same
  rw [same]
  exact ⟨rfl, rfl⟩

/-! ### Flits and credit (R524, R525, R528) -/

section
variable {seq ack : BitVec 12} {replay idle : Bool} {errs : Byte} (takes : (s.port p.val).state.takes = true)
include takes

theorem exec_flitReceived_bad (many : 4 < errs.toNat) : exec (.flitReceived p seq ack replay idle errs []) s = .next (s.askReplay p.val) :=
  (if_neg (by rw [takes]; decide)).trans (if_pos many)

theorem exec_flitReceived_outOfOrder (clean : errs = 0) (other : seq ≠ (s.port p.val).rxSeq + 1) :
    exec (.flitReceived p seq ack replay idle errs []) s = .next (s.askReplay p.val) := by
  subst clean
  exact (if_neg (by rw [takes]; decide)).trans ((if_neg (by decide)).trans (if_pos other))

/-- A port that has taken a flit in order. -/
def FabPort.took (v : FabPort) (seq ack : BitVec 12) (errs : Byte) : FabPort :=
  { v with
    corrected := if 0 < errs.toNat then satAdd v.corrected 1 else v.corrected, rxSeq := seq, askAgain := false, sent := ackFlits v.sent ack
    resends := if (ackFlits v.sent ack).length = v.sent.length then v.resends else 0 }

theorem exec_flitReceived_inOrder (few : errs.toNat ≤ 4) (next_ : seq = (s.port p.val).rxSeq + 1) : ∃ u,
    exec (.flitReceived p seq ack false idle errs []) s = .next (u.drainPort p.val) ∧ FabOnly s u ∧
    u.port p.val = (s.port p.val).took seq ack errs := by
  show ∃ u, execFlitReceived p seq ack false idle errs [] s = _ ∧ _
  unfold execFlitReceived
  extract_lets v u left w x
  have checked : FabOnly s u ∧ u.port p.val = { v with corrected := if 0 < errs.toNat then satAdd v.corrected 1 else v.corrected } := by
    unfold u
    split
    · exact ⟨s.setPort_fabOnly _ _, State.port_setPort_same _ _ _⟩
    · exact ⟨.refl s, rfl⟩
  have acked : FabOnly s w ∧ w.port p.val = v.took seq ack errs := by
    refine ⟨checked.1.trans (u.setPort_fabOnly _ _), (State.port_setPort_same _ _ _).trans ?_⟩
    rw [checked.2]
    rfl
  have counted : FabOnly s x ∧ x.port p.val = v.took seq ack errs := by
    unfold x
    split
    · exact acked
    · exact ⟨acked.1.trans ⟨_, _, _, rfl⟩, acked.2⟩
  rw [if_neg (by simp [v, takes]), if_neg (by omega), if_neg (not_not_intro next_)]
  exact ⟨x, rfl, counted⟩

end

/-- A CREDIT frame is itself answered by none: the flits it took are owed (R528; log entry 42). -/
theorem State.returnCredit_credit (s : State) (p : Nat) (h : FrameHdr) : ∃ owe, s.returnCredit p 8 h = s.setPort p { s.port p with owe := owe } :=
  ⟨_, rfl⟩

/-- CREDIT heard on a port: what it returns is taken, what waited for it is sent. -/
theorem exec_credit {h : FrameHdr} (hears : s.hears p.val 8 h) (n0 n1 n2 : Half) : exec (.credit p h n0 n1 n2) s =
    .next (((s.returnCredit p.val 8 h).updPort p.val (fun v => { v with
      credits := [nth v.credits 0 0 + n0.toNat, nth v.credits 1 0 + n1.toNat, nth v.credits 2 0 + n2.toNat] })).drainPort p.val) := by
  obtain ⟨up, sound, -⟩ := hears
  have state : ((s.returnCredit p.val 8 h).port p.val).state = (s.port p.val).state := by
    obtain ⟨owe, same⟩ := s.returnCredit_credit p.val h
    rw [same, State.port_setPort_same]
  have same : (s.returnCredit p.val 8 h).frameFault p.val 8 h = none := by
    rw [← sound, State.frameFault, State.frameFault, state]
    rfl
  show Host.Outcome.next (s.arrive p.val 0x08 h [] _) = _
  unfold State.arrive
  extract_lets v u
  rw [if_neg (by simp [v, up, PortState.takes]), if_neg (by simp [v, up]), same]
  exact congrArg Host.Outcome.next (if_pos rfl)

end

/-- Settles O55: each command by what it makes of its port; the ports that frames are sent on differ by what sending changes. The layout of a
HELLO's first bytes is log entry 42's. -/
theorem portsTrain : Obligations.PortsTrain := by
  intro p lanes seq ack replay idle errs on s v st
  refine ⟨fun trains => ⟨fun w width => ?trained, fun none_ => ?untrained⟩, fun other => if_pos other, exec_portTrainRetry,
    fun takes => ⟨?down, ?unplugged⟩, ⟨_, rfl, State.port_setPort_same _ _ _⟩, fun takes => ?controls, fun drops => ?dropped,
    fun takes => ⟨exec_flitReceived_bad takes, exec_flitReceived_outOfOrder takes, fun few next_ => ?flit⟩, ?hello, fun h n0 n1 n2 hears => ?credit,
    fun t0 opened => ?window⟩
  case trained =>
    obtain ⟨t, credits, does, port⟩ := exec_portTrained trains width
    rw [State.dropPort_port] at port
    exact ⟨t, does, congrArg FabPort.state port, by rw [port], by rw [port], by rw [port], by rw [port]⟩
  case untrained =>
    refine ⟨_, exec_portTrained_none trains none_, ?_⟩
    show (State.port _ p.val).state = _
    rw [State.trainingDone_port, State.dropPort_port]
  case down =>
    obtain ⟨state, sent, -, -, cur⟩ := s.portDown_does p.val
    exact ⟨_, if_pos takes, state, sent, cur, rfl⟩
  case unplugged =>
    obtain ⟨state, -, -, present, -⟩ := (s.updPort p.val (fun v => { v with present := false })).portDown_does p.val
    refine ⟨_, exec_cablePresence_out takes, state, present.trans ?_⟩
    rw [State.updPort, State.port_setPort_same]
  case controls =>
    refine ⟨fun runs => ?_, fun is => ⟨_, if_pos takes, State.portDisable_off is⟩, fun is => ⟨_, if_pos takes, State.portRelease_quarantined is⟩,
      fun other => (if_pos takes).trans (congrArg _ (if_neg other)), fun up => ⟨_, (if_pos takes).trans (congrArg _ (if_pos up)), ?_⟩⟩
    · obtain ⟨state, -, disable, -, -⟩ := (s.setPort p.val { s.port p.val with disable := true }).dropped_does p.val (st := .disabled) rfl none
      rw [State.port_setPort_same] at disable
      exact ⟨_, (if_pos takes).trans (congrArg _ (State.portDisable_on runs)), state, disable⟩
    · exact congrArg FabPort.state (State.port_setPort_same _ _ _)
  case dropped =>
    refine ⟨_, if_neg (ne_true_of_eq_false drops), ?_⟩
    unfold State.barDropped
    split <;> rfl
  case flit =>
    obtain ⟨u, does, only, port⟩ := exec_flitReceived_inOrder (ack := ack) (idle := idle) takes few next_
    obtain ⟨⟨credits, txq, txSeq, sent, same⟩, -⟩ := (u.drainPort_sends p.val).ports p.val
    rw [port] at same
    refine ⟨_, does, by rw [same]; rfl, by rw [same]; rfl, (only.trans (u.drainPort_fabOnly p.val)).eq, fun empty => ?_⟩
    rw [u.drainPort_empty (by rw [port]; exact empty), port]
    refine ⟨rfl, ?_⟩
    by_cases clean : errs = 0
    · rw [if_pos clean, clean]
      rfl
    · have some_ : 0 < errs.toNat := Nat.pos_of_ne_zero (fun zero => clean (BitVec.eq_of_toNat_eq zero))
      rw [if_neg clean]
      exact if_pos some_
  case hello =>
    obtain ⟨only, state, others, -, sent⟩ := State.hellos_do ((List.range 20).filter (fun p => (s.port p).state.takes))
      (List.nodup_range.filter _) s rfl
    refine ⟨_, exec_helloTimer s, fun q off => others q ?_, only.eq, state, fun q low takes => sent q ?_⟩
    · simp [off]
    · simp [low, takes]
  case credit =>
    refine ⟨exec_credit hears n0 n1 n2, fun empty => ⟨_, exec_credit hears n0 n1 n2, ?_⟩⟩
    obtain ⟨owe, same⟩ := s.returnCredit_credit p.val h
    rw [same, State.updPort, State.port_setPort_same]
    have own := State.port_setPort_same (s.setPort p.val { s.port p.val with owe := owe }) p.val { s.port p.val with
      owe := owe, credits := [nth v.credits 0 0 + n0.toNat, nth v.credits 1 0 + n1.toNat, nth v.credits 2 0 + n2.toNat] }
    have still := fun q => State.drainPort_empty _ (p := p.val) (by rw [own]; exact empty) q
    refine ⟨?_, ?_, fun q other => ?_⟩
    · rw [still, own]
    · rw [still, own]
    · rw [still, State.port_setPort_ne _ _ other, State.port_setPort_ne _ _ other]
  case window =>
    have opens : exec (.violationWindowClose p) s = if s.nowUs < t0 + 1000000 then .next s else
        .next (s.setPort p.val { s.port p.val with opened := none, window := 0 }) := by
      show execViolationWindowClose p s = _
      rw [execViolationWindowClose, show (s.port p.val).opened = some t0 from opened]
    exact ⟨fun late => opens.trans (if_neg (by omega)), fun early => opens.trans (if_pos early)⟩

end Sys2Proof.Machine
end

section
/-! PERFRD and DMAQ (O37). -/

namespace Sys2Proof.Machine

/-! ### Live counters (R581, R582, R596) -/

/-- A counter whose event its unit does not count reads zero. -/
theorem State.counterNow_unfit (s : State) (g : Nat) (unfit : eventFits g (s.perf.event g) = false) : (s.counterNow g).1 = 0 := by
  unfold State.counterNow
  extract_lets e u
  rw [if_pos (by rw [unfit]; rfl)]

/-- A counter of a core whose event is not one of timing reads its count, and reading it changes nothing. -/
theorem State.counterNow_core (s : State) {g : Nat} (core : g < 17408) (fits : eventFits g (s.perf.event g) = true)
    (counts : eventTimed (s.perf.event g) = false) : s.counterNow g = ((Tab.at s.perf.cnt g 0#48).toNat, s) := by
  have other : s.perf.event g ≠ 0x175 := by
    intro is
    rw [is, eventFits, if_pos core] at fits
    exact absurd fits (by decide)
  unfold State.counterNow
  extract_lets e u
  have still : u = s := if_neg other
  rw [if_neg (by rw [fits]; decide), if_neg (by rw [counts, Bool.false_and]; decide), still]

theorem cntCore_lt (w : CoreIx) (n : Nat) : cntCore w.val + fld n 8 5 < 17408 := by
  have counter : fld n 8 5 < 2 ^ 5 := Nat.mod_lt _ (by decide)
  unfold cntCore
  omega

/-! ### PERFRD (R578, R596) -/

theorem State.boot_atIssue (s : State) (w : Nat) : (s.atIssue w).boot = s.boot := by
  rw [State.atIssue, State.finishElem]
  split
  · exact (s.elemGroups_access _ w _ _).boot
  · rfl

theorem State.userCounters_atIssue (s : State) (w : Nat) : (s.atIssue w).userCounters = s.userCounters := by
  simp only [State.userCounters, State.granted, State.sheet, s.boot_atIssue]

/-- A core that has read a half of a counter's value: the low half leaves the high one latched. -/
def Core.perfRead (n v : Nat) (c : Core) : Core :=
  if bitOf n 13 then c.setX (fld n 14 3) (c.latch.setWidth 32)
  else { c.setX (fld n 14 3) (BitVec.ofNat 32 v) with latch := BitVec.ofNat 16 (v / 2 ^ 32) }

theorem Core.setX_latch (c : Core) (i : Nat) (v : Word) : (c.setX i v).latch = c.latch := by
  unfold Core.setX
  split <;> rfl

theorem Core.next_latch (c : Core) : c.next.latch = c.latch := by rw [Core.next_eq]

theorem Core.x_perfRead (n v : Nat) (c : Core) (j : Nat) : (c.perfRead n v).x j =
    (c.setX (fld n 14 3) (if bitOf n 13 then c.latch.setWidth 32 else BitVec.ofNat 32 v)).x j := by
  unfold Core.perfRead
  split <;> rfl

theorem Core.latch_perfRead (n v : Nat) (c : Core) :
    (c.perfRead n v).latch = if bitOf n 13 then c.latch else BitVec.ofNat 16 (v / 2 ^ 32) := by
  unfold Core.perfRead
  split
  · exact c.setX_latch _ _
  · rfl

theorem Core.owner_perfRead (n v : Nat) (c : Core) : (c.perfRead n v).owner = c.owner := by
  unfold Core.perfRead
  split <;> simp

/-- PERFRD once it issues. -/
def perfrdEffect (w : CoreIx) (n : Nat) (k : Kern) (s : State) : Option State :=
  if !s.userCounters then some (s.coreFault w.val k n)
  else
    let r := s.counterNow (cntCore w.val + fld n 8 5)
    some (r.2.updCore w.val (Core.perfRead n r.1))

theorem exec_perfrd_issue (w : CoreIx) (word : Dword) (s : State) :
    exec (.perfrd w word) s = issue w word (fun n => opcodeOf n == 0x3A) (perfrdEffect w word.toNat) s := rfl

/-- PERFRD with CTR in force: the counter is read, and the core goes past the word. -/
theorem exec_perfrd {w : CoreIx} {word : Dword} {s : State} {k : Kern} (issues : s.issues w word 0x3A k) (may : s.userCounters = true) {v : Nat}
    {u : State} (read : (s.atIssue w.val).counterNow (cntCore w.val + fld word.toNat 8 5) = (v, u)) :
    exec (.perfrd w word) s = .next ((u.updCore w.val (Core.perfRead word.toNat v)).retire w.val) := by
  obtain ⟨issuing, opcode, good⟩ := issues
  have swept := State.counterNow_swept (s.atIssue w.val) (cntCore w.val + fld word.toNat 8 5) (Swept.refl _)
  have effect : perfrdEffect w word.toNat k (s.atIssue w.val) = some (u.updCore w.val (Core.perfRead word.toNat v)) := by
    rw [perfrdEffect, s.userCounters_atIssue, may, read]
    rfl
  have owned : ((u.updCore w.val (Core.perfRead word.toNat v)).core w.val).owner.isSome = true := by
    rw [read] at swept
    have same : u.core w.val = (s.atIssue w.val).core w.val := swept.core w.val
    rw [State.core_updCore_same, Core.owner_perfRead, same, (s.atIssue_queueWork w.val).owner]
    exact State.owner_of_kernOn (State.issuing_some issuing).1
  exact (exec_perfrd_issue w word s).trans (issue_next issuing (beq_iff_eq.mpr opcode) good effect owned)

/-! ### DMAQ (R422) -/

theorem State.eng_atIssue (s : State) (w e : Nat) : (s.atIssue w).eng e = s.eng e := by
  rw [State.eng, State.dma_atIssue, State.eng]

theorem State.queue_queueDesc (s : State) (e c : Nat) (d : DmaDesc) :
    (Tab.at ((s.queueDesc e c d).eng e).chans c {}).queue = (Tab.at (s.eng e).chans c {}).queue ++ [d] := by
  have own : (s.queueDesc e c d).eng e = _ := Tab.at_put_same _ _ _ _
  rw [own]
  dsimp only
  rw [Tab.at_upd_same]

/-- DMAQ once it issues. -/
def dmaqEffect (w : CoreIx) (n : Nat) (k : Kern) (s : State) : Option State :=
  match (((k.chans.find? (fun p => p.1 == clusterOf w.val)).map Prod.snd).getD [])[fld n 10 4]? with
  | none => some (s.endCmd k.seq .deviceFault)
  | some c =>
    if 4 ≤ (Tab.at (s.eng (clusterOf w.val)).chans c {}).queue.length then none
    else
      match s.descOf k w.val n 128 with
      | .error va => some (s.coreFault w.val k va)
      | .ok b => some (s.queueDesc (clusterOf w.val) c { parseDesc k.seq b with core := some w.val, layer := k.layer })

theorem exec_dmaq_issue (w : CoreIx) (word : Dword) (s : State) :
    exec (.dmaq w word) s = issue w word (fun n => opcodeOf n == 0x39) (dmaqEffect w word.toNat) s := rfl

/-- Settles O37: PERFRD reads by `State.counterNow_core` and `State.counterNow_unfit`, a counter of timing freely (log entry 60); DMAQ by the
channel its word names, a command that names none it has ending with no report (log entry 73). -/
theorem countersAndQueues : Obligations.CountersAndQueues := by
  intro w word s k n c s0 g
  have before := s.atIssue_queueWork w.val
  refine ⟨fun issues may => ?reads, fun issues may => ?shut, fun issues none_ => ?missing, fun ch b issues some_ => ⟨fun full => ?stalls, fun room read => ?queues⟩⟩
  case reads =>
    obtain ⟨v, u, read⟩ : ∃ v u, s0.counterNow g = (v, u) := ⟨_, _, rfl⟩
    have swept := State.counterNow_swept s0 g (Swept.refl _)
    rw [read] at swept
    have cores : ∀ j, u.core j = s0.core j := swept.core
    have latch : ((s.atIssue w.val).core w.val).latch = c.latch := (congrArg Core.latch before.own :)
    have retired := State.retire_eq (u.updCore w.val (Core.perfRead n v)) w.val
    have x : ∀ j, (((u.updCore w.val (Core.perfRead n v)).retire w.val).core w.val).x j =
        (((s0.core w.val).setX (fld n 14 3) (if bitOf n 13 then c.latch.setWidth 32 else BitVec.ofNat 32 v)).x j) := fun j => by
      rw [State.x_retire, State.core_updCore_same, Core.x_perfRead, cores, latch]
    refine ⟨_, v, exec_perfrd issues may read, fun unfit => ?_, fun fits counts => ?_, fun j other => ?_, fun real => ?_, ?_, fun j other => ?_, ?_, ?_, ?_, ?_⟩
    · exact (congrArg Prod.fst read).symm.trans (s0.counterNow_unfit g unfit)
    · rw [s0.counterNow_core (cntCore_lt w n) fits counts, Prod.mk.injEq] at read
      rw [← read.2]
      exact ⟨read.1.symm, State.coreOnly_retire (State.coreOnly_updCore _ _ _)⟩
    · rw [x, Core.x_setX, if_neg other]
      exact s.x_atIssue w.val j
    · rw [x, Core.x_setX, if_pos rfl, if_neg real]
    · have owned : ((u.updCore w.val (Core.perfRead n v)).core w.val).owner.isNone = false := by
        rw [State.core_updCore_same, Core.owner_perfRead, cores, before.owner, ← Option.not_isSome,
          State.owner_of_kernOn (State.issuing_some issues.1).1]
        rfl
      rw [State.core_retire_same, owned, if_neg Bool.false_ne_true, Core.next_latch, State.core_updCore_same, Core.latch_perfRead, cores, latch]
    · rw [State.core_retire_ne _ other, State.core_updCore_ne _ _ other, cores, before.others j other]
    · rw [retired]
      exact swept.host.trans before.host
    · rw [retired]
      exact swept.cmds.trans before.cmds
    · rw [retired]
      exact swept.mem
    · rw [retired]
      exact swept.hbm
  case shut =>
    have effect : perfrdEffect w n k s0 = some (s0.coreFault w.val k n) := by
      rw [perfrdEffect, s.userCounters_atIssue, may]
      rfl
    have ends := issue_endsBy_coreFault issues (exec_perfrd_issue w word s) effect
    rwa [BitVec.ofNat_toNat, BitVec.setWidth_eq] at ends
  case missing =>
    refine issue_endsBy_endCmd issues (exec_dmaq_issue w word s) (by decide) (by decide) ?_
    rw [dmaqEffect, none_]
  case stalls =>
    obtain ⟨issuing, opcode, good⟩ := issues
    refine (exec_dmaq_issue w word s).trans (issue_stalls issuing (beq_iff_eq.mpr opcode) good ?_)
    rw [dmaqEffect, some_, State.eng_atIssue]
    exact if_pos full
  case queues =>
    obtain ⟨issuing, opcode, good⟩ := issues
    have effect : dmaqEffect w n k s0 = some (s0.queueDesc (clusterOf w.val) ch { parseDesc k.seq b with core := some w.val, layer := k.layer }) := by
      rw [dmaqEffect, some_, State.eng_atIssue]
      dsimp only
      rw [if_neg (by omega), read]
    have owned : ((s0.queueDesc (clusterOf w.val) ch { parseDesc k.seq b with core := some w.val, layer := k.layer }).core w.val).owner.isSome = true :=
      (congrArg Option.isSome before.owner).trans (State.owner_of_kernOn (State.issuing_some issuing).1)
    refine ⟨_, (exec_dmaq_issue w word s).trans (issue_next issuing (beq_iff_eq.mpr opcode) good effect owned), ?_, ?_⟩
    · rw [State.retire_eq]
      exact (s0.queue_queueDesc _ _ _).trans (by rw [State.eng_atIssue])
    · rw [State.retire_eq]
      rfl

end Sys2Proof.Machine
end

section
/-! A fence at the coordinator of a fabric (O58). -/

namespace Sys2Proof.Machine

/-- A device that serves and coordinates a fabric of two, with one FENCE_CORE accepted: of core 0, without DRAIN. -/
def fencingCoordinator : State :=
  { State.reset with
    boot := { stage := 5, fw1 := some ⟨[], 0⟩ }
    fab := { devices := 2, coord := true }
    cmds := [(1, { gen := 1, record := 0x50 :: List.replicate 63 0, readyAt := some 0 })] }

/-- Its FENCE_CORE: core 0, without DRAIN. -/
def fencingCommand : Cmd := { gen := 1, record := 0x50 :: List.replicate 63 0, readyAt := some 0 }

/-- It is the command's turn, and its core is in service, with no kernel and no report behind it. -/
theorem fencingCoordinator_ready : fencingCoordinator.turnOf 1 0x50 = some fencingCommand ∧ fencingCommand.fenceTarget = 0 ∧
    (fencingCommand.fieldN 26 1).testBit 0 = false ∧ fencingCoordinator.isFenced 0 = false ∧ fencingCoordinator.kernOn 0 = none ∧
    fencingCoordinator.flt.windows = [] ∧ fencingCoordinator.flt.cnt = 0 := by decide +kernel

/-- The fence's report enters the log twice: as the device's own first report (R622), and as a new key of the coordinator's tally (R547). -/
theorem fencingCoordinator_logsTwice : (match exec (.fenceCore 1) fencingCoordinator with
    | .next t => t.flt.cnt
    | _ => 0) = 2 := by decide +kernel

/-- Refutes O58: FENCE_CORE at the coordinator of a fabric of two makes two entries in the fault log, so FLT_CNT rises by 2 and not by the
1 the statement claims of every fence. -/
theorem not_faultsFence : ¬ Obligations.FaultsFence := by
  unfold Obligations.FaultsFence
  intro holds
  obtain ⟨turn, target, undrained, inService, free, windows, none_⟩ := fencingCoordinator_ready
  obtain ⟨-, -, -, -, -, fences, -⟩ := holds 0 0 0 1 0 0 0 0 0 0 fencingCoordinator
  obtain ⟨-, now, -⟩ := fences fencingCommand turn
  rw [target] at now
  obtain ⟨-, done⟩ := now inService undrained
  obtain ⟨t, does, -, -, -, counted⟩ := done (by decide) free (by rw [windows]; rfl)
  have twice := fencingCoordinator_logsTwice
  rw [does] at twice
  rw [none_] at counted
  exact absurd (counted.symm.trans twice) (by decide)

end Sys2Proof.Machine
end

section
/-! Host memory through the address range, and the byte of a sample list's mask (O54). -/

namespace Sys2Proof.Machine

/-! ### A bit taken out of a number -/

/-- A number whose bit `k` stands, less that bit. -/
theorem testBit_sub_two_pow {v k : Nat} (stands : v.testBit k = true) (b : Nat) :
    (v - 2 ^ k).testBit b = (v.testBit b && decide (b ≠ k)) := by
  have parts : v % 2 ^ (k + 1) = 2 ^ k + v % 2 ^ k := by
    have odd : v / 2 ^ k % 2 = 1 := by simpa [Nat.testBit_eq_decide_div_mod_eq] using stands
    rw [Nat.mod_pow_succ, odd, Nat.mul_one, Nat.add_comm]
  have low : v % 2 ^ k < 2 ^ k := Nat.mod_lt _ (Nat.two_pow_pos k)
  have double : 2 ^ (k + 1) = 2 ^ k + 2 ^ k := by omega
  have whole : v = 2 ^ (k + 1) * (v / 2 ^ (k + 1)) + (2 ^ k + v % 2 ^ k) := by
    rw [← parts]
    exact (Nat.div_add_mod v _).symm
  have less : v - 2 ^ k = 2 ^ (k + 1) * (v / 2 ^ (k + 1)) + v % 2 ^ k := by omega
  rw [less, Nat.testBit_two_pow_mul_add _ (by omega)]
  conv => rhs; rw [whole, Nat.testBit_two_pow_mul_add _ (by omega)]
  rcases Nat.lt_trichotomy b k with lower | rfl | higher
  · rw [if_pos (by omega), if_pos (by omega), Nat.testBit_two_pow_add_gt lower]
    simp [Nat.ne_of_lt lower]
  · simp [Nat.testBit_lt_two_pow low]
  · rw [if_neg (by omega), if_neg (by omega)]
    simp [Nat.ne_of_gt higher]

/-! ### Host memory (R362) -/

theorem State.spans_of_host {va n : Nat} (within : inHost va n) (bytes : 0 < n) (s : State) (a : Acc) (wr : Bool) :
    s.spans a wr (n + 1) va n = [(.host (va % 2 ^ 52), va, n)] :=
  State.spans_host within (Nat.ne_of_gt bytes) s a wr

/-- A range of host memory reads as the bytes there. -/
theorem State.readVA_host {va n : Nat} (within : inHost va n) (bytes : 0 < n) (s : State) (a : Acc) :
    s.readVA a va n = .ok (s.mem.host.readN (va % 2 ^ 52) n) := by
  simp [-Nat.reducePow, State.readVA, State.spans_of_host within bytes, State.readPlace]

/-- Addresses of host memory are no leaves. -/
theorem State.noteUse_of_host {va n : Nat} (within : inHost va n) (s : State) (k : Nat) : s.noteUse va k = s := by
  obtain ⟨window, -⟩ := within
  exact if_neg (by omega)

theorem State.peerParts_host {va n : Nat} (within : inHost va n) (bytes : 0 < n) (s : State) (a : Acc) : s.peerParts a va n = [] := by
  simp [-Nat.reducePow, State.peerParts, State.spans_of_host within bytes]

/-- A range of host memory is read for a command at once, and nothing else changes. -/
theorem State.readFor_host {va n : Nat} (within : inHost va n) (bytes : 0 < n) (s : State) (a : Acc) (seq : Word) (unit : Nat)
    (k : List Byte → State → State) : s.readFor a seq unit va n k = k (s.mem.host.readN (va % 2 ^ 52) n) s := by
  have parts := s.peerParts_host within bytes a
  rw [State.readFor_ok (by simp [State.peerReady, parts]) (State.readVA_host within bytes s a)]
  simp [-Nat.reducePow, State.touchVA, State.usePeers, parts, State.spans_of_host within bytes, State.noteUse_of_host within]

/-- The state with its host memory replaced. -/
def State.withHost (s : State) (m : Mem) : State := { s with mem := { s.mem with host := m } }

@[simp] theorem State.withHost_host (s : State) (m : Mem) : (s.withHost m).mem.host = m := rfl

@[simp] theorem State.withHost_video (s : State) (m : Mem) : (s.withHost m).video = s.video := rfl

@[simp] theorem State.withHost_sched (s : State) (m : Mem) : (s.withHost m).sched = s.sched := rfl

@[simp] theorem State.withHost_withHost (s : State) (m q : Mem) : (s.withHost m).withHost q = s.withHost q := rfl

/-- A range of host memory is stored for a command at once where no page moves, and nothing else changes. -/
theorem State.writeFor_host {va : Nat} {bs : List Byte} (within : inHost va bs.length) (bytes : bs ≠ []) {s : State}
    (still : s.mem.migs = []) (a : Acc) (seq : Word) (unit : Nat) (k : State → State) :
    s.writeFor a seq unit va bs k = k (s.withHost (s.mem.host.writeN (va % 2 ^ 52) bs)) := by
  rw [State.writeFor, State.writeVA_host within bytes (by simp [still, migOf])]
  exact congrArg k (State.noteUse_of_host within _ _)

/-- Bytes apart from those written read as before. -/
theorem Mem.readN_writeN_apart {m : Mem} (wf : m.wf = true) {a o n : Nat} {bs : List Byte} (apart : o + n ≤ a ∨ a + bs.length ≤ o) :
    (m.writeN a bs).readN o n = m.readN o n := by
  refine List.map_congr_left fun i inside => Mem.read_writeN_of_wf bs a (o + i) wf ?_
  rw [List.mem_range] at inside
  omega

end Sys2Proof.Machine
end

section
/-! Sample lists and the engines' choice of frames: what each leaves alone (O54). -/

namespace Sys2Proof.Machine

/-! ### Records and sample lists -/

/-- The record of a command changed. -/
theorem State.cmd?_updCmd (s : State) (seq : Word) (f : Cmd → Cmd) : (s.updCmd seq f).cmd? seq = (s.cmd? seq).map f := by
  rw [State.updCmd]
  cases accepted : s.cmd? seq with
  | none => exact accepted
  | some c => exact State.cmd?_setCmd_same _ _ _

theorem State.cmd?_setFlag (s : State) (seq : Word) (bit : Nat) :
    (s.setFlag seq bit).cmd? seq = (s.cmd? seq).map (fun c => { c with flags := c.flags ||| BitVec.ofNat 8 (2 ^ bit) }) :=
  State.cmd?_updCmd _ _ _

theorem State.cmd?_congr {s t : State} (cmds : t.cmds = s.cmds) (seq : Word) : t.cmd? seq = s.cmd? seq := by
  rw [State.cmd?, cmds, State.cmd?]

theorem State.run?_congr {s t : State} (runs : t.video.runs = s.video.runs) (seq : Word) (addr : Nat) :
    t.run? seq addr = s.run? seq addr := by
  rw [State.run?, runs, State.run?]

/-- A sample list replaced is found in its place. -/
theorem State.run?_setRun {s : State} {r old : SampleRun} (there : s.run? r.seq r.addr = some old) :
    (s.setRun r).run? r.seq r.addr = some r := by
  have same : (old.seq == r.seq && old.addr == r.addr) = true := by simpa using List.find?_some there
  have moved : ∀ p : SampleRun, ((if p.seq == r.seq && p.addr == r.addr then r else p).seq == r.seq &&
      (if p.seq == r.seq && p.addr == r.addr then r else p).addr == r.addr) = (p.seq == r.seq && p.addr == r.addr) := by
    intro p
    by_cases own : (p.seq == r.seq && p.addr == r.addr) = true
    · simp [own]
    · rw [if_neg own]
  rw [State.run?] at there
  simp only [State.run?, State.setRun, List.find?_map, Function.comp_def, moved, there, Option.map_some, same, if_true]

theorem State.ctx_setCtx (s : State) (c k : Nat) (x : StreamCtx) : (s.setCtx c x).ctx k = if k = c then x else s.ctx k :=
  Tab.at_put _ _ _ _ _

/-- A context's value put back with the same state and generation names the same streams. -/
theorem State.ctxOf_setCtx {s : State} {c : Nat} {x : StreamCtx} (state : x.state = (s.ctx c).state) (gen : x.gen = (s.ctx c).gen)
    (id : Nat) : (s.setCtx c x).ctxOf id = s.ctxOf id := by
  simp only [State.ctxOf, State.ctx_setCtx]
  split
  · rename_i own
    rw [state, gen, own]
  · rfl

theorem State.ctxOf_congr {s t : State} (ctxs : t.video.ctxs = s.video.ctxs) (id : Nat) : t.ctxOf id = s.ctxOf id := by
  rw [State.ctxOf, State.ctx, ctxs]
  rfl

theorem State.ctx_congr {s t : State} (ctxs : t.video.ctxs = s.video.ctxs) (c : Nat) : t.ctx c = s.ctx c := by
  rw [State.ctx, ctxs, State.ctx]

/-! ### The engines' choice of frames (R455, R456) -/

/-- What an engine's choice of a frame leaves alone: all but the engines, the place each context is at, and the event counters. -/
structure EnginesOnly (s t : State) : Prop where
  frame : t = { s with video := { s.video with ctxs := t.video.ctxs, engines := t.video.engines }, perf := t.perf }
  ctx : ∀ c, t.ctx c = { s.ctx c with next := (t.ctx c).next, pos := (t.ctx c).pos }
  frames : ∀ e, (t.dec e).frames = (s.dec e).frames

theorem EnginesOnly.refl (s : State) : EnginesOnly s s := ⟨rfl, fun _ => rfl, fun _ => rfl⟩

theorem EnginesOnly.trans {s t u : State} (first : EnginesOnly s t) (later : EnginesOnly t u) : EnginesOnly s u := by
  refine ⟨?_, fun c => ?_, fun e => (later.frames e).trans (first.frames e)⟩
  · rw [later.frame, first.frame]
  · rw [later.ctx c, first.ctx c]

theorem EnginesOnly.bump (s : State) (a : At) (ev n : Nat) : EnginesOnly s (s.bump a ev n) := by
  have same : (s.bump a ev n).video = s.video := s.bump_video a ev n
  refine ⟨?_, fun c => by rw [State.ctx, same]; rfl, fun e => by rw [State.dec, same]; rfl⟩
  rw [State.bump_eq]

/-- A context sent back to a random access point. -/
theorem EnginesOnly.seek (s : State) (c n p : Nat) : EnginesOnly s (s.setCtx c { s.ctx c with next := n, pos := p }) := by
  refine ⟨rfl, fun k => ?_, fun _ => rfl⟩
  rw [State.ctx_setCtx]
  split
  · rename_i own
    rw [own]
  · rfl

/-- An engine set to a frame. -/
theorem EnginesOnly.start (s : State) (e : Nat) {v : Engine} (same : v.frames = (s.dec e).frames) : EnginesOnly s (s.setDec e v) := by
  refine ⟨rfl, fun _ => rfl, fun k => ?_⟩
  rw [State.dec, State.setDec, Tab.at_put]
  split
  · rename_i own
    rw [own, same]
  · rfl

theorem EnginesOnly.ite {s a b : State} {c : Prop} [Decidable c] (first : EnginesOnly s a) (second : EnginesOnly s b) :
    EnginesOnly s (if c then a else b) := by
  split
  · exact first
  · exact second

theorem State.engineNext_only (s : State) (e : Nat) : EnginesOnly s (s.engineNext e) := by
  unfold State.engineNext
  extract_lets v cs ds
  split
  · exact .refl s
  · split
    · exact .refl s
    · rename_i c d f _
      extract_lets x s1 s2
      have sought : EnginesOnly s s1 := by
        refine .ite ?_ (.refl s)
        split
        exact .seek s c _ _
      have counted : EnginesOnly s s2 := .ite sought (sought.trans (.bump s1 _ _ _))
      exact counted.trans (.start s2 e (counted.frames e).symm)

theorem State.enginesNext_only (s : State) : EnginesOnly s s.enginesNext :=
  List.foldlRecOn (motive := fun (t : State) => EnginesOnly s t) _ _ (.refl s) fun t only e _ => only.trans (t.engineNext_only e)

namespace EnginesOnly
variable {s t : State} (only : EnginesOnly s t)
include only

theorem cmd? (seq : Word) : t.cmd? seq = s.cmd? seq := by rw [only.frame]; rfl

theorem run? (seq : Word) (addr : Nat) : t.run? seq addr = s.run? seq addr := by rw [only.frame]; rfl

theorem late (c : Nat) : (t.ctx c).late = (s.ctx c).late := by rw [only.ctx c]

end EnginesOnly

/-! ### SAMPLE_DEADLINE (R466, R468) -/

/-- A request marked late in its list (R466). -/
def SampleRun.markLate (r : SampleRun) (i : Nat) : SampleRun := r.setReq i (fun q => { q with late := true })

theorem SampleRun.markLate_named (r : SampleRun) (i : Nat) :
    (r.markLate i).seq = r.seq ∧ (r.markLate i).addr = r.addr ∧ (r.markLate i).policy = r.policy := by
  unfold SampleRun.markLate SampleRun.setReq
  split <;> exact ⟨rfl, rfl, rfl⟩

/-- The state with a request marked late and the event counted, before its stream and its command count it. -/
def State.markLate (s : State) (r : SampleRun) (i : Nat) : State := (s.setRun (r.markLate i)).bump .io 0x144 1

theorem State.markLate_video (s : State) (r : SampleRun) (i : Nat) : (s.markLate r i).video = (s.setRun (r.markLate i)).video :=
  State.bump_video _ _ _ _

/-- A context that counts one more late request. -/
def StreamCtx.moreLate (x : StreamCtx) : StreamCtx := { x with late := min 255 (x.late + 1) }

theorem State.countLate_eq {s : State} {seq : Word} {r : SampleRun} {i : Nat} {q : SampleReq}
    (listed : s.run? seq r.addr = some r) (once : q.late = false) :
    s.countLate seq r.addr i q = ((s.markLate r i).setCtx (q.stream % 512) ((s.markLate r i).ctx (q.stream % 512)).moreLate).updCmd seq
      (fun c => c.countIngest 14 1) := by
  simp only [State.countLate, once, listed]
  rfl

/-- What counting a late request changes (R466, R478, R480). -/
theorem State.countLate_said {s : State} {seq : Word} {r : SampleRun} {i : Nat} {q : SampleReq} (own : r.seq = seq)
    (listed : s.run? seq r.addr = some r) (once : q.late = false) :
    (s.countLate seq r.addr i q).run? seq r.addr = some (r.markLate i) ∧
    (s.countLate seq r.addr i q).cmd? seq = (s.cmd? seq).map (fun c => c.countIngest 14 1) ∧
    ((s.countLate seq r.addr i q).ctx (q.stream % 512)).late = min 255 ((s.ctx (q.stream % 512)).late + 1) ∧
    ∀ id, (s.countLate seq r.addr i q).ctxOf id = s.ctxOf id := by
  subst own
  obtain ⟨seqs, addrs, -⟩ := r.markLate_named i
  have found : (s.setRun (r.markLate i)).run? r.seq r.addr = some (r.markLate i) := by
    have there : s.run? (r.markLate i).seq (r.markLate i).addr = some r := by rw [seqs, addrs]; exact listed
    simpa only [seqs, addrs] using State.run?_setRun there
  have ctxs : (s.markLate r i).video.ctxs = s.video.ctxs := by
    rw [s.markLate_video r i]
    rfl
  rw [State.countLate_eq listed once]
  generalize mark : s.markLate r i = u at ctxs
  have runs : u.video.runs = (s.setRun (r.markLate i)).video.runs := by rw [← mark, State.markLate_video]
  have cmds : u.cmds = s.cmds := by rw [← mark, State.markLate, State.bump_cmds, State.setRun_cmds]
  refine ⟨?_, ?_, ?_, fun id => ?_⟩
  · rw [← found]
    exact State.run?_congr (by rw [State.updCmd_video]; exact runs) _ _
  · rw [State.cmd?_updCmd]
    exact congrArg _ (State.cmd?_congr cmds _)
  · rw [State.ctx_congr (t := State.updCmd _ _ _) (congrArg Video.ctxs (State.updCmd_video _ _ _)), State.ctx_setCtx, if_pos rfl, State.ctx_congr ctxs]
    rfl
  · rw [State.ctxOf_congr (congrArg Video.ctxs (State.updCmd_video _ _ _)), ← State.ctxOf_congr ctxs]
    exact State.ctxOf_setCtx (x := (u.ctx _).moreLate) rfl rfl id

theorem State.disposeLate_pad {s : State} {r : SampleRun} (pads : r.policy = 1) (i : Nat) (q : SampleReq) :
    s.disposeLate r i q = (s.setFlag r.seq 2).padSlot r i (some q) := by
  simp [State.disposeLate, pads]

/-- A slot with nothing to write is padded at once (R468). -/
theorem State.padSlot_unnamed {s : State} {r : SampleRun} {i : Nat} {q : SampleReq} {x : SampleSlot} (slot : r.slots[i]? = some x)
    (unnamed : s.ctxOf q.stream = none) (listed : s.run? r.seq r.addr = some r) :
    s.padSlot r i (some q) = s.setRun (r.setSlot i (fun x => { x with how := .padded, mask := false, prepared := true })) := by
  have none : (parsePrep []).ofmt = 0 := by decide
  simp [State.padSlot, slot, unnamed, none, State.writeSample, State.writeRows, listed]

section
variable {seq : Word} {n : Byte} {slot : Half} {s : State} {r : SampleRun} {q : SampleReq} {x : SampleSlot}
  (list : (s.video.runs.filter (fun r => r.seq == seq))[n.toNat]? = some r) (req : r.reqs[slot.toNat]? = some q)
  (place : r.slots[slot.toNat]? = some x)

include list in
theorem seq_of_listed : r.seq = seq := by
  have mem := List.mem_of_getElem? list
  simpa using (List.mem_filter.mp mem).2

include list req place

theorem exec_sampleDeadline_early (early : s.isLate q = false) : exec (.sampleDeadline seq n slot) s = .next s := by
  show execSampleDeadline seq n slot s = _
  simp [execSampleDeadline, list, req, place, early]

variable (due : s.isLate q = true) (unprepared : x.prepared = false) (here : q.gone = false) (once : q.late = false)
  (unready : q.ready = false)
include due unprepared here once unready

/-- A request found late is counted, and its list's policy disposes of it. -/
theorem exec_sampleDeadline_late {r' : SampleRun} (listed : (s.countLate seq r.addr slot.toNat q).run? seq r.addr = some r') :
    exec (.sampleDeadline seq n slot) s =
      if r'.policy = 2 then .next ((s.countLate seq r.addr slot.toNat q).fillRun seq r.addr)
      else if x.how != .pending then .next (s.countLate seq r.addr slot.toNat q)
      else .next ((s.countLate seq r.addr slot.toNat q).disposeLate r' slot.toNat q).enginesNext := by
  show execSampleDeadline seq n slot s = _
  have addr : r'.addr = r.addr := by
    have found := List.find?_some listed
    simp only [Bool.and_eq_true, beq_iff_eq] at found
    exact found.2
  simp [execSampleDeadline, list, req, place, due, unprepared, here, once, unready, listed, addr]

/-- What is said of every late request is said of the state that counts it (R466, R478, R480). -/
theorem sampleDeadline_disposed (listed : s.run? seq r.addr = some r) (settles : r.policy ≠ 2) (done : x.how ≠ .pending) :
    exec (.sampleDeadline seq n slot) s = .next (s.countLate seq r.addr slot.toNat q) := by
  have own := seq_of_listed list
  obtain ⟨found, -⟩ := State.countLate_said (i := slot.toNat) own listed once
  have policy : (r.markLate slot.toNat).policy ≠ 2 := by rwa [(r.markLate_named _).2.2]
  rw [exec_sampleDeadline_late list req place due unprepared here once unready found, if_neg policy, if_pos (by simpa using done)]

/-- A late request of a PAD list whose stream is no more is padded at once (R468). -/
theorem sampleDeadline_padded (listed : s.run? seq r.addr = some r) (pads : r.policy = 1) (waits : x.how = .pending)
    (unnamed : s.ctxOf q.stream = none) :
    exec (.sampleDeadline seq n slot) s =
      .next ((((s.countLate seq r.addr slot.toNat q).setFlag seq 2).setRun
        ((r.markLate slot.toNat).setSlot slot.toNat (fun x => { x with how := .padded, mask := false, prepared := true }))).enginesNext) := by
  have own := seq_of_listed list
  obtain ⟨found, -, -, names⟩ := State.countLate_said (i := slot.toNat) own listed once
  obtain ⟨seqs, addrs, policies⟩ := r.markLate_named slot.toNat
  have policy : (r.markLate slot.toNat).policy = 1 := policies.trans pads
  have slots : (r.markLate slot.toNat).slots[slot.toNat]? = some x := by
    rw [SampleRun.markLate, SampleRun.setReq, req]
    exact place
  rw [exec_sampleDeadline_late list req place due unprepared here once unready found, if_neg (by rw [policy]; decide),
    if_neg (by simp [waits]), State.disposeLate_pad policy, State.padSlot_unnamed slots, seqs, own]
  · rw [State.ctxOf_congr (congrArg Video.ctxs (State.setFlag_video _ _ _)), names, unnamed]
  · rw [seqs, addrs, own, ← found]
    exact State.run?_congr (congrArg Video.runs (State.setFlag_video _ _ _)) _ _

end

end Sys2Proof.Machine
end

section
/-! SLOT_SETTLE (R467): a slot of a sample list settled in host memory (O54). -/

namespace Sys2Proof.Machine

/-! ### The mask byte and the entry -/

/-- A mask byte with a slot's bit as the slot has it (R467). -/
def SampleSlot.maskByte (x : SampleSlot) (v k : Nat) : Nat :=
  if x.mask then v ||| 2 ^ k else if v.testBit k then v - 2 ^ k else v

theorem SampleSlot.maskByte_lt (x : SampleSlot) {v k : Nat} (byte : v < 256) (bit : k < 8) : x.maskByte v k < 256 := by
  have small : 2 ^ k < 2 ^ 8 := Nat.pow_lt_pow_right (by decide) bit
  unfold SampleSlot.maskByte
  split
  · exact Nat.or_lt_two_pow (n := 8) byte small
  · split
    · exact (Nat.sub_le _ _).trans_lt byte
    · exact byte

theorem SampleSlot.testBit_maskByte (x : SampleSlot) (v k b : Nat) :
    (x.maskByte v k).testBit b = if b = k then x.mask else v.testBit b := by
  unfold SampleSlot.maskByte
  cases x.mask with
  | true =>
    by_cases own : b = k
    · simp [own]
    · simp [own, Ne.symm own]
  | false =>
    cases stands : v.testBit k with
    | true => by_cases own : b = k <;> simp [testBit_sub_two_pow stands, own]
    | false => by_cases own : b = k <;> simp [own, stands]

theorem leNat_readN_one_lt (m : Mem) (a : Nat) : leNat (m.readN a 1) < 256 := by
  have byte := (m.read a).isLt
  simpa [Mem.readN, leNat] using byte

theorem settledEntry_length (old : List Byte) (x : SampleSlot) (own : SampleReq) : (settledEntry old x own).length = 32 := by
  simp [settledEntry, slice_length]

/-! ### What settling counts -/

/-- A list with its lowest unsettled slot settled. -/
def SampleRun.settledOne (r : SampleRun) : SampleRun := { r with settled := r.settled + 1 }

/-- A record whose ingest area counts one more slot settled (R477). -/
def Cmd.settledIn (c : Cmd) (how : How) (i : Nat) : Cmd := { c with data := { c.data with ingest := ingestSettled c.data.ingest how i } }

/-- The state after a slot's bytes are written: the list moved on, its command's ingest area counted (R467, R477). -/
def State.settleCounted (s : State) (r : SampleRun) (x : SampleSlot) : State :=
  let s := s.setRun r.settledOne
  let s := if x.how = .padded ∨ x.how = .substituted then s.bump .io 0x145 1 else s
  let s := s.updCmd r.seq (fun c => c.settledIn x.how r.settled)
  s.dropLeft r.settledOne

/-- A change of a record that leaves its program alone leaves its program's slates. -/
theorem State.progSlate_updCmd {f : Cmd → Cmd} (ref : ∀ c, (f c).programRef = c.programRef) (base : ∀ c, (f c).slateBase = c.slateBase)
    (s : State) (seq : Word) (i : Nat) : (s.updCmd seq f).progSlate seq i = s.progSlate seq i := by
  rw [State.progSlate, State.progSlate, State.cmd?_updCmd]
  cases s.cmd? seq with
  | none => rfl
  | some c => simp only [Option.map_some, ref, base, State.progOf_congr (State.updCmd_progs s seq f)]

theorem State.progSlate_congr {s t : State} (cmds : t.cmds = s.cmds) (progs : t.progs = s.progs) (seq : Word) (i : Nat) :
    t.progSlate seq i = s.progSlate seq i := by
  rw [State.progSlate, State.progSlate, State.cmd?_congr cmds]
  cases s.cmd? seq with
  | none => rfl
  | some c => simp only [State.progOf_congr progs]

theorem State.progSlate_withHost (s : State) (m : Mem) (seq : Word) (i : Nat) : (s.withHost m).progSlate seq i = s.progSlate seq i :=
  State.progSlate_congr rfl rfl _ _

/-- What dropping the requests left over leaves alone (R469). -/
theorem State.dropLeft_keeps (s : State) (r : SampleRun) :
    (s.dropLeft r).mem = s.mem ∧ (s.dropLeft r).sched = s.sched ∧ ∀ i, (s.dropLeft r).progSlate r.seq i = s.progSlate r.seq i := by
  unfold State.dropLeft
  split
  · refine ⟨by simp, by simp, fun i => ?_⟩
    exact (State.progSlate_updCmd (f := fun c => c.countIngest 12 r.queue.length) (fun _ => rfl) (fun _ => rfl) _ _ _).trans
      (State.progSlate_congr rfl rfl _ _)
  · exact ⟨rfl, rfl, fun _ => rfl⟩

/-- Dropping the requests left over keeps how far the list has settled, and its policy. -/
theorem State.dropLeft_run {s : State} {r : SampleRun} (listed : s.run? r.seq r.addr = some r) :
    ∃ q, (s.dropLeft r).run? r.seq r.addr = some q ∧ q.settled = r.settled ∧ q.policy = r.policy := by
  unfold State.dropLeft
  split
  · refine ⟨{ r with queue := [], dropped := r.queue.length }, ?_, rfl, rfl⟩
    rw [State.run?_congr (congrArg Video.runs (State.updCmd_video _ _ _))]
    exact State.run?_setRun (r := { r with queue := [], dropped := r.queue.length }) listed
  · exact ⟨r, listed, rfl, rfl⟩

theorem State.settleCounted_keeps (s : State) (r : SampleRun) (x : SampleSlot) :
    (s.settleCounted r x).mem = s.mem ∧ (s.settleCounted r x).sched = s.sched ∧
      ∀ i, (s.settleCounted r x).progSlate r.seq i = s.progSlate r.seq i := by
  unfold State.settleCounted
  extract_lets s1 s2 s3
  have counted : s2 = { s1 with perf := s2.perf } := by
    rw [show s2 = if x.how = .padded ∨ x.how = .substituted then s1.bump .io 0x145 1 else s1 from rfl]
    split
    · exact State.bump_eq _ _ _ _
    · rfl
  obtain ⟨mem, sched, slates⟩ := s3.dropLeft_keeps r.settledOne
  refine ⟨mem.trans ?_, sched.trans ?_, fun i => (slates i).trans ?_⟩
  · rw [State.updCmd_mem, counted]
    rfl
  · rw [State.updCmd_sched, counted]
    rfl
  · refine (State.progSlate_updCmd (f := fun c => c.settledIn x.how r.settled) (fun _ => rfl) (fun _ => rfl) _ _ _).trans
      (State.progSlate_congr ?_ ?_ _ _)
    · rw [counted]
      rfl
    · rw [counted]
      rfl

theorem State.settleCounted_run {s : State} {r old : SampleRun} (there : s.run? r.seq r.addr = some old) (x : SampleSlot) :
    ∃ q, (s.settleCounted r x).run? r.seq r.addr = some q ∧ q.settled = r.settled + 1 ∧ q.policy = r.policy := by
  unfold State.settleCounted
  extract_lets s1 s2 s3
  have counted : s2.video = s1.video := by
    rw [show s2 = if x.how = .padded ∨ x.how = .substituted then s1.bump .io 0x145 1 else s1 from rfl]
    split
    · exact State.bump_video _ _ _ _
    · rfl
  have listed : s3.run? r.settledOne.seq r.settledOne.addr = some r.settledOne := by
    rw [State.run?_congr (s := s1) (by rw [State.updCmd_video, counted])]
    exact State.run?_setRun (r := r.settledOne) there
  exact State.dropLeft_run listed

/-- Only a REPLACE list fills its slots from a queue (R469). -/
theorem State.fillRun_of_policy {s : State} {seq : Word} {addr : Nat} {r : SampleRun} (listed : s.run? seq addr = some r)
    (policy : r.policy ≠ 2) : s.fillRun seq addr = s := by
  simp [State.fillRun, listed, policy]

/-! ### The bytes written at settling -/

/-- Where a list's lowest unsettled entry lies, and its mask byte. -/
def SampleRun.entryAt (r : SampleRun) : Nat := r.addr + 32 + 32 * r.settled

/-- Where the mask byte of a list's lowest unsettled slot lies. -/
def SampleRun.maskAt (r : SampleRun) : Nat := r.mask + r.settled / 8

/-- Host memory with a slot's entry written. -/
def SampleRun.hostEntry (r : SampleRun) (x : SampleSlot) (own : SampleReq) (h : Mem) : Mem :=
  h.writeN (r.entryAt % 2 ^ 52) (settledEntry (h.readN (r.entryAt % 2 ^ 52) 32) x own)

/-- Host memory with a slot's mask bit written. -/
def SampleRun.hostMask (r : SampleRun) (x : SampleSlot) (h : Mem) : Mem :=
  h.writeN (r.maskAt % 2 ^ 52) (leBytes 1 (x.maskByte (leNat (h.readN (r.maskAt % 2 ^ 52) 1)) (r.settled % 8)))

/-- Host memory with a list's count of settled slots written. -/
def SampleRun.hostCount (r : SampleRun) (h : Mem) : Mem := h.writeN ((r.addr + 2) % 2 ^ 52) (leBytes 2 (r.settled + 1))

/-- Host memory after a slot settles: its entry, its mask bit, the count of the list (R467). -/
def SampleRun.hostSettled (r : SampleRun) (x : SampleSlot) (own : SampleReq) (h : Mem) : Mem :=
  r.hostCount (r.hostMask x (r.hostEntry x own h))

/-- The state after a slot's bytes are written: counted, told to its command's slate, the next slot filled (R467, R469). -/
def State.settleTold (s : State) (r : SampleRun) (x : SampleSlot) : State :=
  match (s.settleCounted r x).progSlate r.seq r.slate with
  | some j => (((s.settleCounted r x).slateAsk .io j .add 1 0).1).fillRun r.seq r.addr
  | none => ((s.settleCounted r x).report 0x20 (subjIo 8) (subjIo 8) r.seq r.slate).endCmd r.seq .deviceFault

theorem State.settleTold_counted {s : State} {r : SampleRun} {x : SampleSlot} {j : Nat}
    (slate : (s.settleCounted r x).progSlate r.seq r.slate = some j) :
    s.settleTold r x = (((s.settleCounted r x).slateAsk .io j .add 1 0).1).fillRun r.seq r.addr := by
  rw [State.settleTold, slate]

theorem State.settleSlot_eq (s : State) (r : SampleRun) (x : SampleSlot) (own : SampleReq) :
    s.settleSlot r x own = s.readFor (accOf r.seq) r.seq 8 r.entryAt 32 (fun old s =>
      s.writeFor (accOf r.seq) r.seq 8 r.entryAt (settledEntry old x own) (fun s =>
        s.readFor (accOf r.seq) r.seq 8 r.maskAt 1 (fun m s =>
          s.writeFor (accOf r.seq) r.seq 8 r.maskAt (leBytes 1 (x.maskByte (leNat m) (r.settled % 8))) (fun s =>
            s.writeFor (accOf r.seq) r.seq 8 (r.addr + 2) (leBytes 2 (r.settled + 1)) (fun s => s.settleTold r x))))) := rfl

section
variable {r : SampleRun} (inList : inHost r.addr (64 + 32 * r.settled)) (inMask : inHost r.maskAt 1)
include inList

theorem SampleRun.entry_inHost : inHost r.entryAt 32 := by
  obtain ⟨window, fits⟩ := inList
  unfold inHost SampleRun.entryAt
  omega

theorem SampleRun.count_inHost : inHost (r.addr + 2) 2 := by
  obtain ⟨window, fits⟩ := inList
  unfold inHost
  omega

include inMask

/-- A slot of a list in host memory settles at once: its bytes are written and its command's slate is added to. -/
theorem State.settleSlot_host {s : State} (still : s.mem.migs = []) (x : SampleSlot) (own : SampleReq) {j : Nat}
    (slate : s.progSlate r.seq r.slate = some j) :
    s.settleSlot r x own =
      ((((s.withHost (r.hostSettled x own s.mem.host)).settleCounted r x).slateAsk .io j .add 1 0).1).fillRun r.seq r.addr := by
  have inEntry := SampleRun.entry_inHost inList
  have entry := fun old => settledEntry_length old x own
  have inEntryBytes : ∀ old, inHost r.entryAt (settledEntry old x own).length := fun old => by rw [entry]; exact inEntry
  have inMaskByte : ∀ v, inHost r.maskAt (leBytes 1 v).length := fun v => by rw [leBytes_length]; exact inMask
  have inCount : ∀ v, inHost (r.addr + 2) (leBytes 2 v).length := fun v => by rw [leBytes_length]; exact SampleRun.count_inHost inList
  have there : ((s.withHost (r.hostSettled x own s.mem.host)).settleCounted r x).progSlate r.seq r.slate = some j := by
    rw [(State.settleCounted_keeps _ _ _).2.2, State.progSlate_withHost, slate]
  have stillAfter : ∀ m, (s.withHost m).mem.migs = [] := fun _ => still
  rw [State.settleSlot_eq, State.readFor_host inEntry (by decide),
    State.writeFor_host (inEntryBytes _) (List.ne_nil_of_length_pos (by rw [entry]; decide)) still,
    State.readFor_host inMask (by decide), State.writeFor_host (inMaskByte _) (List.cons_ne_nil _ _) (stillAfter _),
    State.withHost_withHost, State.writeFor_host (inCount _) (List.cons_ne_nil _ _) (stillAfter _), State.withHost_withHost]
  simp only [State.withHost_host]
  rw [← SampleRun.hostEntry, ← SampleRun.hostMask, ← SampleRun.hostCount, ← SampleRun.hostSettled, State.settleTold_counted there]

variable (apart : r.maskAt < r.addr ∨ r.entryAt + 32 ≤ r.maskAt)
include apart

/-- The entry, the mask byte and the count lie apart in host memory. -/
theorem SampleRun.places_apart :
    (r.addr + 2) % 2 ^ 52 + 2 ≤ r.entryAt % 2 ^ 52 ∧
    (r.maskAt % 2 ^ 52 + 1 ≤ (r.addr + 2) % 2 ^ 52 ∨ r.entryAt % 2 ^ 52 + 32 ≤ r.maskAt % 2 ^ 52) := by
  obtain ⟨listWindow, listFits⟩ := inList
  obtain ⟨maskWindow, maskFits⟩ := inMask
  unfold SampleRun.entryAt at apart ⊢
  omega

/-- What host memory holds after a slot settles. -/
theorem SampleRun.hostSettled_reads (x : SampleSlot) (own : SampleReq) {h : Mem} (wf : h.wf = true) :
    (r.hostSettled x own h).readN (r.entryAt % 2 ^ 52) 32 = settledEntry (h.readN (r.entryAt % 2 ^ 52) 32) x own ∧
    (r.hostSettled x own h).readN ((r.addr + 2) % 2 ^ 52) 2 = leBytes 2 (r.settled + 1) ∧
    (r.hostSettled x own h).readN (r.maskAt % 2 ^ 52) 1 =
      leBytes 1 (x.maskByte (leNat (h.readN (r.maskAt % 2 ^ 52) 1)) (r.settled % 8)) := by
  obtain ⟨countFirst, maskOut⟩ := SampleRun.places_apart inList inMask apart
  have entryWf : (r.hostEntry x own h).wf = true := Mem.writeN_wf _ _ wf
  have maskWf : (r.hostMask x (r.hostEntry x own h)).wf = true := Mem.writeN_wf _ _ entryWf
  have entry := settledEntry_length (h.readN (r.entryAt % 2 ^ 52) 32) x own
  have mask := leBytes_length 1 (x.maskByte (leNat (h.readN (r.maskAt % 2 ^ 52) 1)) (r.settled % 8))
  have before : (r.hostEntry x own h).readN (r.maskAt % 2 ^ 52) 1 = h.readN (r.maskAt % 2 ^ 52) 1 :=
    Mem.readN_writeN_apart wf (by rw [entry]; omega)
  refine ⟨?_, ?_, ?_⟩
  · refine (Mem.readN_writeN_apart maskWf (by rw [leBytes_length]; omega)).trans ?_
    refine (Mem.readN_writeN_apart entryWf (by rw [leBytes_length]; omega)).trans ?_
    have wrote := Mem.readN_writeN_of_wf wf (r.entryAt % 2 ^ 52) (settledEntry (h.readN (r.entryAt % 2 ^ 52) 32) x own)
    rwa [entry] at wrote
  · have wrote := Mem.readN_writeN_of_wf maskWf ((r.addr + 2) % 2 ^ 52) (leBytes 2 (r.settled + 1))
    rwa [leBytes_length] at wrote
  · refine (Mem.readN_writeN_apart maskWf (by rw [leBytes_length]; omega)).trans ?_
    have wrote := Mem.readN_writeN_of_wf entryWf (r.maskAt % 2 ^ 52)
      (leBytes 1 (x.maskByte (leNat (h.readN (r.maskAt % 2 ^ 52) 1)) (r.settled % 8)))
    rw [mask] at wrote
    rw [SampleRun.hostMask, before]
    exact wrote

end

end Sys2Proof.Machine
end

section
/-! The rushes cache (R474 to R476), and what is said of samples and of the cache (O54). -/

namespace Sys2Proof.Machine

/-! ### SLOT_SETTLE (R467) -/

section
variable {seq : Word} {n : Byte} {s : State} {r : SampleRun} {q : SampleReq} {x : SampleSlot}
  (list : (s.video.runs.filter (fun r => r.seq == seq))[n.toNat]? = some r) (req : r.reqs[r.settled]? = some q)
  (place : r.slots[r.settled]? = some x)
include list req place

theorem exec_slotSettle (prepared : x.prepared = true) : exec (.slotSettle seq n) s = .next (s.settleSlot r x q) := by
  show execSlotSettle seq n s = _
  simp [execSlotSettle, list, req, place, prepared]

theorem exec_slotSettle_waits (unprepared : x.prepared = false) : exec (.slotSettle seq n) s = .next s := by
  show execSlotSettle seq n s = _
  simp [execSlotSettle, list, req, place, unprepared]

end

/-- A list found among a command's lists is found by its address. -/
theorem State.run?_of_listed {seq : Word} {n : Nat} {s : State} {r : SampleRun}
    (list : (s.video.runs.filter (fun r => r.seq == seq))[n]? = some r) : ∃ old, s.run? r.seq r.addr = some old := by
  have inside := (List.mem_filter.mp (List.mem_of_getElem? list)).1
  refine Option.isSome_iff_exists.mp ?_
  rw [State.run?, List.find?_isSome]
  exact ⟨r, inside, by simp⟩

theorem State.slateAsk_video (s : State) (a : At) (i : Nat) (o : SlateOp) (v cmp : Word) : (s.slateAsk a i o v cmp).1.video = s.video :=
  (State.slateApply_slated _ i o v cmp (Slated.refl _)).video.trans (State.carry_swept s a (.die (i / 32768)) (Swept.refl s)).video

/-- What a slot of a list in host memory leaves once it has settled (R464, R467, R477). -/
theorem State.settleSlot_said {s : State} {r old : SampleRun} (there : s.run? r.seq r.addr = some old) (takes : r.policy ≠ 2)
    (inList : inHost r.addr (64 + 32 * r.settled)) (inMask : inHost r.maskAt 1) (still : s.mem.migs = []) (x : SampleSlot) (own : SampleReq) {j : Nat}
    (slate : s.progSlate r.seq r.slate = some j) :
    (s.settleSlot r x own).mem.host = r.hostSettled x own s.mem.host ∧
      (∀ y, (s.settleSlot r x own).slate y = if y = j then s.slate y + 1 else s.slate y) ∧
      ((s.settleSlot r x own).run? r.seq r.addr).map SampleRun.settled = some (r.settled + 1) := by
  rw [State.settleSlot_host inList inMask still x own slate]
  generalize written : s.withHost (r.hostSettled x own s.mem.host) = u
  have thereStill : u.run? r.seq r.addr = some old :=
    (State.run?_congr (s := s) (by rw [← written, State.withHost_video]) _ _).trans there
  obtain ⟨run, found, settled, policy⟩ := State.settleCounted_run thereStill x
  obtain ⟨mem, sched, -⟩ := u.settleCounted_keeps r x
  have asked : ((u.settleCounted r x).slateAsk .io j .add 1 0).1.run? r.seq r.addr = some run :=
    (State.run?_congr (congrArg Video.runs (State.slateAsk_video _ _ _ _ _ _)) _ _).trans found
  rw [State.fillRun_of_policy asked (by rw [policy]; exact takes)]
  refine ⟨?_, fun y => ?_, ?_⟩
  · rw [(State.slateAsk_keeps _ _ _ _ _ _).2.1, mem, ← written, State.withHost_host]
  · have counts : ∀ k, (u.settleCounted r x).slate k = s.slate k := fun k => by
      rw [State.slate, sched, ← written, State.withHost_sched, State.slate]
    rw [(State.slate_slateAsk _ _ _ _ _ _ y).1, counts, counts]
    split
    · rename_i own
      rw [own]
      rfl
    · rfl
  · rw [asked, Option.map_some, settled]

/-! ### The rushes cache -/

theorem Rush.evictFor_inserts (v : Rush) (cap need n : Nat) : (v.evictFor cap need n).inserts = v.inserts := by
  induction n generalizing v with
  | zero => rfl
  | succ n ih =>
    rw [Rush.evictFor]
    split
    · rfl
    · split
      · rfl
      · exact ih _

/-- No entry goes while there is room. -/
theorem Rush.evictFor_of_room {v : Rush} {cap need : Nat} (room : v.used + need ≤ cap) (n : Nat) : v.evictFor cap need n = v := by
  cases n with
  | zero => rfl
  | succ n => exact if_pos room

/-- What an insertion whose write is acknowledged changes (R475, R476). -/
theorem State.rushInsert_said (s : State) (i : RushIns) :
    s.rushInsert i = { s with video := (s.rushInsert i).video, perf := (s.rushInsert i).perf } ∧
    (s.rushInsert i).video.rush.inserts = s.video.rush.inserts ∧
    (s.video.rush.ents.any (fun k => k.has i.key i.frame i.prep) = true → (s.rushInsert i).video.rush.ents = s.video.rush.ents) ∧
    (s.video.rush.ents.any (fun k => k.has i.key i.frame i.prep) = false → s.video.rush.used + rushBlocks i.body ≤ s.rushCap →
      (s.rushInsert i).video.rush.ents =
        s.video.rush.ents ++ [⟨i.key, i.frame, i.prep, rushBlocks i.body, i.body, s.video.rush.tick + 1, 0⟩]) := by
  have counted : s.bump .io 0x147 1 = { s with perf := (s.bump .io 0x147 1).perf } := State.bump_eq _ _ _ _
  unfold State.rushInsert
  extract_lets v drop need w _ ent
  have kept : w.inserts = v.inserts := Rush.evictFor_inserts _ _ _ _
  change drop = { s with perf := drop.perf } at counted
  by_cases held : v.ents.any (fun k => k.has i.key i.frame i.prep) = true
  · rw [if_pos held, counted]
    exact ⟨rfl, rfl, fun _ => rfl, fun new => absurd held (by rw [new]; exact Bool.false_ne_true)⟩
  · rw [if_neg held]
    split
    · rename_i full
      refine ⟨by rw [counted], kept, fun h => absurd h held, fun _ room => ?_⟩
      have same : w = v := Rush.evictFor_of_room room _
      rw [same] at full
      exact absurd room (Nat.not_le.mpr full)
    · refine ⟨rfl, kept, fun h => absurd h held, fun _ room => ?_⟩
      have same : w = v := Rush.evictFor_of_room room _
      show w.ents ++ [ent] = _
      rw [show ent = ⟨i.key, i.frame, i.prep, need, i.body, w.tick + 1, 0⟩ from rfl, same]

theorem exec_rushInsertDone {s : State} {ix : Half} {i : RushIns} (named : s.video.rush.inserts[ix.toNat]? = some i) :
    exec (.rushInsertDone ix) s = .next ({ s with
      video := { s.video with rush := { s.video.rush with inserts := s.video.rush.inserts.eraseIdx ix.toNat } } }.rushInsert i) := by
  show execRushInsertDone ix s = _
  simp [execRushInsertDone, named]

/-- A FLUSH or INVAL discards at once where nothing is being read, else it waits (R476). -/
theorem State.rushCtl_said {s : State} (idle : s.video.rush.busy = none) (flush : Bool) {hit : Nat → Bool}
    (hits : ∀ k, hit k = (flush || k == s.video.rush.keyReg.toNat)) :
    s.rushCtl flush = { s with video := (s.rushCtl flush).video } ∧
    (s.rushCtl flush).video.rush.inserts = s.video.rush.inserts.filter (fun k => !hit k.key) ∧
    (s.video.rush.ents.any (fun k => k.reading != 0) = false →
      (s.rushCtl flush).video.rush.busy = none ∧
      (s.rushCtl flush).video.rush.ents = s.video.rush.ents.filter (fun k => !hit k.key) ∧
      (s.rushCtl flush).video.rush.disc = BitVec.ofNat 16 (min (s.video.rush.ents.filter (fun k => hit k.key)).length 0xFFFF)) ∧
    (s.video.rush.ents.any (fun k => k.reading != 0) = true →
      (s.rushCtl flush).video.rush.busy.isSome = true ∧ (s.rushCtl flush).video.rush.ents = s.video.rush.ents) := by
  obtain rfl : hit = fun k => flush || k == s.video.rush.keyReg.toNat := funext hits
  cases reading : s.video.rush.ents.any (fun k => k.reading != 0) with
  | true => simp [State.rushCtl, idle, Rush.settle, reading]
  | false => simp [State.rushCtl, idle, Rush.settle, reading, Rush.discard]

/-- Settles O54: a late request by its list's policy, a prepared slot through host memory and its command's slate, the rushes cache by
its two operations and the reads in progress. -/
theorem samplesSettle : Obligations.SamplesSettle := by
  unfold Obligations.SamplesSettle
  intro seq n slot ix s r
  refine ⟨fun list => ⟨fun q x req place => ⟨?early, ?late, ?said⟩, fun q x req place => ⟨?settles, ?waits, ?bytes⟩⟩, ?insert, ?drop⟩
  case early => exact exec_sampleDeadline_early list req place
  case late =>
    intro due unprepared here once unready u r' listed
    have does := exec_sampleDeadline_late list req place due unprepared here once unready listed
    refine ⟨fun policy => ?_, fun policy done => ?_, fun policy pending => ?_⟩
    · rwa [if_pos policy] at does
    · rwa [if_neg policy, if_pos (by simpa using done)] at does
    · rwa [if_neg policy, if_neg (by simp [pending])] at does
  case said =>
    intro due unprepared here once unready listed said counted
    have own := seq_of_listed list
    obtain ⟨found, records, late, -⟩ := State.countLate_said (i := slot.toNat) own listed once
    have marked : r.markLate slot.toNat = counted := by simp [SampleRun.markLate, SampleRun.setReq, req, counted]
    refine ⟨fun policy done => ⟨_, ⟨sampleDeadline_disposed list req place due unprepared here once unready listed policy done, ?_, late⟩,
      by rw [found, marked]⟩, fun pads pending unnamed =>
      ⟨_, ⟨sampleDeadline_padded list req place due unprepared here once unready listed pads pending unnamed, ?_, ?_⟩, ?_⟩⟩
    · simp only [records, done, and_false, if_false]
      rfl
    · rw [(State.enginesNext_only _).cmd?, State.cmd?_congr (State.setRun_cmds _ _), State.cmd?_setFlag, records, Option.map_map]
      simp only [pads, pending, and_self, if_true]
      rfl
    · rw [(State.enginesNext_only _).late]
      refine Eq.trans ?_ late
      exact congrArg StreamCtx.late (State.ctx_congr (congrArg Video.ctxs (State.setFlag_video _ _ _)) _)
    · rw [(State.enginesNext_only _).run?]
      have slotSet : (r.markLate slot.toNat).setSlot slot.toNat (fun x => { x with how := .padded, mask := false, prepared := true }) =
          { counted with slots := r.slots.set slot.toNat { x with how := .padded, mask := false, prepared := true } } := by
        simp [marked, SampleRun.setSlot, counted, place]
      rw [slotSet]
      subst own
      refine State.run?_setRun (s := State.setFlag _ _ _) (r := { counted with slots := _ }) (old := r.markLate slot.toNat) ?_
      rw [← found]
      exact State.run?_congr (congrArg Video.runs (State.setFlag_video _ _ _)) _ _
  case settles => exact exec_slotSettle list req place
  case waits => exact exec_slotSettle_waits list req place
  case bytes =>
    intro i a at_ m prepared takes inList inMask still ok apart j old bits slate readOld readBits
    have own : r.seq = seq := seq_of_listed list
    subst own
    obtain ⟨was, there⟩ := State.run?_of_listed list
    obtain ⟨host, slates, settled⟩ := State.settleSlot_said there takes inList inMask still x q slate
    obtain ⟨entry, count, mask⟩ := SampleRun.hostSettled_reads inList inMask apart x q (State.wf_of_memOk ok).1
    obtain rfl := ReadAns.ok.inj ((State.readVA_host (SampleRun.entry_inHost inList) (by decide) s a).symm.trans readOld)
    obtain rfl := ReadAns.ok.inj ((State.readVA_host inMask (by decide) s a).symm.trans readBits)
    refine ⟨_, exec_slotSettle list req place prepared, ?_, ?_, ⟨BitVec.ofNat 8 (x.maskByte (leNat (s.mem.host.readN (r.maskAt % 2 ^ 52) 1)) (r.settled % 8)), ?_, ?_⟩, slates, settled⟩
    · refine (State.readVA_host (SampleRun.entry_inHost inList) (by decide) _ a).trans ?_
      rw [host, entry]
    · refine (State.readVA_host (SampleRun.count_inHost inList) (by decide) _ a).trans ?_
      rw [host, count]
    · refine (State.readVA_host inMask (by decide) _ a).trans ?_
      rw [host]
      exact congrArg ReadAns.ok mask
    · have byte : leNat (s.mem.host.readN (r.maskAt % 2 ^ 52) 1) < 256 := leNat_readN_one_lt _ _
      have whole : (BitVec.ofNat 8 (x.maskByte (leNat (s.mem.host.readN (r.maskAt % 2 ^ 52) 1)) (r.settled % 8))).toNat =
          x.maskByte (leNat (s.mem.host.readN (r.maskAt % 2 ^ 52) 1)) (r.settled % 8) :=
        Nat.mod_eq_of_lt (x.maskByte_lt byte (Nat.mod_lt _ (by decide)))
      simp only [whole, bitOf, SampleSlot.testBit_maskByte]
      exact ⟨if_pos rfl, fun b other => if_neg other⟩
  case insert =>
    intro i named
    obtain ⟨frame, inserts, held, room⟩ := State.rushInsert_said { s with
      video := { s.video with rush := { s.video.rush with inserts := s.video.rush.inserts.eraseIdx ix.toNat } } } i
    exact ⟨_, exec_rushInsertDone named, frame, inserts, held, room⟩
  case drop =>
    intro takes idle v drop
    exact ⟨⟨_, if_pos takes, State.rushCtl_said idle true (fun _ => rfl)⟩, ⟨_, if_pos takes, State.rushCtl_said idle false (fun _ => rfl)⟩⟩

end Sys2Proof.Machine
end

section
/-! What the end of a command leaves of the streams: its contexts and the engines (O53). -/

namespace Sys2Proof.Machine

/-! ### What a command gives up (R324, R348) -/

theorem State.reapReel_video (s : State) (i : Nat) : (s.reapReel i).video = s.video := by
  unfold State.reapReel
  extract_lets r s1
  split <;> rfl

theorem State.dropReel_video (s : State) (i : Nat) : (s.dropReel i).video = s.video := by
  unfold State.dropReel
  extract_lets r
  split
  · rfl
  · exact State.reapReel_video _ i

/-- Steps that each leave video ingest alone leave it alone. -/
theorem foldl_video {α : Type} {f : State → α → State} (keeps : ∀ t a, (f t a).video = t.video) (l : List α) (s : State) :
    (l.foldl f s).video = s.video :=
  List.foldlRecOn (motive := fun (t : State) => t.video = s.video) l f rfl fun t kept a _ => (keeps t a).trans kept

theorem State.dropChunks_video (s : State) (seq : Word) : (s.dropChunks seq).video = s.video := by
  unfold State.dropChunks
  extract_lets cs _ s1 is s2 due
  have returned : s2.video = s.video := by
    refine foldl_video (fun t i => ?_) is s1
    dsimp only
    split
    · rfl
    · split <;> rfl
  exact (foldl_video (fun t i => t.dropReel_video i) due _).trans returned

theorem State.dropTakes_video (s : State) (l : List Nat) : (s.dropTakes l).video = s.video := by
  refine foldl_video (fun t i => ?_) l s
  dsimp only
  split <;> rfl

/-- A command's work given up leaves every context and engine. -/
theorem State.stopWork_streams (s : State) (seq : Word) (c : Cmd) :
    (s.stopWork seq c).video.ctxs = s.video.ctxs ∧ (s.stopWork seq c).video.engines = s.video.engines := by
  have same : ((((s.dropKernels seq).dropReqs seq).dropChunks seq).dropTakes c.takes).video = s.video := by
    rw [State.dropTakes_video, State.dropChunks_video, (State.dropReqs_slated _ seq).video]
    rfl
  have ctxs := congrArg Video.ctxs same
  have engines := congrArg Video.engines same
  exact ⟨ctxs, engines⟩

theorem State.writeVA_video {s t : State} {a : Acc} {va : Nat} {bs : List Byte} {poisoned : Bool}
    (stored : s.writeVA a va bs poisoned = some t) : t.video = s.video := by
  have touched := State.writeVA_access s a va bs poisoned (Access.refl s)
  rw [stored] at touched
  exact touched.video

theorem State.dmaRecord_video (s : State) (e c : Nat) (d : DmaDesc) (st : Status) (cancelled : Bool) :
    (s.dmaRecord e c d st cancelled).video = s.video := by
  unfold State.dmaRecord
  extract_lets g n
  split
  · rfl
  · split
    · rfl
    · rename_i stored
      exact (State.setEng_video _ _ _).trans (State.writeVA_video stored)

theorem State.cancelDma_video (s : State) (mine : DmaDesc → Bool) (st : Status) : (s.cancelDma mine st).video = s.video := by
  unfold State.cancelDma
  extract_lets gone _ s1
  refine (foldl_video (fun t g => ?_) gone s1).trans rfl
  split
  · exact State.dmaRecord_video _ _ _ _ _ _
  · rfl

theorem State.writeExt_video (s : State) (seq : Word) (c : Cmd) : (s.writeExt seq c).1.video = s.video := by
  unfold State.writeExt
  split
  · rfl
  · extract_lets va
    split
    · rename_i stored
      exact State.writeVA_video stored
    · rfl

/-- A command's end leaves every context and engine. -/
theorem State.finish_streams (s : State) (seq : Word) (st : Status) (res : List Byte) :
    (s.finish seq st res).video.ctxs = s.video.ctxs ∧ (s.finish seq st res).video.engines = s.video.engines := by
  unfold State.finish
  split
  · exact ⟨rfl, rfl⟩
  · rename_i c _
    split
    · exact ⟨rfl, rfl⟩
    · have extended := (((s.stopWork seq c).cancelDma (fun d => d.seq == seq) st).writeExt_video seq c).trans
        (State.cancelDma_video _ _ _)
      obtain ⟨ctxs, engines⟩ := s.stopWork_streams seq c
      revert extended
      generalize ((s.stopWork seq c).cancelDma (fun d => d.seq == seq) st).writeExt seq c = p
      obtain ⟨u, ext⟩ := p
      intro (extended : u.video = _)
      dsimp only
      split
      · exact ⟨(congrArg Video.ctxs extended).trans ctxs, (congrArg Video.engines extended).trans engines⟩
      · exact ⟨(congrArg Video.ctxs extended).trans ctxs, (congrArg Video.engines extended).trans engines⟩

theorem State.ctx_finish (s : State) (seq : Word) (st : Status) (res : List Byte) (k : Nat) : (s.finish seq st res).ctx k = s.ctx k :=
  State.ctx_congr (s.finish_streams seq st res).1 k

end Sys2Proof.Machine
end

section
/-! What a decoded or abandoned frame leaves of its stream where no sample list is in progress (O53). -/

namespace Sys2Proof.Machine

/-! ### What a step of the decoder leaves alone -/

/-- Sample lists, the clock and the reports are the same. -/
structure ListsKept (s t : State) : Prop where
  runs : t.video.runs = s.video.runs
  nowUs : t.nowUs = s.nowUs
  flt_base : t.flt.base = s.flt.base

theorem ListsKept.refl (s : State) : ListsKept s s := ⟨rfl, rfl, rfl⟩

theorem ListsKept.trans {s t u : State} (first : ListsKept s t) (later : ListsKept t u) : ListsKept s u :=
  ⟨later.runs.trans first.runs, later.nowUs.trans first.nowUs, later.flt_base.trans first.flt_base⟩

theorem Access.listsKept {s t : State} (touched : Access s t) : ListsKept s t :=
  ⟨congrArg Video.runs touched.video, touched.nowUs, touched.flt_base⟩

theorem EnginesOnly.listsKept {s t : State} (only : EnginesOnly s t) : ListsKept s t := by
  rw [only.frame]
  exact ⟨rfl, rfl, rfl⟩

theorem State.ctx_setCtx_same (s : State) (c : Nat) (x : StreamCtx) : (s.setCtx c x).ctx c = x := Tab.at_put_same _ _ _ _

/-- A context written into a state that accesses to memory have led to. -/
theorem Access.setCtx {s t : State} (touched : Access s t) (c : Nat) (x : StreamCtx) :
    ListsKept s (t.setCtx c x) ∧ (t.setCtx c x).video.engines = s.video.engines :=
  ⟨touched.listsKept.trans ⟨rfl, rfl, rfl⟩, (congrArg Video.engines touched.video :)⟩

theorem State.ringWrite_access (s : State) (ring n slot prod : Nat) (bs : List Byte) : AccessOpt s (s.ringWrite ring n slot prod bs) := by
  unfold State.ringWrite
  split
  · exact accessOpt_none s
  · rename_i t stored
    exact State.writeVA_access _ _ _ _ _ ((State.writeVA_access s _ _ _ _ (Access.refl s)).get stored)

/-- An entry of a stream's error ring moves the ring's index or counts a drop, no more (R471). -/
theorem State.errorEntry_said (s : State) (c frame : Nat) (d : Damage) :
    (∃ dropped prod, (s.errorEntry c frame d).ctx c = { s.ctx c with dropped := dropped, errProd := prod }) ∧
      ListsKept s (s.errorEntry c frame d) ∧ (s.errorEntry c frame d).video.engines = s.video.engines := by
  have same : ∃ dropped prod, s.ctx c = { s.ctx c with dropped := dropped, errProd := prod } := ⟨(s.ctx c).dropped, (s.ctx c).errProd, rfl⟩
  unfold State.errorEntry
  extract_lets x ring n bs drop
  split
  · exact ⟨same, .refl s, rfl⟩
  · split
    · exact ⟨⟨_, _, State.ctx_setCtx_same _ _ _⟩, (Access.refl s).setCtx c _⟩
    · split
      · rename_i t stored
        exact ⟨⟨_, _, State.ctx_setCtx_same _ _ _⟩, ((s.ringWrite_access _ _ _ _ _).get stored).setCtx c _⟩
      · exact ⟨⟨_, _, State.ctx_setCtx_same _ _ _⟩, (Access.refl s).setCtx c _⟩

/-! ### A frame counted (R455 to R457, R461) -/

/-- A context that has decoded a frame for `us` µs: what AFTER_FRAME counts of it, `total` the end of its bitstream. -/
def StreamCtx.counted (x : StreamCtx) (us : Nat) (shown rap damaged : Bool) (consumed : Nat) (total : Option Nat) : StreamCtx :=
  { x with
    frames := x.frames + 1, damaged := x.damaged + b2n damaged, times := us :: x.times.take 63
    raps := if rap && !x.raps.any (fun r => r.1 == x.next) then x.raps ++ [(x.next, x.pos)] else x.raps
    next := x.next + b2n shown, pos := x.pos + consumed, consumed := max x.consumed (x.pos + consumed), total := total }

theorem State.afterFrame_said (s : State) (c e : Nat) (shown rap damaged : Bool) (consumed : Nat) :
    (∃ total, (s.afterFrame c e shown rap damaged consumed).ctx c =
      (s.ctx c).counted (s.nowUs - (s.dec e).startUs) shown rap damaged consumed total) ∧
    ((s.afterFrame c e shown rap damaged consumed).dec e).frames = (s.dec e).frames + 1 ∧
    ListsKept s (s.afterFrame c e shown rap damaged consumed) := by
  unfold State.afterFrame
  extract_lets x v pos b next x' s1 s2 s3 prod
  have counted : Access s1 s3 := by
    have first : Access s1 s2 := State.bump_access _ _ _ _ (Access.refl s1)
    rw [show s3 = if damaged = true then s2.bump .io 0x143 1 else s2 from rfl]
    split
    · exact State.bump_access _ _ _ _ first
    · exact first
  have stored : Access s1 (if prod = 0 then s3 else s3.storeVA {} (prod + 8) (leBytes 8 x'.consumed)) := by
    split
    · exact counted
    · exact State.storeVA_access _ _ _ _ counted
  refine ⟨⟨x'.total, ?_⟩, ?_, ListsKept.trans (t := s1) ⟨rfl, rfl, rfl⟩ stored.listsKept⟩
  · rw [State.ctx_congr (congrArg Video.ctxs stored.video)]
    exact State.ctx_setCtx_same _ _ _
  · rw [State.dec, stored.video]
    exact congrArg Engine.frames (Tab.at_put_same _ _ _ _)

/-! ### A frame given to those who want it (R455, R456, R468) -/

/-- Nobody waits for a frame while no list is in progress. -/
theorem State.wanting_of_no_runs {s : State} (idle : s.video.runs = []) (id : Nat) : s.wanting id = [] := by
  rw [State.wanting, idle]
  rfl

theorem State.deliverPicture_said {s : State} (idle : s.video.runs = []) (c : Nat) (pic : Picture) :
    (∃ store, (s.deliverPicture c pic).ctx c = { s.ctx c with last := some pic, store := store }) ∧
      ListsKept s (s.deliverPicture c pic) ∧ (s.deliverPicture c pic).video.engines = s.video.engines := by
  unfold State.deliverPicture
  extract_lets x id wanted ahead x'
  have unwanted : wanted = false := by
    rw [show wanted = (s.wanting id).any (fun w => w.2.2.2.frame == pic.frame) from rfl, State.wanting_of_no_runs idle]
    rfl
  rw [if_neg (by rw [unwanted]; exact Bool.false_ne_true)]
  split
  · exact ⟨⟨_, State.ctx_setCtx_same _ _ _⟩, (Access.refl s).setCtx c _⟩
  · have counted : Access (s.setCtx c x') ((s.setCtx c x').bump .io 0x141 1) := State.bump_access _ _ _ _ (Access.refl _)
    refine ⟨⟨x'.store, ?_⟩, ListsKept.trans (t := s.setCtx c x') ⟨rfl, rfl, rfl⟩ counted.listsKept, (congrArg Video.engines counted.video :)⟩
    rw [State.ctx_congr (congrArg Video.ctxs counted.video)]
    exact State.ctx_setCtx_same _ _ _

/-- A frame's outcome: its picture delivered, or its requests given up with a kind of damage (R468, R470). -/
def State.giveFrame (s : State) (c frame kind : Nat) (id : Nat) : Option Picture → State
  | some pic => s.deliverPicture c pic
  | none => (s.wanting id).foldl (fun (s : State) (w : Word × Nat × Nat × SampleReq) => if w.2.2.2.frame = frame then s.hopeless w kind else s) s

theorem State.giveFrame_said {s : State} (idle : s.video.runs = []) (c frame kind id : Nat) (out : Option Picture) :
    (∃ last store, (s.giveFrame c frame kind id out).ctx c = { s.ctx c with last := last, store := store } ∧ ∀ p, out = some p → last = some p) ∧
      ListsKept s (s.giveFrame c frame kind id out) ∧ (s.giveFrame c frame kind id out).video.engines = s.video.engines := by
  cases out with
  | some pic =>
    obtain ⟨⟨store, ctx⟩, kept⟩ := State.deliverPicture_said idle c pic
    exact ⟨⟨some pic, store, ctx, fun _ same => same⟩, kept⟩
  | none =>
    rw [State.giveFrame, State.wanting_of_no_runs idle]
    exact ⟨⟨(s.ctx c).last, (s.ctx c).store, rfl, fun _ none => nomatch none⟩, .refl s, rfl⟩

theorem State.pastEnd_of_no_runs {s : State} (idle : s.video.runs = []) (c : Nat) : s.pastEnd c = s := by
  unfold State.pastEnd
  extract_lets x
  split
  · rfl
  · rw [State.wanting_of_no_runs idle]
    rfl

/-! ### The engines' next frames -/

/-- While no list is in progress an engine goes on with the frame its context is at. -/
theorem State.demand_of_no_runs {s : State} (idle : s.video.runs = []) {c order f : Nat} (wants : s.demand c = some (order, f)) :
    f = (s.ctx c).next := by
  simp only [State.demand, State.wanting_of_no_runs idle, leastBy] at wants
  split at wants
  · exact ((Prod.mk.inj (Option.some.inj wants)).2).symm
  · exact nomatch wants

theorem leastBy_mem {α : Type} (f : α → Nat) {l : List α} {x : α} (least : leastBy f l = some x) : x ∈ l := by
  induction l generalizing x with
  | nil => exact nomatch least
  | cons y ys ih =>
    rw [leastBy] at least
    cases rest : leastBy f ys with
    | none =>
      rw [rest] at least
      exact Option.some.inj least ▸ List.mem_cons_self
    | some z =>
      rw [rest] at least
      dsimp only at least
      split at least
      · exact Option.some.inj least ▸ List.mem_cons_of_mem _ (ih rest)
      · exact Option.some.inj least ▸ List.mem_cons_self

/-- An engine's choice of a frame moves a context only back to a frame that is asked of it (R455, R456). -/
theorem State.engineNext_moves (s : State) (e k : Nat) :
    (s.engineNext e).ctx k = s.ctx k ∨ ∃ order f, s.demand k = some (order, f) ∧ f < (s.ctx k).next := by
  unfold State.engineNext
  extract_lets v cs ds
  split
  · exact .inl rfl
  · split
    · exact .inl rfl
    · rename_i c order f least
      obtain ⟨c', -, wants⟩ := List.mem_filterMap.mp (leastBy_mem _ least)
      obtain ⟨d, demands, same⟩ := Option.map_eq_some_iff.mp wants
      obtain ⟨rfl, rfl⟩ := Prod.mk.inj same
      extract_lets x s1 s2
      have video : s2.video = s1.video := by
        rw [show s2 = if v.ctx = c' then s1 else s1.bump .io 0x142 1 from rfl]
        split
        · rfl
        · exact State.bump_video _ _ _ _
      have counted : (s2.setDec e { v with busy := true, ctx := c', startUs := s2.nowUs }).ctx k = s1.ctx k :=
        State.ctx_congr (t := s2) (congrArg Video.ctxs video) k
      by_cases back : f < x.next
      · by_cases own : k = c'
        · exact .inr ⟨order, f, by rw [own]; exact demands, by rw [own]; exact back⟩
        · refine .inl (counted.trans ?_)
          rw [show s1 = s.setCtx c' { x with next := (x.seekTo f).1, pos := (x.seekTo f).2 } from if_pos back, State.ctx_setCtx, if_neg own]
      · exact .inl (counted.trans (congrArg (fun (t : State) => t.ctx k) (if_neg back)))

/-- While no list is in progress the engines' choice of frames moves no context. -/
theorem State.enginesNext_of_no_runs {s : State} (idle : s.video.runs = []) (k : Nat) : s.enginesNext.ctx k = s.ctx k := by
  refine (List.foldlRecOn (motive := fun (t : State) => t.video.runs = [] ∧ t.ctx k = s.ctx k) _ _ ⟨idle, rfl⟩
    fun t ⟨still, same⟩ e _ => ⟨(t.engineNext_only e).listsKept.runs.trans still, ?_⟩).2
  rcases t.engineNext_moves e k with stays | ⟨order, f, demands, back⟩
  · exact stays.trans same
  · rw [State.demand_of_no_runs still demands] at back
    exact absurd back (Nat.lt_irrefl _)

/-- A context that is not open asks for no frame. -/
theorem State.demand_of_closed {s : State} {c : Nat} (closed : (s.ctx c).state ≠ 1) : s.demand c = none := by
  unfold State.demand
  extract_lets x b ws
  split
  · extract_lets back
    exact if_neg fun opens => closed opens.1
  · exact if_neg fun opens => closed opens.1

/-- The engines' choice of frames moves no context that is not open. -/
theorem State.enginesNext_of_closed {s : State} {k : Nat} (closed : (s.ctx k).state ≠ 1) : s.enginesNext.ctx k = s.ctx k := by
  refine List.foldlRecOn (motive := fun (t : State) => t.ctx k = s.ctx k) _ _ rfl fun t same e _ => ?_
  rcases t.engineNext_moves e k with stays | ⟨order, f, demands, -⟩
  · exact stays.trans same
  · rw [State.demand_of_closed (by rwa [same])] at demands
    exact nomatch demands

end Sys2Proof.Machine
end

section
/-! FRAME_DECODED, DECODE_ABANDON and DECODE_HANG (R449, R455 to R457, R470, R620), and the producer of a bitstream (R461) (O53). -/

namespace Sys2Proof.Machine

/-! ### A frame at its end -/

/-- A frame's damage entered where it has any. -/
def State.enterDamage (s : State) (c frame : Nat) : Option Damage → State
  | some d => s.errorEntry c frame d
  | none => s

/-- The state after an engine's frame: its damage entered, the frame counted, its outcome given, the engines' next frames chosen. -/
def State.endFrame (s : State) (c e frame kind id : Nat) (noted : Option Damage) (shown rap : Bool) (n : Nat) (out : Option Picture) : State :=
  let s := s.enterDamage c frame noted
  let s := s.afterFrame c e shown rap noted.isSome n
  let s := if !shown then s.bump .io 0x141 1 else s.giveFrame c frame kind id out
  (s.pastEnd c).enginesNext

section
variable (s : State) (c e frame kind id : Nat) (rap : Bool) (n : Nat) (pic : Picture)

theorem State.endFrame_delivers : s.endFrame c e frame kind id none true rap n (some pic) =
    (((s.afterFrame c e true rap false n).deliverPicture c pic).pastEnd c).enginesNext := by
  simp [State.endFrame, State.enterDamage, State.giveFrame]

theorem State.endFrame_hides : s.endFrame c e frame kind id none false rap n (some pic) =
    (((s.afterFrame c e false rap false n).bump .io 0x141 1).pastEnd c).enginesNext := by
  simp [State.endFrame, State.enterDamage]

theorem State.endFrame_conceals (d : Damage) : s.endFrame c e frame kind id (some d) true rap n (some pic) =
    ((((s.errorEntry c frame d).afterFrame c e true rap true n).deliverPicture c pic).pastEnd c).enginesNext := by
  simp [State.endFrame, State.enterDamage, State.giveFrame]

end

/-- What the end of a frame leaves while no sample list is in progress (R457, R461, R470). -/
theorem State.endFrame_said {s : State} (idle : s.video.runs = []) (c e frame kind id : Nat) (noted : Option Damage) (shown rap : Bool)
    (n : Nat) (out : Option Picture) :
    (∃ dropped prod total last store, (s.endFrame c e frame kind id noted shown rap n out).ctx c =
      { (({ s.ctx c with dropped := dropped, errProd := prod } : StreamCtx).counted (s.nowUs - (s.dec e).startUs) shown rap noted.isSome n total) with
        last := last, store := store } ∧ (shown = true → ∀ p, out = some p → last = some p)) ∧
    ((s.endFrame c e frame kind id noted shown rap n out).dec e).frames = (s.dec e).frames + 1 ∧
    (s.endFrame c e frame kind id noted shown rap n out).flt.base = s.flt.base := by
  unfold State.endFrame
  extract_lets s1 s2 s3
  have entered : (∃ dropped prod, s1.ctx c = { s.ctx c with dropped := dropped, errProd := prod }) ∧ ListsKept s s1 ∧
      s1.video.engines = s.video.engines := by
    rw [show s1 = s.enterDamage c frame noted from rfl]
    cases noted with
    | some d => exact State.errorEntry_said s c frame d
    | none => exact ⟨⟨(s.ctx c).dropped, (s.ctx c).errProd, rfl⟩, .refl s, rfl⟩
  obtain ⟨⟨dropped, prod, ctx1⟩, kept1, engines1⟩ := entered
  obtain ⟨⟨total, ctx2⟩, frames2, kept2⟩ := s1.afterFrame_said c e shown rap noted.isSome n
  have idle2 : s2.video.runs = [] := kept2.runs.trans (kept1.runs.trans idle)
  have given : (∃ last store, s3.ctx c = { s2.ctx c with last := last, store := store } ∧
      (shown = true → ∀ p, out = some p → last = some p)) ∧ ListsKept s2 s3 ∧ s3.video.engines = s2.video.engines := by
    rw [show s3 = if !shown then s2.bump .io 0x141 1 else s2.giveFrame c frame kind id out from rfl]
    cases shown with
    | false =>
      have counted : Access s2 (s2.bump .io 0x141 1) := State.bump_access _ _ _ _ (Access.refl s2)
      exact ⟨⟨(s2.ctx c).last, (s2.ctx c).store, State.ctx_congr (congrArg Video.ctxs counted.video) c, fun h => nomatch h⟩,
        counted.listsKept, (congrArg Video.engines counted.video :)⟩
    | true =>
      obtain ⟨⟨last, store, ctx, kept⟩, rest⟩ := State.giveFrame_said idle2 c frame kind id out
      exact ⟨⟨last, store, ctx, fun _ => kept⟩, rest⟩
  obtain ⟨⟨last, store, ctx3, shows⟩, kept3, engines3⟩ := given
  have idle3 : s3.video.runs = [] := kept3.runs.trans idle2
  have dec : ∀ {a b : State}, b.video.engines = a.video.engines → b.dec e = a.dec e := fun same => by rw [State.dec, same, State.dec]
  rw [State.pastEnd_of_no_runs idle3, State.enginesNext_of_no_runs idle3]
  refine ⟨⟨dropped, prod, total, last, store, ?_, shows⟩, ?_, ?_⟩
  · rw [ctx3, ctx2, ctx1, kept1.nowUs, dec engines1]
  · rw [(s3.enginesNext_only).frames, dec engines3]
    exact frames2.trans (by rw [dec engines1])
  · exact s3.enginesNext_only.listsKept.flt_base.trans (kept3.flt_base.trans (kept2.flt_base.trans kept1.flt_base))

/-! ### FRAME_DECODED -/

/-- The damage FRAME_DECODED enters where it enters any. -/
def StreamCtx.damageOf (x : StreamCtx) (f : DecodedFrame) : Damage :=
  match (x.outcome f).bind Picture.damage with
  | some d => d
  | none => { kind := 4, byte := x.pos, bx := 0, by_ := 0, blocks := 0 }

/-- The damage a decoded frame is entered with, where its frame is lost, damaged or without a picture (R468, R470, R471). -/
def StreamCtx.noted (x : StreamCtx) (f : DecodedFrame) : Option Damage :=
  if f.lost || f.damage.isSome || (x.outcome f).isNone then
    some (x.damageOf f)
  else none

theorem StreamCtx.noted_isSome (x : StreamCtx) (f : DecodedFrame) :
    (x.noted f).isSome = (f.lost || f.damage.isSome || (x.outcome f).isNone) := by
  unfold StreamCtx.noted
  split
  · rename_i bad
    rw [bad]
    rfl
  · rename_i good
    rw [Bool.eq_false_iff.mpr good]
    rfl

theorem StreamCtx.enter_noted (x : StreamCtx) (f : DecodedFrame) (s : State) (c frame : Nat) :
    s.enterDamage c frame (x.noted f) =
      if f.lost || f.damage.isSome || (x.outcome f).isNone then s.errorEntry c frame (x.damageOf f) else s := by
  unfold StreamCtx.noted
  split <;> rfl

section
variable {e : DecIx} {f : DecodedFrame} {s : State}

theorem exec_frameDecoded_idle (idle : (s.dec e.val).busy = false) : exec (.frameDecoded e f) s = .next s := by
  show execFrameDecoded e f s = _
  simp [execFrameDecoded, idle]

/-- The context an engine decodes. -/
def State.ctxAt (s : State) (e : DecIx) : StreamCtx := s.ctx (s.dec e.val).ctx

/-- The state with a frame's bits counted and the perturbation of its engine drawn (R633). -/
def State.frameSeen (s : State) (e : DecIx) (n : Nat) : State := ((s.countBits n).perturb 4 e.val).1

theorem State.frameSeen_access (s : State) (e : DecIx) (n : Nat) : Access s (s.frameSeen e n) :=
  State.perturb_access _ _ _ (State.bump_access _ _ _ _ (Access.refl s))

variable (busy : (s.dec e.val).busy = true) (opens : (s.ctxAt e).state = 1)
  (within : (s.ctxAt e).pos + f.consumed.toNat ≤ (s.bitstream (s.ctxAt e)).1)
include busy opens within

theorem execFrameDecoded_due : ¬ ((!(s.dec e.val).busy || (s.ctxAt e).state != 1 ||
    decide ((s.bitstream (s.ctxAt e)).1 < (s.ctxAt e).pos + f.consumed.toNat)) = true) := by
  simp [busy, opens, within]

theorem exec_frameDecoded_asks (unready : s.bitReady (s.ctxAt e) (s.ctxAt e).pos f.consumed.toNat = false) :
    exec (.frameDecoded e f) s = .next (s.askBits (s.ctxAt e) (s.ctxAt e).pos f.consumed.toNat) :=
  (if_neg (execFrameDecoded_due busy opens within)).trans (if_pos (by rw [← State.ctxAt, unready]; rfl))

variable (ready : s.bitReady (s.ctxAt e) (s.ctxAt e).pos f.consumed.toNat = true)
include ready

theorem exec_frameDecoded_unparsed (unparsed : s.parses (s.ctxAt e) f = false) : exec (.frameDecoded e f) s = .next s :=
  (if_neg (execFrameDecoded_due busy opens within)).trans
    ((if_neg (by rw [← State.ctxAt, ready]; exact Bool.false_ne_true)).trans (if_pos (by rw [← State.ctxAt, unparsed]; rfl)))

/-- A frame whose bytes have come and parse ends. -/
theorem exec_frameDecoded_ends (parses : s.parses (s.ctxAt e) f = true) :
    exec (.frameDecoded e f) s = .next ((s.frameSeen e f.consumed.toNat).endFrame (s.dec e.val).ctx e.val (s.ctxAt e).next 4
      ((s.dec e.val).ctx + 512 * (s.ctxAt e).gen.toNat) ((s.ctxAt e).noted f) f.shown f.rap f.consumed.toNat ((s.ctxAt e).outcome f)) := by
  refine (if_neg (execFrameDecoded_due busy opens within)).trans
    ((if_neg (by rw [← State.ctxAt, ready]; exact Bool.false_ne_true)).trans
      ((if_neg (by rw [← State.ctxAt, parses]; exact Bool.false_ne_true)).trans (congrArg Host.Outcome.next ?_)))
  unfold State.endFrame
  rw [(s.ctxAt e).noted_isSome f, StreamCtx.enter_noted]
  rfl

end

/-! ### Frames abandoned (R457, R620) -/

/-- The damage of a frame abandoned. -/
def StreamCtx.timeout (x : StreamCtx) (blocks : Nat) : Damage := { kind := 7, byte := x.pos, bx := 0, by_ := 0, blocks := blocks }

theorem State.abandon_eq (s : State) (e blocks : Nat) :
    s.abandon e blocks = s.endFrame (s.dec e).ctx e (s.ctx (s.dec e).ctx).next 7
      ((s.dec e).ctx + 512 * (s.ctx (s.dec e).ctx).gen.toNat) (some ((s.ctx (s.dec e).ctx).timeout blocks)) true false 0
      ((s.ctx (s.dec e).ctx).last.map (fun q => q.copyWhole (s.ctx (s.dec e).ctx).next ((s.ctx (s.dec e).ctx).timeout blocks))) := rfl

theorem FaultUnit.inFlight_of_base {a b : FaultUnit} (same : a.base = b.base) : a.inFlight = b.inFlight :=
  (congrArg FaultUnit.inFlight same :)

/-- What a frame abandoned leaves while no sample list is in progress (R457, R470). -/
theorem State.abandon_said {s : State} (idle : s.video.runs = []) (e blocks : Nat) :
    ((s.abandon e blocks).dec e).frames = (s.dec e).frames + 1 ∧ (s.abandon e blocks).flt.inFlight = s.flt.inFlight ∧
    let y := s.ctx (s.dec e).ctx
    let z := (s.abandon e blocks).ctx (s.dec e).ctx
    z.frames = y.frames + 1 ∧ z.damaged = y.damaged + 1 ∧ z.next = y.next + 1 ∧ z.pos = y.pos ∧
      ∀ p, y.last = some p → z.last = some (p.copyWhole y.next (y.timeout blocks)) := by
  rw [State.abandon_eq]
  obtain ⟨⟨dropped, prod, total, last, store, ctx, shows⟩, frames, base⟩ := State.endFrame_said idle (s.dec e).ctx e
    (s.ctx (s.dec e).ctx).next 7 ((s.dec e).ctx + 512 * (s.ctx (s.dec e).ctx).gen.toNat) (some ((s.ctx (s.dec e).ctx).timeout blocks)) true
    false 0 ((s.ctx (s.dec e).ctx).last.map (fun q => q.copyWhole (s.ctx (s.dec e).ctx).next ((s.ctx (s.dec e).ctx).timeout blocks)))
  refine ⟨frames, FaultUnit.inFlight_of_base base, ?_⟩
  dsimp only
  rw [ctx]
  exact ⟨rfl, rfl, rfl, rfl, fun p held => shows rfl _ (by rw [held]; rfl)⟩

/-- The same of a state whose streams are those of another. -/
theorem State.abandon_said_of_video {s t : State} (video : t.video = s.video) (idle : s.video.runs = []) (e blocks : Nat) :
    ((t.abandon e blocks).dec e).frames = (s.dec e).frames + 1 ∧ (t.abandon e blocks).flt.inFlight = t.flt.inFlight ∧
    let y := s.ctx (s.dec e).ctx
    let z := (t.abandon e blocks).ctx (s.dec e).ctx
    z.frames = y.frames + 1 ∧ z.damaged = y.damaged + 1 ∧ z.next = y.next + 1 ∧ z.pos = y.pos ∧
      ∀ p, y.last = some p → z.last = some (p.copyWhole y.next (y.timeout blocks)) := by
  have said := State.abandon_said (s := t) (by rw [video]; exact idle) e blocks
  rwa [show t.dec e = s.dec e by rw [State.dec, video, State.dec], State.ctx_congr (congrArg Video.ctxs video)] at said

theorem exec_decodeAbandon_idle {e : DecIx} {s : State} (idle : (s.dec e.val).busy = false) (blocks : Word) :
    exec (.decodeAbandon e blocks) s = .next s ∧ exec (.decodeHang e blocks) s = .next s :=
  ⟨if_neg fun due => by simp [idle] at due, if_neg (by simp [idle])⟩

theorem exec_decodeAbandon {e : DecIx} {s : State} (busy : (s.dec e.val).busy = true) (due : 100000 ≤ s.nowUs - (s.dec e.val).startUs)
    (blocks : Word) : exec (.decodeAbandon e blocks) s = .next (s.abandon e.val blocks.toNat) := if_pos ⟨busy, .inl due⟩

theorem exec_decodeHang {e : DecIx} {s : State} (busy : (s.dec e.val).busy = true) (blocks : Word) : exec (.decodeHang e blocks) s =
    .next ((s.report 0x19 (subjDec e.val) (subjDec e.val) 0xFFFFFFFF#32 0).abandon e.val blocks.toNat) := if_pos busy

/-! ### BITSTREAM_PRODUCER_ADVANCE (R461) -/

/-- A context after its producer's word is read again: the end of its bitstream met where the word marks it. -/
def State.advanced (s : State) (x : StreamCtx) : StreamCtx :=
  { x with total := if (s.bitstream x).2 && decide ((s.bitstream x).1 ≤ x.pos) then some x.next else x.total }

theorem exec_bitstreamProducerAdvance {x : StreamIx} {s : State} (opens : (s.ctx x.val).state = 1) :
    exec (.bitstreamProducerAdvance x) s = .next (((s.setCtx x.val (s.advanced (s.ctx x.val))).pastEnd x.val).enginesNext) :=
  if_neg (not_not_intro opens)

/-- While no sample list is in progress the new word changes its context alone, but for the engines' choice of frames. -/
theorem State.advance_said {s : State} (idle : s.video.runs = []) (c : Nat) (x : StreamCtx) :
    let t := ((s.setCtx c x).pastEnd c).enginesNext
    t.ctx c = x ∧ t.hbm = s.hbm ∧ t.mem = s.mem ∧ t.host = s.host ∧ t.cmds = s.cmds := by
  have idleThere : (s.setCtx c x).video.runs = [] := idle
  intro t
  have form : t = (s.setCtx c x).enginesNext := congrArg State.enginesNext (State.pastEnd_of_no_runs idleThere c)
  refine ⟨?_, ?_⟩
  · rw [form, State.enginesNext_of_no_runs idleThere, State.ctx_setCtx_same]
  · rw [form, (State.enginesNext_only _).frame]
    exact ⟨rfl, rfl, rfl, rfl⟩

end Sys2Proof.Machine
end

section
/-! OPEN_STREAM and CLOSE_STREAM (R454, R458 to R462), and what is said of streams (O53). -/

namespace Sys2Proof.Machine

/-! ### CLOSE_STREAM (R462) -/

/-- A context closed reads as after power-on but for its generation; records and completions are as they were (R462). -/
theorem State.closeCtx_said (s : State) (k : Nat) :
    (s.closeCtx k).ctx k = { gen := (s.ctx k).gen + 1 } ∧ (s.closeCtx k).host = s.host ∧ (s.closeCtx k).cmds = s.cmds := by
  unfold State.closeCtx
  extract_lets x b s1 s2 s3 v s4
  have returned : s2.host = s.host ∧ s2.cmds = s.cmds :=
    List.foldlRecOn (motive := fun (t : State) => t.host = s.host ∧ t.cmds = s.cmds) _ _ ⟨rfl, rfl⟩ fun _ kept _ _ => kept
  have closed : s3.ctx k = { gen := (s.ctx k).gen + 1 } := State.ctx_setCtx_same _ _ _
  have engine : s4.ctx k = s3.ctx k ∧ s4.host = s3.host ∧ s4.cmds = s3.cmds := by
    rw [show s4 = if v.busy ∧ v.ctx = k then s3.setDec x.engine { v with busy := false } else s3 from rfl]
    split <;> exact ⟨rfl, rfl, rfl⟩
  obtain ⟨ctx, host, cmds⟩ := engine
  refine ⟨?_, ?_, ?_⟩
  · rw [State.enginesNext_of_closed (by rw [ctx, closed]; exact Nat.zero_ne_one), ctx, closed]
  · rw [(s4.enginesNext_only).frame]
    exact host.trans returned.1
  · rw [(s4.enginesNext_only).frame]
    exact cmds.trans returned.2

section
variable {seq : Word} {s : State} {c : Cmd}

theorem exec_closeStream_stale (turn : s.turnOf seq 0x31 = some c) (stale : s.ctxOf (c.fieldN 24 2) = none) :
    exec (.closeStream seq) s = .next (s.finishBare seq .zeroExtent) := by
  show execCloseStream seq s = _
  simp [execCloseStream, turn, stale]

theorem exec_closeStream (turn : s.turnOf seq 0x31 = some c) {k : Nat} (live : s.ctxOf (c.fieldN 24 2) = some k) :
    exec (.closeStream seq) s = .next ((s.closeCtx k).finish seq .ok
      (resultOf [(4, (s.ctx k).frames.toNat), (4, (s.ctx k).damaged), (8, (s.ctx k).consumed)])) := by
  show execCloseStream seq s = _
  simp [execCloseStream, turn, live]

theorem closeStream_said (turn : s.turnOf seq 0x31 = some c) {k : Nat} (live : s.ctxOf (c.fieldN 24 2) = some k) :
    ∃ t, exec (.closeStream seq) s = .next t ∧
      s.ended t seq c .ok (resultOf [(4, (s.ctx k).frames.toNat), (4, (s.ctx k).damaged), (8, (s.ctx k).consumed)]) ∧
      t.ctx k = { gen := (s.ctx k).gen + 1 } := by
  obtain ⟨accepted, -, unrecorded⟩ := State.turnOf_some turn
  obtain ⟨ctx, host, cmds⟩ := s.closeCtx_said k
  exact ⟨_, exec_closeStream turn live, State.finish_ended_of_host host ((State.cmd?_congr cmds _).trans accepted) unrecorded _ _,
    (State.ctx_finish _ _ _ _ _).trans ctx⟩

end

/-! ### OPEN_STREAM (R454, R458 to R460) -/

/-- Pages drawn change the memory manager alone. -/
theorem State.drawPages_only {s t : State} {lg cls n : Nat} {pages : List Nat} (drawn : s.drawPages lg cls n = some (pages, t)) :
    t = { s with mem := t.mem } := by
  induction n generalizing s pages with
  | zero => exact (Prod.mk.inj (Option.some.inj drawn)).2 ▸ rfl
  | succ n ih =>
    rw [State.drawPages] at drawn
    split at drawn
    · exact nomatch drawn
    · rename_i b s1 page
      have first : s1 = { s with mem := s1.mem } := by
        unfold State.drawPage at page
        split at page
        · exact nomatch page
        · split at page
          · exact nomatch page
          · obtain ⟨-, rfl⟩ := Prod.mk.inj (Option.some.inj page)
            rfl
      split at drawn
      · exact nomatch drawn
      · rename_i bs s2 rest
        obtain ⟨-, rfl⟩ := Prod.mk.inj (Option.some.inj drawn)
        have later := ih rest
        rw [first] at later
        exact later

/-- A context as OPEN_STREAM sets it (R454, R458, R460). -/
def opened (gen : BitVec 7) (d : List Byte) (cls e fromRes : Nat) (pages : List Nat) : StreamCtx :=
  { state := 1, gen := gen, desc := d, engine := e, cls := cls, gateThr := BitVec.ofNat 32 (recField d 52 4) &&& 0xFF3FFFFF
    gateCtl := BitVec.ofNat 32 (recField d 56 4 % 4), reserve := fromRes, pages := pages }

/-- A ring's producer index written, where there is a ring (R460, R471). -/
def State.startRing (s : State) (seq : Word) (at_ slot : Nat) : State :=
  if at_ = 0 then s else s.storeVA (accOf seq) (at_ + 8) (leBytes 4 slot)

theorem State.startRing_access {s t : State} (before : Access s t) (seq : Word) (at_ slot : Nat) :
    Access s (t.startRing seq at_ slot) := by
  unfold State.startRing
  split
  · exact before
  · exact State.storeVA_access _ _ _ _ before

/-- The state with a context opened, before its command ends (R446, R458, R460). -/
def State.openAt (s : State) (seq : Word) (d : List Byte) (k : Nat) (x : StreamCtx) : State :=
  (((s.setCtx k x).startRing seq (recField d 40 8) (mapSlot x.prep.ow x.prep.oh)).startRing seq (recField d 128 8) 32).flushMail
    (4 * (recField d 34 1 % 32) + b2n (bitOf (recField d 34 1) 5))

theorem State.openAt_said (s : State) (seq : Word) (d : List Byte) (k : Nat) (x : StreamCtx) :
    (s.openAt seq d k x).ctx k = x ∧ (s.openAt seq d k x).host = s.host ∧ (s.openAt seq d k x).cmds = s.cmds := by
  have rings := State.startRing_access (State.startRing_access (Access.refl (s.setCtx k x)) seq (recField d 40 8) (mapSlot x.prep.ow x.prep.oh))
    seq (recField d 128 8) 32
  exact ⟨(State.ctx_congr (congrArg Video.ctxs rings.video) k).trans (State.ctx_setCtx_same _ _ _), rings.host, rings.cmds⟩

theorem State.enterStream_eq (u s' : State) (seq : Word) (cls : Nat) (d : List Byte) (k e fromRes : Nat) (pages : List Nat) :
    u.enterStream seq cls d k e fromRes (some (pages, s')) =
      ((s'.openAt seq d k (opened (s'.ctx k).gen d cls e fromRes pages)).finish seq .ok
        (resultOf [(2, k + 512 * (s'.ctx k).gen.toNat), (1, e)])).enginesNext := rfl

/-- A stream entered: its context, and the record its command ends with (R454, R458, R460). -/
theorem State.enterStream_said {u s' : State} {seq : Word} {c : Cmd} (accepted : u.cmd? seq = some c) (unrecorded : c.phase ≠ .recorded)
    (cls : Nat) (d : List Byte) (k e fromRes : Nat) (pages : List Nat) (drawn : s' = { u with mem := s'.mem }) :
    ∃ next pos r, (u.enterStream seq cls d k e fromRes (some (pages, s'))).ctx k =
        { opened (u.ctx k).gen d cls e fromRes pages with next := next, pos := pos } ∧
      (u.enterStream seq cls d k e fromRes (some (pages, s'))).host.cpls = u.host.cpls ++ [r] ∧
      r.answers seq c .ok (resultOf [(2, k + 512 * (u.ctx k).gen.toNat), (1, e)]) := by
  have start : s'.ctx k = u.ctx k ∧ s'.host = u.host ∧ s'.cmds = u.cmds := by
    rw [drawn]
    exact ⟨rfl, rfl, rfl⟩
  obtain ⟨sameCtx, sameHost, sameCmds⟩ := start
  rw [State.enterStream_eq, sameCtx]
  obtain ⟨ctx, host, cmds⟩ := s'.openAt_said seq d k (opened (u.ctx k).gen d cls e fromRes pages)
  generalize s'.openAt seq d k (opened (u.ctx k).gen d cls e fromRes pages) = v at ctx host cmds
  have acceptedThere : v.cmd? seq = some c := (State.cmd?_congr (cmds.trans sameCmds) seq).trans accepted
  obtain ⟨⟨r, recs, answers⟩, -⟩ := State.finish_ended acceptedThere unrecorded .ok (resultOf [(2, k + 512 * (u.ctx k).gen.toNat), (1, e)])
  have only := (v.finish seq .ok (resultOf [(2, k + 512 * (u.ctx k).gen.toNat), (1, e)])).enginesNext_only
  have moved := only.ctx k
  rw [State.ctx_finish, ctx] at moved
  refine ⟨_, _, r, moved, ?_, answers⟩
  rw [only.frame]
  exact recs.trans (by rw [host, sameHost])

/-- OPEN_STREAM refused after its descriptor is read. -/
theorem openStream_refused {seq : Word} {s u : State} {c : Cmd} (turn : s.turnOf seq 0x30 = some c) (touched : Access s u) {st : Status}
    (refused : exec (.openStream seq) s = .next (u.finishBare seq st)) :
    ∃ t, exec (.openStream seq) s = .next t ∧ s.ended t seq c st [] := by
  obtain ⟨accepted, -, unrecorded⟩ := State.turnOf_some turn
  exact ⟨_, refused, (State.finish_after_access touched accepted unrecorded st []).1⟩

section
variable {seq : Word} {s : State} {c : Cmd} (turn : s.turnOf seq 0x30 = some c)
  (good : s.firstOwnBad seq [⟨c.fieldN 24 8, 256, false, 1⟩] = none) (ready : s.peerReady (accOf seq) (c.fieldN 24 8) 256 = true)
  {d : List Byte} (read : s.readVA (accOf seq) (c.fieldN 24 8) 256 = .ok d)
include turn good ready read

/-- The state after OPEN_STREAM has read its descriptor. -/
theorem exec_openStream : exec (.openStream seq) s = .next (
    let u := (s.touchVA (accOf seq) (c.fieldN 24 8) 256).usePeers (accOf seq) (c.fieldN 24 8) 256
    if streamBad d then u.finishBare seq .shapeOver
    else if (parsePrep (slice d 64 64)).fmt.isNone then u.finishBare seq .rejectedFormat
    else u.openCtx seq c.cls d) := by
  show execOpenStream seq s = _
  simp only [execOpenStream, turn, good, State.readFor_ok ready read]

end

/-! ### O53 -/

theorem State.frameSeen_congr (s : State) (e : DecIx) (n : Nat) :
    (∀ k, (s.frameSeen e n).ctx k = s.ctx k) ∧ (∀ k, (s.frameSeen e n).dec k = s.dec k) ∧
      (s.frameSeen e n).video.runs = s.video.runs ∧ (s.frameSeen e n).nowUs = s.nowUs := by
  have seen := s.frameSeen_access e n
  exact ⟨fun k => State.ctx_congr (congrArg Video.ctxs seen.video) k, fun k => by rw [State.dec, seen.video, State.dec],
    congrArg Video.runs seen.video, seen.nowUs⟩

/-- Settles O53: the commands by the contexts and engines they change (the lowest free context and the picture store's size are log
entry 31's choice, a closed context's values log entry 131's), a frame's end and its giving up through what each step counts. -/
theorem streamsDecode : Obligations.StreamsDecode := by
  unfold Obligations.StreamsDecode
  intro seq blocks e x f s c d
  refine ⟨?opens, ?closes, ?decodes, ?advances, ?givesUp⟩
  case opens =>
    intro turn a good ready read u n fromRes
    have does : exec (.openStream seq) s = .next (if streamBad d then u.finishBare seq .shapeOver
      else if (parsePrep (slice d 64 64)).fmt.isNone then u.finishBare seq .rejectedFormat
      else u.openCtx seq c.cls d) := exec_openStream turn good ready read
    have touched : Access s u := s.read_access (accOf seq) a 256
    clear_value u
    refine ⟨fun bad => openStream_refused turn touched (does.trans (congrArg Host.Outcome.next (if_pos bad))),
      fun fine unknown => openStream_refused turn touched (does.trans (congrArg Host.Outcome.next
        ((if_neg (by rw [fine]; exact Bool.false_ne_true)).trans (if_pos (by rw [unknown]; rfl))))),
      fun fine known => ?_⟩
    replace does : exec (.openStream seq) s = .next (u.openCtx seq c.cls d) := does.trans (congrArg Host.Outcome.next
      ((if_neg (by rw [fine]; exact Bool.false_ne_true)).trans (if_neg fun none => known (Option.isNone_iff_eq_none.mp none))))
    refine ⟨fun full => openStream_refused turn touched (does.trans (congrArg Host.Outcome.next ?_)), fun k g free engine => ?_⟩
    · rcases full with noContext | noEngine
      · simp only [State.openCtx, noContext]
      · simp only [State.openCtx, noEngine]
        cases firstFrom (fun i => (u.ctx i).state == 0) 512 0 <;> rfl
    · replace does : exec (.openStream seq) s = .next (u.enterStream seq c.cls d k g fromRes (u.drawPages picLg c.cls (n - fromRes))) :=
        does.trans (congrArg Host.Outcome.next (by simp only [State.openCtx, free, engine]; rfl))
      refine ⟨fun none => openStream_refused turn touched (does.trans (by rw [none]; rfl)), fun p drawn => ?_⟩
      obtain ⟨accepted, -, unrecorded⟩ := State.turnOf_some turn
      obtain ⟨pages, s'⟩ := p
      obtain ⟨next, pos, r, ctx, recs, answers⟩ := State.enterStream_said ((State.cmd?_congr touched.cmds seq).trans accepted) unrecorded
        c.cls d k g fromRes pages (State.drawPages_only drawn)
      rw [drawn] at does
      refine ⟨_, r, does, rfl, ?_, ?_, ?_, ?_, ?_, recs.trans ?_, answers⟩
      · rw [ctx]
        rfl
      · rw [ctx]
        rfl
      · rw [ctx]
        rfl
      · rw [ctx]
        rfl
      · rw [ctx]
        rfl
      · rw [touched.host]
  case closes =>
    intro turn
    obtain ⟨accepted, -, unrecorded⟩ := State.turnOf_some turn
    exact ⟨fun stale => ⟨_, exec_closeStream_stale turn stale, State.finish_ended accepted unrecorded _ _⟩,
      fun k live => closeStream_said turn live⟩
  case decodes =>
    intro v k y n u
    refine ⟨exec_frameDecoded_idle, fun busy opens within => ⟨exec_frameDecoded_asks busy opens within,
      exec_frameDecoded_unparsed busy opens within, fun ready parses => ?_⟩⟩
    have does : exec (.frameDecoded e f) s = .next (u.endFrame k e.val y.next 4 (k + 512 * y.gen.toNat) (y.noted f) f.shown f.rap n
      (y.outcome f)) := exec_frameDecoded_ends busy opens within ready parses
    refine ⟨fun pic out whole found => ?_, fun pic dm out damaged shown bad => ?_, fun idle => ?_⟩
    · have clean : y.noted f = none := by simp [StreamCtx.noted, out, whole, found]
      rw [clean, out] at does
      refine ⟨fun shown => ?_, fun hidden => ?_⟩
      · rwa [shown, State.endFrame_delivers] at does
      · rwa [hidden, State.endFrame_hides] at does
    · have entered : y.noted f = some dm := by
        have spoilt : (f.lost || f.damage.isSome || (y.outcome f).isNone) = true := by
          rcases bad with lost | damage
          · rw [lost, Bool.true_or, Bool.true_or]
          · rw [Option.isSome_iff_ne_none.mpr damage, Bool.or_true, Bool.true_or]
        rw [StreamCtx.noted, if_pos spoilt, StreamCtx.damageOf, out, Option.bind_some, damaged]
      rwa [entered, out, shown, State.endFrame_conceals] at does
    · obtain ⟨ctxs, decs, runs, now⟩ : (∀ k, u.ctx k = s.ctx k) ∧ (∀ k, u.dec k = s.dec k) ∧ u.video.runs = s.video.runs ∧
        u.nowUs = s.nowUs := s.frameSeen_congr e n
      obtain ⟨⟨dropped, prod, total, last, store, ctx, shows⟩, frames, -⟩ := State.endFrame_said (s := u) (runs.trans idle) k e.val y.next 4
        (k + 512 * y.gen.toNat) (y.noted f) f.shown f.rap n (y.outcome f)
      refine ⟨_, does, frames.trans (congrArg (fun (d : Engine) => d.frames + 1) (decs _)), ?_⟩
      intro z
      have form : z = { (({ y with dropped := dropped, errProd := prod } : StreamCtx).counted (s.nowUs - v.startUs) f.shown f.rap
          (f.lost || f.damage.isSome || (y.outcome f).isNone) n total) with last := last, store := store } := by
        refine ctx.trans ?_
        rw [ctxs, decs, now, y.noted_isSome f]
      rw [form]
      refine ⟨opens, rfl, rfl, rfl, rfl, rfl, rfl, fun pic out shown => shows shown pic out, fun rap new => ?_⟩
      exact if_pos (by rw [rap, new]; rfl)
  case advances =>
    intro y b y' opens
    have does := exec_bitstreamProducerAdvance (x := x) opens
    exact ⟨does, fun idle => ⟨_, does, State.advance_said idle _ _⟩⟩
  case givesUp =>
    intro v k y gaveUp
    refine ⟨fun idle => exec_decodeAbandon_idle idle blocks, fun busy => ⟨fun due => ⟨exec_decodeAbandon busy due blocks, fun idle => ?_⟩,
      exec_decodeHang busy blocks, fun idle => ?_⟩⟩
    · obtain ⟨frames, told, said⟩ := State.abandon_said idle e.val blocks.toNat
      exact ⟨_, exec_decodeAbandon busy due blocks, frames, told.trans (List.append_nil s.flt.inFlight).symm, said⟩
    · obtain ⟨frames, told, said⟩ := State.abandon_said_of_video
        (t := s.report 0x19 (subjDec e.val) (subjDec e.val) 0xFFFFFFFF#32 0) (s := s) rfl idle e.val blocks.toNat
      exact ⟨_, exec_decodeHang busy blocks, frames, told, said⟩

end Sys2Proof.Machine
end
